-- ==== Sys2Proof/Word.lean ====
section
/-! DEFINITION. The word types of the KX9612: a dictionary scalar is held as a 64-bit word (the widest type of
Table 17.1 that has a fixed size); a byte of a table window, a frame or a message is 8 bits. -/

namespace Sys2Proof

/-- A dictionary scalar. Narrower objects use the low bits (R424). -/
abbrev Word := BitVec 64

/-- One byte of a window, frame, key or message. -/
abbrev Byte := BitVec 8

/-- The route entry of Table 4.1 is 144 bits wide. -/
abbrev EntryWord := BitVec 144

end Sys2Proof
end

