-- ==== Sys2Proof/Syntax.lean ====
section
/-! DEFINITION. The commands of the KX9612 as a block: one constructor per row of the table of operations and events
(opcode_table.json). Every command carries first `dt`, the ns of local time that pass between the command before it and
itself; the rest are what the outside supplies (an address, a value, a measured result). `sess` is a session number of
Table 17.2. -/

namespace Sys2Proof

/-- The operations a coupling request can carry (Table 2.1). -/
inductive CouplingOp
  | read | write | lookup | cell | round | command
  deriving DecidableEq, Repr

/-- A rail's readings over PMBus (R355): its enable number, whether the transactions ended well, VOUT_MODE, READ_VOUT in mV, READ_IOUT
in mA, READ_TEMPERATURE_1 in 0.1 °C (two's complement). -/
structure PmbusRead where
  rail : Nat
  ok : Bool
  mode : Nat
  vout : Nat
  iout : Nat
  temp : Nat
  deriving DecidableEq, Repr

/-- Uncorrectable errors that the reads of a command meet (R78, R117, R254): in the `i`-th cell of the frame concerned (0 cell, 1 link,
2 descriptor), in slots of the route store (with whether SECDED or parity shows them), in rules of the firewall (rule of half h as
h × 16,384 + n, with whether the action word reads Valid 0). -/
structure ReadErrs where
  cell : Option (Nat × Fin 3)
  slots : List (Nat × Bool)
  rules : List (Nat × Bool)
  deriving DecidableEq, Repr

/-- The commands. -/
inductive Instr
  /-- R10: A write of a dictionary object that has no row of its own sets the value after the access, reserved-bit,
    range and role checks. -/
  | dictionaryWrite (dt : Nat) (sess idx sub off : Nat) (data : List Byte)
  /-- R27: At the end of each measurement window every fabric carriage computes its capacity, offered load and
    headroom, and the whole-fabric minimum is updated. -/
  | headroomWindowEnd (dt : Nat) (meas : List (Nat × Nat × Nat))
  /-- R27: A write of 1 to 0x2010:04 sets the minimum headroom of every carriage to 0xFFFF. -/
  | resetMinima (dt : Nat) (sess : Nat)
  /-- R35: A write of 1 to 0xF010:01 clears the probe results and marks the next matching frame for step timing. -/
  | latencyProbeArm (dt : Nat) (sess : Nat)
  /-- R505: At each whole second of device time every per-second cap and count restarts. -/
  | wholeSecondStart (dt : Nat)
  /-- R36: A request arrives on a coupling with the requester's number, epoch and tag, and is accepted, held or
    answered carriage-absent. -/
  | couplingRequest (dt : Nat) (requester target : Fin 47) (tag : Byte) (op : CouplingOp)
  /-- R39: An acknowledge reaches its requester and is delivered only if its requester epoch is current. -/
  | couplingAcknowledge (dt : Nat) (requester responder : Fin 47) (tag : Byte) (status : Fin 4)
  /-- R54: Carriage command action 0 resets a carriage inside a drain-and-fence sequence. -/
  | carriageReset (dt : Nat) (sess : Nat) (n : Fin 47)
  /-- R54: Carriage command action 1 drains, fences and powers down a carriage. -/
  | carriagePowerDown (dt : Nat) (sess : Nat) (n : Fin 47)
  /-- R54: Carriage command action 2 powers up a POWERED_DOWN carriage, self-tests it and returns it to PRESENT. -/
  | carriagePowerUp (dt : Nat) (sess : Nat) (n : Fin 47)
  /-- R54: Carriage command action 3 runs logic and memory BIST on a carriage according to its state. -/
  | carriageSelfTest (dt : Nat) (sess : Nat) (n : Fin 47)
  /-- R57: Carriage command action 4 swaps a unit or cell bank for its spare. -/
  | swapToSpare (dt : Nat) (sess : Nat) (n : Fin 47) (unit : Fin 16)
  /-- R61: Carriage command action 5 runs a trial placement and, if every entry fits, shunts the bank's entries out
    and retires it. -/
  | retireRouteBank (dt : Nat) (sess : Nat) (n : Fin 47)
  /-- R62: Carriage command action 6 self-tests a RETIRED route bank and returns it empty to PRESENT. -/
  | returnRouteBank (dt : Nat) (sess : Nat) (n : Fin 47)
  /-- R46: When no accepted request remains, the carriage is fenced, stale acknowledges are purged and event 0x0030 is
    raised. -/
  | drainComplete (dt : Nat) (n : Fin 47)
  /-- R46: When the drain limit passes, the remaining requests are answered carriage-absent and the carriage is
    fenced. -/
  | drainLimitExpiry (dt : Nat) (n : Fin 47)
  /-- R48: When the action after the fence ends, the carriage takes its next epoch, its couplings open and event
    0x0031 is raised. -/
  | carriageActionEnd (dt : Nat) (n : Fin 47) (pass : Bool) (failed : List Nat)
  /-- R53: A swap or an alarm-started sequence that waited for a place in the carriage controller starts when a place
    frees. -/
  | queuedSequenceStart (dt : Nat)
  /-- R78: A single-bit SECDED error is corrected and counted in the carriage count and in the unit's swap count. -/
  | correctedError (dt : Nat) (n : Fin 47) (unit : Fin 18)
  /-- R57: Every 60 s each unit's corrected-error count falls by 1, down to 0. -/
  | errorCountDecay (dt : Nat)
  /-- R58: When the copy of a cell bank into the spare ends, the old bank is fenced and left FAILED, and the spare
    becomes PRESENT. -/
  | cellBankCopyEnd (dt : Nat) (n : Fin 47)
  /-- R60: When the channel state has been copied into the spare controller, the crossbar moves the pins and the spare
    integrates. -/
  | edgeSwapCopyEnd (dt : Nat) (n : Fin 47) (unit : Fin 16)
  /-- R60: The spare controller integrates with the bus, and event 0x0032 is raised. -/
  | edgeSwapIntegrated (dt : Nat) (n : Fin 47) (unit : Fin 16)
  /-- R61: When the shunt of a retiring bank ends, the bank is drained, fenced and left RETIRED, and event 0x0035 is
    raised. -/
  | retirementShuntEnd (dt : Nat) (n : Fin 47)
  /-- R63: At each scheduled slot the next eligible idle unit is tested, or is skipped and counted. -/
  | selfTestSlot (dt : Nat)
  /-- R50: An in-service self-test ends, event 0x0034 is raised, and a failing unit is marked FAILED. -/
  | selfTestEnd (dt : Nat) (pass : Bool)
  /-- R66: A producer writes an item into a falling-forward queue. -/
  | queueItemWrite (dt : Nat) (port : Fin 160) (item : BitVec 36) (errs : ReadErrs)
  /-- R69: A direct read of a delivery queue head returns the stage 0 item and pops it, or returns not-valid. -/
  | queuePop (dt : Nat) (port : Fin 160)
  /-- R125: A frame ends on an Ethernet port and is checked for length, FCS and PCS errors, then released, discarded
    or ended bad. -/
  | ethernetFrameEnd (dt : Nat) (port : Fin 44) (tail : List Byte) (domain : Fin 64) (cls : Fin 8) (ago : Nat) (node : Byte) (pcsError : Bool) (errs : ReadErrs)
  /-- R71: A frame is released to lookup and egress once its complete cells reach the effective threshold and the
    reserve allows it. -/
  | cutThroughRelease (dt : Nat) (port : Fin 160) (errs : ReadErrs)
  /-- R75: A write of 1 to 0x2064:02 discards the unreleased or unread frames of the named ingress or delivery queue.
    -/
  | queueFlush (dt : Nat) (sess port : Nat) (delivery : Bool)
  /-- R76: A flush that waited for the frame being written, or being read, takes effect at that frame's End. -/
  | flushDeferredEffect (dt : Nat)
  /-- R82: The egress groups sweep every queued frame and waiting copy and discard those past their age limit. -/
  | ageSweep (dt : Nat) (group : Fin 2)
  /-- R86: A port that becomes ready takes its waiting multicast copies, oldest first, before later frames. -/
  | waitingCopyTaken (dt : Nat) (port : Fin 160)
  /-- R89: A write of 1 to 0x2060:08 sets the least free count to the present free count. -/
  | resetLeastFree (dt : Nat) (sess : Nat)
  /-- R104: Entry command operation 0 returns the stored entry that matches the key. -/
  | entryReadByKey (dt : Nat) (sess : Nat) (entry : BitVec 142) (errs : ReadErrs)
  /-- R106: Entry command operation 1 inserts or replaces an entry, searching for a shunt chain when both buckets are
    full. -/
  | entryInsert (dt : Nat) (sess : Nat) (entry : BitVec 142) (errs : ReadErrs)
  /-- R104: Entry command operation 2 deletes the entry that matches the key. -/
  | entryDelete (dt : Nat) (sess : Nat) (entry : BitVec 142) (errs : ReadErrs)
  /-- R104: Entry command operation 3 returns the named slot whatever its Valid bit. -/
  | entryReadBySlot (dt : Nat) (sess : Nat) (bank : Fin 8) (bucket : Fin 8192) (way : Fin 4) (errs : ReadErrs)
  /-- R107: Once earlier lookups have completed, a shunt move clears its source slot and the chain proceeds. -/
  | shuntMove (dt : Nat)
  /-- R112: The sequencer takes a queued learning request and inserts, refreshes or moves the learned entry. -/
  | learningRequest (dt : Nat) (group : Fin 2) (errs : ReadErrs)
  /-- R114: A write of 1 to sub 07 of a learning object empties its excess log. -/
  | clearLog (dt : Nat) (sess : Nat) (port : Fin 44)
  /-- R115: The scanner visits a slot, clearing Fresh or removing an entry that was not hit. -/
  | ageingScanVisit (dt : Nat) (bank : Fin 8) (bucket : Fin 8192) (way : Fin 4) (typ : Fin 5) (errs : ReadErrs)
  /-- R122: A write that changes a port's mode completes the frame in transmission, takes the link down and applies
    the new mode. -/
  | portModeWrite (dt : Nat) (sess : Nat) (port : Fin 44) (value : BitVec 32)
  /-- R122: A port's link comes up, and event 0x0060 is raised. -/
  | linkUp (dt : Nat) (port : Fin 44)
  /-- R123: A port's link goes down, cutting off the frames in transmission and reception. -/
  | linkDown (dt : Nat) (port : Fin 44)
  /-- R72: A write of the configured cut-through threshold may clear Adapted and reset the adapted value. -/
  | thresholdWrite (dt : Nat) (sess : Nat) (port : Fin 44) (value : BitVec 32)
  /-- R211: When a port can start a frame, the traffic manager selects the next eligible frame. -/
  | egressSelect (dt : Nat) (port : Fin 160) (errs : ReadErrs)
  /-- R131: The next data item misses the egress MAC, the frame is stomped and the ingress threshold may be raised. -/
  | transmitUnderrun (dt : Nat) (port : Fin 44)
  /-- R132: After 65,536 consecutive frames without an underrun, the adapted threshold falls by 1. -/
  | thresholdDecay (dt : Nat) (port : Fin 44)
  /-- R133: Forced store-and-forward ends 100 ms after the last repair event. -/
  | forcedSafEnd (dt : Nat)
  /-- R134: A received IEEE 802.3 pause stops or resumes the start of new frames. -/
  | pauseReceived (dt : Nat) (port : Fin 44) (quanta : BitVec 16)
  /-- R134: A received PFC frame stops or resumes each class that it names. -/
  | pfcReceived (dt : Nat) (port : Fin 44) (classes : Byte) (quanta : List Nat)
  /-- R134: A received pause time of q × 512 bit times ends, and transmission resumes. -/
  | pauseExpiry (dt : Nat) (port : Fin 44) (cls : Fin 9)
  /-- R136: A stop longer than the watchdog limit resumes transmission and starts the hold-off. -/
  | pauseWatchdogTrip (dt : Nat) (port : Fin 44) (cls : Fin 9)
  /-- R136: The hold-off ends, and the port obeys pause or PFC again. -/
  | holdOffEnd (dt : Nat) (port : Fin 44) (cls : Fin 9)
  /-- R135: The receive buffer crossing 75 % or 25 % makes the port send a pause on or a pause off. -/
  | receiveBufferThreshold (dt : Nat) (port : Fin 44) (fill : Nat)
  /-- R135: While the buffer stays at or above 75 %, the pause is repeated every 32,768 × 512 bit times. -/
  | pauseRepeat (dt : Nat) (port : Fin 44)
  /-- R138: As coordinator, the device sends a BEACON at the start of each PLCA cycle. -/
  | beaconSend (dt : Nat) (port : Fin 44)
  /-- R138: A received BEACON is counted, or flagged as a conflict when the device is coordinator. -/
  | beaconReceived (dt : Nat) (port : Fin 44)
  /-- R139: A follower without a BEACON for 4,000 bit times falls back to CSMA/CD. -/
  | beaconTimeout (dt : Nat) (port : Fin 44)
  /-- R139: A collision under CSMA/CD is counted, and the frame is discarded after 16 attempts. -/
  | collision (dt : Nat) (port : Fin 44) (bitTimes : Nat)
  /-- R140: Receive activity longer than the jabber bound is discarded and counted. -/
  | jabber (dt : Nat) (port : Fin 44)
  /-- R140: Activity without a valid start-of-stream delimiter is counted as noise. -/
  | noise (dt : Nat) (port : Fin 44)
  /-- R145: A write of 1 to 0x9000:06 latches the counters and queue observations of the selected ports at one
    instant. -/
  | snapshot (dt : Nat) (sess : Nat)
  /-- R150: A write that changes a channel's mode ends the current frame, drives TXD recessive and applies the new
    mode. -/
  | channelModeWrite (dt : Nat) (sess : Nat) (chan : Fin 96) (value : BitVec 32) (receiving : Bool)
  /-- R150: A channel integrates with its bus after 11 recessive bits or the next break field. -/
  | channelIntegrated (dt : Nat) (chan : Fin 96)
  /-- R156: A received CAN, CAN FD, CAN XL or LIN frame becomes valid and enters the ingress queue with its stamp and
    Meta item. -/
  | canFrameValid (dt : Nat) (chan : Fin 96) (bytes : List Byte) (domain : Fin 64) (cls : Fin 8) (ago : Nat) (errs : ReadErrs)
  /-- R161: A write of 0x4005:04 locks a receive buffer, or releases it and swaps in its shadow. -/
  | bufferLock (dt : Nat) (sess : Nat) (chan : Fin 96) (value : BitVec 32)
  /-- R157: A frame offered to arbitration is sent, and the next candidate is chosen. -/
  | canFrameSent (dt : Nat) (chan : Fin 72) (loop : Nat)
  /-- R159: A frame that lost arbitration is retried at the next opportunity, except in an exclusive window. -/
  | arbitrationLost (dt : Nat) (chan : Fin 72)
  /-- R166: A bit, stuff, form, ACK or CRC error updates TEC or REC, sends an error flag and retries. -/
  | canBusError (dt : Nat) (chan : Fin 72) (kind : Fin 6) (sending exempt : Bool) (eights : Nat)
  /-- R162: A write of 0x4006:03 marks a transmit buffer pending. -/
  | transmitRequest (dt : Nat) (sess : Nat) (chan : Fin 72) (buf : Fin 32)
  /-- R162: A write of 0x4006:04 clears a pending transmit buffer. -/
  | transmitCancel (dt : Nat) (sess : Nat) (chan : Fin 72) (buf : Fin 32)
  /-- R164: A write of 1 to 0x4004:02 starts bus-off recovery. -/
  | busOffRecover (dt : Nat) (sess : Nat) (chan : Fin 72)
  /-- R164: After 128 runs of 11 recessive bits the channel becomes error-active, and event 0x0072 is raised. -/
  | busOffRecovered (dt : Nat) (chan : Fin 72)
  /-- R168: A schedule-matrix window begins and serves its reference, exclusive, arbitrating or free candidates. -/
  | columnStart (dt : Nat) (chan : Fin 72)
  /-- R171: A received reference message synchronises the schedule and may make the device yield mastership. -/
  | referenceMessageReceived (dt : Nat) (chan : Fin 72) (prio : Fin 8) (cycle : Fin 64) (ago : Nat)
  /-- R171: When the current time master falls silent, the highest-priority potential master takes over. -/
  | masterTimeout (dt : Nat) (chan : Fin 72)
  /-- R173: A LIN commander starts its next schedule slot and sends its header. -/
  | linSlotStart (dt : Nat) (lin : Fin 24)
  /-- R173: A subscribed response that does not arrive within 1.4 times the nominal frame time is counted. -/
  | linResponseTimeout (dt : Nat) (lin : Fin 24)
  /-- R176: A write of the table selection switches the schedule table at the end of the current slot. -/
  | linTableSwitch (dt : Nat) (sess : Nat) (lin : Fin 24) (value : BitVec 32)
  /-- R174: A LIN responder takes a break and sync field, then publishes or subscribes. -/
  | linHeaderReceived (dt : Nat) (lin : Fin 24) (pid : Byte) (breakBits syncClocks : Nat)
  /-- R175: A LIN response is received and checked for its checksum. -/
  | linFrameReceived (dt : Nat) (lin : Fin 24) (pid : Byte) (data : List Byte) (checksum : Byte) (framing : Bool) (domain : Fin 64) (cls : Fin 8) (ago : Nat) (errs : ReadErrs)
  /-- R366: A LIN responder without bus activity for 4 s takes its Listen levels. -/
  | linInactivityTimeout (dt : Nat) (lin : Fin 24)
  /-- R187: An engine takes a job from its queue and runs its extraction and packing passes. -/
  | gatewayJob (dt : Nat) (engine : Fin 4)
  /-- R189: At each 100 µs multiple of device time the timer wheel serves the timers due. -/
  | timerWheelTick (dt : Nat)
  /-- R190: A target's transmission timer expires, and the target is built by its mode. -/
  | transmissionTimer (dt : Nat) (rec_ : Fin 65536)
  /-- R192: A source without an arrival within its deadline has defaults substituted, and event 0x0080 is raised. -/
  | deadlineTimeout (dt : Nat) (rec_ : Fin 65536)
  /-- R180: The timers of a fenced engine pass to the engine that takes its jobs. -/
  | timerHandover (dt : Nat) (engine : Fin 4)
  /-- R203: A write of 0x5600:01 from 0 to 1 loads the current images and starts the timers. -/
  | gatewayEnable (dt : Nat) (sess : Nat)
  /-- R183: A PDU record is written atomically, and its current image is reloaded if its offset or length changed. -/
  | pduRecordWrite (dt : Nat) (sess : Nat) (rec_ : Fin 65536) (bytes : List Byte)
  /-- R199: An open container is sent when its flush time has passed since its first entry. -/
  | containerFlushTimer (dt : Nat) (stream : Fin 256)
  /-- R201: A frame at port 45 without a handle is opened as a container and its entries are looked up. -/
  | containerReceived (dt : Nat)
  /-- R217: A write of 1 to 0x6004:07 computes the change instant T for the admin gate list. -/
  | gateChange (dt : Nat) (sess : Nat) (port : Fin 28)
  /-- R217: At T the admin list, cycle and enable become the operational ones, and event 0x0093 is raised. -/
  | gateListChange (dt : Nat) (port : Fin 28)
  /-- R216: The next entry of the operational gate list takes effect. -/
  | gateEntryStart (dt : Nat) (port : Fin 28)
  /-- R221: The preemption verify time passes, and verification is retried or declared failed. -/
  | verifyTimer (dt : Nat) (port : Fin 28)
  /-- R227: After a handle's reset time with no passing frame, the next frame passes and the history restarts. -/
  | frerResetTimer (dt : Nat) (handle : Fin 1024)
  /-- R228: Each queue's depth and head sojourn are sampled into its observation record. -/
  | observationSample (dt : Nat) (port : Fin 160)
  /-- R228: A write of 1 to 0x6007:03 restarts every observation record of the port. -/
  | observationReset (dt : Nat) (sess : Nat) (port : Fin 160)
  /-- R235: A write of n to 0x6A30:04 removes the oldest n trace records. -/
  | traceRelease (dt : Nat) (sess : Nat) (n : BitVec 32)
  /-- R236: A notice is sent 1 ms after its first entry. -/
  | noticeTimer (dt : Nat)
  /-- R251: A write to the shadow rule, checker or default windows updates the shadow and marks it dirty. -/
  | shadowRuleWrite (dt : Nat) (sess : Nat) (window : Fin 3) (off : Nat) (bytes : List Byte)
  /-- R252: A write of 1 to 0x5800:03 copies the active rule set into the shadow. -/
  | copyToShadow (dt : Nat) (sess : Nat)
  /-- R252: The copy into the shadow completes, and dirty is cleared. -/
  | copyToShadowDone (dt : Nat)
  /-- R253: A write of 1 to 0x5800:02 swaps the firewall halves between lookups and raises event 0x00A1. -/
  | swap (dt : Nat) (sess : Nat)
  /-- R254: While lookups are rare, the active half reads every rule at least once in every 10 ms. -/
  | ruleScrub (dt : Nat) (errs : ReadErrs)
  /-- R272: A held frame's authenticator check completes, and the frame passes to metering or is refused with reason
    3. -/
  | authenticatorVerifyDone (dt : Nat) (cluster : Fin 5) (engine : Fin 16) (ctxError : Bool)
  /-- R258: A cipher operation ends, and its output is released, or zeroed on failure. -/
  | cryptoOperationEnd (dt : Nat) (cluster : Fin 5) (engine : Fin 16) (ctxError : Bool)
  /-- R259: An engine resumes a suspended operation when no urgent operation waits. -/
  | suspendedResume (dt : Nat) (cluster : Fin 5) (engine : Fin 16)
  /-- R262: A cluster front end completes a working-key derivation, and waiting operations proceed. -/
  | keyDerivationDone (dt : Nat) (cluster : Fin 5)
  /-- R274: Every 60 s each verifying authenticator's L is committed to the ledger. -/
  | freshnessCommit (dt : Nat)
  /-- R285: Key action 1 defines a derived configured key with a parent and label. -/
  | keyDefine (dt : Nat) (sess : Nat) (h : BitVec 16) (kind : Fin 3) (wide : Bool) (parent : BitVec 16) (label : List Byte)
  /-- R284: Key action 2 fills an empty configured handle with a DRBG value. -/
  | keyGenerate (dt : Nat) (sess : Nat) (h : BitVec 16) (kind : Fin 3) (wide : Bool)
  /-- R297: Key action 3 checks an import blob and seals the key into its handle. -/
  | keyImport (dt : Nat) (sess : Nat) (h : BitVec 16) (blob : List Byte)
  /-- R285: Key action 4 gives a generated key a new DRBG value and the next generation. -/
  | keyRotate (dt : Nat) (sess : Nat) (h : BitVec 16)
  /-- R286: Key action 5 revokes a handle and every key derived from it. -/
  | keyRevoke (dt : Nat) (sess : Nat) (h : BitVec 16)
  /-- R285: Key action 6 empties a revoked configured handle and keeps its import counter. -/
  | keyDelete (dt : Nat) (sess : Nat) (h : BitVec 16)
  /-- R293: Key action 7 reseals every sealed pair under the successor epoch key and opens a migration. -/
  | keyReseal (dt : Nat) (sess : Nat)
  /-- R293: Key action 8 keeps the slot that the epoch key in force unseals, and closes the migration. -/
  | closeMigration (dt : Nat) (sess : Nat)
  /-- R288: A DRBG health test fails, output stops and the entropy sensor trips. -/
  | entropyHealthFail (dt : Nat) (ok : Bool)
  /-- R298: A write of 1 to 0x8020:03 makes the warden sign a statement. -/
  | attestation (dt : Nat) (sess : Nat) (h : BitVec 16) (kind : Fin 16) (nonce : List Byte)
  /-- R303: A write of 0x8000:02 runs a life-cycle transition, or raises MELT if it is illegal. -/
  | lifeCycleRequest (dt : Nat) (sess : Nat) (target : Fin 8)
  /-- R304: A security sensor trips and is graded TARNISH, QUENCH or MELT. -/
  | sensorTrip (dt : Nat) (sensor : Fin 9) (cars : List (Fin 47)) (sess : Nat)
  /-- R308: A write of 1 to 0x8030:04 ends the frozen state by restarting the device. -/
  | thaw (dt : Nat) (sess : Nat)
  /-- R313: Configuration action 1 builds a signed export image in 0x8051. -/
  | configExport (dt : Nat) (sess : Nat)
  /-- R312: Configuration action 2 checks an image and applies its body as one transaction. -/
  | configImport (dt : Nat) (sess : Nat)
  /-- R312: Configuration action 3 checks an image without applying it. -/
  | configCheckOnly (dt : Nat) (sess : Nat)
  /-- R356: A brown-out warning stops new ledger writes, makes commands busy and raises event 0x00C6. -/
  | brownOutWarning (dt : Nat)
  /-- R356: The warning ends when every cause has been clear for 1 ms. -/
  | brownOutClear (dt : Nat)
  /-- R317: A write of 1 to 0x7001:01 captures device time and the step count at one cycle. -/
  | timeCapture (dt : Nat) (sess : Nat)
  /-- R319: A write of 1 to 0x7010:03 applies the rate, and steps or slews the offset according to the time state. -/
  | timeApply (dt : Nat) (sess : Nat) (offset : BitVec 64) (rate : BitVec 32)
  /-- R319: The remaining slew reaches 0, the state becomes LOCKED, and event 0x00D3 is raised. -/
  | slewEnd (dt : Nat)
  /-- R320: A write of 1 to 0x7000:07 makes the time state FREE and ends any slew. -/
  | declareLoss (dt : Nat) (sess : Nat)
  /-- R320: With no apply for the holdover limit, the time state becomes HOLDOVER. -/
  | holdoverTimeout (dt : Nat)
  /-- R320: After the loss limit in HOLDOVER, the time state becomes FREE. -/
  | lossTimeout (dt : Nat)
  /-- R327: A write that enables a pulse output arms it, or refuses a once pulse starting too soon. -/
  | pulseEnable (dt : Nat) (sess : Nat) (n : Fin 16) (value : BitVec 32)
  /-- R327: A pulse output drives its edge at the programmed device time. -/
  | pulseEdge (dt : Nat) (n : Fin 16)
  /-- R329: A trigger output drives an edge at each period of device time or of its local counter. -/
  | triggerEdge (dt : Nat) (n : Fin 8)
  /-- R331: While LOCKED, device time is written into the calendar each hour of device time, or at once while the
    calendar is not valid. -/
  | calendarWrite (dt : Nat)
  /-- R332: VBKP rising into its range marks the calendar not valid. -/
  | vbkpRise (dt : Nat)
  /-- R333: The lifetime ledger record is committed every 600 s. -/
  | lifetimeCommit (dt : Nat)
  /-- R333: A write of 1 to 0x7401:02 commits the lifetime ledger record. -/
  | commitNow (dt : Nat) (sess : Nat)
  /-- R334: A junction reaching 80 °C after being at 20 °C or less counts a thermal cycle. -/
  | thermalCycle (dt : Nat) (temp : Int)
  /-- R338: An IOSC qualification window ends and qualifies IOSC, or marks it failed. -/
  | ioscWindow (dt : Nat) (count : Fin 2048)
  /-- R338: Once every second, a failed IOSC is restarted and requalified. -/
  | ioscRequalify (dt : Nat)
  /-- R339: An XTAL qualification window ends and qualifies XTAL, or detects a drift. -/
  | xtalWindow (dt : Nat) (count : Fin 512)
  /-- R342: A write of 0x2002:02 switches the references between automatic and IOSC. -/
  | referenceSelect (dt : Nat) (sess : Nat) (value : BitVec 32)
  /-- R341: A write of a clock enable for the present mode stops or starts that clock at once. -/
  | clockEnableWrite (dt : Nat) (sess : Nat) (clock : Fin 10) (value : Byte)
  /-- R343: A loss-of-clock monitor trips, forcing safe states and holding the affected domains in reset. -/
  | lossOfClock (dt : Nat) (clock : Fin 10)
  /-- R343: The PLLs lock on the new reference, and the domains are released from reset. -/
  | pllLocked (dt : Nat) (clock : Fin 10)
  /-- R346: With IOSC not qualified within 200 µs of an XTAL stop, the device enters STANDSTILL. -/
  | fallbackTimeout (dt : Nat)
  /-- R348: The AOSC monitor trips, the device drives FAULT_N low, forces safe states and stops. -/
  | aoscFailure (dt : Nat)
  /-- R381: Power command 1 powers down carriages 0–40 and enters SLEEP. -/
  | sleepCommand (dt : Nat) (sess : Nat)
  /-- R377: Power command 2 starts the sleep sequence. -/
  | deepSleepCommand (dt : Nat) (sess : Nat)
  /-- R351: Power command 3 commits, powers down every carriage, drops the enables and releases PHOLD. -/
  | offCommand (dt : Nat) (sess : Nat)
  /-- R350: Power command 4 returns the device from SLEEP to RUN. -/
  | runCommand (dt : Nat) (sess : Nat)
  /-- R351: If VAON is still present 100 ms after PHOLD is released, the device enters DEEP_SLEEP. -/
  | pholdReleaseTimeout (dt : Nat)
  /-- R352: A rail's supply-good rises, and the power manager starts the next step of the sequence. -/
  | supplyGoodRise (dt : Nat) (pg : Fin 8)
  /-- R352: A supply-good that does not rise within its timeout drops the enables and retries, or leaves them low
    after three failures. -/
  | sequencingTimeout (dt : Nat)
  /-- R352: 100 ms after a sequencing failure, the regulator sequence starts again. -/
  | sequenceRetry (dt : Nat)
  /-- R354: A supply-good input that falls for more than 10 µs is a supply fault handled by its rail. -/
  | supplyGoodLost (dt : Nat) (pg : Fin 8) (ns : Nat)
  /-- R355: Every 10 ms the telemetry of each PMBus rail is read. -/
  | pmbusPoll (dt : Nat) (l : List PmbusRead)
  /-- R355: PMB_ALERT_N makes the device read STATUS_WORD, and a set fault bit is a supply fault. -/
  | pmbusAlert (dt : Nat) (rail : Fin 8) (status : BitVec 16)
  /-- R357: VFAB below 0.63 V warns, fences carriages 0–31 and cycles the VFAB rail. -/
  | vfabFault (dt : Nat)
  /-- R357: VFAB back in range for 1 ms returns the carriages, and otherwise STANDSTILL follows after 10 ms. -/
  | vfabRecoveryTimeout (dt : Nat) (back : Bool)
  /-- R363: A complete wake pattern on a listening C channel latches a wake. -/
  | canWakePattern (dt : Nat) (c : Fin 72) (dom1 rec_ dom2 : Nat)
  /-- R363: A partial wake pattern not completed within the timeout is discarded. -/
  | wakePatternTimeout (dt : Nat) (c : Fin 72)
  /-- R364: A decoded classical frame that matches the wake filter latches a wake. -/
  | wakeFrame (dt : Nat) (c : Fin 72) (bytes : List Byte)
  /-- R366: A dominant level of 150 µs or more on a listening L channel latches a wake. -/
  | linDominantWake (dt : Nat) (l : Fin 24) (ns : Nat)
  /-- R367: Activity on a T1S segment for its activity time latches a wake. -/
  | t1sActivityWake (dt : Nat) (k : Fin 16) (ns : Nat)
  /-- R368: A WAKE pin edge held for its filter time latches a wake. -/
  | wakePinEdge (dt : Nat) (pin : Fin 8) (level : Bool) (ns : Nat)
  /-- R373: A keep-alive from a domain member restarts the domain timer and may return it to READY. -/
  | keepAliveReceived (dt : Nat) (d : Fin 64) (port : Fin 160) (bytes : List Byte)
  /-- R372: The keep-alive timer reaching the timeout moves the domain from READY to PREPARE. -/
  | keepAliveTimeout (dt : Nat) (d : Fin 64)
  /-- R372: The prepare time passing without a keep-alive moves the domain to ASLEEP. -/
  | prepareTimeout (dt : Nat) (d : Fin 64)
  /-- R374: In AWAKE, the keep-alive templates are sent to every member each send period. -/
  | sendPeriod (dt : Nat) (d : Fin 64)
  /-- R372: With the local request clear and the wake hold passed, the domain moves from AWAKE to READY. -/
  | wakeHoldExpiry (dt : Nat) (d : Fin 64)
  /-- R372: A domain record write that sets the local request moves the domain to AWAKE. -/
  | localRequest (dt : Nat) (sess : Nat) (d : Fin 64)
  /-- R377: With every NM domain ASLEEP and no local wake pending, the device starts the sleep sequence. -/
  | sleepSequenceStart (dt : Nat)
  /-- R378: Once quiescing ends, carriages 43–46 are powered down and the enables fall. -/
  | sleepQuiesceDone (dt : Nat)
  /-- R385: A comparator mismatch stops both cores, fences the pair and restarts it. -/
  | lockstepMismatch (dt : Nat) (pair : Fin 3) (channel : Fin 5)
  /-- R386: A power-sequencer mismatch restarts its cores from ROM, keeping the power manager's registers. -/
  | sequencerMismatch (dt : Nat) (channel : Fin 5)
  /-- R392: Firmware action 1 erases the inactive slot. -/
  | fwErase (dt : Nat) (sess : Nat)
  /-- R390: Firmware action 2 checks the inactive slot's image. -/
  | fwCheck (dt : Nat) (sess : Nat)
  /-- R393: Firmware action 3 checks, reseals and restarts the pairs on the trial slot. -/
  | fwActivate (dt : Nat) (sess : Nat) (cover : Bool)
  /-- R393: A restarted pair reaches PRESENT, and the activation proceeds or a split pair joins. -/
  | pairPresent (dt : Nat) (pair : Fin 3) (pass : Bool) (bit us : Nat) (joinPass : Bool)
  /-- R393: A pair that misses 250 ms reverts the activation. -/
  | pairStartTimeout (dt : Nat) (pair : Fin 3)
  /-- R392: Firmware action 4 closes the migration, raises the security floor and confirms the trial slot. -/
  | fwConfirm (dt : Nat) (sess : Nat)
  /-- R392: Firmware action 5 restarts the pairs on the confirmed slot and closes the migration. -/
  | fwRevert (dt : Nat) (sess : Nat) (cover : Bool)
  /-- R392: A record of the inactive firmware slot is written once after an erase. -/
  | fwSlotRecordWrite (dt : Nat) (sess : Nat) (rec_ : Fin 524288) (bytes : List Byte)
  /-- R403: PCIE_PERST_N asserted discards held reads, takes the link down and resets configuration space and rings.
    -/
  | pciePerst (dt : Nat)
  /-- R403: A Function Level Reset discards held reads and resets configuration space and rings. -/
  | functionLevelReset (dt : Nat)
  /-- R423: The PCIe link goes up or down, and event 0x0110 is raised. -/
  | pcieLinkChange (dt : Nat) (up : Bool) (speed : Fin 4) (width : Fin 3)
  /-- R406: A BAR0 read performs one dictionary read, held as a delayed read until the warden answers. -/
  | bar0Read (dt : Nat) (off : BitVec 28) (len : Nat) (tag : Fin 1024) (answered : Bool)
  /-- R407: A posted BAR0 write of one slot is applied by the warden, or recorded as a deferred error. -/
  | bar0Write (dt : Nat) (off : BitVec 28) (data : List Byte) (poisoned : Bool)
  /-- R409: A delayed read not answered within the timer completes busy and is recorded. -/
  | delayedReadTimeout (dt : Nat) (tag : Fin 1024) (late : Bool)
  /-- R411: An access through a BAR4 translation window reads or writes its target table window. -/
  | windowAccess (dt : Nat) (w : Fin 16) (off : BitVec 24) (write : Bool) (len : Nat) (tag : Fin 1024) (data : List Byte) (poisoned : Bool)
  /-- R413: A window record write takes effect once accepted accesses complete, and read-ahead is discarded. -/
  | translationWindowWrite (dt : Nat) (sess : Nat) (w : Fin 16) (bytes : List Byte)
  /-- R414: A prefetch buffer older than 10 µs is discarded. -/
  | prefetchAgeExpiry (dt : Nat) (w : Fin 16)
  /-- R416: An aligned read of H's queue window pops up to k delivery items. -/
  | queueWindowRead (dt : Nat) (off : BitVec 12) (len : Nat) (tag : Fin 1024)
  /-- R417: A doorbell write advances a ring's producer index. -/
  | doorbellWrite (dt : Nat) (ring : Fin 16) (value : BitVec 32)
  /-- R418: A host-to-part frame is read by DMA, enters H's ingress queue, and its status and consumer index are
    written. -/
  | hostDescriptorFetched (dt : Nat) (ring : Fin 8) (len : BitVec 16) (kind : Byte) (domain : Fin 64) (data : List Byte) (dmaOk : Bool)
  /-- R419: A frame for H is written into a posted buffer, and its descriptor is completed. -/
  | partToHostFrame (dt : Nat) (ring : Fin 8) (addr : BitVec 64)
  /-- R422: A held MSI-X message is sent when the coalesce delay or the 10 µs limit ends. -/
  | msixCoalesceTimer (dt : Nat) (vec : Fin 24)
  /-- R437: An SDO initiate download starts, or does in expedited form, a write transfer. -/
  | sdoInitiateDownload (dt : Nat) (c : Fin 72) (data : List Byte)
  /-- R437: An SDO download segment adds data, and the last segment applies the whole value. -/
  | sdoDownloadSegment (dt : Nat) (c : Fin 72) (data : List Byte)
  /-- R436: An SDO initiate upload starts, or does in expedited form, a read transfer. -/
  | sdoInitiateUpload (dt : Nat) (c : Fin 72) (data : List Byte)
  /-- R436: An SDO upload segment returns the next 7 bytes. -/
  | sdoUploadSegment (dt : Nat) (c : Fin 72) (data : List Byte)
  /-- R436: An SDO block download frame adds data, and its end applies the whole value. -/
  | sdoBlockDownload (dt : Nat) (c : Fin 72) (data : List Byte)
  /-- R436: An SDO block upload frame returns or acknowledges a block of data. -/
  | sdoBlockUpload (dt : Nat) (c : Fin 72) (data : List Byte)
  /-- R437: An abort frame from the client discards the running transfer. -/
  | sdoAbortReceived (dt : Nat) (c : Fin 72) (data : List Byte)
  /-- R437: The SDO timeout between frames passes, and the server aborts the transfer. -/
  | sdoTimeout (dt : Nat) (c : Fin 72)
  /-- R440: An open message is answered with a new session and session key, or refused. -/
  | dalmolyOpen (dt : Nat) (port : Fin 44) (frame : List Byte)
  /-- R441: A request of operation 1 reads an object. -/
  | dalmolyRead (dt : Nat) (port : Fin 44) (frame : List Byte)
  /-- R441: A request of operation 2 writes an object, or stages it in a group. -/
  | dalmolyWrite (dt : Nat) (port : Fin 44) (frame : List Byte)
  /-- R443: A close message ends the session, abandons its group and releases its locks. -/
  | dalmolyClose (dt : Nat) (port : Fin 44) (frame : List Byte)
  /-- R443: A session with no processed request for the idle timeout ends. -/
  | sessionIdleTimeout (dt : Nat) (n : Fin 16)
  /-- R432: A write of 1 to 0x1130:01, or operation 3, opens a transaction group. -/
  | groupBegin (dt : Nat) (sess : Nat) (via : Option (Fin 44 × List Byte))
  /-- R433: A write of 1 to 0x1130:02, or operation 4, checks, journals and applies the group. -/
  | groupCommit (dt : Nat) (sess : Nat) (via : Option (Fin 44 × List Byte))
  /-- R432: A write of 1 to 0x1130:03, or operation 5, discards the group and releases its locks. -/
  | groupAbandon (dt : Nat) (sess : Nat) (via : Option (Fin 44 × List Byte))
  /-- R429: An object lock is released when the hold time has passed since the session's last write. -/
  | lockHoldExpiry (dt : Nat) (idx : BitVec 16)
  /-- R447: 10 s after a QUENCH of an SDO or BAR0 session, its requests are served again. -/
  | quenchBlockEnd (dt : Nat) (sess : Nat)
  /-- R458: A mode 0 drawbar frame is released as if received on the drawbar, with full lookups. -/
  | drawbarLookupFrame (dt : Nat) (port : Fin 12) (bytes : List Byte) (ago : Nat)
  /-- R458: A mode 1 drawbar frame is learned and queued to its port, or sent on by the path table. -/
  | drawbarUnicastFrame (dt : Nat) (port : Fin 12) (bytes : List Byte) (ago : Nat)
  /-- R460: A mode 2 drawbar frame is delivered to the domain's flood set and passed on while Hops remain. -/
  | drawbarFloodFrame (dt : Nat) (port : Fin 12) (bytes : List Byte) (ago : Nat)
  /-- R463: A received roll call updates the heard member table, master and term. -/
  | rollCallReceived (dt : Nat) (port : Fin 12) (bytes : List Byte) (dist : Fin 8)
  /-- R469: A mode 4 drawbar frame carrying a forwarded request is accepted and processed, or discarded. -/
  | managementRequest (dt : Nat) (port : Fin 12) (bytes : List Byte)
  /-- R468: A mode 5 drawbar frame carrying an answer is passed to the requester, or discarded if late. -/
  | managementAnswer (dt : Nat) (port : Fin 12) (bytes : List Byte)
  /-- R462: Every 10 ms egress group 0 sends a roll call on both drawbars. -/
  | rollCallTimer (dt : Nat)
  /-- R463: A member not heard for 30 ms is lost, and the master is chosen again. -/
  | heardTimeout (dt : Nat) (d : Fin 8)
  /-- R463: A higher-ranked member that stayed eligible and heard for the preempt hold displaces the master. -/
  | preemptHoldExpiry (dt : Nat)
  /-- R463: A member whose warden stayed absent beyond the grace becomes ineligible. -/
  | wardenGraceExpiry (dt : Nat)
  /-- R468: A forwarded request without an answer within the forward timeout is answered busy. -/
  | forwardTimeout (dt : Nat) (slot : Fin 32)
  /-- R465: A device that left on a number conflict rejoins once the conflict has been absent for 1 s. -/
  | conflictClear (dt : Nat)
  /-- R466: A write of 0xA001 selects a remote target device for the session. -/
  | sessionTargetWrite (dt : Nat) (sess : Nat) (value : BitVec 32)
  /-- R471: A power-on reset starts the regulator sequence, qualification, BIST and the boot ROM. -/
  | powerOnReset (dt : Nat) (vaon : Bool)
  /-- R474: A BIST group ends, failing carriages are retested or left FAILED, and the next group starts. -/
  | bistGroupEnd (dt : Nat) (res : List (Nat × Nat × Nat × Nat × Nat))
  /-- R477: The firmware measurement ends, the image is checked, keys are derived and the pairs are released. -/
  | bootMeasurementDone (dt : Nat) (station signal : Bool × Nat × Nat)
  /-- R480: Once the image is applied and every carriage is PRESENT, forwarding starts and event 0x0140 is raised. -/
  | forwardingPoint (dt : Nat)
  /-- R482: 100 ms after the forwarding point, start-up completes and cut-through is allowed. -/
  | startupComplete (dt : Nat)
  /-- R365: A frame decoded by a listening wake decoder ends with a stuff, form or CRC error, or without error, and
    the decoder error count rises or falls, waking with kind 2 at 32. -/
  | decoderError (dt : Nat) (c : Fin 72) (err : Bool)
  /-- R221: A preemption verify response is received and verification succeeds, making preemption active. -/
  | verifyResponse (dt : Nat) (port : Fin 28)
  /-- R372: A domain record write that sets NM enable moves the domain from OFF to READY. -/
  | nmEnable (dt : Nat) (sess : Nat) (d : Fin 64)
  /-- R372: A domain record write that clears the local request, with the wake hold passed, moves the domain from
    AWAKE to READY. -/
  | localRequestClear (dt : Nat) (sess : Nat) (d : Fin 64)
  /-- R287: The key store generates or unwraps an MKA SAK for the signal pair and places it under a session handle. -/
  | mkaSak (dt : Nat) (handle : Fin 512) (cak : BitVec 16) (wide : Bool) (wrapped : Option (List Byte))
  /-- R392: The erase of the inactive firmware slot ends, within 8 s, and the firmware status leaves running. -/
  | fwEraseDone (dt : Nat) (ok : Bool)
  /-- R313: A configuration export ends, within 2 s, with its image length written and event 0x00C5 raised. -/
  | configExportDone (dt : Nat)
  deriving DecidableEq, Repr

end Sys2Proof
end

