-- ==== Sys2Proof/Decode.lean ====
section
/-! DEFINITION. The words of the table of operations: no row of the table gives bits, so no word spells a command. -/

namespace Sys2Proof

/-- The command that a word of `nbits` bits spells: none, since no row of the table of operations has an encoding. -/
def decodeTableWord (_nbits _w : Nat) : Option Instr := none

end Sys2Proof
end

