-- ==== Sys2Proof/Config.lean ====
section
/-! DEFINITION. What the spec leaves open and what an individual part fixes: constants without a body, so that no proof
can see their values. Each is named in the assumption log. -/

namespace Sys2Proof.Config

/-- The n-th free value drawn in a run: DRBG output (R288) and every result the spec states no value for. DESIGN CHOICE, log entry 10. -/
opaque freeValue : Nat → BitVec 256

/-- The serial number of the part (R2); `serial` keeps it from the two values never issued. DESIGN CHOICE, log entry 25. -/
opaque serialRaw : BitVec 32

/-- The serial number, never 0x0000_0000 or 0xFFFF_FFFF (R2). -/
def serial : Nat :=
  if serialRaw = 0 ∨ serialRaw = 0xFFFFFFFF then 1 else serialRaw.toNat

/-- The first keyed hash function of the route store (R92): seed draw, and the type, domain and key bits. DESIGN CHOICE, log entry 20. -/
opaque routeHash1 : Nat → Nat → Nat

/-- The second keyed hash function of the route store (R92). DESIGN CHOICE, log entry 20. -/
opaque routeHash2 : Nat → Nat → Nat

/-- AES-CMAC of a message under a key (128 bits, NIST SP 800-38B): key length in bits, key, message. DESIGN CHOICE, log entry 21. -/
opaque cmac : Nat → Nat → List Byte → Nat

/-- AES-GCM (NIST SP 800-38D) ciphertext: key bits, key, IV, additional data, plaintext. DESIGN CHOICE, log entry 21. -/
opaque gcmCipher : Nat → Nat → List Byte → List Byte → List Byte → List Byte

/-- AES-GCM tag: key bits, key, IV, additional data, plaintext. DESIGN CHOICE, log entry 21. -/
opaque gcmTag : Nat → Nat → List Byte → List Byte → List Byte → Nat

/-- AES-GCM plaintext: key bits, key, IV, additional data, ciphertext. DESIGN CHOICE, log entry 21. -/
opaque gcmPlain : Nat → Nat → List Byte → List Byte → List Byte → List Byte

/-- AES-KW unwrapping of a key blob (NIST SP 800-38F): key, blob; none when the check fails. DESIGN CHOICE, log entry 21. -/
opaque keyUnwrap : Nat → List Byte → Option (List Byte)

/-- The key-encrypting key of a CAK by its handle, length and value (IEEE 802.1X-2020; R287 gives no inputs). Free.
DESIGN CHOICE, log entry 23. -/
opaque mkaKek : Nat → Nat → Nat → Nat

/-- SHA-384 of a byte string. DESIGN CHOICE, log entry 21. -/
opaque sha384 : List Byte → List Byte

/-- Whether a signature over a message is good under an anchor's public key (ECDSA P-384): key, message, signature.
DESIGN CHOICE, log entry 21. -/
opaque verify : List Byte → List Byte → List Byte → Bool

/-- The signature of a message under a private key of the part. DESIGN CHOICE, log entry 21. -/
opaque sign : Nat → List Byte → List Byte

/-- The P-384 public key of a private seed, 97 bytes in SEC 1 form (R283). DESIGN CHOICE, log entry 21. -/
opaque publicKey : Nat → List Byte

/-- The wrapping key of an import (R296): the import key's seed, the ephemeral key, blob bytes 0–19; none where the ephemeral
key is no point of P-384. DESIGN CHOICE, log entry 21. -/
opaque importWrapKey : Nat → List Byte → List Byte → Option Nat

/-- The secure-channel identifier and the freshness value in a CANsec header (CiA 613-2). DESIGN CHOICE, log entry 22. -/
opaque cansecHeader : List Byte → Nat × Nat

/-- A CANsec frame's data protected (CiA 613-2): key, confidentiality and channel identifier, freshness, frame header, data.
DESIGN CHOICE, log entry 22. -/
opaque cansecProtect : Nat → Nat → Nat → List Byte → List Byte → List Byte

/-- A CANsec frame's data opened (CiA 613-2): key, frame header, data; none when the tag check fails. DESIGN CHOICE, log entry 22. -/
opaque cansecOpen : Nat → List Byte → List Byte → Option (List Byte)

/-- The bytes of the life-cycle nonce before its first draw (0x8000:04, "Random"). DESIGN CHOICE, log entry 26. -/
opaque nonceByte : Nat → BitVec 8

/-- The life-cycle key of Feryn and the device CA key, held in the boot ROM (R302, R310). DESIGN CHOICE, log entry 26. -/
opaque lifeCycleKey : List Byte

/-- Whether a DIK certificate chains to the Feryn device CA key of the boot ROM, and the public key it certifies (R310).
DESIGN CHOICE, log entry 26. -/
opaque chainKey : List Byte → Option (List Byte)

/-- The firmware signing key held in the boot ROM (R390). DESIGN CHOICE, log entry 26. -/
opaque firmwareKey : List Byte

/-- Sealing of a key value under the sealing key (authenticated): sealing key, plaintext. DESIGN CHOICE, log entry 26. -/
opaque sealValue : Nat → List Byte → List Byte

/-- The device root secret of the part (fuses). DESIGN CHOICE, log entry 26. -/
opaque deviceRoot : Nat

/-- The bytes of the DIK certificate chain of the part (0x8022). DESIGN CHOICE, log entry 26. -/
opaque certificateChain : List Byte

/-- The public key of the anchor n fused or stored at manufacture (0x8052). DESIGN CHOICE, log entry 26. -/
opaque anchorByte : Nat → BitVec 8

/-- The flash space of the board holds the image regions: 32 MiB or more in total (R478). DESIGN CHOICE, log entry 26. -/
opaque storedImages : Bool

/-- The content of a never-written byte of the part's flash (R426, "Contents of the flash slot"). DESIGN CHOICE, log entry 26. -/
opaque flashByte : Nat → BitVec 8

end Sys2Proof.Config
end

