-- ==== Sys2Proof/Machine/Operands.lean ====
section
/-! DEFINITION. Bit fields, byte order, sign extension, canonical association lists: the helpers every meaning uses.
Bits are numbered from 0 at the least significant end and a field is written high:low ("Writing conventions"). -/

namespace Sys2Proof.Machine

/-- Access codes of Table 0.4 (rc is not used by the part). -/
inductive Access
  | ro | rw | wo | rs
  deriving DecidableEq, Repr

/-- The field [hi:lo] of a value. -/
def fld (v hi lo : Nat) : Nat := v / 2 ^ lo % 2 ^ (hi + 1 - lo)

/-- Bit `i` of a value as 0 or 1. -/
def bit (v i : Nat) : Nat := v / 2 ^ i % 2

/-- Bit `i` of a value as a Boolean. -/
def tb (v i : Nat) : Bool := v / 2 ^ i % 2 == 1

/-- The value with the field [hi:lo] replaced by `x` (cut to the field's width). -/
def setFld (v hi lo x : Nat) : Nat :=
  v / 2 ^ (hi + 1) * 2 ^ (hi + 1) + x % 2 ^ (hi + 1 - lo) * 2 ^ lo + v % 2 ^ lo

/-- The value with bit `i` set to `b`. -/
def setBit (v i : Nat) (b : Bool) : Nat := setFld v i i b.toNat

/-- Number of one bits among the low `n` bits. -/
def popCount : Nat → Nat → Nat
  | 0, _ => 0
  | n + 1, v => v % 2 + popCount n (v / 2)

/-- Little-endian value of a byte list (R9, dictionary values). -/
def leVal : List Byte → Nat
  | [] => 0
  | b :: bs => b.toNat + 256 * leVal bs

/-- `n` bytes of a value, least significant first (R9). -/
def leBytes : Nat → Nat → List Byte
  | 0, _ => []
  | n + 1, v => BitVec.ofNat 8 v :: leBytes n (v / 256)

/-- Most-significant-first value of a byte list (R9, Feryn's wire formats). -/
def beVal (bs : List Byte) : Nat := bs.foldl (fun a b => a * 256 + b.toNat) 0

/-- `n` bytes of a value, most significant first. -/
def beBytes (n v : Nat) : List Byte := (leBytes n v).reverse

/-- A list of `n` bytes of one value. -/
def fill (n v : Nat) : List Byte := List.replicate n (BitVec.ofNat 8 v)

/-- Byte `i` of a list, 0 beyond its end. -/
def byteAt (bs : List Byte) (i : Nat) : Nat := (bs.getD i 0).toNat

/-- Bytes `off` to `off + n - 1`, with zeros beyond the end. -/
def sliceZ (bs : List Byte) (off n : Nat) : List Byte :=
  let t := (bs.drop off).take n
  t ++ fill (n - t.length) 0

/-- `bs` with the bytes from `off` replaced by `ns` (within the length of `bs`). -/
def overlay (bs : List Byte) (off : Nat) (ns : List Byte) : List Byte :=
  bs.take off ++ ns.take (bs.length - off) ++ bs.drop (off + ns.length)

/-- Two's-complement reading of the low `w` bits. -/
def signed (w v : Nat) : Int :=
  if v % 2 ^ w < 2 ^ (w - 1) then (v % 2 ^ w : Nat) else (v % 2 ^ w : Nat) - (2 ^ w : Nat)

/-- The low `w` bits of a two's-complement integer. -/
def unsigned (w : Nat) (i : Int) : Nat := (i % (2 ^ w : Nat)).toNat

/-- Division that rounds up. -/
def ceilDiv (a b : Nat) : Nat := (a + b - 1) / b

/-! Association lists with Nat keys, strictly rising. -/

/-- The value under a key. -/
def mapGet {α : Type} : List (Nat × α) → Nat → Option α
  | [], _ => none
  | (k, v) :: r, x => if k = x then some v else if x < k then none else mapGet r x

/-- The list with a key set. -/
def mapSet {α : Type} : List (Nat × α) → Nat → α → List (Nat × α)
  | [], x, a => [(x, a)]
  | (k, v) :: r, x, a =>
    if x < k then (x, a) :: (k, v) :: r else if k = x then (x, a) :: r else (k, v) :: mapSet r x a

/-- The list without a key. -/
def mapDel {α : Type} : List (Nat × α) → Nat → List (Nat × α)
  | [], _ => []
  | (k, v) :: r, x => if k = x then r else if x < k then (k, v) :: r else (k, v) :: mapDel r x

/-- The value under a key, or the value an unlisted key reads as. -/
def mapGetD {α : Type} (m : List (Nat × α)) (x : Nat) (d : α) : α := (mapGet m x).getD d

/-- The list with a key set, where the value `d` is left unlisted. -/
def mapPut {α : Type} [DecidableEq α] (d : α) (m : List (Nat × α)) (x : Nat) (a : α) : List (Nat × α) :=
  if a = d then mapDel m x else mapSet m x a

/-- Keys strictly rising. -/
def keysRise {α : Type} : List (Nat × α) → Bool
  | [] => true
  | [_] => true
  | (k, _) :: (k', v') :: r => decide (k < k') && keysRise ((k', v') :: r)

/-- The elements whose bit is set in a mask, among `n`. -/
def maskList (n mask : Nat) : List Nat := (List.range n).filter (tb mask)

end Sys2Proof.Machine
end

