-- ==== Sys2Proof/Machine/Objects.lean ====
section
/-! DEFINITION. The object table of the Dalmoly dictionary: for every object layout of "Object Map" (R449–R455) and of
the field maps of the chapters, each subindex with its size in bytes, access code (R10), default (R426), the mask of its bits
that are not reserved (R12), and for a table window (R425) its record count and record size. A layout is the object's index
with the stride of Table 18.11 taken out; the layouts of L channels (Table 6.1) bear 0x10000 more. -/

namespace Sys2Proof.Machine

/-- One row of a field map: subindexes `lo`–`hi` of layout `lay`; `size` 0 marks a table window of `recs` × `rsz` bytes. -/
structure ObjRow where
  lay : Nat
  lo : Nat
  hi : Nat
  size : Nat
  acc : Access
  dflt : Nat
  mask : Nat
  recs : Nat
  rsz : Nat
  deriving DecidableEq, Repr

/-- Field maps of layouts 0x1000–0x1FFF, part 0. -/
def objRows1_0 : List ObjRow := [
  ⟨0x1018, 0, 0, 1, .ro, 4, 0xff, 0, 0⟩, -- Identity object 0x1018
  ⟨0x1018, 1, 1, 4, .ro, 0x7a3, 0xffffffff, 0, 0⟩,
  ⟨0x1018, 2, 2, 4, .ro, 0x9612, 0xffffffff, 0, 0⟩,
  ⟨0x1018, 3, 3, 4, .ro, 0x20000, 0xffffffff, 0, 0⟩,
  ⟨0x1018, 4, 4, 4, .ro, 0, 0xffffffff, 0, 0⟩,
  ⟨0x1030, 0, 0, 1, .ro, 2, 0xff, 0, 0⟩, -- Profile object 0x1030
  ⟨0x1030, 1, 1, 4, .ro, 0xe, 0xfe, 0, 0⟩,
  ⟨0x1030, 2, 2, 1, .ro, 3, 0xff, 0, 0⟩,
  ⟨0x1100, 0, 0, 1, .ro, 7, 0xff, 0, 0⟩, -- SDO server 0x1100
  ⟨0x1100, 1, 1, 4, .rw, 0x67f, 0x77f, 0, 0⟩,
  ⟨0x1100, 2, 2, 4, .rw, 0xffffffff, 0xffffffff, 0, 0⟩,
  ⟨0x1100, 3, 3, 4, .rw, 0xffffffff, 0xffffffff, 0, 0⟩,
  ⟨0x1100, 4, 4, 4, .rw, 0xff, 0xff, 0, 0⟩,
  ⟨0x1100, 5, 5, 4, .rw, 0x3e8, 0x3fff, 0, 0⟩,
  ⟨0x1100, 6, 6, 4, .ro, 0, 0xffffffff, 0, 0⟩,
  ⟨0x1100, 7, 7, 4, .ro, 0, 0xffffffff, 0, 0⟩,
  ⟨0x1101, 0, 0, 1, .ro, 1, 0xff, 0, 0⟩, -- SDO cursor, session-local
  ⟨0x1101, 1, 1, 4, .rw, 0, 0xffffffff, 0, 0⟩,
  ⟨0x1110, 0, 0, 1, .ro, 7, 0xff, 0, 0⟩, -- Dalmoly server 0x1110
  ⟨0x1110, 1, 1, 4, .rw, 0xa4b0, 0xffff, 0, 0⟩,
  ⟨0x1110, 2, 2, 4, .rw, 0xd001e, 0xfffff, 0, 0⟩,
  ⟨0x1110, 3, 3, 4, .rw, 0, 0xffffffff, 0, 0⟩,
  ⟨0x1110, 4, 4, 4, .ro, 0, 0xffffffff, 0, 0⟩,
  ⟨0x1110, 5, 5, 4, .ro, 0, 0xffffffff, 0, 0⟩,
  ⟨0x1110, 6, 6, 4, .ro, 0, 0x1f, 0, 0⟩,
  ⟨0x1110, 7, 7, 0, .ro, 0, 0, 16, 16⟩,
  ⟨0x1120, 0, 0, 1, .ro, 3, 0xff, 0, 0⟩, -- Locks 0x1120
  ⟨0x1120, 1, 1, 4, .rw, 0x64, 0x3fff, 0, 0⟩,
  ⟨0x1120, 2, 2, 4, .ro, 0, 0xffffffff, 0, 0⟩,
  ⟨0x1120, 3, 3, 4, .ro, 0, 0x1ff, 0, 0⟩,
  ⟨0x1130, 0, 0, 1, .ro, 6, 0xff, 0, 0⟩, -- Transaction group 0x1130, session-local
  ⟨0x1130, 1, 1, 4, .rs, 0, 1, 0, 0⟩,
  ⟨0x1130, 2, 2, 4, .rs, 0, 1, 0, 0⟩,
  ⟨0x1130, 3, 3, 4, .rs, 0, 1, 0, 0⟩,
  ⟨0x1130, 4, 4, 4, .ro, 0, 0xffffffff, 0, 0⟩,
  ⟨0x1130, 5, 5, 4, .ro, 0, 0x3fff, 0, 0⟩,
  ⟨0x1130, 6, 6, 4, .ro, 0, 0xffffff, 0, 0⟩,
  ⟨0x1200, 0, 0, 0, .ro, 0, 0, 4096, 16⟩, -- Event ring
  ⟨0x1201, 0, 0, 1, .ro, 2, 0xff, 0, 0⟩, -- Event counters
  ⟨0x1201, 1, 2, 4, .ro, 0, 0xffffffff, 0, 0⟩
  ]

/-- Field maps of layouts 0x1000–0x1FFF, part 1. -/
def objRows1_1 : List ObjRow := [
  ⟨0x1300, 0, 0, 1, .ro, 2, 0xff, 0, 0⟩, -- Deferred-error counters
  ⟨0x1300, 1, 2, 4, .ro, 0, 0xffffffff, 0, 0⟩,
  ⟨0x1301, 0, 0, 0, .ro, 0, 0, 256, 32⟩, -- Deferred-error ring
  ⟨0x1f00, 0, 0, 1, .ro, 6, 0xff, 0, 0⟩, -- Firmware control 0x1F00
  ⟨0x1f00, 1, 1, 4, .rw, 2, 0x107, 0, 0⟩,
  ⟨0x1f00, 2, 2, 4, .rs, 0, 1, 0, 0⟩,
  ⟨0x1f00, 3, 3, 4, .ro, 0, 0xffff, 0, 0⟩,
  ⟨0x1f00, 4, 4, 4, .ro, 0, 0xffffffff, 0, 0⟩,
  ⟨0x1f00, 5, 5, 4, .ro, 0, 0xffffffff, 0, 0⟩,
  ⟨0x1f00, 6, 6, 4, .ro, 0, 0xff, 0, 0⟩,
  ⟨0x1f01, 0, 0, 0, .rw, 0, 0, 524288, 16⟩ -- Inactive firmware slot
  ]

/-- Field maps of layouts 0x1000–0x1FFF. -/
def objRows1 : List ObjRow := objRows1_0 ++ objRows1_1

/-- Field maps of layouts 0x2000–0x2FFF, part 0. -/
def objRows2_0 : List ObjRow := [
  ⟨0x2001, 0, 0, 1, .ro, 7, 0xff, 0, 0⟩, -- Clock status 0x2001
  ⟨0x2001, 1, 1, 4, .ro, 0xd, 0x3f, 0, 0⟩,
  ⟨0x2001, 2, 2, 4, .ro, 0x3f, 0x3f, 0, 0⟩,
  ⟨0x2001, 3, 3, 4, .ro, 0, 0x1ff, 0, 0⟩,
  ⟨0x2001, 4, 4, 4, .ro, 0, 0x7ff, 0, 0⟩,
  ⟨0x2001, 5, 5, 4, .ro, 0, 0xffffffff, 0, 0⟩,
  ⟨0x2001, 6, 6, 4, .ro, 0, 0xffffffff, 0, 0⟩,
  ⟨0x2001, 7, 7, 4, .ro, 0, 0xffffffff, 0, 0⟩,
  ⟨0x2002, 0, 0, 1, .ro, 2, 0xff, 0, 0⟩, -- Qualification 0x2002
  ⟨0x2002, 1, 1, 4, .rw, 0x114, 0x17f, 0, 0⟩,
  ⟨0x2002, 2, 2, 4, .rw, 0, 3, 0, 0⟩,
  ⟨0x2003, 0, 0, 1, .ro, 1, 0xff, 0, 0⟩, -- Clock gating 0x2003
  ⟨0x2003, 1, 1, 0, .rw, 0, 0, 10, 1⟩,
  ⟨0x2005, 0, 0, 1, .ro, 4, 0xff, 0, 0⟩, -- Power state 0x2005
  ⟨0x2005, 1, 1, 4, .ro, 0, 7, 0, 0⟩,
  ⟨0x2005, 2, 2, 4, .wo, 0, 7, 0, 0⟩,
  ⟨0x2005, 3, 3, 4, .ro, 0, 0xf, 0, 0⟩,
  ⟨0x2005, 4, 4, 4, .ro, 0, 0xffffffff, 0, 0⟩,
  ⟨0x2006, 0, 0, 1, .ro, 2, 0xff, 0, 0⟩, -- Regulator sequence 0x2006
  ⟨0x2006, 1, 1, 0, .rw, 0, 0, 8, 16⟩,
  ⟨0x2006, 2, 2, 0, .ro, 0, 0, 8, 8⟩,
  ⟨0x2010, 0, 0, 1, .ro, 4, 0xff, 0, 0⟩, -- Fabric headroom control 0x2010
  ⟨0x2010, 1, 1, 4, .rw, 0x64, 0xffffffff, 0, 0⟩,
  ⟨0x2010, 2, 2, 4, .rw, 0x11a, 0xffff, 0, 0⟩,
  ⟨0x2010, 3, 3, 4, .ro, 0xffff, 0xffffffff, 0, 0⟩,
  ⟨0x2010, 4, 4, 4, .rs, 0, 1, 0, 0⟩,
  ⟨0x2011, 0, 0, 1, .ro, 5, 0xff, 0, 0⟩, -- VFAB trim 0x2011
  ⟨0x2011, 1, 1, 4, .rw, 0, 1, 0, 0⟩,
  ⟨0x2011, 2, 2, 4, .rw, 0x2000140, 0xffffffff, 0, 0⟩,
  ⟨0x2011, 3, 3, 4, .rw, 0x38402ee, 0x3ff03ff, 0, 0⟩,
  ⟨0x2011, 4, 4, 4, .rw, 0xc80040, 0xffffffff, 0, 0⟩,
  ⟨0x2011, 5, 5, 4, .ro, 0x352, 0x3ff, 0, 0⟩,
  ⟨0x2020, 0, 0, 1, .ro, 3, 0xff, 0, 0⟩, -- Carriage command 0x2020
  ⟨0x2020, 1, 1, 4, .rw, 0, 0xf0fff, 0, 0⟩,
  ⟨0x2020, 2, 2, 4, .rs, 0, 1, 0, 0⟩,
  ⟨0x2020, 3, 3, 4, .ro, 0, 0xffff00ff, 0, 0⟩,
  ⟨0x2030, 0, 0, 1, .ro, 6, 0xff, 0, 0⟩, -- Control pairs 0x2030
  ⟨0x2030, 1, 3, 4, .ro, 0x18, 0xff1f, 0, 0⟩,
  ⟨0x2030, 4, 4, 4, .ro, 0, 0xff00, 0, 0⟩,
  ⟨0x2030, 5, 5, 4, .ro, 0, 0xffffffff, 0, 0⟩
  ]

/-- Field maps of layouts 0x2000–0x2FFF, part 1. -/
def objRows2_1 : List ObjRow := [
  ⟨0x2030, 6, 6, 4, .ro, 0, 0xffffffff, 0, 0⟩, -- Control pairs 0x2030
  ⟨0x2031, 0, 0, 1, .ro, 2, 0xff, 0, 0⟩, -- Cover 0x2031
  ⟨0x2031, 1, 1, 4, .rw, 0, 3, 0, 0⟩,
  ⟨0x2031, 2, 2, 4, .ro, 0, 0xffffffff, 0, 0⟩,
  ⟨0x2040, 0, 0, 1, .ro, 5, 0xff, 0, 0⟩, -- Self-test schedule 0x2040
  ⟨0x2040, 1, 1, 4, .rw, 1, 1, 0, 0⟩,
  ⟨0x2040, 2, 2, 4, .rw, 0xe10, 0xffffffff, 0, 0⟩,
  ⟨0x2040, 3, 3, 4, .ro, 0, 0xffffffff, 0, 0⟩,
  ⟨0x2040, 4, 4, 4, .ro, 0, 0xffffffff, 0, 0⟩,
  ⟨0x2040, 5, 5, 4, .ro, 0, 0xffffffff, 0, 0⟩,
  ⟨0x2060, 0, 0, 1, .ro, 8, 0xff, 0, 0⟩, -- Cell buffer status 0x2060
  ⟨0x2060, 1, 1, 4, .ro, 0x20000, 0x3ffff, 0, 0⟩,
  ⟨0x2060, 2, 2, 4, .ro, 0x20000, 0x3ffff, 0, 0⟩,
  ⟨0x2060, 3, 3, 4, .ro, 0x20000, 0x3ffff, 0, 0⟩,
  ⟨0x2060, 4, 4, 4, .ro, 0, 0xffffffff, 0, 0⟩,
  ⟨0x2060, 5, 5, 4, .ro, 0, 0xffffffff, 0, 0⟩,
  ⟨0x2060, 6, 6, 4, .ro, 0, 0xffffffff, 0, 0⟩,
  ⟨0x2060, 7, 7, 4, .ro, 0, 0xffffffff, 0, 0⟩,
  ⟨0x2060, 8, 8, 4, .rs, 0, 1, 0, 0⟩,
  ⟨0x2061, 0, 0, 1, .ro, 8, 0xff, 0, 0⟩, -- Class age limits 0x2061
  ⟨0x2061, 1, 4, 4, .rw, 0x186a0, 0xffffffff, 0, 0⟩,
  ⟨0x2061, 5, 8, 4, .rw, 0x7d0, 0xffffffff, 0, 0⟩,
  ⟨0x2062, 0, 0, 1, .ro, 4, 0xff, 0, 0⟩, -- Multicast residue log 0x2062
  ⟨0x2062, 1, 1, 4, .ro, 0, 0xffffffff, 0, 0⟩,
  ⟨0x2062, 2, 2, 4, .ro, 0, 0xffffffff, 0, 0⟩,
  ⟨0x2062, 3, 3, 4, .ro, 0, 0xffffffff, 0, 0⟩,
  ⟨0x2062, 4, 4, 0, .ro, 0, 0, 64, 32⟩,
  ⟨0x2064, 0, 0, 1, .ro, 3, 0xff, 0, 0⟩, -- Queue flush 0x2064
  ⟨0x2064, 1, 1, 4, .rw, 0, 0x1ff, 0, 0⟩,
  ⟨0x2064, 2, 2, 4, .rs, 0, 1, 0, 0⟩,
  ⟨0x2064, 3, 3, 4, .ro, 0, 0xffffffff, 0, 0⟩,
  ⟨0x2070, 0, 0, 1, .ro, 6, 0xff, 0, 0⟩, -- Wake island 0x2070
  ⟨0x2070, 1, 1, 4, .rw, 0x3e80a, 0x3fff3f, 0, 0⟩,
  ⟨0x2070, 2, 2, 4, .ro, 0, 0xffffffff, 0, 0⟩,
  ⟨0x2070, 3, 3, 4, .ro, 0, 0xffffffff, 0, 0⟩,
  ⟨0x2070, 4, 4, 4, .ro, 0, 0xffffffff, 0, 0⟩,
  ⟨0x2070, 5, 5, 4, .ro, 0, 3, 0, 0⟩,
  ⟨0x2070, 6, 6, 4, .ro, 0, 0x1f, 0, 0⟩,
  ⟨0x2071, 0, 0, 0, .rw, 0, 0, 96, 32⟩, -- Channel wake records
  ⟨0x2072, 0, 0, 0, .rw, 0, 0, 16, 4⟩ -- T1S wake records
  ]

/-- Field maps of layouts 0x2000–0x2FFF, part 2. -/
def objRows2_2 : List ObjRow := [
  ⟨0x2073, 0, 0, 0, .rw, 0, 0, 8, 16⟩, -- WAKE pin records
  ⟨0x2074, 0, 0, 0, .ro, 0, 0, 16, 16⟩, -- Wake log
  ⟨0x2080, 0, 0, 0, .rw, 0, 0, 64, 32⟩, -- Domain records
  ⟨0x2081, 0, 0, 0, .rw, 0, 0, 64, 96⟩, -- Keep-alive templates
  ⟨0x2082, 0, 0, 0, .ro, 0, 0, 64, 8⟩, -- Domain status
  ⟨0x2090, 0, 0, 0, .rw, 0, 0, 24, 16⟩, -- Load outputs
  ⟨0x20a0, 0, 0, 1, .ro, 9, 0xff, 0, 0⟩, -- Bridge 0x20A0
  ⟨0x20a0, 1, 1, 4, .ro, 0, 0xff, 0, 0⟩,
  ⟨0x20a0, 2, 2, 4, .rw, 0x3e8, 0x3fff, 0, 0⟩,
  ⟨0x20a0, 3, 3, 4, .rw, 0, 7, 0, 0⟩,
  ⟨0x20a0, 4, 4, 4, .ro, 0, 0xffffffff, 0, 0⟩,
  ⟨0x20a0, 5, 5, 4, .ro, 0, 0xffffffff, 0, 0⟩,
  ⟨0x20a0, 6, 6, 4, .ro, 0, 0xffffffff, 0, 0⟩,
  ⟨0x20a0, 7, 7, 4, .ro, 0, 0xffffffff, 0, 0⟩,
  ⟨0x20a0, 8, 8, 4, .ro, 0, 0xffffffff, 0, 0⟩,
  ⟨0x20a0, 9, 9, 4, .ro, 0, 0xffffffff, 0, 0⟩,
  ⟨0x20a1, 0, 0, 0, .rw, 0, 0, 16, 16⟩, -- Translation windows
  ⟨0x20a2, 0, 0, 0, .rw, 0, 0, 16, 32⟩, -- Frame rings
  ⟨0x2100, 0, 0, 1, .ro, 3, 0xff, 0, 0⟩, -- Carriage headroom 0x2100 + n, for carriage number n = 0–46
  ⟨0x2100, 1, 1, 4, .ro, 0, 0x1ffff, 0, 0⟩,
  ⟨0x2100, 2, 2, 4, .ro, 0xffff, 0xffff, 0, 0⟩,
  ⟨0x2100, 3, 3, 4, .ro, 0, 0xffffffff, 0, 0⟩,
  ⟨0x2200, 0, 0, 1, .ro, 8, 0xff, 0, 0⟩, -- Carriage status 0x2200 + n, for carriage number n = 0–46
  ⟨0x2200, 1, 1, 4, .ro, 0xff0100, 0xffff0f, 0, 0⟩,
  ⟨0x2200, 2, 2, 4, .rw, 0x64, 0x3fff, 0, 0⟩,
  ⟨0x2200, 3, 3, 4, .ro, 0, 0xffffffff, 0, 0⟩,
  ⟨0x2200, 4, 4, 4, .ro, 0, 0xffffffff, 0, 0⟩,
  ⟨0x2200, 5, 5, 4, .ro, 0, 0xffffffff, 0, 0⟩,
  ⟨0x2200, 6, 6, 4, .ro, 0, 0xffffffff, 0, 0⟩,
  ⟨0x2200, 7, 7, 4, .ro, 0, 0xffffffff, 0, 0⟩,
  ⟨0x2200, 8, 8, 4, .rw, 0, 0xffff, 0, 0⟩
  ]

/-- Field maps of layouts 0x2000–0x2FFF. -/
def objRows2 : List ObjRow := objRows2_0 ++ objRows2_1 ++ objRows2_2

/-- Field maps of layouts 0x3000–0x3FFF, part 0. -/
def objRows3_0 : List ObjRow := [
  ⟨0x3000, 0, 0, 1, .ro, 7, 0xff, 0, 0⟩, -- Learning 0x3000 + 0x40 × index, for index 0–43
  ⟨0x3000, 1, 1, 4, .rw, 0x400, 0x107ffff, 0, 0⟩,
  ⟨0x3000, 2, 2, 4, .ro, 0, 0x7ffff, 0, 0⟩,
  ⟨0x3000, 3, 3, 4, .ro, 0, 0xffffffff, 0, 0⟩,
  ⟨0x3000, 4, 4, 4, .ro, 0, 0xffffffff, 0, 0⟩,
  ⟨0x3000, 5, 5, 0, .ro, 0, 0, 64, 16⟩,
  ⟨0x3000, 6, 6, 4, .ro, 0, 0x7f, 0, 0⟩,
  ⟨0x3000, 7, 7, 4, .rs, 0, 1, 0, 0⟩,
  ⟨0x3001, 0, 0, 1, .ro, 2, 0xff, 0, 0⟩, -- Port mode 0x3001 + 0x40 × index, for index 0–43
  ⟨0x3001, 1, 1, 4, .rw, 0, 0xff, 0, 0⟩,
  ⟨0x3001, 2, 2, 4, .ro, 0, 0xf, 0, 0⟩,
  ⟨0x3002, 0, 0, 1, .ro, 1, 0xff, 0, 0⟩, -- Maximum length
  ⟨0x3002, 1, 1, 4, .rw, 0x5f2, 0x3fff, 0, 0⟩,
  ⟨0x3003, 0, 0, 1, .ro, 4, 0xff, 0, 0⟩, -- Flow control 0x3003 + 0x40 × index, for index 0–43
  ⟨0x3003, 1, 1, 4, .rw, 1, 7, 0, 0⟩,
  ⟨0x3003, 2, 2, 4, .rw, 0x32, 0x3ff, 0, 0⟩,
  ⟨0x3003, 3, 3, 4, .rw, 0x3e8, 0x3fff, 0, 0⟩,
  ⟨0x3003, 4, 4, 4, .ro, 0, 0x1ff, 0, 0⟩,
  ⟨0x3004, 0, 0, 1, .ro, 3, 0xff, 0, 0⟩, -- PLCA 0x3004 + 0x40 × index, for index 28–43
  ⟨0x3004, 1, 1, 4, .rw, 0x800, 0x3f3f, 0, 0⟩,
  ⟨0x3004, 2, 2, 4, .rw, 0x800020, 0xffffff, 0, 0⟩,
  ⟨0x3004, 3, 3, 4, .ro, 0, 3, 0, 0⟩,
  ⟨0x3005, 0, 0, 1, .ro, 1, 0xff, 0, 0⟩, -- Known nodes
  ⟨0x3005, 1, 1, 4, .rw, 0xffffffff, 0xffffffff, 0, 0⟩,
  ⟨0x3008, 0, 0, 1, .ro, 3, 0xff, 0, 0⟩, -- Cut-through threshold 0x3008 + 0x40 × index, for index 0–43
  ⟨0x3008, 1, 1, 4, .rw, 2, 0x3f, 0, 0⟩,
  ⟨0x3008, 2, 2, 4, .ro, 0x100, 0x33f, 0, 0⟩,
  ⟨0x3008, 3, 3, 4, .ro, 0, 0xffffffff, 0, 0⟩,
  ⟨0x3010, 0, 0, 1, .ro, 0x40, 0xff, 0, 0⟩, -- Port counters 0x3010 + 0x40 × index, for index 0–43
  ⟨0x3010, 1, 1, 8, .ro, 0, 0xffffffffffffffff, 0, 0⟩,
  ⟨0x3010, 2, 2, 8, .ro, 0, 0xffffffffffffffff, 0, 0⟩,
  ⟨0x3010, 3, 5, 8, .ro, 0, 0xffffffffffffffff, 0, 0⟩,
  ⟨0x3010, 6, 6, 8, .ro, 0, 0xffffffffffffffff, 0, 0⟩,
  ⟨0x3010, 7, 7, 8, .ro, 0, 0xffffffffffffffff, 0, 0⟩,
  ⟨0x3010, 8, 8, 8, .ro, 0, 0xffffffffffffffff, 0, 0⟩,
  ⟨0x3010, 9, 9, 8, .ro, 0, 0xffffffffffffffff, 0, 0⟩,
  ⟨0x3010, 0xa, 0xa, 8, .ro, 0, 0xffffffffffffffff, 0, 0⟩,
  ⟨0x3010, 0xb, 0xb, 8, .ro, 0, 0xffffffffffffffff, 0, 0⟩,
  ⟨0x3010, 0xc, 0xc, 8, .ro, 0, 0xffffffffffffffff, 0, 0⟩,
  ⟨0x3010, 0xd, 0xd, 8, .ro, 0, 0xffffffffffffffff, 0, 0⟩
  ]

/-- Field maps of layouts 0x3000–0x3FFF, part 1. -/
def objRows3_1 : List ObjRow := [
  ⟨0x3010, 0xe, 0xe, 8, .ro, 0, 0xffffffffffffffff, 0, 0⟩, -- Port counters 0x3010 + 0x40 × index, for index 0–43
  ⟨0x3010, 0xf, 0xf, 8, .ro, 0, 0xffffffffffffffff, 0, 0⟩,
  ⟨0x3010, 0x10, 0x10, 8, .ro, 0, 0xffffffffffffffff, 0, 0⟩,
  ⟨0x3010, 0x11, 0x18, 8, .ro, 0, 0xffffffffffffffff, 0, 0⟩,
  ⟨0x3010, 0x19, 0x19, 8, .ro, 0, 0xffffffffffffffff, 0, 0⟩,
  ⟨0x3010, 0x1a, 0x1a, 8, .ro, 0, 0xffffffffffffffff, 0, 0⟩,
  ⟨0x3010, 0x1b, 0x1d, 8, .ro, 0, 0xffffffffffffffff, 0, 0⟩,
  ⟨0x3010, 0x1e, 0x1e, 8, .ro, 0, 0xffffffffffffffff, 0, 0⟩,
  ⟨0x3010, 0x1f, 0x1f, 8, .ro, 0, 0xffffffffffffffff, 0, 0⟩,
  ⟨0x3010, 0x20, 0x20, 8, .ro, 0, 0xffffffffffffffff, 0, 0⟩,
  ⟨0x3010, 0x21, 0x21, 8, .ro, 0, 0xffffffffffffffff, 0, 0⟩,
  ⟨0x3010, 0x22, 0x22, 8, .ro, 0, 0xffffffffffffffff, 0, 0⟩,
  ⟨0x3010, 0x23, 0x23, 8, .ro, 0, 0xffffffffffffffff, 0, 0⟩,
  ⟨0x3010, 0x24, 0x24, 8, .ro, 0, 0xffffffffffffffff, 0, 0⟩,
  ⟨0x3010, 0x25, 0x25, 8, .ro, 0, 0xffffffffffffffff, 0, 0⟩,
  ⟨0x3010, 0x26, 0x26, 8, .ro, 0, 0xffffffffffffffff, 0, 0⟩,
  ⟨0x3010, 0x27, 0x27, 8, .ro, 0, 0xffffffffffffffff, 0, 0⟩,
  ⟨0x3010, 0x28, 0x2a, 8, .ro, 0, 0xffffffffffffffff, 0, 0⟩,
  ⟨0x3010, 0x2b, 0x2b, 8, .ro, 0, 0xffffffffffffffff, 0, 0⟩,
  ⟨0x3010, 0x2c, 0x2c, 8, .ro, 0, 0xffffffffffffffff, 0, 0⟩,
  ⟨0x3010, 0x2d, 0x2f, 8, .ro, 0, 0xffffffffffffffff, 0, 0⟩,
  ⟨0x3010, 0x30, 0x30, 8, .ro, 0, 0xffffffffffffffff, 0, 0⟩,
  ⟨0x3010, 0x31, 0x38, 8, .ro, 0, 0xffffffffffffffff, 0, 0⟩,
  ⟨0x3010, 0x39, 0x39, 8, .ro, 0, 0xffffffffffffffff, 0, 0⟩,
  ⟨0x3010, 0x3a, 0x3a, 8, .ro, 0, 0xffffffffffffffff, 0, 0⟩,
  ⟨0x3010, 0x3b, 0x3b, 8, .ro, 0, 0xffffffffffffffff, 0, 0⟩,
  ⟨0x3010, 0x3c, 0x3c, 8, .ro, 0, 0xffffffffffffffff, 0, 0⟩,
  ⟨0x3010, 0x3d, 0x3d, 8, .ro, 0, 0xffffffffffffffff, 0, 0⟩,
  ⟨0x3010, 0x3e, 0x3e, 8, .ro, 0, 0xffffffffffffffff, 0, 0⟩,
  ⟨0x3010, 0x3f, 0x3f, 8, .ro, 0, 0xffffffffffffffff, 0, 0⟩,
  ⟨0x3010, 0x40, 0x40, 8, .ro, 0, 0, 0, 0⟩
  ]

/-- Field maps of layouts 0x3000–0x3FFF. -/
def objRows3 : List ObjRow := objRows3_0 ++ objRows3_1

/-- Field maps of layouts 0x4000–0x4FFF, part 0. -/
def objRows4_0 : List ObjRow := [
  ⟨0x4000, 0, 0, 1, .ro, 2, 0xff, 0, 0⟩, -- Mode 0x4000 + 0x20 × c (C)
  ⟨0x4000, 1, 1, 4, .rw, 0x20, 0xffff, 0, 0⟩,
  ⟨0x4000, 2, 2, 4, .ro, 0, 0x1f, 0, 0⟩,
  ⟨0x4001, 0, 0, 1, .ro, 1, 0xff, 0, 0⟩, -- Nominal timing (C)
  ⟨0x4001, 1, 1, 4, .rw, 0x20207f02, 0xffffff7f, 0, 0⟩,
  ⟨0x4002, 0, 0, 1, .ro, 5, 0xff, 0, 0⟩, -- Data timing (C)
  ⟨0x4002, 1, 1, 4, .rw, 0x10103f01, 0xffffff7f, 0, 0⟩,
  ⟨0x4002, 2, 2, 4, .rw, 0xc0, 0xff, 0, 0⟩,
  ⟨0x4002, 3, 3, 4, .rw, 0x2020501, 0xffffff7f, 0, 0⟩,
  ⟨0x4002, 4, 4, 4, .rw, 0x602, 0x3f3f, 0, 0⟩,
  ⟨0x4002, 5, 5, 4, .ro, 0, 0xff, 0, 0⟩,
  ⟨0x4004, 0, 0, 1, .ro, 3, 0xff, 0, 0⟩, -- Error state 0x4004 + 0x20 × c
  ⟨0x4004, 1, 1, 4, .ro, 0x30000, 0x1fffff, 0, 0⟩,
  ⟨0x4004, 2, 2, 4, .rs, 0, 1, 0, 0⟩,
  ⟨0x4004, 3, 3, 4, .ro, 0, 0xffffffff, 0, 0⟩,
  ⟨0x4005, 0, 0, 1, .ro, 4, 0xff, 0, 0⟩, -- Receive buffers 0x4005 + 0x20 × c (C)
  ⟨0x4005, 1, 1, 0, .rw, 0, 0, 64, 16⟩,
  ⟨0x4005, 2, 2, 0, .ro, 0, 0, 64, 96⟩,
  ⟨0x4005, 3, 3, 8, .ro, 0, 0xffffffffffffffff, 0, 0⟩,
  ⟨0x4005, 4, 4, 4, .rw, 0x7f, 0x7f, 0, 0⟩,
  ⟨0x4006, 0, 0, 1, .ro, 4, 0xff, 0, 0⟩, -- Transmit buffers 0x4006 + 0x20 × c (C)
  ⟨0x4006, 1, 1, 0, .rw, 0, 0, 32, 80⟩,
  ⟨0x4006, 2, 2, 4, .ro, 0, 0xffffffff, 0, 0⟩,
  ⟨0x4006, 3, 3, 4, .wo, 0, 0x1f, 0, 0⟩,
  ⟨0x4006, 4, 4, 4, .wo, 0, 0x1f, 0, 0⟩,
  ⟨0x4008, 0, 0, 1, .ro, 4, 0xff, 0, 0⟩, -- Schedule matrix 0x4008 + 0x20 × c
  ⟨0x4008, 1, 1, 4, .rw, 0x20, 0x7ff, 0, 0⟩,
  ⟨0x4008, 2, 2, 4, .rw, 0x3e8, 0xffffff, 0, 0⟩,
  ⟨0x4008, 3, 3, 0, .rw, 0, 0, 64, 4⟩,
  ⟨0x4008, 4, 4, 0, .rw, 0, 0, 4096, 1⟩,
  ⟨0x4009, 0, 0, 1, .ro, 4, 0xff, 0, 0⟩, -- Time master 0x4009 + 0x20 × c
  ⟨0x4009, 1, 1, 4, .rw, 0, 0x3f, 0, 0⟩,
  ⟨0x4009, 2, 2, 4, .rw, 0, 0x7ff, 0, 0⟩,
  ⟨0x4009, 3, 3, 4, .rw, 0x3e8, 0x3fff, 0, 0⟩,
  ⟨0x4009, 4, 4, 4, .ro, 0, 0x7ff, 0, 0⟩,
  ⟨0x4010, 0, 0, 1, .ro, 0x1e, 0xff, 0, 0⟩, -- Channel counters 0x4010 + 0x20 × c (C)
  ⟨0x4010, 1, 1, 8, .ro, 0, 0xffffffffffffffff, 0, 0⟩,
  ⟨0x4010, 2, 2, 8, .ro, 0, 0xffffffffffffffff, 0, 0⟩,
  ⟨0x4010, 3, 5, 8, .ro, 0, 0xffffffffffffffff, 0, 0⟩,
  ⟨0x4010, 6, 6, 8, .ro, 0, 0xffffffffffffffff, 0, 0⟩
  ]

/-- Field maps of layouts 0x4000–0x4FFF, part 1. -/
def objRows4_1 : List ObjRow := [
  ⟨0x4010, 7, 7, 8, .ro, 0, 0xffffffffffffffff, 0, 0⟩, -- Channel counters 0x4010 + 0x20 × c (C)
  ⟨0x4010, 8, 0xc, 8, .ro, 0, 0xffffffffffffffff, 0, 0⟩,
  ⟨0x4010, 0xd, 0xd, 8, .ro, 0, 0xffffffffffffffff, 0, 0⟩,
  ⟨0x4010, 0xe, 0xe, 8, .ro, 0, 0xffffffffffffffff, 0, 0⟩,
  ⟨0x4010, 0xf, 0xf, 8, .ro, 0, 0xffffffffffffffff, 0, 0⟩,
  ⟨0x4010, 0x10, 0x10, 8, .ro, 0, 0xffffffffffffffff, 0, 0⟩,
  ⟨0x4010, 0x11, 0x11, 8, .ro, 0, 0xffffffffffffffff, 0, 0⟩,
  ⟨0x4010, 0x12, 0x12, 8, .ro, 0, 0xffffffffffffffff, 0, 0⟩,
  ⟨0x4010, 0x13, 0x13, 8, .ro, 0, 0xffffffffffffffff, 0, 0⟩,
  ⟨0x4010, 0x14, 0x14, 8, .ro, 0, 0xffffffffffffffff, 0, 0⟩,
  ⟨0x4010, 0x15, 0x15, 8, .ro, 0, 0xffffffffffffffff, 0, 0⟩,
  ⟨0x4010, 0x16, 0x16, 8, .ro, 0, 0xffffffffffffffff, 0, 0⟩,
  ⟨0x4010, 0x17, 0x17, 8, .ro, 0, 0xffffffffffffffff, 0, 0⟩,
  ⟨0x4010, 0x18, 0x18, 8, .ro, 0, 0xffffffffffffffff, 0, 0⟩,
  ⟨0x4010, 0x19, 0x19, 8, .ro, 0, 0xffffffffffffffff, 0, 0⟩,
  ⟨0x4010, 0x1a, 0x1a, 8, .ro, 0, 0xffffffffffffffff, 0, 0⟩,
  ⟨0x4010, 0x1b, 0x1b, 8, .ro, 0, 0xffffffffffffffff, 0, 0⟩,
  ⟨0x4010, 0x1c, 0x1c, 8, .ro, 0, 0xffffffffffffffff, 0, 0⟩,
  ⟨0x4010, 0x1d, 0x1d, 8, .ro, 0, 0xffffffffffffffff, 0, 0⟩,
  ⟨0x4010, 0x1e, 0x1e, 8, .ro, 0, 0xffffffffffffffff, 0, 0⟩,
  ⟨0x14000, 0, 0, 1, .ro, 2, 0xff, 0, 0⟩, -- Mode 0x4000 + 0x20 × c (L)
  ⟨0x14000, 1, 1, 4, .rw, 0, 7, 0, 0⟩,
  ⟨0x14000, 2, 2, 4, .ro, 0, 0x1f, 0, 0⟩,
  ⟨0x14001, 0, 0, 1, .ro, 1, 0xff, 0, 0⟩, -- LIN timing (L)
  ⟨0x14001, 1, 1, 4, .rw, 0x34208d, 0x7fffff, 0, 0⟩,
  ⟨0x14005, 0, 0, 1, .ro, 4, 0xff, 0, 0⟩, -- Receive buffers 0x4005 + 0x20 × c (L)
  ⟨0x14005, 2, 2, 0, .ro, 0, 0, 64, 96⟩,
  ⟨0x14005, 3, 3, 8, .ro, 0, 0xffffffffffffffff, 0, 0⟩,
  ⟨0x14005, 4, 4, 4, .rw, 0x7f, 0x7f, 0, 0⟩,
  ⟨0x14006, 0, 0, 1, .ro, 1, 0xff, 0, 0⟩, -- Transmit buffers 0x4006 + 0x20 × c (L)
  ⟨0x14006, 1, 1, 0, .rw, 0, 0, 64, 16⟩,
  ⟨0x14010, 0, 0, 1, .ro, 0x1e, 0xff, 0, 0⟩, -- Channel counters 0x4010 + 0x20 × c (L)
  ⟨0x14010, 1, 1, 8, .ro, 0, 0xffffffffffffffff, 0, 0⟩,
  ⟨0x14010, 2, 2, 8, .ro, 0, 0xffffffffffffffff, 0, 0⟩,
  ⟨0x14010, 3, 5, 8, .ro, 0, 0xffffffffffffffff, 0, 0⟩,
  ⟨0x14010, 6, 6, 8, .ro, 0, 0xffffffffffffffff, 0, 0⟩,
  ⟨0x14010, 7, 7, 8, .ro, 0, 0xffffffffffffffff, 0, 0⟩,
  ⟨0x14010, 8, 0xc, 8, .ro, 0, 0xffffffffffffffff, 0, 0⟩,
  ⟨0x14010, 0xd, 0xd, 8, .ro, 0, 0xffffffffffffffff, 0, 0⟩,
  ⟨0x14010, 0xe, 0xe, 8, .ro, 0, 0xffffffffffffffff, 0, 0⟩
  ]

/-- Field maps of layouts 0x4000–0x4FFF, part 2. -/
def objRows4_2 : List ObjRow := [
  ⟨0x14010, 0xf, 0xf, 8, .ro, 0, 0xffffffffffffffff, 0, 0⟩, -- Channel counters 0x4010 + 0x20 × c (L)
  ⟨0x14010, 0x10, 0x10, 8, .ro, 0, 0xffffffffffffffff, 0, 0⟩,
  ⟨0x14010, 0x11, 0x11, 8, .ro, 0, 0xffffffffffffffff, 0, 0⟩,
  ⟨0x14010, 0x12, 0x12, 8, .ro, 0, 0xffffffffffffffff, 0, 0⟩,
  ⟨0x14010, 0x13, 0x13, 8, .ro, 0, 0xffffffffffffffff, 0, 0⟩,
  ⟨0x14010, 0x14, 0x14, 8, .ro, 0, 0xffffffffffffffff, 0, 0⟩,
  ⟨0x14010, 0x15, 0x15, 8, .ro, 0, 0xffffffffffffffff, 0, 0⟩,
  ⟨0x14010, 0x16, 0x16, 8, .ro, 0, 0xffffffffffffffff, 0, 0⟩,
  ⟨0x14010, 0x17, 0x17, 8, .ro, 0, 0xffffffffffffffff, 0, 0⟩,
  ⟨0x14010, 0x18, 0x18, 8, .ro, 0, 0xffffffffffffffff, 0, 0⟩,
  ⟨0x14010, 0x19, 0x19, 8, .ro, 0, 0xffffffffffffffff, 0, 0⟩,
  ⟨0x14010, 0x1a, 0x1a, 8, .ro, 0, 0xffffffffffffffff, 0, 0⟩,
  ⟨0x14010, 0x1b, 0x1b, 8, .ro, 0, 0xffffffffffffffff, 0, 0⟩,
  ⟨0x14010, 0x1c, 0x1c, 8, .ro, 0, 0xffffffffffffffff, 0, 0⟩,
  ⟨0x14010, 0x1d, 0x1d, 8, .ro, 0, 0xffffffffffffffff, 0, 0⟩,
  ⟨0x14010, 0x1e, 0x1e, 8, .ro, 0, 0xffffffffffffffff, 0, 0⟩,
  ⟨0x14011, 0, 0, 1, .ro, 3, 0xff, 0, 0⟩, -- LIN configuration 0x4011 + 0x20 × c
  ⟨0x14011, 1, 1, 0, .rw, 0, 0, 64, 4⟩,
  ⟨0x14011, 2, 2, 4, .rw, 0xa00, 0x3f1f, 0, 0⟩,
  ⟨0x14011, 3, 3, 4, .rw, 0, 0xfff, 0, 0⟩,
  ⟨0x14012, 0, 0, 1, .ro, 2, 0xff, 0, 0⟩, -- LIN schedule tables 0x4012 + 0x20 × c
  ⟨0x14012, 1, 1, 0, .rw, 0, 0, 256, 4⟩,
  ⟨0x14012, 2, 2, 0, .rw, 0, 0, 16, 2⟩
  ]

/-- Field maps of layouts 0x4000–0x4FFF. -/
def objRows4 : List ObjRow := objRows4_0 ++ objRows4_1 ++ objRows4_2

/-- Field maps of layouts 0x5000–0x5FFF, part 0. -/
def objRows5_0 : List ObjRow := [
  ⟨0x5000, 0, 0, 1, .ro, 0xb, 0xff, 0, 0⟩, -- Route store status 0x5000
  ⟨0x5000, 1, 1, 4, .ro, 0, 0x7ffff, 0, 0⟩,
  ⟨0x5000, 2, 2, 4, .ro, 0x40000, 0x7ffff, 0, 0⟩,
  ⟨0x5000, 3, 3, 4, .ro, 0, 0xffffffff, 0, 0⟩,
  ⟨0x5000, 4, 4, 4, .ro, 0, 0xffffffff, 0, 0⟩,
  ⟨0x5000, 5, 5, 4, .ro, 0, 0xffffffff, 0, 0⟩,
  ⟨0x5000, 6, 6, 4, .ro, 0, 0xffffffff, 0, 0⟩,
  ⟨0x5000, 7, 0xb, 4, .ro, 0, 0x7ffff, 0, 0⟩,
  ⟨0x5001, 0, 0, 1, .ro, 8, 0xff, 0, 0⟩, -- Bank occupancy
  ⟨0x5001, 1, 8, 4, .ro, 0, 0xffffffff, 0, 0⟩,
  ⟨0x5002, 0, 0, 1, .ro, 5, 0xff, 0, 0⟩, -- Ageing periods 0x5002
  ⟨0x5002, 1, 1, 4, .rw, 0x12c, 0xffffffff, 0, 0⟩,
  ⟨0x5002, 2, 5, 4, .rw, 0, 0xffffffff, 0, 0⟩,
  ⟨0x5004, 0, 0, 1, .ro, 0xd, 0xff, 0, 0⟩, -- Insertion failures
  ⟨0x5004, 1, 0xd, 4, .ro, 0, 0xffffffff, 0, 0⟩,
  ⟨0x5010, 0, 0, 1, .ro, 8, 0xff, 0, 0⟩, -- Entry command 0x5010
  ⟨0x5010, 1, 1, 4, .rw, 0, 0xffffffff, 0, 0⟩,
  ⟨0x5010, 2, 2, 4, .rw, 0, 0xffffffff, 0, 0⟩,
  ⟨0x5010, 3, 3, 4, .rw, 0, 0xffffffff, 0, 0⟩,
  ⟨0x5010, 4, 4, 4, .rw, 0, 0xffffffff, 0, 0⟩,
  ⟨0x5010, 5, 5, 4, .rw, 0, 0x3fff, 0, 0⟩,
  ⟨0x5010, 6, 6, 4, .rw, 0, 0x1fffff, 0, 0⟩,
  ⟨0x5010, 7, 7, 4, .rs, 0, 1, 0, 0⟩,
  ⟨0x5010, 8, 8, 4, .ro, 0, 0xfff, 0, 0⟩,
  ⟨0x5030, 0, 0, 0, .rw, 0, 0, 4096, 20⟩, -- Port sets
  ⟨0x5600, 0, 0, 1, .ro, 0x12, 0xff, 0, 0⟩, -- Gateway control and counters 0x5600
  ⟨0x5600, 1, 1, 4, .rw, 0, 1, 0, 0⟩,
  ⟨0x5600, 2, 2, 4, .ro, 0xf, 0xf, 0, 0⟩,
  ⟨0x5600, 3, 3, 8, .ro, 0, 0xffffffffffffffff, 0, 0⟩,
  ⟨0x5600, 4, 4, 8, .ro, 0, 0xffffffffffffffff, 0, 0⟩,
  ⟨0x5600, 5, 5, 8, .ro, 0, 0xffffffffffffffff, 0, 0⟩,
  ⟨0x5600, 6, 0x10, 8, .ro, 0, 0xffffffffffffffff, 0, 0⟩,
  ⟨0x5600, 0x11, 0x11, 4, .ro, 0, 0xffffffff, 0, 0⟩,
  ⟨0x5600, 0x12, 0x12, 4, .ro, 0, 0x7fffff, 0, 0⟩,
  ⟨0x5601, 0, 0, 1, .ro, 2, 0xff, 0, 0⟩, -- Container reception 0x5601
  ⟨0x5601, 1, 1, 4, .rw, 0xa4a6, 0xffff, 0, 0⟩,
  ⟨0x5601, 2, 2, 4, .rw, 0, 0x3f01, 0, 0⟩,
  ⟨0x5610, 0, 0, 0, .rw, 0, 0, 65536, 32⟩, -- PDU records
  ⟨0x5611, 0, 0, 0, .ro, 0, 0, 65536, 4⟩, -- PDU state
  ⟨0x5612, 0, 0, 0, .ro, 0, 0, 524288, 8⟩ -- Current images
  ]

/-- Field maps of layouts 0x5000–0x5FFF, part 1. -/
def objRows5_1 : List ObjRow := [
  ⟨0x5613, 0, 0, 0, .rw, 0, 0, 524288, 8⟩, -- Default images
  ⟨0x5620, 0, 0, 0, .rw, 0, 0, 256, 96⟩, -- Container streams
  ⟨0x5800, 0, 0, 1, .ro, 6, 0xff, 0, 0⟩, -- Firewall control 0x5800
  ⟨0x5800, 1, 1, 4, .ro, 0, 0xffffff01, 0, 0⟩,
  ⟨0x5800, 2, 2, 4, .rs, 0, 1, 0, 0⟩,
  ⟨0x5800, 3, 3, 4, .rs, 0, 1, 0, 0⟩,
  ⟨0x5800, 4, 4, 4, .ro, 0, 1, 0, 0⟩,
  ⟨0x5800, 5, 5, 4, .ro, 3, 0x7fff, 0, 0⟩,
  ⟨0x5800, 6, 6, 4, .ro, 0, 0xffffffff, 0, 0⟩,
  ⟨0x5801, 0, 0, 1, .ro, 2, 0xff, 0, 0⟩, -- Intrusion cap 0x5801
  ⟨0x5801, 1, 1, 4, .rw, 0xa, 0x3ff, 0, 0⟩,
  ⟨0x5801, 2, 2, 4, .ro, 0, 0xffffffff, 0, 0⟩,
  ⟨0x5808, 0, 0, 0, .ro, 0, 0, 160, 64⟩, -- Firewall port counters
  ⟨0x5809, 0, 0, 0, .ro, 0, 0, 16384, 8⟩, -- Rule hit counters
  ⟨0x5810, 0, 0, 0, .rw, 0, 0, 16384, 176⟩, -- Shadow rules
  ⟨0x5811, 0, 0, 0, .rw, 0, 0, 64, 8⟩, -- Shadow range checkers
  ⟨0x5812, 0, 0, 0, .rw, 0, 0, 160, 4⟩, -- Shadow port defaults
  ⟨0x5814, 0, 0, 0, .ro, 0, 0, 16384, 176⟩, -- Active rules
  ⟨0x5815, 0, 0, 0, .ro, 0, 0, 64, 8⟩, -- Active range checkers
  ⟨0x5816, 0, 0, 0, .ro, 0, 0, 160, 4⟩ -- Active port defaults
  ]

/-- Field maps of layouts 0x5000–0x5FFF. -/
def objRows5 : List ObjRow := objRows5_0 ++ objRows5_1

/-- Field maps of layouts 0x6000–0x6FFF, part 0. -/
def objRows6_0 : List ObjRow := [
  ⟨0x6000, 0, 0, 1, .ro, 5, 0xff, 0, 0⟩, -- Scheduler 0x6000 + 0x10 × i
  ⟨0x6000, 1, 1, 4, .rw, 0x1400, 0x3f07, 0, 0⟩,
  ⟨0x6000, 2, 2, 4, .rw, 0, 0xffff, 0, 0⟩,
  ⟨0x6000, 3, 3, 4, .rw, 0x10101010, 0xffffffff, 0, 0⟩,
  ⟨0x6000, 4, 4, 4, .rw, 0x10101010, 0xffffffff, 0, 0⟩,
  ⟨0x6000, 5, 5, 4, .ro, 0, 3, 0, 0⟩,
  ⟨0x6001, 0, 0, 1, .ro, 2, 0xff, 0, 0⟩, -- Queues 0x6001 + 0x10 × i
  ⟨0x6001, 1, 1, 0, .rw, 0, 0, 64, 8⟩,
  ⟨0x6001, 2, 2, 0, .ro, 0, 0, 64, 4⟩,
  ⟨0x6002, 0, 0, 1, .ro, 0x10, 0xff, 0, 0⟩, -- Shapers 0x6002 + 0x10 × i, for i = 0–27
  ⟨0x6002, 1, 8, 4, .rw, 0, 0x1ffffff, 0, 0⟩,
  ⟨0x6002, 9, 0x10, 4, .ro, 0, 0xffffffff, 0, 0⟩,
  ⟨0x6003, 0, 0, 1, .ro, 1, 0xff, 0, 0⟩, -- Quanta 0x6003 + 0x10 × i, for i = 0–11
  ⟨0x6003, 1, 1, 0, .rw, 0, 0, 64, 4⟩,
  ⟨0x6004, 0, 0, 1, .ro, 0x11, 0xff, 0, 0⟩, -- Gate control 0x6004 + 0x10 × i, for i = 0–27
  ⟨0x6004, 1, 1, 4, .rw, 0, 1, 0, 0⟩,
  ⟨0x6004, 2, 2, 4, .rw, 0, 0xffffffff, 0, 0⟩,
  ⟨0x6004, 3, 3, 4, .rw, 0, 0xffffffff, 0, 0⟩,
  ⟨0x6004, 4, 4, 4, .rw, 0, 0xffff, 0, 0⟩,
  ⟨0x6004, 5, 5, 4, .rw, 0xf4240, 0x3fffffff, 0, 0⟩,
  ⟨0x6004, 6, 6, 4, .rw, 1, 0x1ff, 0, 0⟩,
  ⟨0x6004, 7, 7, 4, .rs, 0, 1, 0, 0⟩,
  ⟨0x6004, 8, 8, 4, .ro, 0, 0x7ff, 0, 0⟩,
  ⟨0x6004, 9, 9, 4, .ro, 0, 0x3fffffff, 0, 0⟩,
  ⟨0x6004, 0xa, 0x11, 4, .rw, 0, 0x3fff, 0, 0⟩,
  ⟨0x6005, 0, 0, 1, .ro, 2, 0xff, 0, 0⟩, -- Gate lists 0x6005 + 0x10 × i, for i = 0–27
  ⟨0x6005, 1, 1, 0, .rw, 0, 0, 256, 8⟩,
  ⟨0x6005, 2, 2, 0, .ro, 0, 0, 256, 8⟩,
  ⟨0x6006, 0, 0, 1, .ro, 2, 0xff, 0, 0⟩, -- Preemption 0x6006 + 0x10 × i, for i = 0–27
  ⟨0x6006, 1, 1, 4, .rw, 2, 0xff0f, 0, 0⟩,
  ⟨0x6006, 2, 2, 4, .ro, 0, 3, 0, 0⟩,
  ⟨0x6007, 0, 0, 1, .ro, 3, 0xff, 0, 0⟩, -- Observation control 0x6007 + 0x10 × i
  ⟨0x6007, 1, 1, 4, .rw, 0x64, 0x3ff, 0, 0⟩,
  ⟨0x6007, 2, 2, 4, .rw, 0x3e8, 0xfffff, 0, 0⟩,
  ⟨0x6007, 3, 3, 4, .rs, 0, 1, 0, 0⟩,
  ⟨0x6008, 0, 0, 0, .ro, 0, 0, 64, 96⟩, -- Observation records
  ⟨0x6009, 0, 0, 1, .ro, 0x40, 0xff, 0, 0⟩, -- Refusal counters
  ⟨0x6009, 1, 0x40, 8, .ro, 0, 0xffffffffffffffff, 0, 0⟩,
  ⟨0x6a00, 0, 0, 1, .ro, 5, 0xff, 0, 0⟩, -- Overload status 0x6A00
  ⟨0x6a00, 1, 1, 4, .rw, 0x108, 0xffff, 0, 0⟩
  ]

/-- Field maps of layouts 0x6000–0x6FFF, part 1. -/
def objRows6_1 : List ObjRow := [
  ⟨0x6a00, 2, 2, 4, .ro, 0, 1, 0, 0⟩, -- Overload status 0x6A00
  ⟨0x6a00, 3, 3, 4, .ro, 0, 0xffffffff, 0, 0⟩,
  ⟨0x6a00, 4, 4, 4, .ro, 0, 0xffffffff, 0, 0⟩,
  ⟨0x6a00, 5, 5, 4, .ro, 0, 0xffffffff, 0, 0⟩,
  ⟨0x6a10, 0, 0, 0, .rw, 0, 0, 1024, 16⟩, -- Stream filters
  ⟨0x6a11, 0, 0, 0, .rw, 0, 0, 1024, 32⟩, -- Meters
  ⟨0x6a12, 0, 0, 0, .ro, 0, 0, 1024, 24⟩, -- Meter counters
  ⟨0x6a13, 0, 0, 0, .ro, 0, 0, 1024, 16⟩, -- Filter counters
  ⟨0x6a20, 0, 0, 0, .rw, 0, 0, 1024, 8⟩, -- FRER functions
  ⟨0x6a21, 0, 0, 0, .ro, 0, 0, 1024, 40⟩, -- FRER counters
  ⟨0x6a30, 0, 0, 1, .ro, 5, 0xff, 0, 0⟩, -- Refusal trace 0x6A30
  ⟨0x6a30, 1, 1, 4, .rw, 0xff, 0xff, 0, 0⟩,
  ⟨0x6a30, 2, 2, 4, .ro, 0, 0x1ff, 0, 0⟩,
  ⟨0x6a30, 3, 3, 4, .ro, 0, 0xffffffff, 0, 0⟩,
  ⟨0x6a30, 4, 4, 4, .wo, 0, 0x1ff, 0, 0⟩,
  ⟨0x6a30, 5, 5, 0, .ro, 0, 0, 256, 64⟩,
  ⟨0x6a31, 0, 0, 1, .ro, 6, 0xff, 0, 0⟩, -- Refusal notices 0x6A31
  ⟨0x6a31, 1, 1, 4, .rw, 0xff00, 0xff01, 0, 0⟩,
  ⟨0x6a31, 2, 2, 4, .rw, 0, 0x7ff, 0, 0⟩,
  ⟨0x6a31, 3, 3, 4, .rw, 0x64, 0x3fff, 0, 0⟩,
  ⟨0x6a31, 4, 4, 0, .rw, 0, 0, 1, 16⟩,
  ⟨0x6a31, 5, 5, 4, .ro, 0, 0xffffffff, 0, 0⟩,
  ⟨0x6a31, 6, 6, 4, .ro, 0, 0xffffffff, 0, 0⟩
  ]

/-- Field maps of layouts 0x6000–0x6FFF. -/
def objRows6 : List ObjRow := objRows6_0 ++ objRows6_1

/-- Field maps of layouts 0x7000–0x7FFF, part 0. -/
def objRows7_0 : List ObjRow := [
  ⟨0x7000, 0, 0, 1, .ro, 8, 0xff, 0, 0⟩, -- Time control 0x7000
  ⟨0x7000, 1, 1, 4, .ro, 0, 0xf, 0, 0⟩,
  ⟨0x7000, 2, 2, 4, .rw, 0, 3, 0, 0⟩,
  ⟨0x7000, 3, 3, 4, .rw, 0x3e8, 0xffffffff, 0, 0⟩,
  ⟨0x7000, 4, 4, 4, .rw, 0x1f4, 0x1ff, 0, 0⟩,
  ⟨0x7000, 5, 5, 4, .rw, 0x3e8, 0xffff, 0, 0⟩,
  ⟨0x7000, 6, 6, 4, .rw, 0x3c, 0xfff, 0, 0⟩,
  ⟨0x7000, 7, 7, 4, .rs, 0, 1, 0, 0⟩,
  ⟨0x7000, 8, 8, 4, .ro, 0, 0xffffffff, 0, 0⟩,
  ⟨0x7001, 0, 0, 1, .ro, 5, 0xff, 0, 0⟩, -- Device time capture 0x7001
  ⟨0x7001, 1, 1, 4, .rs, 0, 1, 0, 0⟩,
  ⟨0x7001, 2, 2, 4, .ro, 0, 0xffffffff, 0, 0⟩,
  ⟨0x7001, 3, 3, 4, .ro, 0, 0xffffffff, 0, 0⟩,
  ⟨0x7001, 4, 4, 4, .ro, 0, 0xffffffff, 0, 0⟩,
  ⟨0x7001, 5, 5, 4, .ro, 0, 0xffffffff, 0, 0⟩,
  ⟨0x7010, 0, 0, 1, .ro, 5, 0xff, 0, 0⟩, -- Correction 0x7010
  ⟨0x7010, 1, 1, 8, .rw, 0, 0xffffffffffffffff, 0, 0⟩,
  ⟨0x7010, 2, 2, 4, .rw, 0, 0xffffffff, 0, 0⟩,
  ⟨0x7010, 3, 3, 4, .rs, 0, 1, 0, 0⟩,
  ⟨0x7010, 4, 4, 8, .ro, 0, 0xffffffffffffffff, 0, 0⟩,
  ⟨0x7010, 5, 5, 4, .ro, 0, 0xffffffff, 0, 0⟩,
  ⟨0x7020, 0, 0, 0, .ro, 0, 0, 1408, 16⟩, -- PTP stamps
  ⟨0x7030, 0, 0, 1, .ro, 4, 0xff, 0, 0⟩, -- PTP instance 0x7030 + k, for k = 0–3
  ⟨0x7030, 1, 1, 4, .rw, 0, 0x1ff03, 0, 0⟩,
  ⟨0x7030, 2, 2, 4, .rw, 0xf8fff8fe, 0xffffffff, 0, 0⟩,
  ⟨0x7030, 3, 3, 4, .ro, 0, 3, 0, 0⟩,
  ⟨0x7030, 4, 4, 8, .ro, 0, 0xffffffffffffffff, 0, 0⟩,
  ⟨0x7100, 0, 0, 1, .ro, 2, 0xff, 0, 0⟩, -- Port timing 0x7100 + index, for index 0–43
  ⟨0x7100, 1, 1, 4, .rw, 0, 0xffffffff, 0, 0⟩,
  ⟨0x7100, 2, 2, 4, .rw, 0, 0xf, 0, 0⟩,
  ⟨0x7200, 0, 0, 1, .ro, 7, 0xff, 0, 0⟩, -- Pulse output 0x7200 + n, for n = 0–15
  ⟨0x7200, 1, 1, 4, .rw, 4, 7, 0, 0⟩,
  ⟨0x7200, 2, 2, 4, .rw, 0, 0xffffffff, 0, 0⟩,
  ⟨0x7200, 3, 3, 4, .rw, 0, 0xffffffff, 0, 0⟩,
  ⟨0x7200, 4, 4, 4, .rw, 0, 0xffff, 0, 0⟩,
  ⟨0x7200, 5, 5, 4, .rw, 0x3b9aca00, 0x3fffffff, 0, 0⟩,
  ⟨0x7200, 6, 6, 4, .rw, 0x3e8, 0x3fffffff, 0, 0⟩,
  ⟨0x7200, 7, 7, 4, .ro, 0, 1, 0, 0⟩,
  ⟨0x7210, 0, 0, 1, .ro, 6, 0xff, 0, 0⟩, -- Trigger 0x7210 + n, for n = 0–7
  ⟨0x7210, 1, 1, 4, .rw, 0xa02, 0x7f03, 0, 0⟩
  ]

/-- Field maps of layouts 0x7000–0x7FFF, part 1. -/
def objRows7_1 : List ObjRow := [
  ⟨0x7210, 2, 2, 4, .rw, 0xf4240, 0x3fffffff, 0, 0⟩, -- Trigger 0x7210 + n, for n = 0–7
  ⟨0x7210, 3, 3, 4, .rw, 0, 0x3fffffff, 0, 0⟩,
  ⟨0x7210, 4, 4, 4, .rw, 0x1f4, 0x3fffffff, 0, 0⟩,
  ⟨0x7210, 5, 5, 4, .ro, 0, 3, 0, 0⟩,
  ⟨0x7210, 6, 6, 4, .ro, 0, 0xffffffff, 0, 0⟩,
  ⟨0x7300, 0, 0, 1, .ro, 3, 0xff, 0, 0⟩, -- Calendar 0x7300
  ⟨0x7300, 1, 1, 4, .ro, 0, 0xffffffff, 0, 0⟩,
  ⟨0x7300, 2, 2, 4, .ro, 0, 0xffffffff, 0, 0⟩,
  ⟨0x7300, 3, 3, 4, .ro, 0, 0xffffffff, 0, 0⟩,
  ⟨0x7400, 0, 0, 0, .ro, 0, 0, 1, 2040⟩, -- Lifetime record
  ⟨0x7401, 0, 0, 1, .ro, 2, 0xff, 0, 0⟩, -- Lifetime control 0x7401
  ⟨0x7401, 1, 1, 4, .ro, 0, 0xffffffff, 0, 0⟩,
  ⟨0x7401, 2, 2, 4, .rs, 0, 1, 0, 0⟩
  ]

/-- Field maps of layouts 0x7000–0x7FFF. -/
def objRows7 : List ObjRow := objRows7_0 ++ objRows7_1

/-- Field maps of layouts 0x8000–0x8FFF, part 0. -/
def objRows8_0 : List ObjRow := [
  ⟨0x8000, 0, 0, 1, .ro, 4, 0xff, 0, 0⟩, -- Life cycle 0x8000
  ⟨0x8000, 1, 1, 4, .ro, 0, 0xf, 0, 0⟩,
  ⟨0x8000, 2, 2, 4, .wo, 0, 7, 0, 0⟩,
  ⟨0x8000, 3, 3, 4, .ro, 0, 0xff, 0, 0⟩,
  ⟨0x8000, 4, 4, 0, .ro, 0, 0, 1, 32⟩,
  ⟨0x8001, 0, 0, 0, .wo, 0, 0, 1, 136⟩, -- Life-cycle token
  ⟨0x8010, 0, 0, 1, .ro, 6, 0xff, 0, 0⟩, -- Key command 0x8010
  ⟨0x8010, 1, 1, 4, .rw, 0x400000, 0x7fffff, 0, 0⟩,
  ⟨0x8010, 2, 2, 4, .rw, 0, 0xffff, 0, 0⟩,
  ⟨0x8010, 3, 3, 0, .rw, 0, 0, 1, 16⟩,
  ⟨0x8010, 4, 4, 4, .rs, 0, 1, 0, 0⟩,
  ⟨0x8010, 5, 5, 4, .ro, 0, 0xffff, 0, 0⟩,
  ⟨0x8010, 6, 6, 4, .ro, 0, 0xffffffff, 0, 0⟩,
  ⟨0x8011, 0, 0, 0, .ro, 0, 0, 1089, 32⟩, -- Key table
  ⟨0x8012, 0, 0, 0, .wo, 0, 0, 1, 160⟩, -- Import blob
  ⟨0x8020, 0, 0, 1, .ro, 4, 0xff, 0, 0⟩, -- Attestation 0x8020
  ⟨0x8020, 1, 1, 4, .rw, 0x30000, 0xfffff, 0, 0⟩,
  ⟨0x8020, 2, 2, 0, .rw, 0, 0, 1, 32⟩,
  ⟨0x8020, 3, 3, 4, .rs, 0, 1, 0, 0⟩,
  ⟨0x8020, 4, 4, 4, .ro, 0, 0xff, 0, 0⟩,
  ⟨0x8021, 0, 0, 0, .ro, 0, 0, 1, 340⟩, -- Statement
  ⟨0x8022, 0, 0, 0, .ro, 0, 0, 4096, 1⟩, -- DIK certificate chain (DOMAIN)
  ⟨0x8030, 0, 0, 1, .ro, 8, 0xff, 0, 0⟩, -- Alarm 0x8030
  ⟨0x8030, 1, 1, 4, .rw, 0x14685, 0x3ffff, 0, 0⟩,
  ⟨0x8030, 2, 2, 4, .rw, 0x1008, 0xffff, 0, 0⟩,
  ⟨0x8030, 3, 3, 4, .ro, 0, 1, 0, 0⟩,
  ⟨0x8030, 4, 4, 4, .rs, 0, 1, 0, 0⟩,
  ⟨0x8030, 5, 5, 4, .rw, 0, 0x3ffff, 0, 0⟩,
  ⟨0x8030, 6, 8, 4, .ro, 0, 0xffffffff, 0, 0⟩,
  ⟨0x8031, 0, 0, 0, .ro, 0, 0, 256, 32⟩, -- Alarm log
  ⟨0x8040, 0, 0, 1, .ro, 5, 0xff, 0, 0⟩, -- Ledger status 0x8040
  ⟨0x8040, 1, 1, 4, .ro, 0, 0xffffffff, 0, 0⟩,
  ⟨0x8040, 2, 2, 4, .ro, 0, 0xffffffff, 0, 0⟩,
  ⟨0x8040, 3, 3, 4, .ro, 0, 0xffffffff, 0, 0⟩,
  ⟨0x8040, 4, 4, 4, .ro, 0, 0x103ff, 0, 0⟩,
  ⟨0x8040, 5, 5, 4, .ro, 0, 0xffffffff, 0, 0⟩,
  ⟨0x8050, 0, 0, 1, .ro, 5, 0xff, 0, 0⟩, -- Configuration 0x8050
  ⟨0x8050, 1, 1, 4, .rw, 1, 7, 0, 0⟩,
  ⟨0x8050, 2, 2, 4, .rs, 0, 1, 0, 0⟩,
  ⟨0x8050, 3, 3, 4, .ro, 0, 0xff, 0, 0⟩
  ]

/-- Field maps of layouts 0x8000–0x8FFF, part 1. -/
def objRows8_1 : List ObjRow := [
  ⟨0x8050, 4, 4, 4, .ro, 0, 0xffffff, 0, 0⟩, -- Configuration 0x8050
  ⟨0x8050, 5, 5, 4, .ro, 0, 0xffffffff, 0, 0⟩,
  ⟨0x8051, 0, 0, 0, .rw, 0, 0, 524288, 16⟩, -- Configuration image
  ⟨0x8052, 0, 0, 0, .ro, 0, 0, 4, 97⟩, -- Anchors
  ⟨0x8100, 0, 0, 1, .ro, 8, 0xff, 0, 0⟩, -- Crypto status 0x8100
  ⟨0x8100, 1, 1, 4, .rw, 0x80, 0xff, 0, 0⟩,
  ⟨0x8100, 2, 2, 4, .ro, 0x1f, 0x1f, 0, 0⟩,
  ⟨0x8100, 3, 3, 4, .ro, 0x4b, 0x7f, 0, 0⟩,
  ⟨0x8100, 4, 4, 4, .ro, 0, 0xffffffff, 0, 0⟩,
  ⟨0x8100, 5, 5, 4, .ro, 0, 0xffffffff, 0, 0⟩,
  ⟨0x8100, 6, 6, 4, .ro, 0, 0xffffffff, 0, 0⟩,
  ⟨0x8100, 7, 7, 4, .ro, 0, 0xffffffff, 0, 0⟩,
  ⟨0x8100, 8, 8, 4, .ro, 0, 0xffffffff, 0, 0⟩,
  ⟨0x8110, 0, 0, 0, .rw, 0, 0, 28, 24⟩, -- SecY records
  ⟨0x8111, 0, 0, 0, .rw, 0, 0, 1024, 64⟩, -- SA records
  ⟨0x8112, 0, 0, 0, .ro, 0, 0, 1024, 32⟩, -- SA status
  ⟨0x8113, 0, 0, 0, .ro, 0, 0, 28, 64⟩, -- MACsec port counters
  ⟨0x8120, 0, 0, 0, .rw, 0, 0, 72, 4⟩, -- CANsec channels
  ⟨0x8130, 0, 0, 0, .rw, 0, 0, 4096, 32⟩, -- Authenticator records
  ⟨0x8131, 0, 0, 0, .ro, 0, 0, 4096, 32⟩ -- Authenticator state
  ]

/-- Field maps of layouts 0x8000–0x8FFF. -/
def objRows8 : List ObjRow := objRows8_0 ++ objRows8_1

/-- Field maps of layouts 0x9000–0x9FFF, part 0. -/
def objRows9_0 : List ObjRow := [
  ⟨0x9000, 0, 0, 1, .ro, 9, 0xff, 0, 0⟩, -- Snapshot 0x9000
  ⟨0x9000, 1, 5, 4, .rw, 0, 0xffffffff, 0, 0⟩,
  ⟨0x9000, 6, 6, 4, .rs, 0, 1, 0, 0⟩,
  ⟨0x9000, 7, 7, 4, .ro, 0, 0xffffffff, 0, 0⟩,
  ⟨0x9000, 8, 8, 4, .ro, 0, 0xffffffff, 0, 0⟩,
  ⟨0x9000, 9, 9, 4, .ro, 0, 0xffffffff, 0, 0⟩,
  ⟨0x9100, 0, 0, 1, .ro, 0x40, 0xff, 0, 0⟩, -- Counter bank, Ethernet ports
  ⟨0x9100, 1, 1, 8, .ro, 0, 0xffffffffffffffff, 0, 0⟩,
  ⟨0x9100, 2, 2, 8, .ro, 0, 0xffffffffffffffff, 0, 0⟩,
  ⟨0x9100, 3, 5, 8, .ro, 0, 0xffffffffffffffff, 0, 0⟩,
  ⟨0x9100, 6, 6, 8, .ro, 0, 0xffffffffffffffff, 0, 0⟩,
  ⟨0x9100, 7, 7, 8, .ro, 0, 0xffffffffffffffff, 0, 0⟩,
  ⟨0x9100, 8, 8, 8, .ro, 0, 0xffffffffffffffff, 0, 0⟩,
  ⟨0x9100, 9, 9, 8, .ro, 0, 0xffffffffffffffff, 0, 0⟩,
  ⟨0x9100, 0xa, 0xa, 8, .ro, 0, 0xffffffffffffffff, 0, 0⟩,
  ⟨0x9100, 0xb, 0xb, 8, .ro, 0, 0xffffffffffffffff, 0, 0⟩,
  ⟨0x9100, 0xc, 0xc, 8, .ro, 0, 0xffffffffffffffff, 0, 0⟩,
  ⟨0x9100, 0xd, 0xd, 8, .ro, 0, 0xffffffffffffffff, 0, 0⟩,
  ⟨0x9100, 0xe, 0xe, 8, .ro, 0, 0xffffffffffffffff, 0, 0⟩,
  ⟨0x9100, 0xf, 0xf, 8, .ro, 0, 0xffffffffffffffff, 0, 0⟩,
  ⟨0x9100, 0x10, 0x10, 8, .ro, 0, 0xffffffffffffffff, 0, 0⟩,
  ⟨0x9100, 0x11, 0x18, 8, .ro, 0, 0xffffffffffffffff, 0, 0⟩,
  ⟨0x9100, 0x19, 0x19, 8, .ro, 0, 0xffffffffffffffff, 0, 0⟩,
  ⟨0x9100, 0x1a, 0x1a, 8, .ro, 0, 0xffffffffffffffff, 0, 0⟩,
  ⟨0x9100, 0x1b, 0x1d, 8, .ro, 0, 0xffffffffffffffff, 0, 0⟩,
  ⟨0x9100, 0x1e, 0x1e, 8, .ro, 0, 0xffffffffffffffff, 0, 0⟩,
  ⟨0x9100, 0x1f, 0x1f, 8, .ro, 0, 0xffffffffffffffff, 0, 0⟩,
  ⟨0x9100, 0x20, 0x20, 8, .ro, 0, 0xffffffffffffffff, 0, 0⟩,
  ⟨0x9100, 0x21, 0x21, 8, .ro, 0, 0xffffffffffffffff, 0, 0⟩,
  ⟨0x9100, 0x22, 0x22, 8, .ro, 0, 0xffffffffffffffff, 0, 0⟩,
  ⟨0x9100, 0x23, 0x23, 8, .ro, 0, 0xffffffffffffffff, 0, 0⟩,
  ⟨0x9100, 0x24, 0x24, 8, .ro, 0, 0xffffffffffffffff, 0, 0⟩,
  ⟨0x9100, 0x25, 0x25, 8, .ro, 0, 0xffffffffffffffff, 0, 0⟩,
  ⟨0x9100, 0x26, 0x26, 8, .ro, 0, 0xffffffffffffffff, 0, 0⟩,
  ⟨0x9100, 0x27, 0x27, 8, .ro, 0, 0xffffffffffffffff, 0, 0⟩,
  ⟨0x9100, 0x28, 0x2a, 8, .ro, 0, 0xffffffffffffffff, 0, 0⟩,
  ⟨0x9100, 0x2b, 0x2b, 8, .ro, 0, 0xffffffffffffffff, 0, 0⟩,
  ⟨0x9100, 0x2c, 0x2c, 8, .ro, 0, 0xffffffffffffffff, 0, 0⟩,
  ⟨0x9100, 0x2d, 0x2f, 8, .ro, 0, 0xffffffffffffffff, 0, 0⟩,
  ⟨0x9100, 0x30, 0x30, 8, .ro, 0, 0xffffffffffffffff, 0, 0⟩
  ]

/-- Field maps of layouts 0x9000–0x9FFF, part 1. -/
def objRows9_1 : List ObjRow := [
  ⟨0x9100, 0x31, 0x38, 8, .ro, 0, 0xffffffffffffffff, 0, 0⟩, -- Counter bank, Ethernet ports
  ⟨0x9100, 0x39, 0x39, 8, .ro, 0, 0xffffffffffffffff, 0, 0⟩,
  ⟨0x9100, 0x3a, 0x3a, 8, .ro, 0, 0xffffffffffffffff, 0, 0⟩,
  ⟨0x9100, 0x3b, 0x3b, 8, .ro, 0, 0xffffffffffffffff, 0, 0⟩,
  ⟨0x9100, 0x3c, 0x3c, 8, .ro, 0, 0xffffffffffffffff, 0, 0⟩,
  ⟨0x9100, 0x3d, 0x3d, 8, .ro, 0, 0xffffffffffffffff, 0, 0⟩,
  ⟨0x9100, 0x3e, 0x3e, 8, .ro, 0, 0xffffffffffffffff, 0, 0⟩,
  ⟨0x9100, 0x3f, 0x3f, 8, .ro, 0, 0xffffffffffffffff, 0, 0⟩,
  ⟨0x9100, 0x40, 0x40, 8, .ro, 0, 0, 0, 0⟩,
  ⟨0x9140, 0, 0, 1, .ro, 0x1e, 0xff, 0, 0⟩, -- Counter bank, like channels
  ⟨0x9140, 1, 1, 8, .ro, 0, 0xffffffffffffffff, 0, 0⟩,
  ⟨0x9140, 2, 2, 8, .ro, 0, 0xffffffffffffffff, 0, 0⟩,
  ⟨0x9140, 3, 5, 8, .ro, 0, 0xffffffffffffffff, 0, 0⟩,
  ⟨0x9140, 6, 6, 8, .ro, 0, 0xffffffffffffffff, 0, 0⟩,
  ⟨0x9140, 7, 7, 8, .ro, 0, 0xffffffffffffffff, 0, 0⟩,
  ⟨0x9140, 8, 0xc, 8, .ro, 0, 0xffffffffffffffff, 0, 0⟩,
  ⟨0x9140, 0xd, 0xd, 8, .ro, 0, 0xffffffffffffffff, 0, 0⟩,
  ⟨0x9140, 0xe, 0xe, 8, .ro, 0, 0xffffffffffffffff, 0, 0⟩,
  ⟨0x9140, 0xf, 0xf, 8, .ro, 0, 0xffffffffffffffff, 0, 0⟩,
  ⟨0x9140, 0x10, 0x10, 8, .ro, 0, 0xffffffffffffffff, 0, 0⟩,
  ⟨0x9140, 0x11, 0x11, 8, .ro, 0, 0xffffffffffffffff, 0, 0⟩,
  ⟨0x9140, 0x12, 0x12, 8, .ro, 0, 0xffffffffffffffff, 0, 0⟩,
  ⟨0x9140, 0x13, 0x13, 8, .ro, 0, 0xffffffffffffffff, 0, 0⟩,
  ⟨0x9140, 0x14, 0x14, 8, .ro, 0, 0xffffffffffffffff, 0, 0⟩,
  ⟨0x9140, 0x15, 0x15, 8, .ro, 0, 0xffffffffffffffff, 0, 0⟩,
  ⟨0x9140, 0x16, 0x16, 8, .ro, 0, 0xffffffffffffffff, 0, 0⟩,
  ⟨0x9140, 0x17, 0x17, 8, .ro, 0, 0xffffffffffffffff, 0, 0⟩,
  ⟨0x9140, 0x18, 0x18, 8, .ro, 0, 0xffffffffffffffff, 0, 0⟩,
  ⟨0x9140, 0x19, 0x19, 8, .ro, 0, 0xffffffffffffffff, 0, 0⟩,
  ⟨0x9140, 0x1a, 0x1a, 8, .ro, 0, 0xffffffffffffffff, 0, 0⟩,
  ⟨0x9140, 0x1b, 0x1b, 8, .ro, 0, 0xffffffffffffffff, 0, 0⟩,
  ⟨0x9140, 0x1c, 0x1c, 8, .ro, 0, 0xffffffffffffffff, 0, 0⟩,
  ⟨0x9140, 0x1d, 0x1d, 8, .ro, 0, 0xffffffffffffffff, 0, 0⟩,
  ⟨0x9140, 0x1e, 0x1e, 8, .ro, 0, 0xffffffffffffffff, 0, 0⟩,
  ⟨0x9300, 0, 0, 0, .ro, 0, 0, 64, 96⟩, -- Observation bank
  ⟨0x9500, 0, 0, 1, .ro, 0x40, 0xff, 0, 0⟩, -- Refusal bank
  ⟨0x9500, 1, 0x40, 8, .ro, 0, 0xffffffffffffffff, 0, 0⟩
  ]

/-- Field maps of layouts 0x9000–0x9FFF. -/
def objRows9 : List ObjRow := objRows9_0 ++ objRows9_1

/-- Field maps of layouts 0xA000–0xAFFF, part 0. -/
def objRowsA_0 : List ObjRow := [
  ⟨0xa000, 0, 0, 1, .ro, 3, 0xff, 0, 0⟩, -- Consist control 0xA000
  ⟨0xa000, 1, 1, 4, .rw, 0x8000, 0x1ff17, 0, 0⟩,
  ⟨0xa000, 2, 2, 4, .rw, 0x3e8, 0x3fff, 0, 0⟩,
  ⟨0xa000, 3, 3, 4, .rw, 0x141388, 0x3ffffff, 0, 0⟩,
  ⟨0xa001, 0, 0, 1, .ro, 1, 0xff, 0, 0⟩, -- Session target 0xA001, session-local
  ⟨0xa001, 1, 1, 4, .rw, 0, 0xf, 0, 0⟩,
  ⟨0xa002, 0, 0, 1, .ro, 5, 0xff, 0, 0⟩, -- Consist status 0xA002
  ⟨0xa002, 1, 1, 4, .ro, 0, 0x3ffff, 0, 0⟩,
  ⟨0xa002, 2, 2, 4, .ro, 0, 0xffff, 0, 0⟩,
  ⟨0xa002, 3, 3, 4, .ro, 0, 0xffffffff, 0, 0⟩,
  ⟨0xa002, 4, 4, 4, .ro, 0, 0xffffffff, 0, 0⟩,
  ⟨0xa002, 5, 5, 4, .ro, 0, 0xffffffff, 0, 0⟩,
  ⟨0xa010, 0, 0, 0, .ro, 0, 0, 8, 4⟩, -- Path table
  ⟨0xa011, 0, 0, 0, .ro, 0, 0, 8, 16⟩ -- Member table
  ]

/-- Field maps of layouts 0xA000–0xAFFF. -/
def objRowsA : List ObjRow := objRowsA_0

/-- Field maps of layouts 0xF000–0xFFFF, part 0. -/
def objRowsF_0 : List ObjRow := [
  ⟨0xf000, 0, 0, 1, .ro, 6, 0xff, 0, 0⟩, -- Start-up status 0xF000
  ⟨0xf000, 1, 1, 4, .ro, 0, 0xffffffff, 0, 0⟩,
  ⟨0xf000, 2, 2, 4, .ro, 0, 0x7f, 0, 0⟩,
  ⟨0xf000, 3, 3, 4, .ro, 1, 0xff, 0, 0⟩,
  ⟨0xf000, 4, 4, 4, .ro, 0, 0xffffffff, 0, 0⟩,
  ⟨0xf000, 5, 5, 4, .ro, 0, 0xffff, 0, 0⟩,
  ⟨0xf000, 6, 6, 4, .ro, 0, 0xffff, 0, 0⟩,
  ⟨0xf001, 0, 0, 0, .ro, 0, 0, 47, 16⟩, -- Start-up BIST results
  ⟨0xf010, 0, 0, 1, .ro, 0x19, 0xff, 0, 0⟩, -- Latency probe 0xF010
  ⟨0xf010, 1, 1, 4, .rs, 0, 1, 0, 0⟩,
  ⟨0xf010, 2, 2, 4, .rw, 0x40, 0xff, 0, 0⟩,
  ⟨0xf010, 3, 3, 4, .rw, 0, 0x3fffffff, 0, 0⟩,
  ⟨0xf010, 4, 4, 4, .ro, 0, 0xff03, 0, 0⟩,
  ⟨0xf010, 0x10, 0x19, 4, .ro, 0xffffffff, 0xffffffff, 0, 0⟩
  ]

/-- Field maps of layouts 0xF000–0xFFFF. -/
def objRowsF : List ObjRow := objRowsF_0

/-- Indexes with one instance (Tables 18.2–18.9, Chapters 19 and 20). -/
def singleIndexes : List Nat := [0x1018, 0x1030, 0x1100, 0x1101, 0x1110, 0x1120, 0x1130, 0x1200, 0x1201, 0x1300,
  0x1301, 0x1f00, 0x1f01, 0x2001, 0x2002, 0x2003, 0x2005, 0x2006, 0x2010, 0x2011, 0x2020, 0x2030, 0x2031, 0x2040,
  0x2060, 0x2061, 0x2062, 0x2064, 0x2070, 0x2071, 0x2072, 0x2073, 0x2074, 0x2080, 0x2081, 0x2082, 0x2090, 0x20a0,
  0x20a1, 0x20a2, 0x5000, 0x5001, 0x5002, 0x5004, 0x5010, 0x5030, 0x5600, 0x5601, 0x5610, 0x5611, 0x5612, 0x5613,
  0x5620, 0x5800, 0x5801, 0x5808, 0x5809, 0x5810, 0x5811, 0x5812, 0x5814, 0x5815, 0x5816, 0x6a00, 0x6a10, 0x6a11,
  0x6a12, 0x6a13, 0x6a20, 0x6a21, 0x6a30, 0x6a31, 0x7000, 0x7001, 0x7010, 0x7020, 0x7300, 0x7400, 0x7401, 0x8000,
  0x8001, 0x8010, 0x8011, 0x8012, 0x8020, 0x8021, 0x8022, 0x8030, 0x8031, 0x8040, 0x8050, 0x8051, 0x8052, 0x8100,
  0x8110, 0x8111, 0x8112, 0x8113, 0x8120, 0x8130, 0x8131, 0x9000, 0xa000, 0xa001, 0xa002, 0xa010, 0xa011, 0xf000,
  0xf001, 0xf010]

/-- The layout of an index and its instance number, or `none` where the index does not exist (R449, R453, R455,
Tables 18.1–18.11, 6.1 and 8.1). -/
def layoutOf (idx : Nat) : Option (Nat × Nat) :=
  if 0x2100 ≤ idx ∧ idx ≤ 0x212E then some (0x2100, idx - 0x2100)
  else if 0x2200 ≤ idx ∧ idx ≤ 0x222E then some (0x2200, idx - 0x2200)
  else if 0x3000 ≤ idx ∧ idx ≤ 0x3AFF then
    let i := (idx - 0x3000) / 0x40
    let off := (idx - 0x3000) % 0x40
    if off ∈ [0, 1, 2, 3, 8, 0x10] then some (0x3000 + off, i)
    else if off ∈ [4, 5] ∧ 28 ≤ i then some (0x3000 + off, i) else none
  else if 0x4000 ≤ idx ∧ idx ≤ 0x4BFF then
    let c := (idx - 0x4000) / 0x20
    let off := (idx - 0x4000) % 0x20
    if c < 72 then
      if off ∈ [0, 1, 2, 4, 5, 6, 8, 9, 0x10] then some (0x4000 + off, c) else none
    else if off ∈ [0, 1, 5, 6, 0x10, 0x11, 0x12] then some (0x14000 + off, c) else none
  else if 0x6000 ≤ idx ∧ idx ≤ 0x69FF then
    let i := (idx - 0x6000) / 0x10
    let off := (idx - 0x6000) % 0x10
    if 47 ≤ i ∧ i ≤ 63 then none
    else if off ∈ [0, 1, 7, 8, 9] then some (0x6000 + off, i)
    else if off ∈ [2, 4, 5, 6] ∧ i ≤ 27 then some (0x6000 + off, i)
    else if off = 3 ∧ i ≤ 11 then some (0x6003, i) else none
  else if 0x7030 ≤ idx ∧ idx ≤ 0x7033 then some (0x7030, idx - 0x7030)
  else if 0x7100 ≤ idx ∧ idx ≤ 0x712B then some (0x7100, idx - 0x7100)
  else if 0x7200 ≤ idx ∧ idx ≤ 0x720F then some (0x7200, idx - 0x7200)
  else if 0x7210 ≤ idx ∧ idx ≤ 0x7217 then some (0x7210, idx - 0x7210)
  else if 0x9100 ≤ idx ∧ idx ≤ 0x912B then some (0x9100, idx - 0x9100)
  else if 0x9140 ≤ idx ∧ idx ≤ 0x919F then some (0x9140, idx - 0x9100)
  else if (0x9300 ≤ idx ∧ idx ≤ 0x932E) ∨ (0x9340 ≤ idx ∧ idx ≤ 0x939F) then some (0x9300, idx - 0x9300)
  else if (0x9500 ≤ idx ∧ idx ≤ 0x952E) ∨ (0x9540 ≤ idx ∧ idx ≤ 0x959F) then some (0x9500, idx - 0x9500)
  else if idx ∈ singleIndexes then some (idx, 0)
  else none

/-- The rows that can describe a layout. -/
def rowsFor (lay : Nat) : List ObjRow :=
  match lay % 0x10000 / 0x1000 with
  | 1 => objRows1
  | 2 => objRows2
  | 3 => objRows3
  | 4 => objRows4
  | 5 => objRows5
  | 6 => objRows6
  | 7 => objRows7
  | 8 => objRows8
  | 9 => objRows9
  | 10 => objRowsA
  | 15 => objRowsF
  | _ => []

/-- The row of a subindex of a layout. -/
def rowOf (lay sub : Nat) : Option ObjRow :=
  (rowsFor lay).find? fun r => r.lay == lay && (r.lo ≤ sub && sub ≤ r.hi)

/-- The row that describes an object index:subindex. -/
def objRow (idx sub : Nat) : Option ObjRow :=
  match layoutOf idx with
  | none => none
  | some (lay, _) => rowOf lay sub

/-- Defaults that depend on the instance: Tables 2.4, 2.5 and 12.7. -/
def instDefault (lay n sub d : Nat) : Nat :=
  if lay = 0x2200 ∧ sub = 1 then (if n = 10 then 0xFF0106 else 0xFF0100)
  else if lay = 0x2200 ∧ sub = 2 then
    (if n ≤ 31 then 100 else if n ≤ 36 then 2000 else if n = 37 then 10000 else if n ≤ 42 then 1000 else 10000)
  else if lay = 0x2200 ∧ sub = 8 then
    (if (2 ≤ n ∧ n ≤ 10) ∨ (23 ≤ n ∧ n ≤ 27) ∨ (32 ≤ n ∧ n ≤ 37) then 256 else 0)
  else if lay = 0x7030 ∧ sub = 1 then n * 256
  else d

/-- The default of a scalar object (R426), 0 where the object does not exist. -/
def objDefault (idx sub : Nat) : Nat :=
  match layoutOf idx with
  | none => 0
  | some (lay, n) =>
    match rowOf lay sub with
    | none => 0
    | some r => instDefault lay n sub r.dflt

/-- One value range of a field map: field [bh:bl] of layout `lay`, subindexes `lo`–`hi`, holds `mn`–`mx`;
`enc` marks an encoded field, whose other values are reserved values (R12, R446). -/
structure RangeRow where
  lay : Nat
  lo : Nat
  hi : Nat
  bh : Nat
  bl : Nat
  mn : Nat
  mx : Nat
  enc : Bool
  deriving DecidableEq, Repr

/-- The value ranges of the field maps that one field alone decides, control and management objects. -/
def rangeRowsA : List RangeRow := [
  ⟨0x2010, 1, 1, 31, 0, 10, 10000, false⟩, ⟨0x2010, 2, 2, 15, 0, 0x100, 0x400, false⟩,
  ⟨0x2200, 2, 2, 13, 0, 1, 10000, false⟩, ⟨0x2020, 1, 1, 7, 0, 0, 46, false⟩, ⟨0x2020, 1, 1, 11, 8, 0, 6, true⟩,
  ⟨0x2040, 2, 2, 31, 0, 60, 86400, false⟩, ⟨0x2061, 1, 8, 31, 0, 1, 1000000, false⟩,
  ⟨0x2002, 1, 1, 6, 0, 15, 100, false⟩, ⟨0x2002, 2, 2, 1, 0, 0, 1, true⟩, ⟨0x2005, 2, 2, 2, 0, 1, 4, false⟩,
  ⟨0x2011, 2, 2, 15, 0, 0x100, 0x400, false⟩, ⟨0x2011, 2, 2, 31, 16, 0, 0x800, false⟩,
  ⟨0x2011, 3, 3, 9, 0, 650, 900, false⟩, ⟨0x2011, 3, 3, 25, 16, 650, 900, false⟩,
  ⟨0x2011, 4, 4, 15, 0, 1, 65535, false⟩, ⟨0x2011, 4, 4, 31, 16, 50, 10000, false⟩,
  ⟨0x2070, 1, 1, 5, 0, 5, 50, false⟩, ⟨0x2070, 1, 1, 21, 8, 500, 10000, false⟩,
  ⟨0x20A0, 2, 2, 13, 0, 1, 10000, false⟩, ⟨0x1F00, 1, 1, 2, 0, 1, 5, true⟩,
  ⟨0x1120, 1, 1, 13, 0, 0, 10000, false⟩, ⟨0x1100, 1, 1, 6, 0, 1, 127, false⟩, ⟨0x1100, 5, 5, 13, 0, 100, 10000, false⟩,
  ⟨0x1110, 1, 1, 15, 0, 1, 65535, false⟩, ⟨0x1110, 2, 2, 11, 0, 5, 3600, false⟩, ⟨0x1110, 2, 2, 16, 12, 1, 16, false⟩,
  ⟨0xA000, 2, 2, 13, 0, 100, 10000, false⟩, ⟨0xA000, 3, 3, 15, 0, 0, 60000, false⟩, ⟨0xA000, 3, 3, 25, 16, 1, 1000, false⟩,
  ⟨0x8010, 1, 1, 19, 16, 1, 8, true⟩, ⟨0x8010, 1, 1, 21, 20, 0, 2, true⟩, ⟨0x8020, 1, 1, 19, 16, 1, 3, true⟩,
  ⟨0x8030, 1, 1, 1, 0, 0, 2, true⟩, ⟨0x8030, 1, 1, 3, 2, 0, 2, true⟩, ⟨0x8030, 1, 1, 5, 4, 0, 2, true⟩,
  ⟨0x8030, 1, 1, 7, 6, 0, 2, true⟩, ⟨0x8030, 1, 1, 9, 8, 0, 2, true⟩, ⟨0x8030, 1, 1, 11, 10, 0, 2, true⟩,
  ⟨0x8030, 1, 1, 13, 12, 0, 2, true⟩, ⟨0x8030, 1, 1, 15, 14, 0, 2, true⟩, ⟨0x8030, 1, 1, 17, 16, 0, 2, true⟩,
  ⟨0x8030, 2, 2, 7, 0, 1, 255, false⟩, ⟨0x8030, 2, 2, 15, 8, 1, 255, false⟩,
  ⟨0x8030, 5, 5, 7, 0, 0, 43, false⟩, ⟨0x8030, 5, 5, 15, 8, 0, 43, false⟩, ⟨0x8050, 1, 1, 2, 0, 1, 3, false⟩]

/-- The value ranges of the field maps that one field alone decides, data-plane and time objects. -/
def rangeRowsB : List RangeRow := [
  ⟨0x3008, 1, 1, 5, 0, 0, 48, false⟩, ⟨0x3000, 1, 1, 18, 0, 0, 262144, false⟩, ⟨0x5010, 6, 6, 2, 0, 0, 3, true⟩,
  ⟨0x5002, 1, 5, 31, 0, 0, 3600, false⟩, ⟨0x3003, 2, 2, 9, 0, 1, 1000, false⟩, ⟨0x3003, 3, 3, 13, 0, 1, 10000, false⟩,
  ⟨0x3004, 1, 1, 13, 8, 1, 32, false⟩, ⟨0x3004, 2, 2, 7, 0, 1, 255, false⟩, ⟨0x3004, 2, 2, 23, 16, 1, 255, false⟩,
  ⟨0x4001, 1, 1, 6, 0, 1, 64, false⟩, ⟨0x4001, 1, 1, 15, 8, 1, 255, false⟩, ⟨0x4001, 1, 1, 23, 16, 1, 128, false⟩,
  ⟨0x4001, 1, 1, 31, 24, 1, 128, false⟩,
  ⟨0x14001, 1, 1, 17, 0, 8000, 160000, false⟩, ⟨0x14001, 1, 1, 22, 18, 13, 26, false⟩,
  ⟨0x4002, 1, 1, 6, 0, 1, 32, false⟩, ⟨0x4002, 1, 1, 15, 8, 1, 63, false⟩, ⟨0x4002, 1, 1, 23, 16, 1, 32, false⟩,
  ⟨0x4002, 1, 1, 31, 24, 1, 32, false⟩,
  ⟨0x4002, 3, 3, 6, 0, 1, 32, false⟩, ⟨0x4002, 3, 3, 15, 8, 1, 63, false⟩, ⟨0x4002, 3, 3, 23, 16, 1, 32, false⟩,
  ⟨0x4002, 3, 3, 31, 24, 1, 32, false⟩,
  ⟨0x4002, 4, 4, 5, 0, 1, 63, false⟩, ⟨0x4002, 4, 4, 13, 8, 1, 63, false⟩,
  ⟨0x4008, 1, 1, 3, 1, 0, 6, false⟩, ⟨0x4008, 1, 1, 10, 4, 2, 64, false⟩, ⟨0x4008, 2, 2, 23, 0, 1, 16777215, false⟩,
  ⟨0x4009, 1, 1, 1, 0, 0, 2, false⟩, ⟨0x4009, 2, 2, 2, 0, 0, 0, false⟩, ⟨0x4009, 3, 3, 13, 0, 50, 10000, false⟩,
  ⟨0x14011, 2, 2, 13, 8, 1, 50, false⟩,
  ⟨0x6000, 1, 1, 2, 1, 0, 2, true⟩,
  ⟨0x6000, 3, 4, 7, 0, 1, 255, false⟩, ⟨0x6000, 3, 4, 15, 8, 1, 255, false⟩, ⟨0x6000, 3, 4, 23, 16, 1, 255, false⟩,
  ⟨0x6000, 3, 4, 31, 24, 1, 255, false⟩,
  ⟨0x6002, 1, 8, 24, 0, 0, 25000000, false⟩, ⟨0x6004, 2, 2, 31, 0, 0, 999999999, false⟩,
  ⟨0x6004, 5, 5, 29, 0, 1000, 1000000000, false⟩, ⟨0x6004, 6, 6, 8, 0, 1, 256, false⟩,
  ⟨0x6007, 1, 1, 9, 0, 1, 1000, false⟩, ⟨0x6007, 2, 2, 19, 0, 10, 1000000, false⟩,
  ⟨0x6A00, 1, 1, 15, 0, 0x100, 0x400, false⟩, ⟨0x6A30, 4, 4, 8, 0, 1, 256, false⟩,
  ⟨0x6A31, 2, 2, 7, 0, 0, 43, false⟩, ⟨0x6A31, 3, 3, 13, 0, 1, 10000, false⟩, ⟨0x5801, 1, 1, 9, 0, 1, 1000, false⟩,
  ⟨0x7000, 3, 3, 31, 0, 100, 1000000000, false⟩, ⟨0x7000, 4, 4, 8, 0, 1, 500, false⟩,
  ⟨0x7000, 5, 5, 15, 0, 10, 60000, false⟩, ⟨0x7000, 6, 6, 11, 0, 1, 3600, false⟩,
  ⟨0x7200, 2, 2, 31, 0, 0, 999999999, false⟩, ⟨0x7200, 5, 5, 29, 0, 100, 1000000000, false⟩,
  ⟨0x7210, 1, 1, 14, 8, 1, 100, false⟩, ⟨0x7210, 2, 2, 29, 0, 1000, 1000000000, false⟩]

/-- All value ranges of the field maps. -/
def rangeRows : List RangeRow := rangeRowsA ++ rangeRowsB

end Sys2Proof.Machine
end

