-- ==== Sys2Proof/Machine/State.lean ====
section
/-! DEFINITION. The state of the KX9612: everything the spec gives the part. Every dictionary scalar stands in `regs`
(sparse, unlisted = its default of R426); every table window byte in `wins`; what no object shows stands in the parts of the
units. All plain data. -/

namespace Sys2Proof.Machine

/-! ### Carriages, couplings, headroom (Chapters 1 and 2) -/

/-- A request held in a coupling (Table 2.1): `held` when it arrived after step 1 of a sequence (R46). -/
structure CReq where
  requester : Nat
  target : Nat
  tag : Nat
  epoch : Nat
  op : CouplingOp
  held : Bool
  deriving DecidableEq, Repr

/-- An acknowledge held in a coupling on its way to its requester (Table 2.1). -/
structure CAck where
  requester : Nat
  responder : Nat
  tag : Nat
  op : CouplingOp
  reqEpoch : Nat
  respEpoch : Nat
  status : Nat
  deriving DecidableEq, Repr

/-- What a sequence of the carriage controller does (R46, R51–R62, R393). -/
inductive SeqAct
  | reset | powerDown | powerUp | test | bankSwap | bankLost | retire | bringBack | edgeSwap
  deriving DecidableEq, Repr

/-- Where a sequence stands: copying or shunting before its drain, draining, or in the action after the fence. -/
inductive SeqPhase
  | copying | shunting | draining | acting | integrating
  deriving DecidableEq, Repr

/-- One running sequence of the carriage controller (R53). `limit` is its drain limit in µs, `since` the instant its
phase began, `begun` the instant of its trigger, `spare` the spare bank or spare controller it uses. -/
structure CarSeq where
  carriage : Nat
  act : SeqAct
  phase : SeqPhase
  reason : Nat
  limit : Nat
  since : Nat
  begun : Nat
  cmd : Bool
  fifth : Bool
  unit : Nat
  spare : Nat
  completed : Nat
  moved : Nat
  prior : Nat
  deriving DecidableEq, Repr

/-- A swap or an alarm restart that waits for a place (R53). -/
structure SeqWait where
  carriage : Nat
  unit : Nat
  reason : Nat
  alarm : Bool
  since : Nat
  deriving DecidableEq, Repr

/-- The in-service test that runs now (R63). -/
structure UnderTest where
  carriage : Nat
  unit : Nat
  since : Nat
  prior : Nat
  deriving DecidableEq, Repr

/-- The carriage controller and the couplings. Unit keys are carriage × 256 + unit, spare keys carriage × 4 + slot. -/
structure CarState where
  reqs : List CReq
  acks : List CAck
  seqs : List CarSeq
  waiting : List SeqWait
  unitErr : List (Nat × Nat)
  spareUsed : List (Nat × Nat)
  unitOut : List Nat
  lastDecay : Nat
  cmdRunning : Option Nat
  test : Option UnderTest
  testPos : Nat
  lastSlot : Nat
  -- headroom (R27–R29)
  winStart : Nat
  presentAt : List (Nat × Nat)
  hrDisarmed : List (Nat × Nat)
  deriving DecidableEq, Repr

/-- The carriage controller after a power-on reset. -/
def CarState.reset : CarState where
  reqs := []
  acks := []
  seqs := []
  waiting := []
  unitErr := []
  spareUsed := []
  unitOut := []
  lastDecay := 0
  cmdRunning := none
  test := none
  testPos := 0
  lastSlot := 0
  winStart := 0
  presentAt := []
  hrDisarmed := []

/-- The latency probe's capture (R35, Table 1.10): the frame it follows and the instant it was valid; while the gateway works on that
frame, `inJob` says that what is built next carries it on, and `stream` names the container that will. -/
structure ProbeState where
  frame : Option Nat
  start : Nat
  inJob : Bool
  stream : Option Nat
  deriving DecidableEq, Repr

/-! ### The consist (Chapter 19) -/

/-- What a frame carries of the drawbar header (Table 19.1): the mode and devices, the ingress index at the source device, the
destination port, and for mode 2 the hops of the copy on each drawbar. -/
structure DrawInfo where
  mode : Nat
  src : Nat
  dst : Nat
  ingress : Nat
  dstPort : Nat
  hops : List (Nat × Nat)
  deriving DecidableEq, Repr

/-- A member as its last roll call showed it (Table 19.3): `at_` the local time it arrived, `absentAt` since when its warden is
absent, `eligibleAt` since when it is eligible and heard. -/
structure Member where
  priority : Nat
  serial : Nat
  master : Nat
  flags : Nat
  term : Nat
  reach : Nat
  at_ : Nat
  absentAt : Option Nat
  eligibleAt : Option Nat
  deriving DecidableEq, Repr

/-- Who waits for the answer of a dictionary access: a session by a path of its own; a Dalmoly message (session, sequence, ingress
port, its frame); an SDO service of a channel (0 expedited download, 1 last segment with its toggle, 2 block download, 3 upload, 4 block
upload; `n` is the bytes written or the block size, `crc` whether the client asks for the CRC); a BAR0 slot read (tag, offset, length); a
read through a window (tag, window, BAR4 offset, length); a posted write (window byte of Table 16.5, offset, sequence). -/
inductive Asker
  | plain (sess : Nat)
  | dalmoly (n seq port : Nat) (frame : List Byte)
  | sdo (chan kind idx sub n toggle : Nat) (crc : Bool)
  | slot (tag off len : Nat)
  | window (tag w off len : Nat)
  | posted (window off seq : Nat)
  deriving DecidableEq, Repr

/-- A forwarding slot of the master, one of 32 (R467, R468): the session served, its target, the sequence of the request sent, the
local time it was sent while it has no answer, and who waits for that. -/
structure FwdSlot where
  sess : Nat
  target : Nat
  seq : Nat
  sentAt : Option Nat
  asker : Asker
  deriving DecidableEq, Repr

/-- A forwarding session at the target (R467, R468): its number, the last sequence answered and the answer kept. -/
structure FwdSession where
  sess : Nat
  last : Nat
  answer : List Byte
  deriving DecidableEq, Repr

/-- The consist logic: members, the distance to a device by each drawbar (key port × 8 + device), the neighbour on each drawbar,
the master taken, conflict, when the own warden became absent; the last sequence answered by slot × 8 + target. -/
structure ConsistState where
  members : List (Nat × Member)
  dist : List (Nat × Nat)
  neighbour : List (Nat × Nat)
  master : Option Nat
  conflict : Bool
  left : Bool
  conflictAt : Nat
  ownAbsentAt : Option Nat
  slots : List (Nat × FwdSlot)
  answered : List (Nat × Nat)
  sessions : List FwdSession
  deriving DecidableEq, Repr

/-- A device that has heard no member. -/
def ConsistState.reset : ConsistState where
  members := []
  dist := []
  neighbour := []
  master := none
  conflict := false
  left := false
  conflictAt := 0
  ownAbsentAt := none
  slots := []
  answered := []
  sessions := []

/-! ### Frames, ingress queues and the cell buffer (Chapter 3) -/

/-- A frame or PDU held in the cell buffer, in its stored form (R67). `cells` names the cell bank of each of its cells;
`kind` is 0 Ethernet, 1 CAN, 2 LIN, 3 PDU (Table 9.1); `rxLen` and `crc` are the bytes received
and the FCS check over them, kept apart because `edited` frames change at ingress (R224, R226, R227); `word` is
the last data item, not yet in `crc`. `refs` lists the destinations whose copy has neither left nor been dropped (R84); `waiting` those whose copy has not been
taken (R85); `passes` counts passes through the gateway (R195). `age` is the age stamp in ns of device time (R80) and
`frac` what stood below the nanosecond at its start-of-frame, in units of 2^-16 ns (R326); `raised` and `underran` mark
a frame counted as stomped and as underrun at its ingress port; `look` is the ingress index of its
lookup (R201), `handle` the gateway handle of its route + 1, 0 for none (R179). -/
structure Frame where
  bytes : List Byte
  ingress : Nat
  domain : Nat
  cls : Nat
  stamp : Nat
  age : Nat
  metaWord : Option Nat
  limit : Nat
  whole : Bool
  status : Nat
  released : Bool
  early : Bool
  held : Bool
  poison : Option (Nat × Nat)
  cells : List Nat
  refs : List Nat
  waiting : List Nat
  handle : Nat
  passes : Nat
  built : Bool
  raised : Bool
  underran : Bool
  secured : Bool
  notice : Bool
  stream : Option Nat
  kind : Nat
  rxLen : Nat
  crc : Nat
  word : List Byte
  edited : Bool
  draw : Option DrawInfo
  look : Nat
  frac : Nat
  deriving DecidableEq, Repr

/-- The ingress side of one port: the item words standing in its ingress queue while its ingress group does not take
them (R65–R68), the frame in reception, and whether the rest of
a frame given up before its end is being ignored. -/
structure IngressQ where
  items : List (BitVec 36)
  cur : Option Nat
  skip : Bool
  deriving DecidableEq, Repr

/-- A delivery queue, of H or of the control internal port (R69, R70): frames presented whole, in order, and the items
of the frame being streamed. -/
structure DeliveryQ where
  frames : List Nat
  stream : List (BitVec 36)
  current : Option Nat
  deriving DecidableEq, Repr

/-- A flush that has not taken effect (R75): port, and whether it is a delivery flush. -/
structure FlushWait where
  port : Nat
  delivery : Bool
  deriving DecidableEq, Repr

/-- The ingress queues and the cell buffer. Queue keys are global indices. -/
structure BufState where
  frames : List (Nat × Frame)
  nextId : Nat
  ingress : List (Nat × IngressQ)
  delivery : List (Nat × DeliveryQ)
  flush : Option FlushWait
  nextBank : Nat
  leastFree : Nat
  residueEvents : Nat
  deriving DecidableEq, Repr

/-- The cell buffer after a power-on reset: every cell free. -/
def BufState.reset : BufState where
  frames := []
  nextId := 1
  ingress := []
  delivery := []
  flush := none
  nextBank := 0
  leastFree := 131072
  residueEvents := 0

/-! ### The route store (Chapter 4) -/

/-- A learning request in the queue of an ingress group (R111): group, the port whose limit it counts against, domain, the 65 key
bits, and bits [63:51] of the result to be learned: kind 0b00 and the port, or kind 0b10 with a device (R461). -/
structure LearnReq where
  group : Nat
  port : Nat
  domain : Nat
  key : Nat
  target : Nat
  deriving DecidableEq, Repr

/-- A slot that holds something: the entry of Table 4.1, and where learning made it (R112; no bit of the entry says so), the port
whose learned count it stands in. -/
structure RouteSlot where
  word : EntryWord
  owner : Option Nat
  deriving DecidableEq, Repr

/-- The insertion whose chain is being carried out (R107): the moves still to run (source slot, destination slot), the copy of
the first already written; the new entry, whether it is learned, its slot, the copies written with Moving set and the moves of
the whole chain. `cmd` is set for the command at 0x5010. -/
structure Chain where
  moves : List (Nat × Nat)
  entry : RouteSlot
  slot : Nat
  copies : List Nat
  made : Nat
  cmd : Bool
  deriving DecidableEq, Repr

/-- The route store. A slot number is bank × 32,768 + bucket × 4 + way; an unlisted slot holds 0. `bad` lists the slots whose
stored word has an uncorrectable error or a parity mismatch that no read has met yet (0 parity, 1 SECDED); `lost` the entries of the
station pair's shadow that await re-insertion (R118). -/
structure RouteState where
  slots : List (Nat × RouteSlot)
  bad : List (Nat × Nat)
  seed : Nat
  chain : Option Chain
  learnQ : List LearnReq
  pressured : Bool
  failThis : Nat
  failPrev : Nat
  lost : List EntryWord
  deriving DecidableEq, Repr

/-- The route store after a power-on reset: empty; the seed's value is a free value drawn by R93. DESIGN CHOICE, log entry 20. -/
def RouteState.reset : RouteState where
  slots := []
  bad := []
  seed := 0
  chain := none
  learnQ := []
  pressured := false
  failThis := 0
  failPrev := 0
  lost := []

/-! ### Ethernet ports and the T1S segments (Chapter 5) -/

/-- A frame in transmission on a port: the copy's frame, class and queue, the instant it started, its length on the wire in
bytes with the effective overhead left out, whether it was whole at the start, whether it is preemptable, its protected form if
any, whether it is cut off at the egress maximum (R127), and the instant its last bit leaves, once known. `sent` counts the
bytes of its earlier fragments (R222). -/
structure Tx where
  frame : Nat
  cls : Nat
  queue : Nat
  start : Nat
  length : Nat
  wholeAtStart : Bool
  preemptable : Bool
  out : Option (List Byte)
  cut : Bool
  ends : Option Nat
  sent : Nat
  deriving DecidableEq, Repr

/-- The moving parts of one Ethernet port 0–43. Stops hold the instants (begun, ends); `oldMode` is the mode that a write leaves
once the frame in transmission has ended (R122); `suspended` a preempted frame's remainder (R222); `attempts` the collisions of a frame and `retry` the queue
whose head is sent again (R139); `listenSince` since when a T port listens for a BEACON; `stopSince` when received pause or
PFC began to hold transmission; `adapted` the adapted threshold, 0 while Adapted is 0 (R131). -/
structure PortDyn where
  tx : Option Tx
  suspended : Option Tx
  oldMode : Option Nat
  pauseStop : Option (Nat × Nat)
  pfcStop : List (Nat × (Nat × Nat))
  pauseHold : Option Nat
  pfcHold : List (Nat × Nat)
  rxHigh : Bool
  pauseAt : Nat
  beaconAt : Option Nat
  attempts : Nat
  retry : Option Nat
  listenSince : Nat
  cleanRun : Nat
  conflictRaised : Bool
  conflicts : Nat
  conflictsPrev : Nat
  stopSince : Option Nat
  adapted : Nat
  deriving DecidableEq, Repr

/-- A port that has done nothing since reset. -/
def PortDyn.idle : PortDyn where
  tx := none
  suspended := none
  oldMode := none
  pauseStop := none
  pfcStop := []
  pauseHold := none
  pfcHold := []
  rxHigh := false
  pauseAt := 0
  beaconAt := none
  attempts := 0
  retry := none
  listenSince := 0
  cleanRun := 0
  conflictRaised := false
  conflicts := 0
  conflictsPrev := 0
  stopSince := none
  adapted := 0

/-- The Ethernet ports: per-port parts by global index, and the end of the last repair window (Table 5.5). -/
structure EthState where
  ports : List (Nat × PortDyn)
  repairUntil : Nat
  deriving DecidableEq, Repr

/-- The Ethernet ports after a power-on reset. -/
def EthState.reset : EthState where
  ports := []
  repairUntil := 0

/-! ### Traffic management (Chapter 8) -/

/-- One frame copy in an egress queue: the frame, the local time it entered, and its protection (R267, R270, R273): 0 none
needed or done, 1 to be handed over, 2 in a cipher operation; `out` holds the protected form. -/
structure QItem where
  frame : Nat
  entered : Nat
  prot : Nat
  out : Option (List Byte)
  deriving DecidableEq, Repr

/-- The traffic manager's parts of one port. Credits are in 10^-6 bit with the local time of their last update (R214);
`gate*` is the oper gate schedule with its base in ns of device time (R216, R217). -/
structure PortTm where
  queues : List (Nat × List QItem)
  finish : List (Nat × Nat)
  virtual : Nat
  deficit : List (Nat × Nat)
  drr : List (Nat × (Nat × Bool))
  credits : List (Nat × Int)
  kindsInForce : Nat
  gateBase : Nat
  gatePending : Option Nat
  gateEntry : Nat
  verifyTries : Nat
  verifyAt : Nat
  deriving DecidableEq, Repr

/-- A port's traffic manager after reset. -/
def PortTm.idle : PortTm where
  queues := []
  finish := []
  virtual := 0
  deficit := []
  drr := []
  credits := []
  kindsInForce := 0
  gateBase := 0
  gatePending := none
  gateEntry := 0
  verifyTries := 0
  verifyAt := 0

/-- A meter's buckets (R224) in units of 1/8,000,000 byte, listed once used: committed, peak and the time of the last frame (ns). -/
structure MeterDyn where
  tc : Nat
  tp : Nat
  last : Nat
  deriving DecidableEq, Repr

/-- The recovery or generation part of a stream handle (R226, R227): next sequence to generate, newest passed, the history
bits below it, and the local time of the last pass. -/
structure FrerDyn where
  next : Nat
  newest : Nat
  seen : Nat
  lastPass : Option Nat
  restart : Bool
  deriving DecidableEq, Repr

/-- Traffic management: per-port parts, meters and stream handles, shedding, and the refusal notices (R236). -/
structure TmState where
  ports : List (Nat × PortTm)
  meters : List (Nat × MeterDyn)
  frer : List (Nat × FrerDyn)
  goodWindows : Nat
  notice : List (List Byte)
  noticeAt : Nat
  noticeReady : List (List (List Byte))
  noticeSeq : Nat
  noticesThisSecond : Nat
  deriving DecidableEq, Repr

/-- Traffic management after a power-on reset. -/
def TmState.reset : TmState where
  ports := []
  meters := []
  frer := []
  goodWindows := 0
  notice := []
  noticeAt := 0
  noticeReady := []
  noticeSeq := 0
  noticesThisSecond := 0

/-! ### CAN and LIN channels (Chapter 6) -/

/-- The frame a C channel offers to arbitration, latched at its start-of-frame bit (R157, R163): `src` 0 the head frame of the
traffic manager, 1 a requested transmit buffer, 2 an owner buffer in its exclusive window, 3 a reference message. -/
structure CanOffer where
  src : Nat
  buf : Nat
  bytes : List Byte
  deriving DecidableEq, Repr

/-- The moving parts of one channel. C: `head` the frame the traffic manager last released with its queue; `busy` while another
node's frame holds the bus after a lost arbitration; `newMode` a mode write that waits for the frame on the bus (R150);
`written` the transmit buffers ever written; `shadows` the full shadows by buffer (stored form of 80 bytes and stamp);
`recoverAt` the instant of the recovery write; the schedule matrix: `running` since the first reference message, `col` the window
in force, `cycleAt` the instant its basic cycle began, `lastRef` the last reference message, `waited` the candidates already
counted as held in this window, `served` the exclusive owner has been sent. `overruns`, `overrunsPrev` count buffer overruns of
this second and the last, `overTold`, `slotTold` its events (R178). L: `table` the table that runs, `slot` its slot, `slotEnd`
the end of the slot in force, `runs`, `back` the slot after a resolving table, `await_` the response awaited (identifier, deadline,
event-triggered slot's resolving table + 1), `changed` the buffers changed since last sent, `respErr` the responder's
response-error bit, `lastBus` the last bus activity, `quiet` the Listen levels of R366. -/
structure ChanDyn where
  head : Option (Nat × QItem)
  offer : Option CanOffer
  busy : Bool
  newMode : Option Nat
  written : Nat
  shadows : List (Nat × List Byte)
  recoverAt : Nat
  running : Bool
  col : Nat
  cycleAt : Nat
  lastRef : Nat
  waited : List Nat
  served : Bool
  overruns : Nat
  overrunsPrev : Nat
  overTold : Bool
  slotTold : Bool
  table : Nat
  slot : Nat
  slotEnd : Nat
  runs : Bool
  back : Option Nat
  await_ : Option (Nat × Nat × Nat)
  changed : Nat
  respErr : Bool
  lastBus : Nat
  quiet : Bool
  deriving DecidableEq, Repr

/-- A channel that has done nothing since reset. -/
def ChanDyn.idle : ChanDyn where
  head := none
  offer := none
  busy := false
  newMode := none
  written := 0
  shadows := []
  recoverAt := 0
  running := false
  col := 0
  cycleAt := 0
  lastRef := 0
  waited := []
  served := false
  overruns := 0
  overrunsPrev := 0
  overTold := false
  slotTold := false
  table := 0
  slot := 0
  slotEnd := 0
  runs := false
  back := none
  await_ := none
  changed := 0
  respErr := false
  lastBus := 0
  quiet := false

/-! ### The signal gateway (Chapter 7) -/

/-- An open container of a stream (R199): its entries in build order, and the instant of its first entry in ns of device time. -/
structure GwOpen where
  entries : List (List Byte)
  since : Nat
  deriving DecidableEq, Repr

/-- The signal gateway: the job queue of each engine, (frame, record); frames without a handle that wait to be opened; the instant
each running deadline expires (ns of device time); per target the last build (ns) and the next cyclic instant (tick number); the
open containers and the next sequence of each stream; the last sequence received by source device × 64 + domain; the last tick
served; the engine that holds each engine's timers; the events of this second (R204). -/
structure GwState where
  jobs : List (Nat × List (Nat × Nat))
  waiting : List Nat
  deadline : List (Nat × Nat)
  built : List (Nat × Nat)
  nominal : List (Nat × Nat)
  opened : List (Nat × GwOpen)
  seqOut : List (Nat × Nat)
  seqIn : List (Nat × Nat)
  tick : Nat
  owner : List (Nat × Nat)
  events : Nat
  deriving DecidableEq, Repr

/-- The gateway after reset. -/
def GwState.reset : GwState where
  jobs := []
  waiting := []
  deadline := []
  built := []
  nominal := []
  opened := []
  seqOut := []
  seqIn := []
  tick := 0
  owner := []
  events := 0

/-! ### The firewall (Chapter 9) -/

/-- A frame held for its authenticator (R248), with what the rest of R246 needs: the action word of its rule and its route's
destinations, drawbar header and gateway handle. -/
structure FwHeld where
  frame : Nat
  action : Nat
  dests : List Nat
  draw : Option DrawInfo
  handle : Nat
  deriving DecidableEq, Repr

/-- The firewall: whether a copy to shadow runs, the rules marked bad (half × 16,384 + rule), the words with an uncorrectable
error that no read has met yet (the same key, true where it is the action word), the intrusion events raised in this second,
and the frames held for an authenticator. The rule sets stand in `wins`. -/
structure FwState where
  copying : Bool
  bad : List Nat
  latent : List (Nat × Bool)
  raised : Nat
  held : List FwHeld
  deriving DecidableEq, Repr

/-- The firewall after a power-on reset. -/
def FwState.reset : FwState where
  copying := false
  bad := []
  latent := []
  raised := 0
  held := []

/-! ### The crypto data path (Chapter 10) -/

/-- One cipher operation (R258): the frame, the port, its kind (0 MACsec transmit, 1 MACsec receive, 2 CANsec transmit, 3 CANsec
receive, 4 authenticator verify, 5 authenticator generate), its record, the packet number or freshness value assigned at
hand-over, the cluster 0–4 and engine, whether it is urgent, its phase (0 waiting for an engine or its key, 1 running, 2
suspended) and the key it started with. -/
structure CryptoOp where
  frame : Nat
  port : Nat
  kind : Nat
  rec_ : Nat
  pn : Nat
  cluster : Nat
  engine : Nat
  urgent : Bool
  phase : Nat
  key : Nat
  deriving DecidableEq, Repr

/-- The crypto data path: operations oldest first; the key caches (key cluster × 8,192 + record, where authenticator record n is
1,024 + n); the derivations waiting in the front ends; the events 0x00B0 of this second;
the transmit SAs whose first frame after the last packet number has been discarded (R267). -/
structure CryptoState where
  ops : List CryptoOp
  keys : List (Nat × Nat)
  derive_ : List Nat
  failEvents : Nat
  told : List Nat
  deriving DecidableEq, Repr

/-- No operation, no key. -/
def CryptoState.reset : CryptoState where
  ops := []
  keys := []
  derive_ := []
  failEvents := 0
  told := []

/-! ### Keys, life cycle and alarm (Chapter 11) -/

/-- The content of a key slot (Table 11.7). `value` is the key the sealed value holds, `sealedBy` the epoch key whose sealing key
seals it; `kind` 0 derivation, 1 association, 2 CAK. -/
structure KeySlot where
  gen : Nat
  source : Nat
  kind : Nat
  wide : Bool
  revoked : Bool
  parent : Nat
  counter : Nat
  label : List Byte
  value : Nat
  sealedBy : Nat
  deriving DecidableEq, Repr

/-- An empty slot of generation 0. -/
def KeySlot.empty : KeySlot := ⟨0, 0, 0, false, false, 0, 0, [], 0, 0⟩

/-- A key pair: the slot in force, and the older slot while a migration is open (R291, R293). -/
structure KeyPair where
  cur : KeySlot
  older : Option KeySlot
  deriving DecidableEq, Repr

/-- A session key (R287): value, length, the CAK it came from, generation, revoked. -/
structure SessKey where
  value : Nat
  wide : Bool
  cak : Nat
  gen : Nat
  revoked : Bool
  deriving DecidableEq, Repr

/-- The key store and the warden's security state. Key pairs by ledger pair number, session keys by handle; `mram` the committed
freshness values by authenticator record (R274); the epoch key and the measurement it comes from; `successor` the epoch key of
the staged image while a migration is open; the fuse pairs blown (R300); sensor counts of the last 1,000 ms by session (R304). -/
structure KeyState where
  pairs : List (Nat × KeyPair)
  sess : List (Nat × SessKey)
  mram : List (Nat × Nat)
  epoch : Nat
  measurement : List Byte
  successor : Nat
  noEntropy : Bool
  brownOut : Bool
  fuses : Nat
  logCount : Nat
  authFails : List (Nat × Nat)
  violations : List (Nat × Nat)
  exporting : Option Nat
  meltDone : Nat
  freshAt : Nat
  deriving DecidableEq, Repr

/-- A part in STEEL with an empty ledger (the life-cycle state is a property of the part; see the assumption log).
DESIGN CHOICE, log entry 11. -/
def KeyState.reset : KeyState where
  pairs := []
  sess := []
  mram := []
  epoch := 0
  measurement := []
  successor := 0
  noEntropy := false
  brownOut := false
  fuses := 15
  logCount := 0
  authFails := []
  violations := []
  exporting := none
  meltDone := 0
  freshAt := 0

/-! ### Time (Chapter 12) -/

/-- A pulse output: the next edge in ns of device time while armed, and the instant (local ns) its width ends while an
edge is in progress. -/
structure PulseDyn where
  next : Option Nat
  busyUntil : Nat
  deriving DecidableEq, Repr

/-- A trigger output: the local time of the next edge while running from its local counter, the rate that counter counts at
(R330), the periods the realignment has taken, the end of the edge in progress, and the device time of the last edge in ns. -/
structure TrigDyn where
  localNext : Option Nat
  rate : Int
  taken : Nat
  busyUntil : Nat
  lastDev : Nat
  deriving DecidableEq, Repr

/-- A lifetime record (Table 12.14). Counts of seconds are kept in ns of local time. -/
structure LifeRec where
  generation : Nat
  runNs : Nat
  sleepNs : Nat
  deepNs : Nat
  offSec : Nat
  powerCycles : Nat
  brownOuts : Nat
  thermal : Nat
  high : Int
  low : Int
  hist : List (Nat × Nat)
  mramCommits : Nat
  maxGen : Nat
  linkNs : List (Nat × Nat)
  trips : List (Nat × Nat)
  grades : List (Nat × Nat)
  firstOn : Nat
  lastDev : Nat
  calLosses : Nat
  deriving DecidableEq, Repr

/-- The record of a part never powered. DESIGN CHOICE, log entry 12. -/
def LifeRec.blank : LifeRec where
  generation := 0
  runNs := 0
  sleepNs := 0
  deepNs := 0
  offSec := 0
  powerCycles := 0
  brownOuts := 0
  thermal := 0
  high := 0
  low := 0
  hist := []
  mramCommits := 0
  maxGen := 0
  linkNs := []
  trips := []
  grades := []
  firstOn := 0
  lastDev := 0
  calLosses := 0

/-- The time unit, the calendar and the lifetime ledger. `dev` is device time in units of 2^-48 ns (R316), `rate` the
applied rate in 2^-32 (R319), `slew` the remaining slew in 2^-48 ns; `cal` the calendar in units of 1/32,768 s at local
time `calAt` (R331). -/
structure TimeState where
  dev : Nat
  rate : Int
  slew : Int
  applied : Nat
  holdSince : Nat
  slewSince : Nat
  secondMark : Nat
  stampRx : List (Nat × Nat)
  stampTx : List (Nat × Nat)
  pulses : List (Nat × PulseDyn)
  trigs : List (Nat × TrigDyn)
  cal : Nat
  calAt : Nat
  vbkp : Bool
  calHour : Nat
  temp : Int
  thermalArmed : Bool
  live : LifeRec
  stored : Option LifeRec
  lifeAt : Nat
  deriving DecidableEq, Repr

/-- The time unit after a power-on reset. DESIGN CHOICE, log entry 15. -/
def TimeState.reset : TimeState where
  dev := 0
  rate := 0
  slew := 0
  applied := 0
  holdSince := 0
  slewSince := 0
  secondMark := 0
  stampRx := []
  stampTx := []
  pulses := []
  trigs := []
  cal := 0
  calAt := 0
  vbkp := false
  calHour := 0
  temp := 250
  thermalArmed := true
  live := .blank
  stored := none
  lifeAt := 0

/-! ### Power states (Chapter 13) -/

/-- The power states (Table 13.4), with STANDSTILL (R347), and stopped after a failure of AOSC (R348). -/
inductive PowerMode
  | run | sleep | deepSleep | standstill | off | stopped
  deriving DecidableEq, Repr

/-! ### Clocks and power (Chapter 13) -/

/-- A loss of clock that is being handled (R343, R346): the clock, the instant of the trip, and whether it was switched at once (1)
or waited for IOSC (2). -/
structure ClockLoss where
  clock : Nat
  at_ : Nat
  how : Nat
  deriving DecidableEq, Repr

/-- The clock and power managers. Window counts are of consecutive windows: `ioscGood`, `ioscBad`, `xtalGood`, `xtalBad`, with
`ioscTold`, `xtalTold` the windows taken; `ioscOff` while gating stops IOSC. `lost`
holds the domains of clocks 4–8 in reset. `ens` are the enables EN0–EN7 driven, `goods` the rails whose supply-good is up; `todo` the
enables still to come, the first of them raised and waited for since `stepAt`; `fails` the sequencing failures, `retryAt` the next
try, `dead` after the third, `halted` once the sequencer has failed (R386). `vfabAt` begins a VFAB fault. `phold` is released at `pholdAt`. `faultN` is driven low. `cause` is the
reset cause kept for the next start. `trimCount`, `trimAt`, `voutMode` belong to the VFAB trim; `pmbusFails` counts failed
transactions of a rail. `slept` lists the carriages that a power transition powered down. `ioscTry` is the last requalification;
`pcieLost` since `pcieAt` and `srefLost` the losses of those references. -/
structure PowerState where
  ioscGood : Nat
  ioscBad : Nat
  ioscTold : Nat
  ioscOff : Bool
  ioscTry : Nat
  xtalGood : Nat
  xtalBad : Nat
  xtalTold : Nat
  lost : Option ClockLoss
  ens : Nat
  goods : Nat
  todo : List Nat
  stepAt : Nat
  fails : Nat
  retryAt : Option Nat
  dead : Bool
  halted : Bool
  vfabAt : Option Nat
  brownAt : Nat
  phold : Bool
  pholdAt : Nat
  faultN : Bool
  cause : Nat
  trimCount : Nat
  trimAt : Nat
  voutMode : List (Nat × Nat)
  slept : List Nat
  pcieLost : Bool
  srefLost : Bool
  pcieAt : Nat
  deriving DecidableEq, Repr

/-- At the power-on reset EN0 is raised and awaited (R352); XTAL and IOSC read qualified (Table 13.8). DEDUCED, log entry 16. -/
def PowerState.reset : PowerState where
  ioscGood := 0
  ioscBad := 0
  ioscTold := 0
  ioscOff := false
  ioscTry := 0
  xtalGood := 0
  xtalBad := 0
  xtalTold := 0
  lost := none
  ens := 1
  goods := 0
  todo := [0, 1, 2, 3, 4]
  stepAt := 0
  fails := 0
  retryAt := none
  dead := false
  halted := false
  vfabAt := none
  brownAt := 0
  phold := true
  pholdAt := 0
  faultN := false
  cause := 0
  trimCount := 0
  trimAt := 0
  voutMode := []
  slept := []
  pcieLost := false
  srefLost := false
  pcieAt := 0

/-! ### Wake and sleep (Chapter 14) -/

/-- The moving parts of a network-management domain: the instant of its last keep-alive sent or received, since when it is in
PREPARE, when its wake hold ends, and when its templates were last sent. Its state stands in window 0x2082. -/
structure DomainDyn where
  alive : Nat
  prepareAt : Nat
  holdAt : Nat
  sentAt : Nat
  deriving DecidableEq, Repr

/-- The wake island and the sleep sequence: the wake latch; the decoders' error counts by C channel; partial patterns by channel (the
instant of the first dominant phase); the levels of the WAKE pins; the records written to the wake log; the instant a sleep sequence
began; the domains; since when SLEEP holds the domain timers; the wakes whose event and
domains await RUN (kind, source, domains). -/
structure WakeState where
  latch : Bool
  errors : List (Nat × Nat)
  partial_ : List (Nat × Nat)
  pins : Nat
  logged : Nat
  seqAt : Option Nat
  domains : List (Nat × DomainDyn)
  sleptAt : Nat
  untold : List (Nat × (Nat × List Nat))
  deriving DecidableEq, Repr

/-- The wake island after a power-on reset. DESIGN CHOICE, log entry 18. -/
def WakeState.reset : WakeState where
  latch := false
  errors := []
  partial_ := []
  pins := 0
  logged := 0
  seqAt := none
  domains := []
  sleptAt := 0
  untold := []

/-! ### The control complex (Chapter 15) -/

/-- The state of one flash slot: erased since manufacture, its records written since, and its bytes written. -/
structure FlashSlot where
  erased : Bool
  written : List Nat
  bytes : List (Nat × Byte)
  deriving DecidableEq, Repr

/-- A firmware action that runs: its number, the step of an activation or revert (43, 44 or 45), the slot it moves to, whether it
restarts with cover, and the instant its step began. -/
structure FwAction where
  act : Nat
  step : Nat
  slot : Nat
  cover : Bool
  since : Nat
  deriving DecidableEq, Repr

/-- The control complex: the instants of recent mismatches by pair (the power sequencer under 128); the covered carriage while a pair
is split; boot selection (R391): confirmed slot, trial slot and its starts left; the fuses of the security floor; the flash; the
action that runs. -/
structure CtlState where
  mismatches : List (Nat × List Nat)
  covered : Option Nat
  confirmed : Nat
  trial : Option Nat
  starts : Nat
  floor : Nat
  flash : List (Nat × FlashSlot)
  action : Option FwAction
  deriving DecidableEq, Repr

/-- A part that boots slot A, no migration open. DESIGN CHOICE, log entry 14. -/
def CtlState.reset : CtlState where
  mismatches := []
  covered := none
  confirmed := 0
  trial := none
  starts := 0
  floor := 0
  flash := []
  action := none

/-! ### The PCIe host bridge (Chapter 16) -/

/-- A delayed read (R409): its tag, BAR0 offset, length, and the instant it was accepted. -/
structure HeldRead where
  tag : Nat
  off : Nat
  len : Nat
  since : Nat
  deriving DecidableEq, Repr

/-- A prefetch buffer (R414): the window offset of its first byte, its bytes and when they were fetched. -/
structure Prefetch where
  off : Nat
  data : List Byte
  at_ : Nat
  deriving DecidableEq, Repr

/-- The host bridge: delayed reads; prefetch buffers by window; the doorbells last written and the indices processed by ring; ring
enables as the bridge holds them; the MSI-X table bytes and pending bits; when each vector was last sent and the messages held
back, by vector (since, descriptors). Window records written while accesses are held take effect behind them. -/
structure HostState where
  reads : List HeldRead
  prefetch : List (Nat × Prefetch)
  bells : List (Nat × Nat)
  done : List (Nat × Nat)
  enabled : Nat
  msix : List (Nat × Byte)
  pendingBits : Nat
  sentAt : List (Nat × Nat)
  heldMsg : List (Nat × (Nat × Nat))
  deriving DecidableEq, Repr

/-- The bridge after a power-on reset. -/
def HostState.reset : HostState where
  reads := []
  prefetch := []
  bells := []
  done := []
  enabled := 0
  msix := []
  pendingBits := 0
  sentAt := []
  heldMsg := []

/-! ### Reaching the dictionary (Chapter 17) -/

/-- An SDO transfer of a channel (R436, R437): kind 0 segmented download, 1 segmented upload, 2 block download, 3 block upload; the
object; the data received or still to be sent; the size indicated; the toggle or the last segment number; block size; CRC in use;
the phase of a block transfer (0 segments, 1 awaiting the end, 2 awaiting the start); the bytes the last segment leaves; when its last
frame was; until when the session's lock of the object was held before the transfer took it. -/
structure SdoXfer where
  kind : Nat
  idx : Nat
  sub : Nat
  data : List Byte
  size : Option Nat
  toggle : Nat
  seg : Nat
  blk : Nat
  crc : Bool
  phase : Nat
  whole : List Byte
  at_ : Nat
  prior : Option Nat
  deriving DecidableEq, Repr

/-- A Dalmoly session (R440–R443): role, session key, last sequence answered, the answer kept, the last processed request. -/
structure DalSess where
  role : Nat
  key : Nat
  last : Nat
  answer : List Byte
  at_ : Nat
  deriving DecidableEq, Repr

/-- What a session holds of its own (R428): the cursor 0x1101:01 and the results 0x1130:04 and 06. -/
structure SessLocal where
  cursor : Nat
  abort : Nat
  failing : Nat
  deriving DecidableEq, Repr

/-- An object lock (R429, R430): its session, and the local time it ends, none while a group, a transfer or a claim holds it. -/
structure ObjLock where
  sess : Nat
  until_ : Option Nat
  deriving DecidableEq, Repr

/-- A staged write of a transaction group (R432): index, subindex, window offset and bytes. -/
structure Staged where
  idx : Nat
  sub : Nat
  off : Nat
  bytes : List Byte
  deriving DecidableEq, Repr

/-- The dictionary's sessions: SDO transfers by channel, Dalmoly sessions by number, session-local objects, locks by index, open
groups by session, the sessions blocked after a QUENCH (until when), and the forwarding target each session selects (R465). -/
structure SessState where
  sdo : List (Nat × SdoXfer)
  dal : List (Nat × DalSess)
  own : List (Nat × SessLocal)
  locks : List (Nat × ObjLock)
  groups : List (Nat × List Staged)
  blocked : List (Nat × Nat)
  targets : List (Nat × Nat)
  deriving DecidableEq, Repr

/-- No session. -/
def SessState.reset : SessState where
  sdo := []
  dal := []
  own := []
  locks := []
  groups := []
  blocked := []
  targets := []

/-! ### Start-up (Chapter 20) -/

/-- Start-up: the BIST groups ended (R474), whether the firmware is measured and the pairs are released (R477), whether the
forwarding point is reached (R480), when the sequence began and when the forwarding point was, whether the start is a wake or a
device restart, and the cell bank that failed (R476). -/
structure StartState where
  groups : Nat
  measured : Bool
  forwarding : Bool
  begun : Nat
  forwardAt : Nat
  failedBank : Option Nat
  deriving DecidableEq, Repr

/-- The moment of the power-on reset: nothing has run. -/
def StartState.reset : StartState where
  groups := 0
  measured := false
  forwarding := false
  begun := 0
  forwardAt := 0
  failedBank := none

/-- What the part sends outside. Pins are named by a number of their own table. -/
inductive Output
  /-- The answer to a dictionary access of a session: abort code (0 success) and the data read (R446). -/
  | answer (sess : Nat) (abort : Nat) (data : List Byte)
  /-- A frame sent whole on a port, as its bytes on the medium; `good` is false when it ends stomped (R128). -/
  | frame (port : Nat) (bytes : List Byte) (good : Bool)
  /-- A frame cut off (R123) or delivered in part. -/
  | cut (port : Nat)
  /-- A pause frame (R135). -/
  | pause (port : Nat) (quanta : Nat)
  /-- A BEACON on a T port (R138). -/
  | beacon (port : Nat)
  /-- An item popped from a directly read queue (R69). -/
  | item (port : Nat) (word : BitVec 36)
  /-- An acknowledge delivered to its requester (R36–R39). -/
  | ack (requester : Nat) (responder : Nat) (tag : Nat) (reqEpoch : Nat) (respEpoch : Nat) (status : Nat)
  /-- An edge of PULSE0–PULSE15 (R327). -/
  | pulse (n : Nat)
  /-- An edge of TRIG0–TRIG7 (R329). -/
  | trigger (n : Nat)
  /-- The header a LIN commander sends on an L channel: its identifier (R173). -/
  | linHeader (port : Nat) (id : Nat)
  /-- A dominant wake-up pulse of 1 ms on an L channel (R366). -/
  | linWake (port : Nat)
  /-- A PMBus write by the part: enable number, command, value (R355, R357, R358). -/
  | pmbus (rail : Nat) (command : Nat) (value : Nat)
  /-- A completion of a host read: tag and bytes (R406, R409, R411, R416). -/
  | completion (tag : Nat) (data : List Byte)
  /-- A write of the part to host memory: address and bytes (R418, R419, R422). -/
  | hostWrite (addr : Nat) (data : List Byte)
  /-- An MSI-X message (R421, R422). -/
  | msix (vector : Nat)
  deriving DecidableEq, Repr

/-- Faults: none of the spec's behaviours stops the block, so no meaning raises one. -/
inductive Fault
  /-- Raised by no meaning: every refused access is an abort answer (R446). Safe: it is never reached. -/
  | none
  deriving DecidableEq, Repr

/-- Refusals. -/
inductive Refusal
  /-- Raised by an arm of exec whose command has no meaning yet. Safe: the run stops. -/
  | notModelled (mnemonic : String)
  /-- Raised by a meaning whose operands name a port or unit the part does not have (WellFormed.lean). Safe: the run stops. -/
  | illFormed
  deriving DecidableEq, Repr

/-- The whole machine. -/
structure State where
  /-- The commands that wait, first in first out. -/
  pending : List Instr
  /-- What the part has sent outside: answers, frames, messages, pin edges; newest first. -/
  outputs : List Output
  /-- Local time: ns since the power-on reset. -/
  now : Nat
  /-- The model's own counter of free values drawn (not the spec's): `Config.freeValue` is applied to it. -/
  fresh : Nat
  /-- Dictionary scalars, key index × 256 + subindex, strictly rising keys; an unlisted one holds its default (R426). -/
  regs : List (Nat × Word)
  /-- Table-window bytes, key (index × 256 + subindex) × 2^24 + offset; an unlisted byte reads as its default content. -/
  wins : List Host.Cell
  /-- The event ring 0x1200 has been filled once (R34). -/
  ringFull : Bool
  /-- The power state (Table 13.4). -/
  mode : PowerMode
  /-- The carriage controller and the couplings. -/
  car : CarState
  /-- The latency probe. -/
  probe : ProbeState
  /-- The ingress and delivery queues and the cell buffer. -/
  buf : BufState
  /-- The route store. -/
  route : RouteState
  /-- The Ethernet ports. -/
  eth : EthState
  /-- The C and L channels by channel number 0–95; an unlisted one is idle. -/
  chan : List (Nat × ChanDyn)
  /-- The signal gateway. -/
  gw : GwState
  /-- Traffic management. -/
  tm : TmState
  /-- The firewall. -/
  fw : FwState
  /-- The crypto data path. -/
  crypto : CryptoState
  /-- The key store, the ledger and the alarm. -/
  key : KeyState
  /-- The consist logic. -/
  consist : ConsistState
  /-- Start-up. -/
  startup : StartState
  /-- The clock and power managers. -/
  power : PowerState
  /-- The wake island and the sleep sequence. -/
  wake : WakeState
  /-- The control complex and its firmware. -/
  ctl : CtlState
  /-- The PCIe host bridge. -/
  host : HostState
  /-- The dictionary sessions, locks and groups. -/
  sess : SessState
  /-- The time unit, the calendar and the lifetime ledger. -/
  time : TimeState
  deriving DecidableEq, Repr

/-- The machine right after a power-on reset (R471): every object at its default (R426), every queue empty, no command
waiting. What the spec gives no value for is DESIGN CHOICE: log entries 11–15, 17, 18, 20 and 49. -/
def State.reset : State where
  pending := []
  outputs := []
  now := 0
  fresh := 0
  regs := []
  wins := []
  ringFull := false
  mode := .run
  car := .reset
  probe := ⟨none, 0, false, none⟩
  buf := .reset
  route := .reset
  eth := .reset
  chan := []
  gw := .reset
  tm := .reset
  fw := .reset
  crypto := .reset
  key := .reset
  consist := .reset
  startup := .reset
  power := .reset
  wake := .reset
  ctl := .reset
  host := .reset
  sess := .reset
  time := .reset

end Sys2Proof.Machine
end

