-- ==== Sys2Proof/Machine/Ops.lean ====
section
/-! DEFINITION. The named operations over the dictionary's registers and windows, time, events and outputs. -/

namespace Sys2Proof.Machine

/-- What a meaning answers. -/
abbrev Out := Host.Outcome State Fault Refusal

/-! ### Registers -/

/-- The key of a dictionary scalar. -/
def regKey (idx sub : Nat) : Nat := idx * 256 + sub

/-- What the scalar of a key reads as while nothing is listed for it. -/
def regDefault (key : Nat) : BitVec 64 := BitVec.ofNat 64 (objDefault (key / 256) (key % 256))

/-- The value of a dictionary scalar: the value written, or its default (R426). -/
def State.rd (s : State) (idx sub : Nat) : Nat := (mapGetD s.regs (regKey idx sub) (regDefault (regKey idx sub))).toNat

/-- A dictionary scalar set to a value; the default is left unlisted, so that equal registers are equal data. -/
def State.wr (s : State) (idx sub v : Nat) : State :=
  { s with regs := mapPut (regDefault (regKey idx sub)) s.regs (regKey idx sub) (BitVec.ofNat 64 v) }

/-- The field [hi:lo] of a dictionary scalar. -/
def State.rdF (s : State) (idx sub hi lo : Nat) : Nat := fld (s.rd idx sub) hi lo

/-- A dictionary scalar with its field [hi:lo] replaced. -/
def State.wrF (s : State) (idx sub hi lo v : Nat) : State := s.wr idx sub (setFld (s.rd idx sub) hi lo v)

/-- Bit `i` of a dictionary scalar. -/
def State.rdB (s : State) (idx sub i : Nat) : Bool := tb (s.rd idx sub) i

/-- A dictionary scalar with bit `i` set to `b`. -/
def State.wrB (s : State) (idx sub i : Nat) (b : Bool) : State := s.wrF idx sub i i b.toNat

/-- A 32-bit counter raised by `n`; it wraps to 0. -/
def State.bump (s : State) (idx sub n : Nat) : State := s.wr idx sub ((s.rd idx sub + n) % 2 ^ 32)

/-- A 64-bit counter raised by `n`; it wraps to 0 (R143). -/
def State.bump64 (s : State) (idx sub n : Nat) : State := s.wr idx sub ((s.rd idx sub + n) % 2 ^ 64)

/-! ### Windows -/

/-- The key of a byte of a table window (R425). -/
def winKey (idx sub off : Nat) : Nat := (idx * 256 + sub) * 2 ^ 24 + off

/-- The regulator records of Table 13.7: EN0–EN4 for the five supplies, the rest unused. -/
def regulatorDefault (k b : Nat) : Nat :=
  if k ≤ 4 then
    match b with
    | 0 => 3
    | 1 => k
    | 3 => k
    | 4 => if k = 0 then 0 else 100
    | 6 => 10
    | _ => 0
  else 0

/-- The commissioning set (Table 9.6) as the bytes of its three rules that are not 0, by byte of the rule record of
Table 9.3: values in bytes 0–79, masks in 80–159, the action from 160. Rule 0 matches kind 1, IDE, FDF and XLF 0 and the
SDO request identifier 0x67F; rules 1 and 2 kind 0, IPv4 or IPv6, protocol 17 and UDP port 42,160; each redirects and counts. -/
def commissionRule (n : Nat) : List (Nat × Nat) :=
  match n with
  | 0 => [(68, 0xF8), (69, 0x33), (79, 0x20), (148, 0xFF), (149, 0xFF), (150, 0xFF), (151, 0xFF), (159, 0xE0),
          (160, 0x0A), (167, 0x80)]
  | 1 => [(18, 0x58), (19, 0x52), (54, 0x20), (55, 0x82), (97, 0x80), (98, 0xFF), (99, 0x7F), (134, 0xE0), (135, 0x9F),
          (159, 0xE0), (160, 0x0A), (167, 0x80)]
  | 2 => [(18, 0x58), (19, 0x52), (54, 0x20), (55, 0x42), (97, 0x80), (98, 0xFF), (99, 0x7F), (134, 0xE0), (135, 0x5F),
          (159, 0xE0), (160, 0x0A), (167, 0x80)]
  | _ => []

/-- Byte `b` of rule `n` of the commissioning set (R255). -/
def commissionByte (n b : Nat) : Nat := mapGetD (commissionRule n) b 0

/-- The content of a window byte that nothing has written. -/
def winDefault (idx sub off : Nat) : Nat :=
  if idx = 0x2071 then
    (if off % 32 = 1 then (if off / 32 < 72 then 0x14 else 0x05) else 0)
  else if idx = 0x2072 then (if off % 4 = 1 then 20 else 0)
  else if idx = 0x2073 then (if off % 16 = 2 then 50 else 0)
  else if idx = 0x2080 then byteAt (fill 2 0 ++ leBytes 2 2000 ++ leBytes 2 500 ++ leBytes 2 1000) (off % 32)
  else if idx = 0x2003 ∧ sub = 1 then byteAt (([7, 3, 3, 1, 3, 3, 3, 1, 1, 3] : List Nat).map (BitVec.ofNat 8)) off
  else if idx = 0x2006 ∧ sub = 1 then regulatorDefault (off / 16) (off % 16)
  else if 0x6000 ≤ idx ∧ idx ≤ 0x69FF then
    let i := (idx - 0x6000) / 0x10
    let o := (idx - 0x6000) % 0x10
    if o = 1 ∧ sub = 1 then
      let lim := if i ≤ 11 then 2048 else if i ≤ 27 then 512 else if i ≤ 43 then 64 else if i = 44 then 4096
        else if i = 45 then 1024 else if i = 46 then 256 else 24
      byteAt (leBytes 4 lim) (off % 8)
    else if o = 3 then byteAt (leBytes 4 24) (off % 4)
    else if o = 8 then (if off % 96 / 4 = 1 ∨ off % 96 / 4 = 3 then 0xFF else 0)
    else if o = 5 ∧ sub = 1 ∧ off < 8 then byteAt (leBytes 4 0xFF ++ leBytes 4 1000000) off
    else 0
  else if idx = 0x8000 ∧ sub = 4 then (Config.nonceByte off).toNat
  else if idx = 0x8022 then byteAt Config.certificateChain off
  else if idx = 0x8052 then (Config.anchorByte off).toNat
  else if idx = 0x10000 ∨ idx = 0x10004 then commissionByte (off / 176) (off % 176)
  else 0

/-- What the window byte of a key reads as while nothing is listed for it. DEDUCED, log entry 47. -/
def byteDefault (key : Nat) : Byte := BitVec.ofNat 8 (winDefault (key / 2 ^ 32) (key / 2 ^ 24 % 256) (key % 2 ^ 24))

/-- A byte of a window. -/
def State.winB (s : State) (idx sub off : Nat) : Nat :=
  (mapGetD s.wins (winKey idx sub off) (byteDefault (winKey idx sub off))).toNat

/-- A byte of a window set; the default content is left unlisted. -/
def State.setWinB (s : State) (idx sub off v : Nat) : State :=
  { s with wins := mapPut (byteDefault (winKey idx sub off)) s.wins (winKey idx sub off) (BitVec.ofNat 8 v) }

/-- The window bytes of the keys from `lo` to below `hi` back to what nothing has written. -/
def State.dropWins (s : State) (lo hi : Nat) : State := { s with wins := s.wins.filter fun c => !(lo ≤ c.1 && c.1 < hi) }

/-- `n` bytes of a window from an offset. -/
def State.winBytes (s : State) (idx sub off n : Nat) : List Byte :=
  (List.range n).map fun k => BitVec.ofNat 8 (s.winB idx sub (off + k))

/-- Bytes written to a window from an offset. -/
def State.setWin (s : State) (idx sub off : Nat) : List Byte → State
  | [] => s
  | b :: bs => (s.setWinB idx sub off b.toNat).setWin idx sub (off + 1) bs

/-- The little-endian value of `n` window bytes (R9). -/
def State.winLe (s : State) (idx sub off n : Nat) : Nat := leVal (s.winBytes idx sub off n)

/-- `n` window bytes set to a little-endian value. -/
def State.setWinLe (s : State) (idx sub off n v : Nat) : State := s.setWin idx sub off (leBytes n v)

/-- A little-endian window counter of `n` bytes raised by `k`; it wraps. -/
def State.bumpWin (s : State) (idx sub off n k : Nat) : State :=
  s.setWinLe idx sub off n ((s.winLe idx sub off n + k) % 256 ^ n)

/-! ### Carriages, as every unit reads them -/

/-- The state of a carriage (Table 2.3). -/
def State.carState (s : State) (n : Nat) : Nat := s.rdF (0x2200 + n) 1 3 0

/-- The epoch of a carriage (R38). -/
def State.epoch (s : State) (n : Nat) : Nat := s.rdF (0x2200 + n) 1 15 8

/-- A carriage is PRESENT. -/
def State.present (s : State) (n : Nat) : Bool := s.carState n == 0

/-- A carriage does the work it has accepted: it is PRESENT, or in step 2 of its drain (R46). -/
def State.works (s : State) (n : Nat) : Bool := s.present n || s.carState n == 1

/-- The carriages that exist (R30). -/
def carriages : List Nat := List.range 47

/-- The ingress group that holds a port's ingress queue (Table 1.7). -/
def ingressGroup (port : Nat) : Nat := if port ≤ 11 then 0 else 1

/-- The egress group that holds a port's egress queues (Table 1.7). -/
def egressGroup (port : Nat) : Nat := if port ≤ 11 then 21 else 22

/-- The carriage that holds a port itself: port group, host bridge, gateway, control pair or edge group (Table 1.7). -/
def portCarriage (port : Nat) : Nat :=
  if port ≤ 11 then 38 else if port ≤ 27 then 39 else if port ≤ 43 then 40 else if port = 44 then 41
  else if port = 45 then 28 else if port = 46 then 45 else 32 + (port - 64) / 16

/-- The indices a port field may name (R7). -/
def portOk (p : Nat) : Bool := p ≤ 46 || (64 ≤ p && p ≤ 159)

/-- All port indices that exist (Table 0.3). -/
def allPorts : List Nat := List.range 47 ++ (List.range 96).map (· + 64)

/-! ### Time (R316, R322, R331) -/

/-- One second of device time in units of 2^-48 ns. -/
def devSecond : Nat := 1000000000 * 2 ^ 48

/-- The calendar now, in units of 1/32,768 s. -/
def State.calNow (s : State) : Nat := s.time.cal + (s.now - s.time.calAt) * 32768 / 1000000000

/-- Device time as whole seconds and nanoseconds, or calendar time while carriage 42 is not PRESENT (R322). -/
def State.clockNow (s : State) : Nat × Nat :=
  if s.present 42 then (s.time.dev / devSecond % 2 ^ 48, s.time.dev % devSecond / 2 ^ 48)
  else (s.calNow / 32768 % 2 ^ 48, s.calNow % 32768 * 1000000000 / 32768)

/-- The present time in ns since the epoch. -/
def State.nsNow (s : State) : Nat := s.clockNow.1 * 1000000000 + s.clockNow.2

/-- What device time holds below a nanosecond, in units of 2^-16 ns (R316); 0 while carriage 42 is not PRESENT. -/
def State.fracNow (s : State) : Nat := if s.present 42 then s.time.dev % 2 ^ 48 / 2 ^ 32 else 0

/-- The compact stamp of a time in ns (R323). -/
def compact (ns : Nat) : Nat := ns % 2 ^ 32

/-- The slew rate of a limit in ppm, in units of 2^-32 (R319); 500 ppm is 2,147,483. -/
def slewRate (ppm : Nat) : Nat := ppm * 4294967296 / 1000000

/-- The rate in force of 0x7010:05: the applied rate, plus the slew limit with the sign of the remaining slew (R319). -/
def State.rateInForce (s : State) : Int :=
  if s.time.slew = 0 then s.time.rate
  else if 0 < s.time.slew then s.time.rate + slewRate (s.rdF 0x7000 4 8 0)
  else s.time.rate - slewRate (s.rdF 0x7000 4 8 0)

/-- Device time and remaining slew after `c` cycles of the 200 MHz time-unit clock (R316, R319). -/
def devStep (dev : Nat) (rate slew : Int) (lim c : Nat) : Nat × Int :=
  let base : Int := (c * 5 : Nat) * (2 ^ 48 + rate * 2 ^ 16)
  let extra : Nat := min slew.natAbs (c * 5 * slewRate lim * 2 ^ 16)
  let e : Int := if 0 ≤ slew then extra else -(extra : Nat)
  (((dev : Int) + base + e).toNat, slew - e)

/-- The histogram bin of a junction temperature in 0.1 °C (Table 12.14). -/
def tempBin (t : Int) : Nat :=
  if t < -200 then 0 else if t < 0 then 1 else if t < 250 then 2 else if t < 500 then 3 else if t < 750 then 4
  else if t < 1000 then 5 else if t < 1150 then 6 else 7

/-- The link-seconds counts after `dt` ns: every port whose link is up counts (Table 12.14). -/
def linkCounts (s : State) (dt : Nat) (m : List (Nat × Nat)) : List Nat → List (Nat × Nat)
  | [] => m
  | p :: ps => linkCounts s dt (if s.rdB (0x3001 + 0x40 * p) 2 0 then mapSet m p (mapGetD m p 0 + dt) else m) ps

/-- The live lifetime counts after `dt` ns in the present power mode (R333, Table 12.14). -/
def lifeStep (s : State) (dt : Nat) : LifeRec :=
  let l := s.time.live
  let hist := mapSet l.hist (tempBin s.time.temp) (mapGetD l.hist (tempBin s.time.temp) 0 + dt)
  let links := linkCounts s dt l.linkNs ((List.range 44).filter fun p => s.rdB (0x3001 + 0x40 * p) 2 0)
  match s.mode with
  | .run => { l with runNs := l.runNs + dt, hist := hist, linkNs := links }
  | .sleep => { l with sleepNs := l.sleepNs + dt, hist := hist, linkNs := links }
  | .deepSleep => { l with deepNs := l.deepNs + dt, hist := hist }
  | .standstill => { l with hist := hist }
  | .off => l
  | .stopped => l

/-- `dt` ns of local time pass: device time counts while the time unit runs (R316, R322), the calendar always (R331). -/
def State.tick (s : State) (dt : Nat) : State :=
  let c := (s.now + dt) / 5 - s.now / 5
  let runs := s.present 42 && (s.mode == .run || s.mode == .sleep)
  let d := devStep s.time.dev s.time.rate s.time.slew (s.rdF 0x7000 4 8 0) c
  let life := lifeStep s dt
  let s1 := { s with now := s.now + dt, time := { s.time with live := life } }
  if runs then { s1 with time := { s1.time with dev := d.1, slew := d.2 } } else s1

/-! ### Events, outputs, free values -/

/-- An event record (Table 1.8) in the ring 0x1200 (R32, R34): source, code and the three data fields. DESIGN CHOICE, log entry 5. -/
def State.event (s : State) (src code d0 d1 d2 : Nat) : State :=
  let n := s.rd 0x1201 1
  let ep := if src < 0x80 then s.epoch src else 0
  let t := s.clockNow
  let rec16 := leBytes 4 t.2 ++ leBytes 4 (t.1 % 2 ^ 32) ++ leBytes 1 src ++ leBytes 1 ep ++ leBytes 2 code
    ++ leBytes 1 d0 ++ leBytes 1 d1 ++ leBytes 2 d2
  let s := s.setWin 0x1200 0 (n % 4096 * 16) rec16
  let s := if s.ringFull then s.bump 0x1201 2 1 else s
  let s := s.bump 0x1201 1 1
  if s.rd 0x1201 1 % 4096 = 0 then { s with ringFull := true } else s

/-- An output of the part. DESIGN CHOICE, log entry 7. -/
def State.emit (s : State) (o : Output) : State := { s with outputs := o :: s.outputs }

/-- Several outputs, in order. -/
def State.emits (s : State) : List Output → State
  | [] => s
  | o :: os => (s.emit o).emits os

/-- A free value drawn: the value, and the state with the draw counted. DESIGN CHOICE, log entry 10. -/
def State.draw (s : State) : Nat × State := ((Config.freeValue s.fresh).toNat, { s with fresh := s.fresh + 1 })

/-- `f` for every element of a list, in order. -/
def State.forEach {α : Type} (s : State) (l : List α) (f : State → α → State) : State := l.foldl f s

end Sys2Proof.Machine
end

