-- ==== Sys2Proof/Machine/Carriage.lean ====
section
/-! DEFINITION. Carriages and couplings (Chapter 2): epochs, sequences, places, the drain-and-fence steps, spares. What a
fence or a return does to a carriage's own contents is in Restart.lean. -/

namespace Sys2Proof.Machine

/-- Codes of Table 2.3. -/
def stPresent : Nat := 0
/-- DRAINING. -/
def stDraining : Nat := 1
/-- FENCED. -/
def stFenced : Nat := 2
/-- RESETTING. -/
def stResetting : Nat := 3
/-- TESTING. -/
def stTesting : Nat := 4
/-- POWERED_DOWN. -/
def stPoweredDown : Nat := 5
/-- SPARE_IDLE. -/
def stSpareIdle : Nat := 6
/-- RETIRED. -/
def stRetired : Nat := 7
/-- FAILED. -/
def stFailed : Nat := 8

/-- The carriage part of the state changed. -/
def State.withCar (s : State) (f : CarState → CarState) : State := { s with car := f s.car }

/-- A carriage's state written (R44). -/
def State.setCar (s : State) (n st : Nat) : State := s.wrF (0x2200 + n) 1 3 0 st

/-- The carriages whose repair forces store-and-forward (Table 5.5). -/
def repairCarriage (n : Nat) : Bool := n ≤ 10 || n == 21 || n == 22 || (38 ≤ n && n ≤ 40)

/-- The repair window of Table 5.5 restarted at an event 0x0031 or 0x0032 of one of its carriages: 100 ms. -/
def State.repairWindow (s : State) (n : Nat) : State :=
  if repairCarriage n then { s with eth := { s.eth with repairUntil := s.now + 100000000 } } else s

/-- The sequence that runs on a carriage, if any. -/
def State.seqOf (s : State) (n : Nat) : Option CarSeq := s.car.seqs.find? fun q => q.carriage == n

/-- The sequences of a carriage taken off the list, its place freed (R53). -/
def State.dropSeq (s : State) (n : Nat) : State :=
  s.withCar fun c => { c with seqs := c.seqs.filter fun q => q.carriage != n }

/-- The sequence of its carriage replaced. -/
def State.putSeq (s : State) (q : CarSeq) : State :=
  s.withCar fun c => { c with seqs := c.seqs.map fun r => if r.carriage == q.carriage then q else r }

/-- The four ordinary places in use (R53). -/
def State.placesUsed (s : State) : Nat := (s.car.seqs.filter fun q => !q.fifth).length

/-- The fifth place is in use (R53). -/
def State.fifthUsed (s : State) : Bool := s.car.seqs.any fun q => q.fifth

/-- A new sequence finds a place: one of four, or for a swap the fifth (R53). -/
def State.placeFree (s : State) (swap : Bool) : Bool := decide (s.placesUsed < 4) || (swap && !s.fifthUsed)

/-- The drain limit of a carriage, in µs (0x2200 + n:02). -/
def State.drainLimit (s : State) (n : Nat) : Nat := s.rdF (0x2200 + n) 2 13 0

/-- A sequence added; a drain begins by closing the couplings (Table 2.6 step 1), a test or reset of a carriage that is out
of service begins at once. -/
def State.startSeq (s : State) (n : Nat) (act : SeqAct) (phase : SeqPhase) (reason limit unit spare : Nat) (cmd : Bool)
    (fifth : Bool) : State :=
  let q : CarSeq := { carriage := n, act := act, phase := phase, reason := reason, limit := limit, since := s.now,
                      begun := s.now, cmd := cmd, fifth := fifth, unit := unit, spare := spare, completed := 0, moved := 0,
                      prior := s.carState n }
  let s := s.withCar fun c => { c with seqs := c.seqs ++ [q] }
  let s := if act = .edgeSwap then s else s.bump (0x2200 + n) 3 (if phase = .draining then 1 else 0)
  let s := if act = .edgeSwap then s else s.wrF (0x2200 + n) 1 23 16 reason
  let s := if phase = .draining then s.setCar n stDraining else s
  if phase = .acting then s.setCar n (if act = .reset then stResetting else stTesting) else s

/-- The result of the last command (0x2020:03) and its end (0x2020:02 reads 0). -/
def State.endCommand (s : State) (n result : Nat) : State :=
  if s.car.cmdRunning = some n then
    (s.wrF 0x2020 3 7 0 result).withCar fun c => { c with cmdRunning := none }
  else s

/-- Epoch advanced by 1, 255 to 1 (R38). -/
def nextEpoch (e : Nat) : Nat := if e = 255 then 1 else e + 1

/-- The carriage returns to PRESENT: acknowledges addressed to it are discarded (R40), it takes its next epoch, its couplings
open and event 0x0031 is raised (R48). -/
def State.becomePresent (s : State) (n reason result : Nat) : State :=
  let s := s.withCar fun c => { c with acks := c.acks.filter fun a => a.requester != n,
                                       presentAt := mapSet c.presentAt n s.now }
  let s := s.wrF (0x2200 + n) 1 15 8 (nextEpoch (s.epoch n))
  let s := (s.setCar n stPresent).wr (0x2100 + n) 1 0
  (s.event n 0x31 reason result 0).repairWindow n

/-- The requests to a carriage that a fence answers carriage-absent (Table 2.6 step 3). -/
def State.answeredByFence (s : State) (n : Nat) : List CReq := s.car.reqs.filter fun r => r.target == n

/-- Acknowledges that step 4 discards and counts: their requester's epoch has changed (R39). -/
def State.staleAcks (s : State) (n : Nat) : List CAck :=
  s.car.acks.filter fun a => a.requester != n && a.reqEpoch != s.epoch a.requester

/-- Steps 3–5 of Table 2.6: held and unfinished requests are acknowledged carriage-absent with the old epoch, acknowledges
are purged, event 0x0030 is raised, and the carriage is FENCED. -/
def State.fenceSteps (s : State) (n reason completed : Nat) : State :=
  let reqs := s.answeredByFence n
  let stale := s.staleAcks n
  let absent : List CAck := reqs.map fun r => ⟨r.requester, n, r.tag, r.op, r.epoch, s.epoch n, 1⟩
  let kept := s.car.acks.filter fun a => a.requester != n && a.reqEpoch == s.epoch a.requester
  let s := s.withCar fun c => { c with reqs := c.reqs.filter fun r => r.target != n, acks := kept ++ absent }
  let s := s.forEach stale fun s a => s.bump (0x2200 + a.requester) 6 1
  let s := s.bump (0x2200 + n) 5 reqs.length
  let s := s.wr (0x2200 + n) 4 completed
  let s := s.setCar n stFenced
  s.event n 0x30 reason (min stale.length 255) (min reqs.length 65535)

/-- A self-test of the in-service schedule ends without a result: counted as skipped (R64). -/
def State.skipTest (s : State) : State := (s.withCar fun c => { c with test := none }).bump 0x2040 4 1

/-- A self-test of the in-service schedule abandoned: counted as skipped, its unit as before; a shadow half returns to PRESENT
(R64). -/
def State.abandonTest (s : State) : State :=
  match s.car.test with
  | none => s
  | some t =>
    let s := s.skipTest
    if t.unit ≠ 255 then s
    else if t.prior = stPresent then s.becomePresent t.carriage 3 0
    else s.setCar t.carriage t.prior

/-- The in-service test is of a whole carriage `n`. -/
def State.testsCarriage (s : State) (n : Nat) : Bool :=
  match s.car.test with
  | some t => t.carriage == n && t.unit == 255
  | none => false

/-- A restart the carriage controller runs without a command (R55, R506): QUENCH, a clock-domain restart or a mismatch.
A running drain ends at once; an action after the fence is abandoned and the carriage is reset; with no free place the
restart waits in arrival order (R53). -/
def State.restartCarriage (s : State) (n reason limit : Nat) : State :=
  let st := s.carState n
  if s.testsCarriage n then
    if (s.car.test.map fun t => t.prior) = some stPresent then s.skipTest.startSeq n .reset .acting reason 0 0 0 false false
    else s.abandonTest
  else if st = stPoweredDown ∨ st = stSpareIdle ∨ st = stRetired ∨ st = stFailed then s
  else match s.seqOf n with
    | some q =>
      let s := s.endCommand n 2
      let s := s.wrF (0x2200 + n) 1 23 16 reason
      if q.phase = .acting then
        (s.putSeq { q with act := .reset, reason := reason, cmd := false, since := s.now }).setCar n stResetting
      else
        let s := if q.phase = .draining then s else s.bump (0x2200 + n) 3 1
        (s.putSeq { q with act := .reset, phase := .draining, reason := reason, limit := 0, cmd := false,
                           since := s.now }).setCar n stDraining
    | none =>
      if st ≠ stPresent then s
      else if s.placeFree false then s.startSeq n .reset .draining reason limit 0 0 false false
      else s.withCar fun c => { c with waiting := c.waiting ++ [⟨n, 0, reason, true, s.now⟩] }

/-! ### Units and spares (R57–R60) -/

/-- The key of a unit. -/
def unitKey (n u : Nat) : Nat := n * 256 + u

/-- The key of a spare slot. -/
def spareKey (n k : Nat) : Nat := n * 4 + k

/-- The spare slots of a carriage: one in a cipher cluster, two in an edge group (Table 1.7). -/
def spareSlots (n : Nat) : List Nat :=
  if 23 ≤ n ∧ n ≤ 27 then [0] else if 32 ≤ n ∧ n ≤ 37 then [0, 1] else []

/-- The lowest ready spare of a carriage. -/
def State.readySpare (s : State) (n : Nat) : Option Nat :=
  (spareSlots n).find? fun k => mapGetD s.car.spareUsed (spareKey n k) 0 == 0

/-- The cell banks that are SPARE_IDLE, bank carriage numbers 2–10 (R58). -/
def State.idleBanks (s : State) : List Nat := ((List.range 9).map (· + 2)).filter fun n => s.carState n == stSpareIdle

/-- The spare bank a swap uses: the lowest-numbered that is SPARE_IDLE or under an in-service test, which the swap abandons
(R58, R64). -/
def State.spareBank (s : State) : Option Nat :=
  ((List.range 9).map (· + 2)).find? fun n =>
    s.carState n == stSpareIdle || (s.testsCarriage n)

/-- Spares still available in the device, for event 0x0033 (Table 2.8). -/
def State.sparesLeft (s : State) : Nat :=
  s.idleBanks.length +
    (((List.range 5).map (· + 23)) ++ ((List.range 6).map (· + 32))).foldl
      (fun a n => a + ((spareSlots n).filter fun k => mapGetD s.car.spareUsed (spareKey n k) 0 == 0).length) 0

/-- Event 0x0033, spares exhausted (Table 2.8). -/
def State.exhausted (s : State) (n unit : Nat) : State := s.event n 0x33 unit 0 s.sparesLeft

/-! ### Couplings (R36–R39) -/

/-- A request reaches a coupling: accepted while the target is PRESENT, held while it is DRAINING, answered carriage-absent
at once otherwise (Tables 2.3 and 2.6). -/
def State.request (s : State) (requester target tag : Nat) (op : CouplingOp) : State :=
  let st := s.carState target
  if st = stPresent ∨ st = stDraining then
    s.withCar fun c => { c with reqs := c.reqs ++ [⟨requester, target, tag, s.epoch requester, op, st == stDraining⟩] }
  else if st = stSpareIdle then s
  else
    let s := s.withCar fun c => { c with acks := c.acks ++ [⟨requester, target, tag, op, s.epoch requester, s.epoch target, 1⟩] }
    s.bump (0x2200 + target) 5 1

/-- An acknowledge reaches its requester: delivered only if the requester epoch in it is current, else discarded and counted
(R39). -/
def State.deliverAck (s : State) (a : CAck) : State :=
  if a.reqEpoch = s.epoch a.requester then
    s.emit (.ack a.requester a.responder a.tag a.reqEpoch a.respEpoch a.status)
  else s.bump (0x2200 + a.requester) 6 1

end Sys2Proof.Machine
end

