-- ==== Sys2Proof/Machine/Parse.lean ====
section
/-! DEFINITION. Reading stored forms: the Ethernet parser of R240, the CAN and LIN headers of Table 6.5, and the CRCs of the
standard formats. -/

namespace Sys2Proof.Machine

/-- One step of a reflected CRC register over one byte. -/
def crcByte (poly crc b : Nat) : Nat :=
  (List.range 8).foldl (fun c _ => if c % 2 = 1 then (c / 2) ^^^ poly else c / 2) (crc ^^^ b)

/-- A reflected 32-bit CRC with all-ones start and final complement. -/
def crcOf (poly : Nat) (bs : List Byte) : Nat :=
  (bs.foldl (fun c b => crcByte poly c b.toNat) 0xFFFFFFFF) ^^^ 0xFFFFFFFF

/-- The CRC-32 register of IEEE 802.3 run over more bytes; it starts at all ones. PRESUMED, log entry 41. -/
def crcRun (c : Nat) (bs : List Byte) : Nat := bs.foldl (fun c b => crcByte 0xEDB88320 c b.toNat) c

/-- The register after a frame with its good FCS. -/
def crcGood : Nat := 0xDEBB20E3

/-- CRC-32 of IEEE 802.3, the FCS, least significant byte first in the frame. -/
def crc32 (bs : List Byte) : Nat := crcOf 0xEDB88320 bs

/-- CRC-32C (Table 12.14). -/
def crc32c (bs : List Byte) : Nat := crcOf 0x82F63B78 bs

/-- CRC-16 of CiA 301 block transfers (polynomial x^16 + x^12 + x^5 + 1, start 0). PRESUMED, log entry 42. -/
def crc16 (bs : List Byte) : Nat :=
  bs.foldl (fun c b => (List.range 8).foldl
    (fun c _ => if c / 32768 % 2 = 1 then (c * 2 % 65536) ^^^ 0x1021 else c * 2 % 65536) (c ^^^ (b.toNat * 256))) 0

/-- The frame with its FCS appended. -/
def withFcs (bs : List Byte) : List Byte := bs ++ leBytes 4 (crc32 bs)

/-- The fields of an Ethernet frame that lookups and the firewall use (Table 9.2, R240). Addresses are numbers whose most
significant byte was transmitted first. `off` is the offset of the byte after the EtherType. -/
structure EthView where
  dst : Nat
  src : Nat
  tagged : Bool
  vid : Nat
  pcp : Nat
  dei : Nat
  tagOff : Nat
  etype : Nat
  off : Nat
  rtag : Option Nat
  v4 : Bool
  v6 : Bool
  frag : Bool
  proto : Nat
  dscp : Nat
  sip : Nat
  dip : Nat
  sport : Nat
  dport : Nat
  l4 : Nat
  deriving DecidableEq, Repr

/-- Big-endian value of `n` frame bytes from an offset. -/
def beAt (bs : List Byte) (off n : Nat) : Nat := beVal (sliceZ bs off n)

/-- The two VLAN tag protocol identifiers (R240). -/
def isTpid (t : Nat) : Bool := t == 0x8100 || t == 0x88A8

/-- The parser of R240: up to two VLAN tags, then at most one R-TAG, then the EtherType and the IP fields. -/
def parseEth (bs : List Byte) : EthView :=
  let t1 := isTpid (beAt bs 12 2)
  let o1 := if t1 then 16 else 12
  let t2 := t1 && isTpid (beAt bs o1 2)
  let o2 := if t2 then o1 + 4 else o1
  let rt := beAt bs o2 2 == 0xF1C1
  let o3 := if rt then o2 + 6 else o2
  let tci := if t1 then beAt bs 14 2 else 0
  let et := beAt bs o3 2
  let p := o3 + 2
  let ihl := byteAt bs p % 16
  let v4 := et == 0x0800 && byteAt bs p / 16 == 4 && decide (5 ≤ ihl)
  let v6 := et == 0x86DD && byteAt bs p / 16 == 6
  let frag := v4 && beAt bs (p + 6) 2 % 8192 != 0
  let proto := if v4 then byteAt bs (p + 9) else if v6 then byteAt bs (p + 6) else 0
  let l4 := if v4 then p + 4 * ihl else p + 40
  let hasPorts := (v4 || v6) && !frag && (proto == 6 || proto == 17)
  { dst := beAt bs 0 6, src := beAt bs 6 6, tagged := t1, vid := tci % 4096, pcp := tci / 8192, dei := tci / 4096 % 2,
    tagOff := o2, etype := et, off := p, rtag := if rt then some (beAt bs (o2 + 4) 2) else none,
    v4 := v4, v6 := v6, frag := frag, proto := proto,
    dscp := if v4 then byteAt bs (p + 1) / 4 else if v6 then beAt bs p 2 / 64 % 64 else 0,
    sip := if v4 then beAt bs (p + 12) 4 else if v6 then beAt bs (p + 8) 16 else 0,
    dip := if v4 then beAt bs (p + 16) 4 else if v6 then beAt bs (p + 24) 16 else 0,
    sport := if hasPorts then beAt bs l4 2 else 0, dport := if hasPorts then beAt bs (l4 + 2) 2 else 0, l4 := l4 }

/-- The Internet checksum over 16-bit words (IETF RFC 1071). -/
def sum16 : List Byte → Nat
  | [] => 0
  | [a] => a.toNat * 256
  | a :: b :: r => a.toNat * 256 + b.toNat + sum16 r

/-- One's complement of the folded sum; `z` gives the value sent in place of 0 (UDP sends all ones). -/
def checksum (n z : Nat) : Nat :=
  let f := n % 65536 + n / 65536
  let g := f % 65536 + f / 65536
  let c := 65535 - g % 65536
  if c = 0 then z else c

/-- The IPv4 header of R198: 20 bytes, no options, DF set, identification 0, checksum computed. -/
def ipv4Header (dscp hop sip dip plen : Nat) : List Byte :=
  let h1 := beBytes 1 0x45 ++ beBytes 1 (dscp * 4) ++ beBytes 2 (20 + plen) ++ beBytes 2 0 ++ beBytes 2 0x4000
    ++ beBytes 1 hop ++ beBytes 1 17
  let h2 := beBytes 4 sip ++ beBytes 4 dip
  h1 ++ beBytes 2 (checksum (sum16 (h1 ++ h2)) 0) ++ h2

/-- The IPv6 header of R198: 40 bytes, no extension headers, flow label 0. -/
def ipv6Header (dscp hop sip dip plen : Nat) : List Byte :=
  beBytes 4 (6 * 2 ^ 28 + dscp * 2 ^ 22) ++ beBytes 2 plen ++ beBytes 1 17 ++ beBytes 1 hop ++ beBytes 16 sip ++ beBytes 16 dip

/-- IP and UDP headers with the payload (R198), both checksums computed. -/
def ipUdp (v6 : Bool) (dscp hop sip dip sport dport : Nat) (payload : List Byte) : List Byte :=
  let n := 8 + payload.length
  let a := if v6 then 16 else 4
  let u := beBytes 2 sport ++ beBytes 2 dport ++ beBytes 2 n
  let c := checksum (sum16 (beBytes a sip ++ beBytes a dip ++ beBytes 2 17 ++ beBytes 2 n ++ u ++ payload)) 65535
  (if v6 then ipv6Header dscp hop sip dip n else ipv4Header dscp hop sip dip n) ++ u ++ beBytes 2 c ++ payload

/-- A frame padded to 60 bytes before its FCS, and the FCS. -/
def finishEth (bs : List Byte) : List Byte := withFcs (bs ++ fill (60 - bs.length) 0)

/-- The answer to a UDP request (R439): its VLAN tags, MAC and IP addresses and UDP ports swapped, hop limit 64. -/
def udpAnswer (req payload : List Byte) : List Byte :=
  let v := parseEth req
  let tags := (req.drop 12).take (v.tagOff - 12)
  finishEth (beBytes 6 v.src ++ beBytes 6 v.dst ++ tags ++ beBytes 2 (if v.v6 then 0x86DD else 0x0800)
    ++ ipUdp v.v6 0 64 v.dip v.sip v.dport v.sport payload)

/-- The UDP payload of a parsed Ethernet frame, by the UDP length. -/
def udpPayload (bs : List Byte) : List Byte :=
  let v := parseEth bs
  sliceZ bs (v.l4 + 8) (beAt bs (v.l4 + 4) 2 - 8)

/-- The fields of a CAN, CAN FD or CAN XL frame in stored form (Table 6.5). -/
structure CanView where
  ide : Bool
  rtr : Bool
  id : Nat
  fdf : Bool
  xlf : Bool
  brs : Bool
  esi : Bool
  sec : Bool
  sdt : Nat
  len : Nat
  vcid : Nat
  dlc : Nat
  af : Nat
  deriving DecidableEq, Repr

/-- The header of Table 6.5. -/
def parseCan (bs : List Byte) : CanView :=
  let w := beAt bs 0 4
  let f := byteAt bs 4
  { ide := tb w 31, rtr := tb w 30, id := w % 2 ^ 29, fdf := tb f 7, xlf := tb f 6, brs := tb f 5, esi := tb f 4,
    sec := tb f 3, sdt := byteAt bs 5, len := beAt bs 6 2, vcid := byteAt bs 8, dlc := byteAt bs 9 % 16, af := beAt bs 12 4 }

/-- The stored form of a CAN frame (Table 6.5) from its fields and data. -/
def canBytes (c : CanView) (data : List Byte) : List Byte :=
  beBytes 4 ((if c.ide then 2 ^ 31 else 0) + (if c.rtr then 2 ^ 30 else 0) + c.id % 2 ^ 29)
    ++ beBytes 1 ((if c.fdf then 128 else 0) + (if c.xlf then 64 else 0) + (if c.brs then 32 else 0)
        + (if c.esi then 16 else 0) + (if c.sec then 8 else 0))
    ++ beBytes 1 c.sdt ++ beBytes 2 data.length ++ beBytes 1 c.vcid ++ beBytes 1 c.dlc ++ fill 2 0 ++ beBytes 4 c.af ++ data

/-- The data lengths of classical and FD frames by DLC (ISO 11898-1). -/
def fdLengths : List Nat := [0, 1, 2, 3, 4, 5, 6, 7, 8, 12, 16, 20, 24, 32, 48, 64]

/-- The smallest FD length that holds `n` bytes. -/
def fdLength (n : Nat) : Nat := (fdLengths.find? fun l => n ≤ l).getD 64

/-- The DLC of a data length. -/
def dlcOf (n : Nat) : Nat := (fdLengths.findIdx? fun l => n ≤ l).getD 15

/-- A port of a like channel is a C channel (Table 0.3). -/
def isC (port : Nat) : Bool := 64 ≤ port && port ≤ 135

/-- A port of a like channel is an L channel (Table 0.3). -/
def isL (port : Nat) : Bool := 136 ≤ port && port ≤ 159

/-- A port is an Ethernet port 0–43. -/
def isEth (port : Nat) : Bool := port ≤ 43

/-- The length field of a CAN frame fits its format (Table 6.5, R158). -/
def canLenOk (c : CanView) : Bool :=
  if c.xlf then 1 ≤ c.len && c.len ≤ 2048 else if c.fdf then decide (c.len ≤ 64) else decide (c.len ≤ 8)

end Sys2Proof.Machine
end

