-- ==== Sys2Proof/Machine/Buffer.lean ====
section
/-! DEFINITION. The cell buffer and refusals: cells and the cut-through reserve (R73, R77), reference counts (R84, R85), the
refusal counters, trace and notices (R231, R235, R236), age (R80–R82), poison (R79), and the residue log (R87, R90). -/

namespace Sys2Proof.Machine

/-- The buffer part of the state changed. -/
def State.withBuf (s : State) (f : BufState → BufState) : State := { s with buf := f s.buf }

/-- The traffic part of the state changed. -/
def State.withTm (s : State) (f : TmState → TmState) : State := { s with tm := f s.tm }

/-- A frame of the cell buffer. -/
def State.frame? (s : State) (id : Nat) : Option Frame := mapGet s.buf.frames id

/-- A frame set. -/
def State.setFrame (s : State) (id : Nat) (f : Frame) : State :=
  s.withBuf fun b => { b with frames := mapSet b.frames id f }

/-- A frame changed, where it is held. -/
def State.modFrame (s : State) (id : Nat) (g : Frame → Frame) : State :=
  match s.frame? id with
  | some f => s.setFrame id (g f)
  | none => s

/-- A frame's cells and descriptor freed (R85). -/
def State.eraseFrame (s : State) (id : Nat) : State := s.withBuf fun b => { b with frames := mapDel b.frames id }

/-! ### Cells -/

/-- Cells in use in a cell bank. -/
def State.usedIn (s : State) (bank : Nat) : Nat :=
  s.buf.frames.foldl (fun a p => a + (p.2.cells.filter fun b => b == bank).length) 0

/-- A cell bank is being copied out under R58. -/
def State.copyingOut (s : State) (bank : Nat) : Bool :=
  match s.seqOf bank with
  | some q => q.act == .bankSwap && q.phase == .copying
  | none => false

/-- The cell banks that are PRESENT. -/
def State.banksPresent (s : State) : List Nat := ((List.range 9).map (· + 2)).filter s.present

/-- Free cells now (0x2060:01): those of the PRESENT banks that are not being copied out. -/
def State.freeCells (s : State) : Nat :=
  (s.banksPresent.filter fun b => !s.copyingOut b).foldl (fun a b => a + (16384 - s.usedIn b)) 0

/-- Cells in service (0x2060:02). -/
def State.cellsInService (s : State) : Nat := 16384 * s.banksPresent.length

/-- The bank of the next cell: the banks in turn, those with a free cell (R77). -/
def State.pickBank (s : State) : Option Nat :=
  ((List.range 9).map fun k => 2 + (s.buf.nextBank + k) % 9).find? fun b =>
    s.present b && !s.copyingOut b && decide (s.usedIn b < 16384)

/-- The cut-through reserve (R73). -/
def reserveCells : Nat := 2112

/-- One cell for a frame: an early-released frame may use the reserve, any other only above it (R73). -/
def State.allocCell (s : State) (early : Bool) : Option (Nat × State) :=
  if early || reserveCells + 1 ≤ s.freeCells then
    match s.pickBank with
    | some b =>
      let s' := s.withBuf fun x => { x with nextBank := (b - 2 + 1) % 9 }
      some (b, s')
    | none => none
  else none

/-- The least free count kept (0x2060:03, R89): cells leave as frames take them and as a bank leaves service. -/
def State.noteLeast (s : State) : State :=
  if s.freeCells < s.buf.leastFree then s.withBuf fun b => { b with leastFree := s.freeCells } else s

/-- Cells taken until the frame has `want` cells; false when no cell may be taken. -/
def State.growCells (s : State) (id want : Nat) : Nat → State × Bool
  | 0 => (s, true)
  | n + 1 =>
    match s.frame? id with
    | none => (s, false)
    | some f =>
      if want ≤ f.cells.length then (s, true)
      else
        match s.allocCell f.early with
        | none => (s, false)
        | some (b, s') => (s'.setFrame id { f with cells := f.cells ++ [b] }).noteLeast.growCells id want n

/-- Bytes appended to a frame, with a cell for each 192 bytes (R77); false when it finds no cell it may take. -/
def State.appendBytes (s : State) (id : Nat) (bs : List Byte) : State × Bool :=
  match s.frame? id with
  | none => (s, false)
  | some f =>
    let n := f.bytes.length + bs.length
    let (s', ok) := s.growCells id (ceilDiv n 192) (ceilDiv n 192)
    if ok then
      (s'.modFrame id fun f => { f with bytes := f.bytes ++ bs, rxLen := f.rxLen + bs.length, crc := crcRun f.crc bs }, true)
    else (s', false)

/-- A frame built inside the part, whole and good, with cells above the reserve (R73); none when no cell is free (R74). -/
def State.buildFrame (s : State) (f : Frame) (bs : List Byte) : Option (Nat × State) :=
  let (id, s1) := (s.buf.nextId, s.withBuf fun b => { b with frames := mapSet b.frames b.nextId f, nextId := b.nextId + 1 })
  let (s2, ok) := s1.appendBytes id bs
  if ok then some (id, s2.modFrame id fun f => { f with whole := true, released := true, built := true })
  else none

/-- The cells of a frame that are complete in the buffer (R71). -/
def completeCells (f : Frame) : Nat := if f.whole then f.cells.length else f.bytes.length / 192

/-- A new frame: its number, and the state that holds it. -/
def State.newFrame (s : State) (f : Frame) : Nat × State :=
  (s.buf.nextId, s.withBuf fun b => { b with frames := mapSet b.frames b.nextId f, nextId := b.nextId + 1 })

/-- A frame of which nothing has been received. -/
def blankFrame (ingress domain cls ns : Nat) : Frame where
  bytes := []
  ingress := ingress
  domain := domain
  cls := cls
  stamp := compact ns
  age := ns
  metaWord := none
  limit := 0
  whole := false
  status := 0
  released := false
  early := false
  held := false
  poison := none
  cells := []
  refs := []
  waiting := []
  handle := 0
  passes := 0
  built := false
  raised := false
  underran := false
  secured := false
  notice := false
  stream := none
  kind := if isC ingress then 1 else if isL ingress then 2 else 0
  rxLen := 0
  crc := 0xFFFFFFFF
  word := []
  edited := false
  draw := none
  look := ingress
  frac := 0

/-! ### Refusals (R231, R235, R236) -/

/-- The refusal counter of a port, class and reason, and the total, raised by 1 (R231). -/
def State.countRefusal (s : State) (port cls reason : Nat) : State :=
  (s.bump64 (0x6009 + 0x10 * port) (1 + 8 * cls + reason) 1).bump 0x6A00 5 1

/-- The trace record of a refusal (R235, Table 8.19); a full ring counts it as not traced, and the 256th record raises event
0x0091. -/
def State.traceRefusal (s : State) (f : Frame) (egress cls reason : Nat) : State :=
  if !s.rdB 0x6A30 1 reason then s
  else
    let held := s.rdF 0x6A30 2 8 0
    if 256 ≤ held then s.bump 0x6A30 3 1
    else
      let t := s.clockNow
      let r := leBytes 4 t.2 ++ leBytes 4 (t.1 % 2 ^ 32) ++ leBytes 1 f.ingress ++ leBytes 1 egress
        ++ leBytes 1 (cls + 8 * reason) ++ fill 1 0 ++ leBytes 2 f.bytes.length ++ fill 2 0 ++ sliceZ f.bytes 0 48
      let s := (s.setWin 0x6A30 5 (held * 64) r).wrF 0x6A30 2 8 0 (held + 1)
      if held + 1 = 256 then s.event 21 0x91 0 0 256 else s

/-- The notice entry of a refusal (R236, Table 8.21): collected in the open notice, which is ready at 32 entries; lost and
counted while the cap of this second is reached. -/
def State.noticeRefusal (s : State) (f : Frame) (egress cls reason : Nat) : State :=
  if !(s.rdB 0x6A31 1 0 && s.rdB 0x6A31 1 (8 + reason)) then s
  else if s.rdF 0x6A31 3 13 0 ≤ s.tm.noticesThisSecond + s.tm.noticeReady.length then s.bump 0x6A31 6 1
  else
    let e := beBytes 4 (compact s.nsNow) ++ leBytes 1 f.ingress ++ leBytes 1 egress ++ leBytes 1 (cls + 8 * reason) ++ fill 1 0
    let n := s.tm.notice ++ [e]
    if n.length = 32 then s.withTm fun t => { t with notice := [], noticeReady := t.noticeReady ++ [n] }
    else s.withTm fun t => { t with notice := n, noticeAt := if t.notice = [] then s.now else t.noticeAt }

/-- The end of a step of the frame the latency probe follows, in ns from its frame-valid instant (Table 1.10).
DESIGN CHOICE, log entry 37. -/
def State.probeStep (s : State) (id sub : Nat) : State :=
  if s.probe.frame = some id then s.wr 0xF010 sub ((s.now - s.probe.start) % 2 ^ 32) else s

/-- The frame the latency probe follows was refused before egress. -/
def State.probeDrop (s : State) (id : Nat) : State :=
  if s.probe.frame = some id then { s.wrF 0xF010 4 1 1 1 with probe := { s.probe with frame := none } } else s

/-- Transmission of the frame the latency probe follows starts on a port (step 10). -/
def State.probeOut (s : State) (id p : Nat) : State :=
  if s.probe.frame = some id then (s.wrF 0xF010 4 15 8 p).probeStep id 0x18 else s

/-- Its last bit has left (step 11). -/
def State.probeEnd (s : State) (id : Nat) : State :=
  if s.probe.frame = some id then { s.probeStep id 0x19 with probe := { s.probe with frame := none } } else s

/-- What the gateway has just built from the probed frame carries the probe on (step 7). -/
def State.probeBuilt (s : State) (id : Nat) : State :=
  if s.probe.inJob then
    State.probeStep { s with probe := { s.probe with frame := some id, inJob := false } } id 0x15
  else s

/-- A frame copy refused: counted against one port, class and reason (R231), traced and noticed. `egress` is 0xFF when no
destination had been chosen. A refused notice only counts (R236). -/
def State.refuse (s : State) (f : Frame) (port egress reason : Nat) : State :=
  let s := s.countRefusal port f.cls reason
  let s := if reason = 1 then s.bump 0x2060 4 1 else s
  if f.notice then s else (s.traceRefusal f egress f.cls reason).noticeRefusal f egress f.cls reason

/-! ### Age (R80–R82) -/

/-- The age limit of a class in ns (R81). -/
def State.ageLimit (s : State) (cls : Nat) : Nat := s.rd 0x2061 (1 + cls) * 1000

/-- The frame's age exceeds its class's limit (R82). -/
def State.expired (s : State) (f : Frame) : Bool := decide (s.ageLimit f.cls < s.nsNow - f.age)

/-! ### Copies (R84, R85) -/

/-- One copy has left or been dropped: the count falls by 1, and the cells are freed at 0 (R85). -/
def State.dropRef (s : State) (id port : Nat) : State :=
  match s.frame? id with
  | none => s
  | some f =>
    let refs := f.refs.erase port
    let w := f.waiting.erase port
    if refs = [] then s.eraseFrame id else s.setFrame id { f with refs := refs, waiting := w }

/-- The bitmap of Table 3.11. -/
def copyBitmap (ports : List Nat) : List Byte :=
  (List.range 20).map fun b => BitVec.ofNat 8 ((List.range 8).foldl
    (fun a i => if ports.contains (8 * b + i) then a + 2 ^ i else a) 0)

/-- The residue record of the copies of a frame dropped while waiting (R87, R90), and event 0x0040 under its cap. -/
def State.residueRecord (s : State) (f : Frame) (ports : List Nat) : State :=
  let n := s.rd 0x2062 1
  let slot := n % 64
  let t := s.clockNow
  let r := leBytes 4 t.2 ++ leBytes 4 (t.1 % 2 ^ 32) ++ leBytes 1 f.ingress ++ leBytes 1 f.cls ++ leBytes 2 ports.length
    ++ copyBitmap ports
  let wasFull := s.winLe 0x2062 4 (slot * 32 + 10) 2 != 0
  let s := s.setWin 0x2062 4 (slot * 32) r
  let s := if wasFull then s.bump 0x2062 2 1 else s
  let s := s.bump 0x2062 1 1
  let low := ports.foldl min 255
  if s.buf.residueEvents < 1000 then
    (s.event (egressGroup low) 0x40 slot f.ingress ports.length).withBuf fun b =>
      { b with residueEvents := b.residueEvents + 1 }
  else s.bump 0x2062 3 1

/-- The waiting copies of an expired frame dropped: each refused with reason 6, counted in 0x2060:06, all in one residue
record (R85). -/
def State.dropWaiting (s : State) (id : Nat) : State :=
  match s.frame? id with
  | none => s
  | some f =>
    if f.waiting = [] then s
    else
      let s := s.forEach f.waiting fun s p => (s.refuse f p p 6).bump 0x2060 6 1
      let s := s.residueRecord f f.waiting
      s.forEach f.waiting fun s p => s.dropRef id p

/-! ### Poison (R78, R79) -/

/-- The bank that holds the `i`-th cell of a frame. -/
def cellBank (f : Frame) (i : Nat) : Nat := f.cells.getD i 2

/-- A frame found poisoned before any of it left: discarded, counted in 0x2060:05, event 0x0041 (R79). The cell's position in
its bank is a free value, since the spec gives no rule for it. DESIGN CHOICE, log entry 27. -/
def State.discardPoisoned (s : State) (id : Nat) : State :=
  match s.frame? id with
  | none => s
  | some f =>
    let p := f.poison.getD (0, 0)
    let (v, s) := s.draw
    let cell := v % 16384
    let s := s.bump 0x2060 5 1
    let s := s.event (cellBank f p.1) 0x41 (cell % 256) f.ingress (cell / 256 + 64 * p.2)
    s.eraseFrame id

/-- An uncorrectable error found in a frame's `i`-th cell: kind 0 cell, 1 link, 2 descriptor (R78, R79). -/
def State.markPoison (s : State) (id i kind : Nat) : State :=
  let s := s.bump 0x2060 7 1
  s.modFrame id fun f => { f with poison := match f.poison with | some p => some p | none => some (i, kind) }

end Sys2Proof.Machine
end

