-- ==== Sys2Proof/Machine/Route.lean ====
section
/-! DEFINITION. The route store (Chapter 4): candidate buckets, lookups, insertion with its search for a chain, shunt moves,
learning, ageing, bad entries, and the trial placement of a retirement (R61). -/

namespace Sys2Proof.Machine

/-- The route part of the state changed. -/
def State.withRoute (s : State) (f : RouteState → RouteState) : State := { s with route := f s.route }

/-! ### Entries (Table 4.1) -/

/-- The type, domain and key of an entry: bits [137:64]. -/
def entryKey (w : Nat) : Nat := fld w 137 64

/-- The type of an entry. -/
def entryType (w : Nat) : Nat := fld w 137 135

/-- The lookup key of a type, a domain and 65 key bits. -/
def mkKey (typ domain key : Nat) : Nat := typ * 2 ^ 71 + domain * 2 ^ 65 + key % 2 ^ 65

/-- Key bits of an Ethernet address and a VLAN ID (Table 4.2, types 0 and 4). -/
def macKey (mac vid : Nat) : Nat := mac * 2 ^ 17 + vid * 2 ^ 5

/-- An entry with its parity bits computed (R95). -/
def withParity (w : Nat) : Nat :=
  let b := w % 2 ^ 142
  b + popCount 72 b % 2 * 2 ^ 142 + popCount 70 (b / 2 ^ 72) % 2 * 2 ^ 143

/-- The slot's content, with its parity computed on the write. -/
def mkSlot (w : Nat) (owner : Option Nat) : RouteSlot := ⟨BitVec.ofNat 144 (withParity w), owner⟩

/-- Learning made the entry. -/
def RouteSlot.learned (r : RouteSlot) : Bool := r.owner.isSome

/-- The entry in a slot. -/
def RouteSlot.val (r : RouteSlot) : Nat := r.word.toNat

/-- Valid, Moving, Static and Fresh of an entry. -/
def entryValid (w : Nat) : Bool := tb w 141
/-- Moving. -/
def entryMoving (w : Nat) : Bool := tb w 140
/-- Static. -/
def entryStatic (w : Nat) : Bool := tb w 139
/-- Fresh. -/
def entryFresh (w : Nat) : Bool := tb w 138

/-- The result of an entry. -/
def entryResult (w : Nat) : Nat := w % 2 ^ 64

/-- The port field of a forwarding result. -/
def resultPort (r : Nat) : Nat := fld r 61 54

/-- The result of a signal descriptor (Table 7.2). -/
structure Signal where
  target : Nat
  src : List Nat
  dst : List Nat
  srcUpd : Option Nat
  dstUpd : Option Nat
  deriving DecidableEq, Repr

/-- The next, less significant bit of a big-endian field (R186). -/
def nextBig (p : Nat) : Nat := if p % 8 = 0 then p + 15 else p - 1

/-- The bits of a big-endian field, most significant first. -/
def bigBits : Nat → Nat → List Nat
  | 0, _ => []
  | n + 1, p => p :: bigBits n (nextBig p)

/-- The PDU bits of a field, least significant value bit first. -/
def sigBits (big : Bool) (start len : Nat) : List Nat :=
  if big then (bigBits len start).reverse else (List.range len).map fun i => start + i

/-- A descriptor read from its result. -/
def signalOf (r : Nat) : Signal :=
  let ss := fld r 25 16
  let ts := fld r 35 26
  let len := fld r 41 36 + 1
  { target := fld r 15 0, src := sigBits (tb r 42) ss len, dst := sigBits (tb r 43) ts len,
    srcUpd := if fld r 53 44 = ss then none else some (fld r 53 44),
    dstUpd := if fld r 63 54 = ts then none else some (fld r 63 54) }

/-- A descriptor whose field runs past PDU bit 1,023, or whose update bit lies inside its own field (R185). -/
def signalInvalid (d : Signal) : Bool :=
  (d.src ++ d.dst).any (fun p => 1023 < p) || d.srcUpd.any d.src.contains || d.dstUpd.any d.dst.contains

/-- An update names a type or a form that is never stored (status 7): types 5–7, reserved key bits, a domain for type 3, a port
that R7 refuses, reserved result bits, a consist-port reference to port 45 or 46 (R461). -/
def entryInvalid (w : Nat) : Bool :=
  let t := entryType w
  let r := entryResult w
  let key := fld w 128 64
  let kind := fld r 63 62
  decide (5 ≤ t)
  || (t == 0 && key % 2 ^ 5 != 0) || (t == 1 && key % 2 ^ 17 != 0) || (t == 2 && key % 2 ^ 25 != 0)
  || (t == 3 && (key % 2 ^ 39 != 0 || fld w 134 129 != 0)) || (t == 4 && key % 2 ^ 4 != 0)
  || (decide (t ≤ 2) && (r % 2 ^ 19 != 0 || ((kind == 0 || kind == 2) && !portOk (resultPort r))
      || (kind == 2 && (resultPort r == 45 || resultPort r == 46))))
  || (t == 4 && r / 2 ^ 10 != 0) || (t == 3 && signalInvalid (signalOf r))

/-! ### Candidate buckets (R92) -/

/-- The two candidate buckets of a key, as bank × 8,192 + bucket. The hash functions are the part's own, under its seed. -/
def State.buckets (s : State) (key : Nat) : Nat × Nat :=
  let h1 := Config.routeHash1 s.route.seed key
  let h2 := Config.routeHash2 s.route.seed key
  let b1 := h1 % 8
  let b2 := (b1 + 1 + h2 % 7) % 8
  (b1 * 8192 + h1 / 8 % 8192, b2 * 8192 + h2 / 7 % 8192)

/-- The bank of a bucket and of a slot. -/
def bucketBank (k : Nat) : Nat := k / 8192
/-- The bank of a slot. -/
def slotBank (k : Nat) : Nat := k / 32768

/-- A route bank is PRESENT: it answers lookups and takes entries (R94, R102). -/
def State.bankUp (s : State) (b : Nat) : Bool := s.present (11 + b)

/-- The slot's entry, 0 where it holds none. -/
def State.slotVal (s : State) (k : Nat) : Nat :=
  match mapGet s.route.slots k with
  | some r => r.val
  | none => 0

/-- The slots of a bucket, ways in order. -/
def waysOf (bucket : Nat) : List Nat := [bucket * 4, bucket * 4 + 1, bucket * 4 + 2, bucket * 4 + 3]

/-- A slot written. -/
def State.setSlot (s : State) (k : Nat) (r : RouteSlot) : State :=
  s.withRoute fun t => { t with slots := mapSet t.slots k r, bad := mapDel t.bad k }

/-- A slot cleared: Valid 0. -/
def State.clearSlot (s : State) (k : Nat) : State :=
  s.withRoute fun t => { t with slots := mapDel t.slots k, bad := mapDel t.bad k }

/-- The entries of a list of slots that the station pair holds in its shadow: those that learning did not make (R118). -/
def shadowed (l : List (Nat × RouteSlot)) : List EntryWord :=
  (l.filter fun p => entryValid p.2.val && !p.2.learned).map fun p => p.2.word

/-- A bank emptied (R56, R62); the entries of the shadow copy await re-insertion. -/
def State.emptyBank (s : State) (b : Nat) : State :=
  s.withRoute fun t => { t with slots := t.slots.filter fun p => slotBank p.1 != b,
                                bad := t.bad.filter fun p => slotBank p.1 != b,
                                lost := t.lost ++ shadowed (t.slots.filter fun p => slotBank p.1 == b) }

/-- A slot is Valid. -/
def State.slotValid (s : State) (k : Nat) : Bool := entryValid (s.slotVal k)

/-- The source slot of the shunt move that runs, whose copy already stands at its destination. -/
def State.movingSource (s : State) : Option Nat :=
  match s.route.chain with
  | some c => c.moves.head?.map Prod.fst
  | none => none

/-- The Valid entries, each once (R119): the source of a running move is the same entry as its copy. -/
def State.validSlots (s : State) : List (Nat × RouteSlot) :=
  s.route.slots.filter fun p => entryValid p.2.val && s.movingSource != some p.1

/-- Occupancy (0x5000:01). -/
def State.occupancy (s : State) : Nat := s.validSlots.length

/-- Slots in service (0x5000:02). -/
def State.slotsInService (s : State) : Nat := 32768 * ((List.range 8).filter s.bankUp).length

/-- The learned count of a port (R113). -/
def State.learnedCount (s : State) (port : Nat) : Nat :=
  (s.validSlots.filter fun p => p.2.owner == some port).length

/-! ### Reads and bad entries (R117) -/

/-- A read of one slot by a lookup, the scanner or the sequencer: a bad entry loses Valid, is counted and raises event 0x0050. -/
def State.readSlot (s : State) (k : Nat) : State :=
  match mapGet s.route.bad k with
  | none => s
  | some kind =>
    let w := s.slotVal k
    let s := s.withRoute fun t => { t with bad := mapDel t.bad k }
    if entryValid w then
      let bucket := k / 4 % 8192
      let s := s.withRoute fun t => { t with lost := t.lost ++ shadowed (t.slots.filter fun p => p.1 == k) }
      let s := (s.clearSlot k).bump 0x5000 5 1
      s.event (11 + slotBank k) 0x50 (bucket % 256) (bucket / 256 + k % 4 * 32 + kind % 2 * 128) (entryType w)
    else s

/-- A read of both candidate buckets, in the banks that answer. -/
def State.readBuckets (s : State) (key : Nat) : State :=
  let b := s.buckets key
  let one := fun (s : State) (k : Nat) =>
    if s.bankUp (bucketBank k) then s.forEach (waysOf k) State.readSlot
    else s.bump (0x2200 + 11 + bucketBank k) 5 1
  one (one s b.1) b.2

/-- The slots of the banks that answer which hold a Valid entry of the key. -/
def State.matches (s : State) (key : Nat) : List Nat :=
  let b := s.buckets key
  (waysOf b.1 ++ waysOf b.2).filter fun k =>
    s.bankUp (slotBank k) && s.slotValid k && entryKey (s.slotVal k) == key

/-- A lookup (R101, R102): the entry hit, with its Fresh bit as it stood, and the state with Fresh set on a hit that is not
static. -/
def State.lookup (s : State) (key : Nat) : Option RouteSlot × State :=
  let s := s.readBuckets key
  match s.matches key with
  | [] => (none, s)
  | k :: ks =>
    match mapGet s.route.slots k with
    | none => (none, s)
    | some r =>
      if entryStatic r.val then (some r, s)
      else (some r, s.forEach (k :: ks) fun s k =>
        s.setSlot k (mkSlot (setBit (s.slotVal k) 138 true) r.owner))

/-! ### Insertion (R105–R110) -/

/-- The first free way of a bucket in a PRESENT bank, below none that is kept out. -/
def State.freeWay (s : State) (out : List Nat) (bucket : Nat) : Option Nat :=
  if s.bankUp (bucketBank bucket) && !out.contains (bucketBank bucket) then
    (waysOf bucket).find? fun k => !s.slotValid k
  else none

/-- The other candidate bucket of the entry in a slot. -/
def State.otherBucket (s : State) (k : Nat) : Nat :=
  let b := s.buckets (entryKey (s.slotVal k))
  if b.1 = k / 4 then b.2 else b.1

/-- One bucket of the breadth-first search: its number and the moves that would bring a free slot to it, outermost first. -/
abbrev SearchNode := Nat × List (Nat × Nat)

/-- The ways of a bucket searched: a move that ends in a free slot, or the buckets to search next. -/
def State.expandBucket (s : State) (out : List Nat) (seen : List Nat) (node : SearchNode) :
    List Nat → List SearchNode → Option (List (Nat × Nat)) × List SearchNode
  | [], acc => (none, acc)
  | k :: ks, acc =>
    let o := s.otherBucket k
    match s.freeWay out o with
    | some d => (some ((k, d) :: node.2), acc)
    | none =>
      let fresh := s.bankUp (bucketBank o) && !out.contains (bucketBank o) && !seen.contains o
        && !(acc.any fun n => n.1 == o)
      s.expandBucket out seen node ks (if fresh then acc ++ [(o, (k, 0) :: node.2)] else acc)

/-- The breadth-first search for a chain of at most 8 moves, over at most `fuel` buckets; it changes nothing (R106). The
destination way of a move that is not the last is the slot the next move frees. -/
def State.searchChain (s : State) (out : List Nat) : Nat → List Nat → List SearchNode → Option (List (Nat × Nat))
  | 0, _, _ => none
  | _ + 1, _, [] => none
  | n + 1, seen, node :: rest =>
    if 8 ≤ node.2.length then s.searchChain out n seen rest
    else
      match s.expandBucket out seen node ((waysOf node.1).filter s.slotValid) [] with
      | (some path, _) => some path
      | (none, more) => s.searchChain out n (seen ++ more.map Prod.fst) (rest ++ more)

/-- The moves of a path behind a move that leaves slot `d`: each goes to the slot the one before it left. -/
def linkFrom (d : Nat) : List (Nat × Nat) → List (Nat × Nat)
  | [] => []
  | n :: r => (n.1, d) :: linkFrom n.1 r

/-- The moves of a path with their destinations filled in. The path stands from the free end back. -/
def linkMoves : List (Nat × Nat) → List (Nat × Nat)
  | [] => []
  | m :: r => m :: linkFrom m.1 r

/-- Where an insertion of a key can go: a free slot, a chain, or a status of failure (R94, R106). Banks of `out` offer no slots. -/
inductive Placement
  | slot (k : Nat)
  | chain (moves : List (Nat × Nat))
  | fail (status : Nat)
  deriving DecidableEq, Repr

/-- The search of R106, roots in the order bucket 1, bucket 2. -/
def State.place (s : State) (out : List Nat) (key : Nat) : Placement :=
  let b := s.buckets key
  let roots := [b.1, b.2].filter fun k => s.bankUp (bucketBank k) && !out.contains (bucketBank k)
  if roots = [] then .fail 6
  else
    match (s.freeWay out b.1).or (s.freeWay out b.2) with
    | some k => .slot k
    | none =>
      match s.searchChain out 512 roots (roots.map fun k => (k, [])) with
      | some path => .chain (linkMoves path)
      | none => if s.occupancy = s.slotsInService then .fail 5 else .fail 4

/-- The banks whose entries are being shunted out (R61): they take no new entry. -/
def State.retiring (s : State) : List Nat :=
  s.car.seqs.filterMap fun q => if q.act = .retire then some (q.carriage - 11) else none

/-- Table pressure after an insertion into a bank (R119). -/
def State.pressure (s : State) (bank : Nat) : State :=
  let n := s.slotsInService
  let o := s.occupancy
  if o < ceilDiv (85 * n) 100 then s.withRoute fun t => { t with pressured := false }
  else if ceilDiv (90 * n) 100 ≤ o && !s.route.pressured then
    let s := (s.bump 0x5000 6 1).event (11 + bank) 0x51 (n / 32768) 0 (o / 16 % 65536)
    s.withRoute fun t => { t with pressured := true }
  else s

/-- An insertion that fails with status 4, 5 or 6 (R110). -/
def State.insertFailed (s : State) (key status : Nat) : State :=
  let bank := bucketBank (s.buckets key).1
  let typ := key / 2 ^ 71
  let first := s.route.failThis == 0
  let s := (s.bump 0x5004 (1 + bank) 1).bump 0x5004 (9 + typ) 1
  let s := s.withRoute fun t => { t with failThis := t.failThis + 1 }
  if first then s.event (11 + bank) 0x52 typ status (min s.route.failPrev 65535) else s

/-- The entry stored by an insertion: Valid 1, Moving 0, Fresh 1 (R104). -/
def storedEntry (w : Nat) : Nat := setFld (setFld (w % 2 ^ 142) 141 140 2) 138 138 1

/-- The copy of a slot written into another with Moving set; the source stays until the wait of R107 is over. -/
def State.copyMoving (s : State) (src dst : Nat) : State :=
  match mapGet s.route.slots src with
  | some r => s.setSlot dst (mkSlot (setBit r.val 140 true) r.owner)
  | none => s

/-- The end of the sequencer's operation at 0x5010: Start reads 0, the status and the moves made (Table 4.5). -/
def State.entryDone (s : State) (status moves : Nat) : State := (s.wr 0x5010 7 0).wr 0x5010 8 (status + moves * 256)

/-- Insertion of an entry (R94, R105, R106): the state and the status; 1 while a chain runs. `owner` marks a learning
insertion, which never changes an entry that is present. -/
def State.insert (s : State) (w : Nat) (owner : Option Nat) (cmd : Bool) : State × Nat :=
  let key := entryKey w
  let s := s.readBuckets key
  match s.matches key with
  | k :: ks =>
    let w' := setFld (setFld (s.slotVal k) 63 0 (entryResult w)) 139 138 (bit w 139 * 2 + 1)
    (s.forEach (k :: ks) fun s k => s.setSlot k (mkSlot (setBit w' 140 (entryMoving (s.slotVal k))) owner), 3)
  | [] =>
    match s.place s.retiring key with
    | .fail st => (s.insertFailed key st, st)
    | .slot k => ((s.setSlot k (mkSlot (storedEntry w) owner)).pressure (slotBank k), 0)
    | .chain ms =>
      match ms with
      | [] => (s, 4)
      | m :: r =>
        let s := s.copyMoving m.1 m.2
        let slot := (ms.getLastD m).1
        (s.withRoute fun t => { t with chain := some ⟨m :: r, mkSlot (storedEntry w) owner, slot, [m.2], ms.length, cmd⟩ }, 1)

/-- Moving cleared on the copies of a chain. -/
def State.clearMoving (s : State) (copies : List Nat) : State :=
  s.forEach copies fun s k =>
    match mapGet s.route.slots k with
    | some r => s.setSlot k (mkSlot (setBit r.val 140 false) r.owner)
    | none => s

/-- One step of the running chain (R107): the wait of the head move is over; the next copy overwrites its source, or the new
entry is written and Moving is cleared. A hit meanwhile has set Fresh on both copies, so Fresh is carried over (R109). -/
def State.shuntStep (s : State) : State :=
  match s.route.chain with
  | none => s
  | some c =>
    match c.moves with
    | [] => s.withRoute fun t => { t with chain := none }
    | _ :: n :: r =>
      let s := (s.bump 0x5000 3 1).copyMoving n.1 n.2
      s.withRoute fun t => { t with chain := some { c with moves := n :: r, copies := n.2 :: c.copies } }
    | [_] =>
      let s := s.bump 0x5000 3 1
      let s := (s.setSlot c.slot c.entry).clearMoving c.copies
      let s := s.withRoute fun t => { t with chain := none }
      let s := s.pressure (slotBank c.slot)
      if c.cmd then s.entryDone 0 c.made else s

/-- Deletion of the entry that matches a key (R104): the status. -/
def State.deleteEntry (s : State) (key : Nat) : State × Nat :=
  let s := s.readBuckets key
  let s := s.withRoute fun t => { t with lost := t.lost.filter fun w => entryKey w.toNat != key }
  match s.matches key with
  | [] => (s, 2)
  | k :: ks => (s.forEach (k :: ks) State.clearSlot, 0)

/-- The station pair re-inserts the entries of its shadow copy, one after the other, while no chain runs (R118). -/
def State.reinsert (s : State) : Nat → State
  | 0 => s
  | n + 1 =>
    match s.route.lost with
    | [] => s
    | w :: r =>
      if s.route.chain.isSome || !s.present 43 || !(List.range 8).any s.bankUp then s
      else
        let s := s.withRoute fun t => { t with lost := r }
        if s.matches (entryKey w.toNat) = [] then (s.insert w.toNat none false).1.reinsert n else s.reinsert n

/-- The words of an entry in 0x5010 subs 01–05. -/
def State.showEntry (s : State) (w : Nat) : State :=
  ((((s.wr 0x5010 1 (fld w 31 0)).wr 0x5010 2 (fld w 63 32)).wr 0x5010 3 (fld w 95 64)).wr 0x5010 4 (fld w 127 96)).wr
    0x5010 5 (fld w 141 128)

/-- The entry that stands in 0x5010 subs 01–05. -/
def State.heldEntry (s : State) : Nat :=
  s.rd 0x5010 1 + s.rd 0x5010 2 * 2 ^ 32 + s.rd 0x5010 3 * 2 ^ 64 + s.rd 0x5010 4 * 2 ^ 96 + s.rdF 0x5010 5 13 0 * 2 ^ 128

/-- Start at 0x5010:07 (R104): the operation of sub 06 on the entry of subs 01–05. -/
def State.entryCommand (s : State) : State :=
  let op := s.rdF 0x5010 6 2 0
  let w := s.heldEntry
  if op = 0 then
    let s := s.readBuckets (entryKey w)
    match s.matches (entryKey w) with
    | k :: _ => (s.showEntry (s.slotVal k)).entryDone 0 0
    | [] => s.entryDone 2 0
  else if op = 1 then
    if entryInvalid w then s.entryDone 7 0
    else
      let (s, st) := s.insert w none true
      if st = 1 then (s.wr 0x5010 7 1).wr 0x5010 8 1 else s.entryDone st 0
  else if op = 2 then
    if 5 ≤ entryType w then s.entryDone 7 0
    else
      let (s, st) := s.deleteEntry (entryKey w)
      s.entryDone st 0
  else
    let k := s.rdF 0x5010 6 5 3 * 32768 + s.rdF 0x5010 6 18 6 * 4 + s.rdF 0x5010 6 20 19
    let s := if s.bankUp (slotBank k) then s.readSlot k else s
    (s.showEntry (s.slotVal k)).entryDone 0 0

/-! ### Learning (R111–R114) -/

/-- The limit of a learning port; ports 44–46 and the like channels never learn. -/
def State.learnLimit (s : State) (port : Nat) : Nat := if isEth port then s.rdF (0x3000 + 0x40 * port) 1 18 0 else 0

/-- One excess frame counted and logged (R114). -/
def State.excess (s : State) (port mac vid : Nat) : State :=
  let o := 0x3000 + 0x40 * port
  let s := s.bump o 3 1
  let held := s.rdF o 6 6 0
  let key := beBytes 6 mac ++ leBytes 2 vid
  let known := (List.range held).any fun i => s.winBytes o 5 (16 * i + 8) 8 == key
  if known || 64 ≤ held then s
  else
    let t := s.clockNow
    let s := (s.setWin o 5 (16 * held) (leBytes 4 t.2 ++ leBytes 4 (t.1 % 2 ^ 32) ++ key)).wr o 6 (held + 1)
    if held = 0 then s.event (ingressGroup port) 0x53 port 0 0 else s

/-- What lookup 2 of a frame from a learning port found: the unknown-source bit of R241, and whether the frame is excess and its
port drops such frames (reason 5). -/
structure Learned where
  unknown : Bool
  refuse : Bool
  deriving DecidableEq, Repr

/-- Lookup 2 of a frame from a learning port (R111, R113): `target` is what the entry would name, bits [63:51] of its result. -/
def State.learnAsk (s : State) (port domain mac vid target : Nat) : State × Learned :=
  let key := macKey mac vid
  let (hit, s) := s.lookup (mkKey 0 domain key)
  let ask := fun (s : State) =>
    let g := ingressGroup port
    if (s.route.learnQ.filter fun r => r.group == g).length < 512 then
      s.withRoute fun t => { t with learnQ := t.learnQ ++ [⟨g, port, domain, key, target⟩] }
    else s.bump 0x5000 4 1
  let full := decide (s.learnLimit port ≤ s.learnedCount port)
  let unknown : Bool := match hit with
    | none => true
    | some r => r.learned && fld (entryResult r.val) 63 51 != target
  let stale : Bool := match hit with
    | none => false
    | some r => r.learned && !entryFresh r.val
  if mac / 2 ^ 40 % 2 = 1 then (s, ⟨unknown, false⟩)
  else if unknown && full then (s.excess port mac vid, ⟨true, !s.rdB (0x3000 + 0x40 * port) 1 24⟩)
  else if unknown || stale then (ask s, ⟨unknown, false⟩)
  else (s, ⟨false, false⟩)

/-- The sequencer takes the oldest learning request of a group (R112, R113). -/
def State.takeLearn (s : State) (group : Nat) : State :=
  match s.route.learnQ.find? fun r => r.group == group with
  | none => s
  | some r =>
    let s := s.withRoute fun t => { t with learnQ := t.learnQ.erase r }
    let key := mkKey 0 r.domain r.key
    let mac := r.key / 2 ^ 17
    let vid := r.key / 2 ^ 5 % 4096
    let full := decide (s.learnLimit r.port ≤ s.learnedCount r.port)
    let s := s.readBuckets key
    match s.matches key with
    | [] =>
      if full then s.excess r.port mac vid
      else (s.insert (key * 2 ^ 64 + r.target * 2 ^ 51) (some r.port) false).1
    | ks =>
      s.forEach ks fun s k =>
        match mapGet s.route.slots k with
        | none => s
        | some e =>
          if entryStatic e.val then s
          else if fld (entryResult e.val) 63 51 = r.target then
            s.setSlot k (mkSlot (setBit e.val 138 true) e.owner)
          else if !e.learned then s
          else if full then s.excess r.port mac vid
          else
            (s.setSlot k (mkSlot (setBit (setFld e.val 63 51 r.target) 138 true) (some r.port))).bump
              (0x3000 + 0x40 * r.port) 4 1

/-! ### Ageing (R115) -/

/-- The scanner visits a slot for a type: Fresh is cleared, or the entry is removed. A source of a running move is left to the
chain. -/
def State.scanVisit (s : State) (k typ : Nat) : State :=
  if s.rd 0x5002 (1 + typ) = 0 ∨ !s.bankUp (slotBank k) then s
  else
    let s := s.readSlot k
    match mapGet s.route.slots k with
    | none => s
    | some r =>
      if !entryValid r.val || entryStatic r.val || entryMoving r.val || entryType r.val != typ || s.movingSource == some k then s
      else if entryFresh r.val then s.setSlot k (mkSlot (setBit r.val 138 false) r.owner)
      else s.clearSlot k

/-! ### Retirement (R61) -/

/-- The entries of a bank. -/
def State.bankEntries (s : State) (b : Nat) : List (Nat × RouteSlot) :=
  s.route.slots.filter fun p => slotBank p.1 == b && entryValid p.2.val

/-- All moves of a path made at once, from its free end back. -/
def State.moveAll (s : State) (ms : List (Nat × Nat)) : State :=
  s.forEach ms fun s m =>
    match mapGet s.route.slots m.1 with
    | some r => (s.setSlot m.2 r).clearSlot m.1
    | none => s

/-- Every listed entry of bank `b` placed outside it (R61): the state after all moves, the number of moves, and the number of
entries that find no place. The trial uses the last number only; the shunt uses the state. -/
def State.shuntOut (s : State) (b : Nat) : List (Nat × RouteSlot) → Nat → Nat → State × Nat × Nat
  | [], n, bad => (s, n, bad)
  | (k, r) :: rest, n, bad =>
    match s.place [b] (entryKey r.val) with
    | .fail _ => s.shuntOut b rest n (bad + 1)
    | .slot d => (s.moveAll [(k, d)]).shuntOut b rest (n + 1) bad
    | .chain ms =>
      let s := s.moveAll ms
      match ms.getLast? with
      | some m => (s.moveAll [(k, m.1)]).shuntOut b rest (n + 1 + ms.length) bad
      | none => s.shuntOut b rest n (bad + 1)

/-- The running chain carried to its end before the shunt of a retiring bank begins. -/
def State.endChain (s : State) : Nat → State
  | 0 => s
  | n + 1 => if s.route.chain.isSome then s.shuntStep.endChain n else s

end Sys2Proof.Machine
end

