-- ==== Sys2Proof/Machine/Firewall.lean ====
section
/-! DEFINITION. The firewall (Chapter 9): the lookup key (R239–R242), rules and their check (R243–R245), the deciding rule
(R247, R254), counters and intrusion events (R249, R250), the two halves (R251–R253). The rule set of half `h` stands in the
windows 0x10000 + 4h (rules), 0x10001 + 4h (range checkers), 0x10002 + 4h (defaults). -/

namespace Sys2Proof.Machine

/-- The firewall part of the state changed. -/
def State.withFw (s : State) (f : FwState → FwState) : State := { s with fw := f s.fw }

/-- The windows of a half. -/
def ruleWin (h : Nat) : Nat := 0x10000 + 4 * h
/-- Range checkers of a half. -/
def rangeWin (h : Nat) : Nat := 0x10001 + 4 * h
/-- Port defaults of a half. -/
def defaultWin (h : Nat) : Nat := 0x10002 + 4 * h

/-- The active half (0x5800:01 [0]). -/
def State.activeHalf (s : State) : Nat := s.rdF 0x5800 1 0 0

/-- The shadow half. -/
def State.shadowHalf (s : State) : Nat := 1 - s.activeHalf

/-! ### The key (Tables 9.1 and 9.2) -/

/-- The range bits of an identifier in a half: bit r for checker r (R242). -/
def State.rangeBits (s : State) (h id : Nat) : Nat :=
  (List.range 64).foldl (fun a r =>
    if s.winLe (rangeWin h) 0 (8 * r) 4 ≤ id && id ≤ s.winLe (rangeWin h) 0 (8 * r + 4) 4 then a + 2 ^ r else a) 0

/-- Bits [575:0] of an Ethernet frame. -/
def ethKey (v : EthView) : Nat :=
  v.dst * 2 ^ 528 + v.src * 2 ^ 480 + v.vid * 2 ^ 468 + v.pcp * 2 ^ 465 + v.dei * 2 ^ 464 + v.etype * 2 ^ 448
    + v.v4.toNat * 2 ^ 447 + v.v6.toNat * 2 ^ 446 + v.frag.toNat * 2 ^ 445 + v.proto * 2 ^ 437 + v.dscp * 2 ^ 431
    + v.sip * 2 ^ 303 + v.dip * 2 ^ 175 + v.sport * 2 ^ 159 + v.dport * 2 ^ 143

/-- Bits [575:0] of a CAN frame; `range` are its range bits. -/
def canKey (c : CanView) (range : Nat) : Nat :=
  c.id * 2 ^ 547 + c.ide.toNat * 2 ^ 546 + c.fdf.toNat * 2 ^ 545 + c.xlf.toNat * 2 ^ 544 + c.rtr.toNat * 2 ^ 543
    + c.sec.toNat * 2 ^ 542 + c.brs.toNat * 2 ^ 541 + c.sdt * 2 ^ 533 + c.vcid * 2 ^ 525 + c.len % 4096 * 2 ^ 513
    + c.af * 2 ^ 481 + range * 2 ^ 417

/-- Bits [575:0] of a LIN frame. -/
def linKey (bs : List Byte) (range : Nat) : Nat := byteAt bs 0 % 64 * 2 ^ 547 + byteAt bs 2 * 2 ^ 513 + range * 2 ^ 417

/-- Bits [575:0] of a PDU in stored form (R184): its identifier and data length. -/
def pduKey (bs : List Byte) : Nat := beAt bs 0 4 * 2 ^ 544 + beAt bs 4 2 % 4096 * 2 ^ 532

/-- The stranger bit of a frame (Meta bit [9]). -/
def strangerBit (f : Frame) : Bool := tb (f.metaWord.getD 0) 9 && isEth f.ingress

/-- The 640-bit key of a frame in half `h` (R239). `unknown` is the unknown-source bit of R241. -/
def State.fwKey (s : State) (h : Nat) (f : Frame) (unknown : Bool) : Nat :=
  let m := f.metaWord.getD 0xFF
  let node := m % 256
  let eth := isEth f.ingress
  let nodeOk := eth && decide (node < 32)
  let spec :=
    match f.kind with
    | 0 => ethKey (parseEth f.bytes)
    | 1 => canKey (parseCan f.bytes) (s.rangeBits h (parseCan f.bytes).id)
    | 2 => linKey f.bytes (s.rangeBits h (byteAt f.bytes 0 % 64))
    | _ => pduKey f.bytes
  f.kind * 2 ^ 637 + f.ingress * 2 ^ 629 + f.domain * 2 ^ 623 + (strangerBit f).toNat * 2 ^ 622 + unknown.toNat * 2 ^ 621
    + f.cls * 2 ^ 618 + (eth && tb m 8).toNat * 2 ^ 617 + nodeOk.toNat * 2 ^ 616 + (if nodeOk then node else 0) * 2 ^ 611 + spec

/-! ### Rules (R243–R245) -/

/-- The bits of a field [hi:lo]. -/
def fieldBits (hi lo : Nat) : Nat := (2 ^ (hi + 1 - lo) - 1) * 2 ^ lo

/-- The kind-specific bits to which Table 9.2 gives a field, for a kind. -/
def kindBits (k : Nat) : Nat :=
  if k = 0 then fieldBits 575 143
  else if k = 1 then fieldBits 575 417
  else if k = 2 then fieldBits 575 547 + fieldBits 524 513 + fieldBits 480 417
  else if k = 3 then fieldBits 575 532
  else 0

/-- The key bits a rule may compare: never [610:576]; by the kind its mask names in full, else all but [142:0] (R245). -/
def ruleBits (value mask : Nat) : Nat :=
  fieldBits 639 611 + (if fld mask 639 637 = 7 then kindBits (fld value 639 637) else fieldBits 575 143)

/-- Value, mask and action of a rule record of 176 bytes. -/
def recValue (r : List Byte) : Nat := leVal (r.take 80)
/-- Mask of a record. -/
def recMask (r : List Byte) : Nat := leVal ((r.drop 80).take 80)
/-- Action word of a record. -/
def recAction (r : List Byte) : Nat := leVal ((r.drop 160).take 8)

/-- The check of a rule record (R245): abort code 0, or 0x0300_0002 in each of its cases, which are refused whole under R12. -/
def ruleCheck (r : List Byte) : Nat :=
  let v := recValue r
  let m := recMask r
  let a := recAction r
  let allowed := ruleBits v m
  let mp := fld a 23 16
  let kindFull := fld m 639 637 == 7
  if 3 ≤ fld a 2 0 ∨ fld a 62 42 ≠ 0 ∨ leVal (r.drop 168) ≠ 0 then 0x03000002
  else if Nat.land (Nat.lor v m) (2 ^ 640 - 1 - allowed) ≠ 0 then 0x03000002
  else if mp = 45 ∨ !portOk mp then 0x03000002
  else if Nat.land v (2 ^ 640 - 1 - m) ≠ 0 then 0x03000002
  else if tb a 24 ∧ (fld a 2 0 = 0 ∨ !(kindFull && (fld v 639 637 == 1 || fld v 639 637 == 3))) then 0x03000002
  else 0

/-- The rules of a half that are Valid, ascending: the numbers whose byte 167 is listed with bit 7, and the commissioning
rules. -/
def State.validRules (s : State) (h : Nat) : List Nat :=
  let base := winKey (ruleWin h) 0 0
  let listed := (s.wins.filterMap fun c =>
    if base ≤ c.1 && c.1 < base + 2 ^ 24 && (c.1 - base) % 176 == 167 then some ((c.1 - base) / 176) else none)
  let cand := [0, 1, 2] ++ listed.filter fun n => 3 ≤ n
  cand.filter fun n => s.winB (ruleWin h) 0 (176 * n + 167) / 128 == 1

/-- The bytes of a rule of a half. -/
def State.ruleRec (s : State) (h n : Nat) : List Byte := s.winBytes (ruleWin h) 0 (176 * n) 176

/-- A rule matches a key (R243). -/
def State.ruleMatches (s : State) (h key n : Nat) : Bool :=
  let r := s.ruleRec h n
  Nat.land key (recMask r) == Nat.land (recValue r) (recMask r)

/-- The key of a rule of a half in the lists of bad words. -/
def ruleKey (h n : Nat) : Nat := h * 16384 + n

/-- The reads of R254 over the rules listed: a word with an uncorrectable error marks its rule bad, unless the action word reads
Valid 0 without error. -/
def State.readRules (s : State) (h : Nat) : State :=
  let mine := s.fw.latent.filter fun p => p.1 / 16384 == h
  let found := mine.filter fun p => p.2 || s.winB (ruleWin h) 0 (176 * (p.1 % 16384) + 167) / 128 == 1
  s.forEach found fun s p =>
    let s := s.withFw fun f => { f with latent := f.latent.filter fun q => q.1 != p.1 }
    if s.fw.bad.contains p.1 then s
    else
      let s := s.withFw fun f => { f with bad := p.1 :: f.bad }
      (s.bump 0x5800 6 1).event (19 + h) 0xA2 0 0 (p.1 % 16384)

/-- What decides a frame. -/
inductive Verdict
  | rule (n : Nat)
  | bad (n : Nat)
  | default (d : Nat)
  deriving DecidableEq, Repr

/-- The least of a list of numbers. -/
def leastOf : List Nat → Option Nat
  | [] => none
  | n :: r => some (r.foldl min n)

/-- The deciding rule of a key in half `h` (R243, R247, R254): a bad rule matches every key. -/
def State.verdict (s : State) (h key ingress : Nat) : Verdict :=
  let bad := leastOf ((s.fw.bad.filter fun p => p / 16384 == h).map fun p => p % 16384)
  let good := (s.validRules h).find? fun n => !s.fw.bad.contains (ruleKey h n) && s.ruleMatches h key n
  match good, bad with
  | some g, some b => if g < b then .rule g else .bad b
  | some g, none => .rule g
  | none, some b => .bad b
  | none, none => .default (s.winB (defaultWin h) 0 (4 * ingress) % 4)

/-- Whether the firewall looks a frame up: released from ports 0–44 and 64–159, or decapsulated at 45 (R238). -/
def fwLooksUp (f : Frame) : Bool := f.ingress != 46 && !f.built && !f.notice

/-! ### Counters and events (R249, R250) -/

/-- A port counter of 0x5808 raised. -/
def State.fwCount (s : State) (port k : Nat) : State := s.bumpWin 0x5808 0 (64 * port + 8 * k) 8 1

/-- An intrusion event under its cap (R250). -/
def State.intrusion (s : State) (f : Frame) (unknown : Bool) (rule : Nat) : State :=
  if s.fw.raised < s.rdF 0x5801 1 9 0 then
    (s.event (ingressGroup f.ingress) 0xA0 f.ingress ((strangerBit f).toNat + 2 * unknown.toNat) rule).withFw fun w =>
      { w with raised := w.raised + 1 }
  else s.bump 0x5801 2 1

/-- The mark among a frame's destinations that it is held for its authenticator. -/
def heldMark : Nat := 255

/-- A held frame whose authenticator fails, or ends without a check: refused with reason 3 and counted (R248). Its mirror copy
stays. -/
def State.refuseHeld (s : State) (id : Nat) : State :=
  match s.fw.held.find? fun h => h.frame == id with
  | none => s
  | some _ =>
    let s := s.withFw fun f => { f with held := f.held.filter fun x => x.frame != id }
    match s.frame? id with
    | none => s
    | some f => ((((s.refuse f f.ingress 0xFF 3).fwCount f.ingress 6).probeDrop id).dropRef id heldMark)

/-! ### Halves (R251–R253, R255) -/

/-- The content of one half replaced by the other's, marks included. -/
def State.copyHalf (s : State) (src dst : Nat) : State :=
  let lo := winKey (ruleWin src) 0 0
  let hi := winKey (ruleWin src + 3) 0 0
  let dlo := winKey (ruleWin dst) 0 0
  let dhi := winKey (ruleWin dst + 3) 0 0
  let moved := (s.wins.filter fun c => lo ≤ c.1 && c.1 < hi).map fun c => (c.1 - lo + dlo, c.2)
  let kept := s.wins.filter fun c => !(dlo ≤ c.1 && c.1 < dhi)
  let wins := moved.foldl (fun m c => mapPut (byteDefault c.1) m c.1 c.2) kept
  let marks := (s.fw.bad.filter fun p => p / 16384 == src).map fun p => ruleKey dst (p % 16384)
  let s := { s with wins := wins }
  s.withFw fun f => { f with bad := (f.bad.filter fun p => p / 16384 != dst) ++ marks,
                             latent := f.latent.filter fun p => p.1 / 16384 != dst }

/-- A half emptied to what nothing has written: the commissioning set (R255). -/
def State.clearHalf (s : State) (h : Nat) : State :=
  (s.dropWins (winKey (ruleWin h) 0 0) (winKey (ruleWin h + 3) 0 0)).withFw fun f =>
    { f with bad := f.bad.filter fun p => p / 16384 != h, latent := f.latent.filter fun p => p.1 / 16384 != h }

/-- Start of a copy to shadow (R252). -/
def State.fwCopyStart (s : State) : State := (s.wr 0x5800 3 1).withFw fun f => { f with copying := true }

/-- The copy's end: the shadow is the active set, dirty is cleared. -/
def State.fwCopyDone (s : State) : State :=
  if s.fw.copying then
    (((s.copyHalf s.activeHalf s.shadowHalf).wr 0x5800 3 0).wr 0x5800 4 0).withFw fun f => { f with copying := false }
  else s

/-- The swap (R253): the halves change places, the generation rises, dirty is cleared, event 0x00A1. -/
def State.fwSwap (s : State) : State :=
  let g := (s.rdF 0x5800 1 31 8 + 1) % 2 ^ 24
  let h := s.shadowHalf
  ((s.wr 0x5800 1 (h + g * 256)).wr 0x5800 4 0).event (19 + h) 0xA1 h 0 (g % 65536)

/-- The window of half `h` that stands behind a rule-set window of Table 9.9. -/
def fwWindow (h idx : Nat) : Nat := 0x10000 + 4 * h + idx % 4

/-- Bytes written to the shadow through 0x5810–0x5812 (R251): the shadow becomes dirty, and the mark of a rule written is
lifted (R254). -/
def State.shadowWrite (s : State) (idx off : Nat) (bs : List Byte) : State :=
  let h := s.shadowHalf
  let s := (s.setWin (fwWindow h idx) 0 off bs).wr 0x5800 4 1
  if idx % 4 = 0 then
    let k := ruleKey h (off / 176)
    s.withFw fun f => { f with bad := f.bad.erase k, latent := f.latent.filter fun p => p.1 != k }
  else s

/-- Valid rules in the active set (0x5800:05). -/
def State.rulesValid (s : State) : Nat := (s.validRules s.activeHalf).length

end Sys2Proof.Machine
end

