-- ==== Sys2Proof/Machine/Traffic.lean ====
section
/-! DEFINITION. Traffic management (Chapter 8): queues and entry (R205–R209, R232–R234), readiness and waiting copies
(R84–R86), gates and guard bands (R216–R218), credits (R214), selection (R210–R213), meters (R224), stream filters (R223),
sequence recovery and generation (R226, R227), observation (R228). -/

namespace Sys2Proof.Machine

/-! ### Per-port parts -/

/-- A port's traffic manager. -/
def State.ptm (s : State) (p : Nat) : PortTm := mapGetD s.tm.ports p .idle

/-- A port's traffic manager changed. -/
def State.modPtm (s : State) (p : Nat) (f : PortTm → PortTm) : State :=
  s.withTm fun t => { t with ports := mapPut .idle t.ports p (f (mapGetD t.ports p .idle)) }

/-- The moving parts of an Ethernet port. -/
def State.pdyn (s : State) (p : Nat) : PortDyn := mapGetD s.eth.ports p .idle

/-- The moving parts of an Ethernet port changed. -/
def State.modPdyn (s : State) (p : Nat) (f : PortDyn → PortDyn) : State :=
  { s with eth := { s.eth with ports := mapPut .idle s.eth.ports p (f (mapGetD s.eth.ports p .idle)) } }

/-- The object of a port at an offset of Table 8.1. -/
def tmObj (p off : Nat) : Nat := 0x6000 + 0x10 * p + off

/-- A port's objects of Chapter 5. -/
def ethObj (p off : Nat) : Nat := 0x3000 + 0x40 * p + off

/-- A port counter of Table 5.8 raised by `n` (ports 0–43). -/
def State.portCount (s : State) (p sub n : Nat) : State := if isEth p then s.bump64 (ethObj p 0x10) sub n else s

/-- The link of a port is up (0x3001:02 [0]); a port that is no Ethernet port has no link to lose. -/
def State.linkUp (s : State) (p : Nat) : Bool := !isEth p || s.rdB (ethObj p 1) 2 0

/-- Rates of 0x3001:02 [3:1] in kbit/s. -/
def rateKbps (code : Nat) : Nat :=
  match code with
  | 1 => 25000000 | 2 => 10000000 | 3 => 5000000 | 4 => 2500000 | 5 => 1000000 | 6 => 100000 | 7 => 10000 | _ => 0

/-- The rate code of a port's mode (Table 5.2). -/
def modeRate (p mode : Nat) : Nat :=
  if p ≤ 11 then (if mode ≤ 4 then mode else 0)
  else if p ≤ 27 then (if mode = 1 ∨ mode = 2 then 5 else if mode = 3 then 6 else 0)
  else if p ≤ 43 then (if mode = 1 ∨ mode = 2 then 7 else 0)
  else 0

/-- The nominal rate of a port's mode in kbit/s; in mode 0 the fastest its kind supports (R215). -/
def nominalKbps (p mode : Nat) : Nat :=
  let r := rateKbps (modeRate p mode)
  if r ≠ 0 then r else if p ≤ 11 then 25000000 else if p ≤ 27 then 1000000 else 10000

/-- The mode in force at a port: the mode being left while the frame in transmission at a mode write completes (R122). -/
def State.modeNow (s : State) (p : Nat) : Nat := (s.pdyn p).oldMode.getD (s.rdF (ethObj p 1) 1 3 0)

/-- The rate of a port in kbit/s. -/
def State.portKbps (s : State) (p : Nat) : Nat := nominalKbps p (s.modeNow p)

/-- Egress MACsec is on at a port (Table 10.4). -/
def State.macsecTx (s : State) (p : Nat) : Bool := decide (p ≤ 27) && s.winB 0x8110 0 (24 * p) % 2 == 1

/-- Receive MACsec is on at a port. -/
def State.macsecRx (s : State) (p : Nat) : Bool := decide (p ≤ 27) && s.winB 0x8110 0 (24 * p) / 2 % 2 == 1

/-- A B port in drawbar mode. -/
def State.drawbar (s : State) (p : Nat) : Bool := decide (p ≤ 11) && s.rdB (ethObj p 1) 1 7

/-- The effective overhead of a port in bytes (R207). -/
def State.overhead (s : State) (p : Nat) : Nat :=
  s.rdF (tmObj p 0) 1 13 8 + (if s.macsecTx p then 32 else 0) + (if s.drawbar p then 32 else 0)

/-- The maximum length of an Ethernet port (R125). -/
def State.portMax (s : State) (p : Nat) : Nat := s.rdF (ethObj p 2) 1 13 0

/-- The class maximum in bytes (Table 8.7): 0 means the port maximum. -/
def State.classMax (s : State) (p c : Nat) : Nat :=
  let m := if p ≤ 27 then s.rdF (tmObj p 4) (0x0A + c) 13 0 else 0
  if m = 0 then s.portMax p else m

/-- The kind of a class in force at a port: 0 best effort, 1 shaped, 2 scheduled (R206). -/
def State.classKind (s : State) (p c : Nat) : Nat :=
  if p ≤ 27 then fld (s.ptm p).kindsInForce (2 * c + 1) (2 * c) else 0

/-- A B port in wide mode. -/
def State.wide (s : State) (p : Nat) : Bool := decide (p ≤ 11) && s.rdB (tmObj p 0) 1 0

/-- The queue of a frame at a port (R205). -/
def State.queueNo (s : State) (p : Nat) (f : Frame) : Nat :=
  if s.wide p then
    let sel := s.rdF (tmObj p 0) 1 2 1
    let sub := if sel = 0 then f.ingress % 8 else if sel = 1 then f.stream.getD 0 % 8
      else if f.kind = 0 then (parseEth f.bytes).vid % 8 else 0
    8 * f.cls + sub
  else f.cls

/-- The class of a queue. -/
def State.queueClass (s : State) (p q : Nat) : Nat := if s.wide p then q / 8 else q

/-- A queue's items, head first. -/
def PortTm.q (t : PortTm) (n : Nat) : List QItem := mapGetD t.queues n []

/-- A queue replaced. -/
def PortTm.setQ (t : PortTm) (n : Nat) (l : List QItem) : PortTm := { t with queues := mapPut [] t.queues n l }

/-- The cells of a queue's frames that have been written (R209). -/
def State.depth (s : State) (p n : Nat) : Nat :=
  ((s.ptm p).q n).foldl (fun a i => a + ((s.frame? i.frame).map fun f => f.cells.length).getD 0) 0

/-- A queue's limit and admission depth (Table 8.3). -/
def State.queueLimit (s : State) (p n : Nat) : Nat := s.winLe (tmObj p 1) 1 (8 * n) 4 % 2 ^ 18

/-- Admission depth. -/
def State.admissionDepth (s : State) (p n : Nat) : Nat := s.winLe (tmObj p 1) 1 (8 * n + 4) 4 % 2 ^ 18

/-- The queue of a frame's class is below its limit; a shaped class has none (R84, R209). -/
def State.belowLimit (s : State) (p : Nat) (f : Frame) : Bool :=
  let n := s.queueNo p f
  s.classKind p f.cls == 1 || decide (s.depth p n < s.queueLimit p n)

/-- An egress port is ready for a copy (R84). -/
def State.ready (s : State) (p : Nat) (f : Frame) : Bool :=
  s.linkUp p && s.present (portCarriage p) && s.present (egressGroup p) && s.belowLimit p f

/-- The effective length of a frame in bytes; of a frame that is not whole, the bytes so far. -/
def State.effLength (s : State) (p : Nat) (f : Frame) : Nat := f.bytes.length + s.overhead p

/-! ### Records by content -/

/-- The numbers of the records of a window whose byte `b` is listed, ascending. -/
def State.listedRecs (s : State) (idx sub size b : Nat) : List Nat :=
  let base := winKey idx sub 0
  s.wins.filterMap fun c =>
    if base ≤ c.1 && c.1 < base + 2 ^ 24 && (c.1 - base) % size == b then some ((c.1 - base) / size) else none

/-- The 32-bit Data ID of a frame (R271): identifier word of Table 6.5, or the PDU identifier. -/
def dataId (f : Frame) : Nat := beAt f.bytes 0 4

/-- The generating authenticator record that applies to a frame at an egress port (R273). -/
def State.genRecord (s : State) (p : Nat) (f : Frame) : Option Nat :=
  let portOk := (isC p && f.kind == 1 && s.rdF (0x4000 + 0x20 * (p - 64)) 1 2 0 != 3) || ((p == 44 || p == 46) && f.kind == 3)
  if !portOk then none
  else (s.listedRecs 0x8130 0 32 0).find? fun n =>
    s.winB 0x8130 0 (32 * n) == 2 && s.winB 0x8130 0 (32 * n + 1) % 2 == 1 && s.winB 0x8130 0 (32 * n + 24) == p
      && s.winLe 0x8130 0 (32 * n + 28) 4 == dataId f

/-- The CANsec entry of a C channel (R270). -/
def State.cansec (s : State) (p : Nat) : Nat := if isC p then s.winLe 0x8120 0 (4 * (p - 64)) 4 else 0

/-- A copy must be protected by a cipher cluster before it is sent (R267, R270, R273). MKA frames of port 46 pass plain. -/
def State.needsProtection (s : State) (p : Nat) (f : Frame) : Bool :=
  (s.macsecTx p && (f.kind == 0 || s.drawbar p) && !(f.ingress == 46 && f.kind == 0 && f.draw.isNone && (parseEth f.bytes).etype == 0x888E))
  || (tb (s.cansec p) 1 && f.kind == 1)
  || (s.genRecord p f).isSome

/-! ### Entry (R209, R232) -/

/-- Serial arithmetic of R212: `a` is earlier than `b`. -/
def earlier (a b : Nat) : Bool :=
  let d := (b + 2 ^ 32 - a) % 2 ^ 32
  decide (1 ≤ d) && decide (d < 2 ^ 31)

/-- The finish tag of a best-effort class whose frame of effective length `l` reaches the head (R212). -/
def PortTm.tagHead (t : PortTm) (c l weight : Nat) : PortTm :=
  let f := mapGetD t.finish c 0
  let base := if earlier t.virtual f then f else t.virtual
  { t with finish := mapPut 0 t.finish c ((base + ceilDiv (l * 256) weight) % 2 ^ 32) }

/-- The weight of a class (Table 8.2). -/
def State.weight (s : State) (p c : Nat) : Nat :=
  let w := if c < 4 then s.rdF (tmObj p 0) 3 (8 * c + 7) (8 * c) else s.rdF (tmObj p 0) 4 (8 * (c - 4) + 7) (8 * (c - 4))
  if w = 0 then 1 else w

/-- The head of queue `n` tagged, where weighted fair queueing serves it. -/
def State.tagQueue (s : State) (p n : Nat) : State :=
  if s.wide p then s
  else
    match (s.ptm p).q n with
    | [] => s
    | i :: _ =>
      match s.frame? i.frame with
      | none => s
      | some f => s.modPtm p fun t => t.tagHead n (s.effLength p f) (s.weight p n)

/-- V and every F restart when no best-effort queue of the port holds a frame (R212). -/
def State.restartTags (s : State) (p : Nat) : State :=
  let t := s.ptm p
  if t.queues.any fun q => s.classKind p (s.queueClass p q.1) == 0 then s
  else s.modPtm p fun t => { t with virtual := 0, finish := [] }

/-- A copy put at the tail of its queue. -/
def State.pushTail (s : State) (p id : Nat) : State :=
  match s.frame? id with
  | none => s
  | some f =>
    let n := s.queueNo p f
    let empty := ((s.ptm p).q n).isEmpty
    let item : QItem := ⟨id, s.now, if s.needsProtection p f then 1 else 0, none⟩
    let s := s.modPtm p fun t => t.setQ n (t.q n ++ [item])
    let s := if p = 45 then s else s.probeStep id 0x16
    if empty then s.tagQueue p n else s

/-- A copy refused at an egress port: counted, and dropped. -/
def State.refuseCopy (s : State) (p id reason : Nat) : State :=
  match s.frame? id with
  | none => s
  | some f =>
    let s := s.refuse f p p reason
    let s := if s.probe.frame = some id ∧ f.refs.length ≤ 1 then s.probeDrop id else s
    s.dropRef id p

/-- A frame for the host is longer than its ring's buffers (R419); an Ethernet frame crosses H without its FCS. -/
def State.ringTooSmall (s : State) (p : Nat) (f : Frame) : Bool :=
  p == 44 && f.whole && !s.rdB 0x20A0 3 2 && tb s.host.enabled (8 + f.cls)
    && decide (s.winLe 0x20A2 0 (32 * (8 + f.cls) + 14) 2 < f.bytes.length - (if f.kind = 0 then 4 else 0))

/-- The checks at entry into an egress queue, in the order of R232: age (1), class maximum (4), admission (7), queue limit
(0); then the copy enters. `limit` is false for the copy of a frame with several destinations, whose port is ready. -/
def State.enterPlain (s : State) (p id : Nat) (limit : Bool) : State :=
  match s.frame? id with
  | none => s
  | some f =>
    let n := s.queueNo p f
    if s.expired f then s.refuseCopy p id 1
    else if p ≤ 27 ∧ f.whole ∧ s.classMax p f.cls < f.bytes.length then (s.portCount p 0x22 1).refuseCopy p id 4
    else if s.ringTooSmall p f then s.refuseCopy p id 4
    else if s.rdB 0x6A00 2 0 ∧ s.classKind p f.cls = 0 ∧ s.admissionDepth p n ≤ s.depth p n then s.refuseCopy p id 7
    else if limit ∧ !s.belowLimit p f then s.refuseCopy p id 0
    else s.pushTail p id

/-! ### Dictionary transfers and busy answers (R234, R445) -/

/-- A C channel is enabled for SDO in 0x1100. -/
def State.sdoEnabled (s : State) (p : Nat) : Bool :=
  isC p && (let c := p - 64; s.rdB 0x1100 (2 + c / 32) (c % 32))

/-- A frame bound for port 46 that is a dictionary transfer by SDO (R445). -/
def State.isSdoRequest (s : State) (f : Frame) : Bool :=
  f.kind == 1 && s.sdoEnabled f.ingress &&
    (let c := parseCan f.bytes; !c.ide && !c.fdf && !c.xlf && c.id == 0x600 + s.rdF 0x1100 1 6 0)

/-- A frame bound for port 46 that is a dictionary transfer by Dalmoly (R445). -/
def State.isDalmoly (s : State) (f : Frame) : Bool :=
  f.kind == 0 && (let v := parseEth f.bytes; (v.v4 || v.v6) && v.proto == 17 && !v.frag && v.dport == s.rdF 0x1110 1 15 0)

/-- An SDO response frame (R435): identifier 0x580 + node ID, classical, 8 data bytes. -/
def State.sdoFrame (s : State) (data : List Byte) : List Byte :=
  canBytes { ide := false, rtr := false, id := 0x580 + s.rdF 0x1100 1 6 0, fdf := false, xlf := false, brs := false, esi := false,
             sec := false, sdt := 0, len := 8, vcid := 0, dlc := 8, af := 0 } (sliceZ data 0 8)

/-- The Dalmoly header of Table 17.8. -/
def dalmolyHeader (typ sess seq len flags : Nat) : List Byte :=
  beBytes 1 1 ++ beBytes 1 typ ++ beBytes 2 sess ++ beBytes 4 seq ++ beBytes 2 len ++ beBytes 1 flags ++ fill 1 0

/-- A frame built inside the part and sent on one port: a whole frame of ingress 46, which enters the queue with every check but
the rule of R234. Nothing is sent where no cell is free (R74): the refusal is counted against the ingress port. -/
def State.sendBuilt (s : State) (p cls kind : Nat) (bs : List Byte) : State :=
  let f0 : Frame := { blankFrame 46 0 cls s.nsNow with kind := kind, refs := [p], stamp := compact s.nsNow }
  match s.buildFrame f0 bs with
  | some (id, s') => s'.enterPlain p id true
  | none => s.refuse f0 46 0xFF 0

/-- The busy answer to a dictionary transfer (R234, R445), built from the request's header. -/
def State.busyAnswer (s : State) (f : Frame) : State :=
  let s := s.bump 0x6A00 4 1
  if f.kind = 1 then
    s.sendBuilt f.ingress (s.rdF 0x1100 1 10 8) 1
      (s.sdoFrame (beBytes 1 0x80 ++ (f.bytes.drop 17).take 3 ++ leBytes 4 0x05000001))
  else
    let m := udpPayload f.bytes
    s.sendBuilt f.ingress (s.rdF 0x1110 2 19 17) 0
      (udpAnswer f.bytes (dalmolyHeader 6 (beAt m 2 2) (beAt m 4 4) 4 0 ++ beBytes 4 0x05000001))

/-- The checks at entry for a dictionary transfer to port 46: never refused with 0, 1 or 7, answered busy instead (R234), as it is while
the warden is not PRESENT (R398). -/
def State.enterQueue (s : State) (p id : Nat) (limit : Bool) : State :=
  match s.frame? id with
  | none => s
  | some f =>
    if p = 46 ∧ (s.isSdoRequest f ∨ s.isDalmoly f) then
      let n := s.queueNo p f
      if !s.present 45 ∨ s.expired f ∨ (s.rdB 0x6A00 2 0 ∧ s.admissionDepth p n ≤ s.depth p n) ∨ (limit ∧ !s.belowLimit p f) then
        (s.busyAnswer f).dropRef id p
      else s.pushTail p id
    else s.enterPlain p id limit

/-- A copy of a frame with one destination arrives at its port (R209); an absent egress group refuses it with reason 0 (R49). -/
def State.enterUnicast (s : State) (p id : Nat) : State :=
  if s.present (egressGroup p) then s.enterQueue p id true
  else
    match s.frame? id with
    | some f => if s.expired f then s.refuseCopy p id 1 else s.refuseCopy p id 0
    | none => s

/-- A waiting copy taken by its port (R85, R86). -/
def State.takeCopy (s : State) (p id : Nat) : State :=
  (s.modFrame id fun f => { f with waiting := f.waiting.erase p }).enterQueue p id false

/-- The waiting copies of a port, oldest age stamp first (R86). -/
def State.waitingAt (s : State) (p : Nat) : List (Nat × Frame) :=
  (s.buf.frames.filter fun x => x.2.waiting.contains p).mergeSort fun a b => a.2.age ≤ b.2.age

/-- A port takes its waiting copies while it is ready for them (R86). -/
def State.takeWaiting (s : State) (p : Nat) : State :=
  s.forEach ((s.waitingAt p).map Prod.fst) fun s id =>
    match s.frame? id with
    | some f => if f.waiting.contains p && s.ready p f && !s.expired f then s.takeCopy p id else s
    | none => s

/-- The copies of a frame with several destinations offered at release: a ready port takes its copy after those that wait for
it already, the others wait (R85, R86). -/
def State.replicate (s : State) (id : Nat) (ports : List Nat) : State :=
  let s := s.modFrame id fun f => { f with refs := ports, waiting := ports }
  s.forEach ports State.takeWaiting

/-! ### Gates (R216–R218) -/

/-- Device time in ps. -/
def State.devPs (s : State) : Nat :=
  if s.present 42 then s.time.dev * 1000 / 2 ^ 48 else s.nsNow * 1000

/-- A gate list as (states, interval in ps), `len` records of a window of 0x6005. -/
def State.gateList (s : State) (p sub len : Nat) : List (Nat × Nat) :=
  (List.range len).map fun k => (s.winB (tmObj p 5) sub (8 * k), s.winLe (tmObj p 5) sub (8 * k + 4) 4 % 2 ^ 30 * 1000)

/-- A gate schedule: enable, base and cycle in ps, entries. -/
structure Gates where
  enable : Bool
  base : Nat
  cycle : Nat
  list : List (Nat × Nat)
  deriving DecidableEq, Repr

/-- The oper schedule of a port. -/
def State.operGates (s : State) (p : Nat) : Gates :=
  { enable := decide (p ≤ 27) && s.rdB (tmObj p 4) 8 0, base := (s.ptm p).gateBase * 1000,
    cycle := s.rdF (tmObj p 4) 9 29 0 * 1000, list := s.gateList p 2 (s.rdF (tmObj p 4) 8 10 2) }

/-- The admin schedule of a port, with its cycles starting at `base` ns. -/
def State.adminGates (s : State) (p base : Nat) : Gates :=
  { enable := s.rdB (tmObj p 4) 1 0, base := base * 1000, cycle := s.rdF (tmObj p 4) 5 29 0 * 1000,
    list := s.gateList p 1 (s.rdF (tmObj p 4) 6 8 0) }

/-- The phase of an instant within the cycle, for every whole n (R217). -/
def Gates.phase (g : Gates) (t : Nat) : Nat := ((t : Int) - g.base).emod g.cycle |>.toNat

/-- The spans of one cycle, each gate states and the phase where it ends: the list cut at the cycle's end, the last entry's
states held until it (R216). -/
def spans (cycle : Nat) : Nat → List (Nat × Nat) → List (Nat × Nat)
  | _, [] => []
  | at_, [(g, _)] => if at_ < cycle then [(g, cycle)] else []
  | at_, (g, d) :: r => if cycle ≤ at_ + d then [(g, cycle)] else (g, at_ + d) :: spans cycle (at_ + d) r

/-- The span that covers a phase. -/
def spanAt (l : List (Nat × Nat)) (ph : Nat) : Nat × Nat := (l.find? fun x => ph < x.2).getD (0xFF, ph + 1)

/-- The entry number in force at a phase. -/
def entryAt (l : List (Nat × Nat)) (ph : Nat) : Nat := (l.findIdx? fun x => ph < x.2).getD 0

/-- The gate states at an instant; all open while the enable is 0. -/
def Gates.states (g : Gates) (t : Nat) : Nat :=
  if g.enable && g.cycle != 0 && !g.list.isEmpty then (spanAt (spans g.cycle 0 g.list) (g.phase t)).1 else 0xFF

/-- The gate of class `c` is open at an instant. -/
def Gates.isOpen (g : Gates) (c t : Nat) : Bool := tb (g.states t) c

/-- Time from phase `ph` until a span of two cycles closes class `c`, or none. -/
def closeIn (c ph : Nat) (two : List (Nat × Nat)) : Option Nat :=
  ((two.zip (0 :: two.map Prod.snd)).find? fun x => ph < x.1.2 && !tb x.1.1 c).map fun x => x.2 - ph

/-- Time in ps from `t` until the schedule closes the open gate of class `c`; none where it never does. -/
def Gates.nextClose (g : Gates) (c t : Nat) : Option Nat :=
  if g.enable && g.cycle != 0 && !g.list.isEmpty then
    let one := spans g.cycle 0 g.list
    closeIn c (g.phase t) (one ++ one.map fun x => (x.1, x.2 + g.cycle))
  else none

/-- Time in ps until the gate of class `c` closes, the change at T included (R218). -/
def State.untilClose (s : State) (p c : Nat) : Option Nat :=
  let t := s.devPs
  let old := (s.operGates p).nextClose c t
  match (s.ptm p).gatePending with
  | none => old
  | some ch =>
    let toT := ch * 1000 - t
    match old with
    | some d => if d < toT then some d
                else if (s.adminGates p ch).isOpen c (ch * 1000) then ((s.adminGates p ch).nextClose c (ch * 1000)).map (· + toT)
                else some toT
    | none =>
      if (s.adminGates p ch).isOpen c (ch * 1000) then ((s.adminGates p ch).nextClose c (ch * 1000)).map (· + toT)
      else some toT

/-- The guard band of a class in ps (R218). -/
def State.guardPs (s : State) (p c : Nat) : Nat := ceilDiv ((s.classMax p c + s.overhead p) * 8 * 1000000000) (s.portKbps p)

/-- The class's gate is open and no guard band of it runs (R210). -/
def State.gateLets (s : State) (p c : Nat) : Bool :=
  if 27 < p then true
  else
    (s.operGates p).isOpen c s.devPs &&
      (match s.untilClose p c with
       | some d => decide (s.guardPs p c ≤ d)
       | none => true)

/-- Open time of class `c` in ps of the first `ph` ps of a cycle. -/
def openUpTo (c ph : Nat) : Nat → List (Nat × Nat) → Nat
  | _, [] => 0
  | at_, (g, e) :: r => (if tb g c then min ph e - min ph at_ else 0) + openUpTo c ph e r

/-- Open time of class `c` between two instants, in ps. -/
def Gates.openBetween (g : Gates) (c t0 t1 : Nat) : Nat :=
  if g.enable && g.cycle != 0 && !g.list.isEmpty then
    let l := spans g.cycle 0 g.list
    let cyc := (((t1 : Int) - g.base) / g.cycle - ((t0 : Int) - g.base) / g.cycle).toNat
    cyc * openUpTo c g.cycle 0 l + openUpTo c (g.phase t1) 0 l - openUpTo c (g.phase t0) 0 l
  else t1 - t0

/-- The instant T of a change (R217): base + n × cycle, the first not below one µs after `now`, in ns. -/
def changeInstant (base cycle now : Nat) : Nat :=
  if now + 1000 ≤ base then base
  else if cycle = 0 then base
  else base + ceilDiv (now + 1000 - base) cycle * cycle

/-- At T the admin list becomes the oper one (R217): copied, with its cycle and enable, and event 0x0093. -/
def State.gateTakeOver (s : State) (p : Nat) : State :=
  match (s.ptm p).gatePending with
  | none => s
  | some t =>
    let o := tmObj p 4
    let len := s.rdF o 6 8 0
    let s := s.setWin (tmObj p 5) 2 0 (s.winBytes (tmObj p 5) 1 0 2048)
    let s := (s.wr o 8 ((s.rdF o 1 0 0) + len * 4)).wr o 9 (s.rdF o 5 29 0)
    let s := (s.wr o 7 0).modPtm p fun x => { x with gateBase := t, gatePending := none, gateEntry := 0 }
    s.event (egressGroup p) 0x93 p 0 len

/-! ### Credits (R214) -/

/-- The idle slope of a class in kbit/s. -/
def State.idleSlope (s : State) (p c : Nat) : Nat := s.rdF (tmObj p 2) (1 + c) 24 0

/-- The credit of a class after `opn` ns with its gate open, in 10^-6 bit. -/
def creditStep (cr : Int) (slope rate cap opn : Nat) (sending hasFrame : Bool) : Int :=
  if sending then cr + ((slope : Int) - rate) * opn
  else if hasFrame then min (cr + slope * opn) cap
  else if cr < 0 then min (cr + slope * opn) 0
  else if opn = 0 then cr else 0

/-- The credits of a port brought to the present: `ns` of the port's clock have passed, during which the gates were open as from
device time `d0` ps on. -/
def State.creditUpdate (s : State) (p ns d0 : Nat) : State :=
  let g := s.operGates p
  let d1 := s.devPs
  let rate := s.portKbps p
  let sendingCls := ((s.pdyn p).tx.map fun t => t.cls)
  let one := fun (m : List (Nat × Int)) (c : Nat) =>
    if s.classKind p c = 1 then
      let opn := min ns (g.openBetween c d0 d1 / 1000)
      let hasFrame := (s.ptm p).queues.any fun q => s.queueClass p q.1 == c
      let cap := (s.portMax p + s.overhead p) * 8 * s.idleSlope p c * 1000000 / rate
      let sending := sendingCls == some c
      mapPut 0 m c (creditStep (mapGetD m c 0) (s.idleSlope p c) rate cap (if sending then ns else opn) sending hasFrame)
    else m
  s.modPtm p fun t => { t with credits := (List.range 8).foldl one t.credits }

/-- The ports that have a shaped class. -/
def State.shapedPorts (s : State) : List Nat :=
  (s.tm.ports.filter fun t => decide (t.1 ≤ 27) &&
    (List.range 8).any fun c => fld t.2.kindsInForce (2 * c + 1) (2 * c) == 1).map Prod.fst

/-- A class's credit in bits, as 0x6002 subs 09–10 show it: two's complement, 0 while the class is not shaped (R208). -/
def State.creditShown (s : State) (p c : Nat) : Nat :=
  if s.classKind p c = 1 then unsigned 32 (mapGetD (s.ptm p).credits c 0 / 1000000) else 0

/-- The kinds written to 0x6000:02 taken in force at a selection; a class that becomes shaped starts with credit 0 (R208). -/
def State.takeKinds (s : State) (p : Nat) : State :=
  if p ≤ 27 then
    let k := s.rdF (tmObj p 0) 2 15 0
    let old := (s.ptm p).kindsInForce
    if k = old then s
    else s.modPtm p fun t => { t with
      kindsInForce := k,
      credits := (List.range 8).foldl (fun m c =>
        if fld k (2 * c + 1) (2 * c) = 1 ∧ fld old (2 * c + 1) (2 * c) = 1 then m else mapDel m c) t.credits }
  else s

/-! ### Selection (R210–R213) -/

/-- A received pause or PFC stops the start of frames of a class (R134). -/
def State.stopped (s : State) (p c : Nat) : Bool :=
  isEth p && (let d := s.pdyn p; d.pauseStop.isSome || (mapGet d.pfcStop c).isSome)

/-- An egress port may start a frame that is not yet whole only at a rate no higher than its ingress (R130). -/
def State.mayCutThrough (s : State) (p : Nat) (f : Frame) : Bool :=
  isEth p && isEth f.ingress &&
    decide (rateKbps (s.rdF (ethObj p 1) 2 3 1) ≤ rateKbps (s.rdF (ethObj f.ingress 1) 2 3 1))

/-- Port H takes a frame of a class (R416, R419): its queue window is open, or the ring of the class is enabled and has a descriptor that
the host has posted. -/
def State.hostTakes (s : State) (c : Nat) : Bool :=
  s.rdB 0x20A0 3 2 ||
    (tb s.host.enabled (8 + c)
      && mapGetD s.host.bells (8 + c) 0 % max 1 (s.winLe 0x20A2 0 (32 * (8 + c) + 8) 2) != mapGetD s.host.done (8 + c) 0)

/-- A head frame is eligible (R210), given what its port still lets start. -/
def State.eligible (s : State) (p c : Nat) (i : QItem) : Bool :=
  match s.frame? i.frame with
  | none => true
  | some f =>
    s.gateLets p c && !s.stopped p c
      && (s.classKind p c != 1 || (decide (0 ≤ mapGetD (s.ptm p).credits c 0) && s.idleSlope p c != 0))
      && (i.prot == 0 || i.prot == 3)
      && (f.whole || s.mayCutThrough p f)
      && (p != 44 || s.hostTakes c)

/-- The head of queue `n` is eligible. -/
def State.headEligible (s : State) (p n : Nat) : Bool :=
  match (s.ptm p).q n with
  | [] => false
  | i :: _ => s.eligible p (s.queueClass p n) i

/-- The effective length of the head of a queue. -/
def State.headLength (s : State) (p n : Nat) : Nat :=
  match (s.ptm p).q n with
  | [] => 0
  | i :: _ => ((s.frame? i.frame).map fun f => s.effLength p f).getD 0

/-- Quantum of a queue in bytes (Table 8.6). -/
def State.quantum (s : State) (p n : Nat) : Nat := s.winLe (tmObj p 3) 1 (4 * n) 4 % 2048 * 64

/-- Deficit round robin over a list of queues in ascending order (R213), from position `pos` with `serving` set while a visit is
under way: the queue chosen and the port's deficits, position and visit afterwards. -/
def State.drr (s : State) (p : Nat) (qs : List Nat) : Nat → List (Nat × Nat) → Nat → Bool →
    Option (Nat × List (Nat × Nat) × Nat × Bool)
  | 0, _, _, _ => none
  | n + 1, def_, pos, serving =>
    let q := qs.getD (pos % qs.length) 0
    let empty := ((s.ptm p).q q).isEmpty
    let next := (pos + 1) % qs.length
    let clean := if empty then mapDel def_ q else def_
    if !s.headEligible p q then s.drr p qs n clean next false
    else
      let d := mapGetD def_ q 0 + (if serving then 0 else s.quantum p q)
      let l := s.headLength p q
      if l ≤ d then some (q, mapPut 0 def_ q (d - l), pos % qs.length, true)
      else s.drr p qs n (mapPut 0 def_ q d) next false

/-- Deficit round robin run for a group of queues; `key` names the group. -/
def State.drrPick (s : State) (p key : Nat) (qs : List Nat) : Option Nat × State :=
  if qs.any (s.headEligible p) then
    let st := mapGetD (s.ptm p).drr key (0, false)
    match s.drr p qs 9600 (s.ptm p).deficit st.1 st.2 with
    | some (q, d, pos, sv) => (some q, s.modPtm p fun t => { t with deficit := d, drr := mapPut (0, false) t.drr key (pos, sv) })
    | none => (none, s)
  else (none, s)

/-- Weighted fair queueing: the eligible best-effort head with the earliest finish tag; on equal tags the higher class. -/
def State.wfqPick (s : State) (p : Nat) (cs : List Nat) : Option Nat :=
  let tag := fun c => mapGetD (s.ptm p).finish c 0
  cs.foldl (fun best c =>
    if s.headEligible p c then
      match best with
      | none => some c
      | some b => if earlier (tag b) (tag c) then best else some c
    else best) none

/-- The highest class of a list for which `f` gives a queue. -/
def State.firstClass (s : State) (p : Nat) : List Nat → Option Nat × State
  | [] => (none, s)
  | c :: cs =>
    if s.wide p then
      match s.drrPick p c ((List.range 8).map fun k => 8 * c + k) with
      | (some q, s') => (some q, s')
      | (none, _) => s.firstClass p cs
    else if s.headEligible p c then (some c, s) else s.firstClass p cs

/-- The selection of R211 among the classes that `ok` admits: the queue whose head goes next. -/
def State.selectAmong (s : State) (p : Nat) (ok : Nat → Bool) : Option Nat × State :=
  let down := [7, 6, 5, 4, 3, 2, 1, 0].filter ok
  match s.firstClass p (down.filter fun c => s.classKind p c == 2) with
  | (some q, s') => (some q, s')
  | (none, _) =>
    match s.firstClass p (down.filter fun c => s.classKind p c == 1) with
    | (some q, s') => (some q, s')
    | (none, _) =>
      let be := ((List.range 8).filter ok).filter fun c => s.classKind p c == 0
      if s.wide p then s.drrPick p 8 (be.flatMap fun c => (List.range 8).map fun k => 8 * c + k)
      else (s.wfqPick p be, s)

/-- The selection of R211: the queue whose head goes next. -/
def State.selectQueue (s : State) (p : Nat) : Option Nat × State := s.selectAmong p fun _ => true

/-- The head of a queue taken off it. The next head is tagged; V takes the finish tag of the selected best-effort frame. -/
def State.popHead (s : State) (p n : Nat) : State :=
  match (s.ptm p).q n with
  | [] => s
  | _ :: r =>
    let be := !s.wide p && s.classKind p n == 0
    let s := s.modPtm p fun t =>
      let t := t.setQ n r
      let t := if be then { t with virtual := mapGetD t.finish n 0 } else t
      if r.isEmpty then { t with deficit := mapDel t.deficit n } else t
    let s := if be then s.tagQueue p n else s
    s.restartTags p

/-- A copy removed from a queue wherever it stands. -/
def State.removeItem (s : State) (p n id : Nat) : State :=
  let q := (s.ptm p).q n
  let head := (q.head?.map fun i => i.frame) == some id
  let s := s.modPtm p fun t => t.setQ n (t.q n |>.filter fun i => i.frame != id)
  let s := if head && !s.wide p && s.classKind p n == 0 then s.tagQueue p n else s
  s.restartTags p

/-- A copy put back at the head of its queue (R83). -/
def State.pushHead (s : State) (p n : Nat) (i : QItem) : State := s.modPtm p fun t => t.setQ n (i :: t.q n)

/-- Every queued frame of the ports of an egress group past its age limit is refused with reason 1, and every waiting copy of an
expired frame with reason 6 (R82, R85). -/
def State.sweep (s : State) (group : Nat) : State :=
  let ports := (s.tm.ports.map Prod.fst).filter fun p => egressGroup p == 21 + group
  let s := s.forEach ports fun s p =>
    s.forEach ((s.ptm p).queues.flatMap fun q => q.2.map fun i => (q.1, i.frame)) fun s x =>
      match s.frame? x.2 with
      | some f => if s.expired f then (s.removeItem p x.1 x.2).refuseCopy p x.2 1 else s
      | none => s
  s.forEach s.buf.frames fun s x =>
    match s.frame? x.1 with
    | some f => if f.waiting.any (fun p => egressGroup p == 21 + group) && s.expired f then s.dropWaiting x.1 else s
    | none => s

/-! ### Meters (R224, R225) -/

/-- Meter record fields (Table 8.11): CIR, PIR in kbit/s, CBS, PBS in bytes. -/
def State.meterField (s : State) (m off : Nat) : Nat := s.winLe 0x6A11 0 (32 * m + off) 4

/-- The colour a frame arrives with at a colour-aware meter: 0 green, 1 yellow, 2 red. -/
def State.frameColour (s : State) (m : Nat) (f : Frame) : Nat :=
  let src := s.winB 0x6A11 0 (32 * m + 16)
  let v := parseEth f.bytes
  if src = 0 ∨ f.kind ≠ 0 ∨ !v.tagged then 0
  else if src = 1 then v.dei
  else if tb (s.winB 0x6A11 0 (32 * m + 17)) v.pcp then 1 else 0

/-- One frame through a meter (R224): the colour, and the state with its buckets charged and its counter raised. `incoming` is
the colour a meter before it gave (R225). -/
def State.meter (s : State) (m : Nat) (f : Frame) (incoming : Option Nat) : Nat × State :=
  let unit := 8000000
  let cbs := s.meterField m 8 * unit
  let pbs := s.meterField m 12 * unit
  let d := mapGetD s.tm.meters m ⟨cbs, pbs, s.nsNow⟩
  let dt := s.nsNow - d.last
  let tc := min cbs (d.tc + s.meterField m 0 * dt)
  let tp := min pbs (d.tp + s.meterField m 4 * dt)
  let b := f.bytes.length * unit
  let inc := if s.winB 0x6A11 0 (32 * m + 16) = 0 then 0 else incoming.getD (s.frameColour m f)
  let col := if inc = 2 ∨ tp < b then 2 else if inc = 1 ∨ tc < b then 1 else 0
  let d' : MeterDyn := ⟨if col = 0 then tc - b else tc, if col = 2 then tp else tp - b, s.nsNow⟩
  let s := s.withTm fun t => { t with meters := mapSet t.meters m d' }
  (col, s.bumpWin 0x6A12 0 (24 * m + 8 * col) 8 1)

/-- A frame's bytes changed at ingress; a whole frame gets its new FCS at once. -/
def State.editFrame (s : State) (id : Nat) (g : List Byte → List Byte) : State :=
  s.modFrame id fun f =>
    if f.whole then
      let body := g (f.bytes.take (f.bytes.length - 4))
      { f with bytes := withFcs body, edited := true }
    else { f with bytes := g f.bytes, edited := true }

/-- DEI set on a yellow frame whose meter marks (R224). -/
def State.markYellow (s : State) (m id col : Nat) : State :=
  match s.frame? id with
  | none => s
  | some f =>
    if col = 1 ∧ s.winB 0x6A11 0 (32 * m + 18) % 2 = 1 ∧ f.kind = 0 ∧ (parseEth f.bytes).tagged then
      s.editFrame id fun bs => overlay bs 14 [BitVec.ofNat 8 (setBit (byteAt bs 14) 4 true)]
    else s

/-! ### Stream filters, sequence recovery and generation (R223, R226, R227) -/

/-- The stream filter of a handle: the frame is refused with reason 2 (true), or goes on with a colour. -/
def State.streamFilter (s : State) (h id : Nat) (incoming : Option Nat) : Bool × State :=
  match s.frame? id with
  | none => (false, s)
  | some f =>
    if s.winB 0x6A10 0 (16 * h + 4) % 2 = 0 then (false, s)
    else
      let s := s.bumpWin 0x6A13 0 (16 * h) 8 1
      let max := s.winLe 0x6A10 0 (16 * h) 2
      let m := s.winLe 0x6A10 0 (16 * h + 2) 2
      let meterStep := fun (s : State) =>
        if m = 0xFFFF then (false, s)
        else
          let (col, s) := s.meter m f incoming
          if col = 2 then (true, s) else (false, s.markYellow m id col)
      let (red, s) := meterStep s
      if red then (true, s)
      else if max ≠ 0 ∧ max < f.bytes.length then (true, s.bumpWin 0x6A13 0 (16 * h + 8) 8 1)
      else (false, s)

/-- A handle's sequence part. -/
def State.frer (s : State) (h : Nat) : Option FrerDyn := mapGet s.tm.frer h

/-- A handle's sequence part set. -/
def State.setFrer (s : State) (h : Nat) (d : FrerDyn) : State := s.withTm fun t => { t with frer := mapSet t.frer h d }

/-- Sequence recovery of one number (R227): 0 passes, 1 duplicate, 2 rogue; and whether it passes out of order. -/
def recover (history : Nat) (d : Option FrerDyn) (seq : Nat) : Nat × Bool × FrerDyn :=
  let fresh : FrerDyn := ⟨(d.map fun x => x.next).getD 0, seq, 0, none, false⟩
  match d with
  | none => (0, false, fresh)
  | some x =>
    if x.restart ∨ x.lastPass = none then (0, false, fresh)
    else
      let up := (seq + 65536 - x.newest) % 65536
      let dn := (x.newest + 65536 - seq) % 65536
      if up = 0 then (1, false, x)
      else if up < 32768 then
        if history ≤ up then (2, false, x)
        else (0, false, { x with newest := seq, seen := (x.seen * 2 + 1) * 2 ^ (up - 1) % 2 ^ 32 })
      else if history ≤ dn then (2, false, x)
      else if tb x.seen (dn - 1) then (1, false, x)
      else (0, true, { x with seen := setBit x.seen (dn - 1) true })

/-- The R-TAG removed from a frame's bytes (R226). -/
def dropRtag (bs : List Byte) : List Byte :=
  let o := (parseEth bs).tagOff
  bs.take o ++ bs.drop (o + 6)

/-- The R-TAG inserted after the VLAN tag or the source address (R226). -/
def addRtag (seq : Nat) (bs : List Byte) : List Byte :=
  let o := (parseEth bs).tagOff
  bs.take o ++ beBytes 2 0xF1C1 ++ fill 2 0 ++ beBytes 2 seq ++ bs.drop o

/-- The function of a stream handle applied to a frame (R226, R227): true where the frame is discarded as duplicate or rogue. A
frame without an R-TAG passes recovery unchanged. -/
def State.frerStep (s : State) (h id : Nat) : Bool × State :=
  match s.frame? id with
  | none => (false, s)
  | some f =>
    let fn := s.winB 0x6A20 0 (8 * h)
    if fn = 1 then
      let d := (s.frer h).getD ⟨0, 0, 0, none, false⟩
      let s := s.setFrer h { d with next := (d.next + 1) % 65536 }
      (false, s.editFrame id (addRtag d.next))
    else if fn = 2 then
      match (parseEth f.bytes).rtag with
      | none => (false, s)
      | some seq =>
        let (v, ooo, d) := recover (s.winB 0x6A20 0 (8 * h + 1)) (s.frer h) seq
        if v = 0 then
          let s := s.setFrer h { d with lastPass := some s.now, restart := false }
          let s := s.bumpWin 0x6A21 0 (40 * h) 8 1
          let s := if ooo then s.bumpWin 0x6A21 0 (40 * h + 16) 8 1 else s
          (false, s.editFrame id dropRtag)
        else (true, s.bumpWin 0x6A21 0 (40 * h + (if v = 1 then 8 else 24)) 8 1)
    else (false, s)

/-! ### Observation (R228) -/

/-- The sojourn bin of base `b`: 0 below b, k below b × 2^k, 15 from b × 2^14 on. -/
def sojournBin (b so : Nat) : Nat := ((List.range 15).find? fun k => so < b * 2 ^ k).getD 15

/-- One sample of a queue into its record (Table 8.14). -/
def State.sampleQueue (s : State) (p n : Nat) : State :=
  let o := tmObj p 8
  let d := s.depth p n
  let so := match (s.ptm p).q n with
    | [] => 0
    | i :: _ => s.now - i.entered
  let r := 96 * n
  let rd := fun k => s.winLe o 0 (r + k) 4
  let s := s.bumpWin o 0 r 4 1
  let s := s.setWinLe o 0 (r + 4) 4 (min (rd 4) d)
  let s := s.setWinLe o 0 (r + 8) 4 (max (rd 8) d)
  let s := s.setWinLe o 0 (r + 12) 4 (min (rd 12) so)
  let s := s.setWinLe o 0 (r + 16) 4 (max (rd 16) so)
  s.bumpWin o 0 (r + 20 + 4 * sojournBin (s.rdF (tmObj p 7) 2 19 0) so) 4 1

/-- The queues of a port. -/
def State.queuesOf (s : State) (p : Nat) : List Nat := List.range (if s.wide p then 64 else 8)

/-- Every record of a port restarted: minima 0xFFFF_FFFF, maxima and counts 0. -/
def State.restartObservation (s : State) (p : Nat) : State :=
  s.forEach (s.queuesOf p) fun s n =>
    s.setWin (tmObj p 8) 0 (96 * n) (fill 4 0 ++ fill 4 0xFF ++ fill 4 0 ++ fill 4 0xFF ++ fill 80 0)

/-! ### Admission shedding (R233) -/

/-- One complete headroom window: shedding begins below the threshold and ends after four windows at or above it. -/
def State.sheddingWindow (s : State) (headroom : Nat) : State :=
  let th := s.rdF 0x6A00 1 15 0
  if headroom < th then
    let s := s.withTm fun t => { t with goodWindows := 0 }
    if s.rdB 0x6A00 2 0 then s
    else ((s.wr 0x6A00 2 1).bump 0x6A00 3 1).event 21 0x90 1 0 headroom
  else if s.rdB 0x6A00 2 0 then
    if s.tm.goodWindows = 3 then
      ((s.withTm fun t => { t with goodWindows := 0 }).wr 0x6A00 2 0).event 21 0x90 0 0 headroom
    else s.withTm fun t => { t with goodWindows := t.goodWindows + 1 }
  else s

end Sys2Proof.Machine
end

