-- ==== Sys2Proof/Machine/Ether.lean ====
section
/-! DEFINITION. Ethernet ports (Chapter 5): the effective threshold (R72, R131–R133), sending and ending frames (R127–R130,
R221, R222), links (R122, R123), pause and PFC (R134–R136), and the drawbar header (R457). -/

namespace Sys2Proof.Machine

/-! ### Threshold (R72, R131–R133) -/

/-- Start-up has completed (0xF000:02 [3]). -/
def State.startComplete (s : State) : Bool := s.rdB 0xF000 2 3

/-- A carriage of Table 5.5 is out of service for a repair, or its 100 ms have not passed. -/
def State.repairForced (s : State) : Bool :=
  decide (s.now < s.eth.repairUntil) ||
    (carriages.any fun n => repairCarriage n && decide (1 ≤ s.carState n) && decide (s.carState n ≤ 4)
      && !((s.car.test.map fun t => (t.carriage, t.prior)) == some (10, stSpareIdle) && n == 10))

/-- Store-and-forward is forced on a port (Table 5.5). -/
def State.forced (s : State) (p : Nat) : Bool := !s.startComplete || s.repairForced || s.macsecRx p

/-- The configured threshold of a port. -/
def State.configured (s : State) (p : Nat) : Nat := s.rdF (ethObj p 8) 1 5 0

/-- The effective threshold (R72); ports that are not 0–43 always release whole frames. -/
def State.effThreshold (s : State) (p : Nat) : Nat :=
  if !isEth p || s.forced p || s.drawbar p then 0
  else if s.configured p = 0 then 0
  else max (s.configured p) (s.pdyn p).adapted

/-- One underrun's raise (R131 step 3). -/
def State.raiseThreshold (s : State) (p : Nat) : State :=
  let c := s.configured p
  let a := (s.pdyn p).adapted
  let v := min 48 (if a = 0 then c + 1 else a + 1)
  ((s.modPdyn p fun d => { d with adapted := v }).portCount p 0x3F 1).event (portCarriage p) 0x63 p v 0

/-- The run of frames without an underrun restarts (R132). -/
def State.restartRun (s : State) (p : Nat) : State := s.modPdyn p fun d => { d with cleanRun := 0 }

/-- The decay of the adapted threshold after 65,536 frames without an underrun (R132). -/
def State.decayThreshold (s : State) (p : Nat) : State :=
  s.modPdyn p fun d =>
    let a := d.adapted - 1
    { d with cleanRun := 0, adapted := if a ≤ s.configured p then 0 else a }

/-- A write of the configured threshold (R72, R132): 0, or a value at or above the adapted one, clears Adapted. -/
def State.writeThreshold (s : State) (p v : Nat) : State :=
  let s := s.wr (ethObj p 8) 1 v
  s.modPdyn p fun d => { d with adapted := if d.adapted ≤ v % 64 ∨ v % 64 = 0 then 0 else d.adapted }

/-! ### Drawbar frames (R457) -/

/-- The device's own number. -/
def State.ownDevice (s : State) : Nat := s.rdF 0xA000 1 2 0

/-- The MAC address of a device on a drawbar. -/
def drawbarMac (n : Nat) : Nat := 0x024B58C00000 + n

/-- The neighbour's number on a drawbar; a free value before any roll call has named it. DESIGN CHOICE, log entry 34. -/
def State.neighbourOf (s : State) (p : Nat) : Nat :=
  match mapGet s.consist.neighbour p with
  | some d => d
  | none => (Config.freeValue s.fresh).toNat % 8

/-- The age field: µs since the age stamp, saturating. -/
def State.ageField (s : State) (f : Frame) : Nat := min 0xFFFFFFFF ((s.nsNow - f.age) / 1000)

/-- The carried part of a frame: an Ethernet frame without its FCS, else the stored form or the body of a message. -/
def carriedPart (f : Frame) : List Byte :=
  if f.kind = 0 ∧ f.whole ∧ ((f.draw.map fun d => d.mode).getD 0) < 3 then f.bytes.take (f.bytes.length - 4) else f.bytes

/-- The drawbar frame of a copy, without its FCS (Table 19.1); a short one is padded to 60 bytes. A copy on a drawbar that the
frame's drawbar header does not list goes in mode 0. -/
def State.drawbarForm (s : State) (p : Nat) (f : Frame) : List Byte :=
  let plain : DrawInfo := ⟨0, s.ownDevice, s.neighbourOf p, f.ingress, 0xFF, []⟩
  let d := match f.draw with
    | some d => if (mapGet d.hops p).isSome then d else plain
    | none => plain
  let part := carriedPart f
  let bs := beBytes 6 (drawbarMac (s.neighbourOf p)) ++ beBytes 6 (drawbarMac s.ownDevice) ++ beBytes 2 0x88B6 ++ beBytes 1 1
    ++ beBytes 1 (d.mode + 8 * f.cls) ++ beBytes 1 (d.src + 16 * d.dst) ++ beBytes 1 d.ingress ++ beBytes 1 d.dstPort
    ++ beBytes 1 (f.domain + 64 * f.kind) ++ beBytes 1 (mapGetD d.hops p 0) ++ fill 1 0 ++ beBytes 2 part.length
    ++ beBytes 4 f.stamp ++ beBytes 4 (s.ageField f) ++ part
  bs ++ fill (60 - bs.length) 0

/-- What a port sends of a frame, before protection and without the FCS. -/
def State.wireBody (s : State) (p : Nat) (f : Frame) : List Byte :=
  if s.drawbar p then s.drawbarForm p f
  else if f.whole then f.bytes.take (f.bytes.length - 4) else f.bytes

/-! ### Stamps (R323, R326) -/

/-- The time part of the state changed. -/
def State.withTime (s : State) (f : TimeState → TimeState) : State := { s with time := f s.time }

/-- The offset of the PTP header of a frame: EtherType 0x88F7, or UDP port 319 (event messages). -/
def ptpOffset (bs : List Byte) : Option Nat :=
  let v := parseEth bs
  if v.etype = 0x88F7 then some v.off
  else if (v.v4 || v.v6) && v.proto == 17 && !v.frag && v.dport == 319 then some (v.l4 + 8)
  else none

/-- The frame is an event message of an instance enabled on the port. -/
def State.ptpEvent (s : State) (p : Nat) (bs : List Byte) : Option Nat :=
  match ptpOffset bs with
  | none => none
  | some o =>
    if byteAt bs o % 16 ≤ 3 && (List.range 4).any fun k =>
        s.rdB (0x7100 + p) 2 k && s.rdF (0x7030 + k) 1 1 0 != 0 && s.rdF (0x7030 + k) 1 15 8 == byteAt bs (o + 4)
    then some o else none

/-- The full-width stamp of an event message kept in 0x7020, at `t` in units of 2^-16 ns since the epoch; each set of 16 is
overwritten oldest first. The window is the time unit's: nothing is kept while carriage 42 is not PRESENT. DEDUCED, log entry 51. -/
def State.ptpStamp (s : State) (p : Nat) (sent : Bool) (bs : List Byte) (t : Nat) : State :=
  if !isEth p || !s.present 42 then s
  else
    match s.ptpEvent p bs with
    | none => s
    | some o =>
      let m := if sent then s.time.stampTx else s.time.stampRx
      let k := mapGetD m p 0
      let r := leBytes 1 (sent.toNat + byteAt bs o % 16 * 16) ++ leBytes 1 (byteAt bs (o + 4)) ++ leBytes 2 (beAt bs (o + 30) 2)
        ++ leBytes 6 (t / 65536 / 1000000000) ++ leBytes 4 (t / 65536 % 1000000000) ++ leBytes 2 (t % 65536)
      let s := s.setWin 0x7020 0 ((32 * p + (if sent then 16 else 0) + k) * 16) r
      s.withTime fun x =>
        if sent then { x with stampTx := mapPut 0 x.stampTx p ((k + 1) % 16) } else { x with stampRx := mapPut 0 x.stampRx p ((k + 1) % 16) }

/-- The time in ns of a receive stamp taken `ago` ns before now at the MAC: an Ethernet port's receive latency is subtracted (R323). -/
def State.rxTime (s : State) (p ago : Nat) : Nat := s.nsNow - ago - (if isEth p then s.rdF (0x7100 + p) 1 15 0 else 0)

/-- The transmit stamp of a frame that starts now, in units of 2^-16 ns: the port's transmit latency is added (R323). -/
def State.txTime (s : State) (p : Nat) : Nat := (s.nsNow + s.rdF (0x7100 + p) 1 31 16) * 65536 + s.fracNow

/-! ### Sending -/

/-- The length of a whole frame on the wire with its FCS. -/
def State.wireLength (s : State) (p : Nat) (f : Frame) : Nat :=
  if s.drawbar p then (s.drawbarForm p f).length + 4 else f.bytes.length

/-- Time on the wire of `n` bytes with the preamble and the gap, 20 bytes, at a port, in ns. -/
def State.wireNs (s : State) (p n : Nat) : Nat := ceilDiv ((n + 20) * 8 * 1000000) (s.portKbps p)

/-- The bytes of a frame on the wire, as R127 counts them: a drawbar's header left out, 32 bytes for MACsec. -/
def State.egressLength (s : State) (p : Nat) (f : Frame) : Nat := f.bytes.length + (if s.macsecTx p then 32 else 0)

/-- Size bin of Table 5.8 subs 11–18. -/
def sizeBin (n : Nat) : Nat :=
  if n ≤ 64 then 0 else if n ≤ 127 then 1 else if n ≤ 255 then 2 else if n ≤ 511 then 3 else if n ≤ 1023 then 4
  else if n ≤ 1518 then 5 else if n ≤ 2047 then 6 else 7

/-- Unicast, multicast or broadcast by destination: 0, 1, 2. -/
def destKind (bs : List Byte) : Nat :=
  if beAt bs 0 6 = 0xFFFFFFFFFFFF then 2 else if byteAt bs 0 % 2 = 1 then 1 else 0

/-- Counters of a frame sent whole and good. -/
def State.countTx (s : State) (p : Nat) (bs : List Byte) : State :=
  let n := bs.length
  ((((s.portCount p 0x19 n).portCount p 0x1A 1).portCount p (0x1B + destKind bs) 1)).portCount p (0x31 + sizeBin n) 1

/-- Counters of a good frame received. -/
def State.countRx (s : State) (p : Nat) (bs : List Byte) (n : Nat) (tagged : Bool) : State :=
  let s := (((s.portCount p 1 n).portCount p 2 1).portCount p (3 + destKind bs) 1).portCount p (0x11 + sizeBin n) 1
  if tagged then s.portCount p 0x10 1 else s

/-- A frame is counted once as stomped at its ingress port (R129): the mark stands in its status. -/
def State.countStomped (s : State) (id p : Nat) : State :=
  let s := s.portCount p 0x1E 1
  match s.frame? id with
  | none => s
  | some f => if f.raised then s else (s.portCount f.ingress 0x0A 1).modFrame id fun f => { f with raised := true }

/-- A copy ends stomped (R128): its first bytes, then the complement of the CRC over them in place of the FCS. -/
def State.endStomped (s : State) (p : Nat) (t : Tx) (n : Nat) : State :=
  match s.frame? t.frame with
  | none => s.modPdyn p fun d => { d with tx := none }
  | some f =>
    let body := (s.wireBody p { f with whole := false }).take n
    let s := s.emit (.frame p (body ++ leBytes 4 (0xFFFFFFFF - crc32 body)) false)
    let s := s.countStomped t.frame p
    let s := s.modPdyn p fun d => { d with tx := none, attempts := 0 }
    (s.dropRef t.frame p).takeWaiting p

/-- A copy has been sent whole: counted, put out, its cells freed with the last copy; waiting copies are taken. A copy cut off at
the egress maximum ends stomped instead (R127). -/
def State.finishTx (s : State) (p : Nat) : State :=
  match (s.pdyn p).tx with
  | none => s
  | some t =>
    match s.frame? t.frame with
    | none => s.modPdyn p fun d => { d with tx := none, attempts := 0 }
    | some f =>
      if t.cut then ((s.portCount p 0x22 1).endStomped p t (s.portMax p - 4))
      else if f.status ≠ 0 ∨ f.poison.isSome then s.endStomped p t (min (s.portMax p - 4) (if f.status = 2 then f.bytes.length else f.bytes.length - 4))
      else
        let bs := withFcs (t.out.getD (s.wireBody p f))
        let s := ((s.emit (.frame p bs true)).countTx p bs).probeEnd t.frame
        let s := s.modPdyn p fun d => { d with tx := none, attempts := 0 }
        (s.dropRef t.frame p).takeWaiting p

/-- A cell of the frame lies in a bank that is not PRESENT: the egress group treats it as poisoned (Table 2.7). -/
def State.bankAbsent (s : State) (f : Frame) : Option Nat := f.cells.findIdx? fun b => !s.present b

/-- The checks at the start of transmission or delivery (R79, R82, R127, R219): the copy is gone when the answer is true. -/
def State.startCheck (s : State) (p n id : Nat) : Bool × State :=
  match s.frame? id with
  | none => (true, s.popHead p n)
  | some f =>
    let s := match s.bankAbsent f with
      | some i => if f.poison.isNone then s.markPoison id i 0 else s
      | none => s
    if s.expired f then (true, (s.popHead p n).refuseCopy p id 1)
    else if ((s.frame? id).bind fun f => f.poison).isSome ∧ f.whole then
      (true, (s.popHead p n).discardPoisoned id)
    else if isEth p ∧ f.whole ∧ (s.portMax p < s.egressLength p f ∨ (p ≤ 27 ∧ s.classMax p f.cls < f.bytes.length)) then
      (true, ((s.popHead p n).portCount p 0x22 1).refuseCopy p id 4)
    else if f.whole ∧ f.status ≠ 0 then (true, (s.popHead p n).dropRef id p)
    else (false, s)

/-- A class is preemptable at a port: preemption is active and the bitmap names it (R221). -/
def State.preemptable (s : State) (p c : Nat) : Bool :=
  decide (p ≤ 27) && s.rdB (tmObj p 6) 2 0 && s.rdB (tmObj p 6) 1 (8 + c)

/-- The head of queue `n` starts on an Ethernet port. -/
def State.startTx (s : State) (p n : Nat) : State :=
  match (s.ptm p).q n with
  | [] => s
  | i :: _ =>
    let (gone, s) := s.startCheck p n i.frame
    if gone then s.takeWaiting p
    else
      match s.frame? i.frame with
      | none => s
      | some f =>
        let len := match i.out with
          | some o => o.length + 4
          | none => s.wireLength p f
        let tx : Tx := ⟨i.frame, f.cls, n, s.now, len, f.whole, s.preemptable p f.cls, i.out, false,
          if f.whole then some (s.now + s.wireNs p len) else none, 0⟩
        let s := (s.popHead p n).modPdyn p fun d => { d with tx := some tx, retry := none }
        let s := (s.probeOut i.frame p).ptpStamp p true (s.wireBody p f) (s.txTime p)
        s.takeWaiting p

/-- A preempted frame's remainder resumes (R222), where it ends before its class's gate closes. -/
def State.resumeTx (s : State) (p : Nat) : State :=
  match (s.pdyn p).suspended with
  | none => s
  | some t =>
    let left := t.length - t.sent
    let fits := match s.untilClose p t.cls with
      | some d => decide (ceilDiv ((left + s.overhead p) * 8 * 1000000000) (s.portKbps p) ≤ d)
      | none => true
    if (s.operGates p).isOpen t.cls s.devPs && fits then
      let s := s.portCount p 0x24 1
      s.modPdyn p fun d => { d with suspended := none, tx := some { t with start := s.now, ends := some (s.now + s.wireNs p left) } }
    else s

/-- The frame in transmission is preempted for an express frame (R222), where 802.3br allows: at least 64 × (k + 1) bytes of it
sent and 64 bytes left. -/
def State.preempt (s : State) (p : Nat) (t : Tx) : State × Bool :=
  let done := (s.now - t.start) * s.portKbps p / 8000000
  let k := s.rdF (tmObj p 6) 1 3 2
  if 64 * (k + 1) ≤ done ∧ t.sent + done + 64 ≤ t.length ∧ t.wholeAtStart then
    (s.modPdyn p fun d => { d with tx := none, suspended := some { t with sent := t.sent + done, ends := none } }, true)
  else (s, false)

/-- The ends of transmissions once a frame is whole: the last bit leaves no earlier than now. -/
def State.closeTx (s : State) (id : Nat) : State :=
  s.forEach (s.eth.ports.map Prod.fst) fun s p =>
    match (s.pdyn p).tx with
    | some t =>
      if t.frame = id ∧ t.ends = none then
        match s.frame? id with
        | some f =>
          let len := s.wireLength p f
          let cap := if p ≤ 27 then min (s.portMax p) (s.classMax p t.cls) else s.portMax p
          let long := decide (cap < f.bytes.length)
          let ends := max s.now (t.start + s.wireNs p (if long then cap else len))
          s.modPdyn p fun d => { d with tx := some { t with length := len, cut := long, ends := some ends } }
        | none => s
      else s
    | none => s

/-- The next instant at which a frame in transmission ends, not later than `limit`, with its port. -/
def State.nextEnd (s : State) (limit : Nat) : Option (Nat × Nat) :=
  s.eth.ports.foldl (fun best x =>
    match x.2.tx with
    | some t =>
      match t.ends with
      | some e =>
        if e ≤ limit then
          match best with
          | some b => if e < b.1 then some (e, x.1) else best
          | none => some (e, x.1)
        else best
      | none => best
    | none => best) none

/-! ### Links (R122, R123) -/

/-- The frame in reception on a port ended by a link going down (R123): discarded, or ended with status 2 where it has been
released. -/
def State.cutRx (s : State) (p : Nat) : State :=
  match mapGet s.buf.ingress p with
  | none => s
  | some q =>
    match q.cur with
    | none => s
    | some id =>
      let s := s.withBuf fun b => { b with ingress := mapSet b.ingress p { q with cur := none, skip := false } }
      match s.frame? id with
      | none => s
      | some f =>
        let s := s.portCount p 9 1
        if f.released then (s.modFrame id fun f => { f with whole := true, status := 2 }).closeTx id
        else s.eraseFrame id

/-- The link goes down (R123): frames in transmission and reception are cut off, event 0x0061. -/
def State.dropLink (s : State) (p mode : Nat) : State :=
  let s := match (s.pdyn p).tx with
    | some t => ((s.portCount p 0x23 1).emit (.cut p)).modPdyn p (fun d => { d with tx := none }) |>.dropRef t.frame p
    | none => s
  let s := match (s.pdyn p).suspended with
    | some t => (s.portCount p 0x23 1).modPdyn p (fun d => { d with suspended := none }) |>.dropRef t.frame p
    | none => s
  let s := s.cutRx p
  let s := ((s.wr (ethObj p 1) 2 0).portCount p 0x39 1).modPdyn p fun d => { d with oldMode := none, attempts := 0, retry := none, beaconAt := none }
  s.event (portCarriage p) 0x61 p mode 0

/-- A mode write that waited for the frame in transmission is carried out: the link goes down from the mode being left (R122). -/
def State.takeMode (s : State) (p : Nat) : State :=
  match (s.pdyn p).oldMode, (s.pdyn p).tx with
  | some m, none => s.dropLink p m
  | _, _ => s

/-- The configuration of a port is written (R122): an unchanged value has no effect; a link that is up goes down once the frame in
transmission has ended. -/
def State.writePortMode (s : State) (p v : Nat) : State :=
  let old := s.rd (ethObj p 1) 1
  let m := s.modeNow p
  let s := s.wr (ethObj p 1) 1 v
  if v = old ∨ !s.linkUp p then s else (s.modPdyn p fun d => { d with oldMode := some m }).takeMode p

/-- The link comes up in the port's mode (R122), event 0x0060. -/
def State.raiseLink (s : State) (p : Nat) : State :=
  let r := modeRate p (s.rdF (ethObj p 1) 1 3 0)
  let s := (s.wr (ethObj p 1) 2 (1 + 2 * r)).event (portCarriage p) 0x60 p r 0
  let s := if 28 ≤ p then (s.wr (ethObj p 4) 3 0).modPdyn p fun d => { d with listenSince := s.now } else s
  s.takeWaiting p

/-! ### Pause and PFC (R134–R136) -/

/-- Some received pause or PFC holds transmission of a port. -/
def PortDyn.isStopped (d : PortDyn) : Bool := d.pauseStop.isSome || !d.pfcStop.isEmpty

/-- A change of a port's stops, with the paused time counted when the last one ends (sub 0x27). -/
def State.modStops (s : State) (p : Nat) (f : PortDyn → PortDyn) : State :=
  let before := (s.pdyn p).isStopped
  let s := s.modPdyn p f
  let after := (s.pdyn p).isStopped
  if !before && after then s.modPdyn p fun d => { d with stopSince := some s.now }
  else if before && !after then
    let since := (s.pdyn p).stopSince.getD s.now
    (s.portCount p 0x27 ((s.now - since) / 1000)).modPdyn p fun d => { d with stopSince := none }
  else s

/-- A pause time of `q` × 512 bit times in ns. -/
def State.pauseNs (s : State) (p q : Nat) : Nat := ceilDiv (q * 512 * 1000000) (s.portKbps p)

/-- The stop of a class (8 the whole port) begun, refreshed or ended by quanta `q` (R134). A refreshed stop stays continuous
(R136). -/
def State.setStop (s : State) (p c q : Nat) : State :=
  let ends := s.now + s.pauseNs p q
  s.modStops p fun d =>
    if c = 8 then
      { d with pauseStop := if q = 0 then none else some ((d.pauseStop.map Prod.fst).getD s.now, ends) }
    else
      { d with pfcStop := if q = 0 then mapDel d.pfcStop c
                          else mapSet d.pfcStop c (((mapGet d.pfcStop c).map Prod.fst).getD s.now, ends) }

/-- The present stop of a class (8 the whole port): when it began and when it ends. -/
def State.stopOf (s : State) (p c : Nat) : Option (Nat × Nat) :=
  if c = 8 then (s.pdyn p).pauseStop else mapGet (s.pdyn p).pfcStop c

/-- The end of the hold-off of a class (8 the whole port), if one runs. -/
def State.holdOf (s : State) (p c : Nat) : Option Nat :=
  if c = 8 then (s.pdyn p).pauseHold else mapGet (s.pdyn p).pfcHold c

/-- A trip of the pause watchdog (R136). -/
def State.watchdogTrip (s : State) (p c : Nat) : State :=
  let hold := s.rdF (ethObj p 3) 3 13 0
  let s := s.setStop p c 0
  let s := s.modPdyn p fun d =>
    if c = 8 then { d with pauseHold := some (s.now + hold * 1000000) }
    else { d with pfcHold := mapSet d.pfcHold c (s.now + hold * 1000000) }
  let s := (s.wrB (ethObj p 3) 4 c true).portCount p 0x26 1
  s.event (portCarriage p) 0x62 p (if c = 8 then 0xFF else c) hold

/-- A pause frame sent by the part (R135): a MAC control frame to 01:80:C2:00:00:01, opcode 1. -/
def State.sendPause (s : State) (p q : Nat) : State :=
  let s := s.emit (.pause p q)
  let s := s.portCount p (if q = 0 then 0x21 else 0x20) 1
  s.modPdyn p fun d => { d with pauseAt := s.now }

end Sys2Proof.Machine
end

