-- ==== Sys2Proof/Machine/Time.lean ====
section
/-! DEFINITION. The time unit (Chapter 12): time states and corrections (R318–R322), stamps (R323, R326), pulses (R327, R328),
triggers (R329, R330), the calendar (R331, R332) and the lifetime ledger (R333, R334); and the passing of time over the ports in
transmission. -/

namespace Sys2Proof.Machine

/-- Device time in whole ns. -/
def State.devNs (s : State) : Nat := s.time.dev / 2 ^ 48

/-! ### Passing time -/

/-- `dt` ns pass with no transmission ending: time counts, and shaped classes' credits change (R214). -/
def State.pass (s : State) (dt : Nat) : State :=
  let d0 := s.devPs
  let ports := s.shapedPorts
  (s.tick dt).forEach ports fun s p => s.creditUpdate p dt d0

/-- Time passes to `limit`; every frame whose last bit leaves by then is finished at its instant. -/
def State.runTo (s : State) (limit : Nat) : Nat → State
  | 0 => s.pass (limit - s.now)
  | n + 1 =>
    match s.nextEnd limit with
    | some (e, p) => (((s.pass (e - s.now)).finishTx p).takeMode p).runTo limit n
    | none => s.pass (limit - s.now)

/-- `dt` ns of local time pass before a command. DESIGN CHOICE, log entry 2. -/
def State.advance (s : State) (dt : Nat) : State := s.runTo (s.now + dt) 44

/-! ### Time states (R318–R321) -/

/-- FREE. -/
def tFree : Nat := 0
/-- LOCKED. -/
def tLocked : Nat := 1
/-- SLEWING. -/
def tSlewing : Nat := 2
/-- HOLDOVER. -/
def tHoldover : Nat := 3

/-- The time state (0x7000:01 [2:0]). -/
def State.timeState (s : State) : Nat := s.rdF 0x7000 1 2 0

/-- A trigger object and a pulse object. -/
def trigObj (n : Nat) : Nat := 0x7210 + n
/-- A pulse object. -/
def pulseObj (n : Nat) : Nat := 0x7200 + n

/-- A trigger's parts. -/
def State.trig (s : State) (n : Nat) : TrigDyn := mapGetD s.time.trigs n ⟨none, 0, 0, 0, 0⟩

/-- A trigger's parts set. -/
def State.setTrig (s : State) (n : Nat) (d : TrigDyn) : State := s.withTime fun t => { t with trigs := mapPut ⟨none, 0, 0, 0, 0⟩ t.trigs n d }

/-- A trigger's local period in ns of local time: its period at the rate the local counter counts at. -/
def State.trigPeriod (s : State) (n : Nat) : Nat :=
  let p := s.rdF (trigObj n) 2 29 0
  (((p : Int) * 4294967296) / (4294967296 + (s.trig n).rate)).toNat

/-- The trigger runs from its local counter (R330): the next edge stays where device time had it. -/
def State.trigLocal (s : State) (n : Nat) : State :=
  let o := trigObj n
  let p := s.rdF o 2 29 0
  let d := s.trig n
  let r := s.rateInForce
  let ph := s.rdF o 3 29 0
  let dist := if p = 0 then 0 else (p - (s.devNs + p - ph % p) % p) % p
  let next := match d.localNext with
    | some x => x
    | none => s.now + dist
  let s := (s.wr o 5 1).setTrig n { d with localNext := some next, rate := r, taken := 0 }
  s.bump o 6 1

/-- Entry into FREE switches every enabled trigger to its local counter (R330); one that realigns stops realigning. -/
def State.trigsLocal (s : State) : State :=
  s.forEach ((List.range 8).filter fun n => s.rdB (trigObj n) 1 0) fun s n =>
    if s.rdB (trigObj n) 5 0 then s.wrB (trigObj n) 5 1 false else s.trigLocal n

/-- LOCKED makes every local trigger realign (R330). -/
def State.trigsRealign (s : State) : State :=
  s.forEach ((List.range 8).filter fun n => s.rdB (trigObj n) 1 0 && s.rdB (trigObj n) 5 0) fun s n =>
    (s.wrB (trigObj n) 5 1 true).setTrig n { s.trig n with taken := 0 }

/-- A change of time state raises event 0x00D0 (R320); entry into FREE and LOCKED act on the triggers (R330). The triggers switch
before the rate changes. -/
def State.setTimeState (s : State) (new : Nat) : State :=
  let old := s.timeState
  if old = new then s
  else
    let s := s.wr 0x7000 1 (new + (if new = tLocked ∨ new = tSlewing then 8 else 0))
    let s := s.event 42 0xD0 new old 0
    if new = tFree then s.trigsLocal else if new = tLocked then s.trigsRealign else s

/-- A running slew ends with a cause of Table 12.16: event 0x00D3. -/
def State.endSlew (s : State) (cause : Nat) : State :=
  let ms := min 65535 ((s.now - s.time.slewSince) / 1000000)
  (s.event 42 0xD3 cause 0 ms).withTime fun t => { t with slew := 0 }

/-- The first start + n × period of a pulse that lies at or after `t` ns. -/
def pulseNext (start period t : Nat) : Nat :=
  if t ≤ start ∨ period = 0 then start else start + ceilDiv (t - start) period * period

/-- The programmed start of a pulse in ns. -/
def State.pulseStart (s : State) (n : Nat) : Nat :=
  let o := pulseObj n
  (s.rd o 3 + s.rdF o 4 15 0 * 2 ^ 32) * 1000000000 + s.rd o 2

/-- A pulse's parts. -/
def State.pulse (s : State) (n : Nat) : PulseDyn := mapGetD s.time.pulses n ⟨none, 0⟩

/-- A pulse's parts set. -/
def State.setPulse (s : State) (n : Nat) (d : PulseDyn) : State := s.withTime fun t => { t with pulses := mapPut ⟨none, 0⟩ t.pulses n d }

/-- One edge of a pulse (R327): a periodic pulse goes on, a once pulse clears its enable. -/
def State.pulseFire (s : State) (n : Nat) : State :=
  let o := pulseObj n
  let d := s.pulse n
  let s := s.emit (.pulse n)
  let busy := s.now + s.rdF o 6 29 0
  if s.rdB o 1 1 then s.setPulse n ⟨d.next.map (· + s.rdF o 5 29 0), busy⟩
  else (s.setPulse n ⟨none, busy⟩).wrB o 1 0 false

/-- A step of device time over the pulses (Table 12.9): a periodic one takes the first edge after the new time, an armed once
pulse that a forward step passed fires late with event 0x00D5. -/
def State.pulsesStep (s : State) : State :=
  s.forEach ((List.range 16).filter fun n => s.rdB (pulseObj n) 1 0) fun s n =>
    let o := pulseObj n
    let d := s.pulse n
    if s.rdB o 1 1 then s.setPulse n ⟨some (pulseNext (s.pulseStart n) (s.rdF o 5 29 0) (s.devNs + 1)), d.busyUntil⟩
    else
      match d.next with
      | some t => if t ≤ s.devNs then ((s.pulseFire n).wr o 7 1).event 42 0xD5 n 0 0 else s
      | none => s

/-- A step of device time over the gates: a pending change whose T is passed takes effect (R217). -/
def State.gatesStep (s : State) : State :=
  s.forEach (s.tm.ports.map Prod.fst) fun s p =>
    match (s.ptm p).gatePending with
    | some t => if t ≤ s.devNs then s.gateTakeOver p else s
    | none => s

/-- Every count of a second restarts (R505); `next` tells whether the second that ended is the one before the new one. -/
def State.newSecond (s : State) (next : Bool) : State :=
  let keep := fun n => if next then n else 0
  { s with
    time := { s.time with secondMark := s.clockNow.1 }
    buf := { s.buf with residueEvents := 0 }
    route := { s.route with failPrev := keep s.route.failThis, failThis := 0 }
    tm := { s.tm with noticesThisSecond := 0 }
    fw := { s.fw with raised := 0 }
    crypto := { s.crypto with failEvents := 0 }
    gw := { s.gw with events := 0 }
    eth := { s.eth with ports := s.eth.ports.map fun x =>
      (x.1, { x.2 with conflicts := 0, conflictsPrev := keep x.2.conflicts, conflictRaised := false }) }
    chan := s.chan.map fun x => (x.1, { x.2 with overruns := 0, overrunsPrev := keep x.2.overruns, overTold := false, slotTold := false }) }

/-- A whole second of device time, or of calendar time while the time unit is away, begins (R505, R322). -/
def State.secondStart (s : State) : State :=
  let sec := s.clockNow.1
  if sec = s.time.secondMark then s else s.newSecond (sec == s.time.secondMark + 1)

/-- Device time stepped by an offset in units of 2^-16 ns; the step ends the second in progress (R505). -/
def State.stepTime (s : State) (o : Int) : State :=
  let s := s.withTime fun t => { t with dev := ((t.dev : Int) + o * 2 ^ 32).toNat }
  (s.newSecond true).pulsesStep.gatesStep

/-- |O| in whole µs, saturating (R335). -/
def offsetUs (o : Int) : Nat := min 65535 (o.natAbs / 65536 / 1000)

/-- The apply of R319 with offset `o` (2^-16 ns) and rate `r` (2^-32). -/
def State.applyTime (s : State) (o r : Int) : State :=
  let st := s.timeState
  let s := s.withTime fun t => { t with applied := s.now }
  let dir := if 0 < o then 1 else 0
  if st = tFree then
    let s := (s.stepTime o).withTime fun t => { t with rate := r, slew := 0 }
    let s := (s.bump 0x7000 8 1).event 42 0xD1 dir 0 (offsetUs o)
    s.setTimeState tLocked
  else
    let th := s.rd 0x7000 3
    let big := decide (th * 65536 < o.natAbs)
    let was := decide (s.time.slew ≠ 0) || st == tSlewing
    let s := s.withTime fun t => { t with rate := r }
    if big then
      let s := (s.withTime fun t => { t with slew := o * 2 ^ 32, slewSince := if was then t.slewSince else s.now }).setTimeState tSlewing
      if was then s else s.event 42 0xD2 dir 0 (offsetUs o)
    else
      let s := s.setTimeState tLocked
      if was then s.endSlew 0 else s.withTime fun t => { t with slew := 0 }

/-- Loss declared, or the loss limit passed (R320): FREE. Nothing changes in FREE (Table 12.3). -/
def State.declareLoss (s : State) : State :=
  if s.timeState = tFree then s
  else
    let s1 := s.setTimeState tFree
    if s.timeState = tSlewing then s1.endSlew 2 else s1

/-- The holdover limit has passed without an apply (R320). -/
def State.enterHoldover (s : State) : State :=
  let slewing := s.timeState == tSlewing
  let s := (s.setTimeState tHoldover).withTime fun t => { t with holdSince := s.now }
  if slewing then s.endSlew 1 else s

/-- The remaining slew has reached 0 (R319). -/
def State.slewDone (s : State) : State := (s.setTimeState tLocked).endSlew 0

/-- The time unit returns to PRESENT, or the part wakes from DEEP_SLEEP: device time from the calendar, rate and slew 0, FREE
(R322). -/
def State.timeUnitReturn (s : State) : State :=
  let c := s.calNow
  let s := s.setTimeState tFree
  let s := s.withTime fun t => { t with dev := c * 1000000000 * 2 ^ 48 / 32768, rate := 0, slew := 0 }
  s.pulsesStep.gatesStep

/-! ### Triggers -/

/-- The first device time after `last` ns at which a trigger's edge falls (R329). -/
def trigDue (period phase last : Nat) : Nat :=
  if period = 0 then last else last + period - (last + period - phase % period) % period

/-- One edge of a trigger put out. -/
def State.trigFire (s : State) (n : Nat) : State :=
  (s.emit (.trigger n)).setTrig n { s.trig n with busyUntil := s.now + s.rdF (trigObj n) 4 29 0 }

/-- A trigger edge falls due (R329, R330): on device time, or on the local counter with its realignment. -/
def State.trigEdge (s : State) (n : Nat) : State :=
  let o := trigObj n
  let period := s.rdF o 2 29 0
  let phase := s.rdF o 3 29 0
  let d := s.trig n
  if !s.rdB o 1 0 || period == 0 then s
  else if s.rdB o 5 0 then
    match d.localNext with
    | none => s
    | some t =>
      if s.now < t then s
      else
        let s := s.trigFire n
        let e := (s.devNs + period - phase % period) % period
        if s.rdB o 5 1 then
          if e < 5 then
            let s := (s.wr o 5 0).setTrig n { s.trig n with localNext := none, lastDev := s.devNs - e }
            s.event 42 0xD4 n 0 (min 65535 (d.taken + 1))
          else
            let lim := period * s.rdF o 1 14 8 / 1000
            let p := if 2 * e < period then period - min e lim else period + min (period - e) lim
            s.setTrig n { s.trig n with localNext := some (t + p), taken := d.taken + 1 }
        else s.setTrig n { s.trig n with localNext := some (t + s.trigPeriod n) }
  else
    let due := trigDue period phase d.lastDev
    if due ≤ s.devNs then (s.trigFire n).setTrig n { (s.trigFire n).trig n with lastDev := s.devNs } else s

/-- A write of a trigger's enable takes effect: in FREE it runs from its local counter. -/
def State.trigEnable (s : State) (n : Nat) : State :=
  if s.timeState = tFree then s.trigLocal n
  else (s.wr (trigObj n) 5 0).setTrig n { s.trig n with localNext := none, lastDev := s.devNs }

/-! ### Calendar and lifetime (R331–R334) -/

/-- The calendar is valid (0x7300:02 [31]). -/
def State.calValid (s : State) : Bool := s.rdB 0x7300 2 31

/-- The calendar written with device time (R331). -/
def State.calWrite (s : State) : State :=
  let c := s.time.dev * 32768 / devSecond
  (s.withTime fun t => { t with cal := c, calAt := s.now, calHour := t.dev / devSecond / 3600 }).wrB 0x7300 2 31 true

/-- The lifetime record committed (R333). -/
def State.lifeCommit (s : State) : State :=
  let l := { s.time.live with generation := s.time.live.generation + 1, mramCommits := s.time.live.mramCommits + 1,
                              lastDev := s.clockNow.1 }
  (s.withTime fun t => { t with live := l, stored := some l, lifeAt := s.now }).bump 0x7401 1 1

/-- A junction temperature measured, in 0.1 °C: the thermal cycle of R334 and the extremes of Table 12.14. -/
def State.measureTemp (s : State) (temp : Int) : State :=
  s.withTime fun t =>
    let l := t.live
    let hot := decide (800 ≤ temp) && t.thermalArmed
    { t with
      temp := temp, thermalArmed := if hot then false else if temp ≤ 200 then true else t.thermalArmed,
      live := { l with thermal := if hot then (l.thermal + 1) % 2 ^ 32 else l.thermal, high := max l.high temp, low := min l.low temp } }

/-- The lifetime record as the window 0x7400 shows it (Table 12.14). -/
def lifeBytes (l : LifeRec) (losses : Nat) : List Byte :=
  let sec := 1000000000
  let body := leBytes 4 l.generation ++ leBytes 8 (l.runNs / sec) ++ leBytes 8 (l.sleepNs / sec) ++ leBytes 8 (l.deepNs / sec)
    ++ leBytes 8 l.offSec ++ leBytes 4 l.powerCycles ++ leBytes 4 l.brownOuts ++ leBytes 4 l.thermal
    ++ leBytes 2 (unsigned 16 l.high) ++ leBytes 2 (unsigned 16 l.low)
    ++ ((List.range 8).flatMap fun k => leBytes 8 (mapGetD l.hist k 0 / sec))
    ++ leBytes 8 l.mramCommits ++ leBytes 4 l.maxGen
    ++ ((List.range 44).flatMap fun k => leBytes 8 (mapGetD l.linkNs k 0 / sec))
    ++ ((List.range 9).flatMap fun k => leBytes 8 (mapGetD l.trips k 0))
    ++ ((List.range 3).flatMap fun k => leBytes 4 (mapGetD l.grades k 0))
    ++ leBytes 6 l.firstOn ++ leBytes 6 l.lastDev ++ leBytes 4 losses ++ fill 1456 0
  body ++ leBytes 4 (crc32c body)

/-- A start-up with the calendar not valid (R332): device time and the calendar from the ledger's last device seconds, the loss
counted, event 0x00D6. -/
def State.calLost (s : State) : State :=
  let sec := (s.time.stored.map fun l => l.lastDev).getD 0
  let s := s.withTime fun t =>
    { t with cal := sec * 32768, calAt := s.now, dev := sec * devSecond, live := { t.live with calLosses := t.live.calLosses + 1 } }
  (s.bump 0x7300 3 1).event 42 0xD6 0 0 0

end Sys2Proof.Machine
end

