-- ==== Sys2Proof/Machine/Keys.lean ====
section
/-! DEFINITION. The key store (Chapter 11): the hierarchy and its derivations (R279–R284), the ledger (R289–R293), revocation
(R286), import (R295–R297), attestation (R298, R299), the life-cycle state (R300). What a revocation does in the cipher clusters
is in Crypto.lean. -/

namespace Sys2Proof.Machine

/-- The key part of the state changed. -/
def State.withKey (s : State) (f : KeyState → KeyState) : State := { s with key := f s.key }

/-! ### Life-cycle state (R300) -/

/-- The life-cycle code of the fuses: the highest of BRONZE, STEEL, PEWTER, SLAG with a fuse of its pair blown, else BRASS. -/
def lifeOf (fuses : Nat) : Nat :=
  if fld fuses 7 6 ≠ 0 then 5 else if fld fuses 5 4 ≠ 0 then 4 else if fld fuses 3 2 ≠ 0 then 3 else if fld fuses 1 0 ≠ 0 then 2 else 1

/-- The present life-cycle code. -/
def State.life (s : State) : Nat := lifeOf s.key.fuses

/-- Debug is open in BRASS, BRONZE and PEWTER (Table 11.10). -/
def debugOpen (code : Nat) : Bool := code == 1 || code == 2 || code == 4

/-! ### Derivation (R281–R283) -/

/-- The SP 800-108 counter-mode output of `n` iterations of CMAC under a key, as one number; `msg` gives the input of each. -/
def kdfRun (keyBits key : Nat) (msg : Nat → List Byte) : Nat → Nat
  | 0 => 0
  | n + 1 => kdfRun keyBits key msg n * 2 ^ 128 + Config.cmac keyBits key (msg (n + 1)) % 2 ^ 128

/-- The input of Table 10.2. -/
def kdfInput (label : List Byte) (kind num bits i : Nat) : List Byte :=
  beBytes 4 i ++ sliceZ label 0 16 ++ fill 1 0 ++ beBytes 1 kind ++ beBytes 2 num ++ beBytes 4 Config.serial ++ beBytes 4 bits

/-- A derivation of `bits` bits with the layout of Table 10.2. -/
def kdf (keyBits key : Nat) (label : List Byte) (kind num bits : Nat) : Nat :=
  kdfRun keyBits key (kdfInput label kind num bits) (bits / 128)

/-- The input of Table 11.2, for the epoch key ("KX9612-EPOCH") and the DIK seed ("KX9612-DIKEY"). -/
def epochInput (label : List Byte) (life : Nat) (measurement : List Byte) (bits i : Nat) : List Byte :=
  beBytes 4 i ++ label ++ fill 1 0 ++ beBytes 1 life ++ sliceZ measurement 0 48 ++ beBytes 4 Config.serial ++ beBytes 4 bits

/-- The label "KX9612-EPOCH". -/
def epochLabel : List Byte := [0x4B, 0x58, 0x39, 0x36, 0x31, 0x32, 0x2D, 0x45, 0x50, 0x4F, 0x43, 0x48]

/-- The label "KX9612-DIKEY". -/
def dikLabel : List Byte := [0x4B, 0x58, 0x39, 0x36, 0x31, 0x32, 0x2D, 0x44, 0x49, 0x4B, 0x45, 0x59]

/-- The epoch key (R281). -/
def epochKey (life : Nat) (measurement : List Byte) : Nat :=
  kdfRun 256 Config.deviceRoot (epochInput epochLabel life measurement 256) 2

/-- The DIK seed (R283). -/
def dikSeed : Nat := kdfRun 256 Config.deviceRoot (epochInput dikLabel 0 [] 512) 4

/-- The IK seed (Table 11.3). -/
def State.ikSeed (s : State) : Nat := kdf 256 s.key.epoch [] 7 0 512

/-! ### Handles (R279) -/

/-- A configured handle's pair number. -/
def configured? (h : Nat) : Option Nat := if 0x0400 ≤ h ∧ h ≤ 0x05FF then some (h - 0x0400) else none

/-- A handle is a session handle. -/
def isSessHandle (h : Nat) : Bool := 0x0600 ≤ h && h ≤ 0x07FF

/-- A key pair; an unlisted one is empty, generation 0. -/
def State.pair (s : State) (k : Nat) : KeyPair := mapGetD s.key.pairs k ⟨.empty, none⟩

/-- The slot in force of a configured handle. -/
def State.slotOf (s : State) (h : Nat) : KeySlot := (s.pair (h - 0x0400)).cur

/-- A 128-bit key is the first 16 of its 32 bytes (R284). -/
def keyCut (wide : Bool) (v : Nat) : Nat := if wide then v % 2 ^ 256 else v % 2 ^ 256 / 2 ^ 128

/-- The value and length of the key of a handle: none where it is empty, revoked, or cannot be derived. -/
def State.keyValue (s : State) : Nat → Nat → Option (Nat × Nat)
  | 0, _ => none
  | n + 1, h =>
    if s.life = 5 ∧ ¬isSessHandle h then none
    else if h = 1 then some (s.key.epoch, 256)
    else if 0x0100 ≤ h ∧ h ≤ 0x013F then some (kdf 256 s.key.epoch [] 4 (h - 0x0100) 256, 256)
    else if isSessHandle h then
      match mapGet s.key.sess h with
      | some k => if k.revoked then none else some (k.value, if k.wide then 256 else 128)
      | none => none
    else
      match configured? h with
      | none => none
      | some p =>
        let k := (s.pair p).cur
        let bits := if k.wide then 256 else 128
        if k.source = 0 ∨ k.revoked then none
        else if k.source = 1 then
          match s.keyValue n k.parent with
          | some (v, b) => some (kdf b v k.label 6 h bits, bits)
          | none => none
        else some (keyCut k.wide k.value, bits)

/-- The key of a handle (a chain of parents is never longer than the ledger). -/
def State.keyOf (s : State) (h : Nat) : Option (Nat × Nat) := s.keyValue 514 h

/-- The kind of a handle's key: 0 derivation, 1 association, 2 CAK, 3 none (Table 11.1). -/
def State.kindOf (s : State) (h : Nat) : Nat :=
  if h = 1 ∨ (0x0100 ≤ h ∧ h ≤ 0x013F) then 0
  else if isSessHandle h then (if (mapGet s.key.sess h).isSome then 1 else 3)
  else if (configured? h).isSome then (if (s.slotOf h).source = 0 then 3 else (s.slotOf h).kind)
  else 3

/-- The check value of a key: leftmost 4 bytes of the CMAC of 16 zero bytes under it (Table 11.11), 0 where it has none. -/
def State.checkValue (s : State) (h : Nat) : Nat :=
  match s.keyOf h with
  | some (v, b) => Config.cmac b v (fill 16 0) % 2 ^ 128 / 2 ^ 96
  | none => 0

/-! ### The ledger (R290–R293) -/

/-- A migration is open (0x8040:04 [16]). -/
def State.migrating (s : State) : Bool := s.rdB 0x8040 4 16

/-- Commit words written: counted here and in the lifetime record (Table 12.14). -/
def State.countCommit (s : State) (n gen : Nat) : State :=
  (s.bump 0x8040 1 n).withTime fun t =>
    { t with live := { t.live with mramCommits := t.live.mramCommits + n, maxGen := max t.live.maxGen gen } }

/-- A key record written at the next generation (R291): the older slot is zeroed unless a migration is open. -/
def State.writePair (s : State) (k : Nat) (slot : KeySlot) : State :=
  let old := (s.pair k).cur
  let new := { slot with gen := old.gen + 1, sealedBy := s.key.epoch }
  let s := s.withKey fun x => { x with pairs := mapPut ⟨.empty, none⟩ x.pairs k ⟨new, if s.migrating then some old else none⟩ }
  s.countCommit 1 new.gen

/-- Key pairs in use (0x8040:04 [9:0]). -/
def State.pairsInUse (s : State) : Nat := (s.key.pairs.filter fun p => p.2.cur.source != 0).length

/-- The handles that descend from a handle of the list, one generation. -/
def State.children (s : State) (hs : List Nat) : List Nat :=
  (s.key.pairs.filter fun p => p.2.cur.source == 1 && !p.2.cur.revoked && hs.contains p.2.cur.parent
    && !hs.contains (p.1 + 0x0400)).map fun p => p.1 + 0x0400

/-- A list of handles with every configured key derived from them, directly or through others, and every session key of a CAK
among them (R286). -/
def State.closure (s : State) : Nat → List Nat → List Nat
  | 0, hs => hs
  | n + 1, hs =>
    match s.children hs with
    | [] => hs ++ (s.key.sess.filter fun k => hs.contains k.2.cak && !hs.contains k.1).map Prod.fst
    | cs => s.closure n (hs ++ cs)

/-- The records of revoked handles rewritten, with their key material zeroed (R286). -/
def State.revokeHandles (s : State) (hs : List Nat) : State :=
  s.forEach hs fun s h =>
    if isSessHandle h then
      s.withKey fun x => { x with sess := x.sess.map fun k => if k.1 = h then (k.1, { k.2 with revoked := true, value := 0, gen := k.2.gen + 1 }) else k }
    else
      match configured? h with
      | some k =>
        let c := (s.pair k).cur
        if c.source = 0 then s else s.writePair k { c with revoked := true, value := 0 }
      | none => s

/-! ### Key actions (Table 11.5) -/

/-- The answer of a key action: its status, its import reason, the handles whose key changed, the handles revoked. -/
structure KeyAnswer where
  status : Nat
  reason : Nat
  changed : List Nat
  revoked : List Nat
  deriving DecidableEq, Repr

/-- A refused action. -/
def keyRefused (status reason : Nat) : KeyAnswer := ⟨status, reason, [], []⟩

/-- Define (action 1). -/
def State.keyDefine (s : State) (h parent kind : Nat) (wide : Bool) (label : List Byte) : KeyAnswer × State :=
  match configured? h with
  | none => (keyRefused 3 0, s)
  | some k =>
    if (s.pair k).cur.source ≠ 0 then (keyRefused 3 0, s)
    else if s.kindOf parent ≠ 0 ∨ (s.keyOf parent).isNone then (keyRefused 4 0, s)
    else (⟨0, 0, [h], []⟩, s.writePair k ⟨0, 1, kind, wide, false, parent, (s.pair k).cur.counter, sliceZ label 0 16, 0, 0⟩)

/-- Generate (action 2): 32 bytes from the DRBG. DESIGN CHOICE, log entry 24. -/
def State.keyGenerate (s : State) (h kind : Nat) (wide : Bool) : KeyAnswer × State :=
  match configured? h with
  | none => (keyRefused 3 0, s)
  | some k =>
    if (s.pair k).cur.source ≠ 0 then (keyRefused 3 0, s)
    else if s.key.noEntropy then (keyRefused 6 0, s)
    else
      let (v, s) := s.draw
      (⟨0, 0, [h], []⟩, s.writePair k ⟨0, 2, kind, wide, false, 0, (s.pair k).cur.counter, [], v, 0⟩)

/-- The identifier of the present IK (Table 11.9a bytes 12–19). -/
def State.ikIdentifier (s : State) : List Byte := (Config.sha384 (Config.publicKey s.ikSeed)).take 8

/-- The checks of an import blob (Table 11.9): the reason of the first failure, or the key. -/
def State.importCheck (s : State) (h : Nat) (b : List Byte) : Nat × Option Nat :=
  let kind := byteAt b 1
  let wide := byteAt b 2
  let wrapped := (b.drop 120).take (if wide = 1 then 40 else 24)
  if byteAt b 0 ≠ 1 ∨ kind = 0 ∨ 3 < kind ∨ 1 < wide ∨ byteAt b 3 ≠ 0 ∨ beAt b 117 3 ≠ 0
      ∨ (wide = 0 ∧ beAt b 144 16 ≠ 0) ∨ beAt b 6 2 = 0 ∨ beAt b 4 2 ≠ h then (1, none)
  else if beAt b 8 4 ≠ Config.serial then (2, none)
  else if sliceZ b 12 8 ≠ s.ikIdentifier then (3, none)
  else
    let c := s.slotOf h
    if ¬(c.source = 0 ∨ (c.source = 3 ∧ ¬c.revoked)) then (4, none)
    else if beAt b 6 2 ≤ c.counter then (5, none)
    else
      match Config.importWrapKey s.ikSeed (sliceZ b 20 97) (b.take 20) with
      | none => (6, none)
      | some z =>
        match Config.keyUnwrap z wrapped with
        | none => (7, none)
        | some v => (0, some (if wide = 1 then beVal (sliceZ v 0 32) else beVal (sliceZ v 0 16) * 2 ^ 128))

/-- Import (action 3): the blob of window 0x8012 (R295–R297), event 0x00C4 where it is refused. -/
def State.keyImport (s : State) (h : Nat) : KeyAnswer × State :=
  match configured? h with
  | none => (keyRefused 3 0, s)
  | some k =>
    let b := s.winBytes 0x8012 0 0 160
    match s.importCheck h b with
    | (_, some v) =>
      (⟨0, 0, [h], []⟩, s.writePair k ⟨0, 3, byteAt b 1 - 1, byteAt b 2 == 1, false, 0, beAt b 6 2, [], v, 0⟩)
    | (r, none) => (keyRefused 5 r, s.event 46 0xC4 r 0 h)

/-- Rotate (action 4). -/
def State.keyRotate (s : State) (h : Nat) : KeyAnswer × State :=
  match configured? h with
  | none => (keyRefused 3 0, s)
  | some k =>
    let c := (s.pair k).cur
    if c.source ≠ 2 ∨ c.revoked then (keyRefused 3 0, s)
    else if s.key.noEntropy then (keyRefused 6 0, s)
    else
      let (v, s) := s.draw
      (⟨0, 0, [h], []⟩, s.writePair k { c with value := v })

/-- Revoke (action 5, R286). -/
def State.keyRevoke (s : State) (h : Nat) : KeyAnswer × State :=
  let held := if isSessHandle h then (mapGet s.key.sess h).isSome
    else match configured? h with
      | some k => (s.pair k).cur.source != 0
      | none => false
  if held then
    let hs := s.closure 514 [h]
    (⟨0, 0, [], hs⟩, s.revokeHandles hs)
  else (keyRefused 3 0, s)

/-- Delete (action 6): the record empty, its import counter kept. -/
def State.keyDelete (s : State) (h : Nat) : KeyAnswer × State :=
  match configured? h with
  | none => (keyRefused 3 0, s)
  | some k =>
    let c := (s.pair k).cur
    if c.source ≠ 0 ∧ c.revoked then (⟨0, 0, [], []⟩, s.writePair k { KeySlot.empty with counter := c.counter, gen := c.gen })
    else (keyRefused 3 0, s)

/-- The sealed pairs: sources 2 and 3. -/
def State.sealedPairs (s : State) : List (Nat × KeyPair) :=
  s.key.pairs.filter fun p => (p.2.cur.source == 2 || p.2.cur.source == 3) && !p.2.cur.revoked

/-- Reseal (action 7, R293): every sealed pair at the next generation under the successor's epoch key, the older slot kept. -/
def State.keyReseal (s : State) (h : Nat) (measurement : List Byte) : KeyAnswer × State :=
  if h ≠ 0 then (keyRefused 3 0, s)
  else
    let succ := epochKey s.life measurement
    let s := (s.wrB 0x8040 4 16 true).withKey fun x => { x with successor := succ }
    (⟨0, 0, [], []⟩, s.forEach s.sealedPairs fun s p =>
      let c := p.2.cur
      (s.withKey fun x => { x with pairs := mapSet x.pairs p.1 ⟨{ c with gen := c.gen + 1, sealedBy := succ }, some c⟩ }).countCommit 1 (c.gen + 1))

/-- Close migration (action 8, R293): every sealed pair keeps the slot that the epoch key in force unseals. -/
def State.keyClose (s : State) (h : Nat) : KeyAnswer × State :=
  if h ≠ 0 ∨ !s.migrating then (keyRefused 3 0, s)
  else
    let s := s.forEach s.key.pairs fun s p =>
      match p.2.older with
      | none => s
      | some o =>
        let c := p.2.cur
        if c.revoked ∨ c.sealedBy = s.key.epoch then s.withKey fun x => { x with pairs := mapSet x.pairs p.1 ⟨c, none⟩ }
        else
          (s.withKey fun x => { x with pairs := mapSet x.pairs p.1 ⟨{ o with gen := c.gen + 1, sealedBy := s.key.epoch }, none⟩ }).countCommit 1 (c.gen + 1)
    (⟨0, 0, [], []⟩, (s.wrB 0x8040 4 16 false).withKey fun x => { x with successor := 0 })

/-- Recovery of the ledger at start-up under the epoch key in force (R292): a sealed slot that no longer unseals is rewritten
empty with its import counter kept, unless a migration is open, when the slot that unseals is the one used. Event 0x00C3. -/
def State.recoverLedger (s : State) : State :=
  let e := s.key.epoch
  let lost := s.sealedPairs.filter fun p => p.2.cur.sealedBy != e
  let s := if s.migrating then
      s.forEach lost fun s p =>
        match p.2.older with
        | some o => s.withKey fun x => { x with pairs := mapSet x.pairs p.1 ⟨o, some p.2.cur⟩ }
        | none => s
    else
      s.forEach lost fun s p =>
        s.writePair p.1 { KeySlot.empty with counter := p.2.cur.counter, gen := p.2.cur.gen }
  let n := if s.migrating then 0 else min 255 lost.length
  let s := s.wr 0x8040 2 (n * 256)
  s.event 46 0xC3 0 n 0

/-! ### The key table and statements (Table 11.11) -/

/-- The handle of a record of the key table (0x8011). -/
def tableHandle (r : Nat) : Nat :=
  if r = 0 then 1 else if r ≤ 64 then 0x0100 + (r - 1) else if r ≤ 576 then 0x0400 + (r - 65) else 0x0600 + (r - 577)

/-- Source code of a handle in the key table: 0 empty, 1–3 of its slot, 4 session, 5 fixed. -/
def State.sourceOf (s : State) (h : Nat) : Nat :=
  if h = 1 ∨ (0x0100 ≤ h ∧ h ≤ 0x013F) then 5
  else if isSessHandle h then (if (mapGet s.key.sess h).isSome then 4 else 0)
  else (s.slotOf h).source

/-- A configured or session handle's attributes: kind, 256-bit, revoked. -/
def State.attrOf (s : State) (h : Nat) : Nat :=
  if h = 1 ∨ (0x0100 ≤ h ∧ h ≤ 0x013F) then 4
  else if isSessHandle h then
    match mapGet s.key.sess h with
    | some k => 1 + 4 * k.wide.toNat + 8 * k.revoked.toNat
    | none => 0
  else
    let c := s.slotOf h
    if c.source = 0 then 0 else c.kind + 4 * c.wide.toNat + 8 * c.revoked.toNat

/-- A handle's generation. -/
def State.genOf (s : State) (h : Nat) : Nat :=
  if isSessHandle h then ((mapGet s.key.sess h).map fun k => k.gen).getD 0
  else if (configured? h).isSome then (s.slotOf h).gen else 0

/-- A record of the key table; `held` tells whether the clusters hold a key of the handle. -/
def State.keyRecord (s : State) (r : Nat) (held : Bool) : List Byte :=
  let h := tableHandle r
  let c := if (configured? h).isSome then s.slotOf h else .empty
  leBytes 2 h ++ leBytes 1 (s.sourceOf h) ++ leBytes 1 (s.attrOf h + 16 * held.toNat) ++ leBytes 4 (s.genOf h) ++ leBytes 2 c.parent
    ++ leBytes 2 c.counter ++ sliceZ c.label 0 16 ++ beBytes 4 (s.checkValue h)

/-- A statement of Table 11.11, without its signature. -/
def State.statementBody (s : State) (kind h : Nat) (split : Bool) : List Byte :=
  let key := kind == 1
  let t := s.clockNow
  let src := if key then s.sourceOf h else 0
  beBytes 1 1 ++ beBytes 1 kind ++ beBytes 1 s.life
    ++ beBytes 1 ((debugOpen s.life).toNat + 2 * s.rdF 0x8030 3 0 0 + 4 * split.toNat)
    ++ beBytes 4 Config.serial ++ beBytes 4 0x9612 ++ beBytes 2 (if key then h else 0) ++ beBytes 1 src
    ++ beBytes 1 (if key then s.attrOf h + 64 + (if src = 2 then 128 else 0) else 0)
    ++ beBytes 4 (if key then s.genOf h else 0)
    ++ (if key && src == 1 then sliceZ (s.slotOf h).label 0 16 else fill 16 0)
    ++ sliceZ s.key.measurement 0 48 ++ s.winBytes 0x8020 2 0 32 ++ beBytes 6 t.1 ++ beBytes 4 t.2
    ++ beBytes 4 (if key then s.checkValue h else 0) ++ fill 14 0
    ++ (if kind = 2 then sliceZ (Config.publicKey s.ikSeed) 0 97 else if kind = 3 then sliceZ (Config.publicKey dikSeed) 0 97 else fill 97 0)
    ++ fill 3 0

/-- A signed statement (R298). -/
def State.statement (s : State) (kind h : Nat) (split : Bool) : List Byte :=
  let b := s.statementBody kind h split
  b ++ sliceZ (Config.sign dikSeed (Config.sha384 b)) 0 96

end Sys2Proof.Machine
end

