-- ==== Sys2Proof/Machine/Crypto.lean ====
section
/-! DEFINITION. The crypto data path (Chapter 10): dispatch and suspension (R258, R259), working keys (R260–R262), revocation
in the clusters (R263), MACsec (R265–R269), CANsec (R270), authenticators (R271–R274). A record is named by one number: SA
record n by n, authenticator record n by 1,024 + n. -/

namespace Sys2Proof.Machine

/-- The crypto part of the state changed. -/
def State.withCrypto (s : State) (f : CryptoState → CryptoState) : State := { s with crypto := f s.crypto }

/-! ### Records -/

/-- SA record field of `n` bytes at `off` (Table 10.5). -/
def State.sa (s : State) (r off n : Nat) : Nat := s.winLe 0x8111 0 (64 * r + off) n

/-- SA status field (window 0x8112). -/
def State.saStat (s : State) (r off n : Nat) : Nat := s.winLe 0x8112 0 (32 * r + off) n

/-- Authenticator record field (Table 10.7). -/
def State.au (s : State) (r off n : Nat) : Nat := s.winLe 0x8130 0 (32 * r + off) n

/-- Authenticator state field (Table 10.8). -/
def State.auStat (s : State) (r off n : Nat) : Nat := s.winLe 0x8131 0 (32 * r + off) n

/-- The parent, label, record kind, number and key length of a record (Table 10.2). -/
def State.recKey (s : State) (id : Nat) : Nat × List Byte × Nat × Nat × Nat :=
  if id < 1024 then
    let use := s.sa id 0 1
    let wide := if use ≤ 2 then (let suite := s.winB 0x8110 0 (24 * s.sa id 1 1 + 1); suite == 1 || suite == 3) else false
    (s.sa id 4 2, s.winBytes 0x8111 0 (64 * id + 8) 16, if use ≤ 2 then 1 else 2, id, if wide then 256 else 128)
  else
    let r := id - 1024
    (s.au r 4 2, s.winBytes 0x8130 0 (32 * r + 8) 16, 3, r, if tb (s.au r 1 1) 2 then 256 else 128)

/-- A record is in use and enabled. -/
def State.recEnabled (s : State) (id : Nat) : Bool :=
  if id < 1024 then s.sa id 0 1 != 0 && tb (s.sa id 2 1) 2 else s.au (id - 1024) 0 1 != 0 && tb (s.au (id - 1024) 1 1) 0

/-- The flags byte of a record's status: key held, revoked, failure. -/
def flagAt (id : Nat) : Nat × Nat := if id < 1024 then (0x8112, 32 * id + 24) else (0x8131, 32 * (id - 1024) + 24)

/-- A flag of a record. -/
def State.recFlag (s : State) (id b : Nat) : Bool := tb (s.winB (flagAt id).1 0 (flagAt id).2) b

/-- A flag of a record set or cleared. -/
def State.setFlag (s : State) (id b : Nat) (v : Bool) : State :=
  s.setWinB (flagAt id).1 0 (flagAt id).2 (setBit (s.winB (flagAt id).1 0 (flagAt id).2) b v)

/-- All enabled records, SA then authenticator. -/
def State.enabledRecs (s : State) : List Nat :=
  ((s.listedRecs 0x8111 0 64 0) ++ (s.listedRecs 0x8130 0 32 0).map (· + 1024)).filter s.recEnabled

/-- The working key of a record (R260, R261): derived from a derivation parent, taken from an association parent. -/
def State.workingKey (s : State) (id : Nat) : Option Nat :=
  let (parent, label, kind, num, bits) := s.recKey id
  match s.keyOf parent with
  | none => none
  | some (v, b) =>
    if s.kindOf parent = 0 then some (kdf b v label kind num bits)
    else if s.kindOf parent = 1 then some (if b = 256 ∧ bits = 128 then v / 2 ^ 128 else v)
    else none

/-- A label and a parent fit (R261, R284): a derivation parent takes a label that is not zero, an association parent a zero one; a
CAK is refused; an empty handle is accepted (R312). -/
def State.labelFits (s : State) (parent : Nat) (label : List Byte) : Bool :=
  let zero := label.all fun b => b == 0
  match s.kindOf parent with
  | 0 => !zero
  | 1 => zero
  | 2 => false
  | _ => true

/-! ### Key caches (R262) -/

/-- The key of a cache: cluster × 8,192 + record. -/
def cacheKey (cluster id : Nat) : Nat := cluster * 8192 + id

/-- A record's derivation asked for in all five clusters. -/
def State.askKeys (s : State) (id : Nat) : State :=
  s.withCrypto fun c =>
    let new := (List.range 5).map fun k => cacheKey k id
    { c with derive_ := (c.derive_.filter fun x => !new.contains x) ++ new, keys := c.keys.filter fun x => x.1 % 8192 != id }

/-- A record's key erased from every cache. -/
def State.dropKeys (s : State) (id : Nat) : State :=
  s.withCrypto fun c => { c with derive_ := c.derive_.filter fun x => x % 8192 != id, keys := c.keys.filter fun x => x.1 % 8192 != id }

/-- The handle is the record's parent, or an ancestor of it. -/
def State.descends (s : State) (h : Nat) : Nat → Nat → Bool
  | 0, _ => false
  | n + 1, p =>
    p == h || ((configured? p).isSome && (s.slotOf p).source == 1 && s.descends h n (s.slotOf p).parent)

/-- The generation of a handle changed: the keys of the enabled records under it are derived again (R262). -/
def State.rederive (s : State) (h : Nat) : State :=
  s.forEach (s.enabledRecs.filter fun id => !s.recFlag id 1 && s.descends h 514 (s.recKey id).1) State.askKeys

/-- The keys of some record of a handle stand in a cache. -/
def State.heldInClusters (s : State) (h : Nat) : Bool :=
  s.crypto.keys.any fun k => s.descends h 514 (s.recKey (k.1 % 8192)).1

/-! ### Failures and events (R264, R276) -/

/-- Event 0x00B0 under its cap (R276). -/
def State.failEvent (s : State) (cluster kind port rec_ : Nat) : State :=
  if s.crypto.failEvents < 1000 then
    (s.event (23 + cluster) 0xB0 kind port rec_).withCrypto fun c => { c with failEvents := c.failEvents + 1 }
  else s.bump 0x8100 8 1

/-- A record's failure: its counter, its flag, the total (R264, R275). -/
def State.recFail (s : State) (id : Nat) : State :=
  let s := if id < 1024 then s.bumpWin 0x8112 0 (32 * id + 16) 8 1 else s.bumpWin 0x8131 0 (32 * (id - 1024) + 16) 8 1
  (s.setFlag id 2 true).bump 0x8100 6 1

/-- A record's success: frames protected or verified, passed or generated. -/
def State.recPass (s : State) (id : Nat) : State :=
  if id < 1024 then s.bumpWin 0x8112 0 (32 * id + 8) 8 1 else s.bumpWin 0x8131 0 (32 * (id - 1024) + 8) 8 1

/-- A MACsec port counter of Table 10.6. -/
def State.secCount (s : State) (p k : Nat) : State := s.bumpWin 0x8113 0 (64 * p + 8 * k) 8 1

/-! ### Dispatch (R258, R259) -/

/-- Active engines of a cluster: 15, less the units that failed with no spare left (R257, R59). -/
def State.activeEngines (s : State) (k : Nat) : Nat :=
  if s.present (23 + k) then 15 - (s.car.unitOut.filter fun u => u / 256 == 23 + k).length else 0

/-- The operations that run in a cluster. -/
def State.running (s : State) (k : Nat) : List CryptoOp := s.crypto.ops.filter fun o => o.cluster == k && o.phase == 1

/-- The lowest idle engine of a cluster. -/
def State.idleEngine (s : State) (k : Nat) : Option Nat :=
  if s.present (23 + k) then
    (List.range 15).find? fun e => !s.car.unitOut.contains (unitKey (23 + k) e) && !(s.running k).any fun o => o.engine == e
  else none

/-- Idle engines of a cluster. -/
def State.idleCount (s : State) (k : Nat) : Nat := s.activeEngines k - (s.running k).length

/-- The PRESENT cluster with the most idle engines, ties to the lowest number (R258). -/
def State.bestCluster (s : State) : Option Nat :=
  (List.range 5).foldl (fun best k =>
    if s.present (23 + k) then
      match best with
      | none => some k
      | some b => if s.idleCount b < s.idleCount k then some k else best
    else best) none

/-- Contexts suspended on an engine; each has four slots (R259). -/
def State.suspendedOn (s : State) (k e : Nat) : Nat :=
  (s.crypto.ops.filter fun o => o.cluster == k && o.engine == e && o.phase == 2).length

/-- The operation an urgent one suspends: in the PRESENT cluster with the fewest urgent operations in progress, a non-urgent one
whose engine has a free context slot (R259). -/
def State.victim (s : State) : Option CryptoOp :=
  let cand := fun k => (s.running k).find? fun o => !o.urgent && decide (s.suspendedOn k o.engine < 4)
  let urgents := fun k => ((s.running k).filter fun o => o.urgent).length
  let best := (List.range 5).foldl (fun best k =>
    if s.present (23 + k) && (cand k).isSome then
      match best with
      | none => some k
      | some b => if urgents k < urgents b then some k else best
    else best) (none : Option Nat)
  best.bind cand

/-- One operation of the list replaced. -/
def replaceOp (o o' : CryptoOp) (l : List CryptoOp) : List CryptoOp := l.map fun x => if x = o then o' else x

/-- The key a record has in a cluster's cache. -/
def State.cachedKey (s : State) (k id : Nat) : Option Nat := mapGet s.crypto.keys (cacheKey k id)

/-- An operation that waits is started where its key is held and an engine is idle, or, where it is urgent, one can be
suspended. -/
def State.tryStart (s : State) (o : CryptoOp) : State :=
  if o.phase ≠ 0 then s
  else
    match s.bestCluster with
    | none => s
    | some k =>
      match s.cachedKey k o.rec_ with
      | none => s.withCrypto fun c => { c with ops := replaceOp o { o with cluster := k } c.ops }
      | some key =>
        match s.idleEngine k with
        | some e => s.withCrypto fun c => { c with ops := replaceOp o { o with cluster := k, engine := e, phase := 1, key := key } c.ops }
        | none =>
          if !o.urgent then s
          else
            match s.victim with
            | none => s
            | some v =>
              match s.cachedKey v.cluster o.rec_ with
              | none => s
              | some key =>
                let s := s.withCrypto fun c => { c with ops := replaceOp o { o with cluster := v.cluster, engine := v.engine, phase := 1, key := key } (replaceOp v { v with phase := 2 } c.ops) }
                s.bump 0x8100 5 1

/-- Every waiting operation tried, urgent ones first, each kind oldest first. -/
def State.startOps (s : State) : State :=
  let w := s.crypto.ops.filter fun o => o.phase == 0
  s.forEach ((w.filter fun o => o.urgent) ++ w.filter fun o => !o.urgent) State.tryStart

/-- A new operation dispatched. -/
def State.dispatchOp (s : State) (o : CryptoOp) : State := (s.withCrypto fun c => { c with ops := c.ops ++ [o] }).startOps

/-- An operation taken off; a suspended one of its engine resumes when no urgent one waits (R259). -/
def State.dropOp (s : State) (o : CryptoOp) : State :=
  s.withCrypto fun c => { c with ops := c.ops.filter fun x => x != o }

/-- A suspended operation of an idle engine resumes when no urgent operation waits for it (R259). -/
def State.resumeOp (s : State) (k e : Nat) : State :=
  let busy := (s.running k).any fun o => o.engine == e
  let urgentWaits := s.crypto.ops.any fun o => o.phase == 0 && o.urgent && (s.cachedKey k o.rec_).isSome
  if busy || urgentWaits then s
  else
    match s.crypto.ops.find? fun o => o.cluster == k && o.engine == e && o.phase == 2 with
    | some o => s.withCrypto fun c => { c with ops := replaceOp o { o with phase := 1 } c.ops }
    | none => s

/-- The operation that runs on an engine. -/
def State.opOn (s : State) (k e : Nat) : Option CryptoOp := (s.running k).find? fun o => o.engine == e

/-- A class is urgent (0x8100:01). -/
def State.urgentClass (s : State) (c : Nat) : Bool := s.rdB 0x8100 1 c

/-! ### MACsec (R265–R268) -/

/-- The suite of a port: bits of the key, and extended packet numbers. -/
def State.xpn (s : State) (p : Nat) : Bool := decide (2 ≤ s.winB 0x8110 0 (24 * p + 1))

/-- The enabled, unrevoked transmit SA of a port for its encoding AN. -/
def State.txSa (s : State) (p : Nat) : Option Nat :=
  let an := s.winB 0x8110 0 (24 * p + 2) % 4
  (s.listedRecs 0x8111 0 64 0).find? fun r =>
    s.sa r 0 1 == 1 && s.sa r 1 1 == p && s.sa r 2 1 % 4 == an && s.recEnabled r && !s.recFlag r 1

/-- The enabled, unrevoked receive SA of a port for an SCI (transmitted order, as bytes) and AN. -/
def State.rxSa (s : State) (p an : Nat) (sci : List Byte) : Option Nat :=
  (s.listedRecs 0x8111 0 64 0).find? fun r =>
    s.sa r 0 1 == 2 && s.sa r 1 1 == p && s.sa r 2 1 % 4 == an && s.recEnabled r && !s.recFlag r 1
      && s.winBytes 0x8111 0 (64 * r + 24) 8 == sci

/-- The IV of an SA: SCI and packet number, or for XPN the SSCI and the 64-bit number mixed with the salt. -/
def State.secIv (s : State) (p r pn : Nat) (sci : List Byte) : List Byte :=
  if s.xpn p then
    let x := leVal (leBytes 4 (s.sa r 40 4)).reverse * 2 ^ 64 + pn % 2 ^ 64
    beBytes 12 (Nat.xor x (beVal (s.winBytes 0x8111 0 (64 * r + 44) 12)))
  else sci ++ beBytes 4 (pn % 2 ^ 32)

/-- The SecTAG sent: with SCI, SC 1, ES 0, SCB 0 (Table 10.3); the short length of fewer than 48 bytes of user data.
PRESUMED, log entry 43. -/
def State.secTag (s : State) (p pn n : Nat) : List Byte :=
  let conf := tb (s.winB 0x8110 0 (24 * p)) 2
  beBytes 2 0x88E5 ++ beBytes 1 (0x20 + (if conf then 0x0C else 0) + s.winB 0x8110 0 (24 * p + 2) % 4)
    ++ beBytes 1 (if n < 48 then n else 0) ++ beBytes 4 (pn % 2 ^ 32) ++ s.winBytes 0x8110 0 (24 * p + 8) 8

/-- A frame body protected under SA `r` with packet number `pn` and key `key`; without FCS. -/
def State.protect (s : State) (p r pn key : Nat) (body : List Byte) : List Byte :=
  let bits := (s.recKey r).2.2.2.2
  let conf := tb (s.winB 0x8110 0 (24 * p)) 2
  let head := body.take 12
  let data := body.drop 12
  let tag := s.secTag p pn data.length
  let iv := s.secIv p r pn (s.winBytes 0x8110 0 (24 * p + 8) 8)
  if conf then
    head ++ tag ++ Config.gcmCipher bits key iv (head ++ tag) data ++ beBytes 16 (Config.gcmTag bits key iv (head ++ tag) data)
  else head ++ tag ++ data ++ beBytes 16 (Config.gcmTag bits key iv (head ++ tag ++ data) [])

/-- The fields of a received SecTAG: TCI and AN byte, packet number, SCI, length of the tag. -/
structure SecView where
  tci : Nat
  an : Nat
  pn : Nat
  sci : List Byte
  len : Nat
  conf : Bool
  bad : Bool
  deriving DecidableEq, Repr

/-- The SecTAG of a frame body (R268 step 3): malformed with V set, with SC beside ES or SCB, with E and C unequal, a short length
above 47, or no room for the ICV. -/
def parseSec (bs : List Byte) : SecView :=
  let tci := byteAt bs 14
  let sc := tb tci 5
  let len := if sc then 16 else 8
  let sl := byteAt bs 15
  let sci := if sc then sliceZ bs 20 8 else sliceZ bs 6 6 ++ beBytes 2 1
  { tci := tci, an := tci % 4, pn := beAt bs 16 4, sci := sci, len := len, conf := tb tci 2,
    bad := tb tci 7 || (sc && (tb tci 6 || tb tci 4)) || (tb tci 3 != tb tci 2) || decide (47 < sl) || decide (bs.length < 12 + len + 16) }

/-- The full packet number of a received one (XPN, IEEE 802.1AE). -/
def fullPn (xpn : Bool) (low pn : Nat) : Nat :=
  if xpn then
    let hi := low / 2 ^ 32
    let l := low % 2 ^ 32
    if 2 ^ 31 ≤ l ∧ pn < 2 ^ 31 then (hi + 1) * 2 ^ 32 + pn else hi * 2 ^ 32 + pn
  else pn

/-- What receive MACsec does with a frame before a cluster checks it (R268 steps 1–5): passed as it is, dropped with a counter of
Table 10.6, or handed over with its SA and packet number. -/
inductive SecRx
  | pass
  | drop (counter : Nat)
  | verify (sa pn : Nat)
  | passCounted
  deriving DecidableEq, Repr

/-- R268 steps 1–5. -/
def State.secReceive (s : State) (p : Nat) (bs : List Byte) : SecRx :=
  let body := bs.take (bs.length - 4)
  let strict := tb (s.winB 0x8110 0 (24 * p)) 4
  let et := beAt body 12 2
  if et = 0x888E then .pass
  else if et ≠ 0x88E5 then (if strict then .drop 1 else .passCounted)
  else
    let v := parseSec body
    if v.bad then .drop 2
    else
      match s.rxSa p v.an v.sci with
      | none => .drop 3
      | some r =>
        let low := s.saStat r 0 8
        let pn := fullPn (s.xpn p) low v.pn
        if tb (s.winB 0x8110 0 (24 * p)) 3 ∧ pn < low then .drop 4 else .verify r pn

/-- A received frame opened (R268 steps 6 and 7): none when its tag fails, else its body without SecTAG and ICV. -/
def State.secOpen (s : State) (p r pn key : Nat) (bs : List Byte) : Option (List Byte) :=
  let body := bs.take (bs.length - 4)
  let v := parseSec body
  let bits := (s.recKey r).2.2.2.2
  let head := body.take (12 + v.len)
  let rest := body.drop (12 + v.len)
  let data := rest.take (rest.length - 16)
  let icv := beVal (rest.drop (rest.length - 16))
  let iv := s.secIv p r pn v.sci
  if v.conf then
    let plain := Config.gcmPlain bits key iv head data
    if Config.gcmTag bits key iv head plain % 2 ^ 128 = icv then some (body.take 12 ++ plain) else none
  else if Config.gcmTag bits key iv (head ++ data) [] % 2 ^ 128 = icv then some (body.take 12 ++ data) else none

/-- The last packet number of a port's suite. -/
def State.lastPn (s : State) (p : Nat) : Nat := if s.xpn p then 2 ^ 64 - 1 else 2 ^ 32 - 1

/-! ### Authenticators (R271–R273) -/

/-- The data field of a CAN frame or a PDU in stored form: its offset and length. -/
def dataField (f : Frame) : Nat × Nat :=
  if f.kind = 3 then (8, beAt f.bytes 4 2) else (16, (parseCan f.bytes).len)

/-- The leftmost M bytes of the CMAC over Data ID, authentic data and freshness. -/
def authMac (bits key : Nat) (id : Nat) (auth : List Byte) (fresh m : Nat) : List Byte :=
  (beBytes 16 (Config.cmac bits key (beBytes 4 id ++ auth ++ beBytes 8 fresh) % 2 ^ 128)).take m

/-- The candidate freshness value of R272. -/
def candidate (l f trunc : Nat) : Nat :=
  if f = 0 then l + 1
  else
    let m := 2 ^ (8 * f)
    let c := l / m * m + trunc % m
    if c ≤ l then c + m else c

/-- Whether verification computes a CMAC, with its candidate (R272): none where C − L is above the window or N is not D + F + M. -/
def State.authCandidate (s : State) (r : Nat) (f : Frame) : Option Nat :=
  let d := s.au r 26 2
  let fb := s.au r 3 1
  let m := s.au r 2 1
  let (off, n) := dataField f
  let l := s.auStat r 0 8
  let c := candidate l fb (beAt f.bytes (off + d) fb)
  if n ≠ d + fb + m ∨ s.au r 6 2 < c - l then none else some c

/-- The CMAC of a frame agrees for candidate `c`. -/
def State.authGood (s : State) (r key c : Nat) (f : Frame) : Bool :=
  let d := s.au r 26 2
  let fb := s.au r 3 1
  let m := s.au r 2 1
  let (off, _) := dataField f
  authMac (if tb (s.au r 1 1) 2 then 256 else 128) key (dataId f) (sliceZ f.bytes off d) c m == sliceZ f.bytes (off + d + fb) m

/-- A frame's bytes with the truncated freshness and MAC of a generating record written over the last F + M data bytes (R273). -/
def State.authBytes (s : State) (r key fresh : Nat) (f : Frame) : List Byte :=
  let d := s.au r 26 2
  let fb := s.au r 3 1
  let m := s.au r 2 1
  let (off, _) := dataField f
  let mac := authMac (if tb (s.au r 1 1) 2 then 256 else 128) key (dataId f) (sliceZ f.bytes off d) fresh m
  overlay f.bytes (off + d) (beBytes fb (fresh % 2 ^ (8 * fb)) ++ mac)

/-- A committed freshness value in the ledger (R274). -/
def State.commitFresh (s : State) (r v : Nat) : State :=
  (s.withKey fun k => { k with mram := mapPut 0 k.mram r v }).countCommit 1 0

/-! ### Hand-over of queued copies (R267, R270, R273) -/

/-- An item of a queue changed by its frame. -/
def State.modItem (s : State) (p id : Nat) (g : QItem → QItem) : State :=
  s.modPtm p fun t => { t with queues := t.queues.map fun q => (q.1, q.2.map fun i => if i.frame = id then g i else i) }

/-- A queued copy discarded without a reason code. -/
def State.discardItem (s : State) (p id : Nat) : State :=
  let s := s.forEach ((s.ptm p).queues.filter fun q => q.2.any fun i => i.frame == id) fun s q => s.removeItem p q.1 id
  s.dropRef id p

/-- The next packet number of a transmit SA assigned (R267): none past the last one; events 0x00B2 and 0x00B3. -/
def State.assignPn (s : State) (p r : Nat) : Option Nat × State :=
  let pn := s.saStat r 0 8
  if tb (s.winB 0x8112 0 (32 * r + 24)) 3 then (none, s)
  else
    let last := s.lastPn p
    let s := if pn = last then s.setFlag r 3 true else s.setWinLe 0x8112 0 (32 * r) 8 (pn + 1)
    let s := if pn + 1 = s.winLe 0x8110 0 (24 * p + 16) 8 then s.event (23 + (s.bestCluster.getD 0)) 0xB2 p (s.sa r 2 1 % 4) r else s
    (some pn, s)

/-- A MACsec copy handed over: protected under the SA of the encoding AN, or discarded and counted. -/
def State.handMacsec (s : State) (p id : Nat) (f : Frame) : State :=
  match s.txSa p with
  | none => (s.secCount p 7).discardItem p id
  | some r =>
    match s.assignPn p r with
    | (none, s) =>
      let first := !s.crypto.told.contains r
      let s := if first then (s.withCrypto fun c => { c with told := r :: c.told }).event (23 + (s.bestCluster.getD 0)) 0xB3 p (s.sa r 2 1 % 4) r else s
      (s.secCount p 7).discardItem p id
    | (some pn, s) =>
      (s.modItem p id fun i => { i with prot := 2 }).dispatchOp ⟨id, p, 0, r, pn, 0, 0, s.urgentClass f.cls, 0, 0⟩

/-- A copy handed over for an authenticator (R273). -/
def State.handAuth (s : State) (p id r : Nat) (f : Frame) : State :=
  let (_, n) := dataField f
  if s.recFlag (1024 + r) 1 ∨ n ≠ s.au r 26 2 + s.au r 3 1 + s.au r 2 1 then (s.recFail (1024 + r)).discardItem p id
  else
    let v := s.auStat r 0 8 + 1
    let s := if mapGetD s.key.mram r 0 ≤ v then s.commitFresh r (v + 65536) else s
    let s := s.setWinLe 0x8131 0 (32 * r) 8 v
    (s.modItem p id fun i => { i with prot := 2 }).dispatchOp ⟨id, p, 5, 1024 + r, v, 0, 0, tb (s.au r 1 1) 1 || s.urgentClass f.cls, 0, 0⟩

/-- A copy to a CANsec channel handed over (R270). -/
def State.handCansec (s : State) (p id : Nat) (f : Frame) : State :=
  let r := fld (s.cansec p) 25 16
  if !s.recEnabled r || s.recFlag r 1 then (s.recFail r).discardItem p id
  else
    let v := s.saStat r 0 8
    let s := s.setWinLe 0x8112 0 (32 * r) 8 (v + 1)
    (s.modItem p id fun i => { i with prot := 2 }).dispatchOp ⟨id, p, 2, r, v, 0, 0, s.urgentClass f.cls, 0, 0⟩

/-- Every queued copy that must be protected and is whole, handed over in queue order; an aged one is refused (R82). -/
def State.handOver (s : State) (p : Nat) : State :=
  s.forEach ((s.ptm p).queues.flatMap fun q => (q.2.filter fun i => i.prot == 1).map fun i => (q.1, i.frame)) fun s x =>
    match s.frame? x.2 with
    | none => s
    | some f =>
      if !f.whole then s
      else if s.expired f then (s.removeItem p x.1 x.2).refuseCopy p x.2 1
      else
        match s.genRecord p f with
        | some r => s.handAuth p x.2 r f
        | none => if isC p then s.handCansec p x.2 f else s.handMacsec p x.2 f

/-- Hand-over at every port that has queues. -/
def State.handOvers (s : State) : State :=
  s.forEach ((s.tm.ports.filter fun t => t.2.queues.any fun q => q.2.any fun i => i.prot == 1).map Prod.fst) State.handOver

/-! ### Revocation (R263) -/

/-- An operation aborted: decrypted output is lost with its frame, encryption output is discarded. -/
def State.abortOp (s : State) (o : CryptoOp) : State :=
  let s := s.dropOp o
  if o.kind = 0 then (s.secCount o.port 7).discardItem o.port o.frame
  else if o.kind = 1 then (s.secCount o.port 3).eraseFrame o.frame
  else if o.kind = 3 then s.eraseFrame o.frame
  else if o.kind = 4 then s
  else (s.recFail o.rec_).discardItem o.port o.frame

/-- The records whose parent is one of the handles, revoked in all clusters, and event 0x00B1 (R263). A verify operation aborted
here fails under R248, which the caller carries out. -/
def State.revokeRecords (s : State) (h : Nat) : State :=
  let recs := s.enabledRecs.filter fun id => !s.recFlag id 1 && (s.recKey id).1 == h
  let s := s.forEach recs fun s id => ((s.setFlag id 1 true).setFlag id 0 false).dropKeys id
  let s := s.bump 0x8100 7 recs.length
  s.event 46 0xB1 (h % 256) (h / 256) (min 65535 recs.length)

/-- The operations whose record is revoked. -/
def State.revokedOps (s : State) : List CryptoOp := s.crypto.ops.filter fun o => s.recFlag o.rec_ 1

end Sys2Proof.Machine
end

