-- ==== Sys2Proof/Machine/Can.lean ====
section
/-! DEFINITION. CAN and LIN channels (Chapter 6): modes and their checks (R149–R154, R508), transmission and its windows
(R157–R159, R162, R167–R170), error states (R164–R166), receive buffers (R160, R161), the time master (R171, R172) and LIN
(R173–R176). -/

namespace Sys2Proof.Machine

/-! ### Objects -/

/-- A channel object (R147). -/
def chObj (c off : Nat) : Nat := 0x4000 + 0x20 * c + off

/-- The edge group of a channel. -/
def chGroup (c : Nat) : Nat := 32 + c / 16

/-- The moving parts of a channel. -/
def State.ch (s : State) (c : Nat) : ChanDyn := mapGetD s.chan c .idle

/-- The moving parts of a channel changed. -/
def State.modCh (s : State) (c : Nat) (f : ChanDyn → ChanDyn) : State :=
  { s with chan := mapPut .idle s.chan c (f (mapGetD s.chan c .idle)) }

/-- A counter of Table 6.13 raised. -/
def State.chCount (s : State) (c sub n : Nat) : State := s.bump64 (chObj c 0x10) sub n

/-- The protocol in force (Table 6.3 sub 02). -/
def State.proto (s : State) (c : Nat) : Nat := s.rdF (chObj c 0) 2 2 0

/-- The channel is synchronised to its bus. -/
def State.integrated (s : State) (c : Nat) : Bool := s.rdB (chObj c 0) 2 3

/-- The error state of a C channel: 0 active, 1 passive, 2 bus-off, 3 offline. -/
def State.errState (s : State) (c : Nat) : Nat := s.rdF (chObj c 4) 1 17 16

/-- Clocks of a bit time: prescaler × (1 + SEG1 + SEG2) (R151). -/
def bitClocks (w : Nat) : Nat := fld w 6 0 * (1 + fld w 15 8 + fld w 23 16)

/-- The nominal bit time of a C channel in clocks. -/
def State.nomClocks (s : State) (c : Nat) : Nat := bitClocks (s.rd (chObj c 1) 1)

/-- A bit time of a LIN channel in clocks. -/
def State.linClocks (s : State) (c : Nat) : Nat := s.rdF (chObj c 1) 1 17 0

/-- Clocks of 6.25 ns in ns, rounded up. -/
def clockNs (n : Nat) : Nat := ceilDiv (n * 25) 4

/-! ### Mode and timing (R149–R154, R508) -/

/-- The limits of one phase (R151, Table 6.4) on a timing word: bit time and quanta, SJW up to SEG2. -/
def timingOk (w lo hi : Nat) : Bool :=
  decide (lo ≤ bitClocks w) && decide (bitClocks w ≤ hi) && decide (8 ≤ 1 + fld w 15 8 + fld w 23 16)
    && decide (fld w 31 24 ≤ fld w 23 16)

/-- A write of the nominal timing of a C channel: R151, and SEG1 of at least 3 for triple sampling (R152). -/
def nominalOk (w : Nat) : Bool := timingOk w 160 16000 && (decide (bitClocks w < 1280) || decide (3 ≤ fld w 15 8))

/-- The checks on a write of a channel's mode (R149, R508): an abort code, 0 where it is accepted. -/
def State.modeAbort (s : State) (c v : Nat) : Nat :=
  let p := fld v 2 0
  if 72 ≤ c then
    if p ≠ 0 ∧ p ≠ 4 ∧ p ≠ 5 then 0x03000001 else if v / 8 ≠ 0 then 0x03000002 else 0
  else if 3 < p then 0x03000001
  else if p ≠ 3 ∧ (tb v 6 ∨ tb v 7) then 0x03000004
  else
    let nom := s.nomClocks c
    let fd := bitClocks (s.rd (chObj c 2) 1)
    let xl := bitClocks (s.rd (chObj c 2) 3)
    let tdc := s.rdB (chObj c 2) 2 7
    let bad := fun d => decide (nom < d) || (decide (d < 160) && !tdc)
    if (p = 2 ∨ p = 3) ∧ bad fd then 0x03000004
    else if p = 3 ∧ bad xl then 0x03000004
    else if p = 3 ∧ tb v 7 ∧ s.rdF (chObj c 2) 4 5 0 + s.rdF (chObj c 2) 4 13 8 ≠ xl then 0x03000004
    else 0

/-! ### Stored forms to be sent (R158) -/

/-- The DLC decodes to the length (classical). -/
def dlcFits (c : CanView) : Bool := c.rtr || min c.dlc 8 == c.len

/-- The channel cannot send the frame (R158). -/
def State.unsendable (s : State) (c : Nat) (bs : List Byte) : Bool :=
  let v := parseCan bs
  (v.fdf && s.proto c == 1) || (v.xlf && decide (s.proto c ≤ 2)) || !canLenOk v || decide (bs.length < 16 + v.len)

/-- The bytes sent for a stored form (R158): the DLC of byte 9 where it fits, an FD data field filled with the padding byte. ESI
is the channel's own error state. -/
def State.canForm (s : State) (c : Nat) (bs : List Byte) : List Byte :=
  let v := parseCan bs
  let data := (bs.drop 16).take v.len
  if v.xlf then canBytes { v with dlc := 0 } data
  else if v.fdf then
    let n := fdLength v.len
    let full := data ++ fill (n - v.len) (s.rdF (chObj c 0) 1 15 8)
    canBytes { v with dlc := dlcOf n, esi := s.errState c == 1 } full
  else canBytes { v with dlc := if dlcFits v then v.dlc else v.len } data

/-- The arbitration key of an identifier word: base identifier, then IDE, then the extension (R157). -/
def arbKey (v : CanView) : Nat :=
  if v.ide then v.id / 2 ^ 18 * 2 ^ 19 + 2 ^ 18 + v.id % 2 ^ 18 else v.id % 2 ^ 11 * 2 ^ 19

/-- The worst-case duration of a frame in clocks (R169): its bits with the maximum stuff bits of ISO 11898-1 (CiA 610-1 for XL) and
the 3-bit intermission, each phase at its own bit time. -/
def State.worstClocks (s : State) (c : Nat) (bs : List Byte) : Nat :=
  let v := parseCan bs
  let nom := s.nomClocks c
  let n := 8 * v.len
  if v.xlf then
    (17 + 4 + 1 + 4 + 2 + 7 + 3) * nom + (3 + 76 + n + 36 + (112 + n + 9) / 10) * bitClocks (s.rd (chObj c 2) 3)
  else if v.fdf then
    let head := if v.ide then 36 else 17
    let m := 8 * fdLength v.len
    let stuff := (head + 5 + m - 1) / 4
    let hs := (head - 1) / 4
    let crc := if 16 < fdLength v.len then 4 + 21 + 7 else 4 + 17 + 6
    let dat := if v.brs then bitClocks (s.rd (chObj c 2) 1) else nom
    (head + hs + 12) * nom + (5 + m + (stuff - hs) + crc + 1) * dat
  else
    let body := (if v.ide then 54 else 34) + n
    (body + 13 + (body - 1) / 4) * nom

/-! ### The schedule matrix (R167–R169) -/

/-- The NTU in ns. -/
def State.ntu (s : State) (c : Nat) : Nat := s.rdF (chObj c 9) 3 13 0

/-- The matrix is enabled. -/
def State.matrixOn (s : State) (c : Nat) : Bool := decide (c < 72) && s.rdB (chObj c 8) 1 0

/-- Basic cycles and columns of a matrix. -/
def State.cycles (s : State) (c : Nat) : Nat := 2 ^ s.rdF (chObj c 8) 1 3 1

/-- Columns of a matrix. -/
def State.columns (s : State) (c : Nat) : Nat := s.rdF (chObj c 8) 1 10 4

/-- A cell of the matrix. -/
def State.cell (s : State) (c cycle col : Nat) : Nat := s.winB (chObj c 8) 4 (cycle * 64 + col)

/-- The cycle count (Table 6.10). -/
def State.cycleCount (s : State) (c : Nat) : Nat := s.rdF (chObj c 9) 4 7 2

/-- The start of a column in ns after its cycle's start; beyond the last column, the cycle's end. -/
def State.columnStart (s : State) (c col : Nat) : Nat :=
  (if col < s.columns c then s.winLe (chObj c 8) 3 (4 * col) 4 % 2 ^ 24 else s.rdF (chObj c 8) 2 23 0) * s.ntu c

/-- The type and owner of the window in force. -/
def State.windowCell (s : State) (c : Nat) : Nat := s.cell c (s.cycleCount c % s.cycles c) (s.ch c).col

/-- A buffer is named as an owner in the matrix. -/
def State.isOwner (s : State) (c b : Nat) : Bool :=
  (List.range (s.cycles c)).any fun cy => (List.range (s.columns c)).any fun col =>
    s.cell c cy col % 4 == 1 && s.cell c cy col / 4 % 32 == b

/-- A frame fits between now and the start of the next column (R169). -/
def State.fits (s : State) (c : Nat) (bs : List Byte) : Bool :=
  !s.matrixOn c || decide (s.now + clockNs (s.worstClocks c bs) ≤ (s.ch c).cycleAt + s.columnStart c ((s.ch c).col + 1))

/-! ### Domains (R371, R372, R376) -/

/-- The ports of a port set (0x5030). -/
def State.portSet (s : State) (n : Nat) : List Nat := (maskList 160 (s.winLe 0x5030 0 (20 * n) 20)).filter portOk

/-- The members of a domain: its flood set. -/
def State.members (s : State) (d : Nat) : List Nat := s.portSet (4032 + d)

/-- The domains a port or channel belongs to. -/
def State.domainsOf (s : State) (p : Nat) : List Nat :=
  (List.range 64).filter fun d => tb (s.winB 0x5030 0 (20 * (4032 + d) + p / 8)) (p % 8)

/-- The state of a domain (Table 14.3). -/
def State.domState (s : State) (d : Nat) : Nat := s.winB 0x2082 0 (8 * d)

/-- A T port or channel is taken to its Listen levels: every domain it belongs to is ASLEEP (R376). -/
def State.listens (s : State) (p : Nat) : Bool :=
  (decide (28 ≤ p) && decide (p ≤ 43) || decide (64 ≤ p)) &&
    (let l := s.domainsOf p; l != [] && l.all fun d => s.domState d == 4)

/-! ### Candidates (R157) -/

/-- The channel has no working controller (R60), or every like channel is offline (R308, R337, R472), or it listens (R376). -/
def State.chDead (s : State) (c : Nat) : Bool :=
  s.car.unitOut.contains (unitKey (chGroup c) (c % 16)) || s.rdB 0x2001 1 4 || s.power.lost.isSome || !s.startup.forwarding
    || s.mode != .run || s.listens (64 + c) || s.rdB 0x8030 3 0

/-- The channel may start frames: integrated, neither bus-off nor offline, not monitoring nor restricted, its edge group PRESENT. -/
def State.canSends (s : State) (c : Nat) : Bool :=
  s.proto c != 0 && s.integrated c && decide (s.errState c ≤ 1) && !s.rdB (chObj c 0) 1 3 && !s.rdB (chObj c 0) 1 4
    && s.present (chGroup c) && !s.chDead c

/-- A transmit buffer's stored form. -/
def State.txBuffer (s : State) (c b : Nat) : List Byte :=
  let r := s.winBytes (chObj c 6) 1 (80 * b) 80
  r.take (16 + min 64 (parseCan r).len)

/-- The stored form of the head frame. -/
def State.headBytes (s : State) (i : QItem) : List Byte :=
  match i.out with
  | some o => o
  | none => ((s.frame? i.frame).map fun f => f.bytes).getD []

/-- The traffic manager's head frame given up, its copy refused or only dropped. -/
def State.dropHead (s : State) (c : Nat) (reason : Option Nat) : State :=
  match (s.ch c).head with
  | none => s
  | some (_, i) =>
    let s := s.modCh c fun d => { d with head := none }
    match reason with
    | some r => s.refuseCopy (64 + c) i.frame r
    | none => s.dropRef i.frame (64 + c)

/-- The traffic manager releases its next frame to a channel that holds none (R157); one that the channel cannot send is
discarded (R158). -/
def State.canRelease (s : State) (c : Nat) : Nat → State
  | 0 => s
  | n + 1 =>
    if (s.ch c).head.isSome || !s.canSends c then s
    else
      match s.selectQueue (64 + c) with
      | (none, s) => s
      | (some q, s) =>
        match (s.ptm (64 + c)).q q with
        | [] => s
        | i :: _ =>
          let (gone, s) := s.startCheck (64 + c) q i.frame
          if gone then (s.takeWaiting (64 + c)).canRelease c n
          else
            let s := ((s.popHead (64 + c) q).modCh c fun d => { d with head := some (q, i) }).takeWaiting (64 + c)
            if s.unsendable c (s.headBytes i) then ((s.chCount c 0x1C 1).dropHead c (some 4)).canRelease c n else s

/-- The frames that the present window allows to be offered: source, buffer and bytes. -/
def State.candidates (s : State) (c : Nat) : List CanOffer :=
  let own := s.matrixOn c
  let bufs := ((maskList 32 (s.rd (chObj c 6) 2)).filter fun b => !own || !s.isOwner c b).map fun b => CanOffer.mk 1 b (s.txBuffer c b)
  let head := match (s.ch c).head with
    | some (_, i) => [CanOffer.mk 0 0 (s.headBytes i)]
    | none => []
  (head ++ bufs).map fun o => { o with bytes := s.canForm c o.bytes }

/-- The candidate with the lowest identifier (R157). -/
def lowestOffer : List CanOffer → Option CanOffer
  | [] => none
  | o :: r =>
    match lowestOffer r with
    | none => some o
    | some p => if arbKey (parseCan p.bytes) < arbKey (parseCan o.bytes) then some p else some o

/-- Whether the window in force takes requested buffers and egress frames (R168). -/
def State.windowOpen (s : State) (c : Nat) : Bool :=
  !s.matrixOn c || ((s.ch c).running && (s.ch c).col != 0 && s.windowCell c % 4 != 1)

/-- The key of a candidate among those counted as held in this window. -/
def State.waitKey (s : State) (c : Nat) (o : CanOffer) : Nat :=
  if o.src = 1 then 2 * o.buf else 2 * (((s.ch c).head.map fun h => h.2.frame).getD 0) + 1

/-- A candidate that does not fit is counted once in the window (R169). -/
def State.countHeld (s : State) (c : Nat) (o : CanOffer) : State :=
  let k := s.waitKey c o
  if (s.ch c).waited.contains k then s
  else (s.chCount c 0x14 1).modCh c fun d => { d with waited := k :: d.waited }

/-- Requested buffers that the channel cannot send are given up and counted (R158). -/
def State.dropUnsendable (s : State) (c : Nat) : State :=
  s.forEach ((maskList 32 (s.rd (chObj c 6) 2)).filter fun b => s.unsendable c (s.txBuffer c b)) fun s b =>
    (s.chCount c 0x1C 1).wr (chObj c 6) 2 (setBit (s.rd (chObj c 6) 2) b false)

/-- The owner of an exclusive window is offered, once (R168), where it was written and fits. -/
def State.offerExclusive (s : State) (c : Nat) : State :=
  let b := s.windowCell c / 4 % 32
  if (s.ch c).served || !tb (s.ch c).written b then s
  else if s.unsendable c (s.txBuffer c b) then (s.chCount c 0x1C 1).modCh c fun d => { d with served := true }
  else
    let o := CanOffer.mk 2 b (s.canForm c (s.txBuffer c b))
    if s.fits c o.bytes then s.modCh c fun d => { d with offer := some o, served := true }
    else (s.countHeld c { o with src := 1 }).modCh c fun d => { d with served := true }

/-- The chosen frame goes to the bus: the start of its transmission. -/
def State.offerChosen (s : State) (c : Nat) (o : Option CanOffer) : State :=
  let s := match o, (s.ch c).head with
    | some x, some (_, i) => if x.src = 0 then s.probeOut i.frame (64 + c) else s
    | _, _ => s
  s.modCh c fun d => { d with offer := o }

/-- The channel offers its next frame, if it holds none on the bus and may send (R157, R159, R169). Each offer is a start of
transmission: an expired head is refused first (R82). -/
def State.canOffer (s : State) (c : Nat) : State :=
  if (s.ch c).offer.isSome || (s.ch c).busy || !s.canSends c then s
  else
    let s := match (s.ch c).head with
      | some (_, i) =>
        match s.frame? i.frame with
        | some f => if s.expired f then s.dropHead c (some 1) else s
        | none => s.modCh c fun d => { d with head := none }
      | none => s
    let s := (s.canRelease c 64).dropUnsendable c
    if !s.windowOpen c then
      (if (s.ch c).running && (s.ch c).col != 0 then s.offerExclusive c else s)
    else
      let all := s.candidates c
      let fit := all.filter fun o => s.fits c o.bytes
      let s := s.forEach (all.filter fun o => !s.fits c o.bytes) fun s o => s.countHeld c o
      s.offerChosen c (lowestOffer fit)

/-! ### Error states (R164–R166) -/

/-- A C channel becomes error-passive, active or bus-off by its counters (ISO 11898-1): `tec` and `rec_` as they now stand.
DESIGN CHOICE, log entry 28. -/
def State.setErrors (s : State) (c tec rec_ : Nat) : State :=
  let st := s.errState c
  let g := chGroup c
  let o := chObj c 4
  if 2 ≤ st then s
  else if 255 < tec then
    let (v, s) := s.draw
    let s := ((s.wrF o 1 7 0 v).wrF o 1 15 8 (min rec_ 255)).wrF o 1 17 16 2
    let s := s.bump o 3 1
    s.event g 0x71 (64 + c) (s.rdF o 1 20 18) (s.rd o 3 % 65536)
  else
    let s := (s.wrF o 1 7 0 tec).wrF o 1 15 8 (min rec_ 255)
    let passive := decide (127 < tec) || decide (127 < rec_)
    let s := s.wrF o 1 17 16 passive.toNat
    if passive && st == 0 then (s.chCount c 0x0F 1).event g 0x70 (64 + c) tec (min rec_ 255) else s

/-- TEC and REC. -/
def State.tec (s : State) (c : Nat) : Nat := s.rdF (chObj c 4) 1 7 0
/-- REC. -/
def State.rec_ (s : State) (c : Nat) : Nat := s.rdF (chObj c 4) 1 15 8

/-- REC after a frame received without error (ISO 11898-1): one less, and from above 127 a value of 119–127. PRESUMED, log entry 29. -/
def State.goodRx (s : State) (c : Nat) : State :=
  let r := s.rec_ c
  if 127 < r then
    let (v, s) := s.draw
    s.setErrors c (s.tec c) (119 + v % 9)
  else s.setErrors c (s.tec c) (r - 1)

/-- The error counter of a kind of Table 6.8: stuff, form, ACK, bit 1, bit 0, CRC as 1–6. -/
def errSub (kind : Nat) : Nat :=
  match kind with
  | 1 => 0x08 | 2 => 0x09 | 3 => 0x0A | 4 => 0x0B | 5 => 0x0B | _ => 0x0C

/-- An exclusive window's owner lost arbitration or met an error: no retry, sub 0x12, event 0x0074 (R168). -/
def State.exclusiveFault (s : State) (c : Nat) : State :=
  ((s.chCount c 0x12 1).modCh c fun d => { d with offer := none }).event (chGroup c) 0x74 (64 + c) (s.ch c).col (s.cycleCount c)

/-- The offered frame goes back to its source, to be retried (R159); a reference message stays offered. -/
def State.withdraw (s : State) (c : Nat) : State :=
  match (s.ch c).offer with
  | none => s
  | some o =>
    if o.src = 2 then s.exclusiveFault c
    else if o.src = 3 then s
    else s.modCh c fun d => { d with offer := none }

/-- A bus-off channel's head frame waits in its queue (R165). -/
def State.headBack (s : State) (c : Nat) : State :=
  match (s.ch c).head with
  | none => s
  | some (q, i) => (s.modCh c fun d => { d with head := none }).pushHead (64 + c) q i

/-- An error on the bus (R166): counted, its flag sent, TEC or REC raised as ISO 11898-1 says, the frame withdrawn. `free_` marks
an error that ISO 11898-1 exempts from counting, `eights` its further raises by 8 at a receiver. PRESUMED, log entry 30. -/
def State.busError (s : State) (c kind : Nat) (sending free_ : Bool) (eights : Nat) : State :=
  let s := (s.chCount c (errSub kind) 1).wrF (chObj c 4) 1 20 18 kind
  let silent := s.rdB (chObj c 0) 1 3 || s.rdB (chObj c 0) 1 4 || (s.proto c == 3 && s.rdB (chObj c 0) 1 6)
  let s := if silent then s else s.chCount c 0x0D 1
  let s := if sending then s.withdraw c else s.chCount c 0x1D 1
  let s := s.modCh c fun d => { d with busy := false }
  let s := if free_ || s.rdB (chObj c 0) 1 4 then s
    else if sending then s.setErrors c (s.tec c + 8) (s.rec_ c)
    else s.setErrors c (s.tec c) (min 255 (s.rec_ c + 1 + 8 * eights))
  if s.errState c = 2 then (s.modCh c fun d => { d with offer := none }).headBack c else s

/-! ### Applying a mode (R150) -/

/-- Steps 2–4 of R150: the new mode in force, the error counters at 0 but on a bus-off channel, integration begun. -/
def State.applyMode (s : State) (c : Nat) : State :=
  let p := s.rdF (chObj c 0) 1 2 0
  let triple := decide (c < 72) && decide (1280 ≤ s.nomClocks c)
  let s := s.wr (chObj c 0) 2 (p + 16 * triple.toNat)
  let s := s.modCh c fun d => { d with newMode := none, offer := none, busy := false, running := false, await_ := none, quiet := false,
                                       lastBus := s.now }
  if 72 ≤ c then
    if p = 4 then
      let on := s.rdB (chObj c 0x11) 2 4
      let t := s.rdF (chObj c 0x11) 2 3 0
      (s.wrB (chObj c 0) 2 3 true).modCh c fun d =>
        { d with runs := on, table := t, slot := s.winLe (chObj c 0x12) 2 (2 * t) 2, slotEnd := s.now, back := none }
    else s.modCh c fun d => { d with runs := false }
  else if s.errState c = 2 then s.headBack c
  else
    let s := s.wr (chObj c 4) 1 (setFld (s.rdF (chObj c 4) 1 20 18 * 2 ^ 18) 17 16 (if p = 0 then 3 else 0))
    if p = 0 then s.headBack c else s

/-- A mode write that changes the configuration (R150): it waits for the frame being sent; a frame being received is lost. -/
def State.changeMode (s : State) (c v : Nat) (receiving : Bool) : State :=
  if s.rd (chObj c 0) 1 = v then s
  else
    let s := s.wr (chObj c 0) 1 v
    match (s.ch c).offer with
    | some _ => s.modCh c fun d => { d with newMode := some v }
    | none =>
      let s := if receiving || (s.ch c).busy then s.chCount c 0x1D 1 else s
      s.applyMode c

/-- A waiting mode applied once the frame on the bus has ended, else the next frame offered. -/
def State.nextOnBus (s : State) (c : Nat) : State :=
  if (s.ch c).newMode.isSome then s.applyMode c else s.canOffer c

/-! ### Receive buffers (R160, R161) -/

/-- A filter record of a C channel matches a frame. -/
def State.filterHits (s : State) (c k : Nat) (bs : List Byte) : Bool :=
  let r := s.winBytes (chObj c 5) 1 (16 * k) 16
  tb (byteAt r 12) 0
    && ((beAt bs 0 4 ^^^ beVal (r.take 4)) &&& beVal ((r.drop 4).take 4)) == 0
    && ((byteAt bs 4 ^^^ byteAt r 8) &&& byteAt r 9) == 0
    && ((byteAt bs 8 ^^^ byteAt r 10) &&& byteAt r 11) == 0

/-- The buffer that takes a frame: the lowest matching one, or on an L channel that of its identifier. -/
def State.bufferFor (s : State) (c : Nat) (bs : List Byte) : Option Nat :=
  if 72 ≤ c then some (byteAt bs 0 % 64) else (List.range 64).find? fun k => s.filterHits c k bs

/-- Buffer `k` holds a frame. -/
def State.bufFull (s : State) (c k : Nat) : Bool := tb (s.rd (chObj c 5) 3) k

/-- A stored form and stamp placed in buffer `k`. -/
def State.fillBuffer (s : State) (c k : Nat) (r : List Byte) (shadow : Bool) : State :=
  let s := s.setWin (chObj c 5) 2 (96 * k) (r ++ leBytes 1 (1 + 2 * shadow.toNat))
  s.wr (chObj c 5) 3 (setBit (s.rd (chObj c 5) 3) k true)

/-- A frame for buffer `k` (R161). -/
def State.placeRx (s : State) (c k : Nat) (bs : List Byte) (stamp : Nat) : State :=
  let r := sliceZ bs 0 80 ++ leBytes 4 stamp
  if !s.bufFull c k then s.fillBuffer c k r false
  else
    let full := (mapGet (s.ch c).shadows k).isSome
    let s := s.modCh c fun d => { d with shadows := mapSet d.shadows k r }
    let s := s.setWinB (chObj c 5) 2 (96 * k + 84) 3
    if !full then s
    else
      let s := (s.chCount c 0x10 1).modCh c fun d => { d with overruns := d.overruns + 1 }
      if (s.ch c).overTold then s
      else (s.event (chGroup c) 0x75 (64 + c) k (min 65535 (s.ch c).overrunsPrev)).modCh c fun d => { d with overTold := true }

/-- Buffer `k` released (R161): its shadow becomes the buffer, else it becomes empty. -/
def State.releaseBuffer (s : State) (c k : Nat) : State :=
  match mapGet (s.ch c).shadows k with
  | some r => (s.modCh c fun d => { d with shadows := mapDel d.shadows k }).fillBuffer c k r false
  | none =>
    let s := s.setWin (chObj c 5) 2 (96 * k) (fill 96 0)
    s.wr (chObj c 5) 3 (setBit (s.rd (chObj c 5) 3) k false)

/-- A write of the lock (R161): another value releases the buffer locked before. -/
def State.writeLock (s : State) (c v : Nat) : State :=
  let old := s.rdF (chObj c 5) 4 6 0
  let s := s.wr (chObj c 5) 4 v
  if old = v ∨ 64 ≤ old then s else s.releaseBuffer c old

/-- The Meta item of a received frame (R156). -/
def State.canMeta (s : State) (c : Nat) (buf : Option Nat) : Nat :=
  let d := s.ch c
  buf.getD 0x7F + 128 * (s.matrixOn c).toNat + 256 * (if c < 72 then s.cycleCount c else 0)
    + (if s.matrixOn c && d.running then s.windowCell c % 4 * 2 ^ 14 else 0)

/-- A good received frame placed in the buffers: the buffer that took it (R160). -/
def State.takeRx (s : State) (c : Nat) (bs : List Byte) (stamp : Nat) : Option Nat × State :=
  match s.bufferFor c bs with
  | none => (none, s)
  | some k =>
    if c < 72 ∧ 64 < (parseCan bs).len then (none, s.chCount c 0x11 1)
    else (some k, s.placeRx c k bs stamp)

/-- The counters of a good frame received. -/
def State.countCanRx (s : State) (c : Nat) (bs : List Byte) : State :=
  let v := parseCan bs
  let n := if 72 ≤ c then byteAt bs 2 else v.len
  let s := (s.chCount c 1 1).chCount c 2 n
  if 72 ≤ c then s else s.chCount c (if v.xlf then 5 else if v.fdf then 4 else 3) 1

/-- The counters of a frame sent. -/
def State.countCanTx (s : State) (c n : Nat) : State := (s.chCount c 6 1).chCount c 7 n

/-- The channel's protocol does not take the format of a received frame. -/
def State.foreign (s : State) (c : Nat) (bs : List Byte) : Bool :=
  let v := parseCan bs
  (v.fdf && s.proto c == 1) || (v.xlf && decide (s.proto c ≤ 2))

/-- The channel hears its bus: it can receive. -/
def State.canHears (s : State) (c : Nat) : Bool :=
  s.proto c != 0 && s.integrated c && (decide (72 ≤ c) || decide (s.errState c ≤ 1)) && s.present (chGroup c)
    && !s.chDead c

/-! ### Sending ends (R157–R159, R162, R168) -/

/-- The reference message of the device: base + priority, with the cycle count, and at level 2 device time scaled to NTU as global
time (R171, R172). -/
def State.referenceForm (s : State) (c : Nat) : List Byte :=
  let o := chObj c 9
  let t := s.devNs / s.ntu c
  let data := if s.rdB o 1 2 then leBytes 1 (s.cycleCount c) ++ leBytes 1 0 ++ leBytes 2 t else leBytes 1 (s.cycleCount c)
  canBytes { ide := false, rtr := false, id := s.rdF o 2 10 0 + s.rdF o 1 5 3, fdf := false, xlf := false, brs := false, esi := false,
             sec := false, sdt := 0, len := data.length, vcid := 0, dlc := data.length, af := 0 } data

/-- The master of the bus changed (R171), event 0x0073. -/
def State.masterChange (s : State) (c prio : Nat) (self : Bool) : State :=
  let o := chObj c 9
  let s := (s.wrB o 4 0 self).wrF o 4 10 8 prio
  s.event (chGroup c) 0x73 (64 + c) prio self.toNat

/-- A basic cycle begins with its reference message: window 0. -/
def State.beginCycle (s : State) (c at_ : Nat) : State :=
  (s.wrB (chObj c 9) 4 1 true).modCh c fun d =>
    { d with running := true, col := 0, cycleAt := at_, lastRef := at_, waited := [], served := false }

/-- The offered frame has been sent: counted, its source served. -/
def State.offerSent (s : State) (c : Nat) (o : CanOffer) : State :=
  let s := (s.emit (.frame (64 + c) o.bytes true)).countCanTx c (o.bytes.length - 16)
  let s := s.setErrors c (s.tec c - 1) (s.rec_ c)
  let s := s.modCh c fun d => { d with offer := none }
  if o.src = 0 then
    let s := match (s.ch c).head with
      | some (_, i) => s.probeEnd i.frame
      | none => s
    (s.dropHead c none).takeWaiting (64 + c)
  else if o.src = 1 then s.wr (chObj c 6) 2 (setBit (s.rd (chObj c 6) 2) o.buf false)
  else if o.src = 2 then s
  else
    let s := s.chCount c 0x15 1
    let own := s.rdF (chObj c 9) 1 5 3
    let s := if s.rdB (chObj c 9) 4 0 then s else s.masterChange c own true
    s.beginCycle c (s.now - clockNs (s.worstClocks c o.bytes - 3 * s.nomClocks c))

/-- The data phase is used by a frame. -/
def dataPhase (bs : List Byte) : Bool := (parseCan bs).xlf || ((parseCan bs).fdf && (parseCan bs).brs)

/-! ### LIN (R173–R176) -/

/-- The protected identifier of a LIN identifier (ISO 17987): its parity bits 6 and 7. -/
def linPid (id : Nat) : Nat :=
  let p0 := (bit id 0 + bit id 1 + bit id 2 + bit id 4) % 2
  let p1 := 1 - (bit id 1 + bit id 3 + bit id 4 + bit id 5) % 2
  id % 64 + 64 * p0 + 128 * p1

/-- The LIN checksum: inverted sum with carry, over the data or with the protected identifier (enhanced). -/
def linSum (classic : Bool) (pid : Nat) (data : List Byte) : Nat :=
  let t := data.foldl (fun a b => a + b.toNat) (if classic then 0 else pid)
  255 - (if t = 0 then 0 else (t - 1) % 255 + 1)

/-- A frame record of Table 6.11: its direction, classic bit and length. -/
def State.linFrame (s : State) (c id : Nat) : Nat × Bool × Nat :=
  let b := s.winB (chObj c 0x11) 1 (4 * id)
  (b % 4, tb b 2 || id == 0x3C || id == 0x3D, s.winB (chObj c 0x11) 1 (4 * id + 1))

/-- The stored form of a LIN frame (R155). -/
def linBytes (pid sum : Nat) (classic : Bool) (data : List Byte) : List Byte :=
  leBytes 1 pid ++ leBytes 1 sum ++ leBytes 1 data.length ++ leBytes 1 classic.toNat ++ fill 4 0 ++ data

/-- The data published for an identifier: transmit buffer n, with the responder's response-error bit in its frame (R174). -/
def State.linData (s : State) (c id : Nat) : List Byte :=
  let n := (s.linFrame c id).2.2
  let d := s.winBytes (chObj c 6) 1 (16 * id + 8) n
  let o := chObj c 0x11
  if s.proto c = 5 ∧ s.rdF o 3 5 0 = id then
    let b := s.rdF o 3 11 6
    if b / 8 < n then overlay d (b / 8) [BitVec.ofNat 8 (setBit (byteAt d (b / 8)) (b % 8) (s.ch c).respErr)] else d
  else d

/-- The response published for an identifier. -/
def State.linPublish (s : State) (c id : Nat) : State :=
  let (_, classic, n) := s.linFrame c id
  let d := s.linData c id
  let s := (s.emit (.frame (64 + c) (linBytes (linPid id) (linSum classic (linPid id) d) classic d) true)).countCanTx c n
  s.modCh c fun x => { x with changed := setBit x.changed id false,
                              respErr := if s.proto c = 5 ∧ s.rdF (chObj c 0x11) 3 5 0 = id then false else x.respErr }

/-- A LIN slot error event (R178), once a second. -/
def State.slotError (s : State) (c id kind : Nat) : State :=
  if (s.ch c).slotTold then s
  else (s.event (chGroup c) 0x76 (64 + c) id kind).modCh c fun d => { d with slotTold := true }

/-- A slot record of a schedule: identifier, type, delay, resolving table. -/
def State.linSlot (s : State) (c k : Nat) : Nat × Nat × Nat × Nat :=
  let w := fun b => s.winB (chObj c 0x12) 1 (4 * k + b)
  (w 0 % 64, w 1 % 8, w 2, w 3 % 16)

/-- The first slot of a table. -/
def State.tableStart (s : State) (c t : Nat) : Nat := s.winLe (chObj c 0x12) 2 (2 * t) 2 % 256

/-- A table reaches a type-5 slot (Table 6.12). -/
def State.tableOk (s : State) (c t : Nat) : Bool :=
  (List.range 256).any fun k => decide (s.tableStart c t ≤ k) && (s.linSlot c k).2.1 == 5

/-- Nominal time of a frame of `n` data bytes: a header of 34 bits and a response of 10 × (n + 1) bits, in ns. -/
def State.linNominal (s : State) (c n : Nat) : Nat := clockNs ((34 + 10 * (n + 1)) * s.linClocks c)

/-- Go to the next slot of the schedule: a table written meanwhile starts at its slot 0 (R176), a resolving table that has ended
returns to the interrupted one, and a table at its end starts again. -/
def State.linNext (s : State) (c : Nat) : Nat :=
  let d := s.ch c
  if s.rdF (chObj c 0x11) 2 3 0 ≠ d.table then s.tableStart c (s.rdF (chObj c 0x11) 2 3 0)
  else if (s.linSlot c d.slot).2.1 ≠ 5 then d.slot
  else
    match d.back with
    | some b => if (s.linSlot c b).2.1 = 5 then s.tableStart c d.table else b
    | none => s.tableStart c d.table

/-- The header of a slot sent, with its response published or awaited (R173). -/
def State.linHeader (s : State) (c id typ res delay : Nat) : State :=
  let (dir, _, n) := s.linFrame c id
  let s := s.emit (.linHeader (64 + c) id)
  let s := s.modCh c fun d => { d with lastBus := s.now }
  if dir = 1 then s.linPublish c id
  else if dir = 2 then
    let lim := min (s.now + s.linNominal c n * 14 / 10) (max s.now (s.now + delay))
    s.modCh c fun d => { d with await_ := some (id, lim, if typ = 1 then res + 1 else 0) }
  else s

/-- The commander starts its next slot (R173, R176). -/
def State.linSlotStart (s : State) (c : Nat) : State :=
  let d := s.ch c
  let sw := s.rdF (chObj c 0x11) 2 3 0 != d.table
  let k := s.linNext c
  let (id, typ, delay, res) := s.linSlot c k
  let ns := delay * s.rdF (chObj c 0x11) 2 13 8 * 1000000
  let atEnd := (s.linSlot c d.slot).2.1 == 5
  let s := s.modCh c fun d => { d with
    table := if sw then s.rdF (chObj c 0x11) 2 3 0 else d.table, back := if sw || atEnd then none else d.back,
    slot := if typ = 5 then k else k + 1, slotEnd := s.now + ns, await_ := none }
  if typ = 5 then s
  else if typ = 2 ∧ !tb (s.ch c).changed id then s
  else s.linHeader c id typ res ns

/-- An event-triggered slot's collision (R173): counted, and its resolving table runs once from the end of the slot. -/
def State.linCollision (s : State) (c res : Nat) : State :=
  (s.chCount c 0x1B 1).modCh c fun d => { d with back := some d.slot, slot := s.tableStart c (res - 1), await_ := none }

/-- An egress frame for an L channel (R158, R162): it replaces the buffer of its identifier, or is refused. -/
def State.linTake (s : State) (c q : Nat) (i : QItem) : State :=
  let bs := s.headBytes i
  let id := byteAt bs 0 % 64
  let n := (s.linFrame c id).2.2
  let s := s.popHead (64 + c) q
  if bs.length ≠ 8 + n ∨ byteAt bs 2 ≠ n then ((s.chCount c 0x1C 1).refuseCopy (64 + c) i.frame 4).takeWaiting (64 + c)
  else
    let s := s.setWin (chObj c 6) 1 (16 * id) (sliceZ bs 0 16)
    let s := s.modCh c fun d => { d with changed := setBit d.changed id true, written := setBit d.written id true }
    (s.dropRef i.frame (64 + c)).takeWaiting (64 + c)

/-- Every frame of an L channel's queues moves into its buffers. -/
def State.linEgress (s : State) (c : Nat) : Nat → State
  | 0 => s
  | n + 1 =>
    if !s.present (chGroup c) || s.proto c == 0 || s.listens (64 + c) || s.mode != .run then s
    else
      match s.selectQueue (64 + c) with
      | (none, s) => s
      | (some q, s) =>
        match (s.ptm (64 + c)).q q with
        | [] => s
        | i :: _ =>
          let (gone, s) := s.startCheck (64 + c) q i.frame
          if gone then (s.takeWaiting (64 + c)).linEgress c n else (s.linTake c q i).linEgress c n

end Sys2Proof.Machine
end

