-- ==== Sys2Proof/Machine/Gateway.lean ====
section
/-! DEFINITION. The signal gateway (Chapter 7): jobs and engines (R179–R181), record checks (R183), signals (R185–R188),
transmission and deadlines (R189–R192), copies (R193, R194) and containers (R196–R201). -/

namespace Sys2Proof.Machine

/-- The gateway part of the state changed. -/
def State.withGw (s : State) (f : GwState → GwState) : State := { s with gw := f s.gw }

/-- A field of a PDU record (Table 7.1). -/
def State.pdu (s : State) (n off k : Nat) : Nat := s.winLe 0x5610 0 (32 * n + off) k

/-- The gateway runs: enabled, and the device not frozen (R308). -/
def State.gwOn (s : State) : Bool := s.rdB 0x5600 1 0 && !s.rdB 0x8030 3 0

/-- The engine that takes the jobs of a record (R180). -/
def State.engineOf (s : State) (n : Nat) : Option Nat :=
  ((List.range 4).map fun k => (n + k) % 4).find? fun e => s.present (28 + e)

/-- The engine that serves the timers of a record (R180): its own, or while that is away the one that took them over. -/
def State.timerEngine (s : State) (n : Nat) : Option Nat :=
  let e := mapGetD s.gw.owner (n % 4) (n % 4)
  if s.present (28 + n % 4) then some (n % 4) else if s.present (28 + e) then some e else none

/-- A gateway counter of Table 7.10. -/
def State.gwCount (s : State) (sub n : Nat) : State := s.bump64 0x5600 sub n

/-- A gateway event under its cap (R204); its source is the engine that raises it. -/
def State.gwEvent (s : State) (engine code d0 d1 d2 : Nat) : State :=
  if s.gw.events < 1000 then
    (s.event (28 + engine) code d0 d1 d2).withGw fun g => { g with events := g.events + 1 }
  else s.bump 0x5600 0x11 1

/-- State bits of a record (window 0x5611): 0 received, 1 timed out, 2 change-pending. -/
def State.gwBit (s : State) (n b : Nat) : Bool := tb (s.winB 0x5611 0 (4 * n)) b

/-- A state bit of a record set or cleared. -/
def State.setGwBit (s : State) (n b : Nat) (v : Bool) : State :=
  s.setWinB 0x5611 0 (4 * n) (setBit (s.winB 0x5611 0 (4 * n)) b v)

/-- Present tick number: whole multiples of 100 µs of device time (R189). -/
def State.tickNow (s : State) : Nat := s.nsNow / 100000

/-- The format, length and image of a target (Table 7.1). -/
def State.gwFormat (s : State) (n : Nat) : Nat := s.pdu n 6 1
/-- Length of a target in bytes. -/
def State.gwLength (s : State) (n : Nat) : Nat := s.pdu n 8 2
/-- First byte of a target's image. -/
def State.gwImage (s : State) (n : Nat) : Nat := s.pdu n 24 4 % 2 ^ 19 * 8

/-! ### Record checks (R183, R196) -/

/-- The numbers of the target records. -/
def State.targets (s : State) : List Nat := s.listedRecs 0x5610 0 32 6

/-- The image of a target as (first byte, bytes), rounded up to 8 bytes (R183). -/
def imageSpan (r : List Byte) : Nat × Nat := (leVal ((r.drop 24).take 4) % 2 ^ 19 * 8, (leVal ((r.drop 8).take 2) + 7) / 8 * 8)

/-- Image bytes allocated (0x5600:12). -/
def State.imageBytes (s : State) : Nat :=
  s.targets.foldl (fun a n => a + (imageSpan (s.winBytes 0x5610 0 (32 * n) 32)).2) 0

/-- A PDU record may be written (R183): an abort code, 0 where it is accepted. -/
def State.pduAbort (s : State) (n : Nat) (r : List Byte) : Nat :=
  let b := byteAt r
  let fmt := b 6
  let len := leVal ((r.drop 8).take 2)
  let dst := b 14
  let flags := b 20
  let reserved := decide (leVal (r.take 2) ≥ 1024) || decide (b 7 ≥ 8) || b 15 != 0 || decide (b 23 ≥ 8)
    || decide (leVal ((r.drop 24).take 4) ≥ 2 ^ 19)
    || (if fmt = 2 ∨ fmt = 3 then flags != 0 && flags != 32 else if fmt = 5 then decide (flags ≥ 32) else flags != 0)
  if fmt > 6 ∨ b 7 % 8 > 3 then 0x03000001
  else if reserved then 0x03000002
  else if fmt = 0 then 0
  else
    let badLen :=
      if fmt = 1 ∨ fmt = 4 then decide (len = 0) || decide (8 < len)
      else if fmt = 2 then len == 0 || !fdLengths.contains len
      else decide (len = 0) || decide (2048 < len)
    let badDst :=
      if fmt ≤ 3 then !isC dst else if fmt = 4 then !isL dst else if fmt = 6 then dst != 44 && dst != 46 else false
    let badPeriod := (b 7 % 8 == 1 || b 7 % 8 == 3) && leVal ((r.drop 10).take 2) == 0
    let (o, sz) := imageSpan r
    let clash := s.targets.any fun m =>
      m != n && (let (o', sz') := imageSpan (s.winBytes 0x5610 0 (32 * m) 32); decide (o < o' + sz') && decide (o' < o + sz))
    let lin := fmt == 4 && (s.linFrame (dst - 64) (b 16 % 64)).2.2 != len
    if badLen || badDst || badPeriod || (fmt == 4 && decide (64 ≤ leVal ((r.drop 16).take 4))) then 0x03000001
    else if decide (4194304 < o + sz) then 0x03000001
    else if clash || lin then 0x03000004
    else 0

/-- A container stream record may be written (R196): an abort code, 0 where it is accepted. -/
def State.streamAbort (s : State) (r : List Byte) : Nat :=
  let b := byteAt r
  if b 0 = 0 then (if r.all fun x => x == 0 then 0 else 0x03000001)
  else if 3 < b 0 ∨ 43 < b 1 then 0x03000001
  else if 16 ≤ b 2 ∨ 64 ≤ b 3 ∨ 64 ≤ b 27 ∨ (r.drop 68).any (fun x => x != 0) ∨ (b 0 = 3 ∧ tb (b 2) 3) then 0x03000002
  else
    let max := leVal ((r.drop 4).take 2)
    if max < 64 ∨ 9216 < max ∨ 1000 < leVal ((r.drop 6).take 2) ∨ (b 0 ≠ 3 ∧ b 26 = 0) then 0x03000001
    else if s.portMax (b 1) < max then 0x03000004
    else 0

/-! ### Signals (R185, R186) -/

/-- A bit of a byte string. -/
def bitOf (bs : List Byte) (p : Nat) : Bool := tb (byteAt bs (p / 8)) (p % 8)

/-- The value of a field. -/
def takeBits (bs : List Byte) : List Nat → Nat
  | [] => 0
  | p :: ps => (bitOf bs p).toNat + 2 * takeBits bs ps

/-- A byte string with a field written. -/
def putBits (bs : List Byte) (v : Nat) : List Nat → List Byte
  | [] => bs
  | p :: ps => putBits (overlay bs (p / 8) [BitVec.ofNat 8 (setBit (byteAt bs (p / 8)) (p % 8) (v % 2 == 1))]) (v / 2) ps

/-- All bits of a field and its update bit lie in the first `n` bytes. -/
def within (n : Nat) (ps : List Nat) (u : Option Nat) : Bool :=
  ps.all (fun p => decide (p < 8 * n)) && (match u with | some p => decide (p < 8 * n) | none => true)

/-- The data of an arrival in stored form. -/
def arrivalData (f : Frame) : List Byte :=
  if f.kind = 1 then (f.bytes.drop 16).take (parseCan f.bytes).len
  else if f.kind = 2 then (f.bytes.drop 8).take (byteAt f.bytes 2)
  else (f.bytes.drop 8).take (beAt f.bytes 4 2)

/-- The current image of a target, its first Length bytes. -/
def State.imageOf (s : State) (n : Nat) : List Byte := s.winBytes 0x5612 0 (s.gwImage n) (s.gwLength n)

/-- Bytes written to the current image of a target. -/
def State.setImage (s : State) (n : Nat) (bs : List Byte) : State := s.setWin 0x5612 0 (s.gwImage n) bs

/-- The descriptors whose target a record is, from the route store. -/
def State.descriptorsTo (s : State) (n : Nat) : List Signal :=
  (s.validSlots.filter fun p => entryType p.2.val == 3 && entryResult p.2.val % 65536 == n).map fun p => signalOf (entryResult p.2.val)

/-! ### Sending what the gateway built (R193–R199) -/

/-- A frame or PDU built by the gateway goes to a port: whole, of ingress 45, its Meta item counting passes (R195). -/
def State.gwOut (s : State) (port cls kind domain : Nat) (bs : List Byte) (age stamp passes : Nat) : State :=
  let f0 : Frame := { blankFrame 45 domain cls age with kind := kind, refs := [port], stamp := stamp, passes := passes,
                                                        metaWord := some passes }
  match s.buildFrame f0 bs with
  | some (id, s) => (s.probeBuilt id).enterUnicast port id
  | none => s.refuse f0 45 0xFF 0

/-- A field of a container stream (Table 7.7). -/
def State.stream (s : State) (k off n : Nat) : Nat := s.winLe 0x5620 0 (96 * k + off) n

/-- Bytes of a container stream record in transmitted order. -/
def State.streamBytes (s : State) (k off n : Nat) : List Byte := s.winBytes 0x5620 0 (96 * k + off) n

/-- The frame of an open container without its FCS (R197, R198, R200). -/
def State.containerFrame (s : State) (k : Nat) (entries : List (List Byte)) : List Byte :=
  let fmt := s.stream k 0 1
  let vlan := s.stream k 8 2
  let mac := s.streamBytes k 10 6 ++ s.streamBytes k 16 6 ++ (if vlan = 0xFFFF then [] else beBytes 2 0x8100 ++ beBytes 2 vlan)
  let body := entries.flatten
  let seq := mapGetD s.gw.seqOut k 0
  if fmt = 3 then
    mac ++ beBytes 2 0x22F0 ++ beBytes 1 0x82 ++ beBytes 2 (0x8000 + body.length) ++ beBytes 1 (seq % 256) ++ s.streamBytes k 60 8 ++ body
  else
    let head := beBytes 1 1 ++ beBytes 1 (bit (s.stream k 2 1) 3) ++ beBytes 2 seq ++ beBytes 1 (s.stream k 3 1 % 64)
      ++ beBytes 1 s.ownDevice ++ beBytes 2 body.length
    let v6 := fmt == 2
    let ip := fun off => if v6 then beVal (s.streamBytes k off 16) else beVal (s.streamBytes k off 4)
    mac ++ beBytes 2 (if v6 then 0x86DD else 0x0800)
      ++ ipUdp v6 (s.stream k 27 1 % 64) (s.stream k 26 1) (ip 44) (ip 28) (s.stream k 22 2) (s.stream k 24 2) (head ++ body)

/-- The open container of a stream is sent (R199). -/
def State.flushContainer (s : State) (k : Nat) : State :=
  match mapGet s.gw.opened k with
  | none => s
  | some o =>
    let bs := finishEth (s.containerFrame k o.entries)
    let s := s.withGw fun g => { g with opened := mapDel g.opened k,
                                        seqOut := mapPut 0 g.seqOut k ((mapGetD g.seqOut k 0 + 1) % 65536) }
    let s := if s.probe.stream = some k then { s with probe := { s.probe with inJob := true, stream := none } } else s
    s.gwOut (s.stream k 1 1) (s.stream k 2 1 % 8) 0 (s.stream k 3 1 % 64) bs o.since (compact s.nsNow) 1

/-- The length of the frame, FCS included, that would carry these entries. -/
def State.containerLength (s : State) (k : Nat) (entries : List (List Byte)) : Nat :=
  max 64 ((s.containerFrame k entries).length + 4)

/-- An entry joins the open container of its stream (R199). -/
def State.addEntry (s : State) (k : Nat) (e : List Byte) : State :=
  let s := match mapGet s.gw.opened k with
    | some o => if s.stream k 4 2 < s.containerLength k (o.entries ++ [e]) then s.flushContainer k else s
    | none => s
  let o := (mapGet s.gw.opened k).getD ⟨[], s.nsNow⟩
  let s := s.withGw fun g => { g with opened := mapSet g.opened k { o with entries := o.entries ++ [e] } }
  let s := if s.probe.inJob then { s with probe := { s.probe with inJob := false, stream := some k } } else s
  if s.stream k 6 2 = 0 then s.flushContainer k else s

/-- A byte string padded with 0 to a multiple of 4 bytes. -/
def pad4 (bs : List Byte) : List Byte := bs ++ fill ((4 - bs.length % 4) % 4) 0

/-- The entry of Table 7.9. -/
def State.ferynEntry (s : State) (k id kind chan stamp : Nat) (payload : List Byte) : List Byte :=
  beBytes 4 id ++ beBytes 1 kind ++ beBytes 1 chan ++ beBytes 2 payload.length
    ++ (if tb (s.stream k 2 1) 3 then beBytes 4 stamp else []) ++ pad4 payload

/-- The device time in ns whose low 32 bits are a compact stamp, at or before now (R323). -/
def State.extendStamp (s : State) (c : Nat) : Nat := s.nsNow - (s.nsNow + 2 ^ 32 - c % 2 ^ 32) % 2 ^ 32

/-- The ACF message of a classical, FD or LIN frame (R200). -/
def State.acfMessage (s : State) (bus : Nat) (f : Frame) : List Byte :=
  let data := arrivalData f
  let pad := (4 - data.length % 4) % 4
  let ts := beBytes 8 (s.extendStamp f.stamp)
  if f.kind = 2 then
    beBytes 2 (3 * 512 + (12 + data.length + pad) / 4) ++ beBytes 1 (pad * 64 + 32 + bus % 32) ++ beBytes 1 (byteAt f.bytes 0 % 64)
      ++ ts ++ pad4 data
  else
    let v := parseCan f.bytes
    let b2 := pad * 64 + 32 + v.rtr.toNat * 16 + v.ide.toNat * 8 + v.brs.toNat * 4 + v.fdf.toNat * 2 + v.esi.toNat
    beBytes 2 (512 + (16 + data.length + pad) / 4) ++ beBytes 1 b2 ++ beBytes 1 (bus % 32) ++ ts ++ beBytes 4 v.id ++ pad4 data

/-- A copy or a build that is not sent (R194): counted, refused with reason 4 against port 45, event 0x0081. -/
def State.notSent (s : State) (engine n len code : Nat) (f : Frame) : State :=
  let s := (s.gwCount (if code = 1 then 7 else 0x10) 1).refuse f 45 0xFF 4
  s.gwEvent engine 0x81 (n % 256) (n / 256) (min len 4095 + code * 4096)

/-- The data is sent by an engine in the output format of target `n` (R193, R194, Table 7.6). `src` is the arrival of a whole copy, none for a
build from the image. -/
def State.gwSend (s : State) (engine n : Nat) (data : List Byte) (src : Option Frame) : State :=
  let fmt := s.gwFormat n
  let len := data.length
  let cls := s.pdu n 23 1 % 8
  let dst := s.pdu n 14 1
  let f : Frame := src.getD (blankFrame 45 0 cls s.nsNow)
  let age := (src.map fun f => f.age).getD s.nsNow
  let stamp := (src.map fun f => f.stamp).getD (compact s.nsNow)
  let passes := min 3 ((src.map fun f => f.passes).getD 0 + 1)
  let remote : Bool := match src with
    | some f => f.kind == 1 && (parseCan f.bytes).rtr && !(parseCan f.bytes).fdf && !(parseCan f.bytes).xlf
    | none => false
  let w := s.pdu n 16 4
  let can := fun (fdf xlf : Bool) =>
    canBytes { ide := tb w 31, rtr := false, id := w % 2 ^ 29, fdf := fdf, xlf := xlf, brs := tb (s.pdu n 20 1) 5, esi := false, sec := false,
               sdt := if xlf then s.pdu n 21 1 else 0, len := len, vcid := if xlf then s.pdu n 22 1 else 0,
               dlc := if xlf then 0 else dlcOf len, af := if xlf then s.pdu n 28 4 else 0 } data
  let sent := fun (s : State) => s.gwCount 5 1
  if s.gwLength n < len then s.notSent engine n len 1 f
  else if fmt = 1 then
    if 8 < len then s.notSent engine n len 1 f else sent (s.gwOut dst cls 1 f.domain (can false false) age stamp passes)
  else if fmt = 2 then
    if remote then s.notSent engine n len 2 f
    else if 64 < len then s.notSent engine n len 1 f
    else sent (s.gwOut dst cls 1 f.domain (can true false) age stamp passes)
  else if fmt = 3 then
    if remote ∨ len = 0 then s.notSent engine n len 2 f else sent (s.gwOut dst cls 1 f.domain (can true true) age stamp passes)
  else if fmt = 4 then
    let (_, classic, n') := s.linFrame (dst - 64) (w % 64)
    if len ≠ n' then s.notSent engine n len 2 f
    else sent (s.gwOut dst cls 2 f.domain (linBytes (linPid w) (linSum classic (linPid w) data) classic data) age stamp passes)
  else if fmt = 5 then
    let sf := s.stream dst 0 1
    let xl := f.kind == 1 && (parseCan f.bytes).xlf
    if sf = 0 then s.notSent engine n len 2 f
    else if sf = 3 ∧ (src.isNone ∨ f.kind = 3 ∨ xl) then s.notSent engine n len 2 f
    else
      let e := match src with
        | some g =>
          if sf = 3 then s.acfMessage (s.pdu n 20 1) g
          else if g.kind = 3 then s.ferynEntry dst w 0 0 (compact s.nsNow) data
          else s.ferynEntry dst w g.kind g.ingress g.stamp g.bytes
        | none => s.ferynEntry dst w 0 0 (compact s.nsNow) data
      if s.stream dst 4 2 < s.containerLength dst [e] then s.notSent engine n len 1 f
      else if len = 0 ∧ (src.isNone ∨ f.kind = 3) then s.notSent engine n len 2 f
      else sent (s.addEntry dst e)
  else if fmt = 6 then
    if len = 0 then s.notSent engine n len 2 f
    else sent (s.gwOut dst cls 3 f.domain (beBytes 4 w ++ beBytes 2 len ++ fill 2 0 ++ data) age stamp passes)
  else s

/-! ### Builds and modes (R188, R190, R191) -/

/-- A build of a target (R188): the first Length bytes of its image go out, then every update bit that its descriptors name and
change-pending are cleared. -/
def State.gwBuild (s : State) (n : Nat) : State :=
  let img := s.imageOf n
  let len := s.gwLength n
  let cleared := (s.descriptorsTo n).foldl (fun bs d =>
    match d.dstUpd with
    | some u => if u < 8 * len then putBits bs 0 [u] else bs
    | none => bs) img
  let s := (s.gwSend ((s.engineOf n).getD (n % 4)) n img none).setImage n cleared
  let s := s.setGwBit n 2 false
  s.withGw fun g => { g with built := mapSet g.built n s.nsNow }

/-- The minimum delay since the last build of a target has passed at `t` ns. -/
def State.delayPassed (s : State) (n t : Nat) : Bool :=
  match mapGet s.gw.built n with
  | some b => decide (b + s.pdu n 12 2 * 100000 ≤ t)
  | none => true

/-- After a job has packed into a target (Table 7.4): direct targets are built, on-change ones where they may be. -/
def State.afterPack (s : State) (n : Nat) : State :=
  let m := s.pdu n 7 1 % 8
  if m = 0 then s.gwBuild n
  else if (m = 2 ∨ m = 3) ∧ s.gwBit n 2 ∧ s.delayPassed n s.nsNow then s.gwBuild n
  else s

/-- A target's transmission timer served for the ticks up to `gw.tick` (R189–R191). -/
def State.transmit (s : State) (n : Nat) : State :=
  let m := s.pdu n 7 1 % 8
  let p := s.pdu n 10 2
  let t := s.gw.tick
  if s.gwFormat n = 0 then s
  else if m = 1 then
    match mapGet s.gw.nominal n with
    | none => s
    | some k =>
      if t < k ∨ p = 0 then s
      else
        let late := (t - k) / p
        let s := s.gwCount 0x0A late
        (s.withGw fun g => { g with nominal := mapSet g.nominal n (k + (late + 1) * p) }).gwBuild n
  else if m = 2 ∨ m = 3 then
    let change := s.gwBit n 2 && s.delayPassed n (t * 100000)
    let periodic := m == 3 && (match mapGet s.gw.built n with
      | some b => decide (b + p * 100000 ≤ t * 100000)
      | none => (match mapGet s.gw.nominal n with | some k => decide (k ≤ t) | none => false))
    if change || periodic then s.gwBuild n else s
  else s

/-! ### Jobs (R187) and deadlines (R192) -/

/-- One descriptor of an extraction pass: a value to be packed, or a skip with its reason. -/
inductive Extracted
  | value (d : Signal) (v : Nat)
  | skip (reason : Nat)
  | silent
  deriving DecidableEq, Repr

/-- The extraction of one descriptor (R187). -/
def State.extract (s : State) (data : List Byte) (r : Option RouteSlot) : Extracted :=
  match r with
  | none => .skip 0
  | some r =>
    let d := signalOf (entryResult r.val)
    if !within data.length d.src d.srcUpd then .skip 1
    else if (match d.srcUpd with | some u => !bitOf data u | none => false) then .silent
    else if s.gwFormat d.target = 0 ∨ !within (s.gwLength d.target) d.dst d.dstUpd then .skip 2
    else .value d (takeBits data d.src)

/-- The key of a signal descriptor (Table 4.2). -/
def signalKey (n ord : Nat) : Nat := mkKey 3 0 (n * 2 ^ 49 + ord * 2 ^ 39)

/-- The extraction pass: descriptors 0 to count − 1 in ordinal order. -/
def State.extractPass (s : State) (n : Nat) (data : List Byte) (engine : Nat) : List Nat → State × List (Signal × Nat)
  | [] => (s, [])
  | ord :: rest =>
    let (r, s) := s.lookup (signalKey n ord)
    match s.extract data r with
    | .value d v =>
      let (s, l) := (s.gwCount 3 1).extractPass n data engine rest
      (s, (d, v) :: l)
    | .skip why =>
      ((s.gwCount 9 1).gwEvent engine 0x82 (n % 256) (n / 256) (ord + 1024 * why)).extractPass n data engine rest
    | .silent => s.extractPass n data engine rest

/-- One value packed into the current image of its target (R187). -/
def State.pack (s : State) (d : Signal) (v : Nat) : State :=
  let img := s.imageOf d.target
  let changed := takeBits img d.dst != v
  let img := putBits img v d.dst
  let img := match d.dstUpd with
    | some u => putBits img 1 [u]
    | none => img
  let s := (s.setImage d.target img).gwCount 3 1
  if changed then s.setGwBit d.target 2 true else s

/-- The targets of a list of values, each once. -/
def packTargets (l : List (Signal × Nat)) : List Nat := (l.map fun x => x.1.target).eraseDups

/-- A job of an engine runs (R187, R192, R193): the source's deadline restarts, its signals are extracted and packed, its copy is
sent. -/
def State.runJob (s : State) (engine id n : Nat) : State :=
  match s.frame? id with
  | none => s
  | some f =>
    let data := arrivalData f
    let s := ((s.gwCount 4 1).setGwBit n 0 true).setGwBit n 1 false
    let dl := s.pdu n 4 2
    let s := s.withGw fun g => { g with deadline := if dl = 0 then mapDel g.deadline n else mapSet g.deadline n (s.nsNow + dl * 100000) }
    let (s, vs) := s.extractPass n data engine (List.range (s.pdu n 0 2 % 1024))
    let s := s.probeStep id 0x13
    let s := (s.forEach vs fun s x => s.pack x.1 x.2).probeStep id 0x14
    let s := if s.probe.frame = some id then { s with probe := { s.probe with inJob := true } } else s
    let s := s.forEach (packTargets vs) State.afterPack
    let m := s.pdu n 2 2
    let s := if m = 0xFFFF ∨ s.gwFormat m = 0 then s else s.gwSend engine m data (some f)
    let s := { s with probe := { s.probe with inJob := false, frame := if s.probe.frame = some id then none else s.probe.frame } }
    s.dropRef id 45

/-- The oldest job of an engine is taken and run (R187). A frame whose gateway has been disabled is refused (R203). -/
def State.takeJob (s : State) (e : Nat) : State :=
  match mapGetD s.gw.jobs e [] with
  | [] => s
  | (id, n) :: r =>
    if !s.works (28 + e) then s
    else
      let s := s.withGw fun g => { g with jobs := mapPut [] g.jobs e r }
      if s.gwOn then s.runJob e id n else s.refuseCopy 45 id 4

/-- A frame leaves port 45's queues for the gateway (R179–R181, R195, R203): it becomes a job, or waits to be opened. -/
def State.gwDispatch (s : State) (id : Nat) : State :=
  match s.frame? id with
  | none => s
  | some f =>
    if !s.gwOn then s.refuseCopy 45 id 4
    else if 3 ≤ f.passes then (s.gwCount 0x0F 1).refuseCopy 45 id 4
    else if f.handle = 0 then
      if (s.engineOf 0).isNone then s.refuseCopy 45 id 4
      else s.withGw fun g => { g with waiting := g.waiting ++ [id] }
    else
      match s.engineOf (f.handle - 1) with
      | none => s.refuseCopy 45 id 4
      | some e =>
        let q := mapGetD s.gw.jobs e []
        if 1024 ≤ q.length then (s.gwCount 8 1).refuseCopy 45 id 0
        else s.withGw fun g => { g with jobs := mapSet g.jobs e (q ++ [(id, f.handle - 1)]) }

/-- The head of a queue of port 45 is dispatched. -/
def State.gwSelect (s : State) : State :=
  match s.selectQueue 45 with
  | (none, s) => s
  | (some q, s) =>
    match (s.ptm 45).q q with
    | [] => s
    | i :: _ =>
      let (gone, s) := s.startCheck 45 q i.frame
      if gone then s.takeWaiting 45
      else
        match s.frame? i.frame with
        | none => s
        | some f =>
          if f.poison.isSome then (s.popHead 45 q).discardPoisoned i.frame
          else ((s.popHead 45 q).gwDispatch i.frame).takeWaiting 45

/-- Default substitution (R192): for every descriptor of the source the target field comes from the default image, its update bit
is cleared, and a different value marks change-pending. -/
def State.substitute (s : State) (n : Nat) : List Nat → State
  | [] => s
  | ord :: rest =>
    let (r, s) := s.lookup (signalKey n ord)
    match r with
    | none => s.substitute n rest
    | some r =>
      let d := signalOf (entryResult r.val)
      if s.gwFormat d.target = 0 ∨ !within (s.gwLength d.target) d.dst d.dstUpd then s.substitute n rest
      else
        let dflt := s.winBytes 0x5613 0 (s.gwImage d.target) (s.gwLength d.target)
        let v := takeBits dflt d.dst
        let img := s.imageOf d.target
        let changed := takeBits img d.dst != v
        let img := putBits img v d.dst
        let img := match d.dstUpd with
          | some u => putBits img 0 [u]
          | none => img
        let s := s.setImage d.target img
        (if changed then s.setGwBit d.target 2 true else s).substitute n rest

/-- A source's deadline has passed without an arrival (R192). -/
def State.deadlineOver (s : State) (n : Nat) : State :=
  let s := s.withGw fun g => { g with deadline := mapDel g.deadline n }
  let s := s.substitute n (List.range (s.pdu n 0 2 % 1024))
  let s := (s.setGwBit n 1 true).gwCount 6 1
  s.gwEvent ((s.engineOf n).getD (n % 4)) 0x80 (n % 256) (n / 256) 0

/-- The current images loaded from the default images (R192). -/
def State.loadImages (s : State) : State :=
  let lo := winKey 0x5612 0 0
  let hi := winKey 0x5613 0 0
  let defaults := s.wins.filterMap fun c => if hi ≤ c.1 && c.1 < hi + 2 ^ 24 then some (c.1 - hi, c.2) else none
  let kept := s.wins.filter fun c => !(lo ≤ c.1 && c.1 < lo + 2 ^ 24)
  { s with wins := defaults.foldl (fun m c => mapPut (byteDefault (lo + c.1)) m (lo + c.1) c.2) kept }

/-- Cyclic instants of a record start at the first tick after now (R190). -/
def State.startNominal (s : State) (n : Nat) : State :=
  let m := s.pdu n 7 1 % 8
  s.withGw fun g => { g with
    nominal := if s.gwFormat n ≠ 0 ∧ (m = 1 ∨ m = 3) then mapSet g.nominal n (s.tickNow + 1) else mapDel g.nominal n }

/-- The gateway is enabled (R192, R203): images are loaded, the received and state bits start anew, timers start. -/
def State.gwEnable (s : State) : State :=
  let s := s.loadImages.dropWins (winKey 0x5611 0 0) (winKey 0x5611 0 0 + 2 ^ 24)
  let s := s.withGw fun g => { g with deadline := [], built := [], nominal := [], tick := s.tickNow }
  let srcs := (s.listedRecs 0x5610 0 32 4 ++ s.listedRecs 0x5610 0 32 5).eraseDups
  let s := s.forEach srcs fun s n =>
    s.withGw fun g => { g with deadline := mapSet g.deadline n (s.nsNow + s.pdu n 4 2 * 100000) }
  s.forEach s.targets State.startNominal

/-- A PDU record written (R183, R190, R192): its image is reloaded where its offset or length changed, and its instants start. -/
def State.writePdu (s : State) (n : Nat) (r : List Byte) : State :=
  let old := s.winBytes 0x5610 0 (32 * n) 32
  let s := s.setWin 0x5610 0 (32 * n) (sliceZ r 0 32)
  let moved := imageSpan old != imageSpan r || leVal ((old.drop 8).take 2) != leVal ((r.drop 8).take 2)
  let s := if s.gwFormat n ≠ 0 ∧ moved then
      s.setWin 0x5612 0 (s.gwImage n) (s.winBytes 0x5613 0 (s.gwImage n) ((s.gwLength n + 7) / 8 * 8))
    else s
  let s := if s.pdu n 4 2 = 0 then s.withGw fun g => { g with deadline := mapDel g.deadline n } else s
  if s.gwOn then s.startNominal n else s

/-! ### Containers received (R201) -/

/-- What a frame at port 45 without a handle turns out to be: malformed with a reason of Table 7.12, or a container with its
source device, domain, sequence (Feryn only) and entries as (kind, PDU identifier or 0, stored form or data, stamp). -/
inductive Opened
  | bad (reason : Nat)
  | feryn (device domain seq : Nat) (entries : List (Nat × Nat × List Byte × Option Nat)) (skipped : Nat)
  | acf (entries : List (Nat × Nat × List Byte × Option Nat)) (skipped : Nat)
  deriving DecidableEq, Repr

/-- The entries of a Feryn container; none where one runs past the end. `skipped` counts kinds that are never sent. -/
def ferynEntries (stamps : Bool) : Nat → List Byte → Option (List (Nat × Nat × List Byte × Option Nat) × Nat)
  | 0, _ => none
  | n + 1, bs =>
    if bs = [] then some ([], 0)
    else
      let h := if stamps then 12 else 8
      let len := beAt bs 6 2
      let tot := h + (len + 3) / 4 * 4
      if bs.length < h ∨ bs.length < tot ∨ len = 0 ∨ 2064 < len then none
      else
        match ferynEntries stamps n (bs.drop tot) with
        | none => none
        | some (l, k) =>
          let kind := byteAt bs 4
          if 2 < kind then some (l, k + 1)
          else some ((kind, beAt bs 0 4, (bs.drop h).take len, if stamps then some (beAt bs 8 4) else none) :: l, k)

/-- One ACF message (R200): its stored form, none for a type that is skipped. -/
def acfFrame (bs : List Byte) : Option (Nat × Nat × List Byte × Option Nat) :=
  let typ := byteAt bs 0 / 2
  let pad := byteAt bs 2 / 64
  let b2 := byteAt bs 2
  let h := if typ = 1 then 16 else if typ = 2 then 8 else 12
  let data := (bs.drop h).take (bs.length - h - pad)
  let can : CanView := { ide := tb b2 3, rtr := tb b2 4, id := beAt bs (h - 4) 4 % 2 ^ 29, fdf := tb b2 1, xlf := false, brs := tb b2 2,
                         esi := tb b2 0, sec := false, sdt := 0, len := data.length, vcid := 0, dlc := dlcOf data.length, af := 0 }
  let stamp := if typ ≠ 2 ∧ tb b2 5 then some (beAt bs 4 8 % 2 ^ 32) else none
  if typ = 1 ∨ typ = 2 then some (1, 0, canBytes can data, stamp)
  else if typ = 3 then
    let pid := linPid (byteAt bs 3)
    some (2, 0, linBytes pid (linSum false pid data) false data, stamp)
  else none

/-- The ACF messages of an NTSCF payload; none where one runs past the end. -/
def acfEntries : Nat → List Byte → Option (List (Nat × Nat × List Byte × Option Nat) × Nat)
  | 0, _ => none
  | n + 1, bs =>
    if bs = [] then some ([], 0)
    else
      let tot := beAt bs 0 2 % 512 * 4
      let typ := byteAt bs 0 / 2
      let h := if typ = 1 then 16 else if typ = 2 then 8 else 12
      if tot = 0 ∨ bs.length < tot ∨ (typ ≤ 3 ∧ tot < h + byteAt bs 2 / 64) then none
      else
        match acfEntries n (bs.drop tot) with
        | none => none
        | some (l, k) =>
          match acfFrame (bs.take tot) with
          | some e => some (e :: l, k)
          | none => some (l, k + 1)

/-- The UDP checksum over pseudo header, header and payload is right, or 0. -/
def udpGood (bs : List Byte) : Bool :=
  let v := parseEth bs
  let n := beAt bs (v.l4 + 4) 2
  let a := if v.v6 then 16 else 4
  beAt bs (v.l4 + 6) 2 == 0
    || checksum (sum16 (beBytes a v.sip ++ beBytes a v.dip ++ beBytes 2 17 ++ beBytes 2 n ++ sliceZ bs v.l4 n)) 0 == 0

/-- The frame is opened (R201). -/
def State.openFrame (s : State) (bs : List Byte) : Opened :=
  let v := parseEth bs
  let port := s.rdF 0x5601 1 15 0
  if (v.v4 || v.v6) && v.proto == 17 && !v.frag && v.dport == port && port != 0 then
    let ihl := byteAt bs v.off % 16
    let mf := v.v4 && tb (byteAt bs (v.off + 6)) 5
    let n := beAt bs (v.l4 + 4) 2
    if (v.v4 && ihl != 5) || mf then .bad 2
    else if n < 8 ∨ bs.length < v.l4 + n + 4 then .bad 5
    else if !udpGood bs then .bad 3
    else
      let p := udpPayload bs
      if byteAt p 0 ≠ 1 then .bad 4
      else if p.length < 8 + beAt p 6 2 then .bad 5
      else
        match ferynEntries (tb (byteAt p 1) 0) 1600 ((p.drop 8).take (beAt p 6 2)) with
        | none => .bad 5
        | some (l, k) => .feryn (byteAt p 5 % 8) (byteAt p 4 % 64) (beAt p 2 2) l k
  else if v.etype == 0x22F0 && byteAt bs v.off == 0x82 && s.rdB 0x5601 2 0 then
    let n := beAt bs (v.off + 1) 2 % 2048
    if bs.length < v.off + 12 + n + 4 then .bad 5
    else
      match acfEntries 600 (sliceZ bs (v.off + 12) n) with
      | none => .bad 5
      | some (l, k) => .acf l k
  else .bad 1

/-- A malformed container (R201): discarded whole, counted, event 0x0083. -/
def State.badContainer (s : State) (id reason : Nat) : State :=
  match s.frame? id with
  | none => s
  | some f => ((s.gwCount 0x0C 1).gwEvent ((s.engineOf 0).getD 0) 0x83 f.ingress reason 0).dropRef id 45

/-- The sequence of a Feryn container followed (R201). -/
def State.followSeq (s : State) (device domain seq : Nat) : State :=
  let k := device * 64 + domain
  let s := match mapGet s.gw.seqIn k with
    | some l => if (l + 1) % 65536 = seq then s else s.gwCount 0x0E 1
    | none => s
  s.withGw fun g => { g with seqIn := mapSet g.seqIn k seq }

end Sys2Proof.Machine
end

