-- ==== Sys2Proof/Machine/Host.lean ====
section
/-! DEFINITION. The PCIe host bridge's own operations (Chapter 16): MSI-X messages (R421, R422), deferred errors (R420), byte lanes
(R412), prefetch (R414) and resets (R403). Accesses that reach the dictionary are in HostExec.lean. -/

namespace Sys2Proof.Machine

/-- The host part of the state changed. -/
def State.withHost (s : State) (f : HostState → HostState) : State := { s with host := f s.host }

/-! ### MSI-X (R421, R422) -/

/-- A byte of the MSI-X table; every entry is masked until written (PCIe). -/
def State.msixByte (s : State) (o : Nat) : Nat := (mapGetD s.host.msix o (if o % 16 = 12 then 1 else 0)).toNat

/-- A vector is masked. -/
def State.masked (s : State) (v : Nat) : Bool := s.msixByte (16 * v + 12) % 2 == 1

/-- A message goes out; a masked vector sets its pending bit (R422). -/
def State.sendVector (s : State) (v : Nat) : State :=
  if s.masked v then s.withHost fun h => { h with pendingBits := setBit h.pendingBits v true }
  else (s.emit (.msix v)).withHost fun h => { h with sentAt := mapSet h.sentAt v s.now, pendingBits := setBit h.pendingBits v false }

/-- Vectors 0–2: at most one message in any 10 µs; one that is held back is sent at their end (R422). -/
def State.sideVector (s : State) (v : Nat) : State :=
  if !s.rdB 0x20A0 1 7 then s
  else
    match mapGet s.host.sentAt v with
    | some t =>
      if s.now < t + 10000 then
        if (mapGet s.host.heldMsg v).isSome then s else s.withHost fun h => { h with heldMsg := mapSet h.heldMsg v (t + 10000, 0) }
      else s.sendVector v
    | none => s.sendVector v

/-- A ring record field (R417). -/
def State.ring (s : State) (r off n : Nat) : Nat := s.winLe 0x20A2 0 (32 * r + off) n

/-- A ring's vector: 8–15 for rings 0–7, 16–23 for rings 8–15. -/
def ringVector (r : Nat) : Nat := 8 + r

/-- One descriptor of a ring has completed: its message is sent at the coalesce count, else held for the coalesce delay. -/
def State.ringMessage (s : State) (r : Nat) : State :=
  if !tb (s.ring r 10 1) 1 then s
  else
    let v := ringVector r
    let (due, k) := (mapGet s.host.heldMsg v).getD (s.now + s.ring r 12 2 * 1000, 0)
    if max 1 (s.ring r 11 1) ≤ k + 1 then (s.withHost fun h => { h with heldMsg := mapDel h.heldMsg v }).sendVector v
    else s.withHost fun h => { h with heldMsg := mapSet h.heldMsg v (due, k + 1) }

/-- A held message is sent when its time has come. -/
def State.releaseMessage (s : State) (v : Nat) : State :=
  match mapGet s.host.heldMsg v with
  | some (due, _) =>
    if due ≤ s.now then (s.withHost fun h => { h with heldMsg := mapDel h.heldMsg v }).sendVector v else s
  | none => s

/-! ### Deferred errors (R420) -/

/-- A record in the deferred-error ring (Table 16.5), event 0x0112 and vector 0. The coupling tag of the internal request is a free
value. DESIGN CHOICE, log entry 36. -/
def State.deferred (s : State) (window epoch reason off seq code target : Nat) : State :=
  let (tag, s) := s.draw
  let n := s.rd 0x1300 1
  let t := s.clockNow
  let r := leBytes 4 t.2 ++ leBytes 4 (t.1 % 2 ^ 32) ++ leBytes 1 window ++ leBytes 1 (tag % 256) ++ leBytes 1 epoch ++ leBytes 1 reason
    ++ leBytes 4 off ++ leBytes 4 seq ++ leBytes 4 code ++ leBytes 1 target ++ fill 7 0
  let full := s.winB 0x1301 0 (n % 256 * 32 + 11) != 0
  let s := (s.setWin 0x1301 0 (n % 256 * 32) r).bump 0x1300 1 1
  let s := if full then s.bump 0x1300 2 1 else s
  (s.event 41 0x112 reason window (off % 65536)).sideVector 0

/-! ### Byte lanes and prefetch (R412–R414) -/

/-- The bytes of an access under the data-invariant rule: each aligned group of four reversed. `off` is the offset of the first. -/
def laneSwap (off : Nat) (bs : List Byte) : List Byte :=
  (List.range bs.length).map fun k =>
    let a := off + k
    let b := a / 4 * 4 + (3 - a % 4)
    bs.getD (b - off) (bs.getD k 0)

/-- A prefetch buffer discarded and counted (R414). -/
def State.dropPrefetch (s : State) (w : Nat) : State :=
  if (mapGet s.host.prefetch w).isSome then
    (s.bump 0x20A0 5 1).withHost fun h => { h with prefetch := mapDel h.prefetch w }
  else s

/-- Every prefetch buffer discarded. -/
def State.dropPrefetches (s : State) : State := s.forEach (s.host.prefetch.map Prod.fst) State.dropPrefetch

/-! ### Resets (R403) -/

/-- A busy completion of a delayed read: 0xFF in bytes 0–7, the busy abort in bytes 8–11 (R409). -/
def busySlot : List Byte := fill 8 0xFF ++ leBytes 4 0x05000001 ++ fill 4 0

/-- The bytes of a completion for BAR0: a part of a slot of 16 bytes, with the lanes of 0x20A0:03 [0] (R405, R412). -/
def State.slotPart (s : State) (off len : Nat) (slot : List Byte) : List Byte :=
  let bs := sliceZ slot 0 16
  sliceZ (if s.rdB 0x20A0 3 0 then laneSwap 0 bs else bs) (off % 16) len

/-- A delayed read discarded (R409): completed busy, counted, recorded with reason 6. -/
def State.discardRead (s : State) (r : HeldRead) : State :=
  let s := (s.emit (.completion r.tag (s.slotPart r.off r.len busySlot))).bump 0x20A0 4 1
  let s := s.withHost fun h => { h with reads := h.reads.filter fun x => x.tag != r.tag }
  s.deferred 0 (if s.present 45 then s.epoch 45 else 0) (6 + 128) r.off 0 0x05000001 45

/-- The held reads completed busy (a drain of R46), or dropped without completion. -/
def State.endReads (s : State) (busy : Bool) : State :=
  if busy then s.forEach s.host.reads State.discardRead
  else (s.bump 0x20A0 8 (if s.present 45 then s.host.reads.length else 0)).withHost fun h => { h with reads := [] }

/-- The link of H goes up or down (event 0x0110, vector 2). -/
def State.pcieLink (s : State) (up : Bool) (speed width : Nat) : State :=
  if !up && !s.rdB 0x20A0 1 7 then s
  else
  let s := s.wr 0x20A0 1 (if up then speed + 8 * width + 128 else 0)
  (s.event 41 0x110 up.toNat (s.rd 0x20A0 1 % 256) 0).sideVector 2

/-- Configuration space, BARs and MSI-X table return to their defaults. -/
def State.configDefaults (s : State) : State := s.withHost fun h => { h with msix := [], pendingBits := 0, heldMsg := [], sentAt := [] }

/-- Every ring enable is cleared. -/
def State.clearRings (s : State) : State := s.withHost fun h => { h with enabled := 0 }

end Sys2Proof.Machine
end

