-- ==== Sys2Proof/Machine/Sess.lean ====
section
/-! DEFINITION. Sessions, roles, locks and groups of the dictionary (Chapter 17): R427–R434, R443, R447. -/

namespace Sys2Proof.Machine

/-- The session part of the state changed. -/
def State.withSess (s : State) (f : SessState → SessState) : State := { s with sess := f s.sess }

/-- The host's session (Table 17.2). -/
def hostSess : Nat := 0x200
/-- The warden's session. -/
def wardenSess : Nat := 0x300

/-- The role of a session (Table 17.2): 0 host, 1 service tool, 2 consist master, 3 warden; none for a number that is not used or a
Dalmoly session that is not open. DEDUCED, log entry 48. -/
def State.roleOf (s : State) (sess : Nat) : Option Nat :=
  if sess = hostSess then some 0
  else if 0x100 ≤ sess ∧ sess ≤ 0x147 then some 1
  else if 1 ≤ sess ∧ sess ≤ 16 then (mapGet s.sess.dal sess).map fun d => d.role
  else if 0x400 ≤ sess ∧ sess ≤ 0x4FF then some 2
  else if sess = wardenSess then some 3
  else none

/-- A session's own objects. -/
def State.own (s : State) (sess : Nat) : SessLocal := mapGetD s.sess.own sess ⟨0, 0, 0⟩

/-- A session's own objects changed. -/
def State.modOwn (s : State) (sess : Nat) (f : SessLocal → SessLocal) : State :=
  s.withSess fun x => { x with own := mapPut ⟨0, 0, 0⟩ x.own sess (f (mapGetD x.own sess ⟨0, 0, 0⟩)) }

/-! ### Locks (R429–R431) -/

/-- The lock of an index that holds now. -/
def State.lockOf (s : State) (idx : Nat) : Option ObjLock :=
  match mapGet s.sess.locks idx with
  | some l => (match l.until_ with
    | some t => if s.now < t then some l else none
    | none => some l)
  | none => none

/-- Another session holds the lock of an index. -/
def State.lockedFor (s : State) (sess idx : Nat) : Bool :=
  match s.lockOf idx with
  | some l => l.sess != sess
  | none => false

/-- The hold time in ns (0x1120:01). -/
def State.holdNs (s : State) : Nat := s.rdF 0x1120 1 13 0 * 1000000

/-- A session takes or renews the lock of an index; one held without end by a group, a transfer or a claim stays so. -/
def State.takeLock (s : State) (sess idx : Nat) : State :=
  match s.lockOf idx with
  | some ⟨h, none⟩ => if h = sess then s else s.withSess fun x => { x with locks := mapSet x.locks idx ⟨sess, some (s.now + s.holdNs)⟩ }
  | _ => s.withSess fun x => { x with locks := mapSet x.locks idx ⟨sess, some (s.now + s.holdNs)⟩ }

/-- A session holds the lock of an index without end. -/
def State.claimLock (s : State) (sess idx : Nat) : State :=
  s.withSess fun x => { x with locks := mapSet x.locks idx ⟨sess, none⟩ }

/-- A lock released. -/
def State.freeLock (s : State) (idx : Nat) : State := s.withSess fun x => { x with locks := mapDel x.locks idx }

/-- Locks held now (0x1120:03). -/
def State.locksHeld (s : State) : Nat := (s.sess.locks.filter fun l => (s.lockOf l.1).isSome).length

/-! ### Groups and the end of sessions -/

/-- The open group of a session. -/
def State.groupOf (s : State) (sess : Nat) : Option (List Staged) := mapGet s.sess.groups sess

/-- A receive-buffer lock names a buffer: its object's lock is a claim (R430). -/
def State.claimed (s : State) (idx : Nat) : Bool :=
  0x4000 ≤ idx && idx < 0x4C00 && idx % 0x20 == 5 && s.rdF idx 4 6 0 < 64

/-- A session's group ends and the locks it held are released, but for claims of R430 (R432, R443). -/
def State.dropGroup (s : State) (sess : Nat) : State :=
  match s.groupOf sess with
  | none => s
  | some l =>
    let idxs := (l.map fun e => e.idx).eraseDups
    s.withSess fun x => { x with groups := mapDel x.groups sess,
                                 locks := x.locks.filter fun k => !(k.2.sess == sess && idxs.contains k.1 && !s.claimed k.1) }

/-- Every lock of a session is released. -/
def State.dropLocks (s : State) (sess : Nat) : State :=
  s.withSess fun x => { x with locks := x.locks.filter fun k => k.2.sess != sess }

/-- A session's group, locks and own objects end; its SDO transfer is discarded. A receive-buffer lock that the session claimed
(R430) is released: its object reads 0x7F and the buffer is freed. A forwarding slot that serves it is free again. -/
def State.clearSession (s : State) (sess : Nat) : State :=
  let claims := s.sess.locks.filterMap fun k =>
    if k.2.sess == sess && k.2.until_.isNone && decide (0x4000 ≤ k.1) && decide (k.1 < 0x4C00) && k.1 % 0x20 == 5 then some k.1 else none
  let s := s.forEach claims fun s idx => s.writeLock ((idx - 0x4000) / 0x20) 0x7F
  let s := (s.dropGroup sess).dropLocks sess
  let s := { s with consist := { s.consist with slots := s.consist.slots.filter fun k => k.2.sess != sess } }
  s.withSess fun x => { x with own := mapDel x.own sess, targets := mapDel x.targets sess,
                               sdo := if 0x100 ≤ sess ∧ sess ≤ 0x147 then mapDel x.sdo (sess - 0x100) else x.sdo }

/-- A Dalmoly session ends with a cause of event 0x0121 (R443). -/
def State.endDalmoly (s : State) (n cause : Nat) : State :=
  match mapGet s.sess.dal n with
  | none => s
  | some d =>
    let s := (s.clearSession n).withSess fun x => { x with dal := mapDel x.dal n }
    s.event 45 0x121 cause d.role n

/-- The host's session ends with a reset of the bridge (R444). -/
def State.endHostSession (s : State) : State := s.clearSession hostSess

/-- A QUENCH names a session (R447): a Dalmoly session ends; an SDO or BAR0 session is discarded and blocked for 10 s. -/
def State.quenchSession (s : State) (sess : Nat) : State :=
  if 1 ≤ sess ∧ sess ≤ 16 then s.endDalmoly sess 3
  else if sess = hostSess ∨ (0x100 ≤ sess ∧ sess ≤ 0x147) then
    (s.clearSession sess).withSess fun x => { x with blocked := mapSet x.blocked sess (s.now + 10000000000) }
  else s

/-- A session is blocked after a QUENCH. -/
def State.blocked (s : State) (sess : Nat) : Bool :=
  match mapGet s.sess.blocked sess with
  | some t => decide (s.now < t)
  | none => false

/-- The warden restarts (R398, R447): Dalmoly sessions end with reason 4, locks are released, groups and SDO transfers discarded. -/
def State.wardenLost (s : State) : State :=
  let s := s.forEach (s.sess.dal.map Prod.fst) fun s n => s.endDalmoly n 4
  let s := s.forEach ((s.sess.own.map Prod.fst) ++ (s.sess.locks.map fun k => k.2.sess)).eraseDups fun s n => s.clearSession n
  s.withSess fun x => { x with locks := [], groups := [], sdo := [], own := [] }

/-- A session number of the Dalmoly window (Table 17.10 sub 07). -/
def State.dalRecord (s : State) (n : Nat) : List Byte :=
  match mapGet s.sess.dal n with
  | none => fill 16 0
  | some d =>
    leBytes 1 1 ++ leBytes 1 d.role ++ leBytes 2 n ++ leBytes 4 d.last ++ leBytes 4 ((s.now - d.at_) / 1000000000)
      ++ leBytes 1 ((s.groupOf n).isSome).toNat ++ fill 3 0

/-- The lowest free Dalmoly session number. -/
def State.freeSession (s : State) : Option Nat :=
  ((List.range 16).map (· + 1)).find? fun n => (mapGet s.sess.dal n).isNone

end Sys2Proof.Machine
end

