-- ==== Sys2Proof/Machine/Restart.lean ====
section
/-! DEFINITION. What a fence takes from a carriage and what its return brings back (Table 2.7, R56, R322, R380, R398, R403), the
end of a drain and of the action behind it (R46, R48, R54), swaps (R57–R60), retirement (R61) and the in-service tests (R63,
R64). -/

namespace Sys2Proof.Machine

/-! ### What a fence takes -/

/-- Frames of the buffer erased, with the operations and holds that belong to them. -/
def State.loseFrames (s : State) (ids : List Nat) : State :=
  let s := s.forEach ids State.eraseFrame
  let s := s.withCrypto fun c => { c with ops := c.ops.filter fun o => !ids.contains o.frame }
  s.withFw fun f => { f with held := f.held.filter fun h => !ids.contains h.frame }

/-- An ingress group holds no traffic: its queues, the frames it has not released, and its learning requests are lost; a frame in
reception that has been released ends bad. -/
def State.loseIngress (s : State) (g : Nat) : State :=
  let mine := s.buf.frames.filter fun x => ingressGroup x.2.ingress == g && !x.2.built
  let lost := (mine.filter fun x => !x.2.released || s.fw.held.any fun h => h.frame == x.1).map Prod.fst
  let cut := (mine.filter fun x => x.2.released && !x.2.whole).map Prod.fst
  let s := s.forEach cut fun s id => (s.modFrame id fun f => { f with whole := true, status := 2 }).closeTx id
  let s := s.loseFrames lost
  let s := s.withBuf fun b => { b with ingress := b.ingress.filter fun q => ingressGroup q.1 != g }
  let s := s.withRoute fun t => { t with learnQ := t.learnQ.filter fun r => r.group != g }
  match s.buf.flush with
  | some w =>
    if !w.delivery && ingressGroup w.port == g then (s.withBuf fun b => { b with flush := none }).wr 0x2064 2 0 else s
  | none => s

/-- A cell bank is lost: each cell in it is marked poisoned (Table 2.7). -/
def State.loseCells (s : State) (bank : Nat) : State :=
  s.forEach s.buf.frames fun s x =>
    s.forEach ((List.range x.2.cells.length).filter fun i => x.2.cells.getD i 0 == bank) fun s i => s.markPoison x.1 i 0

/-- The queues of a port lost: every copy in them is dropped, the frame in transmission ends stomped. -/
def State.loseQueues (s : State) (p : Nat) : State :=
  let s := s.forEach ((s.ptm p).queues.flatMap fun q => q.2.map fun i => i.frame) fun s id => s.dropRef id p
  let s := s.withCrypto fun c => { c with ops := c.ops.filter fun o =>
    !(o.port == p && (o.kind == 0 || o.kind == 2 || o.kind == 5)) }
  let s := s.modPtm p fun t => { t with queues := [], finish := [], virtual := 0, deficit := [], drr := [] }
  match (s.pdyn p).tx with
  | some t => s.endStomped p t ((s.now - t.start) * s.portKbps p / 8000000)
  | none => s

/-- An egress group holds no traffic. -/
def State.loseEgress (s : State) (g : Nat) : State :=
  s.forEach ((s.tm.ports.map Prod.fst).filter fun p => egressGroup p == g) State.loseQueues

/-- A cipher cluster stops: its operations are handed over again, and its keys are lost unless they stand in retention (R49,
R380). -/
def State.loseCluster (s : State) (k : Nat) (retain : Bool) : State :=
  let s := s.withCrypto fun c => { c with ops := c.ops.map fun o => if o.cluster = k ∧ o.phase ≠ 0 then { o with phase := 0 } else o }
  let s := if retain then s
    else s.withCrypto fun c => { c with keys := c.keys.filter fun x => x.1 / 8192 != k, derive_ := c.derive_.filter fun x => x / 8192 != k }
  s.startOps

/-- A gateway engine stops: its jobs are dispatched again (R49, R180). -/
def State.loseEngine (s : State) (e : Nat) : State :=
  let jobs := mapGetD s.gw.jobs e []
  let s := s.withGw fun g => { g with jobs := mapDel g.jobs e }
  s.forEach jobs fun s j => s.gwDispatch j.1

/-- A channel of an edge group that stops (R56): a frame in reception is lost, a frame to be sent is dropped, a recovery is
abandoned, the receive buffers are empty and nothing is pending. -/
def State.loseChannel (s : State) (c : Nat) : State :=
  if s.proto c = 0 then s
  else
    let s := if (s.ch c).busy then s.chCount c 0x1D 1 else s
    let s := (s.dropHead c none).wrB (chObj c 0) 2 3 false
    let s := if c < 72 then (s.wr (chObj c 4) 2 0).wr (chObj c 6) 2 0 else s
    let full := (List.range 64).filter (s.bufFull c)
    let s := s.forEach full fun s k => s.setWin (chObj c 5) 2 (96 * k) (fill 96 0)
    let s := (s.wr (chObj c 5) 3 0).wr (chObj c 5) 4 0x7F
    s.modCh c fun d => { ChanDyn.idle with overruns := d.overruns, overrunsPrev := d.overrunsPrev, overTold := d.overTold,
                                           slotTold := d.slotTold, written := d.written }

/-- The channels of an edge group. -/
def groupChannels (n : Nat) : List Nat := (List.range 16).map fun k => 16 * (n - 32) + k

/-- The frames that stand in a delivery queue are lost. -/
def State.loseDelivery (s : State) (p : Nat) : State :=
  let q := mapGetD s.buf.delivery p ⟨[], [], none⟩
  let ids := q.frames ++ (match q.current with | some id => [id] | none => [])
  (s.forEach ids fun s id => s.dropRef id p).withBuf fun b => { b with delivery := mapDel b.delivery p }

/-- A carriage loses what it holds as it is fenced; `retain` keeps what R380 keeps. -/
def State.loseContents (s : State) (n : Nat) (retain : Bool) : State :=
  if n ≤ 1 then s.loseIngress n
  else if n ≤ 10 then s.loseCells n
  else if n ≤ 18 then (if retain then s else s.emptyBank (n - 11))
  else if n ≤ 20 then
    (if n = 19 + s.shadowHalf then (s.wr 0x5800 3 0).withFw fun f => { f with copying := false } else s)
  else if n ≤ 22 then s.loseEgress n
  else if n ≤ 27 then s.loseCluster (n - 23) retain
  else if n ≤ 31 then s.loseEngine (n - 28)
  else if n ≤ 37 then s.forEach (groupChannels n) State.loseChannel
  else if n ≤ 40 then
    s.forEach ((List.range 44).filter fun p => portCarriage p == n && s.linkUp p) fun s p => s.dropLink p (s.modeNow p)
  else if n = 41 then
    let s := ((s.endReads true).pcieLink false 0 0).dropPrefetches
    let s := (if retain then s else s.clearRings).endHostSession
    s.loseDelivery 44
  else if n = 45 then
    let s := s.wardenLost.loseDelivery 46
    { s with consist := { s.consist with ownAbsentAt := some s.now } }
  else if n = 46 ∧ !retain then s.withKey fun k => { k with sess := [] }
  else s

/-! ### What a return brings back -/

/-- The shadow half reloaded from the active half; its edits are lost (R56, R251). -/
def State.reloadShadow (s : State) : State := (s.copyHalf s.activeHalf s.shadowHalf).wr 0x5800 4 0

/-- A carriage returns to PRESENT: what the device does of itself (R56, R262, R322). -/
def State.regain (s : State) (n : Nat) (retain : Bool) : State :=
  if 19 ≤ n ∧ n ≤ 20 then (if n = 19 + s.shadowHalf ∧ !retain then s.reloadShadow else s)
  else if 23 ≤ n ∧ n ≤ 27 then
    if retain then s.startOps
    else
      let recs := s.enabledRecs.filter fun id => !s.recFlag id 1
      (s.withCrypto fun c => { c with derive_ := c.derive_ ++ recs.map (cacheKey (n - 23)) }).startOps
  else if 32 ≤ n ∧ n ≤ 37 then s.forEach ((groupChannels n).filter fun c => s.rdF (chObj c 0) 1 2 0 != 0) State.applyMode
  else if n = 42 then s.timeUnitReturn
  else s

/-! ### The end of a drain -/

/-- The action behind a fence has nothing to run: the sequence and its command end. -/
def State.endSeq (s : State) (n result : Nat) : State := (s.dropSeq n).endCommand n result

/-- The cells of a bank moved to the spare that was filled from it (R58 step 3). -/
def State.moveCells (s : State) (k spare : Nat) : State :=
  s.withBuf fun b => { b with frames := b.frames.map fun x =>
    (x.1, { x.2 with cells := x.2.cells.map fun c => if c = k then spare else c }) }

/-- Microseconds since an instant. -/
def State.usSince (s : State) (t : Nat) : Nat := min 65535 ((s.now - t) / 1000)

/-- The unit of a carriage starts anew: its corrected-error count is 0. -/
def State.freshUnit (s : State) (n u : Nat) : State :=
  s.withCar fun c => { c with unitErr := mapDel c.unitErr (unitKey n u) }

/-- The subindex of a control pair in 0x2030 (Table 15.7). -/
def pairSub (n : Nat) : Nat := n - 42

/-- A split ends with no join: the split pair itself is fenced. -/
def State.endSplit (s : State) (n : Nat) : State :=
  if s.rdB 0x2030 (pairSub n) 1 then
    ((s.wrF 0x2030 (pairSub n) 2 1 0).wrB 0x2030 (pairSub n) 3 true) |> fun s => { s with ctl := { s.ctl with covered := none } }
  else s

/-- Before a restart of the station or signal pair the other pair splits to cover it, where 0x2031:01 says so and the other pair is
PRESENT (R394, R395); a restart of an activation is covered where 0x1F00:01 [8] says so too (R393). The hand-over time is a free
value below its bound. DESIGN CHOICE, log entry 33. -/
def State.coverSplit (s : State) (n reason : Nat) : State :=
  let o := 87 - n
  if (n = 43 ∨ n = 44) ∧ s.rdB 0x2031 1 (n - 43) ∧ s.present o ∧ (reason ≠ 1 ∨ s.rdB 0x1F00 1 8) then
    let (v, s) := s.draw
    let s := ((s.wrF 0x2030 (pairSub o) 2 1 3).wrB 0x2030 (pairSub o) 3 false).bump 0x2031 2 1
    { s.event o 0x103 1 n (v % 1001) with ctl := { s.ctl with covered := some n } }
  else s

/-- What every restart of a control pair counts and changes before its fence (R395, R399). -/
def State.pairFence (s : State) (n reason : Nat) : State :=
  if 43 ≤ n ∧ n ≤ 45 then (((if n ≤ 44 then s.endSplit n else s).coverSplit n reason).bump 0x2030 5 1) else s

/-- Steps 3–5 of a sequence and the step that follows the fence (R46, R48, R58, R61). -/
def State.fenceSeq (s : State) (q : CarSeq) : State :=
  let n := q.carriage
  let s := ((s.pairFence n q.reason).fenceSteps n q.reason q.completed).loseContents n false
  match q.act with
  | .reset => (s.setCar n stResetting).putSeq { q with phase := .acting, since := s.now }
  | .test => (s.setCar n stTesting).putSeq { q with phase := .acting, since := s.now }
  | .powerDown => (s.setCar n stPoweredDown).endSeq n 0
  | .retire => ((s.setCar n stRetired).endSeq n 0).event n 0x35 0 0 (q.moved / 16)
  | .bankSwap =>
    let s := ((s.setCar n stFailed).freshUnit n 0).becomePresent q.spare q.reason 0
    ((s.event n 0x32 0 0 (s.usSince q.begun)).repairWindow n).endSeq n 0
  | .bankLost => (((s.setCar n stFailed).freshUnit n 0).exhausted n 0).endSeq n 0
  | _ => s.endSeq n 0

/-- The accepted requests to a carriage that are not complete. -/
def State.openRequests (s : State) (n : Nat) : List CReq := s.car.reqs.filter fun r => r.target == n && !r.held

/-- A carriage that drains has work left that it had accepted (Table 2.6 step 2): a request, an operation of a cluster, a job of a
gateway engine, a frame in transmission on a channel or a port. -/
def State.hasWork (s : State) (n : Nat) : Bool :=
  s.openRequests n != [] ||
    (if 23 ≤ n ∧ n ≤ 27 then s.crypto.ops.any fun o => o.cluster == n - 23 && o.phase != 0
     else if 28 ≤ n ∧ n ≤ 31 then mapGetD s.gw.jobs (n - 28) [] != []
     else if 32 ≤ n ∧ n ≤ 37 then (groupChannels n).any fun c => (s.ch c).offer.isSome
     else if 38 ≤ n ∧ n ≤ 40 then (List.range 44).any fun p => portCarriage p == n && (s.pdyn p).tx.isSome
     else false)

/-- The drain of a sequence begins (Table 2.6 step 1). -/
def State.beginDrain (s : State) (q : CarSeq) : State :=
  let n := q.carriage
  let s := (s.bump (0x2200 + n) 3 1).wrF (0x2200 + n) 1 23 16 q.reason
  let q := { q with phase := .draining, since := s.now, limit := s.drainLimit n }
  let s := (s.setCar n stDraining).putSeq q
  if s.hasWork n then s else s.fenceSeq q

/-- A restart without a command (R55): its fence follows at once where no drain is given, or none is needed. -/
def State.restart (s : State) (n reason limit : Nat) : State :=
  let s := s.restartCarriage n reason limit
  match s.seqOf n with
  | some q => if q.phase = .draining ∧ (q.limit = 0 ∨ s.hasWork n = false) then s.fenceSeq q else s
  | none => s

/-! ### Swaps (R57–R60) -/

/-- A unit of a carriage is in service. -/
def State.unitServes (s : State) (n u : Nat) : Bool :=
  s.present n && !s.car.unitOut.contains (unitKey n u)
    && (if n ≤ 10 then u == 0 else if n ≤ 27 then decide (u ≤ 14) else decide (u ≤ 15))

/-- An operation aborted for want of a context (R59): counted in the record's failures, its frame dropped. -/
def State.abortContext (s : State) (o : CryptoOp) : State :=
  let s := if o.kind = 0 ∨ o.kind = 1 ∨ o.kind = 3 ∨ o.kind = 4 then s.recFail o.rec_ else s
  let s := s.abortOp o
  if o.kind = 4 then s.refuseHeld o.frame else s

/-- The contexts of an engine that is left FAILED move to free context slots of the cluster's other engines (R59). -/
def State.moveContexts (s : State) (k e : Nat) : State :=
  let ops := s.crypto.ops.filter fun o => o.cluster == k && o.engine == e && o.phase != 0
  s.forEach ops fun s o =>
    match s.idleEngine k with
    | some e' => s.withCrypto fun c => { c with ops := replaceOp o { o with engine := e', phase := 1 } c.ops }
    | none =>
      match (List.range 15).find? fun x => x != e && !s.car.unitOut.contains (unitKey (23 + k) x) && decide (s.suspendedOn k x < 4) with
      | some e' => s.withCrypto fun c => { c with ops := replaceOp o { o with engine := e', phase := 2 } c.ops }
      | none => s.abortContext o

/-- A unit is taken out of service for want of a spare (R59, R60), event 0x0033. -/
def State.takeOut (s : State) (n u : Nat) : State :=
  let s := (s.withCar fun c => { c with unitOut := c.unitOut ++ [unitKey n u] }).freshUnit n u
  let s := if n ≤ 27 then s.moveContexts (n - 23) u
    else
      let c := 16 * (n - 32) + u
      let s := if (s.ch c).busy then s.chCount c 0x1D 1 else s
      (s.modCh c fun d => { d with offer := none, busy := false }).wrB (chObj c 0) 2 3 false
  s.exhausted n u

/-- The spare of a carriage that a swap takes; one under test is taken from its test, which is abandoned (R64). -/
def State.claimSpare (s : State) (n : Nat) : Option Nat × State :=
  match s.readySpare n with
  | none => (none, s)
  | some k =>
    match s.car.test with
    | some t => if t.carriage = n ∧ t.unit = k ∧ 23 ≤ n then (some k, s.abandonTest) else (some k, s)
    | none => (some k, s)

/-- The last reason of a carriage written (R57). -/
def State.lastReason (s : State) (n reason : Nat) : State := s.wrF (0x2200 + n) 1 23 16 reason

/-- An engine swapped for the spare of its cluster (R59): its contexts resume there; event 0x0032. -/
def State.swapEngine (s : State) (n u reason : Nat) : State :=
  match s.claimSpare n with
  | (none, s) => (s.lastReason n reason).takeOut n u
  | (some k, s) =>
    let s := (s.lastReason n reason).withCar fun c => { c with spareUsed := mapSet c.spareUsed (spareKey n k) 1 }
    ((s.freshUnit n u).event n 0x32 u 0 0).repairWindow n

/-- A controller swapped for a spare of its group (R60 step 1): its TXD goes recessive, a frame in reception is lost. -/
def State.swapController (s : State) (n u reason spare : Nat) (cmd : Bool) : State :=
  let c := 16 * (n - 32) + u
  let s := (s.lastReason n reason).startSeq n .edgeSwap .copying reason 0 u spare cmd (decide (4 ≤ s.placesUsed))
  let s := if (s.ch c).busy then s.chCount c 0x1D 1 else s
  (s.modCh c fun d => { d with offer := none, busy := false }).wrB (chObj c 0) 2 3 false

/-- A swap of a unit that a threshold or a failed BIST asks for (R57): it waits where its carriage is in a sequence or no place is
free (R53). With no spare the unit is taken out of service. -/
def State.swapUnit (s : State) (n u reason : Nat) : State :=
  let wait := s.withCar fun c => { c with waiting := c.waiting ++ [⟨n, u, reason, false, s.now⟩] }
  if !s.unitServes n u then s
  else if 23 ≤ n ∧ n ≤ 27 then s.swapEngine n u reason
  else if (s.seqOf n).isSome ∨ !s.placeFree true then wait
  else if n ≤ 10 then
    match s.spareBank with
    | some k =>
      let s := if s.testsCarriage k then s.abandonTest else s
      (s.lastReason n reason).startSeq n .bankSwap .copying reason 0 0 k false (decide (4 ≤ s.placesUsed))
    | none =>
      let s := s.startSeq n .bankLost .draining reason (s.drainLimit n) 0 0 false (decide (4 ≤ s.placesUsed))
      s
  else
    match s.claimSpare n with
    | (some k, s) => s.swapController n u reason k false
    | (none, s) => (s.lastReason n reason).takeOut n u

/-! ### The end of an action -/

/-- The units of a carriage after its self-test (R54): a unit or spare that fails is FAILED, one that passes is a spare again.
`failed` names units 0–15 and spare slots from 16. -/
def State.testUnits (s : State) (n : Nat) (failed : List Nat) : State :=
  let s := s.withCar fun c => { c with
    unitOut := c.unitOut.filter fun k => k / 256 != n || failed.contains (k % 256),
    spareUsed := c.spareUsed.map fun x =>
      if x.1 / 4 = n then (x.1, if failed.contains (16 + x.1 % 4) then (if x.2 = 1 then 1 else 2) else 0) else x }
  s.forEach (spareSlots n) fun s k =>
    if failed.contains (16 + k) ∧ mapGetD s.car.spareUsed (spareKey n k) 0 = 0 then
      s.withCar fun c => { c with spareUsed := mapSet c.spareUsed (spareKey n k) 2 }
    else s

/-- The units in service that failed the test of their carriage are swapped (R57, reason 3). -/
def State.swapFailed (s : State) (n : Nat) (failed : List Nat) : State :=
  if (23 ≤ n ∧ n ≤ 27) ∨ (32 ≤ n ∧ n ≤ 37) then s.forEach (failed.filter fun u => decide (u ≤ 15)) fun s u => s.swapUnit n u 3
  else s

/-- A self-test of a whole carriage ends (event 0x0034). -/
def State.testEvent (s : State) (q : CarSeq) (pass : Bool) (failed : List Nat) : State :=
  let ok := pass && failed == []
  s.event q.carriage 0x34 (!ok).toNat 0xFF (s.usSince q.since)

/-- The carriage returns from a sequence. -/
def State.returnSeq (s : State) (n reason : Nat) (failed : List Nat) : State :=
  let s := ((s.becomePresent n reason 0).endSeq n 0).regain n false
  s.swapFailed n failed

/-- The carriage is left FAILED by its test (R54). A bank out of service has nothing to copy, so no swap follows; with no spare bank
event 0x0033 tells that the banks are exhausted (R58). -/
def State.leaveFailed (s : State) (q : CarSeq) : State :=
  let n := q.carriage
  let s := (s.setCar n stFailed).endSeq n 7
  if 2 ≤ n ∧ n ≤ 10 ∧ (q.prior = stPresent ∨ q.prior = stPoweredDown) ∧ s.idleBanks = [] then s.exhausted n 0 else s

/-- The action after the fence ends (R48, R54, R62). -/
def State.actionEnd (s : State) (q : CarSeq) (pass : Bool) (failed : List Nat) : State :=
  let n := q.carriage
  match q.act with
  | .reset => s.returnSeq n q.reason []
  | .powerUp | .bringBack =>
    let s := (s.testEvent q pass failed).testUnits n failed
    if pass then s.returnSeq n q.reason failed else s.leaveFailed q
  | .test =>
    let s := (s.testEvent q pass failed).testUnits n failed
    if !pass then s.leaveFailed q
    else if q.prior = stRetired ∨ q.prior = stSpareIdle then (s.setCar n q.prior).endSeq n 0
    else if q.prior = stFailed ∧ 2 ≤ n ∧ n ≤ 10 then (s.setCar n stSpareIdle).endSeq n 0
    else if q.prior = stFailed ∧ 11 ≤ n ∧ n ≤ 18 then (s.setCar n stRetired).endSeq n 0
    else s.returnSeq n q.reason failed
  | _ => s

/-! ### Commands (R51–R54, R61) -/

/-- The action is permitted for the carriage (Table 2.12). -/
def actionFits (n act : Nat) : Bool :=
  if n = 45 then false
  else if n = 43 ∨ n = 44 then act == 0
  else if 11 ≤ n ∧ n ≤ 18 then act == 0 || act == 3 || act == 5 || act == 6
  else if 19 ≤ n ∧ n ≤ 20 then act == 0 || act == 3
  else if (2 ≤ n ∧ n ≤ 10) ∨ (23 ≤ n ∧ n ≤ 27) ∨ (32 ≤ n ∧ n ≤ 37) then decide (act ≤ 4)
  else decide (act ≤ 3)

/-- The state's answer to an action (Table 2.14): 0 runs, 2 busy, 6 not applicable. -/
def stateAnswer (st act : Nat) : Nat :=
  if 1 ≤ st ∧ st ≤ 4 then 2
  else if st = stPresent then (if act = 2 ∨ act = 6 then 6 else 0)
  else if st = stPoweredDown then (if act = 2 then 0 else 6)
  else if st = stRetired then (if act = 3 ∨ act = 6 then 0 else 6)
  else if act = 3 then 0 else 6

/-- The result a command is refused with, 0 where it runs, but for a retirement that does not fit (R52–R54). -/
def State.commandAnswer (s : State) (n act u : Nat) : Nat :=
  if !actionFits n act then 6
  else if n = 19 + s.activeHalf then 3
  else if (s.seqOf n).isSome || (s.car.test.map fun t => t.carriage) == some n then 2
  else
    let a := stateAnswer (s.carState n) act
    if a ≠ 0 then a
    else if act = 4 then
      if !s.unitServes n (if n ≤ 10 then 0 else u) then 6
      else if n ≤ 10 then (if s.spareBank.isNone then 5 else if !s.placeFree true then 2 else 0)
      else if (s.readySpare n).isNone then 5
      else if !s.placeFree true then 2 else 0
    else if !s.placeFree false then 2 else 0

/-- A command that was refused: its result, and Start reads 0 (Table 2.11). -/
def State.refuseCommand (s : State) (result misfit : Nat) : State := s.wr 0x2020 3 (result + misfit * 65536)

/-- A retirement (R61): refused where the trial leaves entries over, else the bank's entries are moved out. -/
def State.startRetire (s : State) (n : Nat) : State :=
  let b := n - 11
  let entries := s.bankEntries b
  let (_, _, bad) := (s.endChain 9).shuntOut b entries 0 0
  if bad ≠ 0 then (s.refuseCommand 4 (min bad 65535)).event n 0x35 4 0 (min bad 65535)
  else
    let s := s.endChain 9
    let (s, moves, _) := s.shuntOut b (s.bankEntries b) 0 0
    let s := s.bump 0x5000 3 moves
    let s := (s.wr 0x2020 3 1).withCar fun c => { c with cmdRunning := some n }
    let s := s.startSeq n .retire .shunting 5 0 0 0 true false
    s.withCar fun c => { c with seqs := c.seqs.map fun q => if q.carriage = n then { q with moved := entries.length } else q }

/-- Start at 0x2020:02: the action of sub 01 (R51). -/
def State.carriageCommand (s : State) : State :=
  let n := s.rdF 0x2020 1 7 0
  let act := s.rdF 0x2020 1 11 8
  let u := s.rdF 0x2020 1 19 16
  let a := s.commandAnswer n act u
  if a ≠ 0 then s.refuseCommand a 0
  else if act = 5 then s.startRetire n
  else
    let s := (s.wr 0x2020 3 1).withCar fun c => { c with cmdRunning := some n }
    let st := s.carState n
    let drain := fun (s : State) (x : SeqAct) (reason : Nat) =>
      let s := s.startSeq n x .draining reason (s.drainLimit n) 0 0 true false
      if s.hasWork n then s else (match s.seqOf n with | some q => s.fenceSeq q | none => s)
    if act = 0 then drain s .reset 0
    else if act = 1 then drain s .powerDown 2
    else if act = 2 then s.startSeq n .powerUp .acting 2 0 0 0 true false
    else if act = 3 then
      if st = stPresent then drain s .test 3 else s.startSeq n .test .acting 3 0 0 0 true false
    else if act = 6 then s.startSeq n .bringBack .acting 5 0 0 0 true false
    else if n ≤ 10 then
      match s.spareBank with
      | some k =>
        let s := if s.testsCarriage k then s.abandonTest else s
        (s.lastReason n 4).startSeq n .bankSwap .copying 4 0 0 k true (decide (4 ≤ s.placesUsed))
      | none => s
    else if n ≤ 27 then (s.swapEngine n u 4).endCommand n 0
    else
      match s.claimSpare n with
      | (some k, s) => s.swapController n u 4 k true
      | (none, s) => s

/-! ### Waiting sequences (R53) -/

/-- A waiting sequence can start. -/
def State.canStart (s : State) (w : SeqWait) : Bool := (s.seqOf w.carriage).isNone && s.placeFree (!w.alarm)

/-- The first waiting sequence that can start does (R53). -/
def State.startWaiting (s : State) : State :=
  match s.car.waiting.find? s.canStart with
  | none => s
  | some w =>
    let s := s.withCar fun c => { c with waiting := c.waiting.erase w }
    if w.alarm then s.restart w.carriage w.reason (if w.reason = 6 ∨ w.reason = 1 then s.drainLimit w.carriage else 0)
    else s.swapUnit w.carriage w.unit w.reason

/-! ### The in-service schedule (R63, R64) -/

/-- The units of the schedule in its order, as (carriage, spare slot or 255). -/
def scheduleUnits : List (Nat × Nat) :=
  [(10, 255), (19, 255)] ++ ((List.range 5).map fun k => (23 + k, 0))
    ++ ((List.range 6).flatMap fun k => [(32 + k, 0), (32 + k, 1)]) ++ (List.range 8).map fun b => (11 + b, 255)

/-- The carriage of a place of the schedule: the second place is the shadow half. -/
def State.scheduleUnit (s : State) (i : Nat) : Nat × Nat :=
  let u := scheduleUnits.getD (i % 27) (10, 255)
  if u.1 = 19 then (19 + s.shadowHalf, 255) else u

/-- A place of the schedule names a unit that is eligible: bank 8 while it is SPARE_IDLE, the shadow half, a spare that has not
FAILED, a bank that is RETIRED. -/
def State.eligibleUnit (s : State) (u : Nat × Nat) : Bool :=
  if u.1 = 10 then s.carState 10 == stSpareIdle
  else if 11 ≤ u.1 ∧ u.1 ≤ 18 then s.carState u.1 == stRetired
  else if u.2 = 255 then true
  else mapGetD s.car.spareUsed (spareKey u.1 u.2) 0 != 2

/-- The unit is idle: the shadow half with no write or copy under way and no edit of its own, a spare that is not in service and
whose carriage is PRESENT; and no sequence runs on its carriage. -/
def State.idleUnit (s : State) (u : Nat × Nat) : Bool :=
  (s.seqOf u.1).isNone &&
    (if 19 ≤ u.1 ∧ u.1 ≤ 20 then s.present u.1 && !s.fw.copying && s.rd 0x5800 4 == 0 && s.placeFree false
     else if u.2 = 255 then true
     else s.present u.1 && mapGetD s.car.spareUsed (spareKey u.1 u.2) 0 == 0)

/-- The eligible places of the schedule. -/
def State.eligiblePlaces (s : State) : List Nat := (List.range 27).filter fun i => s.eligibleUnit (s.scheduleUnit i)

/-- A slot of the schedule (R63): the next eligible unit is tested, or skipped and counted. The slots are spaced evenly over the
period. -/
def State.testSlot (s : State) : State :=
  let el := s.eligiblePlaces
  if !s.rdB 0x2040 1 0 || s.car.test.isSome || el == [] then s
  else if s.now < s.car.lastSlot + s.rd 0x2040 2 * 1000000000 / el.length then s
  else
    let i := match el.find? fun i => s.car.testPos ≤ i with
      | some i => i
      | none => el.headD 0
    let u := s.scheduleUnit i
    let s := s.withCar fun c => { c with testPos := (i + 1) % 27, lastSlot := s.now }
    if !s.idleUnit u then s.bump 0x2040 4 1
    else
      let prior := s.carState u.1
      let s := if prior = stPresent ∧ u.2 = 255 then
          ((s.lastReason u.1 3).bump (0x2200 + u.1) 3 1).fenceSteps u.1 3 0
        else s
      let s := if u.2 = 255 then s.setCar u.1 stTesting else s
      s.withCar fun c => { c with test := some ⟨u.1, u.2, s.now, prior⟩ }

/-- The in-service test ends (R50, R64): counted, event 0x0034; a unit that fails is FAILED, and a spare lost as its group's last
raises event 0x0033. -/
def State.testDone (s : State) (pass : Bool) : State :=
  match s.car.test with
  | none => s
  | some t =>
    let n := t.carriage
    let s := (s.withCar fun c => { c with test := none }).bump 0x2040 3 1
    let s := if pass then s else s.bump 0x2040 5 1
    let s := s.event n 0x34 (!pass).toNat (if t.unit = 255 then 0xFF else if n ≤ 27 then 15 else t.unit) (s.usSince t.since)
    if t.unit = 255 then
      if !pass then
        let s := s.setCar n stFailed
        if n ≤ 10 ∧ s.idleBanks = [] then s.exhausted n 0 else s
      else if t.prior = stPresent then (s.becomePresent n 3 0).regain n false
      else s.setCar n t.prior
    else if pass then s
    else
      let s := s.withCar fun c => { c with spareUsed := mapSet c.spareUsed (spareKey n t.unit) 2 }
      if (s.readySpare n).isNone then s.exhausted n t.unit else s

/-- A write that reaches the shadow half while the schedule tests it: the test is abandoned and the half is reloaded (R64). -/
def State.giveUpHalf (s : State) : State :=
  match s.car.test with
  | some t => if t.carriage = 19 + s.shadowHalf then s.abandonTest.reloadShadow else s
  | none => s

end Sys2Proof.Machine
end

