-- ==== Sys2Proof/Machine/Control.lean ====
section
/-! DEFINITION. The control complex (Chapter 15): mismatches (R385–R388), firmware images and their check (R389–R391), activation
and its undoing (R392, R393), the return of a pair (R387, R394, R395). -/

namespace Sys2Proof.Machine

/-- The control part of the state changed. -/
def State.withCtl (s : State) (f : CtlState → CtlState) : State := { s with ctl := f s.ctl }

/-! ### Flash (R389) -/

/-- A flash slot: 0 A, 1 B. -/
def State.flashSlot (s : State) (k : Nat) : FlashSlot := mapGetD s.ctl.flash k ⟨false, [], []⟩

/-- A byte of a flash slot: written, erased, or as the part's flash holds it. -/
def State.flashByte (s : State) (k off : Nat) : Byte :=
  let f := s.flashSlot k
  match mapGet f.bytes off with
  | some b => b
  | none => if f.erased then 0xFF else Config.flashByte (k * 2 ^ 23 + off)

/-- Bytes of a flash slot. -/
def State.flashBytes (s : State) (k off n : Nat) : List Byte := (List.range n).map fun i => s.flashByte k (off + i)

/-- The slot a pair runs from. -/
def State.pairSlot (s : State) (n : Nat) : Nat := s.rdF 0x2030 (pairSub n) 0 0

/-- The inactive slot: the one not named in 0x2030:03 [0]. -/
def State.inactiveSlot (s : State) : Nat := 1 - s.pairSlot 45

/-- The header of a slot (Table 15.2). -/
def State.fwHeader (s : State) (k : Nat) : List Byte := s.flashBytes k 0 224

/-- The body of a slot, by the length in its header. -/
def State.fwBody (s : State) (k : Nat) : List Byte := s.flashBytes k 224 (min 8388384 (beAt (s.fwHeader k) 16 4))

/-- A section of the header lies inside the body. -/
def sectionInside (h : List Byte) (j : Nat) : Bool := decide (beAt h (68 + 8 * j) 4 + beAt h (72 + 8 * j) 4 ≤ beAt h 16 4)

/-- The check of an image (R390): status 0, or 6 format or digest, 3 signature, 4 security version. -/
def State.fwStatus (s : State) (k : Nat) : Nat :=
  let h := s.fwHeader k
  if beAt h 0 4 ≠ 0x4B584657 ∨ byteAt h 4 ≠ 1 ∨ 8388384 < beAt h 16 4 ∨ 63 < beAt h 6 2 then 6
  else if !Config.verify Config.firmwareKey (Config.sha384 (h.take 128)) ((h.drop 128).take 96) then 3
  else if Config.sha384 (s.fwBody k) ≠ (h.drop 20).take 48 then 6
  else if !(sectionInside h 0 && sectionInside h 1 && sectionInside h 2) then 6
  else if beAt h 6 2 < s.ctl.floor then 4
  else 0

/-- The measurement of a slot (R390). -/
def State.measureSlot (s : State) (k : Nat) : List Byte := Config.sha384 ((s.fwHeader k).take 128 ++ s.fwBody k)

/-- The version of a slot, 0 where its image is invalid (0x1F00:04 and 05). -/
def State.fwVersion (s : State) (k : Nat) : Nat := if s.fwStatus k = 0 then beAt (s.fwHeader k) 8 4 else 0

/-- The check of action 2 (R392): R390, and the oldest compatible version is not above the running one. -/
def State.checkImage (s : State) (k : Nat) : Nat :=
  let st := s.fwStatus k
  if st ≠ 0 then st
  else if beAt (s.fwHeader (s.pairSlot 45)) 8 4 < beAt (s.fwHeader k) 12 4 then 5 else 0

/-- A record of 16 bytes written to the inactive slot: an abort code, 0 where it is accepted (R392). -/
def State.flashAbort (s : State) (r : Nat) : Nat :=
  let f := s.flashSlot s.inactiveSlot
  if s.ctl.action.isSome then 0x05000001 else if !f.erased || f.written.contains r then 0x04000001 else 0

/-- Bytes listed in a map from an offset. -/
def putBytes (m : List (Nat × Byte)) (off : Nat) : List Byte → List (Nat × Byte)
  | [] => m
  | b :: r => putBytes (mapPut 0xFF m off b) (off + 1) r

/-- A record written. -/
def State.flashWrite (s : State) (r : Nat) (bs : List Byte) : State :=
  let k := s.inactiveSlot
  let f := s.flashSlot k
  s.withCtl fun c => { c with flash := mapSet c.flash k { f with written := r :: f.written, bytes := putBytes f.bytes (16 * r) (sliceZ bs 0 16) } }

/-! ### Firmware actions (R392, R393) -/

/-- The status and phase of 0x1F00:03. -/
def State.fwReport (s : State) (status phase : Nat) : State := s.wr 0x1F00 3 (status + 256 * phase)

/-- A firmware action ends: Start reads 0. -/
def State.fwEnd (s : State) (status phase : Nat) : State :=
  ((s.fwReport status phase).wr 0x1F00 2 0).withCtl fun c => { c with action := none }

/-- The epoch key taken from a measurement (R281): every key derived from it is derived again (R262). -/
def State.takeEpoch (s : State) (m : List Byte) : State :=
  let e := epochKey s.life m
  let s := s.withKey fun k => { k with epoch := e, measurement := m }
  s.forEach (s.enabledRecs.filter fun id =>
    let p := (s.recKey id).1
    !s.recFlag id 1 && (s.kindOf p == 0 || ((configured? p).isSome && (s.slotOf p).source == 1))) State.askKeys

/-- The image in trial: the migration is open and the warden runs from the trial slot. -/
def State.inTrial (s : State) : Bool := s.ctl.trial == some (s.pairSlot 45) && s.ctl.action.isNone

/-- The next pair of an activation or an undoing restarts (R393 steps 3–5); a pair that runs from the target slot already is passed
over when an activation is undone. -/
def State.stepPair (s : State) (a : FwAction) : List Nat → State
  | [] => s.withCtl fun c => { c with action := some { a with step := 46 } }
  | n :: rest =>
    if a.act = 6 ∧ s.pairSlot n = a.slot ∧ s.present n then s.stepPair a rest
    else if s.carState n = stFailed then s.stepPair a rest
    else
      let s := (s.withCtl fun c => { c with action := some { a with step := n, since := s.now } }).fwReport 1 (n - 42)
      s.restart n 1 (s.drainLimit n)

/-- The end of an activation, of a revert, or of an undoing (R392, R393). -/
def State.fwFinish (s : State) (a : FwAction) : State :=
  let secv := beAt (s.fwHeader a.slot) 6 2
  if a.act = 3 then (s.fwEnd 0 4).event 45 0x104 1 a.slot secv
  else
    let s := (s.keyClose 0).2.withCtl fun c => { c with trial := none, starts := 0 }
    (s.fwEnd (if a.act = 5 then 0 else 8) 0).event 45 0x104 3 a.slot secv

/-- The pairs behind a step. -/
def pairsAfter (n : Nat) : List Nat := if n = 43 then [44, 45] else if n = 44 then [45] else []

/-- A running activation or undoing goes on behind pair `n`. -/
def State.fwAdvance (s : State) (n : Nat) : State :=
  match s.ctl.action with
  | none => s
  | some a =>
    if a.step ≠ n then s
    else
      let s := s.stepPair a (pairsAfter n)
      match s.ctl.action with
      | some b => if b.step = 46 then s.fwFinish b else s
      | none => s

/-- An activation is reverted (R393): the pairs restarted already return to the confirmed slot, status 8. -/
def State.fwUndo (s : State) : State :=
  match s.ctl.action with
  | none => s
  | some a =>
    if a.act ≠ 3 then s
    else
      let b : FwAction := { a with act := 6, slot := s.ctl.confirmed, since := s.now }
      let s := s.stepPair b [43, 44, 45]
      match s.ctl.action with
      | some c => if c.step = 46 then s.fwFinish c else s
      | none => s

/-- Activation (R393): checked, resealed, committed as trial, and the station pair restarts. -/
def State.fwActivate (s : State) : State :=
  let k := s.inactiveSlot
  let st := s.checkImage k
  if st ≠ 0 then s.fwReport st (s.rdF 0x1F00 3 15 8)
  else
    let s := (s.keyReseal 0 (s.measureSlot k)).2.withCtl fun c => { c with trial := some k, starts := 3 }
    (s.wr 0x1F00 2 1).stepPair ⟨3, 43, k, s.rdB 0x1F00 1 8, s.now⟩ [43, 44, 45]

/-- Confirm (R392). -/
def State.fwConfirm (s : State) : State :=
  let k := s.pairSlot 45
  let v := beAt (s.fwHeader k) 6 2
  let s := (s.keyClose 0).2.withCtl fun c => { c with confirmed := k, trial := none, starts := 0, floor := max c.floor v }
  (s.fwEnd 0 0).event 45 0x104 2 k v

/-- Start at 0x1F00:02 (R392). While an action runs another is answered with status 2, a confirm with status 7 (Table 15.3). -/
def State.fwCommand (s : State) : State :=
  let act := s.rdF 0x1F00 1 2 0
  let ph := s.rdF 0x1F00 3 15 8
  match s.ctl.action with
  | some _ => s.wrF 0x1F00 3 7 0 (if act = 4 then 7 else 2)
  | none =>
    if act = 1 then
      ((s.wr 0x1F00 2 1).fwReport 1 ph).withCtl fun c => { c with action := some ⟨1, 0, s.inactiveSlot, false, s.now⟩ }
    else if act = 2 then s.fwReport (s.checkImage s.inactiveSlot) ph
    else if act = 3 then s.fwActivate
    else if act = 4 then (if s.inTrial then s.fwConfirm else s.fwReport 7 ph)
    else if s.inTrial then
      let s := (s.wr 0x1F00 2 1).stepPair ⟨5, 43, s.ctl.confirmed, s.rdB 0x1F00 1 8, s.now⟩ [43, 44, 45]
      match s.ctl.action with
      | some c => if c.step = 46 then s.fwFinish c else s
      | none => s
    else s.fwReport 7 ph

/-- The erase of the inactive slot ends (R392). -/
def State.eraseDone (s : State) (ok : Bool) : State :=
  match s.ctl.action with
  | none => s
  | some a =>
    if a.act ≠ 1 then s
    else
      let s := if ok then s.withCtl fun c => { c with flash := mapSet c.flash a.slot ⟨true, [], []⟩ } else s
      s.fwEnd (if ok then 0 else 9) (s.rdF 0x1F00 3 15 8)

/-! ### A pair fails, returns or is late -/

/-- A pair left FAILED (R386, R387): it is fenced where it is not yet, event 0x0101; a failed warden drives FAULT_N low. -/
def State.failPair (s : State) (n cause : Nat) : State :=
  let st := s.carState n
  let s := (s.endCommand n 2).dropSeq n
  let s := if st = stPresent ∨ st = stDraining then
      (((s.bump (0x2200 + n) 3 (if st = stDraining then 0 else 1)).pairFence n 0).lastReason n 0).fenceSteps n 0 0 |>.loseContents n false
    else s
  let s := s.setCar n stFailed
  let s := if n = 45 then { s with power := { s.power with faultN := true } } else s.event n 0x101 cause 0 0
  if (s.ctl.action.map fun a => a.act) = some 3 then s.fwUndo else s.fwAdvance n

/-- The mismatches of a pair (the power sequencer under 128) within the last 600 s. -/
def State.recentMismatches (s : State) (k : Nat) : Nat :=
  ((mapGetD s.ctl.mismatches k []).filter fun t => s.now < t + 600000000000).length

/-- A mismatch recorded; older ones are forgotten. -/
def State.noteMismatch (s : State) (k : Nat) : State :=
  let l := (mapGetD s.ctl.mismatches k []).filter fun t => s.now < t + 600000000000
  s.withCtl fun c => { c with mismatches := mapSet c.mismatches k (s.now :: l) }

/-- A mismatch of pair carriage `n` on a channel (R385, R386, R388, R396): a split pair notices only a double memory error. -/
def State.mismatch (s : State) (n ch : Nat) : State :=
  let st := s.carState n
  if (st ≠ stPresent ∧ st ≠ stDraining) ∨ (s.rdB 0x2030 (pairSub n) 1 ∧ ch ≠ 4) then s
  else
    let s := s.noteMismatch n
    let s := if ch = 5 then s.bump 0x2030 6 1 else s
    let k := s.recentMismatches n
    if 3 ≤ k then (s.event n 0x100 ch (min k 255) 0).failPair n 1
    else (s.restart n 0 0).event n 0x100 ch (min k 255) 0

/-- A mismatch of the power sequencer (R386, R388): its cores restart from ROM and lose nothing; the third within 600 s stops it. -/
def State.sequencerMismatch (s : State) (ch : Nat) : State :=
  if s.power.halted then s
  else
    let s := s.noteMismatch 128
    let s := if ch = 5 then s.bump 0x2030 6 1 else s
    let k := s.recentMismatches 128
    let s := s.event 0x80 0x100 ch (min k 255) 0
    if 3 ≤ k then { s with power := { s.power with halted := true, faultN := true } } else s

/-- A split pair joins again (R394, R395): event 0x0103, then its comparator test; one that fails is left FAILED.
DESIGN CHOICE, log entry 33. -/
def State.joinPair (s : State) (n : Nat) (pass : Bool) (bit us : Nat) : State :=
  if s.ctl.covered ≠ some n then s
  else
    let o := 87 - n
    let (v, s) := s.draw
    let s := ((s.withCtl fun c => { c with covered := none }).wrF 0x2030 (pairSub o) 2 1 0).event o 0x103 0 n (v % 2001)
    let s := (s.wrF 0x2030 (pairSub o) 4 3 (if pass then 3 else 0)).event o 0x102 (!pass).toNat bit us
    if pass then s else s.failPair o 2

/-- The slot a restarted pair runs from: that of its step in an activation, else that of the boot selection (R399). -/
def State.restartSlot (s : State) (n : Nat) : Nat :=
  match s.ctl.action with
  | some a => if a.act = 1 ∨ a.step < n then s.pairSlot n else a.slot
  | none => s.pairSlot n

/-- A restarted pair reaches the end of its start (R387, R393–R395, R399), which at a wake waits for the measurement (R477): the comparator of the station and signal pairs is tested
first; a warden that an activation restarts runs under the slot's epoch key. -/
def State.pairPresent (s : State) (n : Nat) (pass : Bool) (bit us : Nat) (joinPass : Bool) : State :=
  match s.seqOf n with
  | none => s
  | some q =>
    if q.phase ≠ .acting ∨ !s.startup.measured then s
    else
      let s := if n = 45 then s
        else (s.wrF 0x2030 (pairSub n) 4 3 (if pass then 3 else 0)).event n 0x102 (!pass).toNat bit us
      if n ≠ 45 ∧ !pass then s.failPair n 2
      else
        let k := s.restartSlot n
        let s := (s.wrF 0x2030 (pairSub n) 0 0 k).wrF 0x2030 (pairSub n) 4 3 3
        let s := if n = 45 ∧ (s.ctl.action.map fun a => decide (a.act = 3 ∨ a.act = 5 ∨ a.act = 6)) = some true then
            s.takeEpoch (s.measureSlot k)
          else s
        ((s.returnSeq n q.reason []).joinPair n joinPass bit us).fwAdvance n

/-- A pair that has not reached PRESENT within 250 ms of its fence (R393): an activation is reverted; a pair that no activation
restarts is left FAILED. -/
def State.pairLate (s : State) (n : Nat) : State :=
  match s.seqOf n with
  | none => s
  | some q =>
    if q.phase ≠ .acting ∨ s.now < q.since + 250000000 then s
    else
      match s.ctl.action with
      | some a =>
        if a.act = 3 ∧ a.step = n then
          let s := (s.event n 0x101 3 0 0).putSeq { q with since := s.now }
          s.fwUndo
        else s.failPair n 3
      | none => s.failPair n 3

end Sys2Proof.Machine
end

