-- ==== Sys2Proof/Machine/Power.lean ====
section
/-! DEFINITION. Clocks and power (Chapter 13): power modes and gating (R341, R349–R351), oscillators and references (R337–R348),
regulators, supply faults and PMBus (R352–R357), brown-out (R294, R356) and the VFAB trim (R358, R359). -/

namespace Sys2Proof.Machine

/-- The power part of the state changed. -/
def State.withPower (s : State) (f : PowerState → PowerState) : State := { s with power := f s.power }

/-! ### Modes -/

/-- The code of a power mode in 0x2005:01. -/
def modeCode : PowerMode → Nat
  | .run => 0
  | .sleep => 1
  | .deepSleep => 2
  | _ => 0

/-- A power mode entered, with event 0x00E3 (R350). -/
def State.enterMode (s : State) (m : PowerMode) : State :=
  ({ s with mode := m }.wr 0x2005 1 (modeCode m)).event 0x80 0xE3 (modeCode m) (modeCode s.mode) 0

/-- STANDSTILL (R347): FAULT_N is driven low, the enables of VFAB and VSDS go low, and nothing but the wake island, the alarm
logger and the ledger runs on. -/
def State.standstill (s : State) : State :=
  { s with mode := .standstill }.withPower fun p =>
    { p with faultN := true, cause := 2, ens := setFld p.ens 4 2 0, lost := none }

/-! ### Carriages powered down and up -/

/-- A carriage powered down with reason 2 by a change of power or clocks: fenced where it serves; an action behind a fence is
abandoned. RETIRED, FAILED, SPARE_IDLE and POWERED_DOWN carriages stay. -/
def State.downCarriage (s : State) (retain : Bool) (n : Nat) : State :=
  let st := s.carState n
  let s := if (s.car.test.map fun t => t.carriage) = some n then s.abandonTest else s
  if 5 ≤ st then s
  else
    let s := (s.endCommand n 2).dropSeq n
    let s := if st ≤ 1 then
        (((s.bump (0x2200 + n) 3 (1 - st)).lastReason n 2).fenceSteps n 2 0).loseContents n retain
      else s
    (s.setCar n stPoweredDown).withPower fun p => { p with slept := if p.slept.contains n then p.slept else p.slept ++ [n] }

/-- A carriage that a power transition took down returns to PRESENT. -/
def State.upCarriage (s : State) (retain : Bool) (n : Nat) : State :=
  if s.power.slept.contains n then
    let s := s.withPower fun p => { p with slept := p.slept.erase n }
    (s.becomePresent n 2 0).regain n retain
  else s

/-! ### Clock gating (R341) -/

/-- A clock's enable for a mode. -/
def State.clockOn (s : State) (k : Nat) (m : PowerMode) : Bool := tb (s.winB 0x2003 1 k) (modeCode m)

/-- The carriages a clock feeds (Table 13.1); SREF feeds port group 0 while it is enabled and not lost, else PLL4 does. -/
def State.fedBy (s : State) (k : Nat) (m : PowerMode) : List Nat :=
  let sref := s.clockOn 3 m && !s.power.srefLost
  if k = 4 then [32, 33, 34, 35, 36, 37, 46]
  else if k = 5 then [43, 44, 45]
  else if k = 6 then [42]
  else if k = 7 then [39, 40]
  else if k = 3 then (if sref then [38] else [])
  else if k = 8 then (if sref then [] else [38])
  else if k = 9 then [41]
  else []

/-- The locked bits of clocks 4–9 by a mode's set (0x2001:02). -/
def State.lockBits (s : State) (m : PowerMode) : Nat :=
  (List.range 6).foldl (fun a k => if s.clockOn (4 + k) m ∧ ¬(k = 5 ∧ s.power.pcieLost) then a + 2 ^ k else a) 0

/-- IOSC stopped or started by gating: once started it is qualified anew (R338). -/
def State.gateIosc (s : State) (on : Bool) : State :=
  if on = !s.power.ioscOff then s
  else (s.wrB 0x2001 1 3 false).withPower fun p => { p with ioscOff := !on, ioscGood := 0, ioscBad := 0, ioscTold := 0 }

/-- A mode's clock set applied (R341): the carriages of stopped clocks go down, those the new set feeds come back. `hold` names
carriages that stay down for another reason. -/
def State.applyClocks (s : State) (m : PowerMode) (hold : List Nat) (retain : Bool) : State :=
  let fed := ((List.range 7).map (· + 3)).flatMap fun k => if s.clockOn k m then s.fedBy k m else []
  let clocked := (List.range 15).map (· + 32)
  let s := s.forEach (clocked.filter fun n => !fed.contains n) (State.downCarriage · retain)
  let s := (s.gateIosc (s.clockOn 1 m)).wr 0x2001 2 (s.lockBits m)
  s.forEach (s.power.slept.filter fun n => !hold.contains n && (decide (n ≤ 31) || fed.contains n)) (State.upCarriage · retain)

/-! ### Reduced accuracy and references (R337, R340, R342) -/

/-- Reduced accuracy begins: links of ports 0–43 go down, like channels are offline and must integrate again. -/
def State.reduceAccuracy (s : State) : State :=
  let s := s.wrB 0x2001 1 4 true
  let s := s.forEach ((List.range 44).filter s.linkUp) fun s p => s.dropLink p (s.modeNow p)
  s.forEach ((List.range 96).filter fun c => s.proto c != 0) fun s c =>
    (s.modCh c fun d => { d with offer := none, busy := false, running := false }).wrB (chObj c 0) 2 3 false

/-- Reduced accuracy ends; commanders of L channels go on. -/
def State.fullAccuracy (s : State) : State :=
  let s := s.wrB 0x2001 1 4 false
  s.forEach ((List.range 24).map (· + 72) |>.filter fun c => s.proto c == 4) State.applyMode

/-- The references switched with both sources running (R342): event 0x00E2 with a cause, counted. -/
def State.switchReference (s : State) (ref cause : Nat) : State :=
  let s := ((s.wrF 0x2001 1 1 0 ref).bump 0x2001 6 1).event 0x80 0xE2 ref cause 0
  if ref = 2 then s.reduceAccuracy else s.fullAccuracy

/-- The reference in force. -/
def State.reference (s : State) : Nat := s.rdF 0x2001 1 1 0

/-- Reference select (0x2002:02) acts (R342): IOSC where it is qualified, or back to a qualified XTAL. -/
def State.selectReference (s : State) : State :=
  let v := s.rdF 0x2002 2 1 0
  if v = 1 ∧ s.reference = 1 ∧ s.rdB 0x2001 1 3 then s.switchReference 2 0
  else if v = 0 ∧ s.reference = 2 ∧ s.rdB 0x2001 1 2 then (s.switchReference 1 0)
  else s

/-- The references return to a qualified XTAL (R340). -/
def State.autoReturn (s : State) : State :=
  if s.reference = 2 ∧ s.rdB 0x2001 1 2 ∧ s.rdB 0x2002 1 8 ∧ s.rdF 0x2002 2 1 0 = 0 ∧ s.power.lost.isNone then
    (s.switchReference 1 2)
  else s

/-! ### Loss of a clock (R343–R346) -/

/-- The multiplexers abandon a stopped XTAL and select IOSC ÷ 4 (R343 step 3). -/
def State.abandonXtal (s : State) (how : Nat) : State :=
  ((s.wrF 0x2001 1 1 0 2).wr 0x2001 2 (s.rd 0x2001 2 / 32 % 2 * 32)).withPower fun p =>
    { p with lost := p.lost.map fun l => { l with how := how } }

/-- A carriage of a restarted domain (R344): fenced with reason 2 and no drain, and reset; a control pair goes on with its start, any
other carriage returns as its domain is released. -/
def State.restartDomain (s : State) (n : Nat) : State :=
  let st := s.carState n
  if 5 ≤ st then s
  else
    let s := if (s.car.test.map fun t => t.carriage) = some n then s.abandonTest else s
    let s := (s.endCommand n 2).dropSeq n
    let s := if st ≤ 1 then
        ((((s.bump (0x2200 + n) 3 (1 - st)).lastReason n 2).pairFence n 2).fenceSteps n 2 0).loseContents n false
      else s.lastReason n 2
    if 43 ≤ n ∧ n ≤ 45 then s.startSeq n .reset .acting 2 0 0 0 false false
    else (s.becomePresent n 2 0).regain n false

/-- The carriages of the domains of clocks 4–8. -/
def State.pllDomains (s : State) : List Nat :=
  ((List.range 5).map (· + 4)).flatMap fun k => if s.clockOn k s.mode then s.fedBy k s.mode else []

/-- XTAL stops (Table 13.3). -/
def State.xtalStops (s : State) : State :=
  let used := s.reference == 1
  let s := (s.wrB 0x2001 1 2 false).withPower fun p => { p with xtalGood := 0, xtalBad := 0, xtalTold := 0 }
  if !used then s
  else if s.rdB 0x2001 1 3 then
    (s.withPower fun p => { p with lost := some ⟨2, s.now, 1⟩ }).abandonXtal 1
  else if s.rdB 0x2001 1 5 then (s.event 0x80 0xE1 2 3 0).standstill
  else (s.gateIosc true).withPower fun p => { p with lost := some ⟨2, s.now, 0⟩ }

/-- IOSC fails (R338): with the reference on it there is no fallback left. -/
def State.ioscFails (s : State) : State :=
  let s := ((s.wrB 0x2001 1 5 true).wrB 0x2001 1 3 false).withPower fun p =>
    { p with ioscGood := 0, ioscBad := 0, ioscTold := 0, ioscTry := s.now }
  if s.reference = 2 ∨ s.power.lost.isSome then (s.event 0x80 0xE1 1 3 0).standstill else s

/-- SREF stops: port group 0 restarts on PLL4 (R345). -/
def State.srefStops (s : State) : State :=
  if s.power.srefLost || !s.clockOn 3 s.mode then s
  else ((s.withPower fun p => { p with srefLost := true }).event 0x80 0xE1 3 1 1).bump 0x2001 7 1 |>.restartDomain 38

/-- PCIE_REFCLK stops (Table 16.2): the link is gone, held reads are never completed, every ring enable is cleared. -/
def State.pcieStops (s : State) : State :=
  if s.power.pcieLost then s
  else
    let s := (s.withPower fun p => { p with pcieLost := true, pcieAt := s.now }).wr 0x2001 2 (s.rd 0x2001 2 % 32)
    ((s.endReads false).pcieLink false 0 0).dropPrefetches.clearRings.endHostSession

/-- A loss-of-clock monitor trips. -/
def State.clockLoss (s : State) (k : Nat) : State :=
  let s := s.bump 0x2001 5 1
  if k = 2 then s.xtalStops
  else if k = 1 then s.ioscFails
  else if k = 3 then s.srefStops
  else if k = 9 then s.pcieStops
  else s

/-- The PLLs lock on the new reference: the domains are released and reduced accuracy applies (R343 steps 4 and 5, R344). -/
def State.pllLocked (s : State) (k : Nat) : State :=
  if k = 9 then
    if s.power.pcieLost then
      let us := ceilDiv (s.now - s.power.pcieAt) 1000
      let s := s.withPower fun p => { p with pcieLost := false }
      (((s.wr 0x2001 2 (s.lockBits s.mode)).event 0x80 0xE1 9 1 (min 65535 us)).bump 0x2001 7 1).restartDomain 41
    else s
  else
    match s.power.lost with
    | none => s
    | some l =>
      if s.reference ≠ 2 then s
      else
        let doms := s.pllDomains
        let n := (((List.range 5).map (· + 4)).filter fun k => s.clockOn k s.mode).length
        let s := s.withPower fun p => { p with lost := none }
        let s := ((s.wr 0x2001 2 (s.lockBits s.mode)).event 0x80 0xE1 l.clock l.how (min 65535 (ceilDiv (s.now - l.at_) 1000))).bump 0x2001 7 n
        (s.forEach doms State.restartDomain).reduceAccuracy

/-! ### Qualification (R338–R340) -/

/-- A window of IOSC ends with a count. -/
def State.ioscWindow (s : State) (count : Nat) : State :=
  if s.power.ioscOff then s
  else
    let s := s.wr 0x2001 4 count
    let qual := s.rdB 0x2001 1 3
    if 1504 ≤ count ∧ count ≤ 1696 then
      let s := s.withPower fun p => { p with ioscGood := p.ioscGood + 1, ioscBad := 0, ioscTold := p.ioscTold + 1 }
      if qual ∨ s.power.ioscGood < 8 then s
      else
        let s := ((s.wrB 0x2001 1 3 true).wrB 0x2001 1 5 false).event 0x80 0xE0 1 0 (min 65535 s.power.ioscTold)
        match s.power.lost with
        | some _ => s.abandonXtal 2
        | none => s.selectReference
    else
      let s := s.withPower fun p => { p with ioscGood := 0, ioscBad := p.ioscBad + 1, ioscTold := p.ioscTold + 1 }
      if qual ∧ 2 ≤ s.power.ioscBad then s.ioscFails else s

/-- A failed IOSC is restarted once every second. -/
def State.ioscRequalify (s : State) : State :=
  if s.rdB 0x2001 1 5 ∧ s.power.ioscTry + 1000000000 ≤ s.now then
    s.withPower fun p => { p with ioscTry := s.now, ioscGood := 0, ioscBad := 0, ioscTold := 0 }
  else s

/-- A window of XTAL ends with a count (R339, R340). -/
def State.xtalWindow (s : State) (count : Nat) : State :=
  if !s.rdB 0x2001 1 3 || !s.clockOn 2 s.mode then s
  else
    let t := s.rdF 0x2002 1 6 0
    let s := s.wr 0x2001 3 count
    let qual := s.rdB 0x2001 1 2
    if ceilDiv (256 * (1000 - t)) 1000 ≤ count ∧ count ≤ 256 * (1000 + t) / 1000 then
      let s := s.withPower fun p => { p with xtalGood := p.xtalGood + 1, xtalBad := 0, xtalTold := p.xtalTold + 1 }
      let s := if qual ∨ s.power.xtalGood < 8 then s
        else (s.wrB 0x2001 1 2 true).event 0x80 0xE0 2 0 (min 65535 s.power.xtalTold)
      s.autoReturn
    else
      let s := s.withPower fun p => { p with xtalGood := 0, xtalBad := p.xtalBad + 1, xtalTold := p.xtalTold + 1 }
      if qual ∧ 2 ≤ s.power.xtalBad then
        let s := (s.wrB 0x2001 1 2 false).withPower fun p => { p with xtalTold := 0 }
        if s.reference = 1 then (s.switchReference 2 1) else s
      else s

/-! ### Brown-out (R294, R356) -/

/-- The brown-out warning: counted, event 0x00C6; no ledger write starts. -/
def State.brownOut (s : State) : State :=
  if s.key.brownOut then s.withPower fun p => { p with brownAt := s.now }
  else
    let s := ((s.withKey fun k => { k with brownOut := true }).bump 0x8040 3 1).event 46 0xC6 0 0 0
    (s.withTime fun t => { t with live := { t.live with brownOuts := t.live.brownOuts + 1 } }).withPower fun p => { p with brownAt := s.now }

/-- The set point taken from READ_VOUT when a fault clears (R359). -/
def State.reloadSetPoint (s : State) : State :=
  let v := s.winLe 0x2006 2 16 2
  if v = 0 then s else s.wr 0x2011 5 v

/-- The warning ends once every cause has been clear for 1 ms. -/
def State.brownClear (s : State) : State :=
  if s.key.brownOut ∧ s.power.vfabAt.isNone ∧ s.power.brownAt + 1000000 ≤ s.now then
    (s.withKey fun k => { k with brownOut := false }).reloadSetPoint
  else s

/-! ### Regulators (R352–R354) -/

/-- A field of a regulator record (Table 13.7). -/
def State.regulator (s : State) (k off n : Nat) : Nat := s.winLe 0x2006 1 (16 * k + off) n

/-- An enable driven. -/
def State.drive (s : State) (k : Nat) (b : Bool) : State := s.withPower fun p => { p with ens := setBit p.ens k b }

/-- The next enables of the sequence raised, as far as none waits for a supply-good. -/
def State.raiseNext (s : State) : List Nat → State
  | [] => s.withPower fun p => { p with todo := [] }
  | k :: rest =>
    let s := (s.drive k true).withPower fun p => { p with todo := k :: rest, stepAt := s.now }
    if s.regulator k 1 1 = 0xFF then s.raiseNext rest else s

/-- The regulator sequence begins (R352). -/
def State.startSequence (s : State) : State :=
  (s.withPower fun p => { p with ens := 0, goods := 0, retryAt := none }).raiseNext [0, 1, 2, 3, 4]

/-- EN5–EN7 raised in the order of their records (R353). -/
def State.raiseExternal (s : State) : State :=
  let used := [5, 6, 7].filter fun k => tb (s.regulator k 0 1) 0 && !tb s.power.ens k
  let order := used.mergeSort fun a b => s.regulator a 3 1 ≤ s.regulator b 3 1
  if s.power.todo = [] ∧ order ≠ [] then s.raiseNext order else s

/-- A supply-good input rises: the rails it names are up, and the sequence goes on. -/
def State.supplyGood (s : State) (pg : Nat) : State :=
  if s.power.halted || s.power.dead then s
  else
    let ups := (List.range 8).filter fun k => s.regulator k 1 1 == pg && tb s.power.ens k
    let s := s.withPower fun p => { p with goods := ups.foldl (fun g k => setBit g k true) p.goods }
    match s.power.todo with
    | [] => s
    | k :: rest => if s.regulator k 1 1 = pg then s.raiseNext rest else s

/-- A supply fault of a rail counted and told (R354, R355). -/
def State.supplyEvent (s : State) (k code status : Nat) : State := (s.bump 0x2005 4 1).event 0x80 0xE4 k code status

/-- A supply-good that does not rise within its timeout: a sequencing failure of EN0–EN4, retried after 100 ms and given up after
three; of EN5–EN7 a supply fault with the record's action. -/
def State.sequencingTimeout (s : State) : State :=
  match s.power.todo with
  | [] => s
  | k :: rest =>
    if s.power.halted || s.power.dead || decide (s.now < s.power.stepAt + s.regulator k 6 2 * 1000000) then s
    else if 5 ≤ k then
      let s := s.supplyEvent k 1 0
      let s := if s.regulator k 8 1 = 1 then s.drive k false else s
      s.raiseNext rest
    else
      let s := (s.supplyEvent k 1 0).withPower fun p => { p with ens := 0, goods := 0, todo := [], fails := p.fails + 1 }
      if 3 ≤ s.power.fails then s.withPower fun p => { p with dead := true, faultN := true, cause := 4 }
      else s.withPower fun p => { p with retryAt := some (s.now + 100000000) }

/-- The sequence starts again 100 ms after a failure. -/
def State.sequenceRetry (s : State) : State :=
  match s.power.retryAt with
  | some t => if t ≤ s.now ∧ !s.power.halted then s.startSequence else s
  | none => s

/-- VFAB is lost (R357): the warning, carriages 0–31 fenced with reason 2, the rail turned off and on by PMBus. -/
def State.vfabFault (s : State) (code status : Nat) : State :=
  if s.power.vfabAt.isSome then s
  else
    let s := ((s.supplyEvent 2 code status).brownOut).withPower fun p => { p with vfabAt := some s.now }
    let s := s.forEach (List.range 32) (State.downCarriage · false)
    let s := s.forEach ((List.range 32).filter fun n => s.power.slept.contains n) fun s n => s.setCar n stFenced
    if tb (s.regulator 2 0 1) 2 then (s.emit (.pmbus 2 1 0)).emit (.pmbus 2 1 0x80) else s

/-- 10 ms after a VFAB fault, or once VFAB has been back for 1 ms (`back`, R357). -/
def State.vfabRecovery (s : State) (back : Bool) : State :=
  match s.power.vfabAt with
  | none => s
  | some t =>
    if back ∧ s.now < t + 1000000 then s
    else if back then
      let s := s.withPower fun p => { p with vfabAt := none }
      let s := s.forEach ((List.range 32).filter fun n => s.carState n == stFenced && s.power.slept.contains n)
        (State.upCarriage · false)
      (s.withKey fun k => { k with brownOut := false }).reloadSetPoint
    else if t + 10000000 ≤ s.now then s.standstill else s

/-- A supply fault handled by its rail (R354). -/
def State.supplyFault (s : State) (k code status : Nat) : State :=
  if k = 2 then s.vfabFault code status
  else
    let s := s.supplyEvent k code status
    if k ≤ 4 then s.brownOut
    else if s.regulator k 8 1 = 1 then s.drive k false else s

/-- A supply-good input falls for `ns` after its rail was up. -/
def State.supplyLost (s : State) (pg ns : Nat) : State :=
  if ns ≤ 10000 || s.power.halted then s
  else
    let ks := (List.range 8).filter fun k => s.regulator k 1 1 == pg && tb s.power.goods k
    s.forEach ks fun s k => (s.withPower fun p => { p with goods := setBit p.goods k false }).supplyFault k 2 0

/-! ### PMBus (R355) and the trim (R358, R359) -/

/-- The readings of a rail: telemetry, or a transaction that failed after two retries. -/
def State.pmbusRead (s : State) (r : PmbusRead) : State :=
  if 8 ≤ r.rail || !tb (s.regulator r.rail 0 1) 2 then s
  else if r.ok then
    let s := s.setWin 0x2006 2 (8 * r.rail) (leBytes 2 r.vout ++ leBytes 2 r.iout ++ leBytes 2 r.temp)
    s.withPower fun p => { p with voutMode := mapSet p.voutMode r.rail r.mode }
  else s.supplyEvent r.rail 3 0

/-- The poll of all PMBus rails, every 10 ms. -/
def State.pmbusPoll (s : State) (l : List PmbusRead) : State :=
  if s.power.halted then s else s.forEach l State.pmbusRead

/-- PMB_ALERT_N: STATUS_WORD is read, and a fault bit is a supply fault. -/
def State.pmbusAlert (s : State) (k status : Nat) : State :=
  if s.power.halted || decide (8 ≤ k) || !tb (s.regulator k 0 1) 2 then s
  else
    let s := s.setWin 0x2006 2 (8 * k + 6) (leBytes 2 status)
    if status % 65536 / 4 ≠ 0 then s.supplyFault k 3 (status % 65536) else s

/-- VOUT_MODE of a rail is linear: bits [7:5] 0. -/
def linearMode (m : Nat) : Bool := m / 32 == 0

/-- VOUT_COMMAND for a set point in mV under a VOUT_MODE exponent: the output in volts divided by 2^N, rounded. PRESUMED, log entry 44. -/
def voutCommand (mv mode : Nat) : Nat :=
  let n := signed 5 mode
  if n < 0 then (mv * 2 ^ n.natAbs + 500) / 1000 else (mv + 500 * 2 ^ n.natAbs) / (1000 * 2 ^ n.natAbs)

/-- The set point changed: written to the rail, event 0x00E5. -/
def State.trimTo (s : State) (mv : Nat) (up : Bool) : State :=
  if mv = s.rdF 0x2011 5 9 0 then s
  else
    let s := (s.wr 0x2011 5 mv).withPower fun p => { p with trimAt := s.now }
    let s := s.emit (.pmbus 2 0x21 (voutCommand mv (mapGetD s.power.voutMode 2 0)))
    s.event 0x80 0xE5 up.toNat 0 mv

/-- One decision of the trim at the end of a headroom window with whole-fabric headroom `h` (8.8). -/
def State.trimStep (s : State) (h : Nat) : State :=
  if !s.rdB 0x2011 1 0 || s.key.brownOut || s.power.vfabAt.isSome || s.power.halted
      || decide (s.now < s.power.trimAt + s.rdF 0x2011 4 31 16 * 1000) then s
  else
    let mv := s.rdF 0x2011 5 9 0
    if h < s.rdF 0x2011 2 15 0 then
      (s.withPower fun p => { p with trimCount := 0 }).trimTo (min (s.rdF 0x2011 3 25 16) (mv + 10)) true
    else if s.rdF 0x2011 2 31 16 < h then
      if s.rdF 0x2011 4 15 0 ≤ s.power.trimCount + 1 then
        (s.withPower fun p => { p with trimCount := 0 }).trimTo (max (s.rdF 0x2011 3 9 0) (mv - 5)) false
      else s.withPower fun p => { p with trimCount := p.trimCount + 1 }
    else s.withPower fun p => { p with trimCount := 0 }

/-! ### OFF (R351) -/

/-- The commits of a commanded power-down (R274, R333): every enabled verifying record's last freshness value, and the lifetime
record. -/
def State.powerCommits (s : State) : State :=
  let recs := (s.listedRecs 0x8130 0 32 0).filter fun r => s.au r 0 1 == 1 && tb (s.au r 1 1) 0
  let s := s.forEach recs fun s r => s.commitFresh r (s.auStat r 0 8)
  s.lifeCommit

/-- Command 3. -/
def State.powerOff (s : State) : State :=
  let s := s.powerCommits.forEach carriages (State.downCarriage · false)
  { s with mode := .off }.withPower fun p => { p with ens := 0, goods := 0, todo := [], phold := false, pholdAt := s.now }

/-- VAON is still present 100 ms after PHOLD was released: DEEP_SLEEP. -/
def State.pholdTimeout (s : State) : State :=
  if s.mode = .off ∧ s.power.pholdAt + 100000000 ≤ s.now then { s with mode := .deepSleep }.wr 0x2005 1 2 else s

end Sys2Proof.Machine
end

