-- ==== Sys2Proof/Machine/Wake.lean ====
section
/-! DEFINITION. Wake, sleep and partial networking (Chapter 14): channel levels and load outputs (R362, R370), domains and keep-alives
(R371–R376), wakes (R363–R369) and the ways into and out of SLEEP and DEEP_SLEEP (R377–R382). -/

namespace Sys2Proof.Machine

/-- The wake part of the state changed. -/
def State.withWake (s : State) (f : WakeState → WakeState) : State := { s with wake := f s.wake }

/-! ### Levels and loads (R362, R370) -/

/-- A byte of a channel's wake record. -/
def State.wakeRec (s : State) (c b : Nat) : Nat := s.winB 0x2071 0 (32 * c + b)

/-- The wake mode of a channel. -/
def State.wakeMode (s : State) (c : Nat) : Nat := s.wakeRec c 0 % 4

/-- The level set of a channel (Table 14.1): 0 Active, 1 Listen, 2 Off. -/
def State.levelSet (s : State) (c : Nat) : Nat :=
  match s.mode with
  | .sleep => if s.wakeMode c = 0 then 2 else 1
  | .deepSleep => if s.wakeMode c = 0 then 2 else 1
  | .run =>
    if s.power.lost.isSome then 1
    else if s.proto c = 0 then 2
    else if s.listens (64 + c) || (s.ch c).quiet || s.rdB 0x8030 3 0 then 1 else 0
  | _ => 1

/-- The levels of MODE1 and MODE0 of a channel (R362). -/
def State.modePins (s : State) (c : Nat) : Nat := fld (s.wakeRec c 1) (2 * s.levelSet c + 1) (2 * s.levelSet c)

/-- The level of LOADn (R370). -/
def State.loadPin (s : State) (n : Nat) : Bool :=
  let f := s.winB 0x2090 0 (16 * n)
  let mask := s.winLe 0x2090 0 (16 * n + 8) 8
  let on := tb f 0 && (match s.mode with
    | .sleep => tb f 2
    | .run => mask == 0 || (maskList 64 mask).any fun d => s.domState d != 4
    | _ => tb f 3)
  if tb f 1 then on else !on

/-! ### Domains (R372) -/

/-- The moving parts of a domain. -/
def State.dom (s : State) (d : Nat) : DomainDyn := mapGetD s.wake.domains d ⟨0, 0, 0, 0⟩

/-- The moving parts of a domain changed. -/
def State.modDom (s : State) (d : Nat) (f : DomainDyn → DomainDyn) : State :=
  s.withWake fun w => { w with domains := mapPut ⟨0, 0, 0, 0⟩ w.domains d (f (s.dom d)) }

/-- A field of `n` bytes of a domain record. -/
def State.domRec (s : State) (d off n : Nat) : Nat := s.winLe 0x2080 0 (32 * d + off) n

/-- NM is enabled in a domain. -/
def State.nmOn (s : State) (d : Nat) : Bool := tb (s.domRec d 0 1) 0

/-- A domain's local request. -/
def State.localReq (s : State) (d : Nat) : Bool := tb (s.domRec d 0 1) 1

/-- The wake hold of a domain in ns: 0 in its record means the timeout. -/
def State.holdTime (s : State) (d : Nat) : Nat :=
  (if s.domRec d 8 2 = 0 then s.domRec d 2 2 else s.domRec d 8 2) * 1000000

/-- A domain's state changes, event 0x00F2. -/
def State.setDom (s : State) (d new : Nat) : State :=
  let old := s.domState d
  if old = new then s else (s.setWinB 0x2082 0 (8 * d) new).event 43 0xF2 d new old

/-- The L commanders among a domain's members that now listen: each sends the go-to-sleep command, stops its schedule and takes its
Listen levels (R366). -/
def State.sleepLin (s : State) (d : Nat) : State :=
  let cs := ((s.members d).filter fun p => isL p && s.listens p).map (· - 64)
  s.forEach cs fun s c =>
    if s.proto c = 4 ∧ (s.ch c).runs then
      let data := beBytes 1 0 ++ fill 7 0xFF
      let s := s.emits [.linHeader (64 + c) 0x3C, .frame (64 + c) (linBytes (linPid 0x3C) (linSum true (linPid 0x3C) data) true data) true]
      s.modCh c fun x => { x with runs := false, await_ := none }
    else s

/-- The L channels among the members of woken domains that listened: a dominant pulse, but on the channel the wake came from, then
their schedule (R366). `was` lists the ports that listened. -/
def State.wakeLin (s : State) (was : List Nat) (src : Option Nat) : State :=
  let cs := (was.filter fun p => isL p && !s.listens p).map (· - 64)
  s.forEach cs fun s c =>
    let s := (if src = some (64 + c) then s else s.emit (.linWake (64 + c))).modCh c fun x => { x with quiet := false }
    if s.proto c = 4 then s.modCh c fun x => { x with runs := s.rdB (chObj c 0x11) 2 4, slotEnd := s.now + 1000000 } else s

/-- The members of a list of domains that listen. -/
def State.listeners (s : State) (ds : List Nat) : List Nat := (ds.flatMap s.members).eraseDups.filter s.listens

/-- The keep-alive templates of a domain sent once to every member that takes one (R374). -/
def State.sendTemplates (s : State) (d : Nat) : State :=
  let t := s.winBytes 0x2081 0 (96 * d) 96
  let n := beAt t 6 2
  let can := t.take (16 + n)
  let len := leVal ((t.drop 88).take 2)
  let s := s.forEach (s.members d) fun s p =>
    if isC p ∧ n ≠ 0 ∧ n ≤ 8 then s.sendBuilt p 7 1 can
    else if isEth p ∧ len ≠ 0 then s.sendBuilt p 7 0 (withFcs (sliceZ t 24 len))
    else s
  s.modDom d fun x => { x with alive := s.now, sentAt := s.now }

/-- A domain enters AWAKE; `hold` the wake hold runs, and the egress groups send its templates. -/
def State.awaken (s : State) (d : Nat) (hold : Bool) : State :=
  let s := s.setDom d 1
  if hold then (s.modDom d fun x => { x with holdAt := s.now + s.holdTime d }).sendTemplates d
  else s.modDom d fun x => { x with sentAt := s.now }

/-- NM enabled, disabled, a local request set or cleared: what a write of a domain record does (R372); `old` is byte 0 before it. No
domain changes state while carriage 43 is away (R375). -/
def State.domainWritten (s : State) (d old : Nat) : State :=
  let was := s.listeners [d]
  let s := if !s.nmOn d then s.setDom d 0
    else if s.domState d = 0 then (s.setDom d 2).modDom d fun x => { x with alive := s.now }
    else s
  let s := if s.nmOn d ∧ s.localReq d ∧ s.domState d ≠ 1 then s.awaken d (s.domState d == 4 && !tb old 1)
    else if s.nmOn d ∧ !s.localReq d ∧ s.domState d = 1 ∧ (s.dom d).holdAt ≤ s.now then s.setDom d 2
    else s
  s.wakeLin was none

/-- A keep-alive of a domain (R373). -/
def State.isKeepAlive (s : State) (d p : Nat) (bs : List Byte) : Bool :=
  (s.members d).contains p && s.nmOn d &&
    (if isC p then ((beAt bs 0 4 ^^^ s.domRec d 12 4) &&& s.domRec d 16 4) == 0 && s.domRec d 16 4 != 0
     else if isEth p then
       (let v := parseEth bs; (v.v4 || v.v6) && v.proto == 17 && !v.frag && v.dport == s.domRec d 10 2 && v.dport != 0)
     else false)

/-- A keep-alive is received (R372, R373). -/
def State.keepAlive (s : State) (d p : Nat) (bs : List Byte) : State :=
  if !s.isKeepAlive d p bs || !s.present 43 then s
  else
    let was := s.listeners [d]
    let s := (s.bumpWin 0x2082 0 (8 * d + 4) 4 1).modDom d fun x => { x with alive := s.now }
    let s := if s.domState d = 3 ∨ s.domState d = 4 then s.setDom d 2 else s
    s.wakeLin was (some p)

/-- The station pair runs the domains: RUN, and carriage 43 is PRESENT (R375, R381). -/
def State.nmRuns (s : State) : Bool := s.present 43 && s.mode == .run

/-- The keep-alive timer reaches the timeout (READY to PREPARE). -/
def State.domTimeout (s : State) (d : Nat) : State :=
  if s.nmRuns ∧ s.domState d = 2 ∧ (s.dom d).alive + s.domRec d 2 2 * 1000000 ≤ s.now then
    (s.setDom d 3).modDom d fun x => { x with prepareAt := s.now }
  else s

/-- The prepare time passes (PREPARE to ASLEEP). -/
def State.domPrepared (s : State) (d : Nat) : State :=
  if s.nmRuns ∧ s.domState d = 3 ∧ (s.dom d).prepareAt + s.domRec d 6 2 * 1000000 ≤ s.now then
    (s.setDom d 4).sleepLin d
  else s

/-- The wake hold has passed with the local request clear (AWAKE to READY). -/
def State.domHeld (s : State) (d : Nat) : State :=
  if s.nmRuns ∧ s.domState d = 1 ∧ !s.localReq d ∧ (s.dom d).holdAt ≤ s.now then s.setDom d 2 else s

/-- A send period of an AWAKE domain passes (R374). -/
def State.domPeriod (s : State) (d : Nat) : State :=
  if s.nmRuns ∧ s.domState d = 1 ∧ (s.dom d).sentAt + s.domRec d 4 2 * 1000000 ≤ s.now then s.sendTemplates d else s

/-! ### Wakes (R369, R379) -/

/-- The members whose pins and requests hold a local wake (R377). -/
def State.pinActive (s : State) (n : Nat) : Bool :=
  let b := s.winB 0x2073 0 (16 * n)
  b % 4 != 0 && (tb s.wake.pins n == tb b 2)

/-- A local wake is pending (0x2070:05 [0]). -/
def State.localWake (s : State) : Bool :=
  s.wake.latch || (List.range 8).any s.pinActive || (List.range 64).any fun d => s.nmOn d && s.localReq d

/-- A record of the wake log (Table 14.8). -/
def State.wakeLog (s : State) (kind src word : Nat) : State :=
  let k := s.wake.logged % 16
  let c := s.calNow
  let r := leBytes 6 (c / 32768) ++ leBytes 2 (c % 32768) ++ leBytes 1 kind ++ leBytes 1 src ++ leBytes 1 (modeCode s.mode) ++ fill 1 0
    ++ leBytes 4 word
  (((s.setWin 0x2074 0 (16 * k) r).withWake fun w => { w with logged := w.logged + 1 }).wr 0x2070 6 (min 16 (s.wake.logged + 1))).bump
    0x2070 2 1

/-- The wakes that await RUN are told: their domains become AWAKE, event 0x00F0. -/
def State.tellWakes (s : State) : State :=
  let l := s.wake.untold
  let s := s.withWake fun w => { w with untold := [] }
  s.forEach l fun s x =>
    let ds := x.2.2.filter fun d => s.domState d != 0
    let was := s.listeners ds
    let s := s.forEach ds fun s d => s.awaken d true
    let src := if x.1 ≤ 4 ∨ x.1 = 7 then some x.2.1 else none
    (s.event 0x81 0xF0 x.1 x.2.1 ds.length).wakeLin was src

/-- The part returns to RUN from SLEEP (R381): carriages come back with what retention kept, domain timers go on where they held. -/
def State.leaveSleep (s : State) : State :=
  let dt := s.now - s.wake.sleptAt
  let s := ({ s with mode := .run }.applyClocks .run [] true)
  let s := { s with mode := .sleep }.enterMode .run
  let s := s.withWake fun w => { w with domains := w.domains.map fun x =>
    (x.1, ⟨x.2.alive + dt, x.2.prepareAt + dt, x.2.holdAt + dt, x.2.sentAt + dt⟩) }
  { s with eth := { s.eth with repairUntil := s.now + 100000000 } }.raiseExternal.tellWakes

/-- The sleep sequence aborts at a step (R379): counted, event 0x00F1; the woken domains are AWAKE. -/
def State.abortSleep (s : State) (step kind src : Nat) : State :=
  let s := (s.withWake fun w => { w with seqAt := none }).bump 0x2070 3 1
  (s.event 0x80 0xF1 step kind src).tellWakes

/-- The commit of a sleep sequence has passed: 11 µs after it began (Table 14.4 steps 1 and 2). -/
def State.committed (s : State) : Bool :=
  match s.wake.seqAt with
  | some t => decide (t + 11000 ≤ s.now)
  | none => false

/-- A wake is latched (R369): logged, counted, and acted on by the power state. STANDSTILL only counts. -/
def State.latchWake (s : State) (kind src word : Nat) (ds : List Nat) : State :=
  if s.mode = .off ∨ s.mode = .stopped then s
  else
    let s := (s.wakeLog kind src word).withWake fun w => { w with latch := true }
    if s.mode = .standstill then s
    else
      let s := s.withWake fun w => { w with untold := w.untold ++ [(kind, (src, ds))] }
      match s.wake.seqAt with
      | some _ => s.abortSleep (if s.committed then 3 else 2) kind src
      | none =>
        if s.mode = .run then (if s.startup.forwarding then s.tellWakes else s)
        else if s.mode = .sleep then s.leaveSleep
        else if s.power.todo = [] ∧ s.power.retryAt.isNone then
          { s.startSequence with startup := { s.startup with begun := s.now } }
        else s

/-- The latch is cleared once its wake is served and the station pair runs. -/
def State.clearLatch (s : State) : State :=
  if s.wake.latch ∧ s.mode = .run ∧ s.wake.seqAt.isNone ∧ s.wake.untold = [] ∧ s.present 43 then
    s.withWake fun w => { w with latch := false }
  else s

/-- A local request wakes where its domain is ASLEEP, the part is not in RUN, or a sleep sequence runs (kind 6). -/
def State.requestWake (s : State) (d : Nat) : State :=
  if s.nmOn d ∧ s.localReq d ∧ (s.domState d = 4 ∨ s.mode ≠ .run ∨ s.wake.seqAt.isSome) then s.latchWake 6 d 0 [d] else s

/-- An egress frame to a listening member of a domain with wake on traffic wakes that domain (R376, kind 7). -/
def State.trafficWakes (s : State) : State :=
  if s.mode ≠ .run then s
  else
    let ps := (s.tm.ports.filter fun t => !t.2.queues.isEmpty).map Prod.fst
    s.forEach ps fun s p =>
      if s.listens p then
        match (s.domainsOf p).filter fun d => tb (s.domRec d 0 1) 2 with
        | [] => s
        | ds => s.latchWake 7 p 0 ds
      else s

/-! ### Decoders and pins (R361–R368) -/

/-- A pulse against its filter time, both in ns: below 0.9 × it is ignored, above 1.1 × it is taken, between them it is either
(R361). DESIGN CHOICE, log entry 19. -/
def State.pulseTaken (s : State) (ns filter : Nat) : Bool × State :=
  if 10 * ns < 9 * filter then (false, s)
  else if 11 * filter < 10 * ns then (true, s)
  else (let r := s.draw; (r.1 % 2 == 1, r.2))

/-- The decoder of a channel listens: in RUN with every domain ASLEEP, else with a wake mode. -/
def State.decodes (s : State) (c : Nat) : Bool :=
  match s.mode with
  | .run => s.listens (64 + c) || s.wake.seqAt.isSome
  | .off => false
  | .stopped => false
  | _ => s.wakeMode c != 0

/-- XTAL runs for the decoders of wake mode 2. -/
def State.xtalRuns (s : State) : Bool := s.clockOn 2 s.mode && s.mode != .standstill

/-- The decoder of a C channel takes the pattern: wake mode 1, or 2 while XTAL is not running (R365). -/
def State.patternMode (s : State) (c : Nat) : Bool := s.decodes c && (s.wakeMode c == 1 || (s.wakeMode c == 2 && !s.xtalRuns))

/-- Dominant, recessive and dominant phases of given lengths on a C channel (R363); a second dominant phase of 0 leaves a partial
pattern, and first phases of 0 complete one. -/
def State.canPattern (s : State) (c dom1 rec_ dom2 : Nat) : State :=
  if !s.patternMode c then s
  else
    let f := s.rdF 0x2070 1 5 0 * 100
    let lim := s.rdF 0x2070 1 21 8 * 1000
    let part := mapGet s.wake.partial_ c
    let fresh := decide (dom1 ≠ 0)
    let (a, s) := if fresh then s.pulseTaken dom1 f else (part.isSome, s)
    let (b, s) := if fresh then s.pulseTaken rec_ f else (part.isSome, s)
    let s := s.withWake fun w => { w with partial_ := mapDel w.partial_ c }
    let start := if fresh then s.now - (dom1 + rec_ + dom2) else part.getD 0
    if !(a && b) then s
    else if dom2 = 0 then s.withWake fun w => { w with partial_ := mapSet w.partial_ c start }
    else
      let (t, s) := s.pulseTaken dom2 f
      if t ∧ s.now - dom2 + f ≤ start + lim then s.latchWake 0 (64 + c) 0 (s.domainsOf (64 + c)) else s

/-- A partial pattern that has not completed within the timeout is discarded. -/
def State.patternTimeout (s : State) (c : Nat) : State :=
  match mapGet s.wake.partial_ c with
  | some t => if t + s.rdF 0x2070 1 21 8 * 1000 ≤ s.now then s.withWake fun w => { w with partial_ := mapDel w.partial_ c } else s
  | none => s

/-- The frame matches the wake filter of a C channel (R364). -/
def State.wakeMatch (s : State) (c : Nat) (bs : List Byte) : Bool :=
  let v := parseCan bs
  let flags := s.wakeRec c 3
  let field := fun off => s.winLe 0x2071 0 (32 * c + off) 4 % 2 ^ 29
  let data := (bs.drop 16).take v.len
  !v.fdf && !v.xlf && (v.ide == tb flags 0) && ((v.id ^^^ field 4) &&& field 8) == 0
    && (!tb flags 1 || (!v.rtr && v.dlc == s.wakeRec c 12 % 16
        && (List.range 8).any fun k => (byteAt data k &&& s.wakeRec c (16 + k)) != 0))

/-- The error count of a decoder. -/
def State.decErrors (s : State) (c : Nat) : Nat := mapGetD s.wake.errors c 0

/-- A frame decoded without error takes 1 from the error count (R365). -/
def State.decGood (s : State) (c : Nat) : State := s.withWake fun w => { w with errors := mapPut 0 w.errors c (s.decErrors c - 1) }

/-- A frame decoded by a channel in wake mode 2. -/
def State.wakeFrame (s : State) (c : Nat) (bs : List Byte) : State :=
  if !s.decodes c || s.wakeMode c != 2 || !s.xtalRuns then s
  else
    let s := s.decGood c
    if s.wakeMatch c bs then s.latchWake 1 (64 + c) (beAt bs 0 4) (s.domainsOf (64 + c)) else s

/-- A frame ends at a decoder of wake mode 2 with or without an error; at 32 the channel wakes with kind 2 and event 0x00F3. -/
def State.decoderError (s : State) (c : Nat) (err : Bool) : State :=
  if !s.decodes c || s.wakeMode c != 2 || !s.xtalRuns then s
  else if !err then s.decGood c
  else
    let n := s.decErrors c + 1
    let s := s.withWake fun w => { w with errors := mapPut 0 w.errors c n }
    if n = 32 then (s.latchWake 2 (64 + c) 0 (s.domainsOf (64 + c))).event 0x81 0xF3 (64 + c) 1 0 else s

/-- A dominant level of `ns` on an L channel (R366). In RUN it ends the Listen levels of a responder that was told to sleep. -/
def State.linDominant (s : State) (l ns : Nat) : State :=
  let c := 72 + l
  let s := if s.mode = .run ∧ (s.ch c).quiet ∧ 150000 ≤ ns then s.modCh c fun x => { x with quiet := false, lastBus := s.now } else s
  if s.decodes c ∧ s.wakeMode c = 1 ∧ 150000 ≤ ns then s.latchWake 3 (64 + c) 0 (s.domainsOf (64 + c)) else s

/-- Activity of `ns` on the segment of T port `k` (R367). -/
def State.t1sActivity (s : State) (k ns : Nat) : State :=
  let asleep := s.mode == .sleep || s.mode == .deepSleep || s.mode == .standstill || s.listens (28 + k) || s.wake.seqAt.isSome
  if !asleep || s.winB 0x2072 0 (4 * k) % 2 == 0 then s
  else
    let (t, s) := s.pulseTaken ns (s.winB 0x2072 0 (4 * k + 1) * 1000)
    if t then s.latchWake 4 (28 + k) 0 (s.domainsOf (28 + k)) else s

/-- An edge of a WAKE pin whose new level held for `ns` (R368). -/
def State.pinEdge (s : State) (n : Nat) (level : Bool) (ns : Nat) : State :=
  let b := s.winB 0x2073 0 (16 * n)
  let (t, s) := s.pulseTaken ns (s.winLe 0x2073 0 (16 * n + 2) 2 * 1000)
  if !t || tb s.wake.pins n == level then s
  else
    let s := s.withWake fun w => { w with pins := setBit w.pins n level }
    if (level && tb b 0) || (!level && tb b 1) then s.latchWake 5 n 0 (maskList 64 (s.winLe 0x2073 0 (16 * n + 4) 8)) else s

/-! ### Going to sleep (R377–R381) -/

/-- The sleep sequence begins: step 1 arms the wake island. -/
def State.armSleep (s : State) : State :=
  s.withWake fun w => { w with latch := false, errors := [], partial_ := [], seqAt := some s.now }

/-- Every domain with NM enabled is ASLEEP, at least one is enabled, and no local wake is pending (R377). -/
def State.mayAgree (s : State) : Bool :=
  (List.range 64).any s.nmOn && (List.range 64).all (fun d => !s.nmOn d || s.domState d == 4) && !s.localWake

/-- The sleep agreement starts the sequence. -/
def State.sleepAgreement (s : State) : State :=
  if s.mode = .run ∧ s.wake.seqAt.isNone ∧ s.mayAgree then s.armSleep else s

/-- The frames that stand in the buffer when the part goes to sleep: discarded, counted in 0x2070:04. -/
def State.discardFrames (s : State) : State :=
  let s := s.bump 0x2070 4 s.buf.frames.length
  s.loseFrames (s.buf.frames.map Prod.fst) |>.withBuf fun b => { b with ingress := [], delivery := [] }

/-- The event ring is lost in DEEP_SLEEP (R380). -/
def State.clearEvents (s : State) : State :=
  let s := { s.dropWins (winKey 0x1200 0 0) (winKey 0x1200 0 0 + 65536) with ringFull := false }
  (s.wr 0x1201 1 0).wr 0x1201 2 0

/-- Steps 3 and 4 of Table 14.4, once quiescing ends: everything but retention goes, event 0x00E3 before the enables fall. -/
def State.quiesceDone (s : State) : State :=
  if !s.committed then s
  else
    let s := s.withWake fun w => { w with seqAt := none }
    let fall := ((List.range 72).filter fun c => s.wakeMode c == 2 && !s.clockOn 2 .deepSleep)
    let s := s.lifeCommit.discardFrames
    let s := s.forEach carriages (State.downCarriage · true)
    let s := s.forEach fall fun s c => s.event 0x81 0xF3 (64 + c) 2 0
    let s := s.enterMode .deepSleep
    (s.clearEvents.withPower fun p => { p with ens := 0, goods := 0, todo := [], ioscOff := true }).wrB 0x2001 1 3 false

/-- The supplies are up again after DEEP_SLEEP (R382): clocks run, carriages return from retention, the control pairs start, the
gateway's images come from its defaults. The firmware is measured again (R471); forwarding begins at once, and start-up completes
100 ms later (R482). -/
def State.leaveDeepSleep (s : State) : State :=
  if s.mode ≠ .deepSleep ∨ s.power.todo ≠ [] ∨ !tb s.power.goods 4 then s
  else
    let s := { s with mode := .run }
    let pairs := [43, 44, 45].filter fun n => s.power.slept.contains n
    let s := s.withPower fun p => { p with slept := p.slept.filter fun n => !(43 ≤ n && n ≤ 45) }
    let s := s.applyClocks .run [] true
    let s := s.forEach pairs fun s n => s.startSeq n .reset .acting 2 0 0 0 false false
    let s := ({ s with mode := .deepSleep }.enterMode .run).wr 0x2005 3 6
    let s := if s.gwOn then s.gwEnable else s
    let s := ((s.wrB 0xF000 2 3 false).wrF 0xF000 2 6 4 2).wr 0xF000 1 ((s.now - s.startup.begun) / 1000 % 2 ^ 32)
    let s := { s with startup := { s.startup with measured := false, forwardAt := s.now } }
    (s.event 0x80 0x140 2 (s.rdF 0xF000 5 7 0) (min 65535 ((s.now - s.startup.begun) / 10000))).raiseExternal.tellWakes

/-- Command 1 (R381): carriages 0–40 and those of stopped clocks are powered down. -/
def State.enterSleep (s : State) : State :=
  let s := s.forEach ((List.range 41)) (State.downCarriage · true)
  let s := s.applyClocks .sleep (List.range 41) true
  (s.enterMode .sleep).withWake fun w => { w with sleptAt := s.now, latch := false, errors := [], partial_ := [] }

end Sys2Proof.Machine
end

