-- ==== Sys2Proof/Machine/Consist.lean ====
section
/-! DEFINITION. The consist logic of egress group 0 (Chapter 19): drawbars, paths and floods (R456, R459, R460), roll calls (R462),
the master (R463–R465), and the frames it sends. -/

namespace Sys2Proof.Machine

/-- The consist part of the state changed. -/
def State.withConsist (s : State) (f : ConsistState → ConsistState) : State := { s with consist := f s.consist }

/-! ### Drawbars and paths (R456, R459, R460) -/

/-- The drawbars, ascending. -/
def State.drawbars (s : State) : List Nat := (List.range 12).filter s.drawbar

/-- Roll calls and drawbar modes 1–5 run (0xA000:01 [4]). -/
def State.consistOn (s : State) : Bool := s.rdB 0xA000 1 4

/-- The device takes part: it has not left on a number conflict (R465). -/
def State.inConsist (s : State) : Bool := s.consistOn && !s.consist.left

/-- Hops to a heard device by a drawbar whose link is up. -/
def State.hopsBy (s : State) (p d : Nat) : Option Nat :=
  if s.linkUp p && (mapGet s.consist.members d).isSome then mapGet s.consist.dist (p * 8 + d) else none

/-- The path table's entry for a device (R459): the drawbar with the fewest hops, on a tie the lower one, and the hops. -/
def State.pathTo (s : State) (d : Nat) : Option (Nat × Nat) :=
  s.drawbars.foldl (fun best p =>
    match s.hopsBy p d, best with
    | some h, some b => if h < b.2 then some (p, h) else best
    | some h, none => some (p, h)
    | none, _ => best) none

/-- Devices that can be reached, as a bitmap with the device's own bit. -/
def State.reachable (s : State) : Nat :=
  (List.range 8).foldl (fun a d => if d = s.ownDevice ∨ (s.pathTo d).isSome then a + 2 ^ d else a) 0

/-- The ring is closed: some member is reached by two drawbars. -/
def State.ringClosed (s : State) : Bool :=
  (s.consist.members.map Prod.fst).any fun d => decide (2 ≤ (s.drawbars.filter fun p => (s.hopsBy p d).isSome).length)

/-- The Hops a flood's copy starts with on a drawbar (R460): in a ring half of the other members, the larger half on the lower
index; in a chain the members on its side. -/
def State.floodHops (s : State) (p : Nat) : Nat :=
  let n := s.consist.members.length
  if s.ringClosed then
    (if s.drawbars.head? = some p then (n + 1) / 2 else n / 2)
  else (s.consist.members.filter fun m => (s.hopsBy p m.1).isSome).length

/-- The drawbars a flood leaves by, with their Hops; one without a member on its side sends no copy. -/
def State.floodPlan (s : State) : List (Nat × Nat) :=
  (s.drawbars.map fun p => (p, s.floodHops p)).filter fun x => x.2 != 0

/-- The device's other drawbar. -/
def State.otherDrawbar (s : State) (p : Nat) : Option Nat := s.drawbars.find? fun q => q != p

/-! ### Frames of the consist logic -/

/-- A message of mode 3–5 put into the queues of drawbars with their Hops. Its class is one the spec does not state: a free value.
A message that finds no cell is refused like any frame built inside (R74). DESIGN CHOICE, log entry 32. -/
def State.sendMessage (s : State) (mode dst : Nat) (hops : List (Nat × Nat)) (body : List Byte) : State :=
  let (v, s) := s.draw
  let ports := hops.map Prod.fst
  let f0 : Frame := { blankFrame 46 0 (v % 8) s.nsNow with
    draw := some ⟨mode, s.ownDevice, dst, 46, 0xFF, hops⟩, refs := ports, waiting := ports }
  match s.buildFrame f0 body with
  | some (id, s) => s.forEach (s.frame? id |>.map (fun f => f.refs) |>.getD []) fun s p =>
      (s.modFrame id fun f => { f with waiting := f.waiting.erase p }).enterPlain p id true
  | none => s.refuse f0 46 0xFF 0

/-- Members heard, as a bitmap with the device's own bit. -/
def State.memberBits (s : State) : Nat :=
  (List.range 8).foldl (fun a d => if d = s.ownDevice ∨ (mapGet s.consist.members d).isSome then a + 2 ^ d else a) 0

/-- The term held (0xA002:02). -/
def State.term (s : State) : Nat := s.rdF 0xA002 2 15 0

/-- The device's own serial (0x1018:04). -/
def State.ownSerial (_ : State) : Nat := Config.serial

/-- The device's own warden is PRESENT. -/
def State.wardenPresent (s : State) : Bool := s.present 45

/-- The device itself is eligible (R463). -/
def State.ownEligible (s : State) : Bool :=
  s.wardenPresent ||
    (match s.consist.ownAbsentAt with
     | some t => decide (s.now < t + s.rdF 0xA000 2 13 0 * 1000000)
     | none => true)

/-- The roll-call body (Table 19.3). -/
def State.rollCallBody (s : State) : List Byte :=
  let m := match s.consist.master with
    | some d => d + 8
    | none => 0
  beBytes 1 s.ownDevice ++ beBytes 1 (s.rdF 0xA000 1 15 8) ++ beBytes 4 s.ownSerial ++ beBytes 1 m
    ++ beBytes 1 (s.wardenPresent.toNat + 2 * s.ownEligible.toNat + 4 * s.ringClosed.toNat + 8 * s.consist.conflict.toNat)
    ++ beBytes 2 s.term ++ beBytes 1 s.reachable ++ fill 5 0

/-- A roll call goes out on every drawbar (R462). Before any member is heard its Hops are 1: the neighbour is to hear it. -/
def State.sendRollCall (s : State) : State :=
  if !s.consistOn then s
  else s.sendMessage 3 0 (s.drawbars.map fun p => (p, max 1 (s.floodHops p))) s.rollCallBody

/-! ### Members and master (R463–R465) -/

/-- A heard member is eligible: its warden is PRESENT, or absent for less than the grace. -/
def State.memberEligible (s : State) (m : Member) : Bool :=
  tb m.flags 0 ||
    (match m.absentAt with
     | some t => decide (s.now < t + s.rdF 0xA000 2 13 0 * 1000000)
     | none => true)

/-- The eligible heard members with priority and serial, the device itself included. -/
def State.masterCandidates (s : State) : List (Nat × (Nat × Nat)) :=
  (if s.ownEligible then [(s.ownDevice, (s.rdF 0xA000 1 15 8, s.ownSerial))] else [])
    ++ (s.consist.members.filter fun m => s.memberEligible m.2).map fun m => (m.1, (m.2.priority, m.2.serial))

/-- `a` ranks above `b`: the higher priority, then the lower serial. -/
def outranks (a b : Nat × Nat) : Bool := decide (b.1 < a.1) || (a.1 == b.1 && decide (a.2 < b.2))

/-- The candidate of highest rank. -/
def bestOf (l : List (Nat × (Nat × Nat))) : Option (Nat × (Nat × Nat)) :=
  l.foldl (fun best c =>
    match best with
    | none => some c
    | some b => if outranks c.2 b.2 then some c else best) none

/-- A member has been eligible and heard for the preempt hold; the device itself always. -/
def State.heldLong (s : State) (d : Nat) : Bool :=
  d == s.ownDevice ||
    (match (mapGet s.consist.members d).bind fun m => m.eligibleAt with
     | some t => decide (t + s.rdF 0xA000 3 15 0 * 1000000 ≤ s.now)
     | none => false)

/-- The master taken (R463): the best candidate; a sitting master that is still a candidate is displaced only by one that has held
long enough. -/
def State.chooseMaster (s : State) : Option Nat :=
  let c := s.masterCandidates
  match s.consist.master.bind fun m => c.find? fun x => x.1 == m with
  | some sitting => (bestOf (c.filter fun x => x.1 == sitting.1 || (outranks x.2 sitting.2 && s.heldLong x.1))).map Prod.fst
  | none => (bestOf c).map Prod.fst

/-- A device number or 0xFF. -/
def deviceOr (d : Option Nat) : Nat := d.getD 0xFF

/-- The status word 0xA002:01. -/
def State.consistStatus (s : State) : Nat :=
  let m := s.consist.master
  s.ownDevice + 8 * m.isSome.toNat + 16 * m.getD 0 + 128 * (m == some s.ownDevice).toNat + 256 * s.memberBits
    + 65536 * s.ringClosed.toNat + 131072 * s.consist.conflict.toNat

/-- The forwarding sessions of an old term end with reason 2 and their locks are released (R469). -/
def State.endForwarded (s : State) : State :=
  (s.forEach s.consist.sessions fun s f => (s.clearSession f.sess).event 45 0x121 2 2 f.sess).withConsist fun c => { c with sessions := [], answered := [] }

/-- A term set; a higher one ends the forwarding sessions of the old term. -/
def State.setTerm (s : State) (t : Nat) : State :=
  let s := if s.term < t then s.endForwarded else s
  s.wr 0xA002 2 (t % 65536)

/-- The master chosen again; a change sets the term one above the highest heard, raises event 0x0130 and sends a roll call. -/
def State.updateMaster (s : State) : State :=
  if !s.consistOn then s
  else
    let new := s.chooseMaster
    let old := s.consist.master
    if new = old then s
    else
      let high := s.consist.members.foldl (fun a m => max a m.2.term) s.term
      let s := (s.withConsist fun c => { c with master := new }).setTerm (high + 1)
      let s := s.event 21 0x130 (deviceOr new) (deviceOr old) s.term
      s.sendRollCall

/-- A change of the topology is told (event 0x0132): `ring` and `reach` are what they were before. -/
def State.tellTopology (s : State) (ring : Bool) (reach p : Nat) : State :=
  if s.ringClosed = ring ∧ s.reachable = reach then s
  else s.event 21 0x132 s.ringClosed.toNat p s.reachable

/-- A member is lost (event 0x0131). -/
def State.loseMember (s : State) (d : Nat) : State :=
  let ring := s.ringClosed
  let reach := s.reachable
  let s := s.withConsist fun c => { c with members := mapDel c.members d, dist := c.dist.filter fun x => x.1 % 8 != d }
  let s := s.event 21 0x131 d 0 s.memberBits
  s.tellTopology ring reach 0xFF

/-- A roll call of another member taken (R463): heard, eligible since, warden absent since; its distances by drawbar. -/
def State.noteMember (s : State) (d : Nat) (body : List Byte) (dist : List (Nat × Nat)) : State :=
  let flags := byteAt body 7
  let old := mapGet s.consist.members d
  let ring := s.ringClosed
  let reach := s.reachable
  let absent := if tb flags 0 then none else some (((old.bind fun m => m.absentAt)).getD s.now)
  let m0 : Member := ⟨byteAt body 1, beAt body 2 4, byteAt body 6, flags, beAt body 8 2, byteAt body 10, s.now, absent, none⟩
  let since := if s.memberEligible m0 then some ((old.bind fun m => m.eligibleAt).getD s.now) else none
  let s := s.withConsist fun c => { c with
    members := mapSet c.members d { m0 with eligibleAt := since },
    dist := dist.foldl (fun m x => mapSet m (x.1 * 8 + d) x.2) c.dist }
  let s := if old.isNone then s.event 21 0x131 d 1 s.memberBits else s
  (s.tellTopology ring reach (if dist.length = 0 then 0xFF else (dist.headD (0xFF, 0)).1)).updateMaster

/-- The device's own number heard with another serial (R465): event 0x0133; the device with the higher serial leaves. -/
def State.numberConflict (s : State) (serial : Nat) : State :=
  let leave := decide (serial < s.ownSerial)
  let first := !s.consist.conflict
  let s := s.withConsist fun c => { c with conflict := true, left := c.left || leave, conflictAt := s.now }
  if first then s.event 21 0x133 s.ownDevice leave.toNat 0 else s

/-- A roll call arrives on a drawbar (R463, R465); it is passed on like a flood (R460, R462). `dist` is the sender's distance by the
drawbars that lead to it. -/
def State.rollCall (s : State) (body : List Byte) (dist : List (Nat × Nat)) : State :=
  let d := byteAt body 0 % 8
  if d = s.ownDevice then
    (if beAt body 2 4 = s.ownSerial then s else s.numberConflict (beAt body 2 4))
  else
    let high := beAt body 8 2
    let s := s.noteMember d body dist
    if s.term < high ∧ (mapGet s.consist.members d).isSome ∧ s.consist.master = some (byteAt body 6 % 8) ∧ tb (byteAt body 6) 3 then s.setTerm high
    else s

/-- A message passed on by the other drawbar with one hop less (R460, R468). -/
def State.passOn (s : State) (p mode src dst hops : Nat) (body : List Byte) : State :=
  if hops ≤ 1 then s
  else
    match s.otherDrawbar p with
    | none => s
    | some q =>
      let n := s.buf.nextId
      let s := s.sendMessage mode dst [(q, hops - 1)] body
      s.modFrame n fun f => { f with draw := f.draw.map fun d => { d with src := src } }

end Sys2Proof.Machine
end

