-- ==== Sys2Proof/Machine/Forward.lean ====
section
/-! DEFINITION. From release to the egress queues: the check of a secured frame (R268, R270), the route lookups (R97–R102), the
firewall's decision (R246–R250), meters, filters and sequence functions (R223–R227), destinations (R84, R99, R461), and the frames
that arrive on a drawbar (R458, R460). -/

namespace Sys2Proof.Machine

/-! ### Ends of a frame at ingress -/

/-- A frame refused at ingress, before a destination took it: counted against its ingress port (R231). A mirror copy keeps the frame. -/
def State.refuseIngress (s : State) (id reason : Nat) : State :=
  match s.frame? id with
  | none => s
  | some f =>
    let s := (s.refuse f f.ingress 0xFF reason).probeDrop id
    if f.refs = [] then s.eraseFrame id else s

/-- A frame discarded without a reason code. -/
def State.discardFrame (s : State) (id : Nat) : State :=
  match s.frame? id with
  | none => s
  | some f => if f.refs = [] then s.eraseFrame id else s

/-- The destinations of a frame decided (R84, R85): a single one is entered as unicast, several are replicated. A frame whose
mirror copy stands already is replicated with it. -/
def State.giveDests (s : State) (id : Nat) (ports : List Nat) : State :=
  match s.frame? id with
  | none => s
  | some f =>
    let new := ports.filter fun p => !f.refs.contains p
    match f.refs, new with
    | [], [] => s.eraseFrame id
    | [], [p] => (s.modFrame id fun f => { f with refs := [p] }).enterUnicast p id
    | _, _ =>
      let s := s.modFrame id fun f => { f with refs := f.refs ++ new, waiting := f.waiting ++ new }
      s.forEach new State.takeWaiting

/-! ### Routes (R97–R100, R461) -/

/-- What the lookups of a frame gave: its destinations, none for a frame without a route (reason 4); the drawbar header its copies
carry; the gateway handle + 1; the class override; the unknown-source bit; whether learning refuses it (reason 5). -/
structure Found where
  dests : List Nat
  draw : Option DrawInfo
  handle : Nat
  cls : Option Nat
  unknown : Bool
  excess : Bool
  deriving DecidableEq, Repr

/-- No route. -/
def Found.nothing : Found := ⟨[], none, 0, none, false, false⟩

/-- The destinations of a flood (R99, R460): the flood set of the domain less the ingress port. While the set holds a drawbar, each
drawbar takes a copy in mode 2 with its Hops; a device outside its consist sends none. -/
def State.flood (s : State) (f : Frame) : Found :=
  let set := (s.portSet (4032 + f.domain)).filter fun p => p != f.ingress
  let local_ := set.filter fun p => !s.drawbar p
  if local_.length = set.length then { Found.nothing with dests := set }
  else
    let plan := if s.inConsist then s.floodPlan.filter fun x => x.1 != f.ingress else []
    { Found.nothing with
      dests := local_ ++ plan.map Prod.fst,
      draw := some ⟨2, s.ownDevice, s.ownDevice, f.ingress, 0xFF, plan⟩ }

/-- The destinations a result names (R97, R461). The results of types 1 and 2 bring a gateway handle (R179). -/
def State.routeOf (s : State) (f : Frame) (r : Nat) : Found :=
  let kind := fld r 63 62
  let dev := fld r 53 51
  let base := { Found.nothing with handle := if f.kind = 0 then 0 else fld r 38 23 + 1, cls := if tb r 19 then some (fld r 22 20) else none }
  if kind = 0 ∨ (kind = 2 ∧ dev = s.ownDevice) then { base with dests := [resultPort r] }
  else if kind = 1 then { base with dests := s.portSet (fld r 50 39) }
  else if kind = 2 then
    match s.pathTo dev with
    | some (p, _) =>
      if s.inConsist then
        { base with dests := [p], draw := some ⟨1, s.ownDevice, dev, f.ingress, resultPort r, [(p, 0)]⟩ }
      else base
    | none => base
  else base

/-- Lookup 2 of an Ethernet frame (Table 4.4): learning where the port learns, else the stream identity by destination then
source. `target` is what a learned entry names. The handle goes into the frame. -/
def State.lookup2 (s : State) (id port target : Nat) : State × Learned :=
  match s.frame? id with
  | none => (s, ⟨false, false⟩)
  | some f =>
    let v := parseEth f.bytes
    if isEth port ∧ s.learnLimit port ≠ 0 then s.learnAsk port f.domain v.src v.vid target
    else
      let (r1, s) := s.lookup (mkKey 4 f.domain (macKey v.dst v.vid))
      let (r, s) := match r1 with
        | some r => (some r, s)
        | none => s.lookup (mkKey 4 f.domain (macKey v.src v.vid + 2 ^ 4))
      match r with
      | some r => (s.modFrame id fun f => { f with stream := some (entryResult r.val % 1024) }, ⟨false, false⟩)
      | none => (s, ⟨false, false⟩)

/-- The key of lookup 1 (Table 4.2). -/
def routeKey (f : Frame) : Nat :=
  if f.kind = 0 then
    let v := parseEth f.bytes
    mkKey 0 f.domain (macKey v.dst v.vid)
  else if f.kind = 3 then mkKey 2 f.domain (f.look * 2 ^ 57 + beAt f.bytes 0 4 * 2 ^ 25)
  else if f.kind = 2 then mkKey 1 f.domain (f.look * 2 ^ 57 + byteAt f.bytes 0 % 64 * 2 ^ 28)
  else
    let c := parseCan f.bytes
    mkKey 1 f.domain (f.look * 2 ^ 57 + c.id * 2 ^ 28 + c.ide.toNat * 2 ^ 27 + c.fdf.toNat * 2 ^ 26 + c.xlf.toNat * 2 ^ 25
      + (if c.xlf then c.vcid else 0) * 2 ^ 17)

/-- The lookups of a released frame (R100): a miss of lookup 1 floods it. -/
def State.lookups (s : State) (id : Nat) : State × Found :=
  match s.frame? id with
  | none => (s, .nothing)
  | some f =>
    let (r, s) := s.lookup (routeKey f)
    let (s, l) := if f.kind = 0 then s.lookup2 id f.look (f.look * 8) else (s, ⟨false, false⟩)
    let found := match r with
      | some r => s.routeOf f (entryResult r.val)
      | none => s.flood f
    (s.probeStep id 0x11, { found with unknown := l.unknown, excess := l.refuse })

/-! ### The firewall's decision (R246–R248) -/

/-- After the firewall (R232, R246): the rule's meter, the decision counted (`dec` 1 permit, 2 redirect, none where no firewall
looks), the stream filter, the sequence function, the lookup outcome; then the destinations. `action` is the deciding rule's, 0 for
none. -/
def State.police (s : State) (id action : Nat) (dec : Option Nat) (found : Found) : State :=
  match s.frame? id with
  | none => s
  | some f =>
    let metered := tb action 4
    let m := fld action 14 5
    let (col, s) := if metered then s.meter m f none else (0, s)
    if metered && col == 2 then s.refuseIngress id 2
    else
      let s := if metered then s.markYellow m id col else s
      let incoming := if metered then some col else none
      let s := match dec with
        | some d => (s.fwCount f.ingress (if d = 2 then 3 else 0)).probeStep id 0x12
        | none => s.probeStep id 0x12
      let (red, s) := match f.stream with
        | some h => s.streamFilter h id incoming
        | none => (false, s)
      if red then s.refuseIngress id 2
      else
        let (gone, s) := match f.stream with
          | some h => s.frerStep h id
          | none => (false, s)
        if gone then s.discardFrame id
        else if found.dests = [] then s.refuseIngress id 4
        else
          let s := s.modFrame id fun f => { f with handle := found.handle, draw := found.draw }
          s.giveDests id found.dests

/-- The route of a redirected frame: port 46 only; the route result is set aside. -/
def redirected (found : Found) : Found := { found with dests := [46], draw := none, handle := 0, cls := none }

/-- The class of a frame after its overrides: the rule's, else the route's. -/
def State.overrideClass (s : State) (id action : Nat) (found : Found) : State :=
  s.modFrame id fun f => { f with cls := if tb action 38 then fld action 41 39 else found.cls.getD f.cls }

/-- A frame is held for its authenticator (R248): an operation of a cipher cluster, or at once the failure. -/
def State.holdAuth (s : State) (id action : Nat) (found : Found) : State :=
  match s.frame? id with
  | none => s
  | some f =>
    let r := fld action 36 25
    let s := s.modFrame id fun f => { f with refs := f.refs ++ [heldMark] }
    let s := s.withFw fun w => { w with held := w.held ++ [⟨id, action, found.dests, found.draw, found.handle⟩] }
    let usable := f.kind == 3 || (f.kind == 1 && !(parseCan f.bytes).xlf)
    match (if usable && s.au r 0 1 == 1 && s.recEnabled (1024 + r) && !s.recFlag (1024 + r) 1 then s.authCandidate r f else none) with
    | none => ((s.recFail (1024 + r)).failEvent ((s.bestCluster).getD 0) 3 f.ingress r).refuseHeld id
    | some c => s.dispatchOp ⟨id, f.ingress, 4, 1024 + r, c, 0, 0, tb (s.au r 1 1) 1 || s.urgentClass f.cls, 0, 0⟩

/-- A held frame whose authenticator is good goes on with the meter (R248). -/
def State.passHeld (s : State) (id : Nat) : State :=
  match s.fw.held.find? fun h => h.frame == id with
  | none => s
  | some h =>
    let s := s.withFw fun f => { f with held := f.held.filter fun x => x.frame != id }
    let s := s.modFrame id fun f => { f with refs := f.refs.erase heldMark }
    s.police id h.action (some (fld h.action 2 0)) { Found.nothing with dests := h.dests, draw := h.draw, handle := h.handle }

/-- The deciding rule's action in the order of R246. -/
def State.applyRule (s : State) (h n id : Nat) (found : Found) : State :=
  match s.frame? id with
  | none => s
  | some f =>
    let a := recAction (s.ruleRec h n)
    let s := if tb a 3 then s.bumpWin 0x5809 0 (8 * n) 8 1 else s
    let s := if tb a 37 then s.intrusion f found.unknown n else s
    let dec := fld a 2 0
    let found := if dec = 2 then redirected found else found
    let s := s.overrideClass id a found
    let mirror := tb a 15
    let mp := fld a 23 16
    if dec = 0 then
      let s := s.fwCount f.ingress 1
      if mirror then
        let s := (s.modFrame id fun f => { f with refs := [mp] }).refuseIngress id 3
        (s.modFrame id fun f => { f with refs := [] }).giveDests id [mp]
      else s.refuseIngress id 3
    else if tb a 24 then
      let s := if mirror then s.modFrame id fun f => { f with refs := [mp], waiting := [mp] } else s
      let s := s.holdAuth id a found
      if mirror then s.takeWaiting mp else s
    else if mirror then
      let s := s.modFrame id fun f => { f with refs := [mp], waiting := [mp] }
      let s := s.police id a (some dec) found
      s.takeWaiting mp
    else s.police id a (some dec) found

/-- The firewall's lookup of a frame and what follows (R238, R246, R247, R254). While the half that must serve is not PRESENT the
frame is refused with reason 3. -/
def State.decide (s : State) (id : Nat) (found : Found) : State :=
  match s.frame? id with
  | none => s
  | some f =>
    if !fwLooksUp f then ((s.overrideClass id 0 found).probeStep id 0x12).police id 0 none found
    else
      let h := s.activeHalf
      if !s.present (19 + h) then s.refuseIngress id 3
      else
        let s := s.readRules h
        let s := if strangerBit f then s.fwCount f.ingress 4 else s
        let s := if found.unknown then s.fwCount f.ingress 5 else s
        match s.verdict h (s.fwKey h f found.unknown) f.ingress with
        | .rule n => s.applyRule h n id found
        | .bad _ => (s.fwCount f.ingress 7).refuseIngress id 3
        | .default d =>
          if d = 1 then (s.overrideClass id 0 found).police id 0 (some 1) found
          else if d = 2 then (s.overrideClass id 0 (redirected found)).police id 0 (some 2) (redirected found)
          else (s.fwCount f.ingress 2).refuseIngress id 3

/-! ### Release (R71, R82) -/

/-- A frame released to lookup as it is: the lookups, then the firewall. -/
def State.forward (s : State) (id : Nat) : State :=
  let (s, found) := s.lookups id
  if found.excess then s.refuseIngress id 5 else s.decide id found

/-- The latency probe captures the next frame that matches its port and identifier (Table 1.10). -/
def State.probeCapture (s : State) (id : Nat) : State :=
  match s.frame? id with
  | none => s
  | some f =>
    let c := parseCan f.bytes
    let w := s.rd 0xF010 3
    let same : Bool := f.ingress == s.rdF 0xF010 2 7 0 && !f.built
      && (f.kind == 0 || f.kind == 3 || (f.kind == 2 && byteAt f.bytes 0 % 64 == w % 2 ^ 29)
        || (f.kind == 1 && c.id == w % 2 ^ 29 && c.ide == tb w 29))
    if s.rdB 0xF010 1 0 && same then
      State.probeStep { (s.wr 0xF010 1 0).wr 0xF010 4 1 with probe := ⟨some id, s.now, false, none⟩ } id 0x10
    else s

/-- The checks at release (R79, R82): the frame is gone when the answer is true. -/
def State.releaseCheck (s : State) (id : Nat) : Bool × State :=
  match s.frame? id with
  | none => (true, s)
  | some f =>
    let s := s.probeCapture id
    if s.expired f then (true, s.refuseIngress id 1)
    else if f.poison.isSome then (true, s.discardPoisoned id)
    else (false, s)

/-- A frame with SEC 1 of a channel with CANsec receive enabled (R270). -/
def State.cansecFrame (s : State) (f : Frame) : Bool :=
  f.kind == 1 && isC f.ingress && tb (s.cansec f.ingress) 0 && (parseCan f.bytes).sec && !f.secured

/-- The enabled CANsec receive SA of a channel for a secure-channel identifier. -/
def State.cansecRxSa (s : State) (p sc : Nat) : Option Nat :=
  (s.listedRecs 0x8111 0 64 0).find? fun r =>
    s.sa r 0 1 == 4 && s.sa r 1 1 == p && s.recEnabled r && !s.recFlag r 1 && beVal (s.winBytes 0x8111 0 (64 * r + 30) 2) == sc

/-- A secured frame is checked before its release (R268 steps 1–5, R270): the answer is true where the frame goes on at once. -/
def State.secureStep (s : State) (id : Nat) : Bool × State :=
  match s.frame? id with
  | none => (false, s)
  | some f =>
    if f.secured then (true, s)
    else if isEth f.ingress ∧ f.kind = 0 ∧ s.macsecRx f.ingress then
      match s.secReceive f.ingress f.bytes with
      | .pass => (true, s)
      | .passCounted => (true, s.secCount f.ingress 0)
      | .drop k => (false, (s.secCount f.ingress k).eraseFrame id)
      | .verify r pn => (false, s.dispatchOp ⟨id, f.ingress, 1, r, pn, 0, 0, s.urgentClass f.cls, 0, 0⟩)
    else if s.cansecFrame f then
      let (sc, fresh) := Config.cansecHeader (f.bytes.drop 16)
      match s.cansecRxSa f.ingress sc with
      | none => (false, s.eraseFrame id)
      | some r =>
        if fresh < s.saStat r 0 8 then (false, (s.recFail r).eraseFrame id)
        else (false, s.dispatchOp ⟨id, f.ingress, 3, r, fresh, 0, 0, s.urgentClass f.cls, 0, 0⟩)
    else (true, s)

/-- A frame of an ordinary port or channel is released (R71): checked, and forwarded. -/
def State.releaseFrame (s : State) (id : Nat) : State :=
  let (gone, s) := s.releaseCheck id
  if gone then s
  else
    let (go, s) := s.secureStep id
    if go then s.forward id else s

/-! ### Frames from a drawbar (R456–R461) -/

/-- The fields of a drawbar frame (Table 19.1). -/
structure DrawView where
  mode : Nat
  cls : Nat
  src : Nat
  dst : Nat
  ingress : Nat
  dstPort : Nat
  domain : Nat
  kind : Nat
  hops : Nat
  stamp : Nat
  age : Nat
  sender : Nat
  part : List Byte
  bad : Bool
  deriving DecidableEq, Repr

/-- A drawbar frame without its FCS read. It is bad where EtherType, version, mode, fixed zeros or length do not fit. -/
def drawView (bs : List Byte) : DrawView :=
  let m := byteAt bs 15
  let d := byteAt bs 16
  let n := beAt bs 22 2
  { mode := m % 8, cls := m / 8 % 8, src := d % 8, dst := d / 16 % 8, ingress := byteAt bs 17, dstPort := byteAt bs 18,
    domain := byteAt bs 19 % 64, kind := byteAt bs 19 / 64, hops := byteAt bs 20, stamp := beAt bs 24 4, age := beAt bs 28 4,
    sender := byteAt bs 11 % 8, part := (bs.drop 32).take n,
    bad := decide (bs.length < 32 + n) || beAt bs 12 2 != 0x88B6 || byteAt bs 14 != 1 || decide (6 ≤ m % 8) }

/-- A frame of a drawbar that is no drawbar frame, or cannot be handled: discarded and counted (R456). -/
def State.drawDiscard (s : State) (id : Nat) : State := (s.bump 0xA002 3 1).eraseFrame id

/-- The carried frame takes the place of the drawbar frame (R458): its stored form, age, stamp, class, domain and kind. -/
def State.unwrap (s : State) (id : Nat) (v : DrawView) : State :=
  s.modFrame id fun f => { f with
    bytes := if v.kind = 0 then withFcs v.part else v.part, kind := v.kind, cls := v.cls, domain := v.domain, stamp := v.stamp,
    age := s.nsNow - v.age * 1000, secured := true,
    metaWord := some (0xFF + (if v.kind = 0 ∧ (parseEth v.part).tagged then 256 else 0)) }

/-- Mode 0: released as if received on the drawbar. -/
def State.drawLookup (s : State) (id : Nat) (v : DrawView) : State := (s.unwrap id v).releaseFrame id

/-- What lookup 2 of a frame in mode 1 or 2 learns: kind 0b10, the source device and its ingress port (R461). -/
def consistTarget (v : DrawView) : Nat := 2 * 2 ^ 11 + v.ingress * 8 + v.src

/-- Lookup 2 of a frame in mode 1 or 2, and the firewall with the destinations given. -/
def State.drawForward (s : State) (p id : Nat) (v : DrawView) (found : Found) : State :=
  let (gone, s) := s.releaseCheck id
  if gone then s
  else
    let (s, l) := if v.kind = 0 then s.lookup2 id p (consistTarget v) else (s, ⟨false, false⟩)
    if l.refuse then s.refuseIngress id 5 else s.decide id { found with unknown := l.unknown }

/-- Mode 1: to the destination port where the device is the destination, else on by the path table. -/
def State.drawUnicast (s : State) (p id : Nat) (v : DrawView) : State :=
  if !s.consistOn then s.drawDiscard id
  else
    let s := s.unwrap id v
    let found :=
      if v.dst = s.ownDevice then
        (if v.dstPort ≤ 44 ∨ (64 ≤ v.dstPort ∧ v.dstPort ≤ 159) then { Found.nothing with dests := [v.dstPort] } else .nothing)
      else
        match s.pathTo v.dst with
        | some (q, _) =>
          if s.inConsist then { Found.nothing with dests := [q], draw := some ⟨1, v.src, v.dst, v.ingress, v.dstPort, [(q, 0)]⟩ } else .nothing
        | none => .nothing
    s.drawForward p id v found

/-- Mode 2: to the flood set of the domain less the drawbars, and on by the other drawbar while Hops remain (R460). -/
def State.drawFlood (s : State) (p id : Nat) (v : DrawView) : State :=
  if !s.consistOn then s.drawDiscard id
  else
    let s := s.unwrap id v
    let local_ := (s.portSet (4032 + v.domain)).filter fun q => !s.drawbar q
    let next := match s.otherDrawbar p with
      | some q => if 2 ≤ v.hops ∧ s.inConsist then [(q, v.hops - 1)] else []
      | none => []
    s.drawForward p id v { Found.nothing with
      dests := local_ ++ next.map Prod.fst, draw := some ⟨2, v.src, v.dst, v.ingress, 0xFF, next⟩ }

end Sys2Proof.Machine
end

