-- ==== Sys2Proof/Machine/Alarm.lean ====
section
/-! DEFINITION. The security alarm (R304–R308): sensors and their grades, the alarm log, MELT, the frozen state. -/

namespace Sys2Proof.Machine

/-- The device is frozen (0x8030:03). -/
def State.frozen (s : State) : Bool := s.rdB 0x8030 3 0

/-- A port is an enabled service port (0x8030:05). -/
def State.servicePort (s : State) (p : Nat) : Bool :=
  (s.rdB 0x8030 5 16 && s.rdF 0x8030 5 7 0 == p) || (s.rdB 0x8030 5 17 && s.rdF 0x8030 5 15 8 == p)

/-- The grade of a sensor: 0 TARNISH, 1 QUENCH, 2 MELT. -/
def State.grade (s : State) (k : Nat) : Nat := s.rdF 0x8030 1 (2 * k + 1) (2 * k)

/-- A record in the alarm log 0x8031. -/
def State.logAlarm (s : State) (sensor grade what : Nat) : State :=
  let t := s.clockNow
  let r := leBytes 4 t.2 ++ leBytes 6 t.1 ++ leBytes 1 sensor ++ leBytes 1 grade ++ leBytes 2 what ++ leBytes 1 s.life ++ fill 17 0
  (s.setWin 0x8031 0 (s.key.logCount % 256 * 32) r).withKey fun k => { k with logCount := k.logCount + 1 }

/-- What follows a revocation in the clusters: the operations of revoked records end, verifications with a refusal (R263). -/
def State.endRevoked (s : State) : State :=
  s.forEach s.revokedOps fun s o =>
    let s := s.abortOp o
    if o.kind = 4 then s.refuseHeld o.frame else s

/-- A list of handles revoked in the clusters (R263). -/
def State.revokeAll (s : State) (hs : List Nat) : State := (s.forEach hs State.revokeRecords).endRevoked

/-- The handles that records of the clusters name. -/
def State.usedHandles (s : State) : List Nat := (s.enabledRecs.map fun id => (s.recKey id).1).eraseDups

/-- A channel taken off its bus: TXD recessive, its offered frame withdrawn, its running schedule ended. -/
def State.silence (s : State) (c : Nat) : State :=
  s.modCh c fun d => { d with offer := none, busy := false, runs := false, running := false, await_ := none }

/-- The frozen state takes effect (R308): channels recessive, ports dark but for the service ports, the commissioning set in both
halves, the gateway disabled, the frame rings stopped. -/
def State.freeze (s : State) : State :=
  let s := s.wr 0x8030 3 1
  let s := s.forEach (s.chan.map Prod.fst) State.silence
  let s := s.forEach (List.range 44) fun s p =>
    if s.servicePort p || !s.rdB (ethObj p 1) 2 0 then s else s.dropLink p (s.modeNow p)
  let s := (s.clearHalf 0).clearHalf 1
  (s.wrB 0x5600 1 0 false).clearRings

/-- MELT (R306): MELT-pending and the alarm-log record, every handle revoked, the frozen state, every key pair and freshness pair
empty, session keys erased, MELT-done. -/
def State.melt (s : State) : State :=
  let s := s.revokeAll s.usedHandles
  let s := s.freeze
  let n := s.key.pairs.length + s.key.mram.length
  let s := s.withKey fun k => { k with
    pairs := k.pairs.map fun p => (p.1, ⟨{ KeySlot.empty with gen := p.2.cur.gen + 1 }, none⟩),
    mram := [], sess := [], meltDone := k.meltDone + 1 }
  s.countCommit (n + 1) 0

/-- A sensor trips (R304, R305): the trip counted by grade, event 0x00C0, and the grade's act: QUENCH on the carriages or the
session, MELT. `what` is the data of the event. -/
def State.tripWith (s : State) (sensor what : Nat) (cars : List Nat) (sess : Option Nat) : State :=
  let g := s.grade sensor
  let s := s.bump 0x8030 (6 + g) 1
  let s := s.withTime fun t => { t with live := { t.live with
    trips := mapPut 0 t.live.trips sensor (mapGetD t.live.trips sensor 0 + 1),
    grades := mapPut 0 t.live.grades g (mapGetD t.live.grades g 0 + 1) } }
  let s := s.event 45 0xC0 sensor g what
  if g = 0 then s
  else
    let s := s.logAlarm sensor g what
    if g = 1 then
      let s := s.forEach cars fun s n => s.restart n 6 (s.drainLimit n)
      match sess with
      | some x => s.quenchSession x
      | none => s
    else s.melt

/-- A physical sensor trips (Table 11.12): 0, 2, 7 and 8 act on the key store, 1 on the carriages of the clock named, 3 and 4 on
none. -/
def State.trip (s : State) (sensor : Nat) (cars : List Nat) : State :=
  if sensor = 1 then s.tripWith 1 (cars.headD 0xFFFF) cars none
  else if sensor = 3 ∨ sensor = 4 then s.tripWith sensor 0xFFFF [] none
  else s.tripWith sensor 46 [46] none

/-- One failure of a session counted in a sliding window of 1,000 ms (R304): the window afterwards, and whether the threshold is
reached, when the session's count restarts. -/
def slide (now thr sess : Nat) (l : List (Nat × Nat)) : List (Nat × Nat) × Bool :=
  let l := (l ++ [(sess, now)]).filter fun x => now < x.2 + 1000000000
  if thr ≤ (l.filter fun x => x.1 == sess).length then (l.filter fun x => x.1 != sess, true) else (l, false)

/-- An authentication failure of a session (sensor 5). -/
def State.authFailure (s : State) (sess : Nat) : State :=
  let (l, hit) := slide s.now (s.rdF 0x8030 2 7 0) sess s.key.authFails
  let s := s.withKey fun k => { k with authFails := l }
  if hit then s.tripWith 5 sess [] (some sess) else s

/-- An access violation of a session (sensor 6). -/
def State.violation (s : State) (sess : Nat) : State :=
  let (l, hit) := slide s.now (s.rdF 0x8030 2 15 8) sess s.key.violations
  let s := s.withKey fun k => { k with violations := l }
  if hit then s.tripWith 6 sess [] (some sess) else s

end Sys2Proof.Machine
end

