-- ==== Sys2Proof/Machine/Views.lean ====
section
/-! DEFINITION. What a read of the dictionary finds (R10, R424, R425): the objects that show a count or a state of a unit now, and all
others as they stand in `regs` and `wins`. Reads of session-local objects are in Dict.lean. -/

namespace Sys2Proof.Machine

/-- Bits of a list of Booleans, the first as bit 0. -/
def bitsOf : List Bool → Nat
  | [] => 0
  | b :: bs => b.toNat + 2 * bitsOf bs

/-- The index with the stride taken out: layout and instance number (R453). -/
def layInst (idx : Nat) : Nat × Nat := (layoutOf idx).getD (0, 0)

/-- Valid entries of the route store in one bank. -/
def State.bankCount (s : State) (b : Nat) : Nat := (s.validSlots.filter fun k => slotBank k.1 == b).length

/-- Valid entries of one type. -/
def State.typeCount (s : State) (t : Nat) : Nat := (s.validSlots.filter fun k => entryType k.2.val == t).length

/-- Gateway engines that are PRESENT (0x5600:02). -/
def State.enginesUp (s : State) : Nat := bitsOf ((List.range 4).map fun e => s.present (28 + e))

/-- Cipher clusters that are PRESENT (0x8100:02). -/
def State.clustersUp (s : State) : Nat := bitsOf ((List.range 5).map fun k => s.present (23 + k))

/-- Offsets 0x00–0x08 of an Ethernet port block. -/
def State.viewPort (s : State) (off p sub v : Nat) : Nat :=
  if off = 0 ∧ sub = 2 then s.learnedCount p
  else if off = 8 ∧ sub = 2 then s.effThreshold p + 256 * (s.forced p).toNat + 512 * ((s.pdyn p).adapted != 0).toNat
  else if off = 4 ∧ sub = 3 ∧ (!s.linkUp p || s.rdF (ethObj p 1) 1 3 0 != 1) then 0
  else v

/-- Per-port traffic objects that show a state. -/
def State.viewTm (s : State) (off p sub v : Nat) : Nat :=
  if off = 0 ∧ sub = 5 then (s.macsecTx p).toNat + 2 * (s.drawbar p).toNat
  else if off = 2 ∧ 9 ≤ sub then s.creditShown p (sub - 9)
  else v

/-- A scalar of the control complex and the clocks. -/
def State.viewControl (s : State) (idx sub v : Nat) : Nat :=
  if idx = 0x1F00 ∧ sub = 4 then s.fwVersion 0
  else if idx = 0x1F00 ∧ sub = 5 then s.fwVersion 1
  else if idx = 0x1F00 ∧ sub = 6 then s.ctl.floor % 64 + 64 * (s.ctl.starts % 4)
  else if idx = 0x2030 ∧ 1 ≤ sub ∧ sub ≤ 3 then setFld v 15 8 (min 255 (s.recentMismatches (42 + sub)))
  else if idx = 0x2030 ∧ sub = 4 then 256 * min 255 (s.recentMismatches 128)
  else if idx = 0x2060 ∧ sub = 1 then s.freeCells
  else if idx = 0x2060 ∧ sub = 2 then s.cellsInService
  else if idx = 0x2060 ∧ sub = 3 then s.buf.leastFree
  else if idx = 0x2070 ∧ sub = 5 then s.localWake.toNat + 2 * s.wake.seqAt.isSome.toNat
  else v

/-- A scalar of the data plane, time and security. -/
def State.viewData (s : State) (idx sub v : Nat) : Nat :=
  if idx = 0x5000 ∧ sub = 1 then s.occupancy
  else if idx = 0x5000 ∧ sub = 2 then s.slotsInService
  else if idx = 0x5000 ∧ 7 ≤ sub then s.typeCount (sub - 7)
  else if idx = 0x5001 then s.bankCount (sub - 1)
  else if idx = 0x5600 ∧ sub = 2 then s.enginesUp
  else if idx = 0x5600 ∧ sub = 0x12 then s.imageBytes
  else if idx = 0x5800 ∧ sub = 5 then s.rulesValid
  else if idx = 0x7010 ∧ sub = 4 then unsigned 64 (s.time.slew / 2 ^ 32)
  else if idx = 0x7010 ∧ sub = 5 then unsigned 32 s.rateInForce
  else if idx = 0x7300 ∧ sub = 1 then s.calNow / 32768 % 2 ^ 32
  else if idx = 0x7300 ∧ sub = 2 then
    s.calNow / 32768 / 2 ^ 32 % 2 ^ 16 + s.calNow % 32768 * 2 ^ 16 + s.calValid.toNat * 2 ^ 31
  else if idx = 0x8000 ∧ sub = 1 then s.life + 8 * (debugOpen s.life).toNat
  else if idx = 0x8040 ∧ sub = 4 then setFld v 9 0 s.pairsInUse
  else if idx = 0x8100 ∧ sub = 2 then s.clustersUp
  else if idx = 0x8100 ∧ sub = 3 then ((List.range 5).map s.activeEngines).sum
  else if idx = 0xA002 ∧ sub = 1 then s.consistStatus
  else v

/-- The value a scalar object reads. -/
def State.view (s : State) (idx sub : Nat) : Nat :=
  let v := s.rd idx sub
  if sub = 0 then v
  else if idx = 0x1018 ∧ sub = 4 then Config.serial
  else if idx = 0x1110 ∧ sub = 6 then s.sess.dal.length
  else if idx = 0x1120 ∧ sub = 3 then s.locksHeld
  else if 0x2100 ≤ idx ∧ idx < 0x2200 ∧ sub = 1 then (if s.present (idx - 0x2100) then v else 0)
  else if idx < 0x3000 then s.viewControl idx sub v
  else if idx < 0x4000 then s.viewPort ((idx - 0x3000) % 0x40) ((idx - 0x3000) / 0x40) sub v
  else if 0x6000 ≤ idx ∧ idx < 0x6A00 then s.viewTm (idx % 0x10) ((idx - 0x6000) / 0x10) sub v
  else s.viewData idx sub v

/-! ### Table windows -/

/-- Record d of the path table 0xA010. -/
def State.pathRecord (s : State) (d : Nat) : List Byte :=
  match s.pathTo d with
  | some (p, h) => leBytes 1 p ++ leBytes 1 h ++ leBytes 1 1 ++ leBytes 1 0
  | none => leBytes 1 0xFF ++ fill 3 0

/-- Record d of the member table 0xA011; the device's own record shows what its roll call says. -/
def State.memberRecord (s : State) (d : Nat) : List Byte :=
  if d = s.ownDevice then
    leBytes 1 (1 + 2 * s.wardenPresent.toNat + 4 * s.ownEligible.toNat + 8 * s.consist.conflict.toNat)
      ++ leBytes 1 (s.rdF 0xA000 1 15 8) ++ leBytes 2 0 ++ leBytes 4 s.ownSerial ++ leBytes 2 s.term
      ++ leBytes 1 ((s.consist.master.map (· + 8)).getD 0) ++ fill 5 0
  else
    match mapGet s.consist.members d with
    | some m =>
      leBytes 1 (1 + 2 * (tb m.flags 0).toNat + 4 * (s.memberEligible m).toNat + 8 * (tb m.flags 3).toNat) ++ leBytes 1 m.priority
        ++ leBytes 2 (min 65535 ((s.now - m.at_) / 1000000)) ++ leBytes 4 m.serial ++ leBytes 2 m.term ++ leBytes 1 m.master ++ fill 5 0
    | none => fill 16 0

/-- Record d of the domain status 0x2082: the ms since the last keep-alive are counted from it. -/
def State.domainRecord (s : State) (d : Nat) : List Byte :=
  let r := s.winBytes 0x2082 0 (8 * d) 8
  if s.nmOn d then overlay r 2 (leBytes 2 (min 65535 ((s.now - (s.dom d).alive) / 1000000))) else r

/-- The records of a computed window, by record number; none where the window's bytes stand in `wins`. -/
def State.windowRecord (s : State) (idx sub : Nat) : Option (Nat → List Byte) :=
  if idx = 0x1110 then some fun k => s.dalRecord (k + 1)
  else if idx = 0x1F01 then some fun k => s.flashBytes s.inactiveSlot (16 * k) 16
  else if idx = 0x2082 then some s.domainRecord
  else if idx = 0x7400 then some fun _ => lifeBytes s.time.live (s.rd 0x7300 3)
  else if idx = 0x8011 then some fun k => s.keyRecord k (s.heldInClusters (tableHandle k))
  else if idx = 0x8022 ∧ s.life = 5 then some fun _ => []
  else if idx = 0xA010 then some s.pathRecord
  else if idx = 0xA011 then some s.memberRecord
  else if 0x6000 ≤ idx ∧ idx < 0x6A00 ∧ idx % 0x10 = 1 ∧ sub = 2 then
    let p := (idx - 0x6000) / 0x10
    some fun k => leBytes 4 (if k ∈ s.queuesOf p then s.depth p k else 0)
  else if 0x6000 ≤ idx ∧ idx < 0x6A00 ∧ idx % 0x10 = 8 then
    let p := (idx - 0x6000) / 0x10
    some fun k => if k ∈ s.queuesOf p then s.winBytes idx 0 (96 * k) 96 else fill 96 0
  else none

/-- The stored window that a window of the firewall shows (R251): the shadow half under 0x5810–0x5812, the active half under
0x5814–0x5816; any other window shows itself. -/
def State.shownWindow (s : State) (idx : Nat) : Nat :=
  if 0x5810 ≤ idx ∧ idx ≤ 0x5812 then fwWindow s.shadowHalf idx
  else if 0x5814 ≤ idx ∧ idx ≤ 0x5816 then fwWindow s.activeHalf idx
  else idx

/-- `n` bytes of a table window from an offset; `rsz` is its record size. -/
def State.viewBytes (s : State) (idx sub rsz off n : Nat) : List Byte :=
  match s.windowRecord idx sub with
  | some f =>
    let first := off / rsz
    let recs := (List.range ((off + n + rsz - 1) / rsz - first)).flatMap fun k => sliceZ (f (first + k)) 0 rsz
    sliceZ recs (off - first * rsz) n
  | none => s.winBytes (s.shownWindow idx) sub off n

end Sys2Proof.Machine
end

