-- ==== Sys2Proof/Machine/Rules.lean ====
section
/-! DEFINITION. The checks on a dictionary write (R7, R12, R424, R425, R433, R446) after existence, access, role and length: those of
the value alone, those that bind it to other values, and those of the present state. Each answers an abort code of Table 17.9, 0
where the write is accepted. A rule on one field alone answers 0x0300_0001 (range) or 0x0300_0002 (reserved), a rule that binds
two values 0x0300_0004. -/

namespace Sys2Proof.Machine

/-! ### Abort codes (Table 17.9) -/

/-- Index does not exist. -/
def abNoIndex : Nat := 0x01000001
/-- Subindex does not exist. -/
def abNoSub : Nat := 0x01000002
/-- Beyond a table window. -/
def abWindow : Nat := 0x01000003
/-- Write of an ro field. -/
def abReadOnly : Nat := 0x02000001
/-- Read of a wo field. -/
def abWriteOnly : Nat := 0x02000002
/-- The role has no right. -/
def abRole : Nat := 0x02000003
/-- Value out of range. -/
def abRange : Nat := 0x03000001
/-- Reserved bit or value. -/
def abReserved : Nat := 0x03000002
/-- Length does not match. -/
def abLength : Nat := 0x03000003
/-- Conflict with another value. -/
def abConflict : Nat := 0x03000004
/-- Not in the present state. -/
def abState : Nat := 0x04000001
/-- Busy. -/
def abBusy : Nat := 0x05000001
/-- Locked by another session. -/
def abLocked : Nat := 0x05000002

/-- The first abort of a list. -/
def firstAbort : List Nat → Nat
  | [] => 0
  | a :: r => if a = 0 then firstAbort r else a

/-- An abort code under a condition. -/
def abIf (c : Bool) (a : Nat) : Nat := if c then a else 0

/-- The little-endian field of `n` bytes of a record. -/
def recU (r : List Byte) (off n : Nat) : Nat := leVal (sliceZ r off n)

/-- A record sets a bit outside a mask of its bytes (bytes beyond the mask are reserved). -/
def recReserved (mask : List Nat) (r : List Byte) : Bool :=
  (List.range r.length).any fun i => Nat.land (byteAt r i) (255 - mask.getD i 0) != 0

/-- `n` mask bytes. -/
def rep (n m : Nat) : List Nat := List.replicate n m

/-! ### Scalars: the value alone -/

/-- The range rows of a layout's subindex. -/
def rangeAbort (lay sub v : Nat) : Nat :=
  firstAbort ((rangeRows.filter fun r => r.lay == lay && (r.lo ≤ sub && sub ≤ r.hi)).map fun r =>
    abIf (fld v r.bh r.bl < r.mn || r.mx < fld v r.bh r.bl) (if r.enc then abReserved else abRange))

/-- The port mode of an Ethernet port (R121, Table 5.2): reserved modes and fields, and fields that need another mode, all refused
whole under R12. -/
def portModeAbort (p v : Nat) : Nat :=
  let m := fld v 3 0
  let fec := fld v 5 4
  if p ≤ 11 then
    if 4 < m ∨ fec = 3 ∨ tb v 6 then abReserved
    else if (fec = 1 ∧ m ≠ 1 ∧ m ≠ 2) ∨ (fec = 2 ∧ m ≠ 1) ∨ (tb v 7 ∧ m ≠ 1 ∧ m ≠ 2) then abReserved else 0
  else if p ≤ 27 then
    if 3 < m ∨ fec ≠ 0 ∨ tb v 7 ∨ (tb v 6 ∧ m ≠ 1) then abReserved else 0
  else if 2 < m ∨ 16 ≤ v then abReserved else 0

/-- A timing word of a phase (R151, R152). -/
def phaseAbort (w lo hi : Nat) : Nat :=
  if fld w 23 16 < fld w 31 24 then abConflict else if timingOk w lo hi then 0 else abRange

/-- Two handles of 0x1110:03 (Table 17.10). -/
def roleKeyAbort (v : Nat) : Nat :=
  let ok := fun h => h == 0 || (configured? h).isSome
  if ok (fld v 15 0) && ok (fld v 31 16) then 0 else abRange

/-- The carriages that take a swap threshold (0x2200 + n:08). -/
def swapCarriage (n : Nat) : Bool := (2 ≤ n && n ≤ 10) || (23 ≤ n && n ≤ 27) || (32 ≤ n && n ≤ 37)

/-- The rules on one value that the range rows do not hold. -/
def specialAbort (lay n sub v : Nat) : Nat :=
  if lay = 0x3001 ∧ sub = 1 then portModeAbort n v
  else if lay = 0x3002 ∧ sub = 1 then abIf (v < 1518 || 9216 < v) abRange
  else if lay = 0x3003 ∧ sub = 1 then (if 28 ≤ n ∧ v ≠ 0 then abReserved else abIf (tb v 0 && tb v 1) abConflict)
  else if lay = 0x3004 ∧ sub = 1 then
    abIf (fld v 13 8 ≤ fld v 4 0 || (tb v 5 && fld v 4 0 != 0)) abConflict
  else if lay = 0x4000 ∧ sub = 1 then
    (if 3 < fld v 2 0 then abRange else abIf (fld v 2 0 != 3 && (tb v 6 || tb v 7)) abConflict)
  else if lay = 0x14000 ∧ sub = 1 then abIf (fld v 2 0 != 0 && fld v 2 0 != 4 && fld v 2 0 != 5) abRange
  else if lay = 0x4001 ∧ sub = 1 then
    (if phaseAbort v 160 16000 ≠ 0 then phaseAbort v 160 16000 else abIf (!nominalOk v) abConflict)
  else if lay = 0x4002 ∧ sub = 1 then phaseAbort v 20 16000
  else if lay = 0x4002 ∧ sub = 3 then phaseAbort v 8 16000
  else if (lay = 0x4005 ∨ lay = 0x14005) ∧ sub = 4 then abIf (64 ≤ v && v != 0x7F) abRange
  else if lay = 0x2200 ∧ sub = 8 then abIf (!swapCarriage n && v != 0) abReserved
  else if lay = 0x6000 ∧ sub = 1 then abIf (11 < n && tb v 0) abReserved
  else if lay = 0x6000 ∧ sub = 2 then
    abIf ((27 < n && v != 0) || (List.range 8).any fun c => fld v (2 * c + 1) (2 * c) == 3) abReserved
  else if lay = 0x6004 ∧ 0xA ≤ sub then abIf (v != 0 && v < 64) abRange
  else if lay = 0x2064 ∧ sub = 1 then
    (if !portOk (fld v 7 0) then abReserved else abIf (tb v 8 && fld v 7 0 != 44 && fld v 7 0 != 46) abConflict)
  else if lay = 0xF010 ∧ sub = 2 then abIf (!portOk v) abReserved
  else if lay = 0x9000 ∧ sub = 2 then abIf (0x7FFF < v) abReserved
  else if lay = 0x1110 ∧ sub = 3 then roleKeyAbort v
  else if lay = 0x8030 ∧ sub = 1 then abIf (fld v 7 6 != 2 || fld v 9 8 != 2) abRange
  else if lay = 0x6A30 ∧ sub = 4 then abIf (v == 0 || 256 < v) abRange
  else 0

/-- Range and reserved bits of a scalar. -/
def scalarAlone (row : ObjRow) (idx sub v : Nat) : Nat :=
  let (lay, n) := layInst idx
  if Nat.land v (2 ^ 64 - 1 - row.mask) ≠ 0 then abReserved
  else firstAbort [rangeAbort lay sub v, specialAbort lay n sub v]

/-! ### Records: the record alone -/

/-- Records of the clocks, regulators and the wake island (Tables 13.6, 13.7, 14.8). -/
def powerRecord (lay k : Nat) (r : List Byte) : Nat :=
  let b := byteAt r
  if lay = 0x2003 then
    if 8 ≤ b 0 then abReserved
    else abIf ((k == 0 && b 0 != 7) || (k == 1 && (!tb (b 0) 0 || tb (b 0) 2)) || (k == 2 && !tb (b 0) 0)
      || (k == 6 && !tb (b 0) 1) || (3 ≤ k && tb (b 0) 2)) abConflict
  else if lay = 0x2006 then
    if recReserved ([0x0F, 0xFF, 0x7F, 0x07] ++ rep 5 0xFF ++ rep 3 0 ++ rep 2 0xFF) r then abReserved
    else if (7 < b 1 ∧ b 1 ≠ 0xFF) ∨ 1 < b 8 ∨ 1000 < recU r 6 2 ∨ (tb (b 0) 0 ∧ recU r 6 2 = 0) then abRange
    else abIf (5 ≤ k && tb (b 0) 0 && b 3 < 4) abConflict
  else if lay = 0x2071 then
    if recReserved ([3, if k < 72 then 0x3F else 0x15, 0xFF, 3] ++ [0xFF, 0xFF, 0xFF, 0x1F] ++ [0xFF, 0xFF, 0xFF, 0x1F]
        ++ [0x0F, 0, 0, 0] ++ rep 8 0xFF) r ∨ (72 ≤ k ∧ b 0 = 2) then abReserved
    else abIf (b 0 == 3 || 5 < b 2) abRange
  else if lay = 0x2072 then (if recReserved [1, 0xFF] r then abReserved else abIf (b 1 == 0) abRange)
  else if lay = 0x2073 then
    if recReserved ([7, 0, 0xFF, 0xFF] ++ rep 8 0xFF) r then abReserved
    else abIf (recU r 2 2 == 0 || 1000 < recU r 2 2) abRange
  else if lay = 0x2080 then
    if recReserved ([7, 0] ++ rep 18 0xFF) r then abReserved
    else if recU r 2 2 < 100 ∨ recU r 4 2 < 10 ∨ 10000 < recU r 6 2 then abRange
    else abIf (recU r 2 2 ≤ recU r 4 2) abConflict
  else if lay = 0x2081 then
    if recReserved (rep 90 0xFF) r then abReserved
    else abIf (8 < beAt r 6 2 || (recU r 88 2 != 0 && (recU r 88 2 < 60 || 64 < recU r 88 2))) abRange
  else if lay = 0x2090 then abIf (recReserved ([0x0F] ++ rep 7 0 ++ rep 8 0xFF) r) abReserved
  else 0

/-- Translation windows and frame rings (Table 16.4, R410, R417). A ring's ranges bind an enabled record. -/
def hostRecord (lay k : Nat) (r : List Byte) : Nat :=
  let b := byteAt r
  if lay = 0x20A1 then
    if recReserved [0xFF, 3, 0xFF, 0xFF, 0xFF] r then abReserved
    else if 2 < b 0 then abRange
    else if b 0 = 2 ∧ tb (b 1) 1 then abConflict
    else if b 0 = 1 then
      (match objRow (recU r 2 2) (b 4) with
       | some o => abIf (o.size != 0) abConflict
       | none => abConflict)
    else 0
  else
    let host := if k < 8 then rep 2 0 ++ rep 8 0xFF else rep 2 0xFF ++ rep 8 0
    if recReserved (rep 10 0xFF ++ [3, 0xFF, 0xFF, 0xFF] ++ host) r then abReserved
    else if !tb (b 10) 0 then 0
    else
      let n := recU r 8 2
      let badSize := !([64, 128, 256, 512, 1024, 2048, 4096].contains n)
      let badBuf := 8 ≤ k && (recU r 14 2 < 256 || 16384 < recU r 14 2)
      abIf (recU r 0 8 % 4096 != 0 || badSize || b 11 == 0 || 1000 < recU r 12 2 || badBuf || recU r 16 8 % 4 != 0) abRange

/-- Channel windows (Tables 6.6–6.12, R167). A LIN slot of all zeros is unused. -/
def channelRecord (lay sub k : Nat) (r : List Byte) : Nat :=
  let b := byteAt r
  if lay = 0x4005 ∧ sub = 1 then abIf (recReserved (rep 12 0xFF ++ [1]) r) abReserved
  else if lay = 0x4008 ∧ sub = 3 then (if b 3 ≠ 0 then abReserved else abIf (k == 0 && recU r 0 3 != 0) abConflict)
  else if lay = 0x4008 ∧ sub = 4 then
    if 128 ≤ b 0 ∨ b 0 % 4 = 3 then abReserved
    else abIf ((b 0 % 4 != 1 && 4 ≤ b 0) || (k % 64 == 0 && b 0 != 0)) abConflict
  else if lay = 0x14011 then
    if recReserved [7, 0xFF] r then abReserved
    else if b 0 % 4 = 3 ∨ 8 < b 1 ∨ (b 0 % 4 ≠ 0 ∧ b 1 = 0) then abRange
    else abIf ((k == 0x3C || k == 0x3D) && b 0 % 4 != 0 && !tb (b 0) 2) abConflict
  else if lay = 0x14012 ∧ sub = 1 then
    if recReserved [0x3F, 0xFF, 0xFF, 0x0F] r then abReserved
    else if r.all (fun x => x == 0) then 0
    else if 5 < b 1 ∨ (b 1 ≠ 5 ∧ b 2 = 0) then abRange
    else abIf ((b 1 == 3 && b 0 != 0x3C) || (b 1 == 4 && b 0 != 0x3D)) abConflict
  else if lay = 0x14012 then abIf (255 < recU r 0 2) abRange
  else 0

/-- Records of the route store, the firewall and traffic management (R98, R245, Tables 8.3, 8.6, 8.8, 8.10, 8.11, 8.13a, 9.9). -/
def dataRecord (lay sub k : Nat) (r : List Byte) : Nat :=
  let b := byteAt r
  if lay = 0x5030 then abIf ((List.range 160).any fun i => tb (b (i / 8)) (i % 8) && !portOk i) abReserved
  else if lay = 0x5810 then ruleCheck r
  else if lay = 0x5811 then
    if 2 ^ 29 ≤ recU r 0 4 ∨ 2 ^ 29 ≤ recU r 4 4 then abReserved else abIf (recU r 4 4 < recU r 0 4) abConflict
  else if lay = 0x5812 then abIf (3 ≤ recU r 0 4 || (46 ≤ k && k ≤ 63 && recU r 0 4 != 0)) abReserved
  else if lay = 0x6001 then
    if 2 ^ 18 ≤ recU r 0 4 ∨ 2 ^ 18 ≤ recU r 4 4 then abReserved
    else if recU r 0 4 = 0 ∨ 131072 < recU r 0 4 ∨ 131072 < recU r 4 4 then abRange
    else abIf (recU r 0 4 < recU r 4 4) abConflict
  else if lay = 0x6003 then (if 2048 ≤ recU r 0 4 then abReserved else abIf (recU r 0 4 == 0 || 1024 < recU r 0 4) abRange)
  else if lay = 0x6005 then
    if r.all (fun x => x == 0) then 0
    else if recReserved ([0xFF, 0, 0, 0] ++ [0xFF, 0xFF, 0xFF, 0x3F]) r then abReserved
    else abIf (recU r 4 4 < 10 || 1000000000 < recU r 4 4) abRange
  else if lay = 0x6A10 then
    if recReserved (rep 4 0xFF ++ [1]) r then abReserved
    else abIf ((recU r 0 2 != 0 && (recU r 0 2 < 64 || 9216 < recU r 0 2)) || (1024 ≤ recU r 2 2 && recU r 2 2 != 0xFFFF)) abRange
  else if lay = 0x6A11 then
    if recReserved (rep 18 0xFF ++ [1]) r then abReserved
    else if 25000000 < recU r 0 4 ∨ 25000000 < recU r 4 4 ∨ 2 ^ 24 ≤ recU r 8 4 ∨ 2 ^ 24 ≤ recU r 12 4 ∨ 2 < b 16 then abRange
    else abIf (recU r 4 4 < recU r 0 4) abConflict
  else if lay = 0x6A20 then
    if recReserved (rep 4 0xFF) r then abReserved
    else abIf (2 < b 0 || (b 0 == 2 && (b 1 == 0 || 32 < b 1 || recU r 2 2 == 0))) abRange
  else if lay = 0x6A31 ∧ sub = 4 then abIf (recReserved (rep 14 0xFF) r) abReserved
  else 0

/-- A handle that Table 11.1 lists (R279). -/
def listedHandle (h : Nat) : Bool :=
  h == 1 || (0x0100 ≤ h && h ≤ 0x013F) || (0x0400 ≤ h && h ≤ 0x07FF)

/-- Records of the crypto data path (Tables 10.4, 10.5, 10.7, R270). -/
def cryptoRecord (lay : Nat) (r : List Byte) : Nat :=
  let b := byteAt r
  if lay = 0x8110 then
    if recReserved ([0x1F, 0xFF, 3, 0] ++ rep 20 0xFF) r then abReserved else abIf (3 < b 1) abRange
  else if lay = 0x8111 then
    let can := b 0 == 3 || b 0 == 4
    let ident := if can then rep 6 0 ++ rep 2 0xFF else rep 8 0xFF
    if recReserved ([0xFF, 0xFF, 7, 0, 0xFF, 0xFF, 0, 0] ++ rep 16 0xFF ++ ident ++ rep 24 0xFF) r then abReserved
    else if 4 < b 0 then abRange
    else if b 0 = 0 then 0
    else if !portOk (b 1) then abReserved
    else abIf ((if can then !isC (b 1) else 27 < b 1) || (tb (b 2) 2 && !listedHandle (recU r 4 2))) abRange
  else if lay = 0x8120 then abIf (recReserved [3, 0, 0xFF, 3] r) abReserved
  else if lay = 0x8130 then
    if recReserved ([0xFF, 7] ++ rep 23 0xFF ++ [0] ++ rep 6 0xFF) r then abReserved
    else if 2 < b 0 then abRange
    else if b 0 = 0 then 0
    else if b 0 = 1 ∧ (b 24 ≠ 0 ∨ recU r 28 4 ≠ 0) then abReserved
    else if b 2 < 3 ∨ 16 < b 2 ∨ 4 < b 3 ∨ recU r 6 2 = 0 ∨ 2048 < recU r 26 2 ∨ (tb (b 1) 0 ∧ !listedHandle (recU r 4 2)) then abRange
    else if b 0 = 2 ∧ !portOk (b 24) then abReserved
    else if b 0 = 2 ∧ b 24 ≠ 44 ∧ b 24 ≠ 46 ∧ !isC (b 24) then abRange
    else abIf ((if b 0 = 2 ∧ isC (b 24) then 64 else 2048) < recU r 26 2 + b 3 + b 2) abConflict
  else 0

/-- Range and reserved bits of record `k` of a table window. -/
def recordAlone (idx sub k : Nat) (r : List Byte) : Nat :=
  let (lay, _) := layInst idx
  if lay = 0x20A1 ∨ lay = 0x20A2 then hostRecord lay k r
  else if lay < 0x3000 then powerRecord lay k r
  else if lay / 0x1000 % 16 = 4 then channelRecord lay sub k r
  else if 0x8000 ≤ lay ∧ lay < 0x9000 then cryptoRecord lay r
  else dataRecord lay sub k r

/-! ### Rules that bind several values, on the state with the write made -/

/-- The idle slopes of the shaped classes fit 75 % of the nominal rate of a port's mode (R215). -/
def State.slopesAbort (s : State) (p : Nat) : Nat :=
  let kinds := s.rd (tmObj p 0) 2
  let sum := ((List.range 8).map fun c => if fld kinds (2 * c + 1) (2 * c) = 1 then s.idleSlope p c else 0).sum
  abIf (p ≤ 27 && 3 * nominalKbps p (s.rdF (ethObj p 1) 1 3 0) < 4 * sum) abConflict

/-- PTP instance `k` may run on port `p` (Table 12.6). -/
def State.instanceFits (s : State) (p k : Nat) : Bool :=
  let prof := s.rdF (0x7030 + k) 1 1 0
  prof == 0 || prof == 2 || p ≤ 27

/-- The matrix of a C channel that is enabled keeps R167 and R170: a time-master role, starts that increase below the cycle length,
cells 0 in columns beyond the count. -/
def State.matrixAbort (s : State) (c : Nat) : Nat :=
  if !s.rdB (chObj c 8) 1 0 then 0
  else
    let n := s.columns c
    let start := fun k => s.winLe (chObj c 8) 3 (4 * k) 4
    let rising := (List.range (n - 1)).all fun k => start k < start (k + 1)
    let below := start (n - 1) < s.rdF (chObj c 8) 2 23 0
    let clean := (List.range (s.cycles c)).all fun y => (List.range 64).all fun k => k < n || s.cell c y k == 0
    abIf (s.rdF (chObj c 9) 1 1 0 == 0 || !rising || !below || !clean) abConflict

/-- Binding rules of a scalar. -/
def State.bindScalar (s : State) (idx sub : Nat) : Nat :=
  let (lay, n) := layInst idx
  let v := s.rd idx sub
  if lay = 0x2011 ∧ sub = 2 then abIf (fld v 31 16 < fld v 15 0 + 0x40) abConflict
  else if lay = 0x2011 ∧ sub = 3 then abIf (fld v 25 16 < fld v 9 0) abConflict
  else if lay = 0x3001 ∧ sub = 1 then firstAbort [abIf (2 < s.drawbars.length) abConflict, s.slopesAbort n]
  else if (lay = 0x4000 ∨ lay = 0x14000) ∧ sub = 1 then s.modeAbort n v
  else if lay = 0x4008 ∧ sub = 1 then s.matrixAbort n
  else if lay = 0x14011 ∧ sub = 2 then abIf (!s.tableOk n (fld v 3 0)) abConflict
  else if (lay = 0x6000 ∧ sub = 2) ∨ (lay = 0x6002 ∧ 1 ≤ sub ∧ sub ≤ 8) then s.slopesAbort n
  else if lay = 0x6004 ∧ 0xA ≤ sub then abIf (s.portMax n < v) abConflict
  else if lay = 0x7100 ∧ sub = 2 then abIf ((List.range 4).any fun k => tb v k && !s.instanceFits n k) abConflict
  else if lay = 0x7030 ∧ sub = 1 then
    abIf ((List.range 44).any fun p => s.rdB (0x7100 + p) 2 n && !s.instanceFits p n) abConflict
  else if lay = 0x7200 ∧ (sub = 5 ∨ sub = 6) then
    (if s.rdF idx 6 29 0 < 5 then abRange else abIf (s.rdF idx 5 29 0 < s.rdF idx 6 29 0 + 5) abConflict)
  else if lay = 0x7210 ∧ 2 ≤ sub ∧ sub ≤ 4 then
    if s.rdF idx 4 29 0 < 5 then abRange
    else abIf (s.rdF idx 2 29 0 ≤ s.rdF idx 3 29 0 || s.rdF idx 2 29 0 < s.rdF idx 4 29 0 + 5) abConflict
  else 0

/-- Enabled SA records of a use on a port. -/
def State.saLike (s : State) (use port : Nat) : List Nat :=
  (s.listedRecs 0x8111 0 64 2).filter fun r => s.sa r 0 1 == use && s.sa r 1 1 == port && tb (s.sa r 2 1) 2

/-- Binding rules of SA record `k`: no second enabled record with its port, AN and (receive) SCI, 16 receive SCs, a label that fits
its parent (R261). -/
def State.saAbort (s : State) (k : Nat) : Nat :=
  let use := s.sa k 0 1
  let an := fun r => s.sa r 2 1 % 4
  let sci := fun r => s.sa r 24 8
  if use = 0 ∨ !tb (s.sa k 2 1) 2 then 0
  else
    let same := s.saLike use (s.sa k 1 1)
    let twin := (use == 1 || use == 3) && same.any (fun r => r != k && an r == an k)
    let twinRx := (use == 2 || use == 4) && same.any (fun r => r != k && an r == an k && sci r == sci k)
    let many := use == 2 && 16 < (same.map sci).eraseDups.length
    abIf (twin || twinRx || many || !s.labelFits (s.sa k 4 2) (s.winBytes 0x8111 0 (64 * k + 8) 16)) abConflict

/-- Binding rules of authenticator record `k`: its label fits (R261), one generating record for a port and Data ID (R273). -/
def State.authAbort (s : State) (k : Nat) : Nat :=
  if s.au k 0 1 = 0 ∨ !tb (s.au k 1 1) 0 then 0
  else
    let twin := s.au k 0 1 == 2 && (s.listedRecs 0x8130 0 32 0).any fun r =>
      r != k && s.au r 0 1 == 2 && tb (s.au r 1 1) 0 && s.au r 24 1 == s.au k 24 1 && s.au r 28 4 == s.au k 28 4
    abIf (twin || !s.labelFits (s.au k 4 2) (s.winBytes 0x8130 0 (32 * k + 8) 16)) abConflict

/-- Binding rules of record `k` of a table window. -/
def State.bindRecord (s : State) (idx k : Nat) : Nat :=
  if idx = 0x5610 then s.pduAbort k (s.winBytes 0x5610 0 (32 * k) 32)
  else if idx = 0x5620 then s.streamAbort (s.winBytes 0x5620 0 (96 * k) 96)
  else if idx = 0x8111 then s.saAbort k
  else if idx = 0x8130 then s.authAbort k
  else 0

/-! ### Rules of the present state -/

/-- The present protocol of a channel lets its timing be written (R154), its buffer be requested (R162), its recovery begin (R164) and
its matrix be changed (R170). -/
def State.channelState (s : State) (lay c sub v : Nat) : Nat :=
  if lay = 0x4001 ∨ lay = 0x4002 ∨ lay = 0x14001 then abIf (s.proto c != 0) abState
  else if lay = 0x4004 ∧ sub = 2 then abIf (v == 1 && s.errState c != 2) abState
  else if lay = 0x4006 ∧ sub = 3 then abIf (s.isOwner c v || !tb (s.ch c).written v) abState
  else if lay = 0x4008 ∧ 2 ≤ sub then abIf (s.rdB (chObj c 8) 1 0) abState
  else 0

/-- A power command is accepted (Tables 13.5, 13.10, R377): SLEEP from RUN, RUN from SLEEP, 1 and 2 busy while the sleep sequence
runs. -/
def State.powerState (s : State) (v : Nat) : Nat :=
  if (v = 1 ∨ v = 2) ∧ s.wake.seqAt.isSome then abBusy
  else if v = 1 ∧ s.mode ≠ .run then abState
  else if v = 2 ∧ s.mode ≠ .run then abState
  else if v = 4 ∧ s.mode ≠ .sleep then abState
  else 0

/-- A pulse enable (R327): a once pulse must start 1 µs or more after the write. -/
def State.pulseState (s : State) (idx sub v : Nat) : Nat :=
  if 2 ≤ sub then abIf (sub ≤ 6 && s.rdB idx 1 0) abState
  else abIf (tb v 0 && !tb v 1 && s.pulseStart (idx - 0x7200) < s.devNs + 1000) abState

/-- The rules of the state of a scalar of 0x6000–0x6FFF. -/
def State.tmState (s : State) (lay n sub v : Nat) : Nat :=
  if lay = 0x6000 ∧ sub = 1 then
    abIf (tb v 0 != s.rdB (tmObj n 0) 1 0 && s.rdF (ethObj n 1) 1 3 0 != 0) abState
  else if lay = 0x6004 ∧ sub ≤ 7 then
    if (s.ptm n).gatePending.isSome then abBusy
    else if sub = 7 ∧ v = 1 then
      abIf ((List.range (s.rdF (tmObj n 4) 6 8 0)).any fun k => s.winLe (tmObj n 5) 1 (8 * k) 8 == 0) abConflict
    else 0
  else if lay = 0x6A30 ∧ sub = 4 then abIf (s.rdF 0x6A30 2 8 0 < v) abRange
  else 0

/-- The trim may be enabled (R358): record 2 of 0x2006 has a PMBus address and its VOUT_MODE is linear. -/
def State.trimState (s : State) (v : Nat) : Nat :=
  abIf (v == 1 && (s.regulator 2 2 1 == 0 || !linearMode (mapGetD s.power.voutMode 2 0))) abState

/-- Rules of the present state on a scalar write of a session. -/
def State.scalarState (s : State) (row : ObjRow) (sess idx sub v : Nat) : Nat :=
  let (lay, n) := layInst idx
  if row.acc = .rs ∧ v = 1 ∧ idx ≠ 0x1F00 ∧ s.view idx sub % 2 = 1 then abBusy
  else if lay = 0x2005 ∧ sub = 2 then s.powerState v
  else if lay = 0x2011 ∧ sub = 1 then s.trimState v
  else if lay = 0x2064 ∧ sub = 2 then abIf (v == 1 && !s.present (ingressGroup (s.rdF 0x2064 1 7 0))) abBusy
  else if lay = 0x20A0 ∧ sub = 3 then
    abIf (tb v 2 != s.rdB 0x20A0 3 2 && (List.range 8).any fun r => tb s.host.enabled (8 + r)) abState
  else if lay / 0x1000 % 16 = 4 then s.channelState lay n sub v
  else if lay = 0x5800 ∧ (sub = 2 ∨ sub = 3) then
    abIf (v == 1 && (s.fw.copying || !s.present (19 + s.shadowHalf))) abBusy
  else if lay / 0x1000 = 6 then s.tmState lay n sub v
  else if (lay = 0x7001 ∧ sub = 1) ∨ (lay = 0x7000 ∧ sub = 7) then abIf (v == 1 && !s.present 42) abBusy
  else if lay = 0x7010 ∧ sub = 3 then
    if v = 1 ∧ !s.present 42 then abBusy
    else abIf (v == 1 && (signed 32 (s.rd 0x7010 2) < -2147483 || 2147483 < signed 32 (s.rd 0x7010 2))) abRange
  else if lay = 0x7030 then abIf (sess != wardenSess && !s.present 43) abBusy
  else if lay = 0x7200 then s.pulseState idx sub v
  else if lay = 0x7210 ∧ 2 ≤ sub then abIf (s.rdB idx 1 0) abState
  else if lay = 0x7401 ∧ sub = 2 then abIf (v == 1 && s.key.brownOut) abBusy
  else if lay = 0x8030 ∧ sub = 4 then abIf (v == 1 && !s.frozen) abState
  else if lay = 0xA000 ∧ sub = 1 then abIf (s.consistOn && fld v 2 0 != s.ownDevice) abState
  else 0

/-- Only the enable bit changes, from 1 to 0: bit `b` of byte `i`. -/
def onlyDisables (i b : Nat) (old new : List Byte) : Bool :=
  !tb (byteAt new i) b && overlay new i [BitVec.ofNat 8 (byteAt new i + 2 ^ b)] == old

/-- The shadow may be written (R251): no copy runs, and its half is PRESENT or under its in-service test. -/
def State.shadowBusy (s : State) : Bool :=
  let c := 19 + s.shadowHalf
  s.fw.copying || !(s.present c || s.testsCarriage c)

/-- Rules of the present state on a record write of a session. -/
def State.recordState (s : State) (sess idx sub k : Nat) (old new : List Byte) : Nat :=
  let (lay, n) := layInst idx
  if idx = 0x1F01 then s.flashAbort k
  else if idx = 0x2006 ∧ k ≤ 4 then
    let keep := fun r => overlay (overlay r 0 [BitVec.ofNat 8 (byteAt r 0 % 4)]) 2 [0]
    abIf (keep old != keep new) abReadOnly
  else if idx = 0x2006 then abIf (tb (byteAt new 0) 1 != tb (byteAt old 0) 1) abReadOnly
  else if idx = 0x2080 then abIf (sess != wardenSess && !s.present 43) abBusy
  else if idx = 0x20A2 then abIf (tb (byteAt old 10) 0 && !onlyDisables 10 0 old new) abState
  else if lay = 0x4008 then s.channelState lay n sub 0
  else if 0x5810 ≤ idx ∧ idx ≤ 0x5812 then abIf s.shadowBusy abBusy
  else if lay = 0x6005 then abIf (s.ptm n).gatePending.isSome abBusy
  else if idx = 0x8110 then
    if sess ≠ wardenSess ∧ !s.present 44 then abBusy
    else abIf (byteAt old 0 % 4 != 0 && (byteAt old 1 != byteAt new 1 || sliceZ old 8 8 != sliceZ new 8 8)) abState
  else if idx = 0x8111 then abIf (tb (byteAt old 2) 2 && !onlyDisables 2 2 old new) abState
  else 0

end Sys2Proof.Machine
end

