-- ==== Sys2Proof/Machine/Boot.lean ====
section
/-! DEFINITION. The start of the part up to the image (Chapter 20): what a power-on reset and a device restart leave standing
(R31, R143, R231, R471), BIST (R473–R476), and the measured boot (R477). -/

namespace Sys2Proof.Machine

/-! ### What a start keeps -/

/-- Scalars that stand in non-volatile memory or in the backup domain: the frozen state, the image sequence, the calendar's
validity and losses, the open migration. -/
def keptAlways (idx sub : Nat) : Bool :=
  (idx == 0x8030 && sub == 3) || (idx == 0x8050 && sub == 5) || (idx == 0x7300 && (sub == 2 || sub == 3))
    || (idx == 0x8040 && sub == 4)

/-- Windows that stand in non-volatile memory: the alarm log and the anchors. -/
def keptWindowAlways (idx : Nat) : Bool := idx == 0x8031 || idx == 0x8052

/-- Scalars that a device restart leaves too: those of the carriage controller, its clock and power managers and the wake island,
which only a power-on reset resets (R31), the event counts, and the counters of R143, R231 and R249 and of the ledger and alarm. -/
def keptAtRestart (idx sub : Nat) : Bool :=
  let lay := (layInst idx).1
  keptAlways idx sub || (decide (0x1200 ≤ idx) && decide (idx < 0x1400)) || (decide (0x2001 ≤ idx) && decide (idx ≤ 0x2020))
    || (idx == 0x2030 && decide (4 ≤ sub)) || idx == 0x2040 || idx == 0x2070 || (decide (0x2100 ≤ idx) && decide (idx < 0x2200))
    || (decide (0x2200 ≤ idx) && decide (idx < 0x2300) && sub != 1)
    || lay == 0x3010 || lay == 0x4010 || lay == 0x14010 || lay == 0x6009
    || (idx == 0x8030 && decide (6 ≤ sub)) || idx == 0x8040

/-- Windows that a device restart leaves too. -/
def keptWindowAtRestart (idx : Nat) : Bool :=
  keptWindowAlways idx || idx == 0x1200 || idx == 0x1301 || idx == 0x2003 || idx == 0x2006
    || (decide (0x2071 ≤ idx) && decide (idx ≤ 0x2074)) || idx == 0x5808 || idx == 0x5809

/-- The lifetime record after a start (R333): the winning record with the unpowered seconds added where the calendar is valid. -/
def State.lifeLoaded (s : State) : LifeRec :=
  match s.time.stored with
  | some l =>
    { l with powerCycles := l.powerCycles + 1, offSec := l.offSec + (if s.calValid then s.calNow / 32768 - l.lastDev else 0) }
  | none => { LifeRec.blank with powerCycles := 1, firstOn := if s.calValid then s.calNow / 32768 else 0 }

/-- The key store's non-volatile part: key pairs, freshness pairs, fuses, the count of the alarm log, the successor of an open
migration. -/
def State.keyKept (s : State) : KeyState :=
  { KeyState.reset with pairs := s.key.pairs, mram := s.key.mram, fuses := s.key.fuses, logCount := s.key.logCount,
                        meltDone := s.key.meltDone, successor := s.key.successor }

/-- The control complex's non-volatile part: the boot selection, the floor's fuses, the flash. -/
def State.ctlKept (s : State) : CtlState :=
  { CtlState.reset with confirmed := s.ctl.confirmed, trial := s.ctl.trial, starts := s.ctl.starts, floor := s.ctl.floor,
                        flash := s.ctl.flash }

/-- The calendar runs on in the backup domain. -/
def State.timeKept (s : State) (life : LifeRec) : TimeState :=
  { TimeState.reset with cal := s.time.cal, calAt := s.time.calAt, vbkp := s.time.vbkp, calHour := s.time.calHour,
                         temp := s.time.temp, live := life, stored := s.time.stored, lifeAt := s.now }

/-- Verification starts again from the committed freshness values, which stand in the records' states (R274). -/
def State.startFresh (s : State) : State := { s with startup := { StartState.reset with begun := s.now } }

/-- A power-on reset (R471, R38): every unit at reset but for what stands in non-volatile memory; the cause kept by the wake island
(R347, R348, R352) is what 0x2005:03 reads, else PORST_N, or first power where VAON did not stay up. The hash seed is drawn (R93),
and so is the life-cycle nonce (R302). -/
def State.powerOn (s : State) (vaon : Bool) : State :=
  let (seed, t) := s.draw
  let (nonce, t) := t.draw
  let cause := if !vaon then 0 else if s.power.cause = 0 then 1 else s.power.cause
  let r : State := { State.reset with
    pending := s.pending, outputs := s.outputs, now := s.now, fresh := t.fresh,
    regs := s.regs.filter fun x => keptAlways (x.1 / 256) (x.1 % 256),
    wins := s.wins.filter fun x => keptWindowAlways (x.1 / 2 ^ 32),
    key := s.keyKept, ctl := s.ctlKept, time := s.timeKept s.lifeLoaded,
    route := { RouteState.reset with seed := seed % 2 ^ 128 } }
  ((r.wr 0x2005 3 cause).setWin 0x8000 4 0 (leBytes 32 nonce)).startFresh.withPower fun p => { p with stepAt := s.now, pholdAt := s.now }

/-- A device restart (R303, R308): the supplies stay up, and every carriage goes through BIST again. The sequences of the carriage
controller end. -/
def State.deviceRestart (s : State) : State :=
  let (nonce, t) := s.draw
  let r : State := { State.reset with
    pending := s.pending, outputs := s.outputs, now := s.now, fresh := t.fresh, ringFull := s.ringFull,
    regs := s.regs.filter fun x => keptAtRestart (x.1 / 256) (x.1 % 256),
    wins := s.wins.filter fun x => keptWindowAtRestart (x.1 / 2 ^ 32),
    key := s.keyKept, ctl := s.ctlKept, time := { s.timeKept s.time.live with lifeAt := s.time.lifeAt },
    route := { RouteState.reset with seed := s.route.seed },
    power := { s.power with slept := [] }, wake := { s.wake with seqAt := none, domains := [] } }
  (((r.wr 0x2005 3 5).wrF 0xF000 2 6 4 1).setWin 0x8000 4 0 (leBytes 32 nonce)).startFresh

/-! ### BIST -/

/-- The BIST group of a carriage (Table 20.2). -/
def bistGroup (n : Nat) : Nat :=
  if n = 45 ∨ n = 46 then 1 else if 41 ≤ n then 2 else if 2 ≤ n ∧ n ≤ 10 then 3 else if 11 ≤ n ∧ n ≤ 20 then 4
  else if n ≤ 31 then 5 else 6

/-- Logic patterns, stuck-at and transition coverage of a carriage (Table 20.3), in units of 0.01 %. -/
def bistCover (n : Nat) : Nat × Nat × Nat :=
  if n ≤ 1 then (32768, 9620, 8450) else if n ≤ 10 then (8192, 9510, 8130) else if n ≤ 18 then (8192, 9540, 8200)
  else if n ≤ 20 then (16384, 9460, 8040) else if n ≤ 22 then (32768, 9600, 8390) else if n ≤ 27 then (65536, 9730, 8620)
  else if n ≤ 31 then (32768, 9580, 8270) else if n ≤ 37 then (16384, 9780, 8840) else if n ≤ 40 then (32768, 9520, 8110)
  else if n = 41 then (32768, 9480, 8090) else if n = 42 then (8192, 9810, 8900) else if n ≤ 44 then (65536, 9550, 8240)
  else if n = 45 then (65536, 9590, 8310) else (16384, 9640, 8400)

/-- The BIST record of a carriage (R483). -/
def bistRecord (n result bits unit us : Nat) : List Byte :=
  let c := bistCover n
  leBytes 1 result ++ leBytes 1 (bistGroup n) ++ leBytes 1 bits ++ leBytes 1 unit ++ leBytes 2 c.2.1 ++ leBytes 2 c.2.2
    ++ leBytes 4 us ++ leBytes 4 c.1

/-- A unit of a cipher cluster or an edge group fails its second test: its spare takes its place, or it is out of service (Table
20.4); whether a spare did. A spare that fails is FAILED. -/
def State.bistUnit (s : State) (n u : Nat) : Bool × State :=
  if 23 ≤ n ∧ n ≤ 27 ∧ u = 15 then (false, s.withCar fun c => { c with spareUsed := mapSet c.spareUsed (spareKey n 0) 2 })
  else
    match s.readySpare n with
    | some k => (true, s.withCar fun c => { c with spareUsed := mapSet c.spareUsed (spareKey n k) 1 })
    | none => (false, s.withCar fun c => { c with unitOut := c.unitOut ++ [unitKey n u] })

/-- A carriage fails its second test (Table 20.4). -/
def State.bistFailed (s : State) (n : Nat) : State :=
  let s := (s.setCar n stFailed).wrF 0xF000 5 7 0 (s.rdF 0xF000 5 7 0 + 1)
  if n = 45 ∨ n = 46 then s.standstill
  else if 19 ≤ n ∧ n ≤ 20 then s.wrF 0x5800 1 0 0 (20 - n)
  else s

/-- The result of one carriage in its group: `first` and `second` the failing bits of its two attempts ([0] logic, [1] memory). -/
def State.bistOne (s : State) (n first second unit us : Nat) : State :=
  if first = 0 then s.setWin 0xF001 0 (16 * n) (bistRecord n 1 0 0xFF us)
  else if second = 0 then
    (s.wrF 0xF000 5 15 8 (s.rdF 0xF000 5 15 8 + 1)).setWin 0xF001 0 (16 * n) (bistRecord n 2 first 0xFF us)
  else if unit ≤ 15 ∧ ((23 ≤ n ∧ n ≤ 27) ∨ (32 ≤ n ∧ n ≤ 37)) then
    let (spare, s) := s.bistUnit n unit
    s.setWin 0xF001 0 (16 * n) (bistRecord n 3 (second + 4 * spare.toNat) unit us)
  else (s.bistFailed n).setWin 0xF001 0 (16 * n) (bistRecord n 3 second 0xFF us)

/-- Cell bank 8 takes the place of the first of the banks 0–7 that failed (Table 20.4). -/
def State.bistBank (s : State) : State :=
  match ((List.range 8).map (· + 2)).find? fun n => s.carState n == stFailed with
  | some n =>
    if s.carState 10 = stSpareIdle then
      let s := (s.setCar 10 stPresent).setWinB 0xF001 0 (16 * n + 2) (s.winB 0xF001 0 (16 * n + 2) ||| 4)
      { s with startup := { s.startup with failedBank := some n } }
    else s
  | none => s

/-- The time unit starts: device time comes from the calendar, or with the calendar not valid from the ledger (R322, R332). -/
def State.startClock (s : State) : State := if s.calValid then s.timeUnitReturn else s.calLost

/-- A BIST group ends (R474–R476). A carriage that `res` does not list passes at once. The entries are carriage, failing bits of
the two attempts, unit, duration in µs. -/
def State.bistGroupEnd (s : State) (res : List (Nat × Nat × Nat × Nat × Nat)) : State :=
  let g := s.startup.groups + 1
  if 6 < g ∨ s.mode ≠ .run ∨ s.power.todo ≠ [] then s
  else
    let s := s.forEach (carriages.filter fun n => bistGroup n == g) fun s n =>
      let (first, second, unit, us) := mapGetD res n (0, 0, 0xFF, 0)
      s.bistOne n (first % 4) (second % 4) unit us
    let s := { s with startup := { s.startup with groups := g } }
    if g = 2 then (if s.present 42 then s.startClock else s) else if g = 3 then s.bistBank else s

/-! ### Measured boot -/

/-- The fuses of both pairs of a code are blown; an interrupted blow is completed (R300). -/
def completeFuses (f : Nat) : Nat :=
  (List.range 4).foldl (fun f k => if fld f (2 * k + 1) (2 * k) = 0 then f else setFld f (2 * k + 1) (2 * k) 3) f

/-- The slot taken at a start (R391), with the trial starts that remain. -/
def State.selectSlot (s : State) : Nat × State :=
  match s.ctl.trial with
  | some t =>
    if 0 < s.ctl.starts then (t, s.withCtl fun c => { c with starts := c.starts - 1 }) else (s.ctl.confirmed, s)
  | none => (s.ctl.confirmed, s)

/-- The three pairs run from a slot. -/
def State.pairsOn (s : State) (slot : Nat) : State :=
  s.forEach [1, 2, 3] fun s k => s.wrF 0x2030 k 0 0 slot

/-- The comparator test of the station or signal pair before its first fetch (R387): event 0x0102; a pair that fails it is left FAILED. -/
def State.bootTest (s : State) (n : Nat) (r : Bool × Nat × Nat) : State :=
  if s.carState n = stFailed then s
  else
    let s := (s.wrF 0x2030 (pairSub n) 4 3 (if r.1 then 3 else 0)).event n 0x102 (!r.1).toNat r.2.1 r.2.2
    if r.1 then s else ((s.setCar n stFailed).wrF 0xF000 5 7 0 (s.rdF 0xF000 5 7 0 + 1)).event n 0x101 2 0 0

/-- The firmware of slot `k` starts: the epoch key derived from its measurement, the ledger recovered, the pairs released. A wake whose
measurement differs takes a new epoch key, and every retained key is derived again (R281, R471). -/
def State.releasePairs (s : State) (k : Nat) (failover : Bool) : State :=
  let m := s.measureSlot k
  let s := if s.key.measurement = m then s else s.takeEpoch m
  let s := (s.pairsOn k).recoverLedger
  let s := ((s.wrF 0xF000 2 0 0 k).wrB 0xF000 2 1 (s.ctl.trial == some k)).wrB 0xF000 2 2 failover
  { s with startup := { s.startup with measured := true } }

/-- The firmware is measured (R477): fuses completed, slot selected and checked, the other slot taken where it fails, the pairs
released; the second failure is STANDSTILL. A wake's pairs end their start by themselves. `station` and `signal` are the comparator
tests: passed, failing bit, µs. -/
def State.measureBoot (s : State) (station signal : Bool × Nat × Nat) : State :=
  let s := s.withKey fun k => { k with fuses := completeFuses k.fuses }
  let r := s.selectSlot
  let s := r.2
  let s := if s.fwStatus r.1 = 0 then s.releasePairs r.1 false
    else if s.fwStatus (1 - r.1) = 0 then s.releasePairs (1 - r.1) true else s.standstill
  if s.mode ≠ .run ∨ s.rdF 0xF000 2 6 4 = 2 then s else (s.bootTest 43 station).bootTest 44 signal

/-- The measurement ends, once, after group 1 with carriages 45 and 46 good. In SLAG no firmware starts (Table 11.10). -/
def State.measured (s : State) (station signal : Bool × Nat × Nat) : State :=
  if s.startup.measured || s.mode != .run || s.startup.groups == 0 || s.life == 5 || s.carState 45 == stFailed || s.carState 46 == stFailed
  then s else s.measureBoot station signal

end Sys2Proof.Machine
end

