-- ==== Sys2Proof/Machine/Actions.lean ====
section
/-! DEFINITION. The actions that a write of 1 to an rs subindex, or a write of a wo subindex, starts (Table 0.4): one definition
each. Transaction groups and configuration images are in Dict.lean and Image.lean. -/

namespace Sys2Proof.Machine

/-! ### Buffer, queues, statistics -/

/-- Minimum headroom of every carriage reset (0x2010:04, R27). -/
def State.resetMinima (s : State) : State := s.forEach carriages fun s n => s.wr (0x2100 + n) 2 0xFFFF

/-- The least free count restarts (0x2060:08, R89). -/
def State.resetLeastFree (s : State) : State := s.withBuf fun b => { b with leastFree := s.freeCells }

/-- The frames an ingress flush discards: of the port, held in its ingress queue and not released, but for the one being written
(R75). -/
def State.flushed (s : State) (p : Nat) : List Nat :=
  let cur := (mapGetD s.buf.ingress p ⟨[], none, false⟩).cur
  (s.buf.frames.filter fun x => x.2.ingress == p && !x.2.built && !x.2.released && some x.1 != cur
    && !s.fw.held.any fun h => h.frame == x.1).map Prod.fst

/-- A flush takes effect (R75, R76). -/
def State.flushEffect (s : State) (p : Nat) (delivery : Bool) : State :=
  let q := mapGetD s.buf.delivery p ⟨[], [], none⟩
  let ids := if delivery then q.frames else s.flushed p
  let s := if delivery then
      (s.forEach ids fun s id => s.dropRef id p).withBuf fun b => { b with delivery := mapPut ⟨[], [], none⟩ b.delivery p { q with frames := [] } }
    else s.loseFrames ids
  ((s.wr 0x2064 3 ids.length).wr 0x2064 2 0).withBuf fun b => { b with flush := none }

/-- A frame of the flushed queue is being written or read. -/
def State.flushMustWait (s : State) (p : Nat) (delivery : Bool) : Bool :=
  if delivery then (mapGetD s.buf.delivery p ⟨[], [], none⟩).current.isSome else (mapGetD s.buf.ingress p ⟨[], none, false⟩).cur.isSome

/-- Start of a flush (0x2064:02). -/
def State.flushStart (s : State) : State :=
  let p := s.rdF 0x2064 1 7 0
  let d := s.rdB 0x2064 1 8
  if s.flushMustWait p d then
    (s.wr 0x2064 2 1).withBuf fun b => { b with flush := some ⟨p, d⟩ }
  else s.flushEffect p d

/-- A waiting flush takes effect once its frame has ended (R76). -/
def State.flushDue (s : State) : State :=
  match s.buf.flush with
  | some w => if s.flushMustWait w.port w.delivery then s else s.flushEffect w.port w.delivery
  | none => s

/-- The excess log of a port is emptied (0x3000 + 0x40 × p:07, R114). -/
def State.clearLog (s : State) (p : Nat) : State := (s.setWin (ethObj p 0) 5 0 (fill 1024 0)).wr (ethObj p 0) 6 0

/-- The latency probe is armed (0xF010:01): the results return to their defaults. -/
def State.armProbe (s : State) : State :=
  let s := (s.wr 0xF010 1 1).wr 0xF010 4 0
  { s.forEach ((List.range 10).map (· + 0x10)) fun s k => s.wr 0xF010 k 0xFFFFFFFF with probe := ⟨none, 0, false, none⟩ }

/-- One bank of a snapshot: scalars and the observations of a port, or zeros. -/
def State.snapPort (s : State) (p : Nat) (sel : Bool) : State :=
  let src := if p ≤ 43 then ethObj p 0x10 else chObj (p - 64) 0x10
  let copy := fun (s : State) (from_ bank n : Nat) =>
    s.forEach ((List.range n).map (· + 1)) fun s k => s.wr (bank + p) k (if sel then s.rd from_ k else 0)
  let s := if p ≤ 43 ∨ 64 ≤ p then copy s src 0x9100 64 else s
  let s := copy s (tmObj p 9) 0x9500 64
  s.setWin (0x9300 + p) 0 0 (if sel then s.viewBytes (tmObj p 8) 0 96 0 6144 else fill 6144 0)

/-- A snapshot (0x9000:06, R145): the counters, observations and refusal counts of the selected ports at one instant. -/
def State.snapshot (s : State) : State :=
  let t := s.clockNow
  let s := s.forEach allPorts fun s p => s.snapPort p (s.rdB 0x9000 (1 + p / 32) (p % 32))
  ((s.wr 0x9000 7 t.2).wr 0x9000 8 (t.1 % 2 ^ 32)).bump 0x9000 9 1

/-! ### Channels -/

/-- Recovery from bus-off begins (0x4004 + 0x20 × c:02, R164). -/
def State.busOffRecover (s : State) (c : Nat) : State :=
  (s.wr (chObj c 4) 2 1).modCh c fun d => { d with recoverAt := s.now }

/-- A transmit buffer becomes pending (R162). -/
def State.requestBuffer (s : State) (c b : Nat) : State := (s.wr (chObj c 6) 2 (setBit (s.rd (chObj c 6) 2) b true)).canOffer c

/-- A pending buffer is cancelled; a frame already started completes. -/
def State.cancelBuffer (s : State) (c b : Nat) : State := s.wr (chObj c 6) 2 (setBit (s.rd (chObj c 6) 2) b false)

/-! ### Traffic management -/

/-- Start of a gate change (0x6004 + 0x10 × p:07, R217). -/
def State.gateChange (s : State) (p : Nat) : State :=
  let o := tmObj p 4
  let base := (s.rd o 3 + s.rdF o 4 15 0 * 2 ^ 32) * 1000000000 + s.rd o 2
  let t := changeInstant base (s.rdF o 5 29 0) s.devNs
  (s.wr o 7 1).modPtm p fun x => { x with gatePending := some t }

/-- The oldest n trace records are removed (0x6A30:04, R235). -/
def State.releaseTrace (s : State) (n : Nat) : State :=
  let held := s.rdF 0x6A30 2 8 0
  let rest := s.winBytes 0x6A30 5 (64 * n) (64 * (held - n))
  (s.setWin 0x6A30 5 0 (rest ++ fill (64 * n) 0)).wr 0x6A30 2 (held - n)

/-- Verification of preemption begins at a port (R221). -/
def State.verifyStart (s : State) (p : Nat) : State :=
  let v := s.rd (tmObj p 6) 1
  let verify := tb v 0 && tb v 1
  let s := s.wr (tmObj p 6) 2 (tb v 0 && !tb v 1).toNat
  s.modPtm p fun x => { x with verifyTries := verify.toNat, verifyAt := s.now }

/-! ### Time -/

/-- Device time and the step count captured (0x7001:01, R317). -/
def State.capture (s : State) : State :=
  let t := s.clockNow
  let frac := if s.present 42 then s.time.dev % 2 ^ 48 / 2 ^ 32 else 0
  (((s.wr 0x7001 2 t.2).wr 0x7001 3 (t.1 % 2 ^ 32)).wr 0x7001 4 (t.1 / 2 ^ 32 % 2 ^ 16 + frac * 2 ^ 16)).wr 0x7001 5 (s.rd 0x7000 8)

/-- The apply of R319 with the values of 0x7010:01 and 02. -/
def State.applyCorrection (s : State) : State := s.applyTime (signed 64 (s.rd 0x7010 1)) (signed 32 (s.rd 0x7010 2))

/-! ### Keys, attestation, life cycle -/

/-- What follows a key action: its status and the handle's generation (0x8010:05 and 06), event 0x00C2, the records under a changed
key derived again (R262), those under a revoked one revoked (R263); import reasons 6 and 7 count towards sensor 5 (Table 11.12). -/
def State.keyDone (s : State) (sess h act : Nat) (a : KeyAnswer) : State :=
  let s := (s.wr 0x8010 5 (a.status + 256 * a.reason)).wr 0x8010 6 (s.genOf h)
  let s := s.forEach a.changed State.rederive
  let s := s.revokeAll a.revoked
  let s := if a.status = 0 then s.event 46 0xC2 (h % 256) (h / 256) act else s
  if a.status = 5 ∧ (a.reason = 6 ∨ a.reason = 7) then s.authFailure sess else s

/-- A key action (Table 11.5): status 2 after a brown-out warning (R294) or, but for 5 and 8, while a migration is open (R293). -/
def State.keyAct (s : State) (h act kind parent : Nat) (wide : Bool) (label : List Byte) : KeyAnswer × State :=
  if s.key.brownOut ∨ !s.present 46 ∨ (s.migrating ∧ act ≠ 5 ∧ act ≠ 8) then (keyRefused 2 0, s)
  else if act = 1 then s.keyDefine h parent kind wide label
  else if act = 2 then s.keyGenerate h kind wide
  else if act = 3 then s.keyImport h
  else if act = 4 then s.keyRotate h
  else if act = 5 then s.keyRevoke h
  else if act = 6 then s.keyDelete h
  else if act = 7 then s.keyReseal h (s.measureSlot s.inactiveSlot)
  else if act = 8 then s.keyClose h
  else (keyRefused 3 0, s)

/-- Start of a key command (0x8010:04, R285). -/
def State.keyCommand (s : State) (sess : Nat) : State :=
  let v := s.rd 0x8010 1
  let h := fld v 15 0
  let act := fld v 19 16
  let (a, s) := s.keyAct h act (fld v 21 20) (s.rdF 0x8010 2 15 0) (tb v 22) (s.winBytes 0x8010 3 0 16)
  s.keyDone sess h act a

/-- Start of an attestation (0x8020:03, R298, R299). -/
def State.attest (s : State) : State :=
  let kind := s.rdF 0x8020 1 19 16
  let h := s.rdF 0x8020 1 15 0
  let known := h == 1 || (configured? h).isSome || isSessHandle h
  if s.key.brownOut then s.wr 0x8020 4 2
  else if kind = 1 ∧ !known then s.wr 0x8020 4 3
  else
    let split := s.rdB 0x2030 1 1 || s.rdB 0x2030 2 1
    (s.setWin 0x8021 0 0 (s.statement kind h split)).wr 0x8020 4 0

/-- The token of window 0x8001 authorises a transition (R302). -/
def State.tokenGood (s : State) (target : Nat) : Bool :=
  let t := s.winBytes 0x8001 0 0 136
  byteAt t 0 == target && byteAt t 1 == s.life && beAt t 2 2 == 0 && beAt t 4 4 == Config.serial
    && sliceZ t 8 32 == s.winBytes 0x8000 4 0 32 && Config.verify Config.lifeCycleKey (Config.sha384 (t.take 40)) (t.drop 40)

/-- The transition exists and is authorised (Table 11.15). -/
def State.lifeAllowed (s : State) (target : Nat) : Bool :=
  let now := s.life
  if target = 5 then 1 ≤ now && now ≤ 4
  else if target = 3 then now == 2
  else if target = 2 then now == 1 && s.tokenGood 2
  else if target = 4 then now == 3 && s.tokenGood 4
  else false

/-- The life-cycle nonce drawn again (R302). DESIGN CHOICE, log entry 24. -/
def State.newNonce (s : State) : State :=
  let (v, s) := s.draw
  s.setWin 0x8000 4 0 (leBytes 32 v)

/-- An illegal life-cycle request (R301): result 3 and MELT. -/
def State.lifeIllegal (s : State) : State := ((s.wr 0x8000 3 3).trip 4 []).newNonce

/-- What a transition destroys (Table 11.15); SLAG erases the migration state too. -/
def State.lifeErase (s : State) (target : Nat) : State :=
  let s := s.withKey fun k => { k with pairs := [], mram := [], sess := [] }
  let s := (s.setWin 0x8052 0 0 (fill 388 0)).wr 0x8050 5 0
  if target = 5 then ((s.wrB 0x8040 4 16 false).withKey fun k => { k with successor := 0 }).withCtl fun c => { c with trial := none, starts := 0 }
  else s

/-- A life-cycle request (R301–R303): a transition is carried out whole and the device restarts; the epoch key then changes with the
state. -/
def State.lifeRequest (s : State) (target : Nat) : State :=
  if s.key.brownOut ∨ !s.present 46 then s.wr 0x8000 3 2
  else if !s.lifeAllowed target then s.lifeIllegal
  else
    let old := s.life
    let n := s.pairsInUse
    let s := s.revokeAll s.usedHandles
    let s := s.withKey fun k => { k with fuses := setFld k.fuses (2 * (target - 2) + 1) (2 * (target - 2)) 3 }
    let s := (s.lifeErase target).countCommit (n + 2) 0
    let s := (s.wr 0x8030 3 0).wr 0x8000 3 0
    (s.event 45 0xC1 target old n).deviceRestart

/-- Thaw (0x8030:04, R308): the frozen state ends and the device restarts. -/
def State.thaw (s : State) : State := (s.wr 0x8030 3 0).deviceRestart

/-- A power command (Table 13.5); command 4 is itself a wake (Table 14.2). -/
def State.powerCommand (s : State) (v : Nat) : State :=
  if v = 1 then s.enterSleep else if v = 2 then s.armSleep else if v = 3 then s.powerOff else if v = 4 then s.latchWake 8 0xFF 0 [] else s

end Sys2Proof.Machine
end

