-- ==== Sys2Proof/Machine/Apply.lean ====
section
/-! DEFINITION. What an accepted write of an object does (R10, Table 0.4): the value set, and what follows from it. The write of a
scalar and the write of one record of a table window are one definition each; session-local objects and configuration images are in
Dict.lean and Image.lean. -/

namespace Sys2Proof.Machine

/-! ### Scalars -/

/-- A write of an Ethernet port's block (0x3000–0x3AFF): `off` the offset in the block. -/
def State.putPort (s : State) (off p sub v : Nat) : State :=
  if off = 0 ∧ sub = 7 then s.clearLog p
  else if off = 1 ∧ sub = 1 then s.writePortMode p v
  else if off = 8 ∧ sub = 1 then s.writeThreshold p v
  else s.wr (ethObj p off) sub v

/-- The lock of a receive buffer written by a session (R161): it claims the object's lock while a buffer is named (R430). -/
def State.putBufferLock (s : State) (sess c v : Nat) : State :=
  let idx := chObj c 5
  let s := s.writeLock c v
  if v < 64 then s.claimLock sess idx else s.freeLock idx

/-- The enable of a schedule matrix written (R170, R171). -/
def State.putMatrix (s : State) (c v : Nat) : State :=
  let was := s.rdB (chObj c 8) 1 0
  let s := s.wr (chObj c 8) 1 v
  let s := if was == tb v 0 then s
    else s.modCh c fun d => { d with running := false, col := 0, waited := [], served := false, lastRef := s.now, cycleAt := s.now }
  s.canOffer c

/-- A write of a channel's block (0x4000–0x4BFF). -/
def State.putChannel (s : State) (sess off c sub v : Nat) : State :=
  if off = 0 ∧ sub = 1 then s.changeMode c v false
  else if off = 4 ∧ sub = 2 then s.busOffRecover c
  else if off = 5 ∧ sub = 4 then s.putBufferLock sess c v
  else if off = 6 ∧ sub = 3 then s.requestBuffer c v
  else if off = 6 ∧ sub = 4 then s.cancelBuffer c v
  else if off = 8 ∧ sub = 1 ∧ c < 72 then s.putMatrix c v
  else s.wr (chObj c off) sub v

/-- The gateway's enable written (R203). -/
def State.putGateway (s : State) (v : Nat) : State :=
  let was := s.rdB 0x5600 1 0
  let s := s.wr 0x5600 1 v
  if !was && tb v 0 then s.gwEnable else s

/-- A write of a port's traffic block (0x6000–0x69FF). -/
def State.putTm (s : State) (off p sub v : Nat) : State :=
  if off = 4 ∧ sub = 7 then s.gateChange p
  else if off = 6 ∧ sub = 1 then
    let same := s.rd (tmObj p 6) 1 % 4 == v % 4
    let s := s.wr (tmObj p 6) 1 v
    if same then s else s.verifyStart p
  else if off = 7 ∧ sub = 3 then s.restartObservation p
  else s.wr (tmObj p off) sub v

/-- A pulse's enable written (R327): an enabling write arms it and clears Late. -/
def State.putPulse (s : State) (n v : Nat) : State :=
  let s := s.wr (pulseObj n) 1 v
  let d := s.pulse n
  if tb v 0 then
    let start := s.pulseStart n
    let first := if tb v 1 then pulseNext start (s.rdF (pulseObj n) 5 29 0) s.devNs else start
    (s.wr (pulseObj n) 7 0).setPulse n { d with next := some first }
  else s.setPulse n { d with next := none }

/-- A trigger's enable written (R329, R330). -/
def State.putTrigger (s : State) (n v : Nat) : State :=
  let was := s.rdB (trigObj n) 1 0
  let s := s.wr (trigObj n) 1 v
  if !was && tb v 0 then s.trigEnable n
  else if was && !tb v 0 then s.setTrig n { s.trig n with localNext := none }
  else s

/-- A write of the time objects (0x7000–0x7FFF). -/
def State.putTime (s : State) (idx sub v : Nat) : State :=
  if idx = 0x7000 ∧ sub = 7 then s.declareLoss
  else if idx = 0x7001 ∧ sub = 1 then s.capture
  else if idx = 0x7010 ∧ sub = 3 then s.applyCorrection
  else if 0x7200 ≤ idx ∧ idx < 0x7210 ∧ sub = 1 then s.putPulse (idx - 0x7200) v
  else if 0x7210 ≤ idx ∧ idx < 0x7218 ∧ sub = 1 then s.putTrigger (idx - 0x7210) v
  else if idx = 0x7401 ∧ sub = 2 then s.lifeCommit
  else s.wr idx sub v

/-- A write of the control objects (0x1000–0x2FFF). -/
def State.putControl (s : State) (idx sub v : Nat) : State :=
  if idx = 0x1F00 ∧ sub = 2 then s.fwCommand
  else if idx = 0x2002 ∧ sub = 2 then (s.wr idx sub v).selectReference
  else if idx = 0x2005 ∧ sub = 2 then s.powerCommand v
  else if idx = 0x2010 ∧ sub = 4 then s.resetMinima
  else if idx = 0x2011 ∧ sub = 1 then (s.wr idx sub v).withPower fun p => { p with trimCount := 0 }
  else if idx = 0x2020 ∧ sub = 2 then s.carriageCommand
  else if idx = 0x2040 ∧ sub = 1 then (s.wr idx sub v).withCar fun c => { c with lastSlot := s.now }
  else if idx = 0x2060 ∧ sub = 8 then s.resetLeastFree
  else if idx = 0x2064 ∧ sub = 2 then s.flushStart
  else s.wr idx sub v

/-- A write of the security objects (0x8000–0x8FFF). -/
def State.putSecurity (s : State) (sess idx sub v : Nat) : State :=
  if idx = 0x8000 ∧ sub = 2 then s.lifeRequest v
  else if idx = 0x8010 ∧ sub = 4 then s.keyCommand sess
  else if idx = 0x8020 ∧ sub = 3 then s.attest
  else if idx = 0x8030 ∧ sub = 4 then s.thaw
  else s.wr idx sub v

/-- A write of the objects of the consist, of statistics and of diagnostics. -/
def State.putUpper (s : State) (idx sub v : Nat) : State :=
  if idx = 0x9000 ∧ sub = 6 then s.snapshot
  else if idx = 0xA000 ∧ sub = 1 then
    let s := s.wr idx sub v
    if s.consistOn then s.updateMaster else { s with consist := { ConsistState.reset with neighbour := s.consist.neighbour } }
  else if idx = 0xF010 ∧ sub = 1 then s.armProbe
  else s.wr idx sub v

/-- An accepted write of a scalar (R10): 0 to an rs field has no effect. -/
def State.putScalar (s : State) (sess : Nat) (row : ObjRow) (idx sub v : Nat) : State :=
  if row.acc = .rs ∧ v = 0 then s
  else if idx < 0x3000 then s.putControl idx sub v
  else if idx < 0x4000 then s.putPort ((idx - 0x3000) % 0x40) ((idx - 0x3000) / 0x40) sub v
  else if idx < 0x5000 then s.putChannel sess ((idx - 0x4000) % 0x20) ((idx - 0x4000) / 0x20) sub v
  else if idx = 0x5010 ∧ sub = 7 then s.entryCommand
  else if idx = 0x5600 ∧ sub = 1 then s.putGateway v
  else if idx = 0x5800 ∧ sub = 2 then s.fwSwap
  else if idx = 0x5800 ∧ sub = 3 then s.giveUpHalf.fwCopyStart
  else if idx < 0x6000 then s.wr idx sub v
  else if idx < 0x6A00 then s.putTm (idx % 0x10) ((idx - 0x6000) / 0x10) sub v
  else if idx = 0x6A30 ∧ sub = 4 then s.releaseTrace v
  else if idx < 0x7000 then s.wr idx sub v
  else if idx < 0x8000 then s.putTime idx sub v
  else if idx < 0x9000 then s.putSecurity sess idx sub v
  else s.putUpper idx sub v

/-! ### Records of table windows -/

/-- SA record `k` written (R262, R266, Table 10.5): a record that becomes enabled starts at its PN with its flags clear, and its key is
derived; one that is disabled loses its key. -/
def State.saWritten (s : State) (k : Nat) : State :=
  if s.recEnabled k then
    let s := s.setWinLe 0x8112 0 (32 * k) 8 (s.sa k 32 8)
    let s := s.setWinB 0x8112 0 (32 * k + 24) 0
    (s.withCrypto fun c => { c with told := c.told.erase k }).askKeys k
  else (s.setFlag k 0 false).dropKeys k

/-- The freshness of an authenticator record written with another parent or label (R274): 0; before the forwarding point, what the
ledger holds for it. -/
def State.startFreshness (s : State) (k : Nat) (changed : Bool) : State :=
  if !s.startup.forwarding then
    let v := mapGetD s.key.mram k 0
    (s.setWinLe 0x8131 0 (32 * k) 8 v).setFlag (1024 + k) 3 (v != 0 && s.au k 0 1 == 1)
  else if changed then
    let s := if mapGetD s.key.mram k 0 = 0 then s else s.commitFresh k 0
    s.setWinLe 0x8131 0 (32 * k) 8 0
  else s

/-- Authenticator record `k` written. -/
def State.auWritten (s : State) (k : Nat) (old : List Byte) : State :=
  let new := s.winBytes 0x8130 0 (32 * k) 32
  let s := s.startFreshness k (sliceZ old 4 2 != sliceZ new 4 2 || sliceZ old 8 16 != sliceZ new 8 16)
  let id := 1024 + k
  if s.recEnabled id then ((s.setFlag id 1 false).setFlag id 2 false).askKeys id else (s.setFlag id 0 false).dropKeys id

/-- A clock's enables written (R341): the enable of the present mode acts at once. -/
def State.clockWritten (s : State) (k : Nat) (old : Nat) : State :=
  let bit_ := if s.mode = .run then 0 else if s.mode = .sleep then 1 else 2
  if tb old bit_ == tb (s.winB 0x2003 1 k) bit_ then s
  else s.applyClocks s.mode (if s.mode = .sleep then List.range 41 else []) (s.mode == .sleep)

/-- An external regulator's record written (R353): a rail that is used is raised, one no longer used falls. -/
def State.regulatorWritten (s : State) (k : Nat) : State :=
  if k < 5 ∨ 8 ≤ k ∨ s.mode ≠ .run then s
  else if tb (s.regulator k 0 1) 0 then s.raiseExternal
  else if tb s.power.ens k then s.drive k false else s

/-- A frame ring's record written (R417): its enable acts in the bridge, and an enabled ring begins at index 0. -/
def State.ringWritten (s : State) (k : Nat) : State :=
  let on := tb (s.ring k 10 1) 0
  s.withHost fun h =>
    if on == tb h.enabled k then h
    else if on then { h with enabled := setBit h.enabled k true, bells := mapDel h.bells k, done := mapDel h.done k }
    else { h with enabled := setBit h.enabled k false }

/-- A transmit buffer's record written: a C buffer counts as written (R162), an L buffer as changed. -/
def State.bufferWritten (s : State) (c k : Nat) : State :=
  s.modCh c fun d => if c < 72 then { d with written := setBit d.written k true } else { d with changed := setBit d.changed k true }

/-- An accepted write of record `k` of a table window: `r` is the whole record with the bytes written merged in (R425). -/
def State.putRecord (s : State) (idx sub rsz k : Nat) (r : List Byte) : State :=
  let old := s.viewBytes idx sub rsz (rsz * k) rsz
  let raw := s.setWin idx sub (rsz * k) r
  if idx = 0x1F01 then s.flashWrite k r
  else if idx = 0x2003 then raw.clockWritten k (byteAt old 0)
  else if idx = 0x2006 then raw.regulatorWritten k
  else if idx = 0x2080 then (raw.requestWake k).domainWritten k (byteAt old 0)
  else if idx = 0x20A1 then raw.dropPrefetch k
  else if idx = 0x20A2 then raw.ringWritten k
  else if 0x4000 ≤ idx ∧ idx < 0x4C00 ∧ (idx - 0x4000) % 0x20 = 6 then raw.bufferWritten ((idx - 0x4000) / 0x20) k
  else if idx = 0x5610 then s.writePdu k r
  else if 0x5810 ≤ idx ∧ idx ≤ 0x5812 then s.giveUpHalf.shadowWrite idx (rsz * k) r
  else if idx = 0x6A11 then raw.withTm fun t => { t with meters := mapDel t.meters k }
  else if idx = 0x6A20 then raw.withTm fun t => { t with frer := mapDel t.frer k }
  else if idx = 0x8111 then raw.saWritten k
  else if idx = 0x8130 then raw.auWritten k old
  else raw

end Sys2Proof.Machine
end

