-- ==== Sys2Proof/Machine/Dict.lean ====
section
/-! DEFINITION. The dictionary as a session reaches it (Chapter 17): rights (R278, R452), session-local objects (R428), reads, writes
with their checks in order, transaction groups (R432–R434). What a start of 0x8050:02 does is an argument (`cfg`) of the definitions
here, given in Image.lean. -/

namespace Sys2Proof.Machine

/-! ### Rights -/

/-- The objects whose write right is s (R278, Table 18.10). -/
def rightIsS (idx sub : Nat) : Bool :=
  (idx == 0x1110 && sub == 3) || (idx == 0x8000 && sub == 2) || idx == 0x8001 || idx == 0x8010 || idx == 0x8012
    || (idx == 0x8030 && (1 ≤ sub && sub ≤ 5)) || idx == 0x8050 || idx == 0x8051

/-- A role may write an object: s names the service tool and the warden. -/
def roleMay (role idx sub : Nat) : Bool := !rightIsS idx sub || role == 1 || role == 3

/-- A row describes a table window. -/
def ObjRow.window (r : ObjRow) : Bool := r.size == 0 && r.rsz != 0

/-- Bytes of a table window. -/
def ObjRow.bytes (r : ObjRow) : Nat := r.recs * r.rsz

/-- Existence, access, role and length of a write (R446): an abort code. -/
def writeAbort (role idx sub off len : Nat) : Nat :=
  match layoutOf idx with
  | none => abNoIndex
  | some (lay, _) =>
    match rowOf lay sub with
    | none => abNoSub
    | some r =>
      if r.acc = .ro then abReadOnly
      else if !roleMay role idx sub then abRole
      else if r.window then abIf (r.bytes < off + len) abWindow
      else abIf (off != 0 || len != r.size) abLength

/-! ### Session-local objects (R428) -/

/-- An object is session-local. -/
def isLocal (idx : Nat) : Bool := idx == 0x1101 || idx == 0x1130 || idx == 0xA001

/-- A session's own value of a session-local object. -/
def State.localValue (s : State) (sess idx sub : Nat) : Nat :=
  let o := s.own sess
  if sub = 0 then objDefault idx 0
  else if idx = 0x1101 then o.cursor
  else if idx = 0xA001 then mapGetD s.sess.targets sess 0
  else if sub = 4 then o.abort
  else if sub = 5 then
    match s.groupOf sess with
    | some l => l.length + 2 ^ 13
    | none => 0
  else if sub = 6 then o.failing
  else 0

/-- A session's target selected (R466, R467): an abort code where it names another device and the device is not the master, the
target is not heard, a group is open, or no forwarding slot is free. -/
def State.setTarget (s : State) (sess v : Nat) : Nat × State :=
  let target := fld v 2 0
  let free_ := (List.range 32).find? fun k => (mapGet s.consist.slots k).isNone
  let clean := { s with consist := { s.consist with slots := s.consist.slots.filter fun k => k.2.sess != sess } }
  let put := fun (s : State) => s.withSess fun x => { x with targets := mapPut 0 x.targets sess v }
  if !tb v 3 ∨ target = s.ownDevice then (0, put clean)
  else if s.consist.master ≠ some s.ownDevice ∨ !(mapGet s.consist.members target).isSome ∨ (s.groupOf sess).isSome then (abState, s)
  else
    match s.consist.slots.find? fun k => k.2.sess == sess with
    | some k => (0, put { s with consist := { s.consist with slots := mapSet s.consist.slots k.1 { k.2 with target := target } } })
    | none =>
      match free_ with
      | some k => (0, put { s with consist := { s.consist with slots := mapSet s.consist.slots k ⟨sess, target, 0, none, .plain sess⟩ } })
      | none => (0x05000003, s)

/-! ### Reading -/

/-- The applied bytes of an object from an offset, as a session reads them. -/
def State.appliedBytes (s : State) (sess idx sub off n : Nat) (r : ObjRow) : List Byte :=
  if r.window then s.viewBytes idx sub r.rsz off n
  else leBytes r.size (if isLocal idx then s.localValue sess idx sub else s.view idx sub)

/-- A byte string read from `off`, with a staged write of the same object laid over it. -/
def overlayStaged (idx sub off : Nat) (bs : List Byte) (e : Staged) : List Byte :=
  if e.idx = idx ∧ e.sub = sub then
    if off ≤ e.off then overlay bs (e.off - off) e.bytes else overlay bs 0 (e.bytes.drop (off - e.off))
  else bs

/-- The bytes of an object as a session reads them: its own staged values over the applied ones (R432). -/
def State.sessBytes (s : State) (sess idx sub off n : Nat) (r : ObjRow) : List Byte :=
  let bs := s.appliedBytes sess idx sub off n r
  match s.groupOf sess with
  | some l => if r.acc = .rs then bs else l.foldl (overlayStaged idx sub off) bs
  | none => bs

/-- A dictionary read: abort code and data. A length of 0 reads a whole scalar, or a window to the end of the record at the
offset. -/
def State.readObj (s : State) (sess idx sub off len : Nat) : Nat × List Byte :=
  match layoutOf idx with
  | none => (abNoIndex, [])
  | some (lay, _) =>
    match rowOf lay sub with
    | none => (abNoSub, [])
    | some r =>
      if r.acc = .wo then (abWriteOnly, [])
      else if r.window then
        let n := if len = 0 then r.rsz - off % r.rsz else len
        if r.bytes < off + n ∨ r.bytes ≤ off then (abWindow, []) else (0, s.sessBytes sess idx sub off n r)
      else if off ≠ 0 ∨ (len ≠ 0 ∧ len ≠ r.size) then (abLength, [])
      else (0, s.sessBytes sess idx sub 0 r.size r)

/-! ### Checks of a write against the state -/

/-- The records that bytes of a window touch, with their new content: record number and whole record. -/
def touched (s : State) (idx sub off : Nat) (bs : List Byte) (r : ObjRow) : List (Nat × List Byte) :=
  if bs = [] then []
  else
    let first := off / r.rsz
    let last := (off + bs.length - 1) / r.rsz
    (List.range (last + 1 - first)).map fun i =>
      let k := first + i
      let old := s.viewBytes idx sub r.rsz (r.rsz * k) r.rsz
      (k, if r.rsz * k ≤ off then overlay old (off - r.rsz * k) bs else overlay old 0 (bs.drop (r.rsz * k - off)))

/-- A record set in the configuration alone, for the checks of a commit (R433 step 1). -/
def State.rawRecord (s : State) (idx sub rsz k : Nat) (r : List Byte) : State :=
  if idx = 0x1F01 then s.flashWrite k r else s.setWin (s.shownWindow idx) sub (rsz * k) r

/-- An object's value set in the configuration alone: an action changes none. A channel's protocol is in force (R154). -/
def State.rawScalar (s : State) (r : ObjRow) (idx sub v : Nat) : State :=
  let lay := (layInst idx).1
  if r.acc = .rw ∧ !isLocal idx then
    if (lay = 0x4000 ∨ lay = 0x14000) ∧ sub = 1 then (s.wr idx sub v).wrF idx 2 2 0 (fld v 2 0) else s.wr idx sub v
  else s

/-- The value and binding rules of one record on a state (`bind_` asks for the binding rules too). -/
def State.recordAbort (s : State) (sess idx sub k : Nat) (row : ObjRow) (r : List Byte) (bind_ : Bool) : Nat :=
  let old := s.viewBytes idx sub row.rsz (row.rsz * k) row.rsz
  firstAbort [recordAlone idx sub k r, s.recordState sess idx sub k old r,
    if bind_ then (s.rawRecord idx sub row.rsz k r).bindRecord idx k else 0]

/-- The value, state and binding rules of a scalar on a state. -/
def State.scalarAbort (s : State) (sess idx sub v : Nat) (row : ObjRow) (bind_ : Bool) : Nat :=
  if isLocal idx then scalarAlone row idx sub v
  else firstAbort [scalarAlone row idx sub v, s.scalarState row sess idx sub v,
    if bind_ then (s.rawScalar row idx sub v).bindScalar idx sub else 0]

/-! ### Applying -/

/-- An accepted scalar write; `cfg` is the start of a configuration action. -/
def State.setObj (cfg : State → State) (s : State) (sess : Nat) (row : ObjRow) (idx sub v : Nat) : State :=
  if idx = 0x8050 ∧ sub = 2 then (if v = 1 then cfg s else s)
  else if idx = 0x1101 then s.modOwn sess fun o => { o with cursor := v }
  else if idx = 0xA001 then (s.setTarget sess v).2
  else s.putScalar sess row idx sub v

/-- The records of a window write applied in ascending order; the first refused record ends it (R425). -/
def State.setRecords (s : State) (sess idx sub : Nat) (row : ObjRow) (bind_ : Bool) : List (Nat × List Byte) → Nat × State
  | [] => (0, s)
  | (k, r) :: rest =>
    let a := s.recordAbort sess idx sub k row r bind_
    if a ≠ 0 then (a, s) else (s.putRecord idx sub row.rsz k r).setRecords sess idx sub row bind_ rest

/-- A write of an existing object checked against the state and applied: the abort code. -/
def State.applyWrite (cfg : State → State) (s : State) (sess idx sub off : Nat) (bs : List Byte) (row : ObjRow) (bind_ : Bool) :
    Nat × State :=
  if row.window then s.setRecords sess idx sub row bind_ (touched s idx sub off bs row)
  else
    let v := leVal bs
    let a := firstAbort [s.scalarAbort sess idx sub v row bind_, if idx = 0xA001 then (s.setTarget sess v).1 else 0]
    if a ≠ 0 then (a, s) else (0, s.setObj cfg sess row idx sub v)

/-! ### Groups -/

/-- The bytes staged in a group. -/
def stagedBytes (l : List Staged) : Nat := (l.map fun e => e.bytes.length).sum

/-- A write staged in the session's open group (R432): its alone checks on the staged values, its lock, the limits. -/
def State.stage (s : State) (sess idx sub off : Nat) (bs : List Byte) (row : ObjRow) (l : List Staged) : Nat × State :=
  let t := l.foldl (fun (t : State) e =>
    if e.idx = idx ∧ e.sub = sub ∧ row.window then t.setWin (t.shownWindow idx) sub e.off e.bytes else t) s
  let alone :=
    if row.window then firstAbort ((touched t idx sub off bs row).map fun x => recordAlone idx sub x.1 x.2)
    else scalarAlone row idx sub (leVal bs)
  if alone ≠ 0 then (alone, s)
  else if !isLocal idx && s.lockedFor sess idx then (abLocked, s.bump 0x1120 2 1)
  else if 4096 ≤ l.length ∨ 1048576 < stagedBytes l + bs.length then (0x07000003, s)
  else
    let s := if isLocal idx then s else s.claimLock sess idx
    (0, s.withSess fun x => { x with groups := mapSet x.groups sess (l ++ [⟨idx, sub, off, bs⟩]) })

/-- An entry is an action: a write of 1 to an rs field. -/
def Staged.action (e : Staged) : Bool :=
  match objRow e.idx e.sub with
  | some r => r.acc == .rs && leVal e.bytes == 1
  | none => false

/-- An entry's failing object word (0x1130:06). -/
def Staged.word (e : Staged) : Nat := e.idx + 65536 * e.sub

/-- The records of an entry checked in order on the configuration, each applied before the next (R433 step 1). -/
def State.checkRecords (s : State) (sess idx sub : Nat) (row : ObjRow) : List (Nat × List Byte) → Nat × State
  | [] => (0, s)
  | (k, r) :: rest =>
    let a := s.recordAbort sess idx sub k row r false
    if a ≠ 0 then (a, s) else (s.rawRecord idx sub row.rsz k r).checkRecords sess idx sub row rest

/-- One entry checked against the configuration with the earlier entries applied; the configuration with it applied. -/
def State.checkEntry (s : State) (sess role : Nat) (e : Staged) : Nat × State :=
  let a := writeAbort role e.idx e.sub e.off e.bytes.length
  if a ≠ 0 then (a, s)
  else
    match objRow e.idx e.sub with
    | none => (abNoSub, s)
    | some row =>
      if row.window then s.checkRecords sess e.idx e.sub row (touched s e.idx e.sub e.off e.bytes row)
      else
        let v := leVal e.bytes
        let a := firstAbort [s.scalarAbort sess e.idx e.sub v row false, if e.idx = 0xA001 then (s.setTarget sess v).1 else 0]
        if a ≠ 0 then (a, s) else (0, s.rawScalar row e.idx e.sub v)

/-- The entries checked one by one: the first refusal, and the configuration with all of them applied. -/
def State.checkEntries (s : State) (sess role : Nat) : List Staged → Option (Nat × Staged) × State
  | [] => (none, s)
  | e :: rest =>
    let (a, t) := s.checkEntry sess role e
    if a ≠ 0 then (some (a, e), s) else t.checkEntries sess role rest

/-- The binding rules of an entry on the configuration with all entries applied. -/
def State.bindEntry (s : State) (e : Staged) : Nat :=
  match objRow e.idx e.sub with
  | none => 0
  | some row =>
    if row.window then
      if e.bytes = [] then 0
      else
        let first := e.off / row.rsz
        firstAbort ((List.range ((e.off + e.bytes.length - 1) / row.rsz + 1 - first)).map fun i => s.bindRecord e.idx (first + i))
    else if isLocal e.idx then 0
    else s.bindScalar e.idx e.sub

/-- The first entry whose binding rules refuse the whole. -/
def State.bindEntries (s : State) : List Staged → Option (Nat × Staged)
  | [] => none
  | e :: rest => if s.bindEntry e ≠ 0 then some (s.bindEntry e, e) else s.bindEntries rest

/-- Step 1 of a commit (R433): the refusal, if any. -/
def State.checkGroup (s : State) (sess role : Nat) (l : List Staged) : Option (Nat × Staged) :=
  match s.checkEntries sess role l with
  | (some x, _) => some x
  | (none, t) => t.bindEntries l

/-- Step 3 of a commit: entries applied in order; the first that the state then refuses is reported, and skipped. -/
def State.applyEntries (cfg : State → State) (s : State) (sess : Nat) (skipped : Option (Nat × Staged)) :
    List Staged → Option (Nat × Staged) × State
  | [] => (skipped, s)
  | e :: rest =>
    match objRow e.idx e.sub with
    | none => s.applyEntries cfg sess skipped rest
    | some row =>
      let (a, t) := s.applyWrite cfg sess e.idx e.sub e.off e.bytes row false
      t.applyEntries cfg sess (if a ≠ 0 ∧ skipped.isNone then some (a, e) else skipped) rest

/-- Steps 3 and 4 of a commit: the entries that are no actions, then the actions. -/
def State.runGroup (cfg : State → State) (s : State) (sess : Nat) (l : List Staged) : Option (Nat × Staged) × State :=
  let (sk, s) := s.applyEntries cfg sess none (l.filter fun e => !e.action)
  let (_, s) := s.applyEntries cfg sess none (l.filter Staged.action)
  (sk, s)

/-- A commit's refusal or a skipped entry told: subs 04 and 06 of the session's 0x1130 and event 0x0122. -/
def State.tellCommit (s : State) (sess part : Nat) (x : Nat × Staged) : State :=
  let s := s.modOwn sess fun o => { o with abort := x.1, failing := x.2.word }
  s.event 45 0x122 x.2.sub part sess

/-- A commit (R433): the abort code and the state. -/
def State.commit (cfg : State → State) (s : State) (sess role : Nat) : Nat × State :=
  match s.groupOf sess with
  | none => (0x07000001, s)
  | some l =>
    match s.checkGroup sess role l with
    | some x => (0x07000004, (s.dropGroup sess).tellCommit sess 0 x)
    | none =>
      let (sk, s) := s.runGroup cfg sess l
      let s := s.dropGroup sess
      match sk with
      | some x => (0x07000005, s.tellCommit sess 1 x)
      | none => (0, s)

/-- A write of 0x1130 (Table 17.5): 0 has no effect. -/
def State.groupWrite (cfg : State → State) (s : State) (sess role sub v : Nat) : Nat × State :=
  if v ≠ 1 then (0, s)
  else if sub = 1 then
    if (s.groupOf sess).isSome then (0x07000002, s)
    else (0, s.withSess fun x => { x with groups := mapSet x.groups sess [] })
  else if sub = 2 then s.commit cfg sess role
  else (0, s.dropGroup sess)

/-! ### Writing -/

/-- A dictionary write of a session acting in a role, after its path has let it in (R429, R432, R446): checks in the order existence,
access, role, length, range and reserved bits, lock, state and combination. DEDUCED, log entry 45. -/
def State.writeChecked (cfg : State → State) (s : State) (sess role idx sub off : Nat) (bs : List Byte) : Nat × State :=
  let a := writeAbort role idx sub off bs.length
  if a ≠ 0 then (a, s)
  else
    match objRow idx sub with
    | none => (abNoSub, s)
    | some row =>
      if idx = 0x1130 then
        (if scalarAlone row idx sub (leVal bs) ≠ 0 then (scalarAlone row idx sub (leVal bs), s)
         else s.groupWrite cfg sess role sub (leVal bs))
      else
        match s.groupOf sess with
        | some l => s.stage sess idx sub off bs row l
        | none =>
          let alone := if row.window then 0 else scalarAlone row idx sub (leVal bs)
          if alone ≠ 0 then (alone, s)
          else if !isLocal idx && s.lockedFor sess idx then (abLocked, s.bump 0x1120 2 1)
          else
            let t := if isLocal idx then s else s.takeLock sess idx
            let (a, t) := t.applyWrite cfg sess idx sub off bs row true
            if a = 0 then (0, t)
            else (a, { t with sess := { t.sess with locks := s.sess.locks } })

/-- A dictionary write of a session: an access-right abort counts towards sensor 6 (R278, R452), and a write of 0x8000:02 that is
refused is an illegal life-cycle request (R301). -/
def State.writeObj (cfg : State → State) (s : State) (sess role idx sub off : Nat) (bs : List Byte) : Nat × State :=
  let (a, s) := s.writeChecked cfg sess role idx sub off bs
  let s := if a = abRole then s.violation sess else s
  (a, if a ≠ 0 ∧ idx = 0x8000 ∧ sub = 2 then s.lifeIllegal else s)

end Sys2Proof.Machine
end

