-- ==== Sys2Proof/Machine/Image.lean ====
section
/-! DEFINITION. Configuration images (R309–R313, R478, R479): their layout, the checks, import as one transaction, export, and the
stored image applied at start-up. -/

namespace Sys2Proof.Machine

/-! ### Layout (Table 11.18) -/

/-- An entry of a body: the staged write, and whether it says it is of a table window. -/
structure ImgEntry where
  e : Staged
  window : Bool
  deriving DecidableEq, Repr

/-- An image as its bytes say. -/
structure Img where
  level : Nat
  signer : Nat
  seq : Nat
  digested : List Byte
  entries : List ImgEntry
  sign : List Byte
  cert : List Byte
  deriving DecidableEq, Repr

/-- The entries of a body; none where it is not a sequence of entries. -/
def imgEntries : Nat → List Byte → Option (List ImgEntry)
  | 0, bs => if bs = [] then some [] else none
  | n + 1, bs =>
    if bs = [] then some []
    else if bs.length < 12 ∨ 1 < byteAt bs 3 then none
    else
      let len := beAt bs 8 4
      let padded := (len + 3) / 4 * 4
      if bs.length < 12 + padded then none
      else
        match imgEntries n (bs.drop (12 + padded)) with
        | some l => some (⟨⟨beAt bs 0 2, byteAt bs 2, beAt bs 4 4, (bs.drop 12).take len⟩, byteAt bs 3 == 1⟩ :: l)
        | none => none

/-- The magic of an image, "KXCI". -/
def imgMagic : Nat := 0x4B584349

/-- An image read from a store of bytes: none where its format or its digest is wrong. -/
def readImage (get : Nat → Nat → List Byte) : Option Img :=
  let h := get 0 68
  let len := beAt h 16 4
  if beAt h 0 4 ≠ imgMagic ∨ byteAt h 4 ≠ 1 ∨ byteAt h 5 = 0 ∨ 7 < byteAt h 5 ∨ 1 < byteAt h 6 ∨ 4 < byteAt h 7
      ∨ 8388608 < 68 + len + 96 then none
  else
    let body := get 68 len
    if Config.sha384 body ≠ sliceZ h 20 48 then none
    else
      match imgEntries (len / 12 + 1) body with
      | none => none
      | some l =>
        let n := beVal (get (164 + len) 2)
        some ⟨byteAt h 5, byteAt h 7, beAt h 12 4, h, l, get (68 + len) 96,
          if byteAt h 7 = 4 then get (166 + len) (min n (8388608 - 166 - len)) else []⟩

/-! ### Checks (R310, R312) -/

/-- Anchor n as the part holds it: none while its record is empty. -/
def State.anchor (s : State) (n : Nat) : Option (List Byte) :=
  let b := s.winBytes 0x8052 0 (97 * n) 97
  if byteAt b 0 = 0 then none else some b

/-- The part holds an anchor. -/
def State.hasAnchor (s : State) : Bool := (List.range 4).any fun n => (s.anchor n).isSome

/-- The anchors with the entries of a body written over them. -/
def State.withAnchors (s : State) (l : List ImgEntry) : State :=
  s.forEach (l.filter fun x => x.e.idx == 0x8052) fun s x => s.setWin 0x8052 0 x.e.off (x.e.bytes.take (388 - x.e.off))

/-- The key an image must be signed with (R310): an anchor of the part, or for a part without one an anchor of the image's own body, or
the key of a certificate that chains to the device CA. -/
def State.signerKey (s : State) (i : Img) : Option (List Byte) :=
  if i.signer = 4 then (if s.hasAnchor then none else Config.chainKey i.cert)
  else if s.hasAnchor then s.anchor i.signer
  else (s.withAnchors i.entries).anchor i.signer

/-- The signature of an image is good. -/
def State.signatureGood (s : State) (i : Img) : Bool :=
  match s.signerKey i with
  | some k => Config.verify k (Config.sha384 i.digested) i.sign
  | none => false

/-- The level of an image is one that the part honours (R13, R19, 0x1030:01). -/
def State.levelOk (s : State) (i : Img) : Bool := i.level ≤ 7 && tb (s.rd 0x1030 1) i.level

/-- An entry that an import always refuses (R312): of 0x8000, 0x8001, 0x8010, 0x8012, 0x8030:04; or one whose flag does not fit the
object. -/
def ImgEntry.refused (x : ImgEntry) : Bool :=
  x.e.idx == 0x8000 || x.e.idx == 0x8001 || x.e.idx == 0x8010 || x.e.idx == 0x8012 || (x.e.idx == 0x8030 && x.e.sub == 4)
    || (x.e.idx == 0x8052 && (x.e.sub != 0 || 388 < x.e.off + x.e.bytes.length))
    || (x.e.idx == 0x8011 && (x.e.off % 32 != 0 || x.e.bytes.length % 32 != 0))
    || (match objRow x.e.idx x.e.sub with
        | some r => r.window != x.window
        | none => true)

/-- The key definitions of an entry for 0x8011, each a record of 32 bytes. -/
def keyDefs (x : ImgEntry) : List (List Byte) :=
  (List.range (x.e.bytes.length / 32)).map fun i => (x.e.bytes.drop (32 * i)).take 32

/-- A key definition applied as action 1 (R312): whether it was refused. A definition that the ledger already holds stands. -/
def State.defineKey (s : State) (r : List Byte) : Bool × State :=
  let h := recU r 0 2
  let c := s.slotOf h
  let kind := byteAt r 3 % 4
  let wide := tb (byteAt r 3) 2
  if byteAt r 2 ≠ 1 then (true, s)
  else if (configured? h).isSome ∧ c.source = 1 ∧ !c.revoked ∧ c.kind = kind ∧ (c.wide == wide) ∧ c.parent = recU r 8 2 ∧ sliceZ c.label 0 16 = sliceZ r 12 16 then
    (false, s)
  else
    let (a, s) := s.keyDefine h (recU r 8 2) kind wide (sliceZ r 12 16)
    (a.status != 0, s.forEach a.changed State.rederive)

/-- All key definitions applied in order; whether one was refused. -/
def State.defineKeys (s : State) : List (List Byte) → Bool × State
  | [] => (false, s)
  | r :: rest =>
    let (bad, t) := s.defineKey r
    if bad then (true, s) else t.defineKeys rest

/-- The entries of a body that are plain writes. -/
def plainEntries (l : List ImgEntry) : List Staged := (l.filter fun x => x.e.idx != 0x8011 && x.e.idx != 0x8052).map fun x => x.e

/-- Locks of other sessions refuse an entry of the group (R432). -/
def State.entryLocked (s : State) (l : List Staged) : Option (Nat × Staged) :=
  (l.find? fun e => s.lockedFor wardenSess e.idx).map fun e => (abLocked, e)

/-- Steps 3 and 4 of an image's group with its commands at 0x5010: the words staged before a start go with that start, so that each
start inserts its own entry. -/
def State.runImageActions (s : State) (words : List Staged) : List Staged → State
  | [] => s
  | e :: rest =>
    if e.action then
      let s := if e.idx = 0x5010 then s.forEach words fun s w => s.wr 0x5010 w.sub (leVal w.bytes) else s
      match objRow e.idx e.sub with
      | some row => ((s.applyWrite id wardenSess e.idx e.sub e.off e.bytes row false).2).runImageActions words rest
      | none => s.runImageActions words rest
    else s.runImageActions (if e.idx = 0x5010 then words ++ [e] else words) rest

/-- The group of an image run: entries, then actions. -/
def State.runImage (s : State) (l : List Staged) : Option (Nat × Staged) × State :=
  let (sk, s) := s.applyEntries id wardenSess none (l.filter fun e => !e.action)
  (sk, s.runImageActions [] l)

/-- The first check of R312 that an image fails, as a status of Table 11.19, on the state of an import: 0 where none does. The
sequence must be above `above`. -/
def State.imageStatus (s : State) (i : Option Img) (above : Nat → Bool) : Nat :=
  match i with
  | none => 7
  | some i => if !s.signatureGood i then 3 else if !s.levelOk i then 4 else if !above i.seq then 5 else 0

/-- The refusal of an image's body, if any. -/
def State.bodyRefusal (s : State) (l : List ImgEntry) : Option (Nat × Staged) :=
  match l.find? ImgEntry.refused with
  | some x => some (abRole, x.e)
  | none =>
    if (s.defineKeys ((l.filter fun x => x.e.idx == 0x8011).flatMap keyDefs)).1 then
      (l.find? fun x => x.e.idx == 0x8011).map fun x => (abState, x.e)
    else
      match s.entryLocked (plainEntries l) with
      | some x => some x
      | none => s.checkGroup wardenSess 3 (plainEntries l)

/-- An image's body applied as one transaction: the first entry skipped, if any. -/
def State.applyBody (s : State) (l : List ImgEntry) : Option (Nat × Staged) × State :=
  let s := (s.defineKeys ((l.filter fun x => x.e.idx == 0x8011).flatMap keyDefs)).2
  s.runImage (plainEntries l)

/-! ### Import and check (actions 2 and 3) -/

/-- The image in window 0x8051. -/
def State.windowImage (s : State) : Option Img := readImage fun off n => s.winBytes 0x8051 0 off n

/-- The image in a flash region (flash slots 2 and 3). -/
def State.regionImage (s : State) (k : Nat) : Option Img := readImage fun off n => s.flashBytes k off n

/-- A flash region begins with the magic. -/
def State.regionUsed (s : State) (k : Nat) : Bool := Config.storedImages && beVal (s.flashBytes k 0 4) == imgMagic

/-- The region that does not hold the image last applied (R479). -/
def State.spareRegion (s : State) : Nat :=
  let holds := match s.regionImage 2 with
    | some i => s.regionUsed 2 && i.seq == s.rd 0x8050 5
    | none => false
  if holds then 3 else 2

/-- The image of window 0x8051 written into the spare region (R479). -/
def State.storeImage (s : State) : State :=
  if !Config.storedImages then s
  else
    let n := 68 + beVal (s.winBytes 0x8051 0 16 4) + 96
    let n := if byteAt (s.winBytes 0x8051 0 7 1) 0 = 4 then n + 2 + beVal (s.winBytes 0x8051 0 n 2) else n
    s.withCtl fun c => { c with flash := mapSet c.flash s.spareRegion ⟨true, [], putBytes [] 0 (s.winBytes 0x8051 0 0 n)⟩ }

/-- A configuration action ends with a status. -/
def State.configEnd (s : State) (status : Nat) : State := (s.wr 0x8050 3 status).wr 0x8050 2 0

/-- An import (R312): checked, applied as one group of session 0x0300, the sequence and the anchors committed; event 0x00C5. -/
def State.configImport (s : State) : State :=
  let st := s.imageStatus s.windowImage fun q => s.rd 0x8050 5 < q
  match s.windowImage, st with
  | some i, 0 =>
    match s.bodyRefusal i.entries with
    | some x => ((s.tellCommit wardenSess 0 x).configEnd 6).event 45 0xC5 2 6 (i.seq % 65536)
    | none =>
      let s := s.storeImage
      let (sk, s) := s.applyBody i.entries
      let s := ((s.withAnchors i.entries).wr 0x8050 5 i.seq).countCommit 1 0
      let s := match sk with
        | some x => s.tellCommit wardenSess 1 x
        | none => s
      (s.configEnd 0).event 45 0xC5 2 0 (i.seq % 65536)
  | i, st => (s.configEnd st).event 45 0xC5 2 st ((i.map fun i => i.seq % 65536).getD 0)

/-- A check only (action 3): the status of an import, with nothing applied. -/
def State.configCheck (s : State) : State :=
  let st := s.imageStatus s.windowImage fun q => s.rd 0x8050 5 < q
  match s.windowImage, st with
  | some i, 0 => s.configEnd (if (s.bodyRefusal i.entries).isSome then 6 else 0)
  | _, st => s.configEnd st

/-- Start of a configuration action (0x8050:02); an export runs until its end. After a brown-out warning commands answer busy
(R294). -/
def State.configStart (s : State) : State :=
  let act := s.rdF 0x8050 1 2 0
  if s.key.brownOut then s.wr 0x8050 3 2
  else if act = 1 then ((s.wr 0x8050 2 1).wr 0x8050 3 1).withKey fun k => { k with exporting := some s.now }
  else if act = 2 then s.configImport
  else if act = 3 then s.configCheck
  else s

/-! ### Export (R313) -/

/-- The profile level of an index (Chapter 18). -/
def objLevel (idx : Nat) : Nat :=
  if 0xA000 ≤ idx ∧ idx < 0xB000 ∨ idx = 0x2031 ∨ idx = 0x2040 then 3
  else if (0x2070 ≤ idx ∧ idx ≤ 0x2090) ∨ (0x5600 ≤ idx ∧ idx ≤ 0x56FF) ∨ (0x6000 ≤ idx ∧ idx < 0x9000) then 2
  else 1

/-- The bytes of an entry. -/
def entryBytes (idx sub off : Nat) (window : Bool) (data : List Byte) : List Byte :=
  beBytes 2 idx ++ beBytes 1 sub ++ beBytes 1 window.toNat ++ beBytes 4 off ++ beBytes 4 data.length ++ data
    ++ fill ((4 - data.length % 4) % 4) 0

/-- An index whose values an export does not carry: actions, key material, tokens, images, firmware. -/
def notExported (idx : Nat) : Bool :=
  idx == 0x8000 || idx == 0x8001 || idx == 0x8010 || idx == 0x8012 || idx == 0x8050 || idx == 0x8051 || idx == 0x8052
    || idx == 0x1F00 || idx == 0x1F01 || idx == 0x5010

/-- The index under which a stored window is exported: the active half of the firewall under its shadow windows. -/
def State.exportIndex (s : State) (idx : Nat) : Nat :=
  if 0x10000 ≤ idx then (if (idx - 0x10000) / 4 = s.activeHalf then 0x5810 + idx % 4 else 0) else idx

/-- The records of writable windows that differ from their defaults: index, subindex, record. -/
def State.exportRecords (s : State) : List (Nat × Nat × Nat × Nat) :=
  (s.wins.filterMap fun c =>
    let idx := c.1 / 2 ^ 32
    let sub := c.1 / 2 ^ 24 % 256
    let at_ := s.exportIndex idx
    match objRow at_ sub with
    | some r => if r.acc = .rw ∧ r.window ∧ !notExported at_ then some (at_, sub, c.1 % 2 ^ 24 / r.rsz, r.rsz) else none
    | none => none).eraseDups

/-- The writable scalars that differ from their defaults, last first. -/
def State.exportScalars (s : State) : List (Nat × Nat × Nat) :=
  (s.regs.filterMap fun x =>
    let idx := x.1 / 256
    let sub := x.1 % 256
    match objRow idx sub with
    | some r => if r.acc = .rw ∧ !r.window ∧ !notExported idx then some (idx, sub, r.size) else none
    | none => none).reverse

/-- The commands at 0x5010 that insert a static entry again: its words, operation 1, start. -/
def routeEntryBytes (w : Nat) : List Byte :=
  ((List.range 5).flatMap fun k => entryBytes 0x5010 (k + 1) 0 false (leBytes 4 (w / 2 ^ (32 * k))))
    ++ entryBytes 0x5010 6 0 false (leBytes 4 1) ++ entryBytes 0x5010 7 0 false (leBytes 4 1)

/-- The body of an export. -/
def State.exportBody (s : State) : List Byte :=
  let anchors := (List.range 4).flatMap fun n => match s.anchor n with
    | some b => entryBytes 0x8052 0 (97 * n) true b
    | none => []
  let keys := (List.range 512).flatMap fun k =>
    if (s.pair k).cur.source = 1 ∧ !(s.pair k).cur.revoked then entryBytes 0x8011 0 (32 * (65 + k)) true (s.keyRecord (65 + k) false) else []
  let recs := s.exportRecords.flatMap fun x =>
    entryBytes x.1 x.2.1 (x.2.2.1 * x.2.2.2) true (s.winBytes (if 0x5810 ≤ x.1 ∧ x.1 ≤ 0x5812 then fwWindow s.activeHalf x.1 else x.1) x.2.1 (x.2.2.1 * x.2.2.2) x.2.2.2)
  let vals := s.exportScalars.flatMap fun x => entryBytes x.1 x.2.1 0 false (leBytes x.2.2 (s.rd x.1 x.2.1))
  let routes := (s.validSlots.filter fun k => entryStatic k.2.val).flatMap fun k => routeEntryBytes k.2.val
  anchors ++ keys ++ recs ++ vals ++ routes

/-- The highest level an export uses. -/
def State.exportLevel (s : State) : Nat :=
  ((s.exportRecords.map fun x => objLevel x.1) ++ s.exportScalars.map fun x => objLevel x.1).foldl max 1

/-- The end of an export: the image stands in 0x8051, signed by the DIK, and event 0x00C5 is raised. -/
def State.exportDone (s : State) : State :=
  match s.key.exporting with
  | none => s
  | some _ =>
    let body := s.exportBody
    let head := beBytes 4 imgMagic ++ beBytes 1 1 ++ beBytes 1 s.exportLevel ++ beBytes 1 1 ++ beBytes 1 4 ++ beBytes 4 Config.serial
      ++ beBytes 4 (s.rd 0x8050 5) ++ beBytes 4 body.length ++ sliceZ (Config.sha384 body) 0 48
    let image := head ++ body ++ sliceZ (Config.sign dikSeed (Config.sha384 head)) 0 96 ++ Config.certificateChain
    let s := (s.setWin 0x8051 0 0 image).withKey fun k => { k with exporting := none }
    ((s.wr 0x8050 4 (image.length % 2 ^ 24)).configEnd 0).event 45 0xC5 1 0 (s.rd 0x8050 5 % 65536)

/-- A dictionary write of a session (R446). -/
def State.write (s : State) (sess role idx sub off : Nat) (bs : List Byte) : Nat × State :=
  s.writeObj State.configStart sess role idx sub off bs

/-! ### The stored image at start-up (R255, R479) -/

/-- Records of the firewall's shadow windows are written into both halves at once, but for a half that failed its BIST (R255). -/
def State.loadHalves (s : State) (l : List Staged) : State :=
  s.forEach (l.filter fun e => 0x5810 ≤ e.idx && e.idx ≤ 0x5812) fun s e =>
    s.forEach ([0, 1].filter fun h => s.carState (19 + h) != stFailed) fun s h => s.setWin (fwWindow h e.idx) e.sub e.off e.bytes

/-- Insertion failures counted by bank (R110, 0x5004:01–08). -/
def State.insertFails (s : State) : Nat := ((List.range 8).map fun b => s.rd 0x5004 (b + 1)).sum

/-- The checks 1–3 of a stored image, as a status of Table 20.6. -/
def State.storedStatus (s : State) (k : Nat) : Nat :=
  match s.regionImage k with
  | none => 2
  | some i => if !s.signatureGood i then 3 else if !s.levelOk i then 4 else if i.seq ≠ s.rd 0x8050 5 then 5 else 0

/-- The sequence a region's header names. -/
def State.regionSeq (s : State) (k : Nat) : Nat := beVal (s.flashBytes k 12 4)

/-- The stored image applied (R479): the region whose sequence is that of the ledger and that passes. Route entries without a place
are counted in 0xF000:06; without an image that qualifies event 0x0142 tells why. -/
def State.applyStored (s : State) : State :=
  let used := [2, 3].filter s.regionUsed
  match used.find? fun k => s.storedStatus k == 0 with
  | some k =>
    match s.regionImage k with
    | none => s
    | some i =>
      let l := plainEntries i.entries
      let fails := s.insertFails
      match (s.loadHalves l).bodyRefusal (i.entries.filter fun x => !(0x5810 ≤ x.e.idx && x.e.idx ≤ 0x5812)) with
      | some _ => (s.wr 0xF000 3 6).event 45 0x142 6 0 (i.seq % 65536)
      | none =>
        let s := s.loadHalves l
        let (_, s) := s.applyBody (i.entries.filter fun x => !(0x5810 ≤ x.e.idx && x.e.idx ≤ 0x5812))
        let s := (s.wr 0xF000 3 0).wr 0xF000 4 i.seq
        s.wr 0xF000 6 (min 65535 (s.insertFails - fails))
  | none =>
    match used with
    | [] => (s.wr 0xF000 3 1).event 45 0x142 1 0 0
    | k :: r =>
      let best := r.foldl (fun b x => if s.regionSeq b < s.regionSeq x then x else b) k
      (s.wr 0xF000 3 (s.storedStatus best)).event 45 0x142 (s.storedStatus best) 0 (s.regionSeq best % 65536)

end Sys2Proof.Machine
end

