-- ==== Sys2Proof/Machine/Serve.lean ====
section
/-! DEFINITION. Serving a dictionary request: who asked (Table 17.2), the answer on its path (R405, R411, R435, R441), and the master's
forwarding to another device (R466–R469). -/

namespace Sys2Proof.Machine

/-! ### Requests -/

/-- A dictionary request: a read of `len` bytes (0 a whole scalar, or a window to the end of its record), or a write. -/
inductive Req
  | read (idx sub off len : Nat)
  | write (idx sub off : Nat) (data : List Byte)
  deriving DecidableEq, Repr

/-- The index a request names. -/
def Req.index : Req → Nat
  | .read i _ _ _ => i
  | .write i _ _ _ => i

/-- The request body of R441. -/
def Req.body : Req → List Byte
  | .read i b o n => beBytes 1 1 ++ beBytes 1 b ++ beBytes 2 i ++ beBytes 4 o ++ beBytes 2 n ++ fill 2 0
  | .write i b o d => beBytes 1 2 ++ beBytes 1 b ++ beBytes 2 i ++ beBytes 4 o ++ beBytes 2 d.length ++ fill 2 0 ++ d

/-- The response body of R441. -/
def responseBody (abort : Nat) (data : List Byte) : List Byte := beBytes 4 abort ++ beBytes 2 data.length ++ fill 2 0 ++ data

/-- A request carried out for a session in a role: abort code, data read, state. -/
def State.access (s : State) (sess role : Nat) : Req → Nat × List Byte × State
  | .read i b o n => let (a, d) := s.readObj sess i b o n; (a, d, s)
  | .write i b o d => let (a, t) := s.write sess role i b o d; (a, [], t)

/-- An object is a table window. -/
def isWindow (idx sub : Nat) : Bool :=
  match objRow idx sub with
  | some r => r.window
  | none => false

/-- The request a body of R441 spells, or the abort it earns at once. Operations 3–5 are writes of 1 to subs 01–03 of 0x1130. A read of
length 0 of a window reads nothing. -/
def parseReq (b : List Byte) : Sum Req Nat :=
  let op := byteAt b 0
  let sub := byteAt b 1
  let idx := beAt b 2 2
  let off := beAt b 4 4
  let n := beAt b 8 2
  if op = 1 then
    (if 1024 < n then .inr abLength
     else
       match (if n = 0 then (objRow idx sub).filter ObjRow.window else none) with
       | some r => .inr (if r.acc = .wo then abWriteOnly else abIf (r.bytes < off) abWindow)
       | none => .inl (.read idx sub off n))
  else if op = 2 then
    (if 1024 < n then .inr abLength
     else if b.length ≠ 12 + n then .inr 0x06000006
     else .inl (.write idx sub off ((b.drop 12).take n)))
  else if 3 ≤ op ∧ op ≤ 5 then .inl (.write 0x1130 (op - 2) 0 (leBytes 4 1))
  else .inr 0x06000001

/-- A request of R441 carried out for a session. -/
def State.accessBody (s : State) (sess role : Nat) (b : List Byte) : Nat × List Byte × State :=
  match parseReq b with
  | .inr a => (a, [], s)
  | .inl r => s.access sess role r

/-! ### The SDO server's frames (R435–R438) -/

/-- The session of a C channel. -/
def sdoSess (c : Nat) : Nat := 0x100 + c

/-- An SDO response on a channel. -/
def State.sdoSend (s : State) (c : Nat) (data : List Byte) : State := s.sendBuilt (64 + c) (s.rdF 0x1100 1 10 8) 1 (s.sdoFrame data)

/-- The multiplexer of an SDO frame. -/
def sdoMux (idx sub : Nat) : List Byte := leBytes 2 idx ++ leBytes 1 sub

/-- The transfer of a channel. -/
def State.sdo (s : State) (c : Nat) : Option SdoXfer := mapGet s.sess.sdo c

/-- A transfer set. -/
def State.setSdo (s : State) (c : Nat) (x : SdoXfer) : State := s.withSess fun t => { t with sdo := mapSet t.sdo c { x with at_ := s.now } }

/-- A channel's transfer ends: the lock that a download took goes back to what it was (R429). -/
def State.endSdo (s : State) (c : Nat) : State :=
  match s.sdo c with
  | none => s
  | some x =>
    let s := s.withSess fun t => { t with sdo := mapDel t.sdo c }
    if x.kind % 2 = 1 ∨ s.claimed x.idx ∨ ((s.groupOf (sdoSess c)).getD []).any (fun e => e.idx == x.idx) then s
    else
      match x.prior with
      | some t => if s.now < t then s.withSess fun y => { y with locks := mapSet y.locks x.idx ⟨sdoSess c, some t⟩ } else s.freeLock x.idx
      | none => s.freeLock x.idx

/-- An SDO abort sent and counted; the transfer is discarded (R436, R437). -/
def State.sdoAbort (s : State) (c idx sub code : Nat) : State :=
  ((s.endSdo c).bump 0x1100 7 1).sdoSend c (leBytes 1 0x80 ++ sdoMux idx sub ++ leBytes 4 code)

/-- The cursor of a session moves on by the bytes transferred with a window (R438). -/
def State.moveCursor (s : State) (sess idx sub n : Nat) : State :=
  if isWindow idx sub then s.modOwn sess fun o => { o with cursor := (o.cursor + n) % 2 ^ 32 } else s

/-- An upload begins with the data read (R436): expedited up to 4 bytes, else segmented. -/
def State.sdoUpload (s : State) (c idx sub : Nat) (d : List Byte) : State :=
  if 1 ≤ d.length ∧ d.length ≤ 4 then
    (s.moveCursor (sdoSess c) idx sub d.length).sdoSend c (leBytes 1 (0x43 + 4 * (4 - d.length)) ++ sdoMux idx sub ++ d)
  else
    (s.setSdo c ⟨1, idx, sub, d, some d.length, 0, 0, 0, false, 0, [], 0, none⟩).sdoSend c
      (leBytes 1 0x41 ++ sdoMux idx sub ++ leBytes 4 d.length)

/-- A block upload begins: it awaits the client's start. -/
def State.sdoBlockUpload (s : State) (c idx sub blk : Nat) (crc : Bool) (d : List Byte) : State :=
  (s.setSdo c ⟨3, idx, sub, d, some d.length, 0, 0, blk, crc, 2, d, 0, none⟩).sdoSend c
    (leBytes 1 0xC6 ++ sdoMux idx sub ++ leBytes 4 d.length)

/-- The answer to an SDO service. -/
def State.sdoAnswer (s : State) (c kind idx sub n toggle : Nat) (crc : Bool) (abort : Nat) (data : List Byte) : State :=
  if abort ≠ 0 then s.sdoAbort c idx sub abort
  else if kind = 3 then s.sdoUpload c idx sub data
  else if kind = 4 then s.sdoBlockUpload c idx sub n crc data
  else
    let s := s.moveCursor (sdoSess c) idx sub n
    if kind = 0 then s.sdoSend c (leBytes 1 0x60 ++ sdoMux idx sub)
    else if kind = 1 then s.sdoSend c (leBytes 1 (0x20 + 16 * toggle))
    else s.sdoSend c (leBytes 1 0xA1)

/-! ### Dalmoly answers (R439–R443) -/

/-- The trailer of a message under a 256-bit session key. -/
def dalTrailer (bits key : Nat) (m : List Byte) : List Byte := beBytes 16 (Config.cmac bits key m % 2 ^ 128)

/-- A Dalmoly message sent in answer to a request's frame on its ingress port, in the class of 0x1110:02. -/
def State.dalSend (s : State) (port : Nat) (frame msg : List Byte) : State :=
  s.sendBuilt port (s.rdF 0x1110 2 19 17) 0 (udpAnswer frame msg)

/-- A processed request of a session answered: the answer is kept, and L moves on (R442). -/
def State.dalAnswer (s : State) (n seq port : Nat) (frame : List Byte) (typ : Nat) (body : List Byte) : State :=
  match mapGet s.sess.dal n with
  | none => s
  | some d =>
    let m := dalmolyHeader typ n seq body.length 0 ++ body
    let s := s.withSess fun x => { x with dal := mapSet x.dal n { d with last := seq, answer := m, at_ := s.now } }
    s.dalSend port frame (m ++ dalTrailer 256 d.key m)

/-! ### Host completions (R405, R406, R411) -/

/-- A slot of BAR0: value and abort code. -/
def slotBytes (abort : Nat) (data : List Byte) : List Byte :=
  if abort = 0 then sliceZ data 0 8 ++ fill 8 0 else fill 8 0xFF ++ leBytes 4 abort ++ fill 4 0

/-- The epoch that a deferred record shows for the warden: 0 while it does not answer. -/
def State.wardenEpoch (s : State) : Nat := if s.present 45 then s.epoch 45 else 0

/-- A held read answered: its completion; an answer to a read no longer held is late (R409). -/
def State.slotAnswer (s : State) (tag off len abort : Nat) (data : List Byte) : State :=
  if s.host.reads.any fun r => r.tag == tag then
    (s.emit (.completion tag (s.slotPart off len (slotBytes abort data)))).withHost fun h =>
      { h with reads := h.reads.filter fun r => r.tag != tag }
  else s.bump 0x20A0 8 1

/-- A translation window's record field (Table 16.4). -/
def State.tw (s : State) (w off n : Nat) : Nat := s.winLe 0x20A1 0 (16 * w + off) n

/-- The lanes of a translation window (R412). -/
def State.windowLanes (s : State) (w off : Nat) (bs : List Byte) : List Byte := if tb (s.tw w 1 1) 0 then laneSwap off bs else bs

/-- A read through a window answered: its data, or 0xFF with a record of the refusal (R411, R420). -/
def State.windowAnswer (s : State) (tag w off len abort : Nat) (data : List Byte) : State :=
  if abort = 0 then s.emit (.completion tag (s.windowLanes w (off % 2 ^ 24) data))
  else
    let reason := if abort = abWindow then 3 else 1
    (s.deferred (16 + w) s.wardenEpoch (reason + 128) off 0 (if reason = 1 then abort else 0) 45).emit (.completion tag (fill len 0xFF))

/-- A posted write answered: a refusal is recorded (R407, R411). -/
def State.postedAnswer (s : State) (window off seq abort : Nat) : State :=
  if abort = 0 then s
  else if abort = abWindow then s.deferred window s.wardenEpoch 3 off seq 0 45
  else s.deferred window s.wardenEpoch 1 off seq abort 45

/-! ### The answer on its path -/

/-- An access answered to whoever asked. -/
def State.reply (s : State) (who : Asker) (abort : Nat) (data : List Byte) : State :=
  match who with
  | .plain sess => s.emit (.answer sess abort data)
  | .dalmoly n seq port frame => s.dalAnswer n seq port frame 4 (responseBody abort data)
  | .sdo c kind idx sub n toggle crc => s.sdoAnswer c kind idx sub n toggle crc abort data
  | .slot tag off len => s.slotAnswer tag off len abort data
  | .window tag w off len => s.windowAnswer tag w off len abort data
  | .posted window off seq => s.postedAnswer window off seq abort

/-! ### Forwarding by the master (R466–R468) -/

/-- The forwarding slot of a session that has a remote target; only the master forwards. -/
def State.forwardSlot (s : State) (sess : Nat) : Option (Nat × FwdSlot) :=
  let v := mapGetD s.sess.targets sess 0
  if tb v 3 ∧ fld v 2 0 ≠ s.ownDevice ∧ s.consist.master = some s.ownDevice then s.consist.slots.find? fun k => k.2.sess == sess
  else none

/-- A slot set. -/
def State.setSlotFwd (s : State) (k : Nat) (f : FwdSlot) : State := s.withConsist fun c => { c with slots := mapSet c.slots k f }

/-- The number of a forwarding session (R467). -/
def fwdSess (device slot : Nat) : Nat := 0x400 + 0x20 * device + slot

/-- A request sent to the target of a slot (R468). Its sequence is one above the last that the target answered to this slot. A target
that the path table cannot reach gets nothing. -/
def State.forwardReq (s : State) (k : Nat) (f : FwdSlot) (who : Asker) (r : Req) : State :=
  let seq := (mapGetD s.consist.answered (8 * k + f.target) 0 + 1) % 2 ^ 32
  let s := s.setSlotFwd k { f with seq := seq, sentAt := some s.now, asker := who }
  match s.pathTo f.target with
  | some (p, _) =>
    if s.inConsist then
      s.sendMessage 4 f.target [(p, 0)] (beBytes 2 (fwdSess s.ownDevice k) ++ beBytes 2 s.term ++ beBytes 4 seq ++ r.body)
    else s
  | none => s

/-- A request of a session served (R427, R466): carried out here, or sent to the target. Busy while the warden does not serve, and
while a slot's request has no answer. -/
def State.serve (s : State) (sess : Nat) (who : Asker) (r : Req) : State :=
  match s.roleOf sess with
  | none => s
  | some role =>
    if !s.startup.measured || !s.present 45 then s.reply who 0x05000001 []
    else
      match (if 0xA000 ≤ r.index ∧ r.index ≤ 0xA0FF then none else s.forwardSlot sess) with
      | some (k, f) => if f.sentAt.isSome then s.reply who 0x05000001 [] else s.forwardReq k f who r
      | none => let (a, d, t) := s.access sess role r; t.reply who a d

/-- A management answer (R468): to the requester of the slot, or late. -/
def State.manageAnswer (s : State) (src : Nat) (body : List Byte) : State :=
  let n := beAt body 0 2
  let k := n % 32
  let good : Option FwdSlot :=
    match mapGet s.consist.slots k with
    | some f => if n = fwdSess s.ownDevice k ∧ f.target = src ∧ f.sentAt.isSome ∧ f.seq = beAt body 4 4 then some f else none
    | none => none
  match good with
  | none => s.bump 0xA002 4 1
  | some f =>
    let s := (s.setSlotFwd k { f with sentAt := none }).withConsist fun c => { c with answered := mapSet c.answered (8 * k + f.target) f.seq }
    s.reply f.asker (beAt body 8 4) ((body.drop 16).take (beAt body 12 2))

/-- The forward timeout of a slot has passed without an answer (R468). -/
def State.forwardTimeout (s : State) (k : Nat) : State :=
  match mapGet s.consist.slots k with
  | none => s
  | some f =>
    match f.sentAt with
    | none => s
    | some t =>
      if t + s.rdF 0xA000 3 25 16 * 1000000 ≤ s.now then (s.setSlotFwd k { f with sentAt := none }).reply f.asker 0x05000001 [] else s

/-- A management request at its target (R469): steps 2–4 of R442 on the sequence of the forwarding session. A sequence out of order is
discarded and counted in 0x1110:05. -/
def State.manageServe (s : State) (src : Nat) (body : List Byte) : State :=
  let n := beAt body 0 2
  let seq := beAt body 4 4
  let old := s.consist.sessions.find? fun x => x.sess == n
  let last := match old with
    | some x => x.last
    | none => 0
  let send := fun (s : State) (m : List Byte) =>
    match s.pathTo src with
    | some (p, _) => s.sendMessage 5 src [(p, 0)] m
    | none => s
  if seq = (last + 1) % 2 ^ 32 then
    let (a, d, s) := s.accessBody n 2 (body.drop 8)
    let m := body.take 8 ++ responseBody a d
    let s := s.withConsist fun c => { c with sessions := (c.sessions.filter fun x => x.sess != n) ++ [⟨n, seq, m⟩] }
    send s m
  else if seq = last ∧ old.isSome then send s ((old.map fun x => x.answer).getD [])
  else s.bump 0x1110 5 1

/-- A target accepts a management request (R469): a drawbar with MACsec receive enabled and Strict, or the waiver; a term not below its
own; a session number of its sender. -/
def State.manageAccepts (s : State) (p src : Nat) (body : List Byte) : Bool :=
  ((s.macsecRx p && tb (s.winB 0x8110 0 (24 * p)) 4) || s.rdB 0xA000 1 16) && s.term ≤ beAt body 2 2
    && fwdSess src 0 ≤ beAt body 0 2 && beAt body 0 2 ≤ fwdSess src 31

/-- A management request arrives (R469). While the warden does not serve, an accepted request stays without an answer. -/
def State.manageRequest (s : State) (p src : Nat) (body : List Byte) : State :=
  if !s.manageAccepts p src body then s.bump 0xA002 5 1
  else if s.startup.measured && s.present 45 then s.manageServe src body
  else s

end Sys2Proof.Machine
end

