-- ==== Sys2Proof/Machine/Ingress.lean ====
section
/-! DEFINITION. How frames enter: the items of the ingress queues (R65–R68), the checks at a frame's end (R125, R507), early release
(R71–R74), MAC control frames (R134), whole frames of channels and of H, drawbar frames (R456–R458), and the delivery queues (R69, R70). -/

namespace Sys2Proof.Machine

/-! ### Items (R65–R68) -/

/-- Item words an ingress queue holds: 32 stages, of four words on B0–B11 and H. -/
def stageRoom (p : Nat) : Nat := 32 * (if p ≤ 11 ∨ p = 44 then 4 else 1)

/-- An item word (Table 3.1). -/
def itemWord (typ payload : Nat) : BitVec 36 := BitVec.ofNat 36 (typ * 2 ^ 32 + payload % 2 ^ 32)

/-- The word that a read of an empty queue returns. -/
def noItem : BitVec 36 := BitVec.ofNat 36 (2 ^ 35)

/-- The items of a frame in stored form (R68): Start, Stamp, Meta where it has one, Data, End. -/
def frameItems (f : Frame) : List (BitVec 36) :=
  let n := f.bytes.length
  [itemWord 1 (n * 2 ^ 18 + f.domain * 2 ^ 12 + f.cls * 2 ^ 9 + f.ingress), itemWord 2 f.stamp]
    ++ (match f.metaWord with
        | some m => [itemWord 4 m]
        | none => [])
    ++ ((List.range (ceilDiv n 4)).map fun k => itemWord 0 (leVal (sliceZ f.bytes (4 * k) 4)))
    ++ [itemWord 3 (n * 2 ^ 18 + f.status * 2 ^ 8)]

/-- The ingress side of a port. -/
def State.ingressQ (s : State) (p : Nat) : IngressQ := mapGetD s.buf.ingress p ⟨[], none, false⟩

/-- The ingress side of a port changed. -/
def State.modIngress (s : State) (p : Nat) (f : IngressQ → IngressQ) : State :=
  s.withBuf fun b => { b with ingress := mapPut ⟨[], none, false⟩ b.ingress p (f (mapGetD b.ingress p ⟨[], none, false⟩)) }

/-- The frame in reception given up: what is left of it is ignored. -/
def State.giveUp (s : State) (p id : Nat) : State := (s.eraseFrame id).modIngress p fun q => { q with cur := none, skip := true }

/-- A frame that cannot enter or finds no cell, not yet released: refused with reason 0, counted at its port (R74, Table 2.7). -/
def State.countOverflow (s : State) (p : Nat) (f : Frame) : State :=
  let s := s.refuse f p 0xFF 0
  if isEth p then s.portCount p 0x0E 1 else if isC p || isL p then s.chCount (p - 64) 0x1D 1 else s

/-- A frame begins on a port; one that was still in reception is given up. `ns` is the time of its start-of-frame. A drawbar's maximum
leaves its header out (R456). -/
def State.startFrame (s : State) (p dom cls ns : Nat) : State :=
  let s := match (s.ingressQ p).cur with
    | some id => s.giveUp p id
    | none => s
  let limit := if !isEth p then 16383 else if s.drawbar p then s.portMax p + 32 else s.portMax p
  let (id, s) := s.newFrame { blankFrame p dom cls ns with limit := limit, frac := s.fracNow }
  s.modIngress p fun q => { q with cur := some id, skip := false }

/-- A released frame ended with a status before its end (R73, Table 5.4): the rest is ignored. -/
def State.endEarly (s : State) (p id status : Nat) : State :=
  ((s.modFrame id fun f => { f with whole := true, status := if f.status = 0 then status else f.status }).closeTx id).modIngress p
    fun q => { q with cur := none, skip := true }

/-- Bytes of the frame in reception stored (R71, R73, R125): beyond the maximum, and without a cell, it is given up or ends bad. -/
def State.storeBytes (s : State) (p id : Nat) (bs : List Byte) : State :=
  match s.frame? id with
  | none => s
  | some f =>
    if f.limit < f.rxLen + bs.length then
      let s := s.portCount p 7 1
      if f.released then ((s.appendBytes id (bs.take (f.limit - f.rxLen))).1).endEarly p id 2 else s.giveUp p id
    else
      let (t, ok) := s.appendBytes id bs
      if ok then t
      else if f.released then t.endEarly p id 2
      else (s.countOverflow p f).giveUp p id

/-- A data item: its four bytes, of which the End tells how many of the last item count. So one whose first byte lies beyond the maximum
shows an oversize frame, and the FCS check runs one item behind. -/
def State.storeWord (s : State) (p id w : Nat) : State :=
  match s.frame? id with
  | none => s
  | some f =>
    let bs := leBytes 4 w
    if f.limit ≤ f.rxLen then s.storeBytes p id bs
    else
      (s.storeBytes p id (bs.take (f.limit - f.rxLen))).modFrame id fun g =>
        { g with crc := crcRun f.crc f.word, word := bs, rxLen := f.rxLen + 4 }

/-! ### Errors met by reads -/

/-- Words with uncorrectable errors that no read has met yet: slots of the route store and rules of the firewall. -/
def State.meetErrs (s : State) (e : ReadErrs) : State :=
  (s.withRoute fun r => { r with bad := r.bad ++ e.slots.map fun x => (x.1, x.2.toNat) }).withFw fun f =>
    { f with latent := f.latent ++ e.rules }

/-- An uncorrectable error in a frame's cell, link or descriptor. -/
def State.meetCell (s : State) (id : Nat) (e : ReadErrs) : State :=
  match e.cell with
  | some (i, k) => s.markPoison id i k.val
  | none => s

/-! ### Drawbar frames (R456–R458) -/

/-- The distance of a roll call's sender by the drawbar it arrived on: a neighbour is one hop away; farther senders' distance is one
that the frame does not tell: what was held, else a free value of 2–7. DEDUCED, log entry 35. -/
def State.rollDistance (s : State) (p : Nat) (v : DrawView) : Nat × State :=
  if v.sender = v.src then (1, s)
  else
    match mapGet s.consist.dist (p * 8 + v.src) with
    | some h => if 2 ≤ h then (h, s) else (2, s)
    | none => let (x, s) := s.draw; (2 + x % 6, s)

/-- A frame of mode 3, 4 or 5 taken by the consist logic, and passed on where it is for others. -/
def State.drawMessage (s : State) (p id : Nat) (v : DrawView) (dist : List (Nat × Nat)) : State :=
  let s := s.eraseFrame id
  if !s.consistOn then s.bump 0xA002 3 1
  else if v.mode = 3 then (s.rollCall v.part dist).passOn p 3 v.src 0 v.hops v.part
  else if v.dst = s.ownDevice then (if v.mode = 4 then s.manageRequest p v.src v.part else s.manageAnswer v.src v.part)
  else
    match s.pathTo v.dst with
    | some (q, _) =>
      if s.inConsist then
        let n := s.buf.nextId
        (s.sendMessage v.mode v.dst [(q, 0)] v.part).modFrame n fun f => { f with draw := f.draw.map fun d => { d with src := v.src } }
      else s
    | none => s

/-- A frame received on a drawbar, by its mode (Table 19.2). It names the sender as the neighbour. -/
def State.drawArrive (s : State) (p id : Nat) : State :=
  match s.frame? id with
  | none => s
  | some f =>
    let v := drawView (f.bytes.take (f.bytes.length - 4))
    if v.bad then s.drawDiscard id
    else
      let s := s.withConsist fun c => { c with neighbour := mapSet c.neighbour p v.sender }
      if v.mode = 0 then s.drawLookup id v
      else if v.mode = 1 then s.drawUnicast p id v
      else if v.mode = 2 then s.drawFlood p id v
      else if v.mode = 3 then
        let (h, s) := s.rollDistance p v
        s.drawMessage p id v [(p, h)]
      else s.drawMessage p id v []

/-! ### Release of a whole frame -/

/-- A whole frame goes on: on a drawbar by its mode once it is verified, else to the lookups. -/
def State.arrive (s : State) (p id : Nat) : State :=
  if s.drawbar p then
    let (go, s) := s.secureStep id
    if go then s.drawArrive p id else s
  else s.releaseFrame id

/-- A whole frame enters from a channel, H or the control internal port: into its ingress queue while the ingress group is away and it
fits there; else into cells, or it is refused with reason 0. The answer tells whether it found its place. -/
def State.enterWhole (s : State) (f : Frame) (bs : List Byte) : Bool × State :=
  let p := f.ingress
  if !s.present (ingressGroup p) then
    let its := frameItems { f with bytes := bs }
    if (s.ingressQ p).items.length + its.length ≤ stageRoom p then (true, s.modIngress p fun q => { q with items := q.items ++ its })
    else (false, s.countOverflow p { f with bytes := bs })
  else
    let (id, t) := s.newFrame f
    let (t, ok) := t.appendBytes id bs
    if ok then (true, (t.modFrame id fun f => { f with whole := true, released := true }).arrive p id)
    else (false, s.countOverflow p { f with bytes := bs })

/-! ### MAC control frames (R134) -/

/-- A received pause: counted, and obeyed where enabled and not held off. -/
def State.pauseReceived (s : State) (p quanta : Nat) : State :=
  let s := s.portCount p 0x0B 1
  let held : Bool := match s.holdOf p 8 with
    | some t => (s.now < t : Bool)
    | none => false
  if s.rdB (ethObj p 3) 1 0 && p ≤ 27 && !held then s.setStop p 8 quanta else s

/-- A received PFC frame: a stop for each class it names. -/
def State.pfcReceived (s : State) (p classes : Nat) (quanta : List Nat) : State :=
  let s := s.portCount p 0x0C 1
  if !s.rdB (ethObj p 3) 1 1 || 27 < p then s
  else
    s.forEach (maskList 8 classes) fun s c =>
      let held : Bool := match s.holdOf p c with
        | some t => (s.now < t : Bool)
        | none => false
      if held then s else s.setStop p c (quanta.getD c 0)

/-- A MAC control frame: pause, PFC or another opcode, consumed (R134). -/
def State.macControl (s : State) (p : Nat) (bs : List Byte) : State :=
  let op := beAt bs 14 2
  if op = 1 then s.pauseReceived p (beAt bs 16 2)
  else if op = 0x0101 then s.pfcReceived p (beAt bs 16 2 % 256) ((List.range 8).map fun c => beAt bs (18 + 2 * c) 2)
  else s.portCount p 0x0D 1

/-! ### The end of a frame on an Ethernet port (R125, R129, R507) -/

/-- A good frame is held whole because store-and-forward is forced: it would have been released before its end (sub 0x3D). -/
def State.heldWhole (s : State) (p : Nat) (f : Frame) : Bool :=
  s.forced p && s.configured p != 0 && max (s.configured p) (s.pdyn p).adapted * 192 < f.rxLen

/-- A good frame received joins the run of frames without an underrun, which matters while the threshold is adapted (R132). -/
def State.cleanFrame (s : State) (p : Nat) : State :=
  if (s.pdyn p).adapted = 0 then s else s.modPdyn p fun d => { d with cleanRun := d.cleanRun + 1 }

/-- The stamp kept of a PTP event message received (R326): where receive MACsec is on, of a frame that passes unverified; a verified one is
stamped when its check has ended. -/
def State.stampRx (s : State) (p : Nat) (f : Frame) : State :=
  let passes := !s.macsecRx p || match s.secReceive p f.bytes with
    | .pass => true
    | .passCounted => true
    | .drop _ => false
    | .verify _ _ => false
  if passes then s.ptpStamp p false f.bytes (f.age * 65536 + f.frac) else s

/-- A good, unreleased frame at its end: consumed as MAC control, or marked, counted and released. -/
def State.endGood (s : State) (p id : Nat) (f : Frame) : State :=
  if beAt f.bytes 12 2 = 0x8808 then (s.macControl p f.bytes).eraseFrame id
  else
    let m := f.metaWord.getD 0xFF
    let s := (s.countRx p f.bytes f.rxLen (tb m 8)).cleanFrame p
    let s := if tb m 9 then s.portCount p 0x0F 1 else s
    let s := if s.heldWhole p f then s.portCount p 0x3D 1 else s
    let s := s.stampRx p f
    (s.modFrame id fun f => { f with whole := true, released := true }).arrive p id

/-- The frame in reception on an Ethernet port ends with a status of its End item (0 good, 1 FCS, 2 truncated, 3 poisoned) and perhaps a
PCS error. -/
def State.endEth (s : State) (p id status : Nat) (pcs : Bool) : State :=
  let s := s.modIngress p fun q => { q with cur := none }
  match s.frame? id with
  | none => s
  | some f =>
    let fcsBad : Bool := status == 1 || (status == 0 && f.crc != crcGood)
    if !f.released && f.rxLen ≤ 63 then (s.portCount p 6 1).eraseFrame id
    else if pcs || status == 2 || status == 3 || fcsBad then
      let s := if pcs || status == 2 then s.portCount p 9 1 else if fcsBad then s.portCount p 8 1 else s
      let st := if status ≠ 0 then status else 1
      if f.released then (s.modFrame id fun f => { f with whole := true, status := if f.status = 0 then st else f.status }).closeTx id
      else s.eraseFrame id
    else if f.released then
      let m := f.metaWord.getD 0xFF
      let s := (s.countRx p f.bytes f.rxLen (tb m 8)).cleanFrame p
      let s := if tb m 9 then s.portCount p 0x0F 1 else s
      let s := s.stampRx p f
      (s.modFrame id fun f => { f with
        whole := true, bytes := if f.edited then withFcs (f.bytes.take (f.bytes.length - 4)) else f.bytes }).closeTx id
    else s.endGood p id f

/-- An End item: the bytes of the last data item that count, then the end of the frame. A length that the data items do not fit ends it
as truncated. -/
def State.takeEnd (s : State) (p id len status : Nat) : State :=
  match s.frame? id with
  | none => s.modIngress p fun q => { q with cur := none }
  | some f =>
    let extra := f.rxLen - len
    let stored := min 4 (f.limit - (f.rxLen - 4))
    if f.limit < len then
      let s := s.portCount p 7 1
      (if f.released then s.endEarly p id 2 else s.eraseFrame id).modIngress p fun q => { q with cur := none, skip := false }
    else
      let fits : Bool := (f.word.isEmpty && f.rxLen == len) || (len ≤ f.rxLen && extra ≤ 3)
      let s := s.modFrame id fun f => { f with
        crc := crcRun f.crc (f.word.take (4 - extra)), word := [], rxLen := if fits then len else f.rxLen,
        bytes := f.bytes.take (f.bytes.length - (stored - (4 - extra))) }
      let status := if fits then status else 2
      if isEth p then s.endEth p id status false
      else
        let s := s.modIngress p fun q => { q with cur := none }
        if status ≠ 0 then s.eraseFrame id
        else (s.modFrame id fun f => { f with whole := true, released := true }).arrive p id

/-- The ingress group takes an item from a port's queue. -/
def State.takeItem (s : State) (p : Nat) (w : BitVec 36) : State :=
  let v := w.toNat
  let typ := v / 2 ^ 32 % 8
  let x := v % 2 ^ 32
  if 2 ^ 35 ≤ v ∨ 5 ≤ typ then s
  else if typ = 1 then s.startFrame p (fld x 17 12) (fld x 11 9) s.nsNow
  else
    match (s.ingressQ p).cur with
    | none => if typ = 3 then s.modIngress p fun q => { q with skip := false } else s
    | some id =>
      if typ = 2 then
        let back := (compact s.nsNow + 2 ^ 32 - x) % 2 ^ 32
        s.modFrame id fun f => { f with stamp := x, age := if 44 ≤ p ∧ p ≤ 46 then f.age else s.nsNow - back }
      else if typ = 4 then s.modFrame id fun f => { f with metaWord := some x }
      else if typ = 3 then s.takeEnd p id (x / 2 ^ 18) (fld x 15 8 % 4)
      else s.storeWord p id x

/-- The items that wait in a port's queue are taken once its ingress group is back. -/
def State.drainItems (s : State) (p : Nat) : State :=
  if !s.present (ingressGroup p) then s
  else
    let its := (s.ingressQ p).items
    s.modIngress p (fun q => { q with items := [] }) |>.forEach its fun s w => s.takeItem p w

/-- The items of a queue before its last Start item. -/
def beforeLastStart (l : List (BitVec 36)) : List (BitVec 36) :=
  (l.reverse.dropWhile fun w => w.toNat / 2 ^ 32 != 1).drop 1 |>.reverse

/-- An item that finds every stage full (R74): the frame it belongs to cannot enter, and is refused. -/
def State.itemLost (s : State) (p : Nat) : State :=
  let its := (s.ingressQ p).items
  let x := match its.reverse.find? fun w => w.toNat / 2 ^ 32 == 1 with
    | some w => w.toNat % 2 ^ 32
    | none => 0
  (s.countOverflow p (blankFrame p (fld x 17 12) (fld x 11 9) s.nsNow)).modIngress p fun q =>
    { q with items := beforeLastStart q.items, skip := true }

/-- A producer writes an item (R66): it falls to the head and is taken by the ingress group, or waits while that is away. -/
def State.putItem (s : State) (p : Nat) (w : BitVec 36) : State :=
  if s.present (ingressGroup p) then s.takeItem p w
  else
    let start : Bool := w.toNat / 2 ^ 32 == 1
    let q := s.ingressQ p
    if q.skip && !start then s
    else if stageRoom p ≤ q.items.length then s.itemLost p
    else s.modIngress p fun q => { q with items := q.items ++ [w], skip := false }

/-! ### Early release (R71–R73) -/

/-- The frame in reception on a port is released to lookup, or held to its end where the reserve is short; a frame that an ingress flush
waits for completes whole (R75). -/
def State.releaseEarly (s : State) (p : Nat) : State :=
  match (s.ingressQ p).cur with
  | none => s
  | some id =>
    match s.frame? id with
    | none => s
    | some f =>
      let thr := s.effThreshold p
      let flushed := match s.buf.flush with
        | some w => w.port == p && !w.delivery
        | none => false
      if f.released || f.held || thr == 0 || flushed || completeCells f < thr then s
      else if s.freeCells < reserveCells then (s.bump (ethObj p 8) 3 1).modFrame id fun f => { f with held := true }
      else (s.portCount p 0x3C 1).modFrame id (fun f => { f with released := true, early := true }) |>.releaseFrame id

/-! ### Delivery queues (R69, R70) -/

/-- A delivery queue. -/
def State.deliveryQ (s : State) (p : Nat) : DeliveryQ := mapGetD s.buf.delivery p ⟨[], [], none⟩

/-- A delivery queue changed. -/
def State.setDelivery (s : State) (p : Nat) (q : DeliveryQ) : State := s.withBuf fun b => { b with delivery := mapPut ⟨[], [], none⟩ b.delivery p q }

/-- The next frame that a delivery queue can stream: one found poisoned is discarded, never delivered (R79). -/
def State.nextDelivery (s : State) (p : Nat) : List Nat → State
  | [] => s
  | id :: rest =>
    match s.frame? id with
    | none => (s.setDelivery p ⟨rest, [], none⟩).nextDelivery p rest
    | some f =>
      if f.poison.isSome then ((s.setDelivery p ⟨rest, [], none⟩).discardPoisoned id).nextDelivery p rest
      else s.setDelivery p ⟨rest, frameItems f, some id⟩

/-- The item in stage 0 popped (R69): the word, and the state. A frame's copy has left once its End item is popped. -/
def State.popItem (s : State) (p : Nat) : BitVec 36 × State :=
  let s := if (s.deliveryQ p).stream = [] then s.nextDelivery p (s.deliveryQ p).frames else s
  let q := s.deliveryQ p
  match q.stream with
  | [] => (noItem, s)
  | w :: [] =>
    let s := s.setDelivery p { q with stream := [], current := none }
    (w, match q.current with
      | some id => (s.probeEnd id).dropRef id p
      | none => s)
  | w :: rest => (w, s.setDelivery p { q with stream := rest })

/-- Up to `n` items popped in order; the units left when the queue empties read not-valid. -/
def State.popItems (s : State) (p : Nat) : Nat → List (BitVec 36) × State
  | 0 => ([], s)
  | n + 1 =>
    let (w, s) := s.popItem p
    let (l, s) := s.popItems p n
    (w :: l, s)

/-- The head of queue `n` of H or of port 46 is selected: checked, and presented in the delivery queue (R70). -/
def State.deliver (s : State) (p n : Nat) : State :=
  match (s.ptm p).q n with
  | [] => s
  | i :: _ =>
    let (gone, s) := s.startCheck p n i.frame
    if gone then s.takeWaiting p
    else
      let q := s.deliveryQ p
      (((s.popHead p n).setDelivery p { q with frames := q.frames ++ [i.frame] }).probeOut i.frame p).takeWaiting p

end Sys2Proof.Machine
end

