-- ==== Sys2Proof/Machine/HostIf.lean ====
section
/-! DEFINITION. The host's accesses (Chapter 16): BAR0 slots (R404–R409), translation windows (R410–R415), the queue window (R416),
doorbells and frame rings (R417–R419), resets (R403). -/

namespace Sys2Proof.Machine

/-! ### BAR0 (R404–R409) -/

/-- The object of a BAR0 offset. -/
def slotObject (off : Nat) : Nat × Nat := (off / 4096, off % 4096 / 16)

/-- A read that no path can serve completes at once with 0xFF in every byte, with a record (R404, R406, R411). -/
def State.badRead (s : State) (window tag off len reason target : Nat) : State :=
  (s.deferred window 0 (reason + 128) off 0 0 target).emit (.completion tag (fill len 0xFF))

/-- A BAR0 read (R406) of a part of one slot. A table window's slot shows its record count and size. `answered` tells whether the warden
answers at once; else the read is held. No more than 64 are held (R402). -/
def State.bar0Read (s : State) (off len tag : Nat) (answered : Bool) : State :=
  if len = 0 ∨ 16 < off % 16 + len then s.badRead 0 tag off len 5 0xFF
  else
    let r : HeldRead := ⟨tag, off, len, s.now⟩
    if !s.present 45 || !s.startup.measured then s.discardRead r
    else if s.blocked hostSess then s.emit (.completion tag (s.slotPart off len busySlot))
    else if 64 ≤ s.host.reads.length then s
    else
      let s := s.withHost fun h => { h with reads := h.reads ++ [r] }
      let (idx, sub) := slotObject off
      if !answered then s
      else
        match (objRow idx sub).filter ObjRow.window with
        | some row => s.slotAnswer tag off len 0 (leBytes 4 row.recs ++ leBytes 4 row.rsz)
        | none => s.serve hostSess (.slot tag off len) (.read idx sub 0 0)

/-- The target offset of a host byte (R412). -/
def laneTarget (inv : Bool) (o : Nat) : Nat := if inv then o / 4 * 4 + (3 - o % 4) else o

/-- The bytes that an access's data puts at target offsets `base` to `base + n - 1`, where it covers just these. -/
def laneData (inv : Bool) (off : Nat) (data : List Byte) (base n : Nat) : Option (List Byte) :=
  if data.length ≠ n then none
  else
    let at_ := (List.range n).map fun k => (laneTarget inv (off + k), byteAt data k)
    let l := (List.range n).map fun t => mapGet at_ (base + t)
    if l.all Option.isSome then some (l.map fun x => BitVec.ofNat 8 (x.getD 0)) else none

/-- A posted write is accepted: counted, with its sequence; read-ahead data is discarded (R414). -/
def State.acceptPosted (s : State) : Nat × State :=
  let s := s.dropPrefetches.bump 0x20A0 6 1
  (s.rd 0x20A0 6, s)

/-- A posted BAR0 write (R405, R407). -/
def State.bar0Write (s : State) (off : Nat) (data : List Byte) (poisoned : Bool) : State :=
  let (seq, s) := s.acceptPosted
  let (idx, sub) := slotObject off
  let base := off / 16 * 16
  let row := objRow idx sub
  let n := match row with
    | some r => if r.window then data.length else r.size
    | none => data.length
  if poisoned then s.deferred 0 0 4 off seq 0 0xFF
  else if !s.present 45 || !s.startup.measured then s.deferred 0 0 2 off seq 0 45
  else if (row.filter ObjRow.window).isSome then s.deferred 0 s.wardenEpoch 1 base seq abReadOnly 45
  else
    match laneData (s.rdB 0x20A0 3 0) off data base n with
    | none => s.deferred 0 0 5 off seq 0 0xFF
    | some bs =>
      if s.blocked hostSess then s.deferred 0 s.wardenEpoch 1 off seq 0x05000001 45
      else s.serve hostSess (.posted 0 off seq) (.write idx sub 0 bs)

/-- The delayed-read timer of a held read has passed (R409); `late` tells whether its answer still comes, to be discarded and counted. -/
def State.readTimeout (s : State) (tag : Nat) (late : Bool) : State :=
  match s.host.reads.find? fun r => r.tag == tag && r.since + s.rdF 0x20A0 2 13 0 * 1000 ≤ s.now with
  | none => s
  | some r =>
    let s := s.discardRead r
    if late then s.bump 0x20A0 8 1 else s

/-! ### The queue window (R416) -/

/-- `len` bytes read from pop addresses at an offset: items as 64-bit values, or not-valid in every unit where the size or alignment is
wrong, which is counted. -/
def State.popRead (s : State) (off len : Nat) : List Byte × State :=
  let units := ceilDiv len 8
  let empty := sliceZ ((List.range units).flatMap fun _ => leBytes 8 noItem.toNat) 0 len
  if !s.rdB 0x20A0 3 2 then (empty, s)
  else if off % 8 ≠ 0 ∨ len % 8 ≠ 0 ∨ len = 0 then (empty, s.bump 0x20A0 7 1)
  else
    let (l, s) := s.popItems 44 units
    (l.flatMap fun w => leBytes 8 w.toNat, s)

/-- A read of H's queue window in BAR2, with the lanes of 0x20A0:03 [1]. -/
def State.queueRead (s : State) (off len tag : Nat) : State :=
  let (bs, s) := s.popRead off len
  s.emit (.completion tag (if s.rdB 0x20A0 3 1 then laneSwap off bs else bs))

/-! ### Translation windows (R410–R415) -/

/-- Bytes of the target of a window: 0 where it names no table window. -/
def State.twBytes (s : State) (w : Nat) : Nat :=
  match (objRow (s.tw w 2 2) (s.tw w 4 1)).filter ObjRow.window with
  | some r => r.bytes
  | none => 0

/-- Read-ahead after a read at offset `o` of a prefetchable window (R414): to the next 512-byte boundary beyond o + 512. -/
def State.fetchAhead (s : State) (w o : Nat) : State :=
  let top := min (s.twBytes w) ((o + 512) / 512 * 512 + 512)
  if !tb (s.tw w 1 1) 1 ∨ top ≤ o ∨ (s.forwardSlot hostSess).isSome then s
  else
    match s.readObj hostSess (s.tw w 2 2) (s.tw w 4 1) o (top - o) with
    | (0, bs) => s.withHost fun h => { h with prefetch := mapSet h.prefetch w ⟨o, bs, s.now⟩ }
    | _ => s

/-- A window's prefetch buffer that holds a range of its offsets. -/
def State.prefetched (s : State) (w o n : Nat) : Option (List Byte) :=
  match mapGet s.host.prefetch w with
  | some b => if s.now < b.at_ + 10000 ∧ b.off ≤ o ∧ o + n ≤ b.off + b.data.length then some ((b.data.drop (o - b.off)).take n) else none
  | none => none

/-- A read through a window onto a table. A data-invariant one reads whole groups of four bytes; the lanes pick the bytes asked for. -/
def State.tableRead (s : State) (w o len tag : Nat) : State :=
  let off := w * 2 ^ 24 + o
  let inv := tb (s.tw w 1 1) 0
  let ts := (List.range len).map fun k => laneTarget inv (o + k)
  let lo := ts.foldl min o
  let n := ts.foldl max o + 1 - lo
  let pick := fun (bs : List Byte) => ts.map fun t => bs.getD (t - lo) 0
  if len = 0 ∨ s.twBytes w < lo + n then s.badRead (16 + w) tag off len 3 45
  else
    match s.prefetched w lo n with
    | some bs => s.emit (.completion tag (pick bs))
    | none =>
      let s := s.dropPrefetch w
      let req := Req.read (s.tw w 2 2) (s.tw w 4 1) lo n
      if (s.forwardSlot hostSess).isSome then s.serve hostSess (.window tag w off len) req
      else
        match s.readObj hostSess (s.tw w 2 2) (s.tw w 4 1) lo n with
        | (0, bs) => (s.emit (.completion tag (pick bs))).fetchAhead w lo
        | (a, _) => s.windowAnswer tag w off len a []

/-- The writes an access through a window makes: a data-invariant one that begins or ends inside a group of four bytes writes that group's
part by itself. -/
def windowWrites (inv : Bool) (o : Nat) (data : List Byte) : List (Nat × List Byte) :=
  if !inv ∨ (o % 4 = 0 ∧ data.length % 4 = 0) then [(o, if inv then laneSwap o data else data)]
  else
    let ends := o + data.length
    (List.range (ceilDiv ends 4 - o / 4)).map fun g =>
      let a := max o (4 * (o / 4 + g))
      let b := min ends (4 * (o / 4 + g) + 4)
      (laneTarget true (b - 1), ((data.drop (a - o)).take (b - a)).reverse)

/-- An access through translation window `w` at an offset (R411). -/
def State.windowAccess (s : State) (w o : Nat) (write : Bool) (len tag : Nat) (data : List Byte) (poisoned : Bool) : State :=
  let kind := s.tw w 0 1
  let off := w * 2 ^ 24 + o
  let away : Bool := !s.present 45 || !s.startup.measured
  if write then
    let (seq, s) := s.acceptPosted
    if poisoned then s.deferred (16 + w) 0 4 off seq 0 0xFF
    else if kind ≠ 1 ∨ s.twBytes w < o + data.length then s.deferred (16 + w) 0 3 off seq 0 45
    else if away then s.deferred (16 + w) 0 2 off seq 0 45
    else if s.blocked hostSess then s.deferred (16 + w) s.wardenEpoch 1 off seq 0x05000001 45
    else
      s.forEach (windowWrites (tb (s.tw w 1 1) 0) o data) fun s x =>
        s.serve hostSess (.posted (16 + w) off seq) (.write (s.tw w 2 2) (s.tw w 4 1) x.1 x.2)
  else if kind = 2 then
    let (bs, s) := s.popRead o len
    s.emit (.completion tag (s.windowLanes w o bs))
  else if kind ≠ 1 then s.badRead (16 + w) tag off len 3 0xFF
  else if away then s.badRead (16 + w) tag off len 2 45
  else if s.blocked hostSess then (s.deferred (16 + w) s.wardenEpoch (1 + 128) off 0 0x05000001 45).emit (.completion tag (fill len 0xFF))
  else s.tableRead w o len tag

/-- A prefetch buffer past its age is discarded (R414). -/
def State.agePrefetch (s : State) (w : Nat) : State :=
  match mapGet s.host.prefetch w with
  | some b => if b.at_ + 10000 ≤ s.now then s.dropPrefetch w else s
  | none => s

/-! ### Doorbells and rings (R417–R419) -/

/-- A ring's size in descriptors. -/
def State.ringSize (s : State) (r : Nat) : Nat := max 1 (s.ring r 8 2)

/-- The index of the ring's next descriptor: indices count modulo the ring's size. -/
def State.ringIndex (s : State) (r : Nat) : Nat := mapGetD s.host.done r 0

/-- The host has posted a descriptor that the bridge has not completed, on an enabled ring. -/
def State.ringPosted (s : State) (r : Nat) : Bool :=
  tb s.host.enabled r && mapGetD s.host.bells r 0 % s.ringSize r != s.ringIndex r

/-- The ring goes on to its next descriptor. -/
def State.ringNext (s : State) (r : Nat) : State :=
  let n := (s.ringIndex r + 1) % s.ringSize r
  s.withHost fun h => { h with done := mapSet h.done r n }

/-- The rings run: the bridge is PRESENT, its link up, the part forwards and receives through rings. -/
def State.ringsRun (s : State) : Bool := s.present 41 && s.rdB 0x20A0 1 7 && s.startup.forwarding && !s.frozen

/-- A stored form is consistent with its own header (R155, R184), an Ethernet frame without its FCS has 60–9,212 bytes. -/
def storedOk (kind : Nat) (bs : List Byte) : Bool :=
  if kind = 0 then 60 ≤ bs.length && bs.length ≤ 9212
  else if kind = 1 then
    let c := parseCan bs
    bs.length == 16 + c.len && canLenOk c && (c.xlf || (if c.fdf then fdLengths.getD c.dlc 0 == c.len else dlcFits c))
  else if kind = 2 then bs.length == 8 + byteAt bs 2 && 1 ≤ byteAt bs 2 && byteAt bs 2 ≤ 8
  else bs.length == 8 + beAt bs 4 2 && 1 ≤ beAt bs 4 2 && beAt bs 4 2 ≤ 2048

/-- A host-to-part descriptor processed (R418): the frame taken or the reason it was not, its status, the consumer index, the message. -/
def State.hostFrame (s : State) (r len kind domain : Nat) (data : List Byte) (dmaOk : Bool) : State :=
  if !s.ringsRun || !s.ringPosted r then s
  else
    let bs := sliceZ data 0 len
    let (status, s) :=
      if 3 < kind then (5, s)
      else if !storedOk kind bs then (2, s)
      else if !dmaOk then (3, s)
      else
        let f := { blankFrame 44 domain r s.nsNow with kind := kind, limit := 16383 }
        let (ok, s) := s.enterWhole f (if kind = 0 then withFcs bs else bs)
        (if ok then 1 else 4, s)
    let at_ := s.ring r 0 8 + 16 * s.ringIndex r + 12
    let s := (s.emit (.hostWrite at_ (leBytes 1 status))).ringNext r
    (s.emit (.hostWrite (s.ring r 16 8) (leBytes 4 (s.ringIndex r)))).ringMessage r

/-- What of a frame crosses H: an Ethernet frame without its FCS (R417). -/
def hostForm (f : Frame) : List Byte := if f.kind = 0 then f.bytes.take (f.bytes.length - 4) else f.bytes

/-- The part of a descriptor of Table R419 that the bridge writes, bytes 8–31. -/
def hostDescriptor (f : Frame) : List Byte :=
  leBytes 2 (hostForm f).length ++ leBytes 1 f.kind ++ leBytes 1 f.domain ++ leBytes 1 f.ingress ++ leBytes 1 f.cls ++ leBytes 2 1
    ++ leBytes 4 f.stamp ++ leBytes 4 (f.metaWord.getD 0) ++ fill 8 0

/-- The frame that the traffic manager selects for H goes into the buffer at `addr`, where it is of the ring's class (R419). -/
def State.partToHost (s : State) (c addr : Nat) : State :=
  let r := 8 + c
  if !s.ringsRun || s.rdB 0x20A0 3 2 || !s.ringPosted r || s.wake.seqAt.isSome then s
  else
    match (s.takeKinds 44).selectQueue 44 with
    | (none, _) => s
    | (some n, t) =>
      if t.queueClass 44 n ≠ c then s
      else
        match (t.ptm 44).q n with
        | [] => s
        | i :: _ =>
          let (gone, t) := t.startCheck 44 n i.frame
          if gone then t.takeWaiting 44
          else
            match t.frame? i.frame with
            | none => t
            | some f =>
              let t := (t.popHead 44 n).probeOut i.frame 44
              let t := (t.emit (.hostWrite addr (hostForm f))).emit (.hostWrite (t.ring r 0 8 + 32 * t.ringIndex r + 8) (hostDescriptor f))
              ((((t.ringNext r).ringMessage r).probeEnd i.frame).dropRef i.frame 44).takeWaiting 44

/-! ### Resets (R403) -/

/-- A reset of the bridge from the link side: 1 PCIE_PERST_N, 2 Function Level Reset. Held reads get no completion. -/
def State.bridgeReset (s : State) (kind : Nat) : State :=
  let n := s.host.reads.length
  let s := (s.endReads false).configDefaults.clearRings.endHostSession
  let s := if kind = 1 then s.wrF 0x20A0 9 31 16 ((s.rdF 0x20A0 9 31 16 + 1) % 65536) else s.wrF 0x20A0 9 15 0 ((s.rdF 0x20A0 9 15 0 + 1) % 65536)
  let s := if kind = 1 ∧ s.rdB 0x20A0 1 7 then s.pcieLink false 0 0 else s
  (s.event 41 0x111 kind 0 n).sideVector 2

end Sys2Proof.Machine
end

