-- ==== Sys2Proof/Machine/Start.lean ====
section
/-! DEFINITION. The end of start-up (R480, R482), and what goes by itself around every command: time passes before it, and once its
effect stands the waiting parts of the units go on. -/

namespace Sys2Proof.Machine

/-- The stored image is applied, but at a wake, whose configuration is held in retention (R471). -/
def State.startImage (s : State) : State := if s.rdF 0xF000 2 6 4 = 2 then s else s.applyStored

/-- Domains start (R480): those that a latched wake names AWAKE, every other one with NM enabled READY. A domain whose local request
is set stays AWAKE. -/
def State.startDomains (s : State) : State :=
  if !s.present 43 then s
  else
    (s.forEach ((List.range 64).filter s.nmOn) fun s d =>
      (if s.localReq d then s else s.setDom d 2).modDom d fun x => { x with alive := s.now }).tellWakes

/-- The forwarding point (R480): the BIST groups have ended, the firmware is measured and no carriage is between states. -/
def State.forwardingPoint (s : State) : State :=
  if s.startup.forwarding || !s.startup.measured || s.startup.groups < 6 || s.mode != .run || !s.present 45 then s
  else
    let s := s.startImage
    let us := (s.now - s.startup.begun) / 1000
    let failed := s.rdF 0xF000 5 7 0
    let s := { s with startup := { s.startup with forwarding := true, forwardAt := s.now } }
    let s := if s.gwOn then s.gwEnable else s
    let s := match s.startup.failedBank with
      | some n => s.event n 0x32 n 10 s.sparesLeft
      | none => s
    let s := (s.wr 0xF000 1 (us % 2 ^ 32)).event 0x80 0x140 (s.rdF 0xF000 2 6 4) failed (min 65535 (us / 10))
    let s := s.startDomains
    if s.frozen then s.freeze else s

/-- Start-up completes 100 ms after the forwarding point (R482). -/
def State.startupEnds (s : State) : State :=
  if s.startup.forwarding && s.mode == .run && !s.rdB 0xF000 2 3 && s.startup.forwardAt + 100000000 ≤ s.now then
    (s.wrB 0xF000 2 3 true).event 0x80 0x141 0 0 0
  else s

/-! ### Around a command -/

/-- A refusal notice (R236, Table 8.21): the Ethernet frame of its entries, padded to 64 bytes, sent on the configured port and class. -/
def State.sendNotice (s : State) (es : List (List Byte)) : State :=
  let p := s.rdF 0x6A31 2 7 0
  let cls := s.rdF 0x6A31 2 10 8
  let vlan := s.winBytes 0x6A31 4 12 2
  let body := s.winBytes 0x6A31 4 0 12 ++ (if vlan = beBytes 2 0xFFFF then [] else beBytes 2 0x8100 ++ vlan) ++ beBytes 2 0x88B5
    ++ beBytes 1 1 ++ beBytes 1 es.length ++ beBytes 2 s.tm.noticeSeq ++ beBytes 1 (s.ownDevice % 8) ++ fill 3 0 ++ es.flatten
  let s := (s.bump 0x6A31 5 1).withTm fun t =>
    { t with noticeSeq := (t.noticeSeq + 1) % 65536, noticesThisSecond := t.noticesThisSecond + 1 }
  let f0 : Frame := { blankFrame 46 0 cls s.nsNow with refs := [p], stamp := compact s.nsNow, notice := true }
  match s.buildFrame f0 (finishEth body) with
  | some (id, s') => s'.enterPlain p id true
  | none => s.refuse f0 46 0xFF 0

/-- The notices that are ready are sent. -/
def State.sendNotices (s : State) : State :=
  let l := s.tm.noticeReady
  (s.withTm fun t => { t with noticeReady := [] }).forEach l State.sendNotice

/-- What the units do by themselves once a command's effect stands: mode writes whose frame has ended, items that wait in ingress
queues, a flush whose frame has ended, hand-over to the ciphers, the shadow's entries, notices, wakes, and the least free count. DESIGN CHOICE, log entry 4.
-/
def State.settle (s : State) : State :=
  if s.mode != .run && s.mode != .sleep then s
  else
    let s := s.forEach ((s.eth.ports.filter fun x => x.2.oldMode.isSome).map Prod.fst) State.takeMode
    let s := s.forEach ((s.buf.ingress.filter fun x => !x.2.items.isEmpty).map Prod.fst) State.drainItems
    let s := s.flushDue.handOvers.startOps
    let s := if s.route.lost = [] then s else s.reinsert s.route.lost.length
    let s := s.sendNotices.trafficWakes.clearLatch
    if s.startup.forwarding then s.noteLeast else s

/-- Vector 1 announces new records of the event ring (Table 16.6). -/
def State.tellRing (s : State) (old : Nat) : State := if s.rd 0x1201 1 = old then s else s.sideVector 1

/-- A command in any power state: `dt` ns pass, its effect follows, and the units go on. Nothing reaches a part that AOSC has left
(R348). DEDUCED, log entry 3. -/
def goAny (dt : Nat) (f : State → State) (s : State) : Out :=
  let s := s.advance dt
  .next (if s.mode = .stopped then s else (f s).settle.tellRing (s.rd 0x1201 1))

/-- A command of a unit that runs in RUN and SLEEP. -/
def goOn (dt : Nat) (f : State → State) (s : State) : Out :=
  goAny dt (fun s => if s.mode = .run ∨ s.mode = .sleep then f s else s) s

/-- A command of a unit that runs only in RUN. -/
def goRun (dt : Nat) (f : State → State) (s : State) : Out :=
  goAny dt (fun s => if s.mode = .run then f s else s) s

/-- A command at a port that the part has (R7). DEDUCED, log entry 8. -/
def goPort (dt p : Nat) (f : State → State) (s : State) : Out :=
  if portOk p then goRun dt f s else .refused .illFormed

/-- A dictionary write of a session, served as every request is. -/
def State.asks (s : State) (sess idx sub off : Nat) (bs : List Byte) : State := s.serve sess (.plain sess) (.write idx sub off bs)

/-- The bytes of a value of a scalar, in the object's own length. -/
def scalarBytes (idx sub v : Nat) : List Byte :=
  match objRow idx sub with
  | some r => leBytes r.size v
  | none => leBytes 4 v

/-- A scalar written by a session. -/
def State.puts (s : State) (sess idx sub v : Nat) : State := s.asks sess idx sub 0 (scalarBytes idx sub v)

/-- A command that is a write of a scalar. -/
def goWrite (dt sess idx sub v : Nat) (s : State) : Out := goOn dt (fun s => s.puts sess idx sub v) s

end Sys2Proof.Machine
end

