-- ==== Sys2Proof/Machine/CmdFabric.lean ====
section
/-! DEFINITION. The commands of Chapters 1 and 2: the dictionary's plain writes, headroom, the latency probe, seconds, couplings and the
carriage controller. -/

namespace Sys2Proof.Machine

/-- Dictionary writes of a session made one after the other, each as index, subindex, offset and bytes, as far as each is answered
without an abort. -/
def State.asksAll (s : State) (sess : Nat) : List (Nat × Nat × Nat × List Byte) → State
  | [] => s
  | [(i, a, o, b)] => s.asks sess i a o b
  | (i, a, o, b) :: rest =>
    let t := s.asks sess i a o b
    match t.outputs with
    | .answer x 0 _ :: _ => if x = sess ∧ s.outputs.length < t.outputs.length then t.asksAll sess rest else t
    | _ => t

/-- Scalars written one after the other by a session. -/
def State.putsAll (s : State) (sess : Nat) (l : List (Nat × Nat × Nat)) : State :=
  s.asksAll sess (l.map fun x => (x.1, x.2.1, 0, scalarBytes x.1 x.2.1 x.2.2))

/-- A write of a dictionary object that has no row of its own. -/
def execDictionaryWrite (dt sess idx sub off : Nat) (data : List Byte) (s : State) : Out :=
  goOn dt (fun s => s.asks sess idx sub off data) s

/-! ### Headroom (R27–R29) -/

/-- The headroom of a capacity and an offered load, both in 16.16: 8.8 fixed point, saturating; all ones for no load. -/
def headroom (cap load : Nat) : Nat := if load = 0 then 0xFFFF else min 0xFFFF (cap * 256 / load)

/-- Event 0x0021 of a carriage whose headroom lies below the low threshold (R29), armed again by 16 consecutive windows at or above it.
The data field carries the headroom. -/
def State.headroomLow (s : State) (n h : Nat) : State :=
  if h < s.rdF 0x2010 2 15 0 then
    let s := if (mapGet s.car.hrDisarmed n).isSome then s else s.event n 0x21 (h % 256) (h / 256) 0
    s.withCar fun c => { c with hrDisarmed := mapSet c.hrDisarmed n 0 }
  else
    match mapGet s.car.hrDisarmed n with
    | none => s
    | some k => s.withCar fun c => { c with hrDisarmed := if 15 ≤ k then mapDel c.hrDisarmed n else mapSet c.hrDisarmed n (k + 1) }

/-- One fabric carriage at the end of a window: nothing is shown for one that was not PRESENT for all of it. -/
def State.carriageWindow (s : State) (meas : List (Nat × Nat × Nat)) (n : Nat) : State :=
  if !s.present n || s.car.winStart < mapGetD s.car.presentAt n 0 then s
  else
    let m := ((meas.find? fun x => x.1 == n).map Prod.snd).getD (0, 0)
    let h := headroom m.1 m.2
    let s := ((s.wr (0x2100 + n) 1 (h + 65536)).wr (0x2100 + n) 2 (min h (s.rd (0x2100 + n) 2))).wr (0x2100 + n) 3 (m.1 % 2 ^ 32)
    s.headroomLow n h

/-- The fabric carriage of the lowest headroom with it (R28). -/
def State.lowestHeadroom (s : State) : Nat × Nat :=
  (List.range 32).foldl (fun b n =>
    let v := if s.present n then s.rd (0x2100 + n) 1 else 0
    if tb v 16 ∧ v % 65536 < b.1 then (v % 65536, n) else b) (0xFFFF, 0)

/-- A measurement window ends; then admission and the trim decide by the whole-fabric headroom. -/
def State.headroomWindow (s : State) (meas : List (Nat × Nat × Nat)) : State :=
  if s.now < s.car.winStart + s.rd 0x2010 1 * 1000 then s
  else
    let s := s.forEach (List.range 32) fun s n => s.carriageWindow meas n
    let b := s.lowestHeadroom
    let s := (s.wr 0x2010 3 (b.1 + 65536 * b.2)).withCar fun c => { c with winStart := s.now }
    (s.sheddingWindow b.1).trimStep b.1

/-- The end of a measurement window; `meas` gives carriages their capacity and offered load in 16.16. -/
def execHeadroomWindowEnd (dt : Nat) (meas : List (Nat × Nat × Nat)) (s : State) : Out := goRun dt (fun s => s.headroomWindow meas) s

/-- A write of 1 to 0x2010:04. -/
def execResetMinima (dt sess : Nat) (s : State) : Out := goWrite dt sess 0x2010 4 1 s

/-- A write of 1 to 0xF010:01. -/
def execLatencyProbeArm (dt sess : Nat) (s : State) : Out := goWrite dt sess 0xF010 1 1 s

/-- A whole second begins. -/
def execWholeSecondStart (dt : Nat) (s : State) : Out := goOn dt State.secondStart s

/-! ### Couplings (R36–R40) -/

/-- A request arrives on a coupling. -/
def execCouplingRequest (dt : Nat) (requester target : Fin 47) (tag : Byte) (op : CouplingOp) (s : State) : Out :=
  goOn dt (fun s => s.request requester.val target.val tag.toNat op) s

/-- An acknowledge on its way: delivered to a requester that serves, kept in the coupling for one behind a fence (R40). -/
def State.sendAck (s : State) (a : CAck) : State :=
  if s.present a.requester || s.carState a.requester == stDraining then s.deliverAck a
  else s.withCar fun c => { c with acks := c.acks ++ [a] }

/-- The responder's acknowledge of the oldest accepted request with the tag, or one that waits in the coupling. A completion within a
drain is counted for its sequence. -/
def State.acknowledge (s : State) (requester responder tag status : Nat) : State :=
  match s.car.acks.find? fun a => a.requester == requester && a.responder == responder && a.tag == tag with
  | some a => (s.withCar fun c => { c with acks := c.acks.erase a }).sendAck a
  | none =>
    if status = 1 then s
    else
      match s.car.reqs.find? fun r => r.requester == requester && r.target == responder && r.tag == tag && !r.held with
      | none => s
      | some r =>
        let s := s.withCar fun c => { c with
          reqs := c.reqs.erase r
          seqs := c.seqs.map fun q => if q.carriage = responder ∧ q.phase = .draining then { q with completed := q.completed + 1 } else q }
        s.sendAck ⟨requester, responder, tag, r.op, r.epoch, s.epoch responder, status⟩

/-- An acknowledge reaches its requester. -/
def execCouplingAcknowledge (dt : Nat) (requester responder : Fin 47) (tag : Byte) (status : Fin 4) (s : State) : Out :=
  goOn dt (fun s => s.acknowledge requester.val responder.val tag.toNat status.val) s

/-! ### Carriage commands (R51–R54) -/

/-- A carriage command: the action written to 0x2020:01 and started by :02. -/
def goCarriage (dt sess n act unit : Nat) (s : State) : Out :=
  goOn dt (fun s => s.putsAll sess [(0x2020, 1, n + 256 * act + 65536 * unit), (0x2020, 2, 1)]) s

/-- Action 0. -/
def execCarriageReset (dt sess : Nat) (n : Fin 47) (s : State) : Out := goCarriage dt sess n.val 0 0 s

/-- Action 1. -/
def execCarriagePowerDown (dt sess : Nat) (n : Fin 47) (s : State) : Out := goCarriage dt sess n.val 1 0 s

/-- Action 2. -/
def execCarriagePowerUp (dt sess : Nat) (n : Fin 47) (s : State) : Out := goCarriage dt sess n.val 2 0 s

/-- Action 3. -/
def execCarriageSelfTest (dt sess : Nat) (n : Fin 47) (s : State) : Out := goCarriage dt sess n.val 3 0 s

/-- Action 4. -/
def execSwapToSpare (dt sess : Nat) (n : Fin 47) (unit : Fin 16) (s : State) : Out := goCarriage dt sess n.val 4 unit.val s

/-- Action 5. -/
def execRetireRouteBank (dt sess : Nat) (n : Fin 47) (s : State) : Out := goCarriage dt sess n.val 5 0 s

/-- Action 6. -/
def execReturnRouteBank (dt sess : Nat) (n : Fin 47) (s : State) : Out := goCarriage dt sess n.val 6 0 s

/-! ### Sequences -/

/-- What a sequence of a carriage does where it stands in a phase. -/
def State.inPhase (s : State) (n : Nat) (ph : SeqPhase) (f : State → CarSeq → State) : State :=
  match s.seqOf n with
  | some q => if q.phase = ph then f s q else s
  | none => s

/-- No accepted request remains: the fence follows. -/
def execDrainComplete (dt : Nat) (n : Fin 47) (s : State) : Out :=
  goOn dt (fun s => s.inPhase n.val .draining fun s q => if s.hasWork n.val then s else s.fenceSeq q) s

/-- The drain limit has passed: the fence follows. -/
def execDrainLimitExpiry (dt : Nat) (n : Fin 47) (s : State) : Out :=
  goOn dt (fun s => s.inPhase n.val .draining fun s q => if q.since + q.limit * 1000 ≤ s.now then s.fenceSeq q else s) s

/-- The action after the fence ends; a control pair ends its start instead (R387). `failed` names the units that its test failed. -/
def execCarriageActionEnd (dt : Nat) (n : Fin 47) (pass : Bool) (failed : List Nat) (s : State) : Out :=
  goOn dt (fun s => s.inPhase n.val .acting fun s q =>
    if 43 ≤ n.val ∧ n.val ≤ 45 then s.pairPresent n.val pass 0 0 true else s.actionEnd q pass failed) s

/-- A waiting sequence starts. -/
def execQueuedSequenceStart (dt : Nat) (s : State) : Out := goOn dt State.startWaiting s

/-- A swap of the unit runs or waits. -/
def State.swapUnderway (s : State) (n u : Nat) : Bool :=
  (s.car.waiting.any fun w => w.carriage == n && w.unit == u && !w.alarm)
    || s.car.seqs.any fun q => q.carriage == n && q.unit == u && (q.act == .bankSwap || q.act == .bankLost || q.act == .edgeSwap)

/-- A corrected error: counted for the carriage, and for the unit where it serves; at the threshold the unit is swapped (R57). -/
def State.corrected (s : State) (n u : Nat) : State :=
  let s := s.bump (0x2200 + n) 7 1
  let th := s.rdF (0x2200 + n) 8 15 0
  if !s.unitServes n u || !((2 ≤ n ∧ n ≤ 10) ∨ (23 ≤ n ∧ n ≤ 27) ∨ (32 ≤ n ∧ n ≤ 37)) then s
  else
    let k := mapGetD s.car.unitErr (unitKey n u) 0 + 1
    let s := s.withCar fun c => { c with unitErr := mapSet c.unitErr (unitKey n u) k }
    if th ≠ 0 ∧ th ≤ k ∧ !s.swapUnderway n u then s.swapUnit n u 7 else s

/-- A single-bit error is corrected. -/
def execCorrectedError (dt : Nat) (n : Fin 47) (unit : Fin 18) (s : State) : Out := goOn dt (fun s => s.corrected n.val unit.val) s

/-- Every unit's count falls by 1 every 60 s. -/
def State.decayErrors (s : State) : State :=
  if s.now < s.car.lastDecay + 60000000000 then s
  else s.withCar fun c => { c with
    lastDecay := c.lastDecay + 60000000000
    unitErr := (c.unitErr.filter fun x => (1 < x.2 : Bool)).map fun x => (x.1, x.2 - 1) }

/-- The decay of the error counts. -/
def execErrorCountDecay (dt : Nat) (s : State) : Out := goOn dt State.decayErrors s

/-- The copy of a cell bank ends (R58): its cells stand in the spare, and it is drained. -/
def execCellBankCopyEnd (dt : Nat) (n : Fin 47) (s : State) : Out :=
  goOn dt (fun s => s.inPhase n.val .copying fun s q =>
    if q.act = .bankSwap then (s.moveCells n.val q.spare).beginDrain q else s) s

/-- The copy of a channel's state into the spare controller ends (R60 steps 2 and 3). -/
def execEdgeSwapCopyEnd (dt : Nat) (n : Fin 47) (unit : Fin 16) (s : State) : Out :=
  goOn dt (fun s => s.inPhase n.val .copying fun s q =>
    if q.act = .edgeSwap ∧ q.unit = unit.val then
      ((s.withCar fun c => { c with spareUsed := mapSet c.spareUsed (spareKey n.val q.spare) 1 }).freshUnit n.val unit.val).putSeq
        { q with phase := .integrating }
    else s) s

/-- The spare integrates with the bus (R60 step 4), event 0x0032. -/
def State.spareIntegrated (s : State) (q : CarSeq) : State :=
  let n := q.carriage
  let c := 16 * (n - 32) + q.unit
  let s := if s.proto c = 0 then s else s.wrB (chObj c 0) 2 3 true
  let s := ((s.event n 0x32 q.unit q.spare (s.usSince q.begun)).repairWindow n).endSeq n 0
  if c < 72 then s.nextOnBus c else s

/-- The spare controller integrates. -/
def execEdgeSwapIntegrated (dt : Nat) (n : Fin 47) (unit : Fin 16) (s : State) : Out :=
  goOn dt (fun s => s.inPhase n.val .integrating fun s q => if q.unit = unit.val then s.spareIntegrated q else s) s

/-- The shunt of a retiring bank ends. -/
def execRetirementShuntEnd (dt : Nat) (n : Fin 47) (s : State) : Out :=
  goOn dt (fun s => s.inPhase n.val .shunting fun s q => s.beginDrain q) s

/-- A slot of the self-test schedule. -/
def execSelfTestSlot (dt : Nat) (s : State) : Out := goOn dt State.testSlot s

/-- The in-service self-test ends. -/
def execSelfTestEnd (dt : Nat) (pass : Bool) (s : State) : Out := goOn dt (fun s => s.testDone pass) s

end Sys2Proof.Machine
end

