-- ==== Sys2Proof/Machine/CmdFrames.lean ====
section
/-! DEFINITION. The commands of Chapters 3 and 4: queues, frames, flushes, the sweep, and the route store. -/

namespace Sys2Proof.Machine

/-! ### Queues -/

/-- A port hears what arrives: its link is up and its carriage serves; a channel has a working controller; no port does while the
device is frozen, but for a service port. -/
def State.hears (s : State) (p : Nat) : Bool :=
  if isEth p then s.linkUp p && s.present (portCarriage p)
  else if isC p || isL p then s.present (portCarriage p) && !s.chDead (p - 64)
  else if p = 44 then s.present 41 && !s.frozen
  else !s.frozen

/-- A producer writes an item (R66). Before the forwarding point nothing enters, and each frame of ports 0–43 is counted at its End
(R472). `errs` are the uncorrectable errors that its reads meet. -/
def State.writeItem (s : State) (p : Nat) (w : BitVec 36) (errs : ReadErrs) : State :=
  if !s.hears p then s
  else if !s.startup.forwarding then (if w.toNat / 2 ^ 32 = 3 then s.portCount p 0x0E 1 else s)
  else
    let s := s.meetErrs errs
    let s := match (s.ingressQ p).cur with
      | some id => s.meetCell id errs
      | none => s
    s.putItem p w

/-- An item is written into an ingress queue. -/
def execQueueItemWrite (dt : Nat) (port : Fin 160) (item : BitVec 36) (errs : ReadErrs) (s : State) : Out :=
  goPort dt port.val (fun s => s.writeItem port.val item errs) s

/-- A direct read of a delivery queue (R69): H's in queue mode, and that of the control internal port. -/
def State.readQueue (s : State) (p : Nat) : State :=
  if p = 46 ∨ (p = 44 ∧ s.rdB 0x20A0 3 2) then
    let (w, s) := s.popItem p
    s.emit (.item p w)
  else if p = 44 then s.emit (.item p noItem)
  else s

/-- The head of a directly read queue is read. -/
def execQueuePop (dt : Nat) (port : Fin 160) (s : State) : Out := goPort dt port.val (fun s => s.readQueue port.val) s

/-! ### Frames of the Ethernet ports -/

/-- A frame that arrived in the opportunity of `node` is a stranger (R141). -/
def State.isStranger (s : State) (p node : Nat) : Bool :=
  (28 ≤ p : Bool) &&
    (if node ≤ 31 then !s.rdB (ethObj p 5) 1 node || node == s.rdF (ethObj p 4) 1 4 0 else s.rd (ethObj p 5) 1 != 0xFFFFFFFF)

/-- The Meta word of a frame (Table 5.3). -/
def State.ethMeta (s : State) (p node : Nat) (bs : List Byte) : Nat :=
  let n := if 28 ≤ p ∧ node ≤ 31 then node else 0xFF
  n + 256 * (isTpid (beAt bs 12 2)).toNat + 512 * (s.isStranger p n).toNat

/-- The bytes that a frame in reception still lacked come in, and it ends. -/
def State.endFrame (s : State) (p id node : Nat) (tail : List Byte) (pcs : Bool) (errs : ReadErrs) : State :=
  let s := s.modFrame id fun f => { f with crc := crcRun f.crc f.word, word := [] }
  let s := s.storeBytes p id tail
  if (s.ingressQ p).cur = some id then
    let bs := ((s.frame? id).map fun f => f.bytes).getD []
    let m := s.ethMeta p node bs
    let s := s.modFrame id fun f => { f with metaWord := if f.metaWord.isNone then some m else f.metaWord }
    (s.meetCell id errs).endEth p id 0 pcs
  else s.modIngress p fun q => { q with skip := false }

/-- A frame ends on an Ethernet port: `tail` are the bytes since the last item, all of them where none was written; `ago` the ns since its
start-of-frame. While the ingress group is away the frame waits in the queue's stages as items, where it fits. -/
def State.frameEnd (s : State) (p : Nat) (tail : List Byte) (dom cls ago node : Nat) (pcs : Bool) (errs : ReadErrs) : State :=
  if !s.hears p then s
  else if !s.startup.forwarding then s.portCount p 0x0E 1
  else
    let q := s.ingressQ p
    let ns := s.rxTime p ago
    let s := s.meetErrs errs
    match q.cur with
    | some id => s.endFrame p id node tail pcs errs
    | none =>
      if q.skip then s.modIngress p fun q => { q with skip := false }
      else if !s.present (ingressGroup p) then
        let f : Frame := { blankFrame p dom cls ns with
          bytes := tail, metaWord := some (s.ethMeta p node tail), status := if pcs then 2 else 0 }
        let its := frameItems f
        if q.items.length + its.length ≤ stageRoom p then s.modIngress p fun q => { q with items := q.items ++ its }
        else s.countOverflow p f
      else
        let s := s.startFrame p dom cls ns
        match (s.ingressQ p).cur with
        | some id => s.endFrame p id node tail pcs errs
        | none => s

/-- A frame ends on an Ethernet port. -/
def execEthernetFrameEnd (dt : Nat) (port : Fin 44) (tail : List Byte) (domain : Fin 64) (cls : Fin 8) (ago : Nat) (node : Byte)
    (pcsError : Bool) (errs : ReadErrs) (s : State) : Out :=
  goRun dt (fun s => s.frameEnd port.val tail domain.val cls.val ago node.toNat pcsError errs) s

/-- A frame in reception is released once its complete cells reach the threshold (R71, R73). -/
def execCutThroughRelease (dt : Nat) (port : Fin 160) (errs : ReadErrs) (s : State) : Out :=
  goPort dt port.val (fun s =>
    if s.hears port.val && s.startup.forwarding && s.present (ingressGroup port.val) then (s.meetErrs errs).releaseEarly port.val else s) s

/-! ### Flushes, sweep, waiting copies -/

/-- A flush of a queue: 0x2064:01 written, then started. -/
def execQueueFlush (dt sess port : Nat) (delivery : Bool) (s : State) : Out :=
  goOn dt (fun s => s.putsAll sess [(0x2064, 1, port + 256 * delivery.toNat), (0x2064, 2, 1)]) s

/-- A flush that waited takes effect at its frame's End. -/
def execFlushDeferredEffect (dt : Nat) (s : State) : Out := goOn dt State.flushDue s

/-- The egress groups sweep their queues. -/
def execAgeSweep (dt : Nat) (group : Fin 2) (s : State) : Out :=
  goRun dt (fun s => if s.present (21 + group.val) then s.sweep group.val else s) s

/-- A port that is ready takes its waiting copies. -/
def execWaitingCopyTaken (dt : Nat) (port : Fin 160) (s : State) : Out :=
  goPort dt port.val (fun s => if s.present (egressGroup port.val) then s.takeWaiting port.val else s) s

/-- A write of 1 to 0x2060:08. -/
def execResetLeastFree (dt sess : Nat) (s : State) : Out := goWrite dt sess 0x2060 8 1 s

/-! ### The route store (R104–R116) -/

/-- An entry command: the words written to 0x5010, the operation and start. `place` is the slot of operation 3. -/
def goEntry (dt sess op place : Nat) (entry : BitVec 142) (errs : ReadErrs) (s : State) : Out :=
  goOn dt (fun s =>
    let w := entry.toNat
    (s.meetErrs errs).putsAll sess [(0x5010, 1, fld w 31 0), (0x5010, 2, fld w 63 32), (0x5010, 3, fld w 95 64), (0x5010, 4, fld w 127 96),
      (0x5010, 5, fld w 141 128), (0x5010, 6, op + 8 * place), (0x5010, 7, 1)]) s

/-- Operation 0. -/
def execEntryReadByKey (dt sess : Nat) (entry : BitVec 142) (errs : ReadErrs) (s : State) : Out := goEntry dt sess 0 0 entry errs s

/-- Operation 1. -/
def execEntryInsert (dt sess : Nat) (entry : BitVec 142) (errs : ReadErrs) (s : State) : Out := goEntry dt sess 1 0 entry errs s

/-- Operation 2. -/
def execEntryDelete (dt sess : Nat) (entry : BitVec 142) (errs : ReadErrs) (s : State) : Out := goEntry dt sess 2 0 entry errs s

/-- Operation 3. -/
def execEntryReadBySlot (dt sess : Nat) (bank : Fin 8) (bucket : Fin 8192) (way : Fin 4) (errs : ReadErrs) (s : State) : Out :=
  goOn dt (fun s => (s.meetErrs errs).putsAll sess
    [(0x5010, 6, 3 + 8 * bank.val + 64 * bucket.val + 524288 * way.val), (0x5010, 7, 1)]) s

/-- A move of the running chain is over. -/
def execShuntMove (dt : Nat) (s : State) : Out := goRun dt State.shuntStep s

/-- The sequencer takes a learning request of an ingress group, while no chain runs. -/
def execLearningRequest (dt : Nat) (group : Fin 2) (errs : ReadErrs) (s : State) : Out :=
  goRun dt (fun s => if s.route.chain.isSome then s else (s.meetErrs errs).takeLearn group.val) s

/-- A write of 1 to sub 07 of a learning object. -/
def execClearLog (dt sess : Nat) (port : Fin 44) (s : State) : Out := goWrite dt sess (ethObj port.val 0) 7 1 s

/-- The scanner visits a slot for an entry type. -/
def execAgeingScanVisit (dt : Nat) (bank : Fin 8) (bucket : Fin 8192) (way : Fin 4) (typ : Fin 5) (errs : ReadErrs) (s : State) : Out :=
  goRun dt (fun s => (s.meetErrs errs).scanVisit (bank.val * 32768 + bucket.val * 4 + way.val) typ.val) s

end Sys2Proof.Machine
end

