-- ==== Sys2Proof/Machine/CmdPorts.lean ====
section
/-! DEFINITION. The commands of Chapter 5 (links, flow control, the T1S segments, cut-through) and the egress selection. -/

namespace Sys2Proof.Machine

/-- A port's mode is written (R122). -/
def execPortModeWrite (dt sess : Nat) (port : Fin 44) (value : BitVec 32) (s : State) : Out :=
  goWrite dt sess (ethObj port.val 1) 1 value.toNat s

/-- A port may have its link up: a mode other than 0, its carriage in service on a clock of full accuracy, not dark by the frozen state,
not at its Listen levels. -/
def State.mayLink (s : State) (p : Nat) : Bool :=
  s.rdF (ethObj p 1) 1 3 0 != 0 && s.present (portCarriage p) && !s.rdB 0x2001 1 4 && s.power.lost.isNone
    && (!s.frozen || s.servicePort p) && !(28 ≤ p && s.listens p)

/-- A port's new mode links; verification of preemption begins (R221). -/
def State.linksUp (s : State) (p : Nat) : State :=
  if s.linkUp p || !s.mayLink p then s
  else
    let s := s.raiseLink p
    if p ≤ 27 then s.verifyStart p else s

/-- A port's new mode links. -/
def execLinkUp (dt : Nat) (port : Fin 44) (s : State) : Out := goRun dt (fun s => s.linksUp port.val) s

/-- A port's link goes down. -/
def execLinkDown (dt : Nat) (port : Fin 44) (s : State) : Out :=
  goRun dt (fun s => if s.linkUp port.val then s.dropLink port.val (s.modeNow port.val) else s) s

/-- The configured threshold is written. -/
def execThresholdWrite (dt sess : Nat) (port : Fin 44) (value : BitVec 32) (s : State) : Out :=
  goWrite dt sess (ethObj port.val 8) 1 value.toNat s

/-! ### Egress selection (R210, R211, R222) -/

/-- The errors that the reads of a queue's head meet. -/
def State.meetHead (s : State) (p n : Nat) (errs : ReadErrs) : State :=
  match (s.ptm p).q n with
  | [] => s
  | i :: _ => s.meetCell i.frame errs

/-- The class of a queue at a port goes by the express MAC. -/
def State.express (s : State) (p c : Nat) : Bool := !s.preemptable p c

/-- An Ethernet port can start a frame: its selection starts. While a preemptable frame is in transmission or suspended only express
frames can start; without one the remainder resumes. A collided frame is sent again. -/
def State.selectEth (s : State) (p : Nat) (errs : ReadErrs) : State :=
  let s := s.takeKinds p
  let d := s.pdyn p
  match d.retry with
  | some n => (if d.tx.isSome then s else ((s.modPdyn p fun d => { d with retry := none }).meetHead p n errs).startTx p n)
  | none =>
    match d.tx, d.suspended with
    | some t, _ =>
      if !t.preemptable then s
      else
        match s.selectAmong p (s.express p) with
        | (some n, s) =>
          let (s, done) := s.preempt p t
          if done then (s.meetHead p n errs).startTx p n else s
        | (none, s) => s
    | none, some _ =>
      match s.selectAmong p (s.express p) with
      | (some n, s) => (s.meetHead p n errs).startTx p n
      | (none, s) => s.resumeTx p
    | none, none =>
      match s.selectQueue p with
      | (some n, s) => (s.meetHead p n errs).startTx p n
      | (none, s) => s

/-- The selection for a delivery queue. -/
def State.selectDelivery (s : State) (p : Nat) (errs : ReadErrs) : State :=
  match s.selectQueue p with
  | (some n, s) => (s.meetHead p n errs).deliver p n
  | (none, s) => s

/-- A port can start a frame. Nothing starts once a sleep sequence has committed, nor while a mode write waits for its frame. -/
def State.selectPort (s : State) (p : Nat) (errs : ReadErrs) : State :=
  if s.committed || !s.startup.forwarding || !s.present (egressGroup p) then s
  else
    let s := s.meetErrs errs
    if isEth p then (if s.linkUp p && s.present (portCarriage p) && (s.pdyn p).oldMode.isNone then s.selectEth p errs else s)
    else if isC p then s.canOffer (p - 64)
    else if isL p then s.linEgress (p - 64) (((s.ptm p).queues.map fun q => q.2.length).sum)
    else if p = 44 then (if s.present 41 && s.rdB 0x20A0 3 2 then s.selectDelivery p errs else s)
    else if p = 45 then s.gwSelect
    else s.selectDelivery p errs

/-- A port can start a frame. -/
def execEgressSelect (dt : Nat) (port : Fin 160) (errs : ReadErrs) (s : State) : Out :=
  goPort dt port.val (fun s => s.selectPort port.val errs) s

/-! ### Underrun (R131–R133) -/

/-- The next data item misses the MAC (R131): the frame is stomped, and a frame released early raises the threshold of its ingress port
once. -/
def State.underrun (s : State) (p : Nat) : State :=
  match (s.pdyn p).tx with
  | none => s
  | some t =>
    match s.frame? t.frame with
    | none => s
    | some f =>
      let q := f.ingress
      let s := s.portCount p 0x1F 1
      let s := if f.underran then s
        else
          let s := ((s.portCount q 0x3E 1).restartRun q).modFrame t.frame fun f => { f with underran := true }
          if f.early && !t.wholeAtStart && isEth q && s.configured q != 0 then s.raiseThreshold q else s
      s.endStomped p t ((s.now - t.start) * s.portKbps p / 8000000 - 8)

/-- A transmission underruns. -/
def execTransmitUnderrun (dt : Nat) (port : Fin 44) (s : State) : Out := goRun dt (fun s => s.underrun port.val) s

/-- 65,536 frames without an underrun have been received (R132). -/
def execThresholdDecay (dt : Nat) (port : Fin 44) (s : State) : Out :=
  goRun dt (fun s =>
    if 65536 ≤ (s.pdyn port.val).cleanRun ∧ (s.pdyn port.val).adapted ≠ 0 then s.decayThreshold port.val else s) s

/-- The 100 ms after a repair have passed (R133). -/
def execForcedSafEnd (dt : Nat) (s : State) : Out :=
  goRun dt (fun s => if s.eth.repairUntil ≤ s.now then { s with eth := { s.eth with repairUntil := 0 } } else s) s

/-! ### Flow control (R134–R136) -/

/-- A port that hears and whose kind has flow control. -/
def State.hearsPause (s : State) (p : Nat) : Bool := s.hears p && s.startup.forwarding

/-- A pause arrives. -/
def execPauseReceived (dt : Nat) (port : Fin 44) (quanta : BitVec 16) (s : State) : Out :=
  goRun dt (fun s => if s.hearsPause port.val then s.pauseReceived port.val quanta.toNat else s) s

/-- A PFC frame arrives. -/
def execPfcReceived (dt : Nat) (port : Fin 44) (classes : Byte) (quanta : List Nat) (s : State) : Out :=
  goRun dt (fun s =>
    if s.hearsPause port.val then s.pfcReceived port.val classes.toNat (quanta.map fun q => q % 65536) else s) s

/-- A pause time ends. -/
def execPauseExpiry (dt : Nat) (port : Fin 44) (cls : Fin 9) (s : State) : Out :=
  goRun dt (fun s => match s.stopOf port.val cls.val with
    | some (_, e) => if e ≤ s.now then s.setStop port.val cls.val 0 else s
    | none => s) s

/-- A stop has lasted longer than the watchdog limit. -/
def execPauseWatchdogTrip (dt : Nat) (port : Fin 44) (cls : Fin 9) (s : State) : Out :=
  goRun dt (fun s => match s.stopOf port.val cls.val with
    | some (b, e) =>
      let due := b + s.rdF (ethObj port.val 3) 2 9 0 * 1000000
      if due ≤ s.now ∧ due < e then s.watchdogTrip port.val cls.val else s
    | none => s) s

/-- The hold-off of a class (8 the whole port) ends. -/
def State.endHold (s : State) (p c : Nat) : State :=
  (s.modPdyn p fun d => if c = 8 then { d with pauseHold := none } else { d with pfcHold := mapDel d.pfcHold c }).wrB (ethObj p 3) 4 c false

/-- A hold-off ends. -/
def execHoldOffEnd (dt : Nat) (port : Fin 44) (cls : Fin 9) (s : State) : Out :=
  goRun dt (fun s => match s.holdOf port.val cls.val with
    | some t => if t ≤ s.now then s.endHold port.val cls.val else s
    | none => s) s

/-- The receive buffer of a B or G port in bytes. -/
def receiveBuffer (p : Nat) : Nat := if p ≤ 11 then 131072 else 32768

/-- The receive buffer's fill passes 75 % or 25 % (R135). -/
def State.bufferFill (s : State) (p fill : Nat) : State :=
  let send := s.rdB (ethObj p 3) 1 2
  if 27 < p ∨ !s.linkUp p then s
  else if !(s.pdyn p).rxHigh ∧ receiveBuffer p * 3 ≤ fill * 4 then
    let s := s.modPdyn p fun d => { d with rxHigh := true, pauseAt := s.now }
    if send then s.sendPause p 0xFFFF else s
  else if (s.pdyn p).rxHigh ∧ fill * 4 ≤ receiveBuffer p then
    let s := s.modPdyn p fun d => { d with rxHigh := false }
    if send then s.sendPause p 0 else s
  else s

/-- The receive buffer crosses a threshold. -/
def execReceiveBufferThreshold (dt : Nat) (port : Fin 44) (fill : Nat) (s : State) : Out :=
  goRun dt (fun s => s.bufferFill port.val fill) s

/-- The pause is repeated while the buffer stays high. -/
def execPauseRepeat (dt : Nat) (port : Fin 44) (s : State) : Out :=
  goRun dt (fun s =>
    let p := port.val
    if p ≤ 27 ∧ s.linkUp p ∧ (s.pdyn p).rxHigh ∧ s.rdB (ethObj p 3) 1 2 ∧ (s.pdyn p).pauseAt + s.pauseNs p 32768 ≤ s.now then
      s.sendPause p 0xFFFF
    else s) s

/-! ### T1S segments (R137–R140) -/

/-- A T port runs PLCA. -/
def State.plca (s : State) (p : Nat) : Bool := (28 ≤ p : Bool) && s.linkUp p && s.rdF (ethObj p 1) 1 3 0 == 1

/-- The device coordinates the segment. -/
def State.coordinator (s : State) (p : Nat) : Bool := s.rdB (ethObj p 4) 1 5

/-- PLCA is active: a BEACON has been sent or seen. -/
def State.beaconSeen (s : State) (p : Nat) : State := (s.modPdyn p fun d => { d with beaconAt := some s.now }).wr (ethObj p 4) 3 1

/-- The coordinator's cycle starts. -/
def execBeaconSend (dt : Nat) (port : Fin 44) (s : State) : Out :=
  goRun dt (fun s =>
    if s.plca port.val && s.coordinator port.val then ((s.emit (.beacon port.val)).portCount port.val 0x2D 1).beaconSeen port.val else s) s

/-- A BEACON that the coordinator detects: counted, and told once a second. -/
def State.beaconConflict (s : State) (p : Nat) : State :=
  let s := s.portCount p 0x2F 1
  let s := if (s.pdyn p).conflictRaised then s
    else (s.event (portCarriage p) 0x64 p 0 (min 65535 (s.pdyn p).conflictsPrev)).modPdyn p fun d => { d with conflictRaised := true }
  s.modPdyn p fun d => { d with conflicts := d.conflicts + 1 }

/-- A BEACON is received. -/
def execBeaconReceived (dt : Nat) (port : Fin 44) (s : State) : Out :=
  goRun dt (fun s =>
    if !s.plca port.val || !s.present (portCarriage port.val) then s
    else if s.coordinator port.val then s.beaconConflict port.val
    else (s.portCount port.val 0x2E 1).beaconSeen port.val) s

/-- A follower without a BEACON for 4,000 bit times runs CSMA/CD (R139); a coordinator that has sent none is not active. -/
def State.beaconLost (s : State) (p : Nat) : State :=
  let since := ((s.pdyn p).beaconAt).getD (s.pdyn p).listenSince
  if !s.plca p || s.rdB (ethObj p 4) 3 1 || s.now < since + 400000 then s
  else
    let s := s.modPdyn p fun d => { d with beaconAt := none }
    if s.coordinator p then s.wr (ethObj p 4) 3 0 else (s.portCount p 0x30 1).wr (ethObj p 4) 3 2

/-- The time without a BEACON has passed. -/
def execBeaconTimeout (dt : Nat) (port : Fin 44) (s : State) : Out := goRun dt (fun s => s.beaconLost port.val) s

/-- A T port uses CSMA/CD. -/
def State.csma (s : State) (p : Nat) : Bool :=
  (28 ≤ p : Bool) && s.linkUp p && (s.rdF (ethObj p 1) 1 3 0 == 2 || (s.rdF (ethObj p 1) 1 3 0 == 1 && s.rdB (ethObj p 4) 3 1))

/-- A collision of the frame in transmission, `bits` bit times after its start: it is sent again, but for the 16th time. -/
def State.collide (s : State) (p bits : Nat) : State :=
  match (s.pdyn p).tx with
  | none => s
  | some t =>
    if !s.csma p then s
    else
      let s := s.portCount p 0x28 1
      let s := if 512 < bits then s.portCount p 0x29 1 else s
      let k := (s.pdyn p).attempts + 1
      if 16 ≤ k then
        ((s.portCount p 0x2A 1).modPdyn p fun d => { d with tx := none, attempts := 0 }).refuseCopy p t.frame 0
      else
        (s.pushHead p t.queue ⟨t.frame, s.now, if t.out.isSome then 3 else 0, t.out⟩).modPdyn p fun d =>
          { d with tx := none, attempts := k, retry := some t.queue }

/-- A collision. -/
def execCollision (dt : Nat) (port : Fin 44) (bitTimes : Nat) (s : State) : Out := goRun dt (fun s => s.collide port.val bitTimes) s

/-- Jabber: the frame in reception is discarded, and what follows is ignored until silence. -/
def State.jabber (s : State) (p : Nat) : State :=
  let s := s.portCount p 0x2B 1
  match (s.ingressQ p).cur with
  | some id =>
    if ((s.frame? id).map fun f => f.released).getD false then s.endEarly p id 2 else s.giveUp p id
  | none => s.modIngress p fun q => { q with skip := true }

/-- Receive activity longer than the jabber bound. -/
def execJabber (dt : Nat) (port : Fin 44) (s : State) : Out :=
  goRun dt (fun s => if 28 ≤ port.val ∧ s.hears port.val then s.jabber port.val else s) s

/-- Activity without a delimiter. -/
def execNoise (dt : Nat) (port : Fin 44) (s : State) : Out :=
  goRun dt (fun s => if 28 ≤ port.val ∧ s.hears port.val then s.portCount port.val 0x2C 1 else s) s

/-- A write of 1 to 0x9000:06. -/
def execSnapshot (dt sess : Nat) (s : State) : Out := goWrite dt sess 0x9000 6 1 s

end Sys2Proof.Machine
end

