-- ==== Sys2Proof/Machine/CmdChannels.lean ====
section
/-! DEFINITION. The commands of Chapter 6: CAN and LIN channels. What happens on a bus at a channel without a working controller is no
event for the part. -/

namespace Sys2Proof.Machine

/-! ### Modes -/

/-- The mode written, while a frame may be in reception: it is lost where the write changes the mode (R150). -/
def State.modeWritten (s : State) (sess c v : Nat) (receiving : Bool) : State :=
  let mark : Bool := receiving && s.canHears c && (s.ch c).offer.isNone && !(s.ch c).busy
  let s := if mark then s.modCh c fun d => { d with busy := true } else s
  let s := s.puts sess (chObj c 0) 1 v
  if mark then s.modCh c fun d => { d with busy := false } else s

/-- A channel's mode is written; `receiving` tells whether a frame is in reception. -/
def execChannelModeWrite (dt sess : Nat) (chan : Fin 96) (value : BitVec 32) (receiving : Bool) (s : State) : Out :=
  goOn dt (fun s => s.modeWritten sess chan.val value.toNat receiving) s

/-- A channel of a protocol, with a working controller. -/
def State.chLive (s : State) (c : Nat) : Bool := s.proto c != 0 && s.present (chGroup c) && !s.chDead c

/-- A channel whose frame on the bus goes on: its group is PRESENT or drains (R46 step 2). -/
def State.chSends (s : State) (c : Nat) : Bool := s.proto c != 0 && s.works (chGroup c) && !s.chDead c

/-- A channel is synchronised to its bus (R150 step 4). -/
def State.integrates (s : State) (c : Nat) : State :=
  if !s.chLive c then s
  else
    let s := s.wrB (chObj c 0) 2 3 true
    if c < 72 ∧ s.errState c ≤ 1 then s.nextOnBus c else s

/-- A channel integrates. -/
def execChannelIntegrated (dt : Nat) (chan : Fin 96) (s : State) : Out := goRun dt (fun s => s.integrates chan.val) s

/-! ### Reception (R156, R160, R161, R175) -/

/-- A good frame in stored form becomes valid: buffers, counters, and the ingress queue with its stamp and Meta item. A CANsec frame goes
to a buffer only once it is verified. -/
def State.goodFrame (s : State) (c : Nat) (bs : List Byte) (dom cls ago : Nat) : State :=
  let f := { blankFrame (64 + c) dom cls (s.nsNow - ago) with bytes := bs }
  let s := s.countCanRx c bs
  let (buf, s) := if s.cansecFrame f then (none, s) else s.takeRx c bs f.stamp
  (s.enterWhole { f with bytes := [], metaWord := some (s.canMeta c buf) } bs).2

/-- A frame on a C bus is complete: one of a format the channel does not take ends in a protocol exception or a form error (Table 6.3). -/
def State.canComplete (s : State) (c : Nat) (bs : List Byte) (dom cls ago : Nat) : State :=
  let s :=
    if s.foreign c bs then (if s.rdB (chObj c 0) 1 5 then s.chCount c 0x1E 1 else s.busError c 2 false false 0)
    else
      let s := if s.rdB (chObj c 0) 1 4 then s else s.goodRx c
      s.goodFrame c bs dom cls ago
  (s.modCh c fun d => { d with busy := false }).nextOnBus c

/-- A frame becomes valid. Its data field is cut or filled to the length its header gives. -/
def State.frameValid (s : State) (c : Nat) (bs : List Byte) (dom cls ago : Nat) (errs : ReadErrs) : State :=
  if !s.canHears c then s
  else
    let s := s.meetErrs errs
    if c < 72 then
      let v := parseCan bs
      if canLenOk v then s.canComplete c (sliceZ bs 0 (16 + v.len)) dom cls ago else s
    else if (s.ch c).quiet || (s.linFrame c (byteAt bs 0 % 64)).1 != 2 then s
    else
      let s := s.modCh c fun d => { d with await_ := none, lastBus := s.now }
      s.goodFrame c (sliceZ bs 0 (8 + byteAt bs 2)) dom cls ago

/-- A received frame becomes valid; `ago` the ns since the first falling edge of it. -/
def execCanFrameValid (dt : Nat) (chan : Fin 96) (bytes : List Byte) (domain : Fin 64) (cls : Fin 8) (ago : Nat) (errs : ReadErrs)
    (s : State) : Out :=
  goRun dt (fun s => s.frameValid chan.val bytes domain.val cls.val ago errs) s

/-- The lock of the receive buffers is written. -/
def execBufferLock (dt sess : Nat) (chan : Fin 96) (value : BitVec 32) (s : State) : Out :=
  goWrite dt sess (chObj chan.val 5) 4 value.toNat s

/-! ### Transmission (R157–R159, R162, R166) -/

/-- The frame on the bus has been sent. In a data phase the loop delay is measured: above 127 clocks it ends with a bit error (R153).
DESIGN CHOICE, log entry 31. -/
def State.sentOnBus (s : State) (c loop : Nat) : State :=
  match (s.ch c).offer with
  | none => s
  | some o =>
    let data := dataPhase o.bytes
    let s := if data then s.wr (chObj c 2) 5 (min loop 255) else s
    if data && 127 < loop then
      let (v, s) := s.draw
      (s.busError c (4 + v % 2) true false 0).nextOnBus c
    else (s.offerSent c o).nextOnBus c

/-- The offered frame is sent; `loop` is the loop delay in clocks. -/
def execCanFrameSent (dt : Nat) (chan : Fin 72) (loop : Nat) (s : State) : Out :=
  goRun dt (fun s => if s.chSends chan.val then s.sentOnBus chan.val loop else s) s

/-- The offered frame loses arbitration (R159): another frame holds the bus. A reference message is given up (R171); a mode that waits
takes effect at once, and the other node's frame is lost to the channel. -/
def State.lostOnBus (s : State) (c : Nat) : State :=
  match (s.ch c).offer with
  | none => s
  | some o =>
    let s := s.chCount c 0x0E 1
    let s := if o.src = 3 then s.modCh c fun d => { d with offer := none } else s.withdraw c
    if (s.ch c).newMode.isSome then (s.chCount c 0x1D 1).applyMode c else s.modCh c fun d => { d with busy := true }

/-- Arbitration is lost. -/
def execArbitrationLost (dt : Nat) (chan : Fin 72) (s : State) : Out :=
  goRun dt (fun s => if s.chSends chan.val then s.lostOnBus chan.val else s) s

/-- An error on the bus: of the frame being sent, or of one in reception. -/
def State.errorOnBus (s : State) (c kind : Nat) (sending exempt : Bool) (eights : Nat) : State :=
  if !s.canHears c || (sending && (s.ch c).offer.isNone) then s
  else (s.busError c kind sending exempt eights).nextOnBus c

/-- A stuff, form, ACK, bit 1, bit 0 or CRC error (kinds 0–5). `exempt` marks one that ISO 11898-1 exempts from counting at a sender,
`eights` the further raises by 8 at a receiver. -/
def execCanBusError (dt : Nat) (chan : Fin 72) (kind : Fin 6) (sending exempt : Bool) (eights : Nat) (s : State) : Out :=
  goRun dt (fun s => s.errorOnBus chan.val (kind.val + 1) sending exempt eights) s

/-- A transmit buffer is requested. -/
def execTransmitRequest (dt sess : Nat) (chan : Fin 72) (buf : Fin 32) (s : State) : Out :=
  goWrite dt sess (chObj chan.val 6) 3 buf.val s

/-- A pending transmit buffer is cancelled. -/
def execTransmitCancel (dt sess : Nat) (chan : Fin 72) (buf : Fin 32) (s : State) : Out :=
  goWrite dt sess (chObj chan.val 6) 4 buf.val s

/-! ### Bus-off (R164) -/

/-- Recovery is written. -/
def execBusOffRecover (dt sess : Nat) (chan : Fin 72) (s : State) : Out := goWrite dt sess (chObj chan.val 4) 2 1 s

/-- 128 runs of 11 recessive bits have passed since the recovery was written: the channel is error-active with its counters at 0; a
disabled one is offline. -/
def State.recovered (s : State) (c : Nat) : State :=
  let o := chObj c 4
  let due := (s.ch c).recoverAt + clockNs (1408 * s.nomClocks c)
  if s.errState c != 2 || !s.rdB o 2 0 || s.now < due || !s.present (chGroup c) || s.chDead c then s
  else
    let on : Bool := s.proto c != 0
    let s := (s.wr o 1 (setFld (s.rdF o 1 20 18 * 2 ^ 18) 17 16 (if on then 0 else 3))).wr o 2 0
    let s := (if on then s.wrB (chObj c 0) 2 3 true else s).event (chGroup c) 0x72 (64 + c) 0 0
    s.nextOnBus c

/-- Bus-off recovery ends. -/
def execBusOffRecovered (dt : Nat) (chan : Fin 72) (s : State) : Out := goRun dt (fun s => s.recovered chan.val) s

/-! ### The schedule matrix (R167–R171) -/

/-- A reference message with a cycle count is offered. -/
def State.offerReference (s : State) (c count : Nat) : State :=
  if (s.ch c).offer.isSome || !s.canSends c then s
  else
    let s := s.wrF (chObj c 9) 4 7 2 count
    s.modCh c fun d => { d with offer := some ⟨3, 0, s.referenceForm c⟩ }

/-- The cycle count after the present one. -/
def State.nextCount (s : State) (c : Nat) : Nat := (s.cycleCount c + 1) % s.cycles c

/-- The device begins basic cycles: it is master, or a potential master of a higher priority than the master (R171). -/
def State.leads (s : State) (c : Nat) : Bool :=
  let o := chObj c 9
  s.rdF o 1 1 0 == 2 && (s.rdB o 4 0 || (s.rdF o 1 5 3 < s.rdF o 4 10 8 : Bool))

/-- The window's owner was never written, or the channel cannot send: the window is missed (R165, R168). -/
def State.windowMissed (s : State) (c : Nat) : Bool :=
  s.windowCell c % 4 == 1 && (!tb (s.ch c).written (s.windowCell c / 4 % 32) || !s.canSends c)

/-- What is still offered at the end of a window goes back; an exclusive owner's window is missed. -/
def State.windowEnds (s : State) (c : Nat) : State :=
  match (s.ch c).offer with
  | none => s
  | some o =>
    if o.src = 3 then s
    else
      let s := s.modCh c fun d => { d with offer := none }
      if o.src = 2 then s.chCount c 0x13 1 else s

/-- The next column of the cycle in force begins; at the end of the cycle a leading device offers the next reference message. -/
def State.columnBegins (s : State) (c : Nat) : State :=
  let d := s.ch c
  let n := d.col + 1
  if !s.matrixOn c || !d.running || s.now < d.cycleAt + s.columnStart c n then s
  else
    let s := s.windowEnds c
    if n < s.columns c then
      let s := s.modCh c fun d => { d with col := n, waited := [], served := false }
      let s := if s.windowMissed c then s.chCount c 0x13 1 else s
      s.nextOnBus c
    else
      let s := s.modCh c fun d => { d with col := 0, running := false, waited := [], served := false }
      if s.leads c then s.offerReference c (s.nextCount c) else s

/-- A window begins. -/
def execColumnStart (dt : Nat) (chan : Fin 72) (s : State) : Out := goRun dt (fun s => s.columnBegins chan.val) s

/-- A reference message of a master of priority `prio` is received: the master yields to a higher one; the cycle begins. -/
def State.refHeard (s : State) (c prio count ago : Nat) : State :=
  let o := chObj c 9
  if !s.matrixOn c || s.rdF o 1 1 0 == 0 || !s.canHears c then s
  else
    let s := s.chCount c 0x16 1
    let s := s.modCh c fun d => { d with offer := none }
    let s :=
      if s.rdB o 4 0 then (if prio < s.rdF o 1 5 3 then (s.chCount c 0x17 1).masterChange c prio false else s)
      else if !s.rdB o 4 1 || s.rdF o 4 10 8 != prio then s.masterChange c prio false
      else s
    (s.wrF o 4 7 2 count).beginCycle c (s.now - ago)

/-- A reference message is received; `cycle` its cycle count, `ago` the ns since its start. -/
def execReferenceMessageReceived (dt : Nat) (chan : Fin 72) (prio : Fin 8) (cycle : Fin 64) (ago : Nat) (s : State) : Out :=
  goRun dt (fun s => s.refHeard chan.val prio.val cycle.val ago) s

/-- The master has been silent for a cycle: a potential master offers its own reference message. -/
def State.masterSilent (s : State) (c : Nat) : State :=
  let o := chObj c 9
  if !s.matrixOn c || s.rdF o 1 1 0 != 2 || s.rdB o 4 0 || s.now < (s.ch c).lastRef + s.columnStart c (s.columns c) then s
  else s.offerReference c (if s.rdB o 4 1 then s.nextCount c else 0)

/-- The current master is silent. -/
def execMasterTimeout (dt : Nat) (chan : Fin 72) (s : State) : Out := goRun dt (fun s => s.masterSilent chan.val) s

/-! ### LIN (R173–R176, R366) -/

/-- The response awaited did not come: counted by a commander (R173). -/
def State.noResponse (s : State) (c : Nat) : State :=
  match (s.ch c).await_ with
  | none => s
  | some (id, _, _) =>
    let s := s.modCh c fun d => { d with await_ := none }
    if s.proto c = 4 then (s.chCount c 0x18 1).slotError c id 1 else s

/-- The next slot of a commander's schedule: the Run bit is looked at between slots. -/
def State.slotBegins (s : State) (c : Nat) : State :=
  if s.proto c != 4 || !s.chLive c || (s.ch c).quiet || s.now < (s.ch c).slotEnd then s
  else
    let s := s.noResponse c
    if !s.rdB (chObj c 0x11) 2 4 then s.modCh c fun d => { d with runs := false }
    else if (s.ch c).runs then s.linSlotStart c
    else
      let t := s.rdF (chObj c 0x11) 2 3 0
      (s.modCh c fun d => { d with runs := true, table := t, slot := s.tableStart c t, back := none }).linSlotStart c

/-- A commander's next slot starts. -/
def execLinSlotStart (dt : Nat) (lin : Fin 24) (s : State) : Out := goRun dt (fun s => s.slotBegins (72 + lin.val)) s

/-- The time for a response has passed. -/
def execLinResponseTimeout (dt : Nat) (lin : Fin 24) (s : State) : Out :=
  goRun dt (fun s =>
    let c := 72 + lin.val
    match (s.ch c).await_ with
    | some (_, due, _) => if due ≤ s.now then s.noResponse c else s
    | none => s) s

/-- The table selection is written. -/
def execLinTableSwitch (dt sess : Nat) (lin : Fin 24) (value : BitVec 32) (s : State) : Out :=
  goWrite dt sess (chObj (72 + lin.val) 0x11) 2 value.toNat s

/-- A break with its sync field and protected identifier reaches a responder: `sync` is the bit time measured, in clocks. -/
def State.linHeard (s : State) (c pid brk sync : Nat) : State :=
  if s.proto c != 5 || !s.chLive c || (s.ch c).quiet || brk < 11 then s
  else
    let s := (s.wrB (chObj c 0) 2 3 true).modCh c fun d => { d with lastBus := s.now, await_ := none }
    let n := s.linClocks c
    let id := pid % 64
    if sync * 100 < n * 86 ∨ n * 114 < sync * 100 then (s.chCount c 0x1A 1).slotError c id 4
    else if linPid id ≠ pid then s
    else
      let (dir, _, len) := s.linFrame c id
      if dir = 1 then s.linPublish c id
      else if dir = 2 then s.modCh c fun d => { d with await_ := some (id, s.now + s.linNominal c len * 14 / 10, 0) }
      else s

/-- A LIN header arrives. -/
def execLinHeaderReceived (dt : Nat) (lin : Fin 24) (pid : Byte) (breakBits syncClocks : Nat) (s : State) : Out :=
  goRun dt (fun s => s.linHeard (72 + lin.val) pid.toNat breakBits syncClocks) s

/-- The data of the go-to-sleep command. -/
def sleepData : List Byte := fill 1 0 ++ fill 7 0xFF

/-- A subscribed response with an error: in an event-triggered slot a collision, else counted by its kind. -/
def State.linBad (s : State) (c id res : Nat) (framing : Bool) : State :=
  if res ≠ 0 then s.linCollision c res
  else
    let s := s.modCh c fun d => { d with await_ := none }
    if framing then (s.chCount c 0x1A 1).slotError c id 3 else (s.chCount c 0x19 1).slotError c id 2

/-- A response on an L bus: awaited and subscribed, or the channel's own, whose errors set a responder's response-error bit. The
go-to-sleep command makes a responder take its Listen levels. -/
def State.linResponse (s : State) (c pid : Nat) (data : List Byte) (sum : Nat) (framing : Bool) (dom cls ago : Nat) : State :=
  let id := pid % 64
  let (dir, classic, n) := s.linFrame c id
  let good : Bool := !framing && linSum classic pid data == sum
  let s := s.modCh c fun d => { d with lastBus := s.now }
  let s :=
    if dir = 1 then
      if good then s
      else (if framing then s.chCount c 0x1A 1 else s).modCh c fun d => { d with respErr := s.proto c == 5 || d.respErr }
    else
      match (s.ch c).await_ with
      | none => s
      | some (i, due, res) =>
        if i != id || due < s.now then s
        else if framing || data.length != n then s.linBad c id res true
        else if !good then s.linBad c id res false
        else (s.modCh c fun d => { d with await_ := none }).goodFrame c (linBytes pid sum classic data) dom cls ago
  if s.proto c = 5 ∧ id = 0x3C ∧ good ∧ data = sleepData then s.modCh c fun d => { d with quiet := true } else s

/-- A LIN response is received, with its checksum; `ago` the ns since its break field. -/
def execLinFrameReceived (dt : Nat) (lin : Fin 24) (pid : Byte) (data : List Byte) (checksum : Byte) (framing : Bool) (domain : Fin 64)
    (cls : Fin 8) (ago : Nat) (errs : ReadErrs) (s : State) : Out :=
  goRun dt (fun s =>
    let c := 72 + lin.val
    if s.canHears c && !(s.ch c).quiet then
      (s.meetErrs errs).linResponse c pid.toNat data checksum.toNat framing domain.val cls.val ago
    else s) s

/-- A responder without bus activity for 4 s takes its Listen levels. -/
def execLinInactivityTimeout (dt : Nat) (lin : Fin 24) (s : State) : Out :=
  goRun dt (fun s =>
    let c := 72 + lin.val
    if s.proto c = 5 ∧ (s.ch c).lastBus + 4000000000 ≤ s.now then s.modCh c fun d => { d with quiet := true } else s) s

end Sys2Proof.Machine
end

