-- ==== Sys2Proof/Machine/CmdConsist.lean ====
section
/-! DEFINITION. The commands of Chapter 19: drawbar frames by their mode, the timers of the consist logic, the session target. -/

namespace Sys2Proof.Machine

/-- An effect of the consist logic: carriage 21 is PRESENT and the part forwards. -/
def goConsist (dt : Nat) (f : State → State) (s : State) : Out :=
  goRun dt (fun s => if s.present 21 && s.startup.forwarding then f s else s) s

/-- A drawbar frame of a mode stands verified, its bytes without FCS; `ago` the ns since its start-of-frame. The sender is the
neighbour. Without a cell it is refused with reason 0. -/
def State.drawFrame (s : State) (p mode ago : Nat) (bs : List Byte) (run : State → Nat → DrawView → State) : State :=
  let v := drawView bs
  if !s.hears p || !s.drawbar p || !s.present (ingressGroup p) || v.bad || v.mode != mode then s
  else
    let f := { blankFrame p 0 0 (s.rxTime p ago) with secured := true }
    let (id, t) := s.newFrame f
    let (t, ok) := t.appendBytes id (withFcs bs)
    if ok then
      let t := t.modFrame id fun f => { f with whole := true, released := true }
      run (t.withConsist fun c => { c with neighbour := mapSet c.neighbour p v.sender }) id v
    else s.countOverflow p { f with bytes := withFcs bs }

/-- A drawbar frame at a B port. -/
def goDrawbar (dt : Nat) (port : Fin 12) (mode ago : Nat) (bytes : List Byte) (run : State → Nat → DrawView → State) (s : State) : Out :=
  goConsist dt (fun s => s.drawFrame port.val mode ago bytes run) s

/-- Mode 0. -/
def execDrawbarLookupFrame (dt : Nat) (port : Fin 12) (bytes : List Byte) (ago : Nat) (s : State) : Out :=
  goDrawbar dt port 0 ago bytes (fun s id v => s.drawLookup id v) s

/-- Mode 1. -/
def execDrawbarUnicastFrame (dt : Nat) (port : Fin 12) (bytes : List Byte) (ago : Nat) (s : State) : Out :=
  goDrawbar dt port 1 ago bytes (fun s id v => s.drawUnicast port.val id v) s

/-- Mode 2. -/
def execDrawbarFloodFrame (dt : Nat) (port : Fin 12) (bytes : List Byte) (ago : Nat) (s : State) : Out :=
  goDrawbar dt port 2 ago bytes (fun s id v => s.drawFlood port.val id v) s

/-- Mode 3; `dist` the distance of its sender by this drawbar, in devices. -/
def execRollCallReceived (dt : Nat) (port : Fin 12) (bytes : List Byte) (dist : Fin 8) (s : State) : Out :=
  goDrawbar dt port 3 0 bytes (fun s id v => s.drawMessage port.val id v [(port.val, dist.val)]) s

/-- Mode 4. -/
def execManagementRequest (dt : Nat) (port : Fin 12) (bytes : List Byte) (s : State) : Out :=
  goDrawbar dt port 4 0 bytes (fun s id v => s.drawMessage port.val id v []) s

/-- Mode 5. -/
def execManagementAnswer (dt : Nat) (port : Fin 12) (bytes : List Byte) (s : State) : Out :=
  goDrawbar dt port 5 0 bytes (fun s id v => s.drawMessage port.val id v []) s

/-! ### Timers (R462–R468) -/

/-- Every 10 ms. -/
def execRollCallTimer (dt : Nat) (s : State) : Out := goConsist dt State.sendRollCall s

/-- A member has not been heard for 30 ms. -/
def State.heardOut (s : State) (d : Nat) : State :=
  match mapGet s.consist.members d with
  | some m => if m.at_ + 30000000 ≤ s.now then (s.loseMember d).updateMaster else s
  | none => s

/-- The heard limit of a member passes. -/
def execHeardTimeout (dt : Nat) (d : Fin 8) (s : State) : Out := goConsist dt (fun s => s.heardOut d.val) s

/-- A member of higher rank has held for the preempt hold. -/
def execPreemptHoldExpiry (dt : Nat) (s : State) : Out := goConsist dt State.updateMaster s

/-- A warden has been absent for the grace. -/
def execWardenGraceExpiry (dt : Nat) (s : State) : Out := goConsist dt State.updateMaster s

/-- A forwarded request has no answer within the forward timeout. -/
def execForwardTimeout (dt : Nat) (slot : Fin 32) (s : State) : Out := goOn dt (fun s => s.forwardTimeout slot.val) s

/-- A number conflict has been absent for 1 s: the device rejoins. -/
def State.conflictEnds (s : State) : State :=
  if s.consist.conflict ∧ s.consist.conflictAt + 1000000000 ≤ s.now then
    s.withConsist fun c => { c with conflict := false, left := false }
  else s

/-- A number conflict clears. -/
def execConflictClear (dt : Nat) (s : State) : Out := goConsist dt State.conflictEnds s

/-- A write of 0xA001:01. -/
def execSessionTargetWrite (dt sess : Nat) (value : BitVec 32) (s : State) : Out := goWrite dt sess 0xA001 1 value.toNat s

end Sys2Proof.Machine
end

