-- ==== Sys2Proof/Machine/CmdPower.lean ====
section
/-! DEFINITION. The commands of Chapter 13: oscillators, references, clock gating, power states, regulators and PMBus. -/

namespace Sys2Proof.Machine

/-- An effect of the clock and power managers in the power states that they run in with VCORE or VAON up: RUN, SLEEP and DEEP_SLEEP. -/
def goPower (dt : Nat) (f : State → State) (s : State) : Out :=
  goAny dt (fun s => if s.mode = .run ∨ s.mode = .sleep ∨ s.mode = .deepSleep then f s else s) s

/-! ### Oscillators and references (R338–R346) -/

/-- A window of 16 AOSC cycles ends with a count of IOSC cycles. -/
def execIoscWindow (dt : Nat) (count : Fin 2048) (s : State) : Out := goPower dt (fun s => s.ioscWindow count.val) s

/-- A failed IOSC is restarted. -/
def execIoscRequalify (dt : Nat) (s : State) : Out := goPower dt State.ioscRequalify s

/-- A window of 1,024 IOSC cycles ends with a count of XTAL cycles. -/
def execXtalWindow (dt : Nat) (count : Fin 512) (s : State) : Out := goPower dt (fun s => s.xtalWindow count.val) s

/-- A write of 0x2002:02. -/
def execReferenceSelect (dt sess : Nat) (value : BitVec 32) (s : State) : Out := goWrite dt sess 0x2002 2 value.toNat s

/-- A write of a clock's enables. -/
def execClockEnableWrite (dt sess : Nat) (clock : Fin 10) (value : Byte) (s : State) : Out :=
  goOn dt (fun s => s.asks sess 0x2003 1 clock.val [value]) s

/-- A monitor trips: XTAL, IOSC, SREF and PCIE_REFCLK have one, and a gated clock does not trip. -/
def State.monitorTrip (s : State) (k : Nat) : State :=
  if (k = 1 ∧ !s.power.ioscOff) ∨ ((k = 2 ∨ k = 3 ∨ k = 9) ∧ s.clockOn k s.mode) then s.clockLoss k else s

/-- A loss-of-clock monitor trips. -/
def execLossOfClock (dt : Nat) (clock : Fin 10) (s : State) : Out := goPower dt (fun s => s.monitorTrip clock.val) s

/-- The PLLs that wait for a reference lock: clocks 4–8 together, or the PCIe PLL. -/
def execPllLocked (dt : Nat) (clock : Fin 10) (s : State) : Out := goPower dt (fun s => s.pllLocked clock.val) s

/-- 200 µs have passed from an XTAL stop without a qualified IOSC (Table 13.3). -/
def State.fallbackEnds (s : State) : State :=
  match s.power.lost with
  | some l => if l.how = 0 ∧ s.reference = 1 ∧ l.at_ + 200000 ≤ s.now then (s.event 0x80 0xE1 2 3 0).standstill else s
  | none => s

/-- IOSC did not qualify in time. -/
def execFallbackTimeout (dt : Nat) (s : State) : Out := goPower dt State.fallbackEnds s

/-- AOSC stops (R348). Its monitor is timed from IOSC, so nothing is seen while IOSC does not run. -/
def State.aoscStops (s : State) : State :=
  if s.power.ioscOff then s
  else { s with mode := .stopped }.withPower fun p => { p with faultN := true, cause := 3 }

/-- The AOSC monitor trips. -/
def execAoscFailure (dt : Nat) (s : State) : Out := goPower dt State.aoscStops s

/-! ### Power states (R349–R351) -/

/-- Power command 1. -/
def execSleepCommand (dt sess : Nat) (s : State) : Out := goWrite dt sess 0x2005 2 1 s

/-- Power command 2. -/
def execDeepSleepCommand (dt sess : Nat) (s : State) : Out := goWrite dt sess 0x2005 2 2 s

/-- Power command 3. -/
def execOffCommand (dt sess : Nat) (s : State) : Out := goWrite dt sess 0x2005 2 3 s

/-- Power command 4. -/
def execRunCommand (dt sess : Nat) (s : State) : Out := goWrite dt sess 0x2005 2 4 s

/-- VAON is still present 100 ms after PHOLD was released. -/
def execPholdReleaseTimeout (dt : Nat) (s : State) : Out := goAny dt State.pholdTimeout s

/-! ### Regulators (R352–R357) -/

/-- A supply-good input rises; the last rail of a wake ends DEEP_SLEEP (R382). -/
def execSupplyGoodRise (dt : Nat) (pg : Fin 8) (s : State) : Out := goPower dt (fun s => (s.supplyGood pg.val).leaveDeepSleep) s

/-- A supply-good has not risen within its timeout. -/
def execSequencingTimeout (dt : Nat) (s : State) : Out := goPower dt State.sequencingTimeout s

/-- 100 ms have passed since a sequencing failure. -/
def execSequenceRetry (dt : Nat) (s : State) : Out := goPower dt State.sequenceRetry s

/-- A supply-good input has been low for `ns`. -/
def execSupplyGoodLost (dt : Nat) (pg : Fin 8) (ns : Nat) (s : State) : Out := goPower dt (fun s => s.supplyLost pg.val ns) s

/-- The readings of the PMBus rails. -/
def execPmbusPoll (dt : Nat) (l : List PmbusRead) (s : State) : Out := goPower dt (fun s => s.pmbusPoll l) s

/-- PMB_ALERT_N, with the STATUS_WORD of the rail that asserts it. -/
def execPmbusAlert (dt : Nat) (rail : Fin 8) (status : BitVec 16) (s : State) : Out :=
  goPower dt (fun s => s.pmbusAlert rail.val status.toNat) s

/-- VFAB has been below 0.63 V for more than 1 µs. -/
def execVfabFault (dt : Nat) (s : State) : Out := goOn dt (fun s => if s.power.halted then s else s.vfabFault 4 0) s

/-- VFAB has been back for 1 ms (`back`), or has stayed away for 10 ms. -/
def execVfabRecoveryTimeout (dt : Nat) (back : Bool) (s : State) : Out := goOn dt (fun s => s.vfabRecovery back) s

end Sys2Proof.Machine
end

