-- ==== Sys2Proof/Machine/CmdControl.lean ====
section
/-! DEFINITION. The commands of Chapter 15: mismatches, firmware actions, the starts of the control pairs. -/

namespace Sys2Proof.Machine

/-- A control pair's carriage: station, signal, warden. -/
def pairCarriage (p : Fin 3) : Nat := 43 + p.val

/-- A mismatch of a pair; channels 0–4 are bus, register write, branch, double memory error, comparator disagreement. -/
def execLockstepMismatch (dt : Nat) (pair : Fin 3) (channel : Fin 5) (s : State) : Out :=
  goOn dt (fun s => s.mismatch (pairCarriage pair) (channel.val + 1)) s

/-- A mismatch of the power sequencer. -/
def execSequencerMismatch (dt : Nat) (channel : Fin 5) (s : State) : Out := goPower dt (fun s => s.sequencerMismatch (channel.val + 1)) s

/-- A firmware action: the word of 0x1F00:01 with its Cover bit, then the start. -/
def goFirmware (dt sess act : Nat) (cover : Bool) (s : State) : Out :=
  goOn dt (fun s => s.putsAll sess [(0x1F00, 1, act + 256 * cover.toNat), (0x1F00, 2, 1)]) s

/-- Action 1. -/
def execFwErase (dt sess : Nat) (s : State) : Out := goFirmware dt sess 1 false s

/-- Action 2. -/
def execFwCheck (dt sess : Nat) (s : State) : Out := goFirmware dt sess 2 false s

/-- Action 3. -/
def execFwActivate (dt sess : Nat) (cover : Bool) (s : State) : Out := goFirmware dt sess 3 cover s

/-- Action 4. -/
def execFwConfirm (dt sess : Nat) (s : State) : Out := goFirmware dt sess 4 false s

/-- Action 5. -/
def execFwRevert (dt sess : Nat) (cover : Bool) (s : State) : Out := goFirmware dt sess 5 cover s

/-- The erase ends; `ok` false is a flash error. -/
def execFwEraseDone (dt : Nat) (ok : Bool) (s : State) : Out := goOn dt (fun s => s.eraseDone ok) s

/-- A write of a record of window 0x1F01. -/
def execFwSlotRecordWrite (dt sess : Nat) (rec_ : Fin 524288) (bytes : List Byte) (s : State) : Out :=
  goOn dt (fun s => s.asks sess 0x1F01 0 (16 * rec_.val) bytes) s

/-- A restarted pair ends its start with its comparator test (passed, failing bit, µs); `joinPass` is the test of a pair that joins. -/
def execPairPresent (dt : Nat) (pair : Fin 3) (pass : Bool) (bit us : Nat) (joinPass : Bool) (s : State) : Out :=
  goOn dt (fun s => s.pairPresent (pairCarriage pair) pass bit us joinPass) s

/-- A pair has not reached PRESENT within 250 ms of its fence. -/
def execPairStartTimeout (dt : Nat) (pair : Fin 3) (s : State) : Out := goOn dt (fun s => s.pairLate (pairCarriage pair)) s

end Sys2Proof.Machine
end

