-- ==== Sys2Proof/Machine/Sdo.lean ====
section
/-! DEFINITION. The SDO server (R435–R438) on the C channels: the services of CiA 301 that Table 17.6 names, and the timeout. -/

namespace Sys2Proof.Machine

/-- A request that stands in the delivery queue of port 46 is taken by the warden. -/
def State.takeRequest (s : State) (isIt : Frame → Bool) : State :=
  let q := mapGetD s.buf.delivery 46 ⟨[], [], none⟩
  match q.frames.find? fun id => (s.frame? id).any isIt with
  | some id => (s.dropRef id 46).withBuf fun b =>
      { b with delivery := mapPut ⟨[], [], none⟩ b.delivery 46 { q with frames := q.frames.erase id } }
  | none => s

/-- The request of a client as the frame that brought it. -/
def State.sdoRequestFrame (s : State) (c : Nat) (data : List Byte) : Frame :=
  { blankFrame (64 + c) 0 0 0 with
    kind := 1,
    bytes := canBytes { ide := false, rtr := false, id := 0x600 + s.rdF 0x1100 1 6 0, fdf := false, xlf := false, brs := false, esi := false,
                        sec := false, sdt := 0, len := 8, vcid := 0, dlc := 8, af := 0 } data }

/-- The offset of an access by SDO: a window is reached at the session's cursor (R438). -/
def State.sdoOff (s : State) (c idx sub : Nat) : Nat := if isWindow idx sub then (s.own (sdoSess c)).cursor else 0

/-- A channel's session acts on another device. -/
def State.sdoRemote (s : State) (c idx : Nat) : Bool :=
  (s.forwardSlot (sdoSess c)).isSome && !(0xA000 ≤ idx && idx ≤ 0xA0FF)

/-- What refuses a segmented or block download at its initiate: the warden busy, the object or the role, an indicated size that does not
fit, another session's lock. -/
def State.sdoRefusal (s : State) (c idx sub : Nat) (size : Option Nat) : Nat :=
  if s.sdoRemote c idx then 0
  else
    let len := match size, objRow idx sub with
      | some n, _ => n
      | none, some r => if r.window then 0 else r.size
      | none, none => 0
    firstAbort [writeAbort 1 idx sub (s.sdoOff c idx sub) len,
      abIf (!isLocal idx && idx != 0x1130 && s.lockedFor (sdoSess c) idx) abLocked]

/-- A download of several frames begins: it holds the lock of its object from here to its end (R429). -/
def State.sdoBegin (s : State) (c kind idx sub : Nat) (size : Option Nat) (blk : Nat) (crc : Bool) (answer : List Byte) : State :=
  let a := s.sdoRefusal c idx sub size
  if a ≠ 0 then (if a = abLocked then s.bump 0x1120 2 1 else s).sdoAbort c idx sub a
  else
    let prior := match s.lockOf idx with
      | some l => l.until_
      | none => none
    let s := if s.sdoRemote c idx || isLocal idx then s else s.claimLock (sdoSess c) idx
    (s.setSdo c ⟨kind, idx, sub, [], size, 0, 0, blk, crc, 0, [], 0, prior⟩).sdoSend c answer

/-- Initiate download (ccs 1). An expedited one without its size indicated carries as many bytes as the object has. -/
def State.sdoInitDownload (s : State) (c : Nat) (d : List Byte) : State :=
  let s := s.endSdo c
  let b := byteAt d 0
  let idx := leVal ((d.drop 1).take 2)
  let sub := byteAt d 3
  if tb b 1 then
    let n :=
      if tb b 0 then 4 - fld b 3 2
      else
        match objRow idx sub with
        | some r => if r.window ∨ 4 < r.size then 4 else r.size
        | none => 4
    s.serve (sdoSess c) (.sdo c 0 idx sub n 0 false) (.write idx sub (s.sdoOff c idx sub) ((d.drop 4).take n))
  else
    s.sdoBegin c 0 idx sub (if tb b 0 then some (leVal ((d.drop 4).take 4)) else none) 0 false (leBytes 1 0x60 ++ sdoMux idx sub)

/-- The whole of a download applied at its end. -/
def State.sdoApply (s : State) (c kind toggle : Nat) (x : SdoXfer) (data : List Byte) : State :=
  if x.size.getD data.length ≠ data.length then s.sdoAbort c x.idx x.sub 0x06000006
  else
    (s.endSdo c).serve (sdoSess c) (.sdo c kind x.idx x.sub data.length toggle false)
      (.write x.idx x.sub (s.sdoOff c x.idx x.sub) data)

/-- No transfer that the frame fits runs. -/
def State.sdoUnknown (s : State) (c : Nat) : State :=
  match s.sdo c with
  | some x => s.sdoAbort c x.idx x.sub 0x06000001
  | none => s.sdoAbort c 0 0 0x06000001

/-- Download segment (ccs 0). -/
def State.sdoDownloadSegment (s : State) (c : Nat) (d : List Byte) : State :=
  match s.sdo c with
  | none => s.sdoUnknown c
  | some x =>
    let b := byteAt d 0
    let t := bit b 4
    if x.kind ≠ 0 then s.sdoUnknown c
    else if x.toggle ≠ t then s.sdoAbort c x.idx x.sub 0x06000002
    else
      let data := x.data ++ (d.drop 1).take (7 - fld b 3 1)
      if tb b 0 then s.sdoApply c 1 t x data
      else (s.setSdo c { x with data := data, toggle := 1 - t }).sdoSend c (leBytes 1 (0x20 + 16 * t))

/-- Initiate upload (ccs 2). -/
def State.sdoInitUpload (s : State) (c : Nat) (d : List Byte) : State :=
  let s := s.endSdo c
  let idx := leVal ((d.drop 1).take 2)
  let sub := byteAt d 3
  s.serve (sdoSess c) (.sdo c 3 idx sub 0 0 false) (.read idx sub (s.sdoOff c idx sub) 0)

/-- Upload segment (ccs 3). -/
def State.sdoUploadSegment (s : State) (c : Nat) (d : List Byte) : State :=
  match s.sdo c with
  | none => s.sdoUnknown c
  | some x =>
    let t := bit (byteAt d 0) 4
    if x.kind ≠ 1 then s.sdoUnknown c
    else if x.toggle ≠ t then s.sdoAbort c x.idx x.sub 0x06000002
    else
      let part := x.data.take 7
      let rest := x.data.drop 7
      let s := if rest = [] then (s.endSdo c).moveCursor (sdoSess c) x.idx x.sub (x.size.getD 0)
        else s.setSdo c { x with data := rest, toggle := 1 - t }
      s.sdoSend c (leBytes 1 (16 * t + 2 * (7 - part.length) + (if rest = [] then 1 else 0)) ++ part)

/-! ### Block transfers -/

/-- The largest block size. -/
def blockMax : Nat := 127

/-- Initiate block download (ccs 6, cs 0). -/
def State.sdoInitBlockDownload (s : State) (c : Nat) (d : List Byte) : State :=
  let s := s.endSdo c
  let b := byteAt d 0
  let idx := leVal ((d.drop 1).take 2)
  let sub := byteAt d 3
  s.sdoBegin c 2 idx sub (if tb b 1 then some (leVal ((d.drop 4).take 4)) else none) blockMax (tb b 2)
    (leBytes 1 0xA4 ++ sdoMux idx sub ++ leBytes 1 blockMax)

/-- A segment of a block download: only the next one in order adds its 7 bytes; the last of a block is answered with the number of the
last segment taken. -/
def State.sdoBlockSegment (s : State) (c : Nat) (x : SdoXfer) (d : List Byte) : State :=
  let n := byteAt d 0 % 128
  let final := tb (byteAt d 0) 7
  if n = 0 ∨ x.blk < n then s.sdoAbort c x.idx x.sub 0x06000004
  else
    let next : Bool := n == x.seg + 1
    let x := if next then { x with data := x.data ++ sliceZ d 1 7, seg := n } else x
    if final || n == x.blk then
      (s.setSdo c { x with seg := 0, phase := if next && final then 1 else 0 }).sdoSend c (leBytes 1 0xA2 ++ leBytes 1 x.seg ++ leBytes 1 x.blk)
    else s.setSdo c x

/-- The end of a block download (ccs 6, cs 1): the bytes of the last segment that count, the CRC, the size. -/
def State.sdoBlockEnd (s : State) (c : Nat) (x : SdoXfer) (d : List Byte) : State :=
  let data := x.data.take (x.data.length - fld (byteAt d 0) 4 2)
  if x.crc ∧ crc16 data ≠ leVal ((d.drop 1).take 2) then s.sdoAbort c x.idx x.sub 0x06000005
  else s.sdoApply c 2 0 x data

/-- A frame of a block download. -/
def State.sdoBlockDownload (s : State) (c : Nat) (d : List Byte) : State :=
  match s.sdo c with
  | some x =>
    if x.kind = 2 ∧ x.phase = 0 then s.sdoBlockSegment c x d
    else if !tb (byteAt d 0) 0 then s.sdoInitBlockDownload c d
    else if x.kind = 2 then s.sdoBlockEnd c x d
    else s.sdoUnknown c
  | none => if tb (byteAt d 0) 0 then s.sdoUnknown c else s.sdoInitBlockDownload c d

/-- Segments of a block sent, from number `k`: up to `n` of 7 bytes; the last of the data is marked. -/
def State.sdoSendBlock (s : State) (c k : Nat) (data : List Byte) : Nat → Nat × State
  | 0 => (k - 1, s)
  | n + 1 =>
    if data = [] then (k - 1, s)
    else
      let final := if data.length ≤ 7 then 128 else 0
      (s.sdoSend c (leBytes 1 (k + final) ++ data.take 7)).sdoSendBlock c (k + 1) (data.drop 7) n

/-- The next block of a block upload. -/
def State.sdoNextBlock (s : State) (c : Nat) (x : SdoXfer) : State :=
  let (n, s) := s.sdoSendBlock c 1 x.data x.blk
  s.setSdo c { x with seg := n, phase := 0 }

/-- A frame of a block upload (ccs 5): initiate, start, acknowledge, end. -/
def State.sdoBlockUploadStep (s : State) (c : Nat) (d : List Byte) : State :=
  let b := byteAt d 0
  if b % 4 = 0 then
    let s := s.endSdo c
    let idx := leVal ((d.drop 1).take 2)
    let sub := byteAt d 3
    let blk := byteAt d 4
    if blk = 0 ∨ blockMax < blk then s.sdoAbort c idx sub 0x06000004
    else s.serve (sdoSess c) (.sdo c 4 idx sub blk 0 (tb b 2)) (.read idx sub (s.sdoOff c idx sub) 0)
  else
    match s.sdo c with
    | none => s.sdoUnknown c
    | some x =>
      if x.kind ≠ 3 then s.sdoUnknown c
      else if b % 4 = 3 ∧ x.phase = 2 then s.sdoNextBlock c x
      else if b % 4 = 2 ∧ x.phase = 0 then
        let ack := byteAt d 1
        let blk := byteAt d 2
        if x.seg < ack ∨ blk = 0 ∨ blockMax < blk then s.sdoAbort c x.idx x.sub 0x06000004
        else
          let rest := x.data.drop (7 * ack)
          if rest = [] then
            (s.setSdo c { x with data := [], phase := 1 }).sdoSend c
              (leBytes 1 (0xC1 + 4 * ((7 - x.whole.length % 7) % 7)) ++ leBytes 2 (if x.crc then crc16 x.whole else 0))
          else s.sdoNextBlock c { x with data := rest, blk := blk }
      else if b % 4 = 1 ∧ x.phase = 1 then (s.endSdo c).moveCursor (sdoSess c) x.idx x.sub x.whole.length
      else s.sdoUnknown c

/-! ### A request frame -/

/-- What a frame asks of the server: its command specifier, or a segment where a block download expects one (0 download segment, 1
initiate download, 2 initiate upload, 3 upload segment, 4 abort, 5 block upload, 6 block download, 7 unknown). -/
def State.sdoService (s : State) (c : Nat) (d : List Byte) : Nat :=
  match s.sdo c with
  | some x => if x.kind = 2 ∧ x.phase = 0 ∧ byteAt d 0 ≠ 0x80 then 6 else byteAt d 0 / 32
  | none => byteAt d 0 / 32

/-- A request frame of 8 data bytes on a channel (R435): discarded and counted where the channel is not enabled or the length is another;
answered busy while the warden is not PRESENT (R398); discarded while its session is blocked (R447); an unknown specifier is aborted. The
row of another service leaves it alone. -/
def State.sdoRow (s : State) (c service : Nat) (d : List Byte) (run : State → State) : State :=
  if d.length ≠ 8 ∨ !s.sdoEnabled (64 + c) then s.bump 0x1100 6 1
  else
    let s := s.takeRequest fun f => f.ingress == 64 + c && f.kind == 1 && f.bytes.drop 16 == d
    if !s.present 45 || !s.startup.measured then s.busyAnswer (s.sdoRequestFrame c d)
    else if s.blocked (sdoSess c) then s
    else
      let is := s.sdoService c d
      if is = 7 then s.sdoUnknown c else if is = service then run s else s

/-- The timeout of 0x1100:05 has passed since a transfer's last frame (R437). -/
def State.sdoTimeout (s : State) (c : Nat) : State :=
  match s.sdo c with
  | none => s
  | some x => if x.at_ + s.rdF 0x1100 5 13 0 * 1000000 ≤ s.now then s.sdoAbort c x.idx x.sub 0x06000003 else s

end Sys2Proof.Machine
end

