-- ==== Sys2Proof/Machine/Dalmoly.lean ====
section
/-! DEFINITION. The Dalmoly server (R439–R443): messages over UDP, sessions, the order of checks. -/

namespace Sys2Proof.Machine

/-- A message as its UDP payload (Table 17.8). -/
structure DalMsg where
  typ : Nat
  sess : Nat
  seq : Nat
  body : List Byte
  core : List Byte
  trailer : Nat
  deriving DecidableEq, Repr

/-- The message of a request frame: none where the version is another, or the length does not fit. -/
def dalMessage (frame : List Byte) : Option DalMsg :=
  let m := udpPayload frame
  let n := beAt m 8 2
  if byteAt m 0 ≠ 1 ∨ 1200 < n ∨ m.length ≠ 12 + n + 16 then none
  else some ⟨byteAt m 1, beAt m 2 2, beAt m 4 4, (m.drop 12).take n, m.take (12 + n), beAt m (12 + n) 16⟩

/-- A request frame taken by the warden: answered busy while the warden is not PRESENT (R398); a frame that is no Dalmoly message is
discarded. -/
def State.dalRow (s : State) (port : Nat) (frame : List Byte) (run : State → DalMsg → State) : State :=
  let f : Frame := { blankFrame port 0 0 0 with bytes := frame }
  let s := s.takeRequest fun g => g.ingress == port && g.kind == 0 && g.bytes == frame
  if !s.isDalmoly f then s
  else if !s.present 45 || !s.startup.measured then s.busyAnswer f
  else
    match dalMessage frame with
    | some m => run s m
    | none => s

/-! ### Opening a session (R440) -/

/-- The role key of a role: its value and length where it is usable. -/
def State.roleKey (s : State) (role : Nat) : Option (Nat × Nat) :=
  let h := if role = 1 then s.rdF 0x1110 3 15 0 else if role = 2 then s.rdF 0x1110 3 31 16 else 0
  if h = 0 ∨ s.kindOf h ≠ 0 then none else s.keyOf h

/-- An open refused: type 7 with an abort code. -/
def State.dalRefuse (s : State) (port : Nat) (frame : List Byte) (seq code : Nat) : State :=
  s.dalSend port frame (dalmolyHeader 7 0 seq 4 0 ++ beBytes 4 code)

/-- An open message (R440). -/
def State.dalOpen (s : State) (port : Nat) (frame : List Byte) (m : DalMsg) : State :=
  if m.typ ≠ 1 ∨ m.sess ≠ 0 ∨ m.body.length ≠ 20 then s
  else
    let role := byteAt m.body 0
    match s.roleKey role with
    | none => s.dalRefuse port frame m.seq abRole
    | some (key, bits) =>
      if Config.cmac bits key m.core % 2 ^ 128 ≠ m.trailer then (s.bump 0x1110 4 1).authFailure 0
      else
        match (if s.rdF 0x1110 2 16 12 ≤ s.sess.dal.length then none else s.freeSession) with
        | none => s.dalRefuse port frame m.seq 0x05000003
        | some n =>
          let (v, s) := s.draw
          let nonce := beBytes 16 (v % 2 ^ 128)
          let k := kdf bits key ((m.body.drop 4).take 8 ++ nonce.take 8) 8 n 256
          let core := dalmolyHeader 2 n 0 20 0 ++ nonce ++ beBytes 2 (s.rdF 0x1110 2 11 0) ++ beBytes 2 1200
          let s := s.withSess fun x => { x with dal := mapSet x.dal n ⟨role, k, 0, [], s.now⟩ }
          (s.event 45 0x120 role 0 n).dalSend port frame (core ++ dalTrailer 256 k core)

/-! ### Messages of a session (R441–R443) -/

/-- A message of a session checked in the order of R442; `run` processes the next one in sequence. While the session's last request waits
for another device, no other is taken. -/
def State.dalChecked (s : State) (port : Nat) (frame : List Byte) (m : DalMsg) (run : State → State) : State :=
  let fail := fun (s : State) => (s.bump 0x1110 4 1).authFailure m.sess
  match mapGet s.sess.dal m.sess with
  | none => fail s
  | some d =>
    if Config.cmac 256 d.key m.core % 2 ^ 128 ≠ m.trailer then fail s
    else if s.consist.slots.any fun k => k.2.sess == m.sess && k.2.sentAt.isSome then s
    else if m.seq = (d.last + 1) % 2 ^ 32 then run s
    else if m.seq = d.last ∧ d.answer ≠ [] then
      let a := d.answer.take 10 ++ leBytes 1 1 ++ d.answer.drop 11
      s.dalSend port frame (a ++ dalTrailer 256 d.key a)
    else s.bump 0x1110 5 1

/-- A request message (type 3) whose operation is in `ops` (R441). -/
def State.dalRequest (s : State) (port : Nat) (frame : List Byte) (m : DalMsg) (ops : Nat → Bool) : State :=
  if m.typ ≠ 3 ∨ !ops (byteAt m.body 0) then s
  else
    s.dalChecked port frame m fun s =>
      let who := Asker.dalmoly m.sess m.seq port frame
      match parseReq m.body with
      | .inr a => s.reply who a []
      | .inl r => s.serve m.sess who r

/-- A close message (type 5): answered with type 5, then the session ends with reason 1 (R443). -/
def State.dalClose (s : State) (port : Nat) (frame : List Byte) (m : DalMsg) : State :=
  if m.typ ≠ 5 then s
  else s.dalChecked port frame m fun s => (s.dalAnswer m.sess m.seq port frame 5 []).endDalmoly m.sess 1

/-- A session's idle timeout passes without a processed request (R443): it ends with reason 2; a request that waits for another device is
answered first. -/
def State.dalIdle (s : State) (n : Nat) : State :=
  match mapGet s.sess.dal n with
  | none => s
  | some d =>
    if d.at_ + s.rdF 0x1110 2 11 0 * 1000000000 ≤ s.now ∧ ¬s.consist.slots.any fun k => k.2.sess == n && k.2.sentAt.isSome then s.endDalmoly n 2
    else s

/-- A group command of a session (R432): a write of 1 to a subindex of 0x1130, or the message that asks for it. -/
def State.groupCommand (s : State) (sess sub : Nat) (via : Option (Nat × List Byte)) : State :=
  match via with
  | none => s.serve sess (.plain sess) (.write 0x1130 sub 0 (leBytes 4 1))
  | some (port, frame) => s.dalRow port frame fun s m => s.dalRequest port frame m fun op => op == sub + 2

end Sys2Proof.Machine
end

