-- ==== Sys2Proof/Machine/CmdDict.lean ====
section
/-! DEFINITION. The commands of Chapter 17: SDO frames, Dalmoly messages, groups, locks and the ends of sessions. -/

namespace Sys2Proof.Machine

/-! ### SDO (R435–R438): the data bytes of a request frame on a C channel -/

/-- A frame of an SDO service. -/
def goSdo (dt : Nat) (c : Fin 72) (service : Nat) (data : List Byte) (run : State → State) (s : State) : Out :=
  goRun dt (fun s => s.sdoRow c.val service data run) s

/-- Initiate download. -/
def execSdoInitiateDownload (dt : Nat) (c : Fin 72) (data : List Byte) (s : State) : Out :=
  goSdo dt c 1 data (fun s => s.sdoInitDownload c.val data) s

/-- Download segment. -/
def execSdoDownloadSegment (dt : Nat) (c : Fin 72) (data : List Byte) (s : State) : Out :=
  goSdo dt c 0 data (fun s => s.sdoDownloadSegment c.val data) s

/-- Initiate upload. -/
def execSdoInitiateUpload (dt : Nat) (c : Fin 72) (data : List Byte) (s : State) : Out :=
  goSdo dt c 2 data (fun s => s.sdoInitUpload c.val data) s

/-- Upload segment. -/
def execSdoUploadSegment (dt : Nat) (c : Fin 72) (data : List Byte) (s : State) : Out :=
  goSdo dt c 3 data (fun s => s.sdoUploadSegment c.val data) s

/-- A frame of a block download. -/
def execSdoBlockDownload (dt : Nat) (c : Fin 72) (data : List Byte) (s : State) : Out :=
  goSdo dt c 6 data (fun s => s.sdoBlockDownload c.val data) s

/-- A frame of a block upload. -/
def execSdoBlockUpload (dt : Nat) (c : Fin 72) (data : List Byte) (s : State) : Out :=
  goSdo dt c 5 data (fun s => s.sdoBlockUploadStep c.val data) s

/-- An abort of the client: the transfer is discarded. -/
def execSdoAbortReceived (dt : Nat) (c : Fin 72) (data : List Byte) (s : State) : Out := goSdo dt c 4 data (fun s => s.endSdo c.val) s

/-- The time between two frames of a transfer has passed. -/
def execSdoTimeout (dt : Nat) (c : Fin 72) (s : State) : Out := goOn dt (fun s => s.sdoTimeout c.val) s

/-! ### Dalmoly (R439–R443): an Ethernet frame with its FCS -/

/-- An open message. -/
def execDalmolyOpen (dt : Nat) (port : Fin 44) (frame : List Byte) (s : State) : Out :=
  goRun dt (fun s => s.dalRow port.val frame fun s m => s.dalOpen port.val frame m) s

/-- A request of operation 1. -/
def execDalmolyRead (dt : Nat) (port : Fin 44) (frame : List Byte) (s : State) : Out :=
  goRun dt (fun s => s.dalRow port.val frame fun s m => s.dalRequest port.val frame m (· == 1)) s

/-- A request of operation 2. An operation above 5, which no row names, is answered here. -/
def execDalmolyWrite (dt : Nat) (port : Fin 44) (frame : List Byte) (s : State) : Out :=
  goRun dt (fun s => s.dalRow port.val frame fun s m => s.dalRequest port.val frame m fun op => op == 2 || op == 0 || 5 < op) s

/-- A close message. -/
def execDalmolyClose (dt : Nat) (port : Fin 44) (frame : List Byte) (s : State) : Out :=
  goRun dt (fun s => s.dalRow port.val frame fun s m => s.dalClose port.val frame m) s

/-- The idle timeout of Dalmoly session `n` + 1. -/
def execSessionIdleTimeout (dt : Nat) (n : Fin 16) (s : State) : Out := goOn dt (fun s => s.dalIdle (n.val + 1)) s

/-! ### Groups and locks (R429–R433, R447) -/

/-- A group opens: a write of 1 to 0x1130:01 by a session, or a Dalmoly frame of operation 3 on a port. -/
def execGroupBegin (dt sess : Nat) (via : Option (Fin 44 × List Byte)) (s : State) : Out :=
  goOn dt (fun s => s.groupCommand sess 1 (via.map fun x => (x.1.val, x.2))) s

/-- A group is committed: 0x1130:02, or operation 4. -/
def execGroupCommit (dt sess : Nat) (via : Option (Fin 44 × List Byte)) (s : State) : Out :=
  goOn dt (fun s => s.groupCommand sess 2 (via.map fun x => (x.1.val, x.2))) s

/-- A group is discarded: 0x1130:03, or operation 5. -/
def execGroupAbandon (dt sess : Nat) (via : Option (Fin 44 × List Byte)) (s : State) : Out :=
  goOn dt (fun s => s.groupCommand sess 3 (via.map fun x => (x.1.val, x.2))) s

/-- A lock whose hold time has passed is released. -/
def State.lockEnds (s : State) (idx : Nat) : State :=
  match (mapGet s.sess.locks idx).bind fun l => l.until_ with
  | some t => if t ≤ s.now then s.freeLock idx else s
  | none => s

/-- The hold time of an index's lock has passed. -/
def execLockHoldExpiry (dt : Nat) (idx : BitVec 16) (s : State) : Out := goOn dt (fun s => s.lockEnds idx.toNat) s

/-- 10 s after a QUENCH, a session is served again. -/
def State.blockEnds (s : State) (sess : Nat) : State :=
  match mapGet s.sess.blocked sess with
  | some t => if t ≤ s.now then s.withSess fun x => { x with blocked := mapDel x.blocked sess } else s
  | none => s

/-- The block of a session ends. -/
def execQuenchBlockEnd (dt sess : Nat) (s : State) : Out := goOn dt (fun s => s.blockEnds sess) s

end Sys2Proof.Machine
end

