-- ==== Sys2Proof/Machine/CmdGateway.lean ====
section
/-! DEFINITION. The commands of Chapter 7: the signal gateway. -/

namespace Sys2Proof.Machine

/-- An engine takes its next job. -/
def execGatewayJob (dt : Nat) (engine : Fin 4) (s : State) : Out := goRun dt (fun s => s.takeJob engine.val) s

/-- A tick: the timers due by it may be served. -/
def execTimerWheelTick (dt : Nat) (s : State) : Out :=
  goRun dt (fun s => if s.gwOn then s.withGw fun g => { g with tick := s.tickNow } else s) s

/-- A target's transmission timer is served by its engine. -/
def execTransmissionTimer (dt : Nat) (rec_ : Fin 65536) (s : State) : Out :=
  goRun dt (fun s => if s.gwOn && (s.timerEngine rec_.val).isSome then s.transmit rec_.val else s) s

/-- A source's deadline timer is served (R192). -/
def State.deadlineTick (s : State) (n : Nat) : State :=
  match mapGet s.gw.deadline n with
  | none => s
  | some t => if s.gwOn && (s.timerEngine n).isSome && (t ≤ s.gw.tick * 100000 : Bool) then s.deadlineOver n else s

/-- A source's deadline expires. -/
def execDeadlineTimeout (dt : Nat) (rec_ : Fin 65536) (s : State) : Out := goRun dt (fun s => s.deadlineTick rec_.val) s

/-- The timers of an engine pass to the one that takes its jobs (R180). -/
def execTimerHandover (dt : Nat) (engine : Fin 4) (s : State) : Out :=
  goRun dt (fun s =>
    match s.engineOf engine.val with
    | none => s
    | some e => s.withGw fun g => { g with owner := mapPut engine.val g.owner engine.val e }) s

/-- A write of 1 to 0x5600:01. -/
def execGatewayEnable (dt sess : Nat) (s : State) : Out := goWrite dt sess 0x5600 1 1 s

/-- A PDU record is written. -/
def execPduRecordWrite (dt sess : Nat) (rec_ : Fin 65536) (bytes : List Byte) (s : State) : Out :=
  goOn dt (fun s => s.asks sess 0x5610 0 (32 * rec_.val) bytes) s

/-- The flush time of an open container has passed since its first entry (R199). -/
def State.flushTimer (s : State) (k : Nat) : State :=
  match mapGet s.gw.opened k with
  | none => s
  | some o => if s.gwOn && (o.since + s.stream k 6 2 * 100000 ≤ s.nsNow : Bool) then s.flushContainer k else s

/-- The flush timer of a container stream. -/
def execContainerFlushTimer (dt : Nat) (stream : Fin 256) (s : State) : Out := goRun dt (fun s => s.flushTimer stream.val) s

/-! ### Containers received (R201) -/

/-- An entry of a received container becomes a frame: released with ingress index 45, looked up with the port the container came in by. A
payload that is no stored form of its kind is skipped. -/
def State.releaseEntry (s : State) (carrier : Frame) (domain : Nat) (e : Nat × Nat × List Byte × Option Nat) : State :=
  let (kind, pdu, payload, stamp) := e
  let bs := if kind = 0 then beBytes 4 pdu ++ beBytes 2 payload.length ++ fill 2 0 ++ payload else payload
  let k := if kind = 0 then 3 else kind
  if !storedOk k bs then s.gwCount 0x0D 1
  else
    let passes := min 3 (carrier.passes + 1)
    let f := { blankFrame 45 domain carrier.cls carrier.age with
      kind := k, passes := passes, metaWord := some passes, stamp := stamp.getD carrier.stamp, look := carrier.look }
    match s.buildFrame f bs with
    | some (id, t) => t.releaseFrame id
    | none => s.refuse { f with bytes := bs } 45 0xFF 0

/-- A container's entries are released in their order. -/
def State.releaseEntries (s : State) (id : Nat) (carrier : Frame) (domain skipped : Nat)
    (l : List (Nat × Nat × List Byte × Option Nat)) : State :=
  let s := (s.gwCount 0x0B 1).gwCount 0x0D skipped
  let s := if s.probe.frame = some id then { s with probe := { s.probe with frame := none } } else s
  (s.forEach l fun s e => s.releaseEntry carrier domain e).dropRef id 45

/-- The oldest frame that waits at port 45 without a handle is opened. -/
def State.openContainer (s : State) : State :=
  match s.gw.waiting with
  | [] => s
  | id :: rest =>
    if (s.engineOf 0).isNone then s
    else
      let s := s.withGw fun g => { g with waiting := rest }
      match s.frame? id with
      | none => s
      | some f =>
        if !s.gwOn then s.refuseCopy 45 id 4
        else
          match s.openFrame f.bytes with
          | .bad why => s.badContainer id why
          | .feryn device domain seq l skipped => (s.followSeq device domain seq).releaseEntries id f domain skipped l
          | .acf l skipped => s.releaseEntries id f (s.rdF 0x5601 2 13 8) skipped l

/-- A frame at port 45 is opened as a container. -/
def execContainerReceived (dt : Nat) (s : State) : Out := goRun dt State.openContainer s

end Sys2Proof.Machine
end

