-- ==== Sys2Proof/Machine/CmdHost.lean ====
section
/-! DEFINITION. The commands of Chapter 16: resets and link of the host bridge, accesses through its BARs, rings, messages. -/

namespace Sys2Proof.Machine

/-- An effect of the bridge while carriage 41 is PRESENT. -/
def goBridge (dt : Nat) (f : State → State) (s : State) : Out := goOn dt (fun s => if s.present 41 then f s else s) s

/-- An access of the host: it arrives over a link that is up. -/
def goHost (dt : Nat) (f : State → State) (s : State) : Out := goBridge dt (fun s => if s.rdB 0x20A0 1 7 then f s else s) s

/-! ### Resets and the link (R403, R423) -/

/-- PCIE_PERST_N is asserted. -/
def execPciePerst (dt : Nat) (s : State) : Out := goBridge dt (fun s => s.bridgeReset 1) s

/-- A Function Level Reset. -/
def execFunctionLevelReset (dt : Nat) (s : State) : Out := goHost dt (fun s => s.bridgeReset 2) s

/-- The link goes up at a speed (2.5, 5, 8, 16 GT/s) and a width (1, 2 or 4 lanes), or down. -/
def State.linkChange (s : State) (up : Bool) (speed : Fin 4) (width : Fin 3) : State :=
  let v := if up then speed.val + 1 + 8 * 2 ^ width.val + 128 else 0
  if s.rd 0x20A0 1 = v ∨ s.power.pcieLost then s else s.pcieLink up (speed.val + 1) (2 ^ width.val)

/-- The link goes up or down. -/
def execPcieLinkChange (dt : Nat) (up : Bool) (speed : Fin 4) (width : Fin 3) (s : State) : Out :=
  goBridge dt (fun s => s.linkChange up speed width) s

/-! ### BAR0 (R405–R409) -/

/-- A read of `len` bytes of BAR0; `answered` tells whether the warden answers it at once. -/
def execBar0Read (dt : Nat) (off : BitVec 28) (len : Nat) (tag : Fin 1024) (answered : Bool) (s : State) : Out :=
  goHost dt (fun s => s.bar0Read off.toNat len tag.val answered) s

/-- A posted write of BAR0. -/
def execBar0Write (dt : Nat) (off : BitVec 28) (data : List Byte) (poisoned : Bool) (s : State) : Out :=
  goHost dt (fun s => s.bar0Write off.toNat data poisoned) s

/-- A held read is not answered within the timer; `late` tells whether its answer comes later. -/
def execDelayedReadTimeout (dt : Nat) (tag : Fin 1024) (late : Bool) (s : State) : Out := goBridge dt (fun s => s.readTimeout tag.val late) s

/-! ### Translation windows (R410–R415) -/

/-- An access through window `w` of BAR4: a write of `data`, or a read of `len` bytes. -/
def execWindowAccess (dt : Nat) (w : Fin 16) (off : BitVec 24) (write : Bool) (len : Nat) (tag : Fin 1024) (data : List Byte)
    (poisoned : Bool) (s : State) : Out :=
  goHost dt (fun s => s.windowAccess w.val off.toNat write len tag.val data poisoned) s

/-- A write of a translation window record. -/
def execTranslationWindowWrite (dt sess : Nat) (w : Fin 16) (bytes : List Byte) (s : State) : Out :=
  goOn dt (fun s => s.asks sess 0x20A1 0 (16 * w.val) bytes) s

/-- A prefetch buffer reaches its age. -/
def execPrefetchAgeExpiry (dt : Nat) (w : Fin 16) (s : State) : Out := goBridge dt (fun s => s.agePrefetch w.val) s

/-- A read of the queue window in BAR2; what reaches beyond it is a reserved offset (R404). -/
def execQueueWindowRead (dt : Nat) (off : BitVec 12) (len : Nat) (tag : Fin 1024) (s : State) : Out :=
  goHost dt (fun s =>
    if 4096 < off.toNat + len then s.badRead 1 tag.val (0x10000 + off.toNat) len 3 0xFF else s.queueRead off.toNat len tag.val) s

/-! ### Rings and messages (R417–R422) -/

/-- A ring's producer index written to its doorbell. -/
def execDoorbellWrite (dt : Nat) (ring : Fin 16) (value : BitVec 32) (s : State) : Out :=
  goHost dt (fun s => s.withHost fun h => { h with bells := mapSet h.bells ring.val (value.toNat % 65536) }) s

/-- The next descriptor of a host-to-part ring is fetched, with the buffer it names; `dmaOk` false is a failed DMA read. -/
def execHostDescriptorFetched (dt : Nat) (ring : Fin 8) (len : BitVec 16) (kind : Byte) (domain : Fin 64) (data : List Byte) (dmaOk : Bool)
    (s : State) : Out :=
  goRun dt (fun s => s.hostFrame ring.val len.toNat kind.toNat domain.val data dmaOk) s

/-- The frame that H sends next is written to the buffer `addr` of the next posted descriptor of a class's ring. -/
def execPartToHostFrame (dt : Nat) (ring : Fin 8) (addr : BitVec 64) (s : State) : Out :=
  goRun dt (fun s => s.partToHost ring.val addr.toNat) s

/-- A held MSI-X message falls due. -/
def execMsixCoalesceTimer (dt : Nat) (vec : Fin 24) (s : State) : Out := goBridge dt (fun s => s.releaseMessage vec.val) s

end Sys2Proof.Machine
end

