-- ==== Sys2Proof/Machine/CmdKeys.lean ====
section
/-! DEFINITION. The commands of Chapter 11: key actions, attestation, life cycle, sensors, configuration images, brown-out. -/

namespace Sys2Proof.Machine

/-! ### Key actions (R285) -/

/-- The word of 0x8010:01: handle, action, kind and length (Table 11.4). -/
def keyWord (h act kind : Nat) (wide : Bool) : Nat := h + 65536 * act + 1048576 * kind + 4194304 * wide.toNat

/-- A key command: the words of 0x8010 written, then its start. -/
def goKey (dt sess h act kind : Nat) (wide : Bool) (more : List (Nat × Nat × Nat × List Byte)) (s : State) : Out :=
  goOn dt (fun s => s.asksAll sess
    ((0x8010, 1, 0, leBytes 4 (keyWord h act kind wide)) :: more ++ [(0x8010, 4, 0, leBytes 4 1)])) s

/-- Action 1: a key derived from its parent with its label. -/
def execKeyDefine (dt sess : Nat) (h : BitVec 16) (kind : Fin 3) (wide : Bool) (parent : BitVec 16) (label : List Byte) (s : State) : Out :=
  goKey dt sess h.toNat 1 kind.val wide [(0x8010, 2, 0, leBytes 4 parent.toNat), (0x8010, 3, 0, label)] s

/-- Action 2. -/
def execKeyGenerate (dt sess : Nat) (h : BitVec 16) (kind : Fin 3) (wide : Bool) (s : State) : Out :=
  goKey dt sess h.toNat 2 kind.val wide [] s

/-- Action 3, with the blob written to 0x8012. -/
def execKeyImport (dt sess : Nat) (h : BitVec 16) (blob : List Byte) (s : State) : Out :=
  goKey dt sess h.toNat 3 0 true [(0x8012, 0, 0, blob)] s

/-- Action 4. -/
def execKeyRotate (dt sess : Nat) (h : BitVec 16) (s : State) : Out := goKey dt sess h.toNat 4 0 true [] s

/-- Action 5. -/
def execKeyRevoke (dt sess : Nat) (h : BitVec 16) (s : State) : Out := goKey dt sess h.toNat 5 0 true [] s

/-- Action 6. -/
def execKeyDelete (dt sess : Nat) (h : BitVec 16) (s : State) : Out := goKey dt sess h.toNat 6 0 true [] s

/-- Action 7. -/
def execKeyReseal (dt sess : Nat) (s : State) : Out := goKey dt sess 0 7 0 true [] s

/-- Action 8. -/
def execCloseMigration (dt sess : Nat) (s : State) : Out := goKey dt sess 0 8 0 true [] s

/-! ### Random values and MKA (R287, R288) -/

/-- The health tests of the entropy source fail, or pass again: while they fail the DRBG gives no output, and sensor 7 trips once. -/
def State.entropyHealth (s : State) (ok : Bool) : State :=
  if !s.present 46 || s.key.noEntropy == !ok then s
  else
    let s := s.withKey fun k => { k with noEntropy := !ok }
    if ok then s else s.trip 7 []

/-- The result of the DRBG's health tests. -/
def execEntropyHealthFail (dt : Nat) (ok : Bool) (s : State) : Out := goOn dt (fun s => s.entropyHealth ok) s

/-- A SAK placed under a session handle; the records under it derive their keys again (R262). -/
def State.placeSak (s : State) (h cak v : Nat) (wide : Bool) : State :=
  let gen := ((mapGet s.key.sess h).map fun k => k.gen).getD 0
  (s.withKey fun k => { k with sess := mapSet k.sess h ⟨v % 2 ^ 256, wide, cak, gen + 1, false⟩ }).rederive h

/-- The key store generates a SAK, or unwraps a distributed one with the KEK of the CAK (R287). -/
def State.mkaSak (s : State) (h cak : Nat) (wide : Bool) (wrapped : Option (List Byte)) : State :=
  if !s.present 44 || !s.present 46 || s.kindOf cak != 2 then s
  else
    match s.keyOf cak, wrapped with
    | none, _ => s
    | some _, none =>
      if s.key.noEntropy then s
      else
        let (v, s) := s.draw
        s.placeSak h cak (if wide then v else v / 2 ^ 128) wide
    | some (v, b), some w =>
      match Config.keyUnwrap (Config.mkaKek cak b v) w with
      | none => s
      | some k => s.placeSak h cak (beVal (sliceZ k 0 (if wide then 32 else 16))) wide

/-- The signal pair asks for a SAK under a CAK for a session handle, 0x0600 and on. -/
def execMkaSak (dt : Nat) (handle : Fin 512) (cak : BitVec 16) (wide : Bool) (wrapped : Option (List Byte)) (s : State) : Out :=
  goOn dt (fun s => s.mkaSak (0x0600 + handle.val) cak.toNat wide wrapped) s

/-! ### Attestation and life cycle (R298–R303) -/

/-- A statement asked for, with its kind, handle and nonce. -/
def execAttestation (dt sess : Nat) (h : BitVec 16) (kind : Fin 16) (nonce : List Byte) (s : State) : Out :=
  goOn dt (fun s => s.asksAll sess
    [(0x8020, 1, 0, leBytes 4 (h.toNat + 65536 * kind.val)), (0x8020, 2, 0, nonce), (0x8020, 3, 0, leBytes 4 1)]) s

/-- A write of 0x8000:02. -/
def execLifeCycleRequest (dt sess : Nat) (target : Fin 8) (s : State) : Out := goWrite dt sess 0x8000 2 target.val s

/-! ### The security alarm (R304–R308) -/

/-- A sensor trips; a glitch within a brown-out warning does not, and neither does debug access where debug is open. -/
def State.sensorTrip (s : State) (sensor : Nat) (cars : List Nat) (sess : Nat) : State :=
  if sensor ≤ 1 ∧ s.key.brownOut then s
  else if sensor = 8 ∧ debugOpen s.life then s
  else if sensor = 5 ∨ sensor = 6 then s.tripWith sensor sess [] (some sess)
  else s.trip sensor cars

/-- A sensor trips; `cars` are the carriages of the clock of sensor 1, `sess` the session of sensors 5 and 6. -/
def execSensorTrip (dt : Nat) (sensor : Fin 9) (cars : List (Fin 47)) (sess : Nat) (s : State) : Out :=
  goOn dt (fun s => s.sensorTrip sensor.val (cars.map fun n => n.val) sess) s

/-- A write of 1 to 0x8030:04. -/
def execThaw (dt sess : Nat) (s : State) : Out := goWrite dt sess 0x8030 4 1 s

/-! ### Configuration images (R312, R313) -/

/-- Action 1. -/
def execConfigExport (dt sess : Nat) (s : State) : Out := goOn dt (fun s => s.putsAll sess [(0x8050, 1, 1), (0x8050, 2, 1)]) s

/-- Action 2. -/
def execConfigImport (dt sess : Nat) (s : State) : Out := goOn dt (fun s => s.putsAll sess [(0x8050, 1, 2), (0x8050, 2, 1)]) s

/-- Action 3. -/
def execConfigCheckOnly (dt sess : Nat) (s : State) : Out := goOn dt (fun s => s.putsAll sess [(0x8050, 1, 3), (0x8050, 2, 1)]) s

/-- An export ends. -/
def execConfigExportDone (dt : Nat) (s : State) : Out := goOn dt State.exportDone s

/-! ### Brown-out (R294, R356) -/

/-- A cause of the brown-out warning. -/
def execBrownOutWarning (dt : Nat) (s : State) : Out := goAny dt State.brownOut s

/-- Every cause has been clear for 1 ms. -/
def execBrownOutClear (dt : Nat) (s : State) : Out := goAny dt State.brownClear s

end Sys2Proof.Machine
end

