-- ==== Sys2Proof/Machine/CmdTraffic.lean ====
section
/-! DEFINITION. The commands of Chapter 8: gates, preemption verify, sequence recovery, observation, the refusal trace and notices. -/

namespace Sys2Proof.Machine

/-! ### Gates (R216, R217) -/

/-- A write of 1 to 0x6004 + 0x10 × i:07. -/
def execGateChange (dt sess : Nat) (port : Fin 28) (s : State) : Out := goWrite dt sess (tmObj port.val 4) 7 1 s

/-- The change instant T of a port is reached. -/
def execGateListChange (dt : Nat) (port : Fin 28) (s : State) : Out :=
  goRun dt (fun s =>
    match (s.ptm port.val).gatePending with
    | some t => if t ≤ s.devNs ∧ s.present (egressGroup port.val) then s.gateTakeOver port.val else s
    | none => s) s

/-- The entry of the oper list that covers the present instant is in force. -/
def State.enterGate (s : State) (p : Nat) : State :=
  let g := s.operGates p
  let k := if g.enable then entryAt (spans g.cycle 0 g.list) (g.phase s.devPs) else 0
  s.modPtm p fun x => { x with gateEntry := k }

/-- The next entry of the oper gate list takes effect. -/
def execGateEntryStart (dt : Nat) (port : Fin 28) (s : State) : Out := goRun dt (fun s => s.enterGate port.val) s

/-! ### Preemption verify (R221) -/

/-- The verify time has passed without a response: verification is tried again, and has failed after three attempts. -/
def State.verifyTimer (s : State) (p : Nat) : State :=
  let x := s.ptm p
  if x.verifyTries = 0 ∨ !s.linkUp p ∨ s.now < x.verifyAt + 10000000 then s
  else if x.verifyTries < 3 then s.modPtm p fun x => { x with verifyTries := x.verifyTries + 1, verifyAt := s.now }
  else ((s.wr (tmObj p 6) 2 2).modPtm p fun x => { x with verifyTries := 0 }).event (egressGroup p) 0x94 p 0 0

/-- The verify timer of a port. -/
def execVerifyTimer (dt : Nat) (port : Fin 28) (s : State) : Out := goRun dt (fun s => s.verifyTimer port.val) s

/-- A verify response arrives. -/
def execVerifyResponse (dt : Nat) (port : Fin 28) (s : State) : Out :=
  goRun dt (fun s =>
    if (s.ptm port.val).verifyTries ≠ 0 ∧ s.linkUp port.val ∧ s.present (portCarriage port.val) then
      (s.wr (tmObj port.val 6) 2 1).modPtm port.val fun x => { x with verifyTries := 0 }
    else s) s

/-! ### Sequence recovery (R227) -/

/-- No frame of a recovering handle has passed for its reset time: the next one passes and the history restarts from it. -/
def State.recoveryReset (s : State) (h : Nat) : State :=
  match s.frer h with
  | none => s
  | some d =>
    match d.lastPass with
    | none => s
    | some t =>
      if s.winB 0x6A20 0 (8 * h) != 2 || d.restart || s.now < t + s.winLe 0x6A20 0 (8 * h + 2) 2 * 1000000 then s
      else (s.setFrer h { d with restart := true }).bumpWin 0x6A21 0 (40 * h + 32) 4 1

/-- The reset time of a stream handle passes. -/
def execFrerResetTimer (dt : Nat) (handle : Fin 1024) (s : State) : Out := goRun dt (fun s => s.recoveryReset handle.val) s

/-! ### Observation (R228) -/

/-- The queues of a port are sampled. -/
def execObservationSample (dt : Nat) (port : Fin 160) (s : State) : Out :=
  goPort dt port.val (fun s =>
    if s.present (egressGroup port.val) then s.forEach (s.queuesOf port.val) fun s n => s.sampleQueue port.val n else s) s

/-- A write of 1 to 0x6007 + 0x10 × i:03. -/
def execObservationReset (dt sess : Nat) (port : Fin 160) (s : State) : Out := goWrite dt sess (tmObj port.val 7) 3 1 s

/-! ### Trace and notices (R235, R236) -/

/-- The oldest `n` trace records are removed. -/
def execTraceRelease (dt sess : Nat) (n : BitVec 32) (s : State) : Out := goWrite dt sess 0x6A30 4 n.toNat s

/-- 1 ms has passed since the first entry of the open notice: it is sent. -/
def execNoticeTimer (dt : Nat) (s : State) : Out :=
  goRun dt (fun s =>
    if s.tm.notice ≠ [] ∧ s.tm.noticeAt + 1000000 ≤ s.now then
      s.withTm fun t => { t with notice := [], noticeReady := t.noticeReady ++ [t.notice] }
    else s) s

end Sys2Proof.Machine
end

