-- ==== Sys2Proof/Machine/CmdSecurity.lean ====
section
/-! DEFINITION. The commands of Chapters 9 and 10: the firewall's halves, cipher operations, working keys and freshness. -/

namespace Sys2Proof.Machine

/-! ### The firewall (R251–R254) -/

/-- Bytes are written to a shadow window: rules (0), checkers (1) or defaults (2). -/
def execShadowRuleWrite (dt sess : Nat) (window : Fin 3) (off : Nat) (bytes : List Byte) (s : State) : Out :=
  goOn dt (fun s => s.asks sess (0x5810 + window.val) 0 off bytes) s

/-- A write of 1 to 0x5800:03. -/
def execCopyToShadow (dt sess : Nat) (s : State) : Out := goWrite dt sess 0x5800 3 1 s

/-- The copy into the shadow completes. -/
def execCopyToShadowDone (dt : Nat) (s : State) : Out := goRun dt State.fwCopyDone s

/-- A write of 1 to 0x5800:02. -/
def execSwap (dt sess : Nat) (s : State) : Out := goWrite dt sess 0x5800 2 1 s

/-- The active half reads every rule. -/
def execRuleScrub (dt : Nat) (errs : ReadErrs) (s : State) : Out :=
  goRun dt (fun s => if s.present (19 + s.activeHalf) then (s.meetErrs errs).readRules s.activeHalf else s) s

/-! ### Authenticators (R248, R272) -/

/-- A held frame whose age has passed its limit when its check ends: refused with reason 1. -/
def State.ageHeld (s : State) (id : Nat) : State :=
  match s.frame? id with
  | none => s
  | some f =>
    let s := s.withFw fun w => { w with held := w.held.filter fun x => x.frame != id }
    ((s.refuse f f.ingress 0xFF 1).probeDrop id).dropRef id heldMark

/-- A verification ends (R272): on equality the freshness commits where it is still newer, and the frame passes. -/
def State.verifyEnds (s : State) (o : CryptoOp) (ctxError : Bool) : State :=
  match s.frame? o.frame with
  | none => s.dropOp o
  | some f =>
    let r := o.rec_ - 1024
    let good : Bool := !ctxError && s.authGood r o.key o.pn f && (s.auStat r 0 8 < o.pn : Bool)
    let s := s.dropOp o
    let s := if good then ((s.setWinLe 0x8131 0 (32 * r) 8 o.pn).recPass o.rec_).setFlag o.rec_ 3 false
      else (s.recFail o.rec_).failEvent o.cluster 3 o.port r
    if s.expired f then s.ageHeld o.frame
    else if good then s.passHeld o.frame
    else s.refuseHeld o.frame

/-- An operation of an engine of a cluster that works. -/
def State.onEngine (s : State) (k e : Nat) (f : State → CryptoOp → State) : State :=
  if !s.works (23 + k) then s
  else
    match s.opOn k e with
    | some o => f s o
    | none => s

/-- A held frame's check completes; `ctxError` an uncorrectable error of its context. -/
def execAuthenticatorVerifyDone (dt : Nat) (cluster : Fin 5) (engine : Fin 16) (ctxError : Bool) (s : State) : Out :=
  goRun dt (fun s => s.onEngine cluster.val engine.val fun s o => if o.kind = 4 then s.verifyEnds o ctxError else s) s

/-! ### Cipher operations (R258, R264, R267, R268, R270, R273) -/

/-- A received secured frame fails its check: dropped, no byte of it goes on (R264). -/
def State.rxFails (s : State) (o : CryptoOp) : State :=
  let s := if o.kind = 1 then s.secCount o.port 5 else s
  ((s.recFail o.rec_).failEvent o.cluster o.kind o.port o.rec_).eraseFrame o.frame

/-- The plaintext takes new cells above the reserve, with what the frame carries besides; without a cell it is refused with reason 0. -/
def State.rxOpened (s : State) (o : CryptoOp) (f : Frame) (bs : List Byte) : State :=
  let s := s.recPass o.rec_
  let g := { f with bytes := [], cells := [], rxLen := 0, crc := 0xFFFFFFFF, secured := true }
  match s.buildFrame g bs with
  | none => (s.countOverflow o.port f).eraseFrame o.frame
  | some (id, t) =>
    let t := (t.modFrame id fun x => { x with built := f.built }).eraseFrame o.frame
    let t := if t.probe.frame = some o.frame then { t with probe := { t.probe with frame := some id } } else t
    t.arrive o.port id

/-- A received MACsec frame's operation ends (R268 steps 6 and 7). -/
def State.macsecOpened (s : State) (o : CryptoOp) (f : Frame) (ctxError : Bool) : State :=
  match (if ctxError then none else s.secOpen o.port o.rec_ o.pn o.key f.bytes) with
  | none => s.rxFails { o with kind := 1 }
  | some body =>
    let w := s.winLe 0x8110 0 (24 * o.port + 4) 4
    ((s.setWinLe 0x8112 0 (32 * o.rec_) 8 (max (s.saStat o.rec_ 0 8) (o.pn + 1 - w))).ptpStamp o.port false (withFcs body) (f.age * 65536 + f.frac)).rxOpened o f
      (withFcs body)

/-- A received CANsec frame's operation ends (R270): the plain frame is stored with SEC 0, and only now copied into a buffer. -/
def State.cansecOpened (s : State) (o : CryptoOp) (f : Frame) (ctxError : Bool) : State :=
  match (if ctxError then none else Config.cansecOpen o.key (f.bytes.take 16) (f.bytes.drop 16)) with
  | none => s.rxFails { o with kind := 2 }
  | some data =>
    let bs := canBytes { parseCan f.bytes with sec := false, len := data.length } data
    let s := s.setWinLe 0x8112 0 (32 * o.rec_) 8 (max (s.saStat o.rec_ 0 8) (o.pn + 1))
    let (buf, s) := s.takeRx (o.port - 64) bs f.stamp
    s.rxOpened o { f with metaWord := f.metaWord.map fun m => m / 128 * 128 + buf.getD 0x7F } bs

/-- The protected form of a queued copy stands ready. -/
def State.txReady (s : State) (o : CryptoOp) (bs : List Byte) : State :=
  ((s.recPass o.rec_).modItem o.port o.frame fun i => { i with prot := 3, out := some bs }).probeStep o.frame 0x17

/-- The protection of a queued copy ends. -/
def State.txEnds (s : State) (o : CryptoOp) (f : Frame) : State :=
  if o.kind = 0 then (s.secCount o.port 6).txReady o (s.protect o.port o.rec_ o.pn o.key (s.wireBody o.port f))
  else if o.kind = 5 then s.txReady o (s.authBytes (o.rec_ - 1024) o.key o.pn f)
  else
    let v := parseCan f.bytes
    let data := Config.cansecProtect o.key (s.sa o.rec_ 30 2) o.pn (f.bytes.take 16) (f.bytes.drop 16)
    if 2048 < data.length then (s.recFail o.rec_).discardItem o.port o.frame
    else s.txReady o (canBytes { v with sec := true, len := data.length } data)

/-- An operation ends (R258): its output is released, or zeroed on failure. One whose context has an uncorrectable error is aborted. -/
def State.opEnds (s : State) (o : CryptoOp) (ctxError : Bool) : State :=
  match s.frame? o.frame with
  | none => s.dropOp o
  | some f =>
    if o.kind = 4 then s.verifyEnds o ctxError
    else if o.kind = 1 then (s.dropOp o).macsecOpened o f ctxError
    else if o.kind = 3 then (s.dropOp o).cansecOpened o f ctxError
    else if ctxError then s.abortContext o
    else (s.dropOp o).txEnds o f

/-- A cipher operation ends. -/
def execCryptoOperationEnd (dt : Nat) (cluster : Fin 5) (engine : Fin 16) (ctxError : Bool) (s : State) : Out :=
  goRun dt (fun s => s.onEngine cluster.val engine.val fun s o => s.opEnds o ctxError) s

/-- An engine resumes a suspended operation. -/
def execSuspendedResume (dt : Nat) (cluster : Fin 5) (engine : Fin 16) (s : State) : Out :=
  goRun dt (fun s => if s.works (23 + cluster.val) then s.resumeOp cluster.val engine.val else s) s

/-! ### Working keys (R260–R262) and freshness (R274) -/

/-- The oldest derivation of a cluster's front end completes. A record reads as held once no derivation of it is left. -/
def State.derived (s : State) (k : Nat) : State :=
  if !s.present (23 + k) || !s.present 46 then s
  else
    match s.crypto.derive_.find? fun x => x / 8192 == k with
    | none => s
    | some x =>
      let id := x % 8192
      let s := s.withCrypto fun c => { c with derive_ := c.derive_.filter fun y => y != x }
      if s.recFlag id 1 || !s.recEnabled id then s
      else
        match s.workingKey id with
        | none => s
        | some key =>
          let s := (s.withCrypto fun c => { c with keys := mapSet c.keys x key }).bump 0x8100 4 1
          if s.crypto.derive_.any fun y => y % 8192 == id then s else s.setFlag id 0 true

/-- A working-key derivation completes. -/
def execKeyDerivationDone (dt : Nat) (cluster : Fin 5) (s : State) : Out := goOn dt (fun s => s.derived cluster.val) s

/-- Every 60 s the last accepted value of each enabled verifying record is committed. -/
def State.freshnessCommit (s : State) : State :=
  if s.now < s.key.freshAt + 60000000000 || !s.present 46 || s.key.brownOut then s
  else
    let recs := (s.enabledRecs.filter (1024 ≤ ·)).map (· - 1024)
    let s := s.forEach (recs.filter fun r => s.au r 0 1 == 1) fun s r =>
      if mapGetD s.key.mram r 0 = s.auStat r 0 8 then s else s.commitFresh r (s.auStat r 0 8)
    s.withKey fun k => { k with freshAt := s.now }

/-- The periodic commit of freshness values. -/
def execFreshnessCommit (dt : Nat) (s : State) : Out := goOn dt State.freshnessCommit s

end Sys2Proof.Machine
end

