-- ==== Sys2Proof/Machine/CmdStart.lean ====
section
/-! DEFINITION. The commands of Chapter 20: power-on reset, BIST, the measured boot, the forwarding point and the end of start-up. -/

namespace Sys2Proof.Machine

/-- PORST_N, or VCORE or VAON below 0.70 V; `vaon` tells that VAON stayed up. It acts in every state of the part. -/
def execPowerOnReset (dt : Nat) (vaon : Bool) (s : State) : Out := .next ((s.advance dt).powerOn vaon)

/-- A BIST group ends. The entries of `res` are carriage, failing bits of the first and the second attempt, unit, duration in µs; a
carriage without one passes. -/
def execBistGroupEnd (dt : Nat) (res : List (Nat × Nat × Nat × Nat × Nat)) (s : State) : Out := goRun dt (fun s => s.bistGroupEnd res) s

/-- The firmware measurement ends. -/
def execBootMeasurementDone (dt : Nat) (station signal : Bool × Nat × Nat) (s : State) : Out :=
  goRun dt (fun s => s.measured station signal) s

/-- The image is applied and every carriage not FAILED is PRESENT. -/
def execForwardingPoint (dt : Nat) (s : State) : Out := goRun dt State.forwardingPoint s

/-- 100 ms have passed since the forwarding point. -/
def execStartupComplete (dt : Nat) (s : State) : Out := goRun dt State.startupEnds s

end Sys2Proof.Machine
end

