-- ==== Sys2Proof/Machine/CmdTime.lean ====
section
/-! DEFINITION. The commands of Chapter 12: corrections, time-state timers, pulses, triggers, the calendar and the lifetime ledger. -/

namespace Sys2Proof.Machine

/-- An effect of the time unit while carriage 42 is PRESENT. -/
def goTime (dt : Nat) (f : State → State) (s : State) : Out := goOn dt (fun s => if s.present 42 then f s else s) s

/-! ### Corrections (R317–R320) -/

/-- A write of 1 to 0x7001:01. -/
def execTimeCapture (dt sess : Nat) (s : State) : Out := goWrite dt sess 0x7001 1 1 s

/-- The offset and the rate written, then a write of 1 to 0x7010:03. -/
def execTimeApply (dt sess : Nat) (offset : BitVec 64) (rate : BitVec 32) (s : State) : Out :=
  goOn dt (fun s => s.putsAll sess [(0x7010, 1, offset.toNat), (0x7010, 2, rate.toNat), (0x7010, 3, 1)]) s

/-- The remaining slew has reached 0. -/
def execSlewEnd (dt : Nat) (s : State) : Out :=
  goTime dt (fun s => if s.timeState = tSlewing ∧ s.time.slew = 0 then s.slewDone else s) s

/-- A write of 1 to 0x7000:07. -/
def execDeclareLoss (dt sess : Nat) (s : State) : Out := goWrite dt sess 0x7000 7 1 s

/-- No apply has arrived for the holdover limit. -/
def execHoldoverTimeout (dt : Nat) (s : State) : Out :=
  goTime dt (fun s =>
    if (s.timeState = tLocked ∨ s.timeState = tSlewing) ∧ s.time.applied + s.rdF 0x7000 5 15 0 * 1000000 ≤ s.now then s.enterHoldover
    else s) s

/-- HOLDOVER has lasted for the loss limit. -/
def execLossTimeout (dt : Nat) (s : State) : Out :=
  goTime dt (fun s =>
    if s.timeState = tHoldover ∧ s.time.holdSince + s.rdF 0x7000 6 11 0 * 1000000000 ≤ s.now then s.declareLoss else s) s

/-! ### Pulses and triggers (R327–R330) -/

/-- A write of a pulse's enable word. -/
def execPulseEnable (dt sess : Nat) (n : Fin 16) (value : BitVec 32) (s : State) : Out := goWrite dt sess (pulseObj n.val) 1 value.toNat s

/-- A pulse's programmed time has come. -/
def State.pulseEdge (s : State) (n : Nat) : State :=
  match (s.pulse n).next with
  | some t => if s.rdB (pulseObj n) 1 0 ∧ t ≤ s.devNs then s.pulseFire n else s
  | none => s

/-- A pulse output drives its edge. -/
def execPulseEdge (dt : Nat) (n : Fin 16) (s : State) : Out := goTime dt (fun s => s.pulseEdge n.val) s

/-- A trigger output drives its edge where one is due. -/
def execTriggerEdge (dt : Nat) (n : Fin 8) (s : State) : Out := goTime dt (fun s => s.trigEdge n.val) s

/-! ### Calendar and lifetime (R331–R334) -/

/-- A whole second of device time at which the calendar is written: the first of an hour, or the first since LOCKED while the calendar
is not valid. -/
def execCalendarWrite (dt : Nat) (s : State) : Out :=
  goTime dt (fun s =>
    if s.timeState = tLocked ∧ (s.time.dev / devSecond / 3600 ≠ s.time.calHour ∨ !s.calValid) then s.calWrite else s) s

/-- VBKP rises into its range: the calendar did not count below it, and is marked not valid. -/
def execVbkpRise (dt : Nat) (s : State) : Out :=
  goAny dt (fun s => (s.withTime fun t => { t with vbkp := true }).wrB 0x7300 2 31 false) s

/-- A periodic commit of the lifetime record, every 600 s. -/
def execLifetimeCommit (dt : Nat) (s : State) : Out :=
  goOn dt (fun s =>
    if s.time.lifeAt + 600000000000 ≤ s.now ∧ s.present 46 ∧ !s.key.brownOut then s.lifeCommit else s) s

/-- A write of 1 to 0x7401:02. -/
def execCommitNow (dt sess : Nat) (s : State) : Out := goWrite dt sess 0x7401 2 1 s

/-- The junction temperature, in 0.1 °C. -/
def execThermalCycle (dt : Nat) (temp : Int) (s : State) : Out := goOn dt (fun s => s.measureTemp temp) s

end Sys2Proof.Machine
end

