-- ==== Sys2Proof/Machine/CmdWake.lean ====
section
/-! DEFINITION. The commands of Chapter 14: wake decoders and pins, domains and keep-alives, the sleep sequence. -/

namespace Sys2Proof.Machine

/-! ### Wake decoders and pins (R361–R368) -/

/-- Phases on a C channel, in ns: dominant, recessive, dominant. A last phase of 0 leaves a partial pattern, first phases of 0 complete
one. -/
def execCanWakePattern (dt : Nat) (c : Fin 72) (dom1 rec_ dom2 : Nat) (s : State) : Out :=
  goAny dt (fun s => s.canPattern c.val dom1 rec_ dom2) s

/-- A partial pattern has not completed within the timeout. -/
def execWakePatternTimeout (dt : Nat) (c : Fin 72) (s : State) : Out := goAny dt (fun s => s.patternTimeout c.val) s

/-- A frame in stored form ends without error at a decoder of wake mode 2. -/
def execWakeFrame (dt : Nat) (c : Fin 72) (bytes : List Byte) (s : State) : Out := goAny dt (fun s => s.wakeFrame c.val bytes) s

/-- A frame ends at a decoder with a stuff, form or CRC error (`err`), or without. -/
def execDecoderError (dt : Nat) (c : Fin 72) (err : Bool) (s : State) : Out := goAny dt (fun s => s.decoderError c.val err) s

/-- A dominant level of `ns` on an L channel. -/
def execLinDominantWake (dt : Nat) (l : Fin 24) (ns : Nat) (s : State) : Out := goAny dt (fun s => s.linDominant l.val ns) s

/-- Activity of `ns` on the segment of a T port. -/
def execT1sActivityWake (dt : Nat) (k : Fin 16) (ns : Nat) (s : State) : Out := goAny dt (fun s => s.t1sActivity k.val ns) s

/-- A WAKE pin takes a level that holds for `ns`. -/
def execWakePinEdge (dt : Nat) (pin : Fin 8) (level : Bool) (ns : Nat) (s : State) : Out := goAny dt (fun s => s.pinEdge pin.val level ns) s

/-! ### Domains (R372–R375) -/

/-- A frame of a member reaches port 46: a CAN frame in stored form, or an Ethernet frame. -/
def execKeepAliveReceived (dt : Nat) (d : Fin 64) (port : Fin 160) (bytes : List Byte) (s : State) : Out :=
  goPort dt port.val (fun s => s.keepAlive d.val port.val bytes) s

/-- The keep-alive timer reaches the timeout. -/
def execKeepAliveTimeout (dt : Nat) (d : Fin 64) (s : State) : Out := goRun dt (fun s => s.domTimeout d.val) s

/-- The prepare time passes. -/
def execPrepareTimeout (dt : Nat) (d : Fin 64) (s : State) : Out := goRun dt (fun s => s.domPrepared d.val) s

/-- A send period passes. -/
def execSendPeriod (dt : Nat) (d : Fin 64) (s : State) : Out := goRun dt (fun s => s.domPeriod d.val) s

/-- The wake hold passes. -/
def execWakeHoldExpiry (dt : Nat) (d : Fin 64) (s : State) : Out := goRun dt (fun s => s.domHeld d.val) s

/-- Byte 0 of a domain's record written with one bit set or cleared. -/
def State.putDomainBit (s : State) (sess d b : Nat) (v : Bool) : State :=
  s.asks sess 0x2080 0 (32 * d) (leBytes 1 (setBit (s.domRec d 0 1) b v))

/-- A write that sets a domain's local request. -/
def execLocalRequest (dt sess : Nat) (d : Fin 64) (s : State) : Out := goOn dt (fun s => s.putDomainBit sess d.val 1 true) s

/-- A write that clears a domain's local request. -/
def execLocalRequestClear (dt sess : Nat) (d : Fin 64) (s : State) : Out := goOn dt (fun s => s.putDomainBit sess d.val 1 false) s

/-- A write that sets a domain's NM enable. -/
def execNmEnable (dt sess : Nat) (d : Fin 64) (s : State) : Out := goOn dt (fun s => s.putDomainBit sess d.val 0 true) s

/-! ### The sleep sequence (R377–R380) -/

/-- Every NM domain is ASLEEP and no local wake is pending. -/
def execSleepSequenceStart (dt : Nat) (s : State) : Out := goRun dt State.sleepAgreement s

/-- Quiescing ends: the part enters DEEP_SLEEP. -/
def execSleepQuiesceDone (dt : Nat) (s : State) : Out := goOn dt State.quiesceDone s

end Sys2Proof.Machine
end

