-- ==== Sys2Proof/Machine/Dispatch.lean ====
section
/-! DEFINITION. One arm per command: each is one call of its meaning. -/

namespace Sys2Proof.Machine

/-- The effect of a command on everything but the queue. -/
def exec (i : Instr) (s : State) : Host.Outcome State Fault Refusal :=
  match i with
  | .dictionaryWrite dt sess idx sub off data => Sys2Proof.Machine.execDictionaryWrite dt sess idx sub off data s
  | .headroomWindowEnd dt meas => Sys2Proof.Machine.execHeadroomWindowEnd dt meas s
  | .resetMinima dt sess => Sys2Proof.Machine.execResetMinima dt sess s
  | .latencyProbeArm dt sess => Sys2Proof.Machine.execLatencyProbeArm dt sess s
  | .wholeSecondStart dt => Sys2Proof.Machine.execWholeSecondStart dt s
  | .couplingRequest dt requester target tag op => Sys2Proof.Machine.execCouplingRequest dt requester target tag op s
  | .couplingAcknowledge dt requester responder tag status => Sys2Proof.Machine.execCouplingAcknowledge dt requester responder tag status s
  | .carriageReset dt sess n => Sys2Proof.Machine.execCarriageReset dt sess n s
  | .carriagePowerDown dt sess n => Sys2Proof.Machine.execCarriagePowerDown dt sess n s
  | .carriagePowerUp dt sess n => Sys2Proof.Machine.execCarriagePowerUp dt sess n s
  | .carriageSelfTest dt sess n => Sys2Proof.Machine.execCarriageSelfTest dt sess n s
  | .swapToSpare dt sess n unit => Sys2Proof.Machine.execSwapToSpare dt sess n unit s
  | .retireRouteBank dt sess n => Sys2Proof.Machine.execRetireRouteBank dt sess n s
  | .returnRouteBank dt sess n => Sys2Proof.Machine.execReturnRouteBank dt sess n s
  | .drainComplete dt n => Sys2Proof.Machine.execDrainComplete dt n s
  | .drainLimitExpiry dt n => Sys2Proof.Machine.execDrainLimitExpiry dt n s
  | .carriageActionEnd dt n pass failed => Sys2Proof.Machine.execCarriageActionEnd dt n pass failed s
  | .queuedSequenceStart dt => Sys2Proof.Machine.execQueuedSequenceStart dt s
  | .correctedError dt n unit => Sys2Proof.Machine.execCorrectedError dt n unit s
  | .errorCountDecay dt => Sys2Proof.Machine.execErrorCountDecay dt s
  | .cellBankCopyEnd dt n => Sys2Proof.Machine.execCellBankCopyEnd dt n s
  | .edgeSwapCopyEnd dt n unit => Sys2Proof.Machine.execEdgeSwapCopyEnd dt n unit s
  | .edgeSwapIntegrated dt n unit => Sys2Proof.Machine.execEdgeSwapIntegrated dt n unit s
  | .retirementShuntEnd dt n => Sys2Proof.Machine.execRetirementShuntEnd dt n s
  | .selfTestSlot dt => Sys2Proof.Machine.execSelfTestSlot dt s
  | .selfTestEnd dt pass => Sys2Proof.Machine.execSelfTestEnd dt pass s
  | .queueItemWrite dt port item errs => Sys2Proof.Machine.execQueueItemWrite dt port item errs s
  | .queuePop dt port => Sys2Proof.Machine.execQueuePop dt port s
  | .ethernetFrameEnd dt port tail domain cls ago node pcsError errs => Sys2Proof.Machine.execEthernetFrameEnd dt port tail domain cls ago node pcsError errs s
  | .cutThroughRelease dt port errs => Sys2Proof.Machine.execCutThroughRelease dt port errs s
  | .queueFlush dt sess port delivery => Sys2Proof.Machine.execQueueFlush dt sess port delivery s
  | .flushDeferredEffect dt => Sys2Proof.Machine.execFlushDeferredEffect dt s
  | .ageSweep dt group => Sys2Proof.Machine.execAgeSweep dt group s
  | .waitingCopyTaken dt port => Sys2Proof.Machine.execWaitingCopyTaken dt port s
  | .resetLeastFree dt sess => Sys2Proof.Machine.execResetLeastFree dt sess s
  | .entryReadByKey dt sess entry errs => Sys2Proof.Machine.execEntryReadByKey dt sess entry errs s
  | .entryInsert dt sess entry errs => Sys2Proof.Machine.execEntryInsert dt sess entry errs s
  | .entryDelete dt sess entry errs => Sys2Proof.Machine.execEntryDelete dt sess entry errs s
  | .entryReadBySlot dt sess bank bucket way errs => Sys2Proof.Machine.execEntryReadBySlot dt sess bank bucket way errs s
  | .shuntMove dt => Sys2Proof.Machine.execShuntMove dt s
  | .learningRequest dt group errs => Sys2Proof.Machine.execLearningRequest dt group errs s
  | .clearLog dt sess port => Sys2Proof.Machine.execClearLog dt sess port s
  | .ageingScanVisit dt bank bucket way typ errs => Sys2Proof.Machine.execAgeingScanVisit dt bank bucket way typ errs s
  | .portModeWrite dt sess port value => Sys2Proof.Machine.execPortModeWrite dt sess port value s
  | .linkUp dt port => Sys2Proof.Machine.execLinkUp dt port s
  | .linkDown dt port => Sys2Proof.Machine.execLinkDown dt port s
  | .thresholdWrite dt sess port value => Sys2Proof.Machine.execThresholdWrite dt sess port value s
  | .egressSelect dt port errs => Sys2Proof.Machine.execEgressSelect dt port errs s
  | .transmitUnderrun dt port => Sys2Proof.Machine.execTransmitUnderrun dt port s
  | .thresholdDecay dt port => Sys2Proof.Machine.execThresholdDecay dt port s
  | .forcedSafEnd dt => Sys2Proof.Machine.execForcedSafEnd dt s
  | .pauseReceived dt port quanta => Sys2Proof.Machine.execPauseReceived dt port quanta s
  | .pfcReceived dt port classes quanta => Sys2Proof.Machine.execPfcReceived dt port classes quanta s
  | .pauseExpiry dt port cls => Sys2Proof.Machine.execPauseExpiry dt port cls s
  | .pauseWatchdogTrip dt port cls => Sys2Proof.Machine.execPauseWatchdogTrip dt port cls s
  | .holdOffEnd dt port cls => Sys2Proof.Machine.execHoldOffEnd dt port cls s
  | .receiveBufferThreshold dt port fill => Sys2Proof.Machine.execReceiveBufferThreshold dt port fill s
  | .pauseRepeat dt port => Sys2Proof.Machine.execPauseRepeat dt port s
  | .beaconSend dt port => Sys2Proof.Machine.execBeaconSend dt port s
  | .beaconReceived dt port => Sys2Proof.Machine.execBeaconReceived dt port s
  | .beaconTimeout dt port => Sys2Proof.Machine.execBeaconTimeout dt port s
  | .collision dt port bitTimes => Sys2Proof.Machine.execCollision dt port bitTimes s
  | .jabber dt port => Sys2Proof.Machine.execJabber dt port s
  | .noise dt port => Sys2Proof.Machine.execNoise dt port s
  | .snapshot dt sess => Sys2Proof.Machine.execSnapshot dt sess s
  | .channelModeWrite dt sess chan value receiving => Sys2Proof.Machine.execChannelModeWrite dt sess chan value receiving s
  | .channelIntegrated dt chan => Sys2Proof.Machine.execChannelIntegrated dt chan s
  | .canFrameValid dt chan bytes domain cls ago errs => Sys2Proof.Machine.execCanFrameValid dt chan bytes domain cls ago errs s
  | .bufferLock dt sess chan value => Sys2Proof.Machine.execBufferLock dt sess chan value s
  | .canFrameSent dt chan loop => Sys2Proof.Machine.execCanFrameSent dt chan loop s
  | .arbitrationLost dt chan => Sys2Proof.Machine.execArbitrationLost dt chan s
  | .canBusError dt chan kind sending exempt eights => Sys2Proof.Machine.execCanBusError dt chan kind sending exempt eights s
  | .transmitRequest dt sess chan buf => Sys2Proof.Machine.execTransmitRequest dt sess chan buf s
  | .transmitCancel dt sess chan buf => Sys2Proof.Machine.execTransmitCancel dt sess chan buf s
  | .busOffRecover dt sess chan => Sys2Proof.Machine.execBusOffRecover dt sess chan s
  | .busOffRecovered dt chan => Sys2Proof.Machine.execBusOffRecovered dt chan s
  | .columnStart dt chan => Sys2Proof.Machine.execColumnStart dt chan s
  | .referenceMessageReceived dt chan prio cycle ago => Sys2Proof.Machine.execReferenceMessageReceived dt chan prio cycle ago s
  | .masterTimeout dt chan => Sys2Proof.Machine.execMasterTimeout dt chan s
  | .linSlotStart dt lin => Sys2Proof.Machine.execLinSlotStart dt lin s
  | .linResponseTimeout dt lin => Sys2Proof.Machine.execLinResponseTimeout dt lin s
  | .linTableSwitch dt sess lin value => Sys2Proof.Machine.execLinTableSwitch dt sess lin value s
  | .linHeaderReceived dt lin pid breakBits syncClocks => Sys2Proof.Machine.execLinHeaderReceived dt lin pid breakBits syncClocks s
  | .linFrameReceived dt lin pid data checksum framing domain cls ago errs => Sys2Proof.Machine.execLinFrameReceived dt lin pid data checksum framing domain cls ago errs s
  | .linInactivityTimeout dt lin => Sys2Proof.Machine.execLinInactivityTimeout dt lin s
  | .gatewayJob dt engine => Sys2Proof.Machine.execGatewayJob dt engine s
  | .timerWheelTick dt => Sys2Proof.Machine.execTimerWheelTick dt s
  | .transmissionTimer dt rec_ => Sys2Proof.Machine.execTransmissionTimer dt rec_ s
  | .deadlineTimeout dt rec_ => Sys2Proof.Machine.execDeadlineTimeout dt rec_ s
  | .timerHandover dt engine => Sys2Proof.Machine.execTimerHandover dt engine s
  | .gatewayEnable dt sess => Sys2Proof.Machine.execGatewayEnable dt sess s
  | .pduRecordWrite dt sess rec_ bytes => Sys2Proof.Machine.execPduRecordWrite dt sess rec_ bytes s
  | .containerFlushTimer dt stream => Sys2Proof.Machine.execContainerFlushTimer dt stream s
  | .containerReceived dt => Sys2Proof.Machine.execContainerReceived dt s
  | .gateChange dt sess port => Sys2Proof.Machine.execGateChange dt sess port s
  | .gateListChange dt port => Sys2Proof.Machine.execGateListChange dt port s
  | .gateEntryStart dt port => Sys2Proof.Machine.execGateEntryStart dt port s
  | .verifyTimer dt port => Sys2Proof.Machine.execVerifyTimer dt port s
  | .frerResetTimer dt handle => Sys2Proof.Machine.execFrerResetTimer dt handle s
  | .observationSample dt port => Sys2Proof.Machine.execObservationSample dt port s
  | .observationReset dt sess port => Sys2Proof.Machine.execObservationReset dt sess port s
  | .traceRelease dt sess n => Sys2Proof.Machine.execTraceRelease dt sess n s
  | .noticeTimer dt => Sys2Proof.Machine.execNoticeTimer dt s
  | .shadowRuleWrite dt sess window off bytes => Sys2Proof.Machine.execShadowRuleWrite dt sess window off bytes s
  | .copyToShadow dt sess => Sys2Proof.Machine.execCopyToShadow dt sess s
  | .copyToShadowDone dt => Sys2Proof.Machine.execCopyToShadowDone dt s
  | .swap dt sess => Sys2Proof.Machine.execSwap dt sess s
  | .ruleScrub dt errs => Sys2Proof.Machine.execRuleScrub dt errs s
  | .authenticatorVerifyDone dt cluster engine ctxError => Sys2Proof.Machine.execAuthenticatorVerifyDone dt cluster engine ctxError s
  | .cryptoOperationEnd dt cluster engine ctxError => Sys2Proof.Machine.execCryptoOperationEnd dt cluster engine ctxError s
  | .suspendedResume dt cluster engine => Sys2Proof.Machine.execSuspendedResume dt cluster engine s
  | .keyDerivationDone dt cluster => Sys2Proof.Machine.execKeyDerivationDone dt cluster s
  | .freshnessCommit dt => Sys2Proof.Machine.execFreshnessCommit dt s
  | .keyDefine dt sess h kind wide parent label => Sys2Proof.Machine.execKeyDefine dt sess h kind wide parent label s
  | .keyGenerate dt sess h kind wide => Sys2Proof.Machine.execKeyGenerate dt sess h kind wide s
  | .keyImport dt sess h blob => Sys2Proof.Machine.execKeyImport dt sess h blob s
  | .keyRotate dt sess h => Sys2Proof.Machine.execKeyRotate dt sess h s
  | .keyRevoke dt sess h => Sys2Proof.Machine.execKeyRevoke dt sess h s
  | .keyDelete dt sess h => Sys2Proof.Machine.execKeyDelete dt sess h s
  | .keyReseal dt sess => Sys2Proof.Machine.execKeyReseal dt sess s
  | .closeMigration dt sess => Sys2Proof.Machine.execCloseMigration dt sess s
  | .entropyHealthFail dt ok => Sys2Proof.Machine.execEntropyHealthFail dt ok s
  | .attestation dt sess h kind nonce => Sys2Proof.Machine.execAttestation dt sess h kind nonce s
  | .lifeCycleRequest dt sess target => Sys2Proof.Machine.execLifeCycleRequest dt sess target s
  | .sensorTrip dt sensor cars sess => Sys2Proof.Machine.execSensorTrip dt sensor cars sess s
  | .thaw dt sess => Sys2Proof.Machine.execThaw dt sess s
  | .configExport dt sess => Sys2Proof.Machine.execConfigExport dt sess s
  | .configImport dt sess => Sys2Proof.Machine.execConfigImport dt sess s
  | .configCheckOnly dt sess => Sys2Proof.Machine.execConfigCheckOnly dt sess s
  | .brownOutWarning dt => Sys2Proof.Machine.execBrownOutWarning dt s
  | .brownOutClear dt => Sys2Proof.Machine.execBrownOutClear dt s
  | .timeCapture dt sess => Sys2Proof.Machine.execTimeCapture dt sess s
  | .timeApply dt sess offset rate => Sys2Proof.Machine.execTimeApply dt sess offset rate s
  | .slewEnd dt => Sys2Proof.Machine.execSlewEnd dt s
  | .declareLoss dt sess => Sys2Proof.Machine.execDeclareLoss dt sess s
  | .holdoverTimeout dt => Sys2Proof.Machine.execHoldoverTimeout dt s
  | .lossTimeout dt => Sys2Proof.Machine.execLossTimeout dt s
  | .pulseEnable dt sess n value => Sys2Proof.Machine.execPulseEnable dt sess n value s
  | .pulseEdge dt n => Sys2Proof.Machine.execPulseEdge dt n s
  | .triggerEdge dt n => Sys2Proof.Machine.execTriggerEdge dt n s
  | .calendarWrite dt => Sys2Proof.Machine.execCalendarWrite dt s
  | .vbkpRise dt => Sys2Proof.Machine.execVbkpRise dt s
  | .lifetimeCommit dt => Sys2Proof.Machine.execLifetimeCommit dt s
  | .commitNow dt sess => Sys2Proof.Machine.execCommitNow dt sess s
  | .thermalCycle dt temp => Sys2Proof.Machine.execThermalCycle dt temp s
  | .ioscWindow dt count => Sys2Proof.Machine.execIoscWindow dt count s
  | .ioscRequalify dt => Sys2Proof.Machine.execIoscRequalify dt s
  | .xtalWindow dt count => Sys2Proof.Machine.execXtalWindow dt count s
  | .referenceSelect dt sess value => Sys2Proof.Machine.execReferenceSelect dt sess value s
  | .clockEnableWrite dt sess clock value => Sys2Proof.Machine.execClockEnableWrite dt sess clock value s
  | .lossOfClock dt clock => Sys2Proof.Machine.execLossOfClock dt clock s
  | .pllLocked dt clock => Sys2Proof.Machine.execPllLocked dt clock s
  | .fallbackTimeout dt => Sys2Proof.Machine.execFallbackTimeout dt s
  | .aoscFailure dt => Sys2Proof.Machine.execAoscFailure dt s
  | .sleepCommand dt sess => Sys2Proof.Machine.execSleepCommand dt sess s
  | .deepSleepCommand dt sess => Sys2Proof.Machine.execDeepSleepCommand dt sess s
  | .offCommand dt sess => Sys2Proof.Machine.execOffCommand dt sess s
  | .runCommand dt sess => Sys2Proof.Machine.execRunCommand dt sess s
  | .pholdReleaseTimeout dt => Sys2Proof.Machine.execPholdReleaseTimeout dt s
  | .supplyGoodRise dt pg => Sys2Proof.Machine.execSupplyGoodRise dt pg s
  | .sequencingTimeout dt => Sys2Proof.Machine.execSequencingTimeout dt s
  | .sequenceRetry dt => Sys2Proof.Machine.execSequenceRetry dt s
  | .supplyGoodLost dt pg ns => Sys2Proof.Machine.execSupplyGoodLost dt pg ns s
  | .pmbusPoll dt l => Sys2Proof.Machine.execPmbusPoll dt l s
  | .pmbusAlert dt rail status => Sys2Proof.Machine.execPmbusAlert dt rail status s
  | .vfabFault dt => Sys2Proof.Machine.execVfabFault dt s
  | .vfabRecoveryTimeout dt back => Sys2Proof.Machine.execVfabRecoveryTimeout dt back s
  | .canWakePattern dt c dom1 rec_ dom2 => Sys2Proof.Machine.execCanWakePattern dt c dom1 rec_ dom2 s
  | .wakePatternTimeout dt c => Sys2Proof.Machine.execWakePatternTimeout dt c s
  | .wakeFrame dt c bytes => Sys2Proof.Machine.execWakeFrame dt c bytes s
  | .linDominantWake dt l ns => Sys2Proof.Machine.execLinDominantWake dt l ns s
  | .t1sActivityWake dt k ns => Sys2Proof.Machine.execT1sActivityWake dt k ns s
  | .wakePinEdge dt pin level ns => Sys2Proof.Machine.execWakePinEdge dt pin level ns s
  | .keepAliveReceived dt d port bytes => Sys2Proof.Machine.execKeepAliveReceived dt d port bytes s
  | .keepAliveTimeout dt d => Sys2Proof.Machine.execKeepAliveTimeout dt d s
  | .prepareTimeout dt d => Sys2Proof.Machine.execPrepareTimeout dt d s
  | .sendPeriod dt d => Sys2Proof.Machine.execSendPeriod dt d s
  | .wakeHoldExpiry dt d => Sys2Proof.Machine.execWakeHoldExpiry dt d s
  | .localRequest dt sess d => Sys2Proof.Machine.execLocalRequest dt sess d s
  | .sleepSequenceStart dt => Sys2Proof.Machine.execSleepSequenceStart dt s
  | .sleepQuiesceDone dt => Sys2Proof.Machine.execSleepQuiesceDone dt s
  | .lockstepMismatch dt pair channel => Sys2Proof.Machine.execLockstepMismatch dt pair channel s
  | .sequencerMismatch dt channel => Sys2Proof.Machine.execSequencerMismatch dt channel s
  | .fwErase dt sess => Sys2Proof.Machine.execFwErase dt sess s
  | .fwCheck dt sess => Sys2Proof.Machine.execFwCheck dt sess s
  | .fwActivate dt sess cover => Sys2Proof.Machine.execFwActivate dt sess cover s
  | .pairPresent dt pair pass bit us joinPass => Sys2Proof.Machine.execPairPresent dt pair pass bit us joinPass s
  | .pairStartTimeout dt pair => Sys2Proof.Machine.execPairStartTimeout dt pair s
  | .fwConfirm dt sess => Sys2Proof.Machine.execFwConfirm dt sess s
  | .fwRevert dt sess cover => Sys2Proof.Machine.execFwRevert dt sess cover s
  | .fwSlotRecordWrite dt sess rec_ bytes => Sys2Proof.Machine.execFwSlotRecordWrite dt sess rec_ bytes s
  | .pciePerst dt => Sys2Proof.Machine.execPciePerst dt s
  | .functionLevelReset dt => Sys2Proof.Machine.execFunctionLevelReset dt s
  | .pcieLinkChange dt up speed width => Sys2Proof.Machine.execPcieLinkChange dt up speed width s
  | .bar0Read dt off len tag answered => Sys2Proof.Machine.execBar0Read dt off len tag answered s
  | .bar0Write dt off data poisoned => Sys2Proof.Machine.execBar0Write dt off data poisoned s
  | .delayedReadTimeout dt tag late => Sys2Proof.Machine.execDelayedReadTimeout dt tag late s
  | .windowAccess dt w off write len tag data poisoned => Sys2Proof.Machine.execWindowAccess dt w off write len tag data poisoned s
  | .translationWindowWrite dt sess w bytes => Sys2Proof.Machine.execTranslationWindowWrite dt sess w bytes s
  | .prefetchAgeExpiry dt w => Sys2Proof.Machine.execPrefetchAgeExpiry dt w s
  | .queueWindowRead dt off len tag => Sys2Proof.Machine.execQueueWindowRead dt off len tag s
  | .doorbellWrite dt ring value => Sys2Proof.Machine.execDoorbellWrite dt ring value s
  | .hostDescriptorFetched dt ring len kind domain data dmaOk => Sys2Proof.Machine.execHostDescriptorFetched dt ring len kind domain data dmaOk s
  | .partToHostFrame dt ring addr => Sys2Proof.Machine.execPartToHostFrame dt ring addr s
  | .msixCoalesceTimer dt vec => Sys2Proof.Machine.execMsixCoalesceTimer dt vec s
  | .sdoInitiateDownload dt c data => Sys2Proof.Machine.execSdoInitiateDownload dt c data s
  | .sdoDownloadSegment dt c data => Sys2Proof.Machine.execSdoDownloadSegment dt c data s
  | .sdoInitiateUpload dt c data => Sys2Proof.Machine.execSdoInitiateUpload dt c data s
  | .sdoUploadSegment dt c data => Sys2Proof.Machine.execSdoUploadSegment dt c data s
  | .sdoBlockDownload dt c data => Sys2Proof.Machine.execSdoBlockDownload dt c data s
  | .sdoBlockUpload dt c data => Sys2Proof.Machine.execSdoBlockUpload dt c data s
  | .sdoAbortReceived dt c data => Sys2Proof.Machine.execSdoAbortReceived dt c data s
  | .sdoTimeout dt c => Sys2Proof.Machine.execSdoTimeout dt c s
  | .dalmolyOpen dt port frame => Sys2Proof.Machine.execDalmolyOpen dt port frame s
  | .dalmolyRead dt port frame => Sys2Proof.Machine.execDalmolyRead dt port frame s
  | .dalmolyWrite dt port frame => Sys2Proof.Machine.execDalmolyWrite dt port frame s
  | .dalmolyClose dt port frame => Sys2Proof.Machine.execDalmolyClose dt port frame s
  | .sessionIdleTimeout dt n => Sys2Proof.Machine.execSessionIdleTimeout dt n s
  | .groupBegin dt sess via => Sys2Proof.Machine.execGroupBegin dt sess via s
  | .groupCommit dt sess via => Sys2Proof.Machine.execGroupCommit dt sess via s
  | .groupAbandon dt sess via => Sys2Proof.Machine.execGroupAbandon dt sess via s
  | .lockHoldExpiry dt idx => Sys2Proof.Machine.execLockHoldExpiry dt idx s
  | .quenchBlockEnd dt sess => Sys2Proof.Machine.execQuenchBlockEnd dt sess s
  | .drawbarLookupFrame dt port bytes ago => Sys2Proof.Machine.execDrawbarLookupFrame dt port bytes ago s
  | .drawbarUnicastFrame dt port bytes ago => Sys2Proof.Machine.execDrawbarUnicastFrame dt port bytes ago s
  | .drawbarFloodFrame dt port bytes ago => Sys2Proof.Machine.execDrawbarFloodFrame dt port bytes ago s
  | .rollCallReceived dt port bytes dist => Sys2Proof.Machine.execRollCallReceived dt port bytes dist s
  | .managementRequest dt port bytes => Sys2Proof.Machine.execManagementRequest dt port bytes s
  | .managementAnswer dt port bytes => Sys2Proof.Machine.execManagementAnswer dt port bytes s
  | .rollCallTimer dt => Sys2Proof.Machine.execRollCallTimer dt s
  | .heardTimeout dt d => Sys2Proof.Machine.execHeardTimeout dt d s
  | .preemptHoldExpiry dt => Sys2Proof.Machine.execPreemptHoldExpiry dt s
  | .wardenGraceExpiry dt => Sys2Proof.Machine.execWardenGraceExpiry dt s
  | .forwardTimeout dt slot => Sys2Proof.Machine.execForwardTimeout dt slot s
  | .conflictClear dt => Sys2Proof.Machine.execConflictClear dt s
  | .sessionTargetWrite dt sess value => Sys2Proof.Machine.execSessionTargetWrite dt sess value s
  | .powerOnReset dt vaon => Sys2Proof.Machine.execPowerOnReset dt vaon s
  | .bistGroupEnd dt res => Sys2Proof.Machine.execBistGroupEnd dt res s
  | .bootMeasurementDone dt station signal => Sys2Proof.Machine.execBootMeasurementDone dt station signal s
  | .forwardingPoint dt => Sys2Proof.Machine.execForwardingPoint dt s
  | .startupComplete dt => Sys2Proof.Machine.execStartupComplete dt s
  | .decoderError dt c err => Sys2Proof.Machine.execDecoderError dt c err s
  | .verifyResponse dt port => Sys2Proof.Machine.execVerifyResponse dt port s
  | .nmEnable dt sess d => Sys2Proof.Machine.execNmEnable dt sess d s
  | .localRequestClear dt sess d => Sys2Proof.Machine.execLocalRequestClear dt sess d s
  | .mkaSak dt handle cak wide wrapped => Sys2Proof.Machine.execMkaSak dt handle cak wide wrapped s
  | .fwEraseDone dt ok => Sys2Proof.Machine.execFwEraseDone dt ok s
  | .configExportDone dt => Sys2Proof.Machine.execConfigExportDone dt s

end Sys2Proof.Machine
end

