-- ==== Sys2Proof/Safety.lean ====
section
/-! DEFINITION. What a well-kept state is, and what no step of the block may do. -/

namespace Sys2Proof.Machine

/-- The dictionary scalars are in canonical form: keys strictly rising, and no entry equal to its default (R426). -/
def Regs.wf (m : List (Nat × BitVec 64)) : Bool :=
  keysRise m && m.all fun e => e.2 != regDefault e.1

/-- The window bytes are in canonical form: keys strictly rising, and no entry equal to its default. -/
def Memory.wf (m : List (Nat × Byte)) : Bool :=
  keysRise m && m.all fun e => e.2 != byteDefault e.1

/-- Scalars and windows both stand in canonical form. -/
def State.canonical (s : State) : Prop := Regs.wf s.regs = true ∧ Memory.wf s.wins = true

/-- What the state `t` after some work keeps of the state `s` before it: the waiting commands are the same; time has not run back;
no free value is drawn a second time; what has left the block stays put out, in its order; and scalars and windows that stood in
canonical form still do. -/
structure State.Keeps (s t : State) : Prop where
  queue : t.pending = s.pending
  time : s.now ≤ t.now
  draws : s.fresh ≤ t.fresh
  log : s.outputs <:+ t.outputs
  scalars : Regs.wf s.regs = true → Regs.wf t.regs = true
  windows : Memory.wf s.wins = true → Memory.wf t.wins = true

/-- An outcome that is a next state keeps what `State.Keeps` says of the state `s`. -/
def Out.Keeps (s : State) (o : Out) : Prop := ∀ t, o = .next t → s.Keeps t

end Sys2Proof.Machine
end

