-- ==== Sys2Proof/Clauses/Base.lean ====
section
/-! DEFINITION. What a clause about a command says: where it has its own effect, and what the state is then. -/

namespace Sys2Proof.Machine

/-- The outcome of a command whose effect on the state `u` gives `t`: the units go on by themselves, and vector 1 tells the host of new
records of the event ring. -/
def State.done (u t : State) : Out := .next (t.settle.tellRing (u.rd 0x1201 1))

/-- One row of the table with its operands: the command for a time `dt` since the one before it, the condition on the state once that
time has passed under which the command has its own effect, and that effect. -/
structure Clause where
  cmd : Nat → Instr
  pre : State → Bool
  eff : State → State

/-- In every state in canonical form that meets the condition the command answers the next state that its effect gives. -/
def Clause.Holds (k : Clause) : Prop :=
  ∀ (dt : Nat) (s : State), s.canonical → k.pre (s.advance dt) = true → exec (k.cmd dt) s = (s.advance dt).done (k.eff (s.advance dt))

/-- The state RUN. -/
def State.inRun (u : State) : Bool := u.mode == .run

/-- The states RUN and SLEEP, in which the dictionary is served (R349, Table 13.4). -/
def State.awake (u : State) : Bool := u.mode == .run || u.mode == .sleep

/-- The states in which the power and clock managers run: RUN, SLEEP and DEEP_SLEEP. -/
def State.powered (u : State) : Bool := u.awake || u.mode == .deepSleep

/-- The part has not been stopped by its own oscillator (R348). -/
def State.alive (u : State) : Bool := u.mode != .stopped

/-! ### Writes of dictionary objects (R446) -/

/-- A request of a session about an index is served here and now: the session has a role (Table 17.2), no group of it is open (R432), no
other session holds the index (R429), the warden serves (R427), and the request is not forwarded (R466). -/
def State.serves (u : State) (sess idx : Nat) : Bool :=
  u.awake && (u.roleOf sess).isSome && (u.groupOf sess).isNone && (isLocal idx || !u.lockedFor sess idx) && u.startup.measured && u.present 45
    && ((0xA000 ≤ idx && idx ≤ 0xA0FF) || (u.forwardSlot sess).isNone)

/-- The state in which an accepted write takes effect: the lock of the index is the session's (R429). -/
def State.taken (u : State) (sess idx : Nat) : State := if isLocal idx then u else u.takeLock sess idx

/-- A value written whole to a scalar passes every check of R446; a target also those of R466. -/
def State.takes (u : State) (sess idx sub v : Nat) : Bool :=
  u.serves sess idx && idx != 0x1130 && (idx != 0xA001 || (u.setTarget sess v).1 == 0) &&
    match u.roleOf sess, objRow idx sub with
    | some role, some row =>
      !row.window && (v < 256 ^ row.size : Bool) && writeAbort role idx sub 0 row.size == 0
        && (u.taken sess idx).scalarAbort sess idx sub v row true == 0
    | _, _ => false

/-- A whole record written to a table window passes every check of R425 and R446. -/
def State.takesRecord (u : State) (sess idx sub k : Nat) (r : List Byte) : Bool :=
  u.serves sess idx && idx != 0x1130 &&
    match u.roleOf sess, objRow idx sub with
    | some role, some row =>
      row.window && row.rsz != 0 && r.length == row.rsz && writeAbort role idx sub (row.rsz * k) row.rsz == 0
        && (u.taken sess idx).recordAbort sess idx sub k row r true == 0
    | _, _ => false

/-- The effect of an accepted write with the answer of abort code 0. -/
def State.did (u : State) (sess idx : Nat) (act : State → State) : State := (act (u.taken sess idx)).emit (.answer sess 0 [])

/-- A scalar that holds the value written. -/
def State.stored (u : State) (sess idx sub v : Nat) : State := u.did sess idx fun t => t.wr idx sub v

/-- Writes of one scalar after the other, each accepted where it stands. -/
def State.takesAll (u : State) (sess : Nat) : List (Nat × Nat × Nat) → Bool
  | [] => true
  | (i, a, v) :: rest => u.takes sess i a v && (u.stored sess i a v).takesAll sess rest

/-- The scalars after writes of one after the other. -/
def State.storedAll (u : State) (sess : Nat) : List (Nat × Nat × Nat) → State
  | [] => u
  | (i, a, v) :: rest => (u.stored sess i a v).storedAll sess rest

/-- A command that is one write of a scalar: accepted, on a state that meets `ok`, its effect is `act`. -/
def asWrite (cmd : Nat → Instr) (sess idx sub v : Nat) (act : State → State) (ok : State → Bool := fun _ => true) : Clause where
  cmd := cmd
  pre u := u.takes sess idx sub v && ok (u.taken sess idx)
  eff u := u.did sess idx act

/-- A command that writes scalars and then starts what they name by a write of 1: the effect of the start is `act`. -/
def asStart (cmd : Nat → Instr) (sess : Nat) (words : List (Nat × Nat × Nat)) (idx sub : Nat) (act : State → State)
    (ok : State → Bool := fun _ => true) : Clause where
  cmd := cmd
  pre u := u.takesAll sess (words ++ [(idx, sub, 1)]) && ok ((u.storedAll sess words).taken sess idx)
  eff u := (u.storedAll sess words).did sess idx act

/-- A window of one record that holds the bytes written. -/
def State.storedWindow (u : State) (sess idx sub : Nat) (r : List Byte) : State := u.did sess idx fun t => t.setWin idx sub 0 r

/-- A command that writes scalars and one window, and then starts what they name. -/
def asBlob (cmd : Nat → Instr) (sess : Nat) (words : List (Nat × Nat × Nat)) (bi bsub : Nat) (blob : List Byte) (idx sub : Nat)
    (act : State → State) (ok : State → Bool := fun _ => true) : Clause where
  cmd := cmd
  pre u :=
    let v := (u.storedAll sess words).storedWindow sess bi bsub blob
    u.takesAll sess words && (u.storedAll sess words).takesRecord sess bi bsub 0 blob && v.takes sess idx sub 1 && ok (v.taken sess idx)
  eff u := ((u.storedAll sess words).storedWindow sess bi bsub blob).did sess idx act

/-- A command that writes one record of a table window: accepted, its effect is `act`. -/
def asRecord (cmd : Nat → Instr) (sess idx sub k : Nat) (r : List Byte) (act : State → State) : Clause where
  cmd := cmd
  pre u := u.takesRecord sess idx sub k r
  eff u := u.did sess idx act

end Sys2Proof.Machine
end

