-- ==== Sys2Proof/Clauses/Channels.lean ====
section
/-! DEFINITION. Clauses about the commands of Chapter 6. -/

namespace Sys2Proof.Machine.Row

/-! ### Modes (R150) -/

/-- A channel with no frame on its bus takes another mode at once. -/
def channelModeWrite (sess : Nat) (chan : Fin 96) (value : BitVec 32) : Clause :=
  asWrite (fun dt => .channelModeWrite dt sess chan value false) sess (chObj chan.val 0) 1 value.toNat
    (fun t => (t.wr (chObj chan.val 0) 1 value.toNat).applyMode chan.val)
    fun t => t.rd (chObj chan.val 0) 1 != value.toNat && ((t.wr (chObj chan.val 0) 1 value.toNat).ch chan.val).offer.isNone
      && !((t.wr (chObj chan.val 0) 1 value.toNat).ch chan.val).busy

/-- While a frame of the channel is on the bus the mode waits for it. -/
def channelModeWaits (sess : Nat) (chan : Fin 96) (value : BitVec 32) : Clause :=
  asWrite (fun dt => .channelModeWrite dt sess chan value false) sess (chObj chan.val 0) 1 value.toNat
    (fun t => (t.wr (chObj chan.val 0) 1 value.toNat).modCh chan.val fun d => { d with newMode := some value.toNat })
    fun t => t.rd (chObj chan.val 0) 1 != value.toNat && ((t.wr (chObj chan.val 0) 1 value.toNat).ch chan.val).offer.isSome

/-- A channel integrates (R150): Integrated reads 1, and a C channel that is not bus-off offers what it has. -/
def channelIntegrated (chan : Fin 96) : Clause where
  cmd dt := .channelIntegrated dt chan
  pre u := u.inRun && u.chLive chan.val
  eff u :=
    let t := u.wrB (chObj chan.val 0) 2 3 true
    if chan.val < 72 ∧ t.errState chan.val ≤ 1 then t.nextOnBus chan.val else t

/-! ### Reception (R156, R160, R161) -/

/-- A good frame of the channel's protocol on a C bus (R156, R160): the receive error count falls, the counters rise, a receive buffer and
the ingress queue take it, and the bus is free. -/
def canFrameValid (chan : Fin 72) (bytes : List Byte) (domain : Fin 64) (cls : Fin 8) (ago : Nat) (errs : ReadErrs) : Clause where
  cmd dt := .canFrameValid dt (chan.castLE (by decide)) bytes domain cls ago errs
  pre u := u.inRun && u.canHears chan.val && canLenOk (parseCan bytes)
    && !(u.meetErrs errs).foreign chan.val (sliceZ bytes 0 (16 + (parseCan bytes).len)) && !(u.meetErrs errs).rdB (chObj chan.val 0) 1 4
  eff u := ((((u.meetErrs errs).goodRx chan.val).goodFrame chan.val (sliceZ bytes 0 (16 + (parseCan bytes).len)) domain.val cls.val
    ago).modCh chan.val fun d => { d with busy := false }).nextOnBus chan.val

/-- The lock of the receive buffers names a buffer (R161, R430): the buffer named before is released, and the session keeps the object. -/
def bufferLock (sess : Nat) (chan : Fin 96) (value : BitVec 32) : Clause :=
  asWrite (fun dt => .bufferLock dt sess chan value) sess (chObj chan.val 5) 4 value.toNat
    (fun t => (t.writeLock chan.val value.toNat).claimLock sess (chObj chan.val 5)) fun _ => value.toNat < 64

/-- The lock is given up (R161). -/
def bufferUnlock (sess : Nat) (chan : Fin 96) (value : BitVec 32) : Clause :=
  asWrite (fun dt => .bufferLock dt sess chan value) sess (chObj chan.val 5) 4 value.toNat
    (fun t => (t.writeLock chan.val value.toNat).freeLock (chObj chan.val 5)) fun _ => 64 ≤ value.toNat

/-! ### Transmission (R157–R159, R162–R164) -/

/-- An offered frame without a data phase is sent (R158, R163): it leaves, its counters rise, its transmit error count falls, its source
gives it up, and the channel offers the next. -/
def canFrameSent (chan : Fin 72) (loop : Nat) : Clause where
  cmd dt := .canFrameSent dt chan loop
  pre u := u.inRun && u.chSends chan.val &&
    match (u.ch chan.val).offer with
    | some o => !dataPhase o.bytes
    | none => false
  eff u :=
    match (u.ch chan.val).offer with
    | some o => (u.offerSent chan.val o).nextOnBus chan.val
    | none => u

/-- With a data phase the loop delay is measured into 0x4002:05 (R153). -/
def canFastSent (chan : Fin 72) (loop : Nat) : Clause where
  cmd dt := .canFrameSent dt chan loop
  pre u := u.inRun && u.chSends chan.val && (loop ≤ 127 : Bool) &&
    match (u.ch chan.val).offer with
    | some o => dataPhase o.bytes
    | none => false
  eff u :=
    match (u.ch chan.val).offer with
    | some o => ((u.wr (chObj chan.val 2) 5 loop).offerSent chan.val o).nextOnBus chan.val
    | none => u

/-- Arbitration is lost (R159): counted in 0x0E; the frame goes back to its source, and the bus is another node's. -/
def arbitrationLost (chan : Fin 72) : Clause where
  cmd dt := .arbitrationLost dt chan
  pre u := u.inRun && u.chSends chan.val &&
    match (u.ch chan.val).offer with
    | some o => o.src != 3 && (((u.chCount chan.val 0x0E 1).withdraw chan.val).ch chan.val).newMode.isNone
    | none => false
  eff u := ((u.chCount chan.val 0x0E 1).withdraw chan.val).modCh chan.val fun d => { d with busy := true }

/-- An error on the bus (R156, R164): counted by its kind with the last kind, and in the error counters; then the channel goes on. -/
def canBusError (chan : Fin 72) (kind : Fin 6) (sending exempt : Bool) (eights : Nat) : Clause where
  cmd dt := .canBusError dt chan kind sending exempt eights
  pre u := u.inRun && u.canHears chan.val && (!sending || (u.ch chan.val).offer.isSome)
  eff u := (u.busError chan.val (kind.val + 1) sending exempt eights).nextOnBus chan.val

/-- A transmit buffer becomes pending (R162), and the channel offers what comes first. -/
def transmitRequest (sess : Nat) (chan : Fin 72) (buf : Fin 32) : Clause :=
  asWrite (fun dt => .transmitRequest dt sess chan buf) sess (chObj chan.val 6) 3 buf.val fun t =>
    (t.wr (chObj chan.val 6) 2 (setBit (t.rd (chObj chan.val 6) 2) buf.val true)).canOffer chan.val

/-- A pending transmit buffer is no longer pending (R162). -/
def transmitCancel (sess : Nat) (chan : Fin 72) (buf : Fin 32) : Clause :=
  asWrite (fun dt => .transmitCancel dt sess chan buf) sess (chObj chan.val 6) 4 buf.val fun t =>
    t.wr (chObj chan.val 6) 2 (setBit (t.rd (chObj chan.val 6) 2) buf.val false)

/-- Recovery from bus-off begins (R164). -/
def busOffRecover (sess : Nat) (chan : Fin 72) : Clause :=
  asWrite (fun dt => .busOffRecover dt sess chan) sess (chObj chan.val 4) 2 1 fun t =>
    (t.wr (chObj chan.val 4) 2 1).modCh chan.val fun d => { d with recoverAt := t.now }

/-- 128 × 11 recessive bits after the recovery was written (R164): an enabled channel is error-active with its counters at 0, a disabled
one offline, with event 0x0072. -/
def busOffRecovered (chan : Fin 72) : Clause where
  cmd dt := .busOffRecovered dt chan
  pre u := u.inRun && u.errState chan.val == 2 && u.rdB (chObj chan.val 4) 2 0
    && ((u.ch chan.val).recoverAt + clockNs (1408 * u.nomClocks chan.val) ≤ u.now : Bool) && u.present (chGroup chan.val)
    && !u.chDead chan.val
  eff u :=
    let c := chan.val
    let o := chObj c 4
    let on : Bool := u.proto c != 0
    let t := (u.wr o 1 (setFld (u.rdF o 1 20 18 * 2 ^ 18) 17 16 (if on then 0 else 3))).wr o 2 0
    ((if on then t.wrB (chObj c 0) 2 3 true else t).event (chGroup c) 0x72 (64 + c) 0 0).nextOnBus c

/-! ### The schedule matrix (R167–R171) -/

/-- The next window of a basic cycle begins (R168): what was offered goes back, a window that its owner cannot use is counted as missed, and
the channel offers what the window allows. -/
def columnStart (chan : Fin 72) : Clause where
  cmd dt := .columnStart dt chan
  pre u :=
    let c := chan.val
    u.inRun && u.matrixOn c && (u.ch c).running && ((u.ch c).cycleAt + u.columnStart c ((u.ch c).col + 1) ≤ u.now : Bool)
      && ((u.ch c).col + 1 < (u.windowEnds c).columns c : Bool)
  eff u :=
    let c := chan.val
    let t := (u.windowEnds c).modCh c fun d => { d with col := (u.ch c).col + 1, waited := [], served := false }
    (if t.windowMissed c then t.chCount c 0x13 1 else t).nextOnBus c

/-- The last window of a cycle ends (R168, R171): a leading device offers the next reference message. -/
def cycleEnds (chan : Fin 72) : Clause where
  cmd dt := .columnStart dt chan
  pre u :=
    let c := chan.val
    u.inRun && u.matrixOn c && (u.ch c).running && ((u.ch c).cycleAt + u.columnStart c ((u.ch c).col + 1) ≤ u.now : Bool)
      && ((u.windowEnds c).columns c ≤ (u.ch c).col + 1 : Bool)
  eff u :=
    let c := chan.val
    let t := (u.windowEnds c).modCh c fun d => { d with col := 0, running := false, waited := [], served := false }
    if t.leads c then t.offerReference c (t.nextCount c) else t

/-- A reference message of the master that a device follows (R170): counted, its cycle count taken, and the basic cycle begins at its
start. -/
def referenceMessageReceived (chan : Fin 72) (prio : Fin 8) (cycle : Fin 64) (ago : Nat) : Clause where
  cmd dt := .referenceMessageReceived dt chan prio cycle ago
  pre u :=
    let c := chan.val
    let t := (u.chCount c 0x16 1).modCh c fun d => { d with offer := none }
    u.inRun && u.matrixOn c && u.rdF (chObj c 9) 1 1 0 != 0 && u.canHears c && !t.rdB (chObj c 9) 4 0 && t.rdB (chObj c 9) 4 1
      && t.rdF (chObj c 9) 4 10 8 == prio.val
  eff u :=
    let c := chan.val
    let t := ((u.chCount c 0x16 1).modCh c fun d => { d with offer := none }).wrF (chObj c 9) 4 7 2 cycle.val
    (t.wrB (chObj c 9) 4 1 true).modCh c fun d =>
      { d with running := true, col := 0, cycleAt := t.now - ago, lastRef := t.now - ago, waited := [], served := false }

/-- A master of lower priority hears a higher one (R171): it yields, counted in 0x17, with event 0x0073. -/
def masterYields (chan : Fin 72) (prio : Fin 8) (cycle : Fin 64) (ago : Nat) : Clause where
  cmd dt := .referenceMessageReceived dt chan prio cycle ago
  pre u :=
    let c := chan.val
    let t := (u.chCount c 0x16 1).modCh c fun d => { d with offer := none }
    u.inRun && u.matrixOn c && u.rdF (chObj c 9) 1 1 0 != 0 && u.canHears c && t.rdB (chObj c 9) 4 0
      && (prio.val < t.rdF (chObj c 9) 1 5 3 : Bool)
  eff u :=
    let c := chan.val
    let t := ((u.chCount c 0x16 1).modCh c fun d => { d with offer := none }).chCount c 0x17 1
    let t := ((t.wrB (chObj c 9) 4 0 false).wrF (chObj c 9) 4 10 8 prio.val).event (chGroup c) 0x73 (64 + c) prio.val 0
    let t := t.wrF (chObj c 9) 4 7 2 cycle.val
    t.beginCycle c (t.now - ago)

/-- The master is silent (R171): a potential master offers its own reference message. -/
def masterTimeout (chan : Fin 72) : Clause where
  cmd dt := .masterTimeout dt chan
  pre u :=
    let c := chan.val
    u.inRun && u.matrixOn c && u.rdF (chObj c 9) 1 1 0 == 2 && !u.rdB (chObj c 9) 4 0
      && ((u.ch c).lastRef + u.columnStart c (u.columns c) ≤ u.now : Bool) && (u.ch c).offer.isNone && u.canSends c
  eff u :=
    let c := chan.val
    let t := u.wrF (chObj c 9) 4 7 2 (if u.rdB (chObj c 9) 4 1 then u.nextCount c else 0)
    t.modCh c fun d => { d with offer := some ⟨3, 0, t.referenceForm c⟩ }

/-! ### LIN (R173–R176, R366) -/

/-- A commander that runs its schedule, with no response awaited, starts its next slot (R173). -/
def linSlotStart (lin : Fin 24) : Clause where
  cmd dt := .linSlotStart dt lin
  pre u :=
    let c := 72 + lin.val
    u.inRun && u.proto c == 4 && u.chLive c && !(u.ch c).quiet && ((u.ch c).slotEnd ≤ u.now : Bool) && (u.ch c).await_.isNone
      && u.rdB (chObj c 0x11) 2 4 && (u.ch c).runs
  eff u := u.linSlotStart (72 + lin.val)

/-- A commander whose Run bit is set begins its selected table at its first slot (R173). -/
def linScheduleStart (lin : Fin 24) : Clause where
  cmd dt := .linSlotStart dt lin
  pre u :=
    let c := 72 + lin.val
    u.inRun && u.proto c == 4 && u.chLive c && !(u.ch c).quiet && ((u.ch c).slotEnd ≤ u.now : Bool) && (u.ch c).await_.isNone
      && u.rdB (chObj c 0x11) 2 4 && !(u.ch c).runs
  eff u :=
    let c := 72 + lin.val
    let k := u.rdF (chObj c 0x11) 2 3 0
    (u.modCh c fun d => { d with runs := true, table := k, slot := u.tableStart c k, back := none }).linSlotStart c

/-- A commander's response has not come (R173): counted in 0x18, with event 0x0076 once a second. -/
def linResponseTimeout (lin : Fin 24) : Clause where
  cmd dt := .linResponseTimeout dt lin
  pre u :=
    let c := 72 + lin.val
    u.inRun && match (u.ch c).await_ with
      | some x => (x.2.1 ≤ u.now : Bool) && (u.modCh c fun d => { d with await_ := none }).proto c == 4
      | none => false
  eff u :=
    let c := 72 + lin.val
    match (u.ch c).await_ with
    | some x => ((u.modCh c fun d => { d with await_ := none }).chCount c 0x18 1).slotError c x.1 1
    | none => u

/-- The table and Run bit of a commander are written (R173). -/
def linTableSwitch (sess : Nat) (lin : Fin 24) (value : BitVec 32) : Clause :=
  asWrite (fun dt => .linTableSwitch dt sess lin value) sess (chObj (72 + lin.val) 0x11) 2 value.toNat
    (·.wr (chObj (72 + lin.val) 0x11) 2 value.toNat)

/-- A responder hears a header that it knows (R174): a published identifier is answered, a subscribed one awaited for 1.4 of its nominal
time. -/
def linHeaderReceived (lin : Fin 24) (pid : Byte) (breakBits sync : Nat) : Clause where
  cmd dt := .linHeaderReceived dt lin pid breakBits sync
  pre u :=
    let c := 72 + lin.val
    let t := (u.wrB (chObj c 0) 2 3 true).modCh c fun d => { d with lastBus := u.now, await_ := none }
    u.inRun && u.proto c == 5 && u.chLive c && !(u.ch c).quiet && (11 ≤ breakBits : Bool) && (t.linClocks c * 86 ≤ sync * 100 : Bool)
      && (sync * 100 ≤ t.linClocks c * 114 : Bool) && linPid (pid.toNat % 64) == pid.toNat
  eff u :=
    let c := 72 + lin.val
    let id := pid.toNat % 64
    let t := (u.wrB (chObj c 0) 2 3 true).modCh c fun d => { d with lastBus := u.now, await_ := none }
    if (t.linFrame c id).1 = 1 then t.linPublish c id
    else if (t.linFrame c id).1 = 2 then
      t.modCh c fun d => { d with await_ := some (id, t.now + t.linNominal c (t.linFrame c id).2.2 * 14 / 10, 0) }
    else t

/-- An awaited response arrives well (R174–R176): the channel's buffer and the ingress queue take it. -/
def linFrameReceived (lin : Fin 24) (pid : Byte) (data : List Byte) (domain : Fin 64) (cls : Fin 8) (ago : Nat) (errs : ReadErrs) :
    Clause where
  cmd dt := .linFrameReceived dt lin pid data
    (BitVec.ofNat 8 (linSum (pid.toNat % 64 == 0x3C || pid.toNat % 64 == 0x3D) pid.toNat data)) false domain cls ago errs
  pre u :=
    let c := 72 + lin.val
    let id := pid.toNat % 64
    let t := u.meetErrs errs
    let v := t.modCh c fun d => { d with lastBus := t.now }
    u.inRun && u.canHears c && !(u.ch c).quiet && (t.linFrame c id).1 == 2 && (t.linFrame c id).2.1 == (id == 0x3C || id == 0x3D)
      && (t.linFrame c id).2.2 == data.length && (id != 0x3C || data != sleepData)
      && match (v.ch c).await_ with
         | some x => x.1 == id && (v.now ≤ x.2.1 : Bool)
         | none => false
  eff u :=
    let c := 72 + lin.val
    let id := pid.toNat % 64
    let t := u.meetErrs errs
    let v := (t.modCh c fun d => { d with lastBus := t.now }).modCh c fun d => { d with await_ := none }
    v.goodFrame c (linBytes pid.toNat (linSum (id == 0x3C || id == 0x3D) pid.toNat data) (id == 0x3C || id == 0x3D) data) domain.val cls.val ago

/-- A responder without activity for 4 s takes its Listen levels (R366). -/
def linInactivityTimeout (lin : Fin 24) : Clause where
  cmd dt := .linInactivityTimeout dt lin
  pre u := u.inRun && u.proto (72 + lin.val) == 5 && ((u.ch (72 + lin.val)).lastBus + 4000000000 ≤ u.now : Bool)
  eff u := u.modCh (72 + lin.val) fun d => { d with quiet := true }

end Sys2Proof.Machine.Row
end

