-- ==== Sys2Proof/Clauses/Fabric.lean ====
section
/-! DEFINITION. Clauses about the commands of Chapters 1 and 2. -/

namespace Sys2Proof.Machine.Row

/-! ### Chapter 1 -/

/-- Scalars whose write does more than store the value, or that stand outside the object store. -/
def actingScalars : List (Nat × Nat) :=
  [(0x1101, 1), (0x1F00, 2), (0x2002, 2), (0x2005, 2), (0x2010, 4), (0x2011, 1), (0x2020, 2), (0x2040, 1), (0x2060, 8), (0x2064, 2),
   (0x5010, 7), (0x5600, 1), (0x5800, 2), (0x5800, 3), (0x6A30, 4), (0x7000, 7), (0x7001, 1), (0x7010, 3), (0x7401, 2), (0x8000, 2),
   (0x8010, 4), (0x8020, 3), (0x8030, 4), (0x8050, 2), (0x9000, 6), (0xA000, 1), (0xA001, 1), (0xF010, 1)]

/-- The same by port, by channel, by egress port and by pulse or trigger, as offsets into their blocks of indices. -/
def actingOffsets (idx sub : Nat) : Bool :=
  (0x3000 ≤ idx && idx < 0x4000 && [(0, 7), (1, 1), (8, 1)].contains ((idx - 0x3000) % 0x40, sub))
    || (0x4000 ≤ idx && idx < 0x5000 && [(0, 1), (4, 2), (5, 4), (6, 3), (6, 4), (8, 1)].contains ((idx - 0x4000) % 0x20, sub))
    || (0x6000 ≤ idx && idx < 0x6A00 && [(4, 7), (6, 1), (7, 3)].contains (idx % 0x10, sub))
    || (0x7200 ≤ idx && idx < 0x7218 && sub == 1)

/-- A scalar that only holds what is written to it (R10). -/
def plainScalar (idx sub : Nat) : Bool :=
  (objRow idx sub).any (fun r => r.acc == .rw) && idx != 0x1101 && idx != 0xA001 && !actingScalars.contains (idx, sub)
    && !actingOffsets idx sub

/-- A write of a scalar without an action of its own (R10): it holds the value written, in little-endian bytes. -/
def dictionaryWrite (sess idx sub v : Nat) : Clause :=
  asWrite (fun dt => .dictionaryWrite dt sess idx sub 0 (scalarBytes idx sub v)) sess idx sub v (·.wr idx sub v)
    fun _ => plainScalar idx sub

/-- A write of any scalar: what that scalar's write does. -/
def scalarWrite (sess idx sub v : Nat) : Clause :=
  asWrite (fun dt => .dictionaryWrite dt sess idx sub 0 (scalarBytes idx sub v)) sess idx sub v fun t =>
    match objRow idx sub with
    | some row => t.setObj State.configStart sess row idx sub v
    | none => t

/-- A write of one whole record of a table window: what that window's write does. -/
def recordWrite (sess idx sub k : Nat) (r : List Byte) : Clause :=
  asRecord (fun dt => .dictionaryWrite dt sess idx sub (r.length * k) r) sess idx sub k r fun t => t.putRecord idx sub r.length k r

/-- A measurement window ends (R27, R28): each fabric carriage that was PRESENT for all of it shows its headroom, the lowest stands in
0x2010:03 with its carriage, and admission (R233) and the trim (R358) decide by it. -/
def headroomWindowEnd (meas : List (Nat × Nat × Nat)) : Clause where
  cmd dt := .headroomWindowEnd dt meas
  pre u := u.inRun && u.car.winStart + u.rd 0x2010 1 * 1000 ≤ u.now
  eff u :=
    let t := u.forEach (List.range 32) fun t n => t.carriageWindow meas n
    let b := t.lowestHeadroom
    (((t.wr 0x2010 3 (b.1 + 65536 * b.2)).withCar fun c => { c with winStart := t.now }).sheddingWindow b.1).trimStep b.1

/-- Every minimum headroom returns to 0xFFFF (R27). -/
def resetMinima (sess : Nat) : Clause :=
  asWrite (fun dt => .resetMinima dt sess) sess 0x2010 4 1 fun t => t.forEach carriages fun t n => t.wr (0x2100 + n) 2 0xFFFF

/-- The probe is armed (R35): Armed reads 1, the flags 0, every result 0xFFFF_FFFF, and no frame is followed. -/
def latencyProbeArm (sess : Nat) : Clause :=
  asWrite (fun dt => .latencyProbeArm dt sess) sess 0xF010 1 1 fun t =>
    { ((t.wr 0xF010 1 1).wr 0xF010 4 0).forEach ((List.range 10).map (· + 0x10)) fun t k => t.wr 0xF010 k 0xFFFFFFFF with
      probe := ⟨none, 0, false, none⟩ }

/-- A second that begins restarts every count per second. -/
def wholeSecondStart : Clause where
  cmd dt := .wholeSecondStart dt
  pre u := u.awake && u.clockNow.1 != u.time.secondMark
  eff u := u.newSecond (u.clockNow.1 == u.time.secondMark + 1)

/-! ### Couplings -/

/-- A request to a carriage that is PRESENT (R36, R38) is accepted with its requester's epoch. -/
def requestAccepted (r t : Fin 47) (tag : Byte) (op : CouplingOp) : Clause where
  cmd dt := .couplingRequest dt r t tag op
  pre u := u.awake && u.present t.val
  eff u := u.withCar fun c => { c with reqs := c.reqs ++ [⟨r.val, t.val, tag.toNat, u.epoch r.val, op, false⟩] }

/-- A request to a fenced carriage (R39): its coupling answers ABSENT with the target's epoch, counted in 0x2200 + n:05. -/
def requestAbsent (r t : Fin 47) (tag : Byte) (op : CouplingOp) : Clause where
  cmd dt := .couplingRequest dt r t tag op
  pre u := u.awake && u.carState t.val == stFenced
  eff u := (u.withCar fun c =>
    { c with acks := c.acks ++ [⟨r.val, t.val, tag.toNat, op, u.epoch r.val, u.epoch t.val, 1⟩] }).bump (0x2200 + t.val) 5 1

/-- An acknowledge of an accepted request (R40): the request is done, and a requester in service with the epoch of its request gets its
acknowledge with both epochs. -/
def couplingAcknowledge (r t : Fin 47) (tag : Byte) (status : Fin 4) : Clause where
  cmd dt := .couplingAcknowledge dt r t tag status
  pre u := u.awake && u.present r.val && status.val != 1 && u.car.seqs == []
    && !(u.car.acks.any fun a => a.requester == r.val && a.responder == t.val && a.tag == tag.toNat)
    && match u.car.reqs.find? fun q => q.requester == r.val && q.target == t.val && q.tag == tag.toNat && !q.held with
       | some q => q.epoch == u.epoch r.val
       | none => false
  eff u :=
    match u.car.reqs.find? fun q => q.requester == r.val && q.target == t.val && q.tag == tag.toNat && !q.held with
    | some q => (u.withCar fun c => { c with reqs := c.reqs.erase q }).emit
        (.ack r.val t.val tag.toNat (u.epoch r.val) (u.epoch t.val) status.val)
    | none => u

/-! ### Carriage commands (R51–R54) -/

/-- The command word of 0x2020:01. -/
def carriageWord (n act unit : Nat) : List (Nat × Nat × Nat) := [(0x2020, 1, n + 256 * act + 65536 * unit)]

/-- A carriage command runs: result 1 and the carriage's sequence. -/
def begun (n : Nat) (t : State) : State := (t.wr 0x2020 3 1).withCar fun c => { c with cmdRunning := some n }

/-- A command that drains first, for its reason: the carriage reads DRAINING, and where no accepted work is left the fence follows. -/
def drains (n : Nat) (act : SeqAct) (reason : Nat) (t : State) : State :=
  let b := begun n t
  let t := b.startSeq n act .draining reason (b.drainLimit n) 0 0 true false
  if t.hasWork n then t
  else
    match t.seqOf n with
    | some q => t.fenceSeq q
    | none => t

/-- Action 0 on a carriage that takes it. -/
def carriageReset (sess : Nat) (n : Fin 47) : Clause :=
  asStart (fun dt => .carriageReset dt sess n) sess (carriageWord n.val 0 0) 0x2020 2 (drains n.val .reset 0)
    fun t => t.commandAnswer n.val 0 0 == 0

/-- Action 1. -/
def carriagePowerDown (sess : Nat) (n : Fin 47) : Clause :=
  asStart (fun dt => .carriagePowerDown dt sess n) sess (carriageWord n.val 1 0) 0x2020 2 (drains n.val .powerDown 2)
    fun t => t.commandAnswer n.val 1 0 == 0

/-- Action 2 on a carriage that is POWERED_DOWN: its self-test runs. -/
def carriagePowerUp (sess : Nat) (n : Fin 47) : Clause :=
  asStart (fun dt => .carriagePowerUp dt sess n) sess (carriageWord n.val 2 0) 0x2020 2
    (fun t => (begun n.val t).startSeq n.val .powerUp .acting 2 0 0 0 true false) fun t => t.commandAnswer n.val 2 0 == 0

/-- Action 3: a carriage that is PRESENT drains first. -/
def carriageSelfTest (sess : Nat) (n : Fin 47) : Clause :=
  asStart (fun dt => .carriageSelfTest dt sess n) sess (carriageWord n.val 3 0) 0x2020 2
    (fun t => if t.present n.val then drains n.val .test 3 t else (begun n.val t).startSeq n.val .test .acting 3 0 0 0 true false)
    fun t => t.commandAnswer n.val 3 0 == 0

/-- Action 4 on a crypto cluster (R59): the spare engine takes over at once, and the command ends with result 0. -/
def swapEngineUnit (sess : Nat) (n : Fin 47) (unit : Fin 16) : Clause :=
  asStart (fun dt => .swapToSpare dt sess n unit) sess (carriageWord n.val 4 unit.val) 0x2020 2
    (fun t => ((begun n.val t).swapEngine n.val unit.val 4).endCommand n.val 0)
    fun t => (11 ≤ n.val && n.val ≤ 27 : Bool) && t.commandAnswer n.val 4 unit.val == 0

/-- Action 4 on a cell bank (R58): its copy into the spare bank begins. -/
def swapBank (sess : Nat) (n : Fin 47) (unit : Fin 16) : Clause :=
  asStart (fun dt => .swapToSpare dt sess n unit) sess (carriageWord n.val 4 unit.val) 0x2020 2
    (fun t =>
      let t := begun n.val t
      match t.spareBank with
      | some k => ((if t.testsCarriage k then t.abandonTest else t).lastReason n.val 4).startSeq n.val .bankSwap .copying 4 0 0 k true
          (decide (4 ≤ (if t.testsCarriage k then t.abandonTest else t).placesUsed))
      | none => t)
    fun t => (n.val ≤ 10 : Bool) && t.commandAnswer n.val 4 unit.val == 0

/-- Action 5: the entries of a route bank are shunted out of it (R61). -/
def retireRouteBank (sess : Nat) (n : Fin 47) : Clause :=
  asStart (fun dt => .retireRouteBank dt sess n) sess (carriageWord n.val 5 0) 0x2020 2 (·.startRetire n.val)
    fun t => t.commandAnswer n.val 5 0 == 0 && ((t.endChain 9).shuntOut (n.val - 11) (t.bankEntries (n.val - 11)) 0 0).2.2 == 0

/-- Action 6: a retired bank is tested before it returns. -/
def returnRouteBank (sess : Nat) (n : Fin 47) : Clause :=
  asStart (fun dt => .returnRouteBank dt sess n) sess (carriageWord n.val 6 0) 0x2020 2
    (fun t => (begun n.val t).startSeq n.val .bringBack .acting 5 0 0 0 true false) fun t => t.commandAnswer n.val 6 0 == 0

/-! ### Sequences -/

/-- What an event of a carriage's sequence does where it stands in the phase that the event ends. -/
def ofPhase (cmd : Nat → Instr) (n : Nat) (ph : SeqPhase) (ok : State → CarSeq → Bool) (f : State → CarSeq → State) : Clause where
  cmd := cmd
  pre u := u.awake &&
    match u.seqOf n with
    | some q => q.phase == ph && ok u q
    | none => false
  eff u :=
    match u.seqOf n with
    | some q => f u q
    | none => u

/-- No accepted request is left: the fence follows (R46). -/
def drainComplete (n : Fin 47) : Clause :=
  ofPhase (fun dt => .drainComplete dt n) n.val .draining (fun u _ => !u.hasWork n.val) fun u q => u.fenceSeq q

/-- The drain limit has passed: the fence follows (R46). -/
def drainLimitExpiry (n : Fin 47) : Clause :=
  ofPhase (fun dt => .drainLimitExpiry dt n) n.val .draining (fun u q => q.since + q.limit * 1000 ≤ u.now) fun u q => u.fenceSeq q

/-- The action after the fence ends, by its kind and its test (R46, R54). -/
def carriageActionEnd (n : Fin 47) (pass : Bool) (failed : List Nat) : Clause :=
  ofPhase (fun dt => .carriageActionEnd dt n pass failed) n.val .acting (fun _ _ => true) fun u q =>
    if 43 ≤ n.val ∧ n.val ≤ 45 then u.pairPresent n.val pass 0 0 true else u.actionEnd q pass failed

/-- The first waiting sequence that has a place starts (R53). -/
def queuedSequenceStart : Clause where
  cmd dt := .queuedSequenceStart dt
  pre u := u.awake && (u.car.waiting.find? u.canStart).isSome
  eff u :=
    match u.car.waiting.find? u.canStart with
    | none => u
    | some w =>
      let t := u.withCar fun c => { c with waiting := c.waiting.erase w }
      if w.alarm then t.restart w.carriage w.reason (if w.reason = 6 ∨ w.reason = 1 then t.drainLimit w.carriage else 0)
      else t.swapUnit w.carriage w.unit w.reason

/-- The count of a unit with one more corrected error. -/
def noted (u : State) (n unit : Nat) : State :=
  let t := u.bump (0x2200 + n) 7 1
  t.withCar fun c => { c with unitErr := mapSet c.unitErr (unitKey n unit) (mapGetD t.car.unitErr (unitKey n unit) 0 + 1) }

/-- A corrected error of a unit that serves, below the threshold or with none set (R57): counted for the carriage and for the unit. -/
def correctedError (n : Fin 47) (unit : Fin 18) : Clause where
  cmd dt := .correctedError dt n unit
  pre u :=
    let t := u.bump (0x2200 + n.val) 7 1
    let th := t.rdF (0x2200 + n.val) 8 15 0
    u.awake && swapCarriage n.val && t.unitServes n.val unit.val && (th == 0 || mapGetD t.car.unitErr (unitKey n.val unit.val) 0 + 1 < th)
  eff u := noted u n.val unit.val

/-- The count reaches the threshold (R57): the unit is swapped for a spare, with reason 7. -/
def correctedErrorSwaps (n : Fin 47) (unit : Fin 18) : Clause where
  cmd dt := .correctedError dt n unit
  pre u :=
    let t := u.bump (0x2200 + n.val) 7 1
    let th := t.rdF (0x2200 + n.val) 8 15 0
    u.awake && swapCarriage n.val && t.unitServes n.val unit.val && th != 0
      && (th ≤ mapGetD t.car.unitErr (unitKey n.val unit.val) 0 + 1 : Bool) && !(noted u n.val unit.val).swapUnderway n.val unit.val
  eff u := (noted u n.val unit.val).swapUnit n.val unit.val 7

/-- Every unit's count falls by 1 every 60 s (R57). -/
def errorCountDecay : Clause where
  cmd dt := .errorCountDecay dt
  pre u := u.awake && u.car.lastDecay + 60000000000 ≤ u.now
  eff u := u.withCar fun c => { c with
    lastDecay := c.lastDecay + 60000000000
    unitErr := (c.unitErr.filter fun x => (1 < x.2 : Bool)).map fun x => (x.1, x.2 - 1) }

/-- The copy of a cell bank ends: its cells stand in the spare, and the bank is drained (R58). -/
def cellBankCopyEnd (n : Fin 47) : Clause :=
  ofPhase (fun dt => .cellBankCopyEnd dt n) n.val .copying (fun _ q => q.act == .bankSwap) fun u q => (u.moveCells n.val q.spare).beginDrain q

/-- The copy into the spare controller ends (R60): the spare is in use, its unit starts with no errors, and it integrates. -/
def edgeSwapCopyEnd (n : Fin 47) (unit : Fin 16) : Clause :=
  ofPhase (fun dt => .edgeSwapCopyEnd dt n unit) n.val .copying (fun _ q => q.act == .edgeSwap && q.unit == unit.val) fun u q =>
    ((u.withCar fun c => { c with spareUsed := mapSet c.spareUsed (spareKey n.val q.spare) 1 }).freshUnit n.val unit.val).putSeq
      { q with phase := .integrating }

/-- The spare controller integrates (R60): event 0x0032 with the unit and the spare, and the channel serves again. -/
def edgeSwapIntegrated (n : Fin 47) (unit : Fin 16) : Clause :=
  ofPhase (fun dt => .edgeSwapIntegrated dt n unit) n.val .integrating (fun _ q => q.unit == unit.val) fun u q => u.spareIntegrated q

/-- The shunt of a retiring bank ends: the bank is drained (R61). -/
def retirementShuntEnd (n : Fin 47) : Clause :=
  ofPhase (fun dt => .retirementShuntEnd dt n) n.val .shunting (fun _ _ => true) fun u q => u.beginDrain q

/-- A slot of the self-test schedule falls due (R63): the next unit in order is taken, tested where it is idle, skipped and counted else. -/
def selfTestSlot : Clause where
  cmd dt := .selfTestSlot dt
  pre u := u.awake && u.rdB 0x2040 1 0 && u.car.test.isNone && u.eligiblePlaces != []
    && u.car.lastSlot + u.rd 0x2040 2 * 1000000000 / u.eligiblePlaces.length ≤ u.now
  eff u :=
    let i := ((u.eligiblePlaces.find? fun i => u.car.testPos ≤ i).getD (u.eligiblePlaces.headD 0))
    let x := u.scheduleUnit i
    let t := u.withCar fun c => { c with testPos := (i + 1) % 27, lastSlot := u.now }
    if !t.idleUnit x then t.bump 0x2040 4 1
    else
      let whole : Bool := x.2 == 255
      let v := if t.carState x.1 = stPresent ∧ whole then ((t.lastReason x.1 3).bump (0x2200 + x.1) 3 1).fenceSteps x.1 3 0 else t
      let v := if whole then v.setCar x.1 stTesting else v
      v.withCar fun c => { c with test := some ⟨x.1, x.2, v.now, t.carState x.1⟩ }

/-- The self-test of a spare unit passes (R63): counted, event 0x0034 with result 0. -/
def unitTestPasses : Clause where
  cmd dt := .selfTestEnd dt true
  pre u := u.awake &&
    match u.car.test with
    | some x => x.unit != 255
    | none => false
  eff u :=
    match u.car.test with
    | some x =>
      let t := (u.withCar fun c => { c with test := none }).bump 0x2040 3 1
      t.event x.carriage 0x34 0 (if x.carriage ≤ 27 then 15 else x.unit) (t.usSince x.since)
    | none => u

/-- The self-test of a spare unit fails (R64): counted in 03 and 05, event 0x0034 with result 1, the spare is out of use, and event
0x0033 tells that none is left. -/
def unitTestFails : Clause where
  cmd dt := .selfTestEnd dt false
  pre u := u.awake &&
    match u.car.test with
    | some x => x.unit != 255
    | none => false
  eff u :=
    match u.car.test with
    | some x =>
      let t := ((u.withCar fun c => { c with test := none }).bump 0x2040 3 1).bump 0x2040 5 1
      let t := (t.event x.carriage 0x34 1 (if x.carriage ≤ 27 then 15 else x.unit) (t.usSince x.since)).withCar fun c =>
        { c with spareUsed := mapSet c.spareUsed (spareKey x.carriage x.unit) 2 }
      if (t.readySpare x.carriage).isNone then t.exhausted x.carriage x.unit else t
    | none => u

end Sys2Proof.Machine.Row
end

