-- ==== Sys2Proof/Clauses/Frames.lean ====
section
/-! DEFINITION. Clauses about the commands of Chapters 3 and 4. -/

namespace Sys2Proof.Machine.Row

/-! ### Queues (R65–R71) -/

/-- A Start item at a port that hears, with its ingress group in service (R66): a frame of its domain and class begins. -/
def startItem (port : Fin 160) (domain : Fin 64) (cls : Fin 8) (errs : ReadErrs) : Clause where
  cmd dt := .queueItemWrite dt port (itemWord 1 (domain.val * 4096 + cls.val * 512)) errs
  pre u := u.inRun && portOk port.val && u.hears port.val && u.startup.forwarding && u.present (ingressGroup port.val)
    && (u.ingressQ port.val).cur.isNone
  eff u :=
    let t := u.meetErrs errs
    let limit := if isEth port.val then (if t.drawbar port.val then t.portMax port.val + 32 else t.portMax port.val) else 16383
    let x := t.newFrame { blankFrame port.val domain.val cls.val t.nsNow with limit := limit, frac := t.fracNow }
    x.2.modIngress port.val fun q => { q with cur := some x.1, skip := false }

/-- An item of any other kind in the frame that is being written (R66–R68): a data word is stored, a stamp and a Meta word are kept, and an
End ends the frame. -/
def laterItem (port : Fin 160) (typ : Fin 4) (x : BitVec 32) (errs : ReadErrs) : Clause where
  cmd dt := .queueItemWrite dt port (itemWord (if typ.val = 0 then 0 else typ.val + 1) x.toNat) errs
  pre u := u.inRun && portOk port.val && u.hears port.val && u.startup.forwarding && u.present (ingressGroup port.val)
    && (u.ingressQ port.val).cur.isSome
  eff u :=
    match (u.ingressQ port.val).cur with
    | none => u
    | some id =>
      let t := (u.meetErrs errs).meetCell id errs
      let v := x.toNat
      match typ with
      | 0 => t.storeWord port.val id v
      | 1 => t.modFrame id fun f =>
          { f with stamp := v, age := if 44 ≤ port.val ∧ port.val ≤ 46 then f.age else t.nsNow - (compact t.nsNow + 2 ^ 32 - v) % 2 ^ 32 }
      | 2 => t.takeEnd port.val id (v / 2 ^ 18) (fld v 15 8 % 4)
      | 3 => t.modFrame id fun f => { f with metaWord := some v }

/-- A read of a delivery queue that the read reaches directly (R69): the item at its head goes to the reader. -/
def queuePop (port : Fin 160) : Clause where
  cmd dt := .queuePop dt port
  pre u := u.inRun && (port.val == 46 || (port.val == 44 && u.rdB 0x20A0 3 2))
  eff u := (u.popItem port.val).2.emit (.item port.val (u.popItem port.val).1)

/-- A whole frame ends on an Ethernet port that hears (R66, R121): it is begun at its start-of-frame, its bytes are stored, and its end is
taken with the Meta word of Table 5.3. -/
def ethernetFrameEnd (port : Fin 44) (tail : List Byte) (domain : Fin 64) (cls : Fin 8) (ago : Nat) (node : Byte) (pcs : Bool)
    (errs : ReadErrs) : Clause where
  cmd dt := .ethernetFrameEnd dt port tail domain cls ago node pcs errs
  pre u := u.inRun && u.hears port.val && u.startup.forwarding && (u.ingressQ port.val).cur.isNone && !(u.ingressQ port.val).skip
    && u.present (ingressGroup port.val)
    && ((u.meetErrs errs).startFrame port.val domain.val cls.val (u.rxTime port.val ago)).present (ingressGroup port.val)
    && (((u.meetErrs errs).startFrame port.val domain.val cls.val (u.rxTime port.val ago)).ingressQ port.val).cur.isSome
  eff u :=
    let t := (u.meetErrs errs).startFrame port.val domain.val cls.val (u.rxTime port.val ago)
    match (t.ingressQ port.val).cur with
    | some id => t.endFrame port.val id node.toNat tail pcs errs
    | none => t

/-- A frame in reception whose complete cells reach the effective threshold goes on before its end (R71, R73, R130). -/
def cutThroughRelease (port : Fin 160) (errs : ReadErrs) : Clause where
  cmd dt := .cutThroughRelease dt port errs
  pre u := u.inRun && portOk port.val && u.hears port.val && u.startup.forwarding && u.present (ingressGroup port.val) &&
    let t := u.meetErrs errs
    match (t.ingressQ port.val).cur with
    | none => false
    | some id =>
      match t.frame? id with
      | none => false
      | some f => !f.released && !f.held && t.effThreshold port.val != 0 && t.buf.flush.isNone
          && (t.effThreshold port.val ≤ completeCells f : Bool) && (reserveCells ≤ t.freeCells : Bool)
  eff u :=
    let t := u.meetErrs errs
    match (t.ingressQ port.val).cur with
    | none => u
    | some id => ((t.portCount port.val 0x3C 1).modFrame id fun f => { f with released := true, early := true }).releaseFrame id

/-! ### Flushes, sweep, waiting copies (R75, R76, R81, R85, R89) -/

/-- A flush of a queue of which no frame is being written or read takes effect at once (R75, R76). -/
def queueFlush (sess port : Nat) (delivery : Bool) : Clause :=
  asStart (fun dt => .queueFlush dt sess port delivery) sess [(0x2064, 1, port + 256 * delivery.toNat)] 0x2064 2
    (fun t => t.flushEffect (t.rdF 0x2064 1 7 0) (t.rdB 0x2064 1 8)) fun t => !t.flushMustWait (t.rdF 0x2064 1 7 0) (t.rdB 0x2064 1 8)

/-- A flush that waited takes effect once its frame has ended (R76). -/
def flushDeferredEffect : Clause where
  cmd dt := .flushDeferredEffect dt
  pre u := u.awake &&
    match u.buf.flush with
    | some w => !u.flushMustWait w.port w.delivery
    | none => false
  eff u :=
    match u.buf.flush with
    | some w => u.flushEffect w.port w.delivery
    | none => u

/-- A sweep of an egress group (R81): each expired copy leaves its queue with reason 1, and so do waiting copies of expired frames. -/
def ageSweep (group : Fin 2) : Clause where
  cmd dt := .ageSweep dt group
  pre u := u.inRun && u.present (21 + group.val)
  eff u := u.sweep group.val

/-- A port takes the copies that wait for it, in order, where it is ready for them and they have not expired (R85). -/
def waitingCopyTaken (port : Fin 160) : Clause where
  cmd dt := .waitingCopyTaken dt port
  pre u := u.inRun && portOk port.val && u.present (egressGroup port.val)
  eff u := u.forEach ((u.waitingAt port.val).map Prod.fst) fun t id =>
    match t.frame? id with
    | some f => if f.waiting.contains port.val && t.ready port.val f && !t.expired f then t.takeCopy port.val id else t
    | none => t

/-- The least free count restarts at the cells that are free (R89). -/
def resetLeastFree (sess : Nat) : Clause :=
  asWrite (fun dt => .resetLeastFree dt sess) sess 0x2060 8 1 fun t => t.withBuf fun b => { b with leastFree := t.freeCells }

/-! ### The route store (R104–R116) -/

/-- The words of an entry at 0x5010:01–05. -/
def entryWords (w : Nat) : List (Nat × Nat × Nat) :=
  [(0x5010, 1, fld w 31 0), (0x5010, 2, fld w 63 32), (0x5010, 3, fld w 95 64), (0x5010, 4, fld w 127 96), (0x5010, 5, fld w 141 128)]

/-- An entry command of an operation. The errors that its reads meet are noted first. -/
def entryRow (cmd : Nat → Instr) (sess op : Nat) (entry : BitVec 142) (errs : ReadErrs) (act : State → State) (ok : State → Bool) : Clause where
  cmd := cmd
  pre u :=
    let v := u.meetErrs errs
    let words := entryWords entry.toNat ++ [(0x5010, 6, op)]
    v.takesAll sess (words ++ [(0x5010, 7, 1)]) && ok ((v.storedAll sess words).taken sess 0x5010)
  eff u := ((u.meetErrs errs).storedAll sess (entryWords entry.toNat ++ [(0x5010, 6, op)])).did sess 0x5010 act

/-- Read by key (R105): the entry of the key with status 0, or status 2. -/
def entryReadByKey (sess : Nat) (entry : BitVec 142) (errs : ReadErrs) : Clause :=
  entryRow (fun dt => .entryReadByKey dt sess entry errs) sess 0 entry errs
    (fun t =>
      let v := t.readBuckets (entryKey t.heldEntry)
      match v.matches (entryKey t.heldEntry) with
      | k :: _ => (v.showEntry (v.slotVal k)).entryDone 0 0
      | [] => v.entryDone 2 0) fun _ => true

/-- Insert of a valid entry (R105–R107): placed with status 0, replacing the result of its key with status 3, or by a chain of moves that
then runs with status 1. -/
def entryInsert (sess : Nat) (entry : BitVec 142) (errs : ReadErrs) : Clause :=
  entryRow (fun dt => .entryInsert dt sess entry errs) sess 1 entry errs
    (fun t =>
      let x := t.insert t.heldEntry none true
      if x.2 = 1 then (x.1.wr 0x5010 7 1).wr 0x5010 8 1 else x.1.entryDone x.2 0)
    fun t => !entryInvalid t.heldEntry && [0, 1, 3].contains (t.insert t.heldEntry none true).2

/-- Delete of a key that the store holds (R105): its copies are cleared, with status 0. -/
def entryDelete (sess : Nat) (entry : BitVec 142) (errs : ReadErrs) : Clause :=
  entryRow (fun dt => .entryDelete dt sess entry errs) sess 2 entry errs
    (fun t => (t.deleteEntry (entryKey t.heldEntry)).1.entryDone 0 0)
    fun t => (entryType t.heldEntry < 5 : Bool) && (t.deleteEntry (entryKey t.heldEntry)).2 == 0

/-- Read by slot of a bank in service (R105): the slot's word with status 0. -/
def entryReadBySlot (sess : Nat) (bank : Fin 8) (bucket : Fin 8192) (way : Fin 4) (errs : ReadErrs) : Clause where
  cmd dt := .entryReadBySlot dt sess bank bucket way errs
  pre u :=
    let v := u.meetErrs errs
    let words := [(0x5010, 6, 3 + 8 * bank.val + 64 * bucket.val + 524288 * way.val)]
    let t := (v.storedAll sess words).taken sess 0x5010
    let k := bank.val * 32768 + bucket.val * 4 + way.val
    v.takesAll sess (words ++ [(0x5010, 7, 1)]) && t.bankUp (slotBank k)
  eff u :=
    let v := u.meetErrs errs
    let words := [(0x5010, 6, 3 + 8 * bank.val + 64 * bucket.val + 524288 * way.val)]
    (v.storedAll sess words).did sess 0x5010 fun t =>
      let k := t.rdF 0x5010 6 5 3 * 32768 + t.rdF 0x5010 6 18 6 * 4 + t.rdF 0x5010 6 20 19
      let t := t.readSlot k
      (t.showEntry (t.slotVal k)).entryDone 0 0

/-- A move of a chain with moves left after it (R107): counted, and the next entry's copy is written. -/
def shuntMove : Clause where
  cmd dt := .shuntMove dt
  pre u := u.inRun &&
    match u.route.chain with
    | some c => (2 ≤ c.moves.length : Bool)
    | none => false
  eff u :=
    match u.route.chain with
    | some c =>
      match c.moves with
      | _ :: n :: r => ((u.bump 0x5000 3 1).copyMoving n.1 n.2).withRoute fun t =>
          { t with chain := some { c with moves := n :: r, copies := n.2 :: c.copies } }
      | _ => u
    | none => u

/-- The last move of a chain (R107): the new entry is written, the copies lose their mark, and a command ends with status 0 and the number
of moves. -/
def lastMove : Clause where
  cmd dt := .shuntMove dt
  pre u := u.inRun &&
    match u.route.chain with
    | some c => c.moves.length == 1
    | none => false
  eff u :=
    match u.route.chain with
    | some c =>
      let t := (((u.bump 0x5000 3 1).setSlot c.slot c.entry).clearMoving c.copies).withRoute fun t => { t with chain := none }
      let t := t.pressure (slotBank c.slot)
      if c.cmd then t.entryDone 0 c.made else t
    | none => u

/-- A learning request whose key is not held and whose port is below its limit (R111, R112): its entry is inserted. -/
def learnsNew (group : Fin 2) (errs : ReadErrs) : Clause where
  cmd dt := .learningRequest dt group errs
  pre u := u.inRun && u.route.chain.isNone &&
    match (u.meetErrs errs).route.learnQ.find? fun r => r.group == group.val with
    | none => false
    | some r =>
      let t := (u.meetErrs errs).withRoute fun t => { t with learnQ := t.learnQ.erase r }
      (t.learnedCount r.port < t.learnLimit r.port : Bool) && (t.readBuckets (mkKey 0 r.domain r.key)).matches (mkKey 0 r.domain r.key) == []
  eff u :=
    match (u.meetErrs errs).route.learnQ.find? fun r => r.group == group.val with
    | none => u
    | some r =>
      let t := (u.meetErrs errs).withRoute fun t => { t with learnQ := t.learnQ.erase r }
      ((t.readBuckets (mkKey 0 r.domain r.key)).insert (mkKey 0 r.domain r.key * 2 ^ 64 + r.target * 2 ^ 51) (some r.port) false).1

/-- The excess log of a port is emptied (R114). -/
def clearLog (sess : Nat) (port : Fin 44) : Clause :=
  asWrite (fun dt => .clearLog dt sess port) sess (ethObj port.val 0) 7 1 fun t =>
    (t.setWin (ethObj port.val 0) 5 0 (fill 1024 0)).wr (ethObj port.val 0) 6 0

/-- The scanner visits a slot of a dynamic entry of its type (R115): one that is Fresh loses the mark, one that is not is removed. -/
def ageingScanVisit (bank : Fin 8) (bucket : Fin 8192) (way : Fin 4) (typ : Fin 5) (errs : ReadErrs) : Clause where
  cmd dt := .ageingScanVisit dt bank bucket way typ errs
  pre u :=
    let k := bank.val * 32768 + bucket.val * 4 + way.val
    let t := u.meetErrs errs
    u.inRun && t.rd 0x5002 (1 + typ.val) != 0 && t.bankUp (slotBank k) &&
      match mapGet (t.readSlot k).route.slots k with
      | none => false
      | some r => entryValid r.val && !entryStatic r.val && !entryMoving r.val && entryType r.val == typ.val
          && (t.readSlot k).movingSource != some k
  eff u :=
    let k := bank.val * 32768 + bucket.val * 4 + way.val
    let t := (u.meetErrs errs).readSlot k
    match mapGet t.route.slots k with
    | none => t
    | some r => if entryFresh r.val then t.setSlot k (mkSlot (setBit r.val 138 false) r.owner) else t.clearSlot k

end Sys2Proof.Machine.Row
end

