-- ==== Sys2Proof/Clauses/Gateway.lean ====
section
/-! DEFINITION. Clauses about the commands of Chapters 7 and 8. -/

namespace Sys2Proof.Machine.Row

/-! ### The signal gateway (Chapter 7) -/

/-- An engine that works takes its oldest job and runs it (R180); while the gateway is disabled the frame is refused with reason 4. -/
def gatewayJob (engine : Fin 4) : Clause where
  cmd dt := .gatewayJob dt engine
  pre u := u.inRun && mapGetD u.gw.jobs engine.val [] != [] && u.works (28 + engine.val)
  eff u :=
    match mapGetD u.gw.jobs engine.val [] with
    | [] => u
    | (id, n) :: r =>
      let t := u.withGw fun g => { g with jobs := mapPut [] g.jobs engine.val r }
      if t.gwOn then t.runJob engine.val id n else t.refuseCopy 45 id 4

/-- A tick of the timer wheel while the gateway is enabled (R180): what is due by it may be served. -/
def timerWheelTick : Clause where
  cmd dt := .timerWheelTick dt
  pre u := u.inRun && u.gwOn
  eff u := u.withGw fun g => { g with tick := u.tickNow }

/-- A cyclic target's nominal time has come (R190): the times missed before it are counted, the next is set, and its PDU is built. -/
def cyclicTransmission (rec_ : Fin 65536) : Clause where
  cmd dt := .transmissionTimer dt rec_
  pre u := u.inRun && u.gwOn && (u.timerEngine rec_.val).isSome && u.gwFormat rec_.val != 0 && u.pdu rec_.val 7 1 % 8 == 1
    && u.pdu rec_.val 10 2 != 0 &&
      match mapGet u.gw.nominal rec_.val with
      | some k => (k ≤ u.gw.tick : Bool)
      | none => false
  eff u :=
    match mapGet u.gw.nominal rec_.val with
    | some k =>
      let p := u.pdu rec_.val 10 2
      let late := (u.gw.tick - k) / p
      ((u.gwCount 0x0A late).withGw fun g => { g with nominal := mapSet g.nominal rec_.val (k + (late + 1) * p) }).gwBuild rec_.val
    | none => u

/-- A target on change whose delay has passed since its last build (R190, R191): its PDU is built. -/
def changeTransmission (rec_ : Fin 65536) : Clause where
  cmd dt := .transmissionTimer dt rec_
  pre u := u.inRun && u.gwOn && (u.timerEngine rec_.val).isSome && u.gwFormat rec_.val != 0
    && (u.pdu rec_.val 7 1 % 8 == 2 || u.pdu rec_.val 7 1 % 8 == 3) && u.gwBit rec_.val 2 && u.delayPassed rec_.val (u.gw.tick * 100000)
  eff u := u.gwBuild rec_.val

/-- A source's deadline passes (R192): it no longer runs, the signals take their substitutes, the PDU reads as timed out, and event 0x0080
tells of it. -/
def deadlineTimeout (rec_ : Fin 65536) : Clause where
  cmd dt := .deadlineTimeout dt rec_
  pre u := u.inRun && u.gwOn && (u.timerEngine rec_.val).isSome &&
    match mapGet u.gw.deadline rec_.val with
    | some t => (t ≤ u.gw.tick * 100000 : Bool)
    | none => false
  eff u :=
    let n := rec_.val
    let t := u.withGw fun g => { g with deadline := mapDel g.deadline n }
    let t := ((t.substitute n (List.range (t.pdu n 0 2 % 1024))).setGwBit n 1 true).gwCount 6 1
    t.gwEvent ((t.engineOf n).getD (n % 4)) 0x80 (n % 256) (n / 256) 0

/-- The timers of an engine pass to the one that takes its jobs (R180). -/
def timerHandover (engine : Fin 4) : Clause where
  cmd dt := .timerHandover dt engine
  pre u := u.inRun && (u.engineOf engine.val).isSome
  eff u :=
    match u.engineOf engine.val with
    | none => u
    | some e => u.withGw fun g => { g with owner := mapPut engine.val g.owner engine.val e }

/-- The gateway is enabled (R203): images and timers start. -/
def gatewayEnable (sess : Nat) : Clause :=
  asWrite (fun dt => .gatewayEnable dt sess) sess 0x5600 1 1 (fun t => (t.wr 0x5600 1 1).gwEnable) fun t => !t.rdB 0x5600 1 0

/-- A PDU record is written whole (R181). -/
def pduRecordWrite (sess : Nat) (rec_ : Fin 65536) (r : List Byte) : Clause :=
  asRecord (fun dt => .pduRecordWrite dt sess rec_ r) sess 0x5610 0 rec_.val r fun t => t.writePdu rec_.val r

/-- The flush time of an open container has passed since its first entry (R199): it leaves, with its sequence number counted on. -/
def containerFlushTimer (stream : Fin 256) : Clause where
  cmd dt := .containerFlushTimer dt stream
  pre u := u.inRun && u.gwOn &&
    match mapGet u.gw.opened stream.val with
    | some o => (o.since + u.stream stream.val 6 2 * 100000 ≤ u.nsNow : Bool)
    | none => false
  eff u :=
    match mapGet u.gw.opened stream.val with
    | none => u
    | some o =>
      let k := stream.val
      let bs := finishEth (u.containerFrame k o.entries)
      let t := u.withGw fun g =>
        { g with opened := mapDel g.opened k, seqOut := mapPut 0 g.seqOut k ((mapGetD g.seqOut k 0 + 1) % 65536) }
      let t := if t.probe.stream = some k then { t with probe := { t.probe with inJob := true, stream := none } } else t
      t.gwOut (t.stream k 1 1) (t.stream k 2 1 % 8) 0 (t.stream k 3 1 % 64) bs o.since (compact t.nsNow) 1

/-- The oldest frame that waits to be opened (R200, R201), with the gateway enabled: a good container's entries are released in order, a
frame that is none is counted with its reason. -/
def containerReceived : Clause where
  cmd dt := .containerReceived dt
  pre u := u.inRun && (u.engineOf 0).isSome &&
    match u.gw.waiting with
    | [] => false
    | id :: rest => ((u.withGw fun g => { g with waiting := rest }).frame? id).isSome && (u.withGw fun g => { g with waiting := rest }).gwOn
  eff u :=
    match u.gw.waiting with
    | [] => u
    | id :: rest =>
      let t := u.withGw fun g => { g with waiting := rest }
      match t.frame? id with
      | none => t
      | some f =>
        match t.openFrame f.bytes with
        | .bad why => t.badContainer id why
        | .feryn device domain seq l skipped => (t.followSeq device domain seq).releaseEntries id f domain skipped l
        | .acf l skipped => t.releaseEntries id f (t.rdF 0x5601 2 13 8) skipped l

/-! ### Gates and preemption (R216, R217, R221) -/

/-- A gate change is prepared (R217): Pending reads 1, with the instant from the admin base and cycle. -/
def gateChange (sess : Nat) (port : Fin 28) : Clause :=
  asWrite (fun dt => .gateChange dt sess port) sess (tmObj port.val 4) 7 1 fun t =>
    let o := tmObj port.val 4
    let base := (t.rd o 3 + t.rdF o 4 15 0 * 2 ^ 32) * 1000000000 + t.rd o 2
    (t.wr o 7 1).modPtm port.val fun x => { x with gatePending := some (changeInstant base (t.rdF o 5 29 0) t.devNs) }

/-- The change instant has come (R217): the admin list is the oper list. -/
def gateListChange (port : Fin 28) : Clause where
  cmd dt := .gateListChange dt port
  pre u := u.inRun && u.present (egressGroup port.val) &&
    match (u.ptm port.val).gatePending with
    | some t => (t ≤ u.devNs : Bool)
    | none => false
  eff u := u.gateTakeOver port.val

/-- The entry of the oper list that covers the present instant is in force (R216). -/
def gateEntryStart (port : Fin 28) : Clause where
  cmd dt := .gateEntryStart dt port
  pre u := u.inRun
  eff u :=
    let g := u.operGates port.val
    u.modPtm port.val fun x => { x with gateEntry := if g.enable then entryAt (spans g.cycle 0 g.list) (g.phase u.devPs) else 0 }

/-- Verification is tried again while fewer than three attempts were made (R221). -/
def verifyAgain (port : Fin 28) : Clause where
  cmd dt := .verifyTimer dt port
  pre u := u.inRun && u.linkUp port.val && ((u.ptm port.val).verifyAt + 10000000 ≤ u.now : Bool) && (u.ptm port.val).verifyTries != 0
    && ((u.ptm port.val).verifyTries < 3 : Bool)
  eff u := u.modPtm port.val fun x => { x with verifyTries := x.verifyTries + 1, verifyAt := u.now }

/-- After the third attempt verification has failed (R221): state 2 and event 0x0094. -/
def verifyFails (port : Fin 28) : Clause where
  cmd dt := .verifyTimer dt port
  pre u := u.inRun && u.linkUp port.val && ((u.ptm port.val).verifyAt + 10000000 ≤ u.now : Bool) && (3 ≤ (u.ptm port.val).verifyTries : Bool)
  eff u := ((u.wr (tmObj port.val 6) 2 2).modPtm port.val fun x => { x with verifyTries := 0 }).event (egressGroup port.val) 0x94 port.val 0 0

/-- A verify response ends verification with state 1 (R221). -/
def verifyResponse (port : Fin 28) : Clause where
  cmd dt := .verifyResponse dt port
  pre u := u.inRun && (u.ptm port.val).verifyTries != 0 && u.linkUp port.val && u.present (portCarriage port.val)
  eff u := (u.wr (tmObj port.val 6) 2 1).modPtm port.val fun x => { x with verifyTries := 0 }

/-! ### Recovery, observation, trace, notices (R227, R228, R235, R236) -/

/-- No frame has passed a recovering handle for its reset time (R227): the next one passes, and the reset is counted. -/
def frerResetTimer (handle : Fin 1024) : Clause where
  cmd dt := .frerResetTimer dt handle
  pre u := u.inRun && u.winB 0x6A20 0 (8 * handle.val) == 2 &&
    match u.frer handle.val with
    | none => false
    | some d => !d.restart &&
      match d.lastPass with
      | some t => (t + u.winLe 0x6A20 0 (8 * handle.val + 2) 2 * 1000000 ≤ u.now : Bool)
      | none => false
  eff u :=
    match u.frer handle.val with
    | none => u
    | some d => (u.setFrer handle.val { d with restart := true }).bumpWin 0x6A21 0 (40 * handle.val + 32) 4 1

/-- The queues of a port are sampled (R228). -/
def observationSample (port : Fin 160) : Clause where
  cmd dt := .observationSample dt port
  pre u := u.inRun && portOk port.val && u.present (egressGroup port.val)
  eff u := u.forEach (u.queuesOf port.val) fun t n => t.sampleQueue port.val n

/-- The observations of a port restart (R228). -/
def observationReset (sess : Nat) (port : Fin 160) : Clause :=
  asWrite (fun dt => .observationReset dt sess port) sess (tmObj port.val 7) 3 1 fun t => t.restartObservation port.val

/-- The oldest trace records are removed (R235): the rest move to the front, and the count falls. -/
def traceRelease (sess : Nat) (n : BitVec 32) : Clause :=
  asWrite (fun dt => .traceRelease dt sess n) sess 0x6A30 4 n.toNat fun t =>
    let held := t.rdF 0x6A30 2 8 0
    (t.setWin 0x6A30 5 0 (t.winBytes 0x6A30 5 (64 * n.toNat) (64 * (held - n.toNat)) ++ fill (64 * n.toNat) 0)).wr 0x6A30 2 (held - n.toNat)

/-- 1 ms after its first entry the open notice is ready to be sent (R236). -/
def noticeTimer : Clause where
  cmd dt := .noticeTimer dt
  pre u := u.inRun && u.tm.notice != [] && (u.tm.noticeAt + 1000000 ≤ u.now : Bool)
  eff u := u.withTm fun t => { t with notice := [], noticeReady := t.noticeReady ++ [t.notice] }

end Sys2Proof.Machine.Row
end

