-- ==== Sys2Proof/Clauses/Host.lean ====
section
/-! DEFINITION. Clauses about the commands of Chapters 16, 17 and 19. -/

namespace Sys2Proof.Machine.Row

/-! ### The host bridge (Chapter 16) -/

/-- The bridge serves. -/
def bridgeUp (u : State) : Bool := u.awake && u.present 41

/-- The host reaches it over a link that is up. -/
def hostUp (u : State) : Bool := bridgeUp u && u.rdB 0x20A0 1 7

/-- PCIE_PERST_N (R403): held reads end, the configuration space and the rings return to their defaults, the host's session ends, the reset
is counted, the link goes down, event 0x0111. -/
def pciePerst : Clause where
  cmd dt := .pciePerst dt
  pre u := bridgeUp u
  eff u :=
    let t := (u.endReads false).configDefaults.clearRings.endHostSession
    let t := t.wrF 0x20A0 9 31 16 ((t.rdF 0x20A0 9 31 16 + 1) % 65536)
    ((if t.rdB 0x20A0 1 7 then t.pcieLink false 0 0 else t).event 41 0x111 1 0 u.host.reads.length).sideVector 2

/-- A Function Level Reset (R403): the same, with the link as it is. -/
def functionLevelReset : Clause where
  cmd dt := .functionLevelReset dt
  pre u := hostUp u
  eff u :=
    let t := (u.endReads false).configDefaults.clearRings.endHostSession
    ((t.wrF 0x20A0 9 15 0 ((t.rdF 0x20A0 9 15 0 + 1) % 65536)).event 41 0x111 2 0 u.host.reads.length).sideVector 2

/-- The link goes up at a speed and a width that it did not have (R423): 0x20A0:01, event 0x0110 and vector 2. -/
def linkGoesUp (speed : Fin 4) (width : Fin 3) : Clause where
  cmd dt := .pcieLinkChange dt true speed width
  pre u := bridgeUp u && !u.power.pcieLost && u.rd 0x20A0 1 != speed.val + 1 + 8 * 2 ^ width.val + 128
  eff u :=
    let t := u.wr 0x20A0 1 (speed.val + 1 + 8 * 2 ^ width.val + 128)
    (t.event 41 0x110 1 (t.rd 0x20A0 1 % 256) 0).sideVector 2

/-- The link goes down (R423). -/
def linkGoesDown (speed : Fin 4) (width : Fin 3) : Clause where
  cmd dt := .pcieLinkChange dt false speed width
  pre u := hostUp u && !u.power.pcieLost
  eff u :=
    let t := u.wr 0x20A0 1 0
    (t.event 41 0x110 0 (t.rd 0x20A0 1 % 256) 0).sideVector 2

/-- A read of a scalar's slot that the warden answers (R405, R406): its completion carries the value and the abort code. -/
def bar0Read (off : BitVec 28) (len : Nat) (tag : Fin 1024) : Clause where
  cmd dt := .bar0Read dt off len tag true
  pre u :=
    let t := u.withHost fun h => { h with reads := h.reads ++ [⟨tag.val, off.toNat, len, u.now⟩] }
    hostUp u && len != 0 && (off.toNat % 16 + len ≤ 16 : Bool) && u.present 45 && u.startup.measured && !u.blocked hostSess
      && (u.host.reads.length < 64 : Bool) && ((objRow (slotObject off.toNat).1 (slotObject off.toNat).2).filter ObjRow.window).isNone
      && (t.forwardSlot hostSess).isNone && t.startup.measured && t.present 45
  eff u :=
    let t := u.withHost fun h => { h with reads := h.reads ++ [⟨tag.val, off.toNat, len, u.now⟩] }
    let x := t.readObj hostSess (slotObject off.toNat).1 (slotObject off.toNat).2 0 0
    t.slotAnswer tag.val off.toNat len x.1 x.2

/-- A read that is not answered at once is held (R406, R408). -/
def bar0ReadHeld (off : BitVec 28) (len : Nat) (tag : Fin 1024) : Clause where
  cmd dt := .bar0Read dt off len tag false
  pre u := hostUp u && len != 0 && (off.toNat % 16 + len ≤ 16 : Bool) && u.present 45 && u.startup.measured && !u.blocked hostSess
    && (u.host.reads.length < 64 : Bool)
  eff u := u.withHost fun h => { h with reads := h.reads ++ [⟨tag.val, off.toNat, len, u.now⟩] }

/-- A posted write of a scalar's slot that the warden accepts (R405, R407): counted, and the object is written. -/
def bar0Write (off : BitVec 28) (data : List Byte) (bs : List Byte) : Clause where
  cmd dt := .bar0Write dt off data false
  pre u :=
    let o := slotObject off.toNat
    let t := u.acceptPosted.2
    hostUp u && t.present 45 && t.startup.measured && !t.blocked hostSess && (t.forwardSlot hostSess).isNone &&
      match objRow o.1 o.2 with
      | some r => !r.window && laneData (t.rdB 0x20A0 3 0) off.toNat data (off.toNat / 16 * 16) r.size == some bs
          && (t.write hostSess 0 o.1 o.2 0 bs).1 == 0
      | none => false
  eff u := (u.acceptPosted.2.write hostSess 0 (slotObject off.toNat).1 (slotObject off.toNat).2 0 bs).2

/-- A held read is not answered within the timer (R409): it completes as discarded, and an answer that comes late is counted. -/
def delayedReadTimeout (tag : Fin 1024) (late : Bool) : Clause where
  cmd dt := .delayedReadTimeout dt tag late
  pre u := bridgeUp u && (u.host.reads.find? fun r => r.tag == tag.val && r.since + u.rdF 0x20A0 2 13 0 * 1000 ≤ u.now).isSome
  eff u :=
    match u.host.reads.find? fun r => r.tag == tag.val && r.since + u.rdF 0x20A0 2 13 0 * 1000 ≤ u.now with
    | none => u
    | some r => if late then (u.discardRead r).bump 0x20A0 8 1 else u.discardRead r

/-- A read through a queue window (R411, R416): the items come with the window's lanes. -/
def windowQueueRead (w : Fin 16) (off : BitVec 24) (len : Nat) (tag : Fin 1024) (data : List Byte) (poisoned : Bool) : Clause where
  cmd dt := .windowAccess dt w off false len tag data poisoned
  pre u := hostUp u && u.tw w.val 0 1 == 2
  eff u :=
    let x := u.popRead off.toNat len
    x.2.emit (.completion tag.val (x.2.windowLanes w.val off.toNat x.1))

/-- A read through a table window (R411–R414). -/
def windowTableRead (w : Fin 16) (off : BitVec 24) (len : Nat) (tag : Fin 1024) (data : List Byte) (poisoned : Bool) : Clause where
  cmd dt := .windowAccess dt w off false len tag data poisoned
  pre u := hostUp u && u.tw w.val 0 1 == 1 && u.present 45 && u.startup.measured && !u.blocked hostSess
  eff u := u.tableRead w.val off.toNat len tag.val

/-- A posted write through a table window (R411, R412): counted, and each run of its bytes is written to the window's object. -/
def windowWrite (w : Fin 16) (off : BitVec 24) (len : Nat) (tag : Fin 1024) (data : List Byte) : Clause where
  cmd dt := .windowAccess dt w off true len tag data false
  pre u :=
    let t := u.acceptPosted.2
    hostUp u && u.tw w.val 0 1 == 1 && (off.toNat + data.length ≤ t.twBytes w.val : Bool) && u.present 45 && u.startup.measured
      && t.present 45 && t.startup.measured && !t.blocked hostSess
  eff u :=
    let t := u.acceptPosted.2
    let at_ := w.val * 2 ^ 24 + off.toNat
    t.forEach (windowWrites (tb (t.tw w.val 1 1) 0) off.toNat data) fun v x =>
      v.serve hostSess (.posted (16 + w.val) at_ u.acceptPosted.1) (.write (v.tw w.val 2 2) (v.tw w.val 4 1) x.1 x.2)

/-- A translation window's record is written (R413): what it read ahead is discarded. -/
def translationWindowWrite (sess : Nat) (w : Fin 16) (r : List Byte) : Clause :=
  asRecord (fun dt => .translationWindowWrite dt sess w r) sess 0x20A1 0 w.val r fun t =>
    (t.setWin 0x20A1 0 (16 * w.val) r).dropPrefetch w.val

/-- Read-ahead data of 10 µs is discarded (R414). -/
def prefetchAgeExpiry (w : Fin 16) : Clause where
  cmd dt := .prefetchAgeExpiry dt w
  pre u := bridgeUp u &&
    match mapGet u.host.prefetch w.val with
    | some b => (b.at_ + 10000 ≤ u.now : Bool)
    | none => false
  eff u := u.dropPrefetch w.val

/-- A read of the queue window in BAR2 (R416): the items of H's delivery queue. -/
def queueWindowRead (off : BitVec 12) (len : Nat) (tag : Fin 1024) : Clause where
  cmd dt := .queueWindowRead dt off len tag
  pre u := hostUp u && (off.toNat + len ≤ 4096 : Bool)
  eff u :=
    let x := u.popRead off.toNat len
    x.2.emit (.completion tag.val (if x.2.rdB 0x20A0 3 1 then laneSwap off.toNat x.1 else x.1))

/-- A doorbell (R418): the ring's producer index. -/
def doorbellWrite (ring : Fin 16) (value : BitVec 32) : Clause where
  cmd dt := .doorbellWrite dt ring value
  pre u := hostUp u
  eff u := u.withHost fun h => { h with bells := mapSet h.bells ring.val (value.toNat % 65536) }

/-- A host-to-part descriptor is fetched with its buffer (R418): the frame enters at H with its ring's class, the descriptor takes its
status, and the ring moves on. -/
def hostDescriptorFetched (ring : Fin 8) (len : BitVec 16) (kind : Byte) (domain : Fin 64) (data : List Byte) : Clause where
  cmd dt := .hostDescriptorFetched dt ring len kind domain data true
  pre u := u.inRun && u.ringsRun && u.ringPosted ring.val && (kind.toNat ≤ 3 : Bool) && storedOk kind.toNat (sliceZ data 0 len.toNat)
  eff u :=
    let r := ring.val
    let bs := sliceZ data 0 len.toNat
    let x := u.enterWhole { blankFrame 44 domain.val r u.nsNow with kind := kind.toNat, limit := 16383 }
      (if kind.toNat = 0 then withFcs bs else bs)
    let t := (x.2.emit (.hostWrite (x.2.ring r 0 8 + 16 * x.2.ringIndex r + 12) (leBytes 1 (if x.1 then 1 else 4)))).ringNext r
    (t.emit (.hostWrite (t.ring r 16 8) (leBytes 4 (t.ringIndex r)))).ringMessage r

/-- H sends a frame into a posted buffer (R419): the frame and its descriptor are written, and the ring moves on. -/
def partToHostFrame (ring : Fin 8) (addr : BitVec 64) : Clause where
  cmd dt := .partToHostFrame dt ring addr
  pre u := u.inRun && u.ringsRun && !u.rdB 0x20A0 3 2 && u.ringPosted (8 + ring.val) && u.wake.seqAt.isNone &&
    match (u.takeKinds 44).selectQueue 44 with
    | (none, _) => false
    | (some n, t) => t.queueClass 44 n == ring.val &&
      match (t.ptm 44).q n with
      | [] => false
      | i :: _ => !(t.startCheck 44 n i.frame).1 && ((t.startCheck 44 n i.frame).2.frame? i.frame).isSome
  eff u :=
    let r := 8 + ring.val
    match (u.takeKinds 44).selectQueue 44 with
    | (none, _) => u
    | (some n, t) =>
      match (t.ptm 44).q n with
      | [] => u
      | i :: _ =>
        let t := (t.startCheck 44 n i.frame).2
        match t.frame? i.frame with
        | none => u
        | some f =>
          let t := (t.popHead 44 n).probeOut i.frame 44
          let t := (t.emit (.hostWrite addr.toNat (hostForm f))).emit (.hostWrite (t.ring r 0 8 + 32 * t.ringIndex r + 8) (hostDescriptor f))
          ((((t.ringNext r).ringMessage r).probeEnd i.frame).dropRef i.frame 44).takeWaiting 44

/-- A held MSI-X message falls due (R421): it is sent. -/
def msixCoalesceTimer (vec : Fin 24) : Clause where
  cmd dt := .msixCoalesceTimer dt vec
  pre u := bridgeUp u &&
    match mapGet u.host.heldMsg vec.val with
    | some x => (x.1 ≤ u.now : Bool)
    | none => false
  eff u := (u.withHost fun h => { h with heldMsg := mapDel h.heldMsg vec.val }).sendVector vec.val

/-! ### SDO (R435–R438) -/

/-- A frame of an SDO service on a channel whose server is enabled and serves: the frame is taken from the queue of port 46, and the
service runs. -/
def sdoFrame (cmd : Nat → Instr) (c : Fin 72) (service : Nat) (data : List Byte) (ok : State → Bool) (run : State → State) : Clause where
  cmd := cmd
  pre u :=
    let t := u.takeRequest fun f => f.ingress == 64 + c.val && f.kind == 1 && f.bytes.drop 16 == data
    u.inRun && data.length == 8 && u.sdoEnabled (64 + c.val) && t.present 45 && t.startup.measured && !t.blocked (sdoSess c.val)
      && t.sdoService c.val data == service && ok t
  eff u := run (u.takeRequest fun f => f.ingress == 64 + c.val && f.kind == 1 && f.bytes.drop 16 == data)

/-- An expedited download of the object's bytes that is accepted (R436): the object is written, and the response sent. -/
def sdoExpedited (c : Fin 72) (idx sub n : Nat) (data : List Byte) : Clause :=
  sdoFrame (fun dt => .sdoInitiateDownload dt c data) c 1 data
    (fun t =>
      let v := t.endSdo c.val
      tb (byteAt data 0) 1 && tb (byteAt data 0) 0 && leVal ((data.drop 1).take 2) == idx && byteAt data 3 == sub
        && n == 4 - fld (byteAt data 0) 3 2 && (v.roleOf (sdoSess c.val)) == some 1 && v.startup.measured && v.present 45
        && (v.forwardSlot (sdoSess c.val)).isNone
        && (v.write (sdoSess c.val) 1 idx sub (v.sdoOff c.val idx sub) ((data.drop 4).take n)).1 == 0)
    fun t =>
      let v := t.endSdo c.val
      ((v.write (sdoSess c.val) 1 idx sub (v.sdoOff c.val idx sub) ((data.drop 4).take n)).2.moveCursor (sdoSess c.val) idx sub n).sdoSend c.val
        (leBytes 1 0x60 ++ sdoMux idx sub)

/-- A segmented download begins (R436): the object's lock is taken, and the response sent. -/
def sdoSegmentedDownload (c : Fin 72) (data : List Byte) : Clause :=
  sdoFrame (fun dt => .sdoInitiateDownload dt c data) c 1 data
    (fun t => !tb (byteAt data 0) 1 && (t.endSdo c.val).sdoRefusal c.val (leVal ((data.drop 1).take 2)) (byteAt data 3)
      (if tb (byteAt data 0) 0 then some (leVal ((data.drop 4).take 4)) else none) == 0)
    fun t =>
      let idx := leVal ((data.drop 1).take 2)
      let sub := byteAt data 3
      (t.endSdo c.val).sdoBegin c.val 0 idx sub (if tb (byteAt data 0) 0 then some (leVal ((data.drop 4).take 4)) else none) 0 false
        (leBytes 1 0x60 ++ sdoMux idx sub)

/-- A segment of a download that is not the last, with its toggle right (R436): its bytes are added, and the response carries the toggle. -/
def sdoDownloadSegment (c : Fin 72) (data : List Byte) : Clause :=
  sdoFrame (fun dt => .sdoDownloadSegment dt c data) c 0 data
    (fun t => !tb (byteAt data 0) 0 && match t.sdo c.val with
      | some x => x.kind == 0 && x.toggle == bit (byteAt data 0) 4
      | none => false)
    fun t =>
      match t.sdo c.val with
      | some x =>
        let k := bit (byteAt data 0) 4
        (t.setSdo c.val { x with data := x.data ++ (data.drop 1).take (7 - fld (byteAt data 0) 3 1), toggle := 1 - k }).sdoSend c.val
          (leBytes 1 (0x20 + 16 * k))
      | none => t

/-- An upload begins (R436): the object is read, and its bytes, or its length, are sent. -/
def sdoInitiateUpload (c : Fin 72) (data : List Byte) : Clause :=
  sdoFrame (fun dt => .sdoInitiateUpload dt c data) c 2 data
    (fun t =>
      let v := t.endSdo c.val
      (v.roleOf (sdoSess c.val)) == some 1 && v.startup.measured && v.present 45 && (v.forwardSlot (sdoSess c.val)).isNone
        && (v.readObj (sdoSess c.val) (leVal ((data.drop 1).take 2)) (byteAt data 3)
          (v.sdoOff c.val (leVal ((data.drop 1).take 2)) (byteAt data 3)) 0).1 == 0)
    fun t =>
      let v := t.endSdo c.val
      let idx := leVal ((data.drop 1).take 2)
      let sub := byteAt data 3
      v.sdoUpload c.val idx sub (v.readObj (sdoSess c.val) idx sub (v.sdoOff c.val idx sub) 0).2

/-- A segment of an upload, with its toggle right (R436): the next 7 bytes; the last ends the transfer, and the cursor moves. -/
def sdoUploadSegment (c : Fin 72) (data : List Byte) : Clause :=
  sdoFrame (fun dt => .sdoUploadSegment dt c data) c 3 data
    (fun t => match t.sdo c.val with
      | some x => x.kind == 1 && x.toggle == bit (byteAt data 0) 4
      | none => false)
    fun t =>
      match t.sdo c.val with
      | some x =>
        let k := bit (byteAt data 0) 4
        let rest := x.data.drop 7
        (if rest = [] then (t.endSdo c.val).moveCursor (sdoSess c.val) x.idx x.sub (x.size.getD 0)
         else t.setSdo c.val { x with data := rest, toggle := 1 - k }).sdoSend c.val
          (leBytes 1 (16 * k + 2 * (7 - (x.data.take 7).length) + (if rest = [] then 1 else 0)) ++ x.data.take 7)
      | none => t

/-- A segment of a block download (R436). -/
def sdoBlockSegment (c : Fin 72) (data : List Byte) : Clause :=
  sdoFrame (fun dt => .sdoBlockDownload dt c data) c 6 data
    (fun t => match t.sdo c.val with
      | some x => x.kind == 2 && x.phase == 0
      | none => false)
    fun t =>
      match t.sdo c.val with
      | some x => t.sdoBlockSegment c.val x data
      | none => t

/-- A block download begins (R436). -/
def sdoBlockDownload (c : Fin 72) (data : List Byte) : Clause :=
  sdoFrame (fun dt => .sdoBlockDownload dt c data) c 6 data
    (fun t => (t.sdo c.val).isNone && !tb (byteAt data 0) 0) fun t => t.sdoInitBlockDownload c.val data

/-- A block upload begins (R436): the object is read, and its length sent. -/
def sdoBlockUpload (c : Fin 72) (data : List Byte) : Clause :=
  sdoFrame (fun dt => .sdoBlockUpload dt c data) c 5 data
    (fun t =>
      let v := t.endSdo c.val
      byteAt data 0 % 4 == 0 && byteAt data 4 != 0 && (byteAt data 4 ≤ blockMax : Bool) && (v.roleOf (sdoSess c.val)) == some 1
        && v.startup.measured && v.present 45 && (v.forwardSlot (sdoSess c.val)).isNone
        && (v.readObj (sdoSess c.val) (leVal ((data.drop 1).take 2)) (byteAt data 3)
          (v.sdoOff c.val (leVal ((data.drop 1).take 2)) (byteAt data 3)) 0).1 == 0)
    fun t =>
      let v := t.endSdo c.val
      let idx := leVal ((data.drop 1).take 2)
      let sub := byteAt data 3
      v.sdoBlockUpload c.val idx sub (byteAt data 4) (tb (byteAt data 0) 2)
        (v.readObj (sdoSess c.val) idx sub (v.sdoOff c.val idx sub) 0).2

/-- An abort of the client (R436): the transfer is discarded. -/
def sdoAbortReceived (c : Fin 72) (data : List Byte) : Clause :=
  sdoFrame (fun dt => .sdoAbortReceived dt c data) c 4 data (fun _ => true) fun t => t.endSdo c.val

/-- The time between two frames of a transfer passes (R437): abort 0x0600_0003, counted. -/
def sdoTimeout (c : Fin 72) : Clause where
  cmd dt := .sdoTimeout dt c
  pre u := u.awake &&
    match u.sdo c.val with
    | some x => (x.at_ + u.rdF 0x1100 5 13 0 * 1000000 ≤ u.now : Bool)
    | none => false
  eff u :=
    match u.sdo c.val with
    | some x => ((u.endSdo c.val).bump 0x1100 7 1).sdoSend c.val (leBytes 1 0x80 ++ sdoMux x.idx x.sub ++ leBytes 4 0x06000003)
    | none => u

/-! ### Dalmoly (R439–R443) -/

/-- A Dalmoly frame that reaches the warden: taken from the queue of port 46, and its message handled. -/
def dalFrame (cmd : Nat → Instr) (port : Fin 44) (frame : List Byte) (ok : State → DalMsg → Bool) (run : State → DalMsg → State) : Clause where
  cmd := cmd
  pre u :=
    let t := u.takeRequest fun g => g.ingress == port.val && g.kind == 0 && g.bytes == frame
    u.inRun && t.isDalmoly { blankFrame port.val 0 0 0 with bytes := frame } && t.present 45 && t.startup.measured &&
      match dalMessage frame with
      | some m => ok t m
      | none => false
  eff u :=
    let t := u.takeRequest fun g => g.ingress == port.val && g.kind == 0 && g.bytes == frame
    match dalMessage frame with
    | some m => run t m
    | none => t

/-- An open message (R440): under the key of its role with a right trailer and a free session, the session begins with its key, event
0x0120 and the answer; a wrong trailer is counted in 0x1110:04 and as an authentication failure. -/
def dalmolyOpen (port : Fin 44) (frame : List Byte) : Clause :=
  dalFrame (fun dt => .dalmolyOpen dt port frame) port frame
    (fun t m => m.typ == 1 && m.sess == 0 && m.body.length == 20 && (t.roleKey (byteAt m.body 0)).isSome
      && (t.sess.dal.length < t.rdF 0x1110 2 16 12 : Bool) && t.freeSession.isSome)
    fun t m =>
      let role := byteAt m.body 0
      match t.roleKey role, t.freeSession with
      | some (key, bits), some n =>
        if Config.cmac bits key m.core % 2 ^ 128 ≠ m.trailer then (t.bump 0x1110 4 1).authFailure 0
        else
          let nonce := beBytes 16 (t.draw.1 % 2 ^ 128)
          let v := t.draw.2
          let k := kdf bits key ((m.body.drop 4).take 8 ++ nonce.take 8) 8 n 256
          let core := dalmolyHeader 2 n 0 20 0 ++ nonce ++ beBytes 2 (v.rdF 0x1110 2 11 0) ++ beBytes 2 1200
          let v := v.withSess fun x => { x with dal := mapSet x.dal n ⟨role, k, 0, [], v.now⟩ }
          (v.event 45 0x120 role 0 n).dalSend port.val frame (core ++ dalTrailer 256 k core)
      | _, _ => t

/-- A message of an open session that no forwarded request holds back. -/
def sessionOpen (t : State) (m : DalMsg) : Bool :=
  (mapGet t.sess.dal m.sess).isSome && !(t.consist.slots.any fun k => k.2.sess == m.sess && k.2.sentAt.isSome)

/-- What a message of an open session does (R442): a wrong trailer counts; the next sequence is processed; the last one again is answered
again; any other is counted. -/
def inOrder (port : Nat) (frame : List Byte) (t : State) (m : DalMsg) (run : State → State) : State :=
  match mapGet t.sess.dal m.sess with
  | none => t
  | some d =>
    if Config.cmac 256 d.key m.core % 2 ^ 128 ≠ m.trailer then (t.bump 0x1110 4 1).authFailure m.sess
    else if m.seq = (d.last + 1) % 2 ^ 32 then run t
    else if m.seq = d.last ∧ d.answer ≠ [] then
      let a := d.answer.take 10 ++ leBytes 1 1 ++ d.answer.drop 11
      t.dalSend port frame (a ++ dalTrailer 256 d.key a)
    else t.bump 0x1110 5 1

/-- What the request of a message does: served for its session, or answered with the abort that its body earns. -/
def dalRun (port : Nat) (frame : List Byte) (m : DalMsg) (t : State) : State :=
  match parseReq m.body with
  | .inr a => t.reply (.dalmoly m.sess m.seq port frame) a []
  | .inl r => t.serve m.sess (.dalmoly m.sess m.seq port frame) r

/-- A read request (R441, R442). -/
def dalmolyRead (port : Fin 44) (frame : List Byte) : Clause :=
  dalFrame (fun dt => .dalmolyRead dt port frame) port frame
    (fun t m => m.typ == 3 && byteAt m.body 0 == 1 && sessionOpen t m) fun t m => inOrder port.val frame t m (dalRun port.val frame m)

/-- A write request (R441, R442). -/
def dalmolyWrite (port : Fin 44) (frame : List Byte) : Clause :=
  dalFrame (fun dt => .dalmolyWrite dt port frame) port frame
    (fun t m => m.typ == 3 && byteAt m.body 0 == 2 && sessionOpen t m) fun t m => inOrder port.val frame t m (dalRun port.val frame m)

/-- A close message (R443): answered, and the session ends with cause 1. -/
def dalmolyClose (port : Fin 44) (frame : List Byte) : Clause :=
  dalFrame (fun dt => .dalmolyClose dt port frame) port frame
    (fun t m => m.typ == 5 && sessionOpen t m)
    fun t m => inOrder port.val frame t m fun v => (v.dalAnswer m.sess m.seq port.val frame 5 []).endDalmoly m.sess 1

/-- A session is idle for its timeout (R443): it ends with cause 2. -/
def sessionIdleTimeout (n : Fin 16) : Clause where
  cmd dt := .sessionIdleTimeout dt n
  pre u := u.awake && !(u.consist.slots.any fun k => k.2.sess == n.val + 1 && k.2.sentAt.isSome) &&
    match mapGet u.sess.dal (n.val + 1) with
    | some d => (d.at_ + u.rdF 0x1110 2 11 0 * 1000000000 ≤ u.now : Bool)
    | none => false
  eff u :=
    match mapGet u.sess.dal (n.val + 1) with
    | some d => ((u.clearSession (n.val + 1)).withSess fun x => { x with dal := mapDel x.dal (n.val + 1) }).event 45 0x121 2 d.role (n.val + 1)
    | none => u

/-! ### Groups and locks (R429–R434) -/

/-- A write of 1 to a subindex of 0x1130 by a session that has a role, served here. -/
def groupRow (cmd : Nat → Instr) (sess sub : Nat) (opened : Bool) (ok : State → Bool) (act : State → Nat × State) : Clause where
  cmd := cmd
  pre u := u.awake && (u.roleOf sess).isSome && u.startup.measured && u.present 45 && (u.forwardSlot sess).isNone
    && (u.groupOf sess).isSome == opened && (1 ≤ sub && sub ≤ 3 : Bool) && ok u
  eff u := (act u).2.emit (.answer sess (act u).1 [])

/-- A group opens (R432): empty. -/
def groupBegin (sess : Nat) : Clause :=
  groupRow (fun dt => .groupBegin dt sess none) sess 1 false (fun _ => true) fun u =>
    (0, u.withSess fun x => { x with groups := mapSet x.groups sess [] })

/-- A group is committed (R433): what its checks and its entries answer and leave. -/
def groupCommit (sess : Nat) : Clause :=
  groupRow (fun dt => .groupCommit dt sess none) sess 2 true (fun _ => true) fun u =>
    u.commit State.configStart sess ((u.roleOf sess).getD 0)

/-- A group is abandoned (R432). -/
def groupAbandon (sess : Nat) : Clause :=
  groupRow (fun dt => .groupAbandon dt sess none) sess 3 true (fun _ => true) fun u => (0, u.dropGroup sess)

/-- The hold time of a lock passes (R429): it is free. -/
def lockHoldExpiry (idx : BitVec 16) : Clause where
  cmd dt := .lockHoldExpiry dt idx
  pre u := u.awake &&
    match (mapGet u.sess.locks idx.toNat).bind fun l => l.until_ with
    | some t => (t ≤ u.now : Bool)
    | none => false
  eff u := u.withSess fun x => { x with locks := mapDel x.locks idx.toNat }

/-- 10 s after a QUENCH a session is served again (R447). -/
def quenchBlockEnd (sess : Nat) : Clause where
  cmd dt := .quenchBlockEnd dt sess
  pre u := u.awake &&
    match mapGet u.sess.blocked sess with
    | some t => (t ≤ u.now : Bool)
    | none => false
  eff u := u.withSess fun x => { x with blocked := mapDel x.blocked sess }

/-! ### The consist (Chapter 19) -/

/-- The consist logic serves. -/
def consistUp (u : State) : Bool := u.inRun && u.present 21 && u.startup.forwarding

/-- A good drawbar frame of its mode at a drawbar that hears: its sender is the neighbour, and its mode decides. -/
def drawbarFrame (cmd : Nat → Instr) (port : Fin 12) (mode ago : Nat) (bytes : List Byte) (run : State → Nat → DrawView → State) :
    Clause where
  cmd := cmd
  pre u :=
    let x := u.newFrame { blankFrame port.val 0 0 (u.rxTime port.val ago) with secured := true }
    consistUp u && u.hears port.val && u.drawbar port.val && u.present (ingressGroup port.val) && !(drawView bytes).bad
      && (drawView bytes).mode == mode && (x.2.appendBytes x.1 (withFcs bytes)).2
  eff u :=
    let v := drawView bytes
    let x := u.newFrame { blankFrame port.val 0 0 (u.rxTime port.val ago) with secured := true }
    let t := (x.2.appendBytes x.1 (withFcs bytes)).1.modFrame x.1 fun f => { f with whole := true, released := true }
    run (t.withConsist fun c => { c with neighbour := mapSet c.neighbour port.val v.sender }) x.1 v

/-- Mode 0 (R458): the frame is unwrapped and goes on by its own lookup. -/
def drawbarLookupFrame (port : Fin 12) (bytes : List Byte) (ago : Nat) : Clause :=
  drawbarFrame (fun dt => .drawbarLookupFrame dt port bytes ago) port 0 ago bytes fun t id v => (t.unwrap id v).releaseFrame id

/-- Mode 1 (R458): delivered here or on the path to its destination. -/
def drawbarUnicastFrame (port : Fin 12) (bytes : List Byte) (ago : Nat) : Clause :=
  drawbarFrame (fun dt => .drawbarUnicastFrame dt port bytes ago) port 1 ago bytes fun t id v => t.drawUnicast port.val id v

/-- Mode 2 (R460): flooded here, and passed on while it has hops. -/
def drawbarFloodFrame (port : Fin 12) (bytes : List Byte) (ago : Nat) : Clause :=
  drawbarFrame (fun dt => .drawbarFloodFrame dt port bytes ago) port 2 ago bytes fun t id v => t.drawFlood port.val id v

/-- Mode 3 (R462): a roll-call with the distance of its sender. -/
def rollCallReceived (port : Fin 12) (bytes : List Byte) (dist : Fin 8) : Clause :=
  drawbarFrame (fun dt => .rollCallReceived dt port bytes dist) port 3 0 bytes fun t id v =>
    t.drawMessage port.val id v [(port.val, dist.val)]

/-- Mode 4 (R468, R469). -/
def managementRequest (port : Fin 12) (bytes : List Byte) : Clause :=
  drawbarFrame (fun dt => .managementRequest dt port bytes) port 4 0 bytes fun t id v => t.drawMessage port.val id v []

/-- Mode 5 (R468). -/
def managementAnswer (port : Fin 12) (bytes : List Byte) : Clause :=
  drawbarFrame (fun dt => .managementAnswer dt port bytes) port 5 0 bytes fun t id v => t.drawMessage port.val id v []

/-- Every 10 ms a roll-call leaves on every drawbar (R462). -/
def rollCallTimer : Clause where
  cmd dt := .rollCallTimer dt
  pre u := consistUp u && u.consistOn
  eff u := u.sendMessage 3 0 (u.drawbars.map fun p => (p, max 1 (u.floodHops p))) u.rollCallBody

/-- A member has not been heard for 30 ms (R463): it is lost, with event 0x0131, and the master is chosen again. -/
def heardTimeout (d : Fin 8) : Clause where
  cmd dt := .heardTimeout dt d
  pre u := consistUp u &&
    match mapGet u.consist.members d.val with
    | some m => (m.at_ + 30000000 ≤ u.now : Bool)
    | none => false
  eff u := (u.loseMember d.val).updateMaster

/-- A higher member has held for the preempt hold (R463): it is the master, with a new term, event 0x0130 and a roll-call at once. -/
def preemptHoldExpiry : Clause where
  cmd dt := .preemptHoldExpiry dt
  pre u := consistUp u && u.consistOn && u.chooseMaster != u.consist.master
  eff u :=
    let high := u.consist.members.foldl (fun a m => max a m.2.term) u.term
    let t := (u.withConsist fun c => { c with master := u.chooseMaster }).setTerm (high + 1)
    (t.event 21 0x130 (deviceOr u.chooseMaster) (deviceOr u.consist.master) t.term).sendRollCall

/-- A warden has been absent for the grace (R463): the master is chosen again. -/
def wardenGraceExpiry : Clause where
  cmd dt := .wardenGraceExpiry dt
  pre u := consistUp u && u.consistOn && u.chooseMaster != u.consist.master
  eff u :=
    let high := u.consist.members.foldl (fun a m => max a m.2.term) u.term
    let t := (u.withConsist fun c => { c with master := u.chooseMaster }).setTerm (high + 1)
    (t.event 21 0x130 (deviceOr u.chooseMaster) (deviceOr u.consist.master) t.term).sendRollCall

/-- A forwarded request without an answer for the forward timeout (R468): its requester gets 0x0500_0001. -/
def forwardTimeout (slot : Fin 32) : Clause where
  cmd dt := .forwardTimeout dt slot
  pre u := u.awake &&
    match mapGet u.consist.slots slot.val with
    | some f =>
      match f.sentAt with
      | some t => (t + u.rdF 0xA000 3 25 16 * 1000000 ≤ u.now : Bool)
      | none => false
    | none => false
  eff u :=
    match mapGet u.consist.slots slot.val with
    | some f => (u.setSlotFwd slot.val { f with sentAt := none }).reply f.asker 0x05000001 []
    | none => u

/-- A number conflict has been absent for 1 s (R465): the device is in the consist again. -/
def conflictClear : Clause where
  cmd dt := .conflictClear dt
  pre u := consistUp u && u.consist.conflict && (u.consist.conflictAt + 1000000000 ≤ u.now : Bool)
  eff u := u.withConsist fun c => { c with conflict := false, left := false }

/-- A session selects a target (R466). -/
def sessionTargetWrite (sess : Nat) (value : BitVec 32) : Clause :=
  asWrite (fun dt => .sessionTargetWrite dt sess value) sess 0xA001 1 value.toNat fun t => (t.setTarget sess value.toNat).2

end Sys2Proof.Machine.Row
end

