-- ==== Sys2Proof/Clauses/Keys.lean ====
section
/-! DEFINITION. Clauses about the commands of Chapters 9, 10 and 11. -/

namespace Sys2Proof.Machine.Row

/-! ### The firewall (Chapter 9) -/

/-- A whole record is written to a window of the shadow half (R251): no copy into it goes on, and Changed reads 1. -/
def shadowRuleWrite (sess : Nat) (window : Fin 3) (k : Nat) (r : List Byte) : Clause :=
  asRecord (fun dt => .shadowRuleWrite dt sess window ((if window.val = 0 then 176 else if window.val = 1 then 8 else 4) * k) r) sess
    (0x5810 + window.val) 0 k r fun t =>
      t.giveUpHalf.shadowWrite (0x5810 + window.val) ((if window.val = 0 then 176 else if window.val = 1 then 8 else 4) * k) r

/-- The copy of the active rules into the shadow begins (R252). -/
def copyToShadow (sess : Nat) : Clause :=
  asWrite (fun dt => .copyToShadow dt sess) sess 0x5800 3 1 fun t =>
    (t.giveUpHalf.wr 0x5800 3 1).withFw fun f => { f with copying := true }

/-- The copy completes (R252): the shadow holds the active rules, and neither copying nor Changed reads 1. -/
def copyToShadowDone : Clause where
  cmd dt := .copyToShadowDone dt
  pre u := u.inRun && u.fw.copying
  eff u := (((u.copyHalf u.activeHalf u.shadowHalf).wr 0x5800 3 0).wr 0x5800 4 0).withFw fun f => { f with copying := false }

/-- A swap (R253): the shadow half is active with the next generation, Changed reads 0, and event 0x00A1 carries the half and the
generation. -/
def swap (sess : Nat) : Clause :=
  asWrite (fun dt => .swap dt sess) sess 0x5800 2 1 fun t =>
    let g := (t.rdF 0x5800 1 31 8 + 1) % 2 ^ 24
    ((t.wr 0x5800 1 (t.shadowHalf + g * 256)).wr 0x5800 4 0).event (19 + t.shadowHalf) 0xA1 t.shadowHalf 0 (g % 65536)

/-- The active half reads every rule (R254): each that reads wrong is marked bad once, counted, with event 0x00A2. -/
def ruleScrub (errs : ReadErrs) : Clause where
  cmd dt := .ruleScrub dt errs
  pre u := u.inRun && u.present (19 + u.activeHalf)
  eff u := (u.meetErrs errs).readRules u.activeHalf

/-! ### The crypto data path (Chapter 10) -/

/-- What the end of a running operation of an engine does. -/
def opEnd (cmd : Nat → Instr) (k e : Nat) (ok : State → CryptoOp → Bool) (f : State → CryptoOp → State) : Clause where
  cmd := cmd
  pre u := u.inRun && u.works (23 + k) &&
    match u.opOn k e with
    | some o => ok u o
    | none => false
  eff u :=
    match u.opOn k e with
    | some o => f u o
    | none => u

/-- The check of a held frame ends (R272). Where its authenticator is right and its freshness still newer than the last accepted, that
value commits, the record counts a pass, and the frame goes on; else the record counts a failure with event 0x00B0, and the frame is
refused. A frame that has aged is refused with reason 1 in either case. -/
def authenticatorVerifyDone (cluster : Fin 5) (engine : Fin 16) (ctxError : Bool) : Clause :=
  opEnd (fun dt => .authenticatorVerifyDone dt cluster engine ctxError) cluster.val engine.val
    (fun u o => o.kind == 4 && (u.frame? o.frame).isSome)
    fun u o =>
      match u.frame? o.frame with
      | some f =>
        let r := o.rec_ - 1024
        let good : Bool := !ctxError && u.authGood r o.key o.pn f && (u.auStat r 0 8 < o.pn : Bool)
        let t := u.dropOp o
        let t := if good then ((t.setWinLe 0x8131 0 (32 * r) 8 o.pn).recPass o.rec_).setFlag o.rec_ 3 false
          else (t.recFail o.rec_).failEvent o.cluster 3 o.port r
        if t.expired f then t.ageHeld o.frame else if good then t.passHeld o.frame else t.refuseHeld o.frame
      | none => u

/-- The protection of a queued copy ends (R258, R267, R270, R273): its protected form stands ready. -/
def protectionEnds (cluster : Fin 5) (engine : Fin 16) : Clause :=
  opEnd (fun dt => .cryptoOperationEnd dt cluster engine false) cluster.val engine.val
    (fun u o => (o.kind == 0 || o.kind == 2 || o.kind == 5) && (u.frame? o.frame).isSome)
    fun u o =>
      match u.frame? o.frame with
      | some f => (u.dropOp o).txEnds o f
      | none => u

/-- A received frame's operation ends (R264, R268, R270): opened, or dropped with a failure. -/
def openingEnds (cluster : Fin 5) (engine : Fin 16) (ctxError : Bool) : Clause :=
  opEnd (fun dt => .cryptoOperationEnd dt cluster engine ctxError) cluster.val engine.val
    (fun u o => (o.kind == 1 || o.kind == 3) && (u.frame? o.frame).isSome)
    fun u o =>
      match u.frame? o.frame with
      | some f => if o.kind = 1 then (u.dropOp o).macsecOpened o f ctxError else (u.dropOp o).cansecOpened o f ctxError
      | none => u

/-- An engine that is free of other work resumes its suspended operation (R258). -/
def suspendedResume (cluster : Fin 5) (engine : Fin 16) : Clause where
  cmd dt := .suspendedResume dt cluster engine
  pre u := u.inRun && u.works (23 + cluster.val) && !((u.running cluster.val).any fun o => o.engine == engine.val)
    && !(u.crypto.ops.any fun o => o.phase == 0 && o.urgent && (u.cachedKey cluster.val o.rec_).isSome)
    && (u.crypto.ops.find? fun o => o.cluster == cluster.val && o.engine == engine.val && o.phase == 2).isSome
  eff u :=
    match u.crypto.ops.find? fun o => o.cluster == cluster.val && o.engine == engine.val && o.phase == 2 with
    | some o => u.withCrypto fun c => { c with ops := replaceOp o { o with phase := 1 } c.ops }
    | none => u

/-- A derivation of an enabled record whose parent is held completes (R260–R262): its key stands in the cluster's cache, counted in
0x8100:04, and the record reads as held once no derivation of it is left. -/
def keyDerivationDone (cluster : Fin 5) : Clause where
  cmd dt := .keyDerivationDone dt cluster
  pre u := u.awake && u.present (23 + cluster.val) && u.present 46 &&
    match u.crypto.derive_.find? fun x => x / 8192 == cluster.val with
    | none => false
    | some x =>
      let t := u.withCrypto fun c => { c with derive_ := c.derive_.filter fun y => y != x }
      !t.recFlag (x % 8192) 1 && t.recEnabled (x % 8192) && (t.workingKey (x % 8192)).isSome
  eff u :=
    match u.crypto.derive_.find? fun x => x / 8192 == cluster.val with
    | none => u
    | some x =>
      let t := u.withCrypto fun c => { c with derive_ := c.derive_.filter fun y => y != x }
      match t.workingKey (x % 8192) with
      | none => t
      | some key =>
        let t := (t.withCrypto fun c => { c with keys := mapSet c.keys x key }).bump 0x8100 4 1
        if t.crypto.derive_.any fun y => y % 8192 == x % 8192 then t else t.setFlag (x % 8192) 0 true

/-- Every 60 s (R274): each enabled verifying record whose last accepted value differs from the ledger's is committed. -/
def freshnessCommit : Clause where
  cmd dt := .freshnessCommit dt
  pre u := u.awake && (u.key.freshAt + 60000000000 ≤ u.now : Bool) && u.present 46 && !u.key.brownOut
  eff u :=
    let recs := (u.enabledRecs.filter (1024 ≤ ·)).map (· - 1024)
    let t := u.forEach (recs.filter fun r => u.au r 0 1 == 1) fun t r =>
      if mapGetD t.key.mram r 0 = t.auStat r 0 8 then t else t.commitFresh r (t.auStat r 0 8)
    t.withKey fun k => { k with freshAt := t.now }

/-! ### Keys (R285) -/

/-- The key store takes an action on a handle: it is PRESENT, no brown-out warning stands (R294), and no migration is open (R293) but for
actions 5 and 8. -/
def keysServe (act : Nat) (t : State) : Bool := !t.key.brownOut && t.present 46 && (!t.migrating || act == 5 || act == 8)

/-- What a done action leaves: its answer, the handle's generation, the records under changed keys derived again, those under revoked ones
revoked, event 0x00C2. -/
def keyDone (sess h act : Nat) (x : KeyAnswer × State) : State := x.2.keyDone sess h act x.1

/-- A key is defined from its parent with its label (action 1). -/
def keyDefine (sess : Nat) (h : BitVec 16) (kind : Fin 3) (wide : Bool) (parent : BitVec 16) (label : List Byte) : Clause :=
  asBlob (fun dt => .keyDefine dt sess h kind wide parent label) sess
    [(0x8010, 1, keyWord h.toNat 1 kind.val wide), (0x8010, 2, parent.toNat)] 0x8010 3 label 0x8010 4
    (fun t => keyDone sess h.toNat 1 (t.keyDefine h.toNat parent.toNat kind.val wide (t.winBytes 0x8010 3 0 16)))
    fun t => keysServe 1 t && (t.keyDefine h.toNat parent.toNat kind.val wide (t.winBytes 0x8010 3 0 16)).1.status == 0

/-- A key command without words of its own besides the first. -/
def keyRow (cmd : Nat → Instr) (sess h act kind : Nat) (wide : Bool) (run : State → KeyAnswer × State) : Clause :=
  asStart cmd sess [(0x8010, 1, keyWord h act kind wide)] 0x8010 4 (fun t => keyDone sess h act (run t))
    fun t => keysServe act t && (run t).1.status == 0

/-- A key is generated (action 2). -/
def keyGenerate (sess : Nat) (h : BitVec 16) (kind : Fin 3) (wide : Bool) : Clause :=
  keyRow (fun dt => .keyGenerate dt sess h kind wide) sess h.toNat 2 kind.val wide fun t => t.keyGenerate h.toNat kind.val wide

/-- A key is imported from its blob (action 3): placed where the blob passes its checks, else refused with status 5 and its reason. -/
def keyImport (sess : Nat) (h : BitVec 16) (blob : List Byte) : Clause :=
  asBlob (fun dt => .keyImport dt sess h blob) sess [(0x8010, 1, keyWord h.toNat 3 0 true)] 0x8012 0 blob 0x8010 4
    (fun t => keyDone sess h.toNat 3 (t.keyImport h.toNat)) (keysServe 3)

/-- A generated key is rotated (action 4). -/
def keyRotate (sess : Nat) (h : BitVec 16) : Clause :=
  keyRow (fun dt => .keyRotate dt sess h) sess h.toNat 4 0 true fun t => t.keyRotate h.toNat

/-- A key and all under it are revoked (action 5). -/
def keyRevoke (sess : Nat) (h : BitVec 16) : Clause :=
  keyRow (fun dt => .keyRevoke dt sess h) sess h.toNat 5 0 true fun t => t.keyRevoke h.toNat

/-- A revoked key is deleted (action 6). -/
def keyDelete (sess : Nat) (h : BitVec 16) : Clause :=
  keyRow (fun dt => .keyDelete dt sess h) sess h.toNat 6 0 true fun t => t.keyDelete h.toNat

/-- The keys are resealed for the firmware of the inactive slot (action 7). -/
def keyReseal (sess : Nat) : Clause :=
  keyRow (fun dt => .keyReseal dt sess) sess 0 7 0 true fun t => t.keyReseal 0 (t.measureSlot t.inactiveSlot)

/-- A migration is closed (action 8). -/
def closeMigration (sess : Nat) : Clause :=
  keyRow (fun dt => .closeMigration dt sess) sess 0 8 0 true fun t => t.keyClose 0

/-- The entropy source's health tests fail (R288): the DRBG gives no output, and sensor 7 trips. -/
def entropyFails : Clause where
  cmd dt := .entropyHealthFail dt false
  pre u := u.awake && u.present 46 && !u.key.noEntropy
  eff u := (u.withKey fun k => { k with noEntropy := true }).trip 7 []

/-- They pass again (R287). -/
def entropyPasses : Clause where
  cmd dt := .entropyHealthFail dt true
  pre u := u.awake && u.present 46 && u.key.noEntropy
  eff u := u.withKey fun k => { k with noEntropy := false }

/-- A SAK is generated under a CAK that is held (R287): the session handle holds it, with the next generation, and what is under it is
derived again. -/
noncomputable def sakGenerated (handle : Fin 512) (cak : BitVec 16) (wide : Bool) : Clause where
  cmd dt := .mkaSak dt handle cak wide none
  pre u := u.awake && u.present 44 && u.present 46 && u.kindOf cak.toNat == 2 && (u.keyOf cak.toNat).isSome && !u.key.noEntropy
  eff u := u.draw.2.placeSak (0x0600 + handle.val) cak.toNat (if wide then u.draw.1 else u.draw.1 / 2 ^ 128) wide

/-- A distributed SAK is unwrapped with the KEK of its CAK (R287); one that does not unwrap is not placed. -/
noncomputable def sakUnwrapped (handle : Fin 512) (cak : BitVec 16) (wide : Bool) (w : List Byte) : Clause where
  cmd dt := .mkaSak dt handle cak wide (some w)
  pre u := u.awake && u.present 44 && u.present 46 && u.kindOf cak.toNat == 2 && (u.keyOf cak.toNat).isSome
  eff u :=
    match u.keyOf cak.toNat with
    | none => u
    | some (v, bits) =>
      match Config.keyUnwrap (Config.mkaKek cak.toNat bits v) w with
      | some k => u.placeSak (0x0600 + handle.val) cak.toNat (beVal (sliceZ k 0 (if wide then 32 else 16))) wide
      | none => u

/-! ### Attestation, life cycle, alarm (R298–R308) -/

/-- An attestation is made (R298, R299): its statement stands in 0x8021, with status 0. -/
def attestation (sess : Nat) (h : BitVec 16) (kind : Fin 16) (nonce : List Byte) : Clause :=
  asBlob (fun dt => .attestation dt sess h kind nonce) sess [(0x8020, 1, h.toNat + 65536 * kind.val)] 0x8020 2 nonce 0x8020 3
    (fun t => (t.setWin 0x8021 0 0 (t.statement kind.val h.toNat (t.rdB 0x2030 1 1 || t.rdB 0x2030 2 1))).wr 0x8020 4 0)
    fun t => !t.key.brownOut && (kind.val != 1 || h.toNat == 1 || (configured? h.toNat).isSome || isSessHandle h.toNat)

/-- An allowed life-cycle transition (R301–R303): every key in use is revoked, the fuse word takes the new state, what the transition
destroys is destroyed, two commits are counted, event 0x00C1, and the device restarts. -/
def lifeCycleRequest (sess : Nat) (target : Fin 8) : Clause :=
  asWrite (fun dt => .lifeCycleRequest dt sess target) sess 0x8000 2 target.val
    (fun t =>
      let v := (t.revokeAll t.usedHandles).withKey fun k =>
        { k with fuses := setFld k.fuses (2 * (target.val - 2) + 1) (2 * (target.val - 2)) 3 }
      let v := (((v.lifeErase target.val).countCommit (t.pairsInUse + 2) 0).wr 0x8030 3 0).wr 0x8000 3 0
      (v.event 45 0xC1 target.val t.life t.pairsInUse).deviceRestart)
    fun t => !t.key.brownOut && t.present 46 && t.lifeAllowed target.val

/-- A sensor trips (R304–R306), by its grade; a glitch within a brown-out and debug access where debug is open are none. -/
def sensorTrip (sensor : Fin 9) (cars : List (Fin 47)) (sess : Nat) : Clause where
  cmd dt := .sensorTrip dt sensor cars sess
  pre u := u.awake && !((sensor.val ≤ 1 : Bool) && u.key.brownOut) && !(sensor.val == 8 && debugOpen u.life)
  eff u :=
    if sensor.val = 5 ∨ sensor.val = 6 then u.tripWith sensor.val sess [] (some sess)
    else if sensor.val = 1 then u.tripWith 1 ((cars.map fun n => n.val).headD 0xFFFF) (cars.map fun n => n.val) none
    else if sensor.val = 3 ∨ sensor.val = 4 then u.tripWith sensor.val 0xFFFF [] none
    else u.tripWith sensor.val 46 [46] none

/-- Thaw (R308): the frozen state ends, and the device restarts. -/
def thaw (sess : Nat) : Clause :=
  asWrite (fun dt => .thaw dt sess) sess 0x8030 4 1 fun t => (t.wr 0x8030 3 0).deviceRestart

/-! ### Configuration images and brown-out (R294, R312, R313) -/

/-- An export begins (R313): start and status read 1. -/
def configExport (sess : Nat) : Clause :=
  asStart (fun dt => .configExport dt sess) sess [(0x8050, 1, 1)] 0x8050 2
    (fun t => ((t.wr 0x8050 2 1).wr 0x8050 3 1).withKey fun k => { k with exporting := some t.now }) fun t => !t.key.brownOut

/-- An import (R312): the image is checked and applied. -/
def configImport (sess : Nat) : Clause :=
  asStart (fun dt => .configImport dt sess) sess [(0x8050, 1, 2)] 0x8050 2 State.configImport fun t => !t.key.brownOut

/-- A check without an import (R312). -/
def configCheckOnly (sess : Nat) : Clause :=
  asStart (fun dt => .configCheckOnly dt sess) sess [(0x8050, 1, 3)] 0x8050 2 State.configCheck fun t => !t.key.brownOut

/-- An export ends (R313): the image stands in 0x8051, with its length, status 0 and event 0x00C5. -/
noncomputable def configExportDone : Clause where
  cmd dt := .configExportDone dt
  pre u := u.awake && u.key.exporting.isSome
  eff u := u.exportDone

/-- A brown-out warning (R294, R356): the flag, its count, event 0x00C6, and the lifetime count. -/
def brownOutWarning : Clause where
  cmd dt := .brownOutWarning dt
  pre u := u.alive && !u.key.brownOut
  eff u :=
    let t := ((u.withKey fun k => { k with brownOut := true }).bump 0x8040 3 1).event 46 0xC6 0 0 0
    (t.withTime fun x => { x with live := { x.live with brownOuts := x.live.brownOuts + 1 } }).withPower fun p => { p with brownAt := t.now }

/-- Its causes have been clear for 1 ms (R294): the warning ends, and the set point that waited is taken. -/
def brownOutClear : Clause where
  cmd dt := .brownOutClear dt
  pre u := u.alive && u.key.brownOut && u.power.vfabAt.isNone && (u.power.brownAt + 1000000 ≤ u.now : Bool)
  eff u := (u.withKey fun k => { k with brownOut := false }).reloadSetPoint

end Sys2Proof.Machine.Row
end

