-- ==== Sys2Proof/Clauses/Ports.lean ====
section
/-! DEFINITION. Clauses about the commands of Chapter 5 and the egress selection. -/

namespace Sys2Proof.Machine.Row

/-! ### Modes and links (R121, R122) -/

/-- A port's mode while its link is down: it holds the value written. -/
def portModeWrite (sess : Nat) (port : Fin 44) (value : BitVec 32) : Clause :=
  asWrite (fun dt => .portModeWrite dt sess port value) sess (ethObj port.val 1) 1 value.toNat (·.wr (ethObj port.val 1) 1 value.toNat)
    fun t => !(t.wr (ethObj port.val 1) 1 value.toNat).linkUp port.val

/-- A port's mode while its link is up (R122): the old mode goes on until the frame in transmission has ended. -/
def portModeChange (sess : Nat) (port : Fin 44) (value : BitVec 32) : Clause :=
  asWrite (fun dt => .portModeWrite dt sess port value) sess (ethObj port.val 1) 1 value.toNat
    (fun t => ((t.wr (ethObj port.val 1) 1 value.toNat).modPdyn port.val fun d => { d with oldMode := some (t.modeNow port.val) }).takeMode
      port.val)
    fun t => (t.wr (ethObj port.val 1) 1 value.toNat).linkUp port.val && value.toNat != t.rd (ethObj port.val 1) 1

/-- A mode links (R122): Link and Rate read 1 and the rate of the mode, event 0x0060, waiting copies are taken, and a B or G port begins to
verify preemption (R221). -/
def linkUp (port : Fin 44) : Clause where
  cmd dt := .linkUp dt port
  pre u := u.inRun && !u.linkUp port.val && u.mayLink port.val
  eff u :=
    let p := port.val
    let r := modeRate p (u.rdF (ethObj p 1) 1 3 0)
    let t := (u.wr (ethObj p 1) 2 (1 + 2 * r)).event (portCarriage p) 0x60 p r 0
    let t := (if 28 ≤ p then (t.wr (ethObj p 4) 3 0).modPdyn p fun d => { d with listenSince := t.now } else t).takeWaiting p
    if p ≤ 27 then t.verifyStart p else t

/-- A link goes down (R122, R124): its frames in transmission and reception are cut, Link reads 0, and event 0x0061 carries the mode. -/
def linkDown (port : Fin 44) : Clause where
  cmd dt := .linkDown dt port
  pre u := u.inRun && u.linkUp port.val
  eff u := u.dropLink port.val (u.modeNow port.val)

/-- The configured threshold (R130, R132): an adapted threshold not above it is given up. -/
def thresholdWrite (sess : Nat) (port : Fin 44) (value : BitVec 32) : Clause :=
  asWrite (fun dt => .thresholdWrite dt sess port value) sess (ethObj port.val 8) 1 value.toNat fun t =>
    (t.wr (ethObj port.val 8) 1 value.toNat).modPdyn port.val fun d =>
      { d with adapted := if d.adapted ≤ value.toNat % 64 ∨ value.toNat % 64 = 0 then 0 else d.adapted }

/-! ### Egress selection (R210, R222) -/

/-- A port that can start a frame selects it by the kind of the port: an Ethernet port for its MAC, a C channel to offer it to its bus, an
L channel into its transmit buffers, port 45 for the gateway, H's queue mode and port 46 for their delivery queues. -/
def egressSelect (port : Fin 160) (errs : ReadErrs) : Clause where
  cmd dt := .egressSelect dt port errs
  pre u :=
    let t := u.meetErrs errs
    u.inRun && portOk port.val && !u.committed && u.startup.forwarding && u.present (egressGroup port.val)
      && (!isEth port.val || (t.linkUp port.val && t.present (portCarriage port.val) && (t.pdyn port.val).oldMode.isNone))
      && (port.val != 44 || (t.present 41 && t.rdB 0x20A0 3 2))
  eff u :=
    let p := port.val
    let t := u.meetErrs errs
    if p ≤ 43 then t.selectEth p errs
    else if p = 44 ∨ p = 46 then t.selectDelivery p errs
    else if p = 45 then t.gwSelect
    else if p < 136 then t.canOffer (p - 64)
    else t.linEgress (p - 64) (((t.ptm p).queues.map fun q => q.2.length).sum)

/-- An idle Ethernet port whose selection finds a queue (R210) starts the frame at its head. -/
def startsFrame (port : Fin 44) (errs : ReadErrs) : Clause where
  cmd dt := .egressSelect dt (port.castLE (by decide)) errs
  pre u :=
    let t := u.meetErrs errs
    let v := t.takeKinds port.val
    u.inRun && !u.committed && u.startup.forwarding && u.present (egressGroup port.val) && t.linkUp port.val
      && t.present (portCarriage port.val) && (t.pdyn port.val).oldMode.isNone && (v.pdyn port.val).retry.isNone
      && (v.pdyn port.val).tx.isNone && (v.pdyn port.val).suspended.isNone && (v.selectQueue port.val).1.isSome
  eff u :=
    let x := ((u.meetErrs errs).takeKinds port.val).selectQueue port.val
    match x.1 with
    | some n => (x.2.meetHead port.val n errs).startTx port.val n
    | none => x.2

/-! ### Underrun (R131–R133) -/

/-- An underrun of a frame released early by a port with a threshold (R131): counted at both ports, the threshold of the ingress port
rises, and the frame is stomped after the bytes that have left. -/
def transmitUnderrun (port : Fin 44) : Clause where
  cmd dt := .transmitUnderrun dt port
  pre u := u.inRun &&
    match (u.pdyn port.val).tx with
    | none => false
    | some t =>
      match u.frame? t.frame with
      | none => false
      | some f => !f.underran && f.early && !t.wholeAtStart && isEth f.ingress &&
          ((((u.portCount port.val 0x1F 1).portCount f.ingress 0x3E 1).restartRun f.ingress).modFrame t.frame fun f =>
            { f with underran := true }).configured f.ingress != 0
  eff u :=
    match (u.pdyn port.val).tx with
    | none => u
    | some t =>
      match u.frame? t.frame with
      | none => u
      | some f =>
        let v := ((((u.portCount port.val 0x1F 1).portCount f.ingress 0x3E 1).restartRun f.ingress).modFrame t.frame fun f =>
          { f with underran := true }).raiseThreshold f.ingress
        v.endStomped port.val t ((v.now - t.start) * v.portKbps port.val / 8000000 - 8)

/-- 65,536 frames without an underrun (R132): the adapted threshold falls by 1, and is given up at the configured one. -/
def thresholdDecay (port : Fin 44) : Clause where
  cmd dt := .thresholdDecay dt port
  pre u := u.inRun && (65536 ≤ (u.pdyn port.val).cleanRun : Bool) && (u.pdyn port.val).adapted != 0
  eff u := u.modPdyn port.val fun d =>
    { d with cleanRun := 0, adapted := if d.adapted - 1 ≤ u.configured port.val then 0 else d.adapted - 1 }

/-- The 100 ms after a repair end (R133). -/
def forcedSafEnd : Clause where
  cmd dt := .forcedSafEnd dt
  pre u := u.inRun && u.eth.repairUntil ≤ u.now
  eff u := { u with eth := { u.eth with repairUntil := 0 } }

/-! ### Flow control (R134–R136) -/

/-- A pause at a port that takes it (R134): counted, and the port stops for its time. -/
def pauseReceived (port : Fin 44) (quanta : BitVec 16) : Clause where
  cmd dt := .pauseReceived dt port quanta
  pre u := u.inRun && u.hearsPause port.val && (port.val ≤ 27 : Bool) && (u.portCount port.val 0x0B 1).rdB (ethObj port.val 3) 1 0
    && ((u.portCount port.val 0x0B 1).holdOf port.val 8).isNone
  eff u := (u.portCount port.val 0x0B 1).setStop port.val 8 quanta.toNat

/-- A PFC frame at a port that takes it (R134): counted, and each class it names that is not held off stops for its time. -/
def pfcReceived (port : Fin 44) (classes : Byte) (quanta : List Nat) : Clause where
  cmd dt := .pfcReceived dt port classes quanta
  pre u := u.inRun && u.hearsPause port.val && (port.val ≤ 27 : Bool) && (u.portCount port.val 0x0C 1).rdB (ethObj port.val 3) 1 1
  eff u := (u.portCount port.val 0x0C 1).forEach (maskList 8 classes.toNat) fun t c =>
    let held : Bool := match t.holdOf port.val c with
      | some e => (t.now < e : Bool)
      | none => false
    if held then t else t.setStop port.val c ((quanta.map fun q => q % 65536).getD c 0)

/-- A pause time has passed: the stop ends. -/
def pauseExpiry (port : Fin 44) (cls : Fin 9) : Clause where
  cmd dt := .pauseExpiry dt port cls
  pre u := u.inRun &&
    match u.stopOf port.val cls.val with
    | some x => (x.2 ≤ u.now : Bool)
    | none => false
  eff u := u.setStop port.val cls.val 0

/-- A stop outlasts the watchdog limit (R136): the stop ends, the hold-off begins, and event 0x0062 carries the class and the hold-off. -/
def pauseWatchdogTrip (port : Fin 44) (cls : Fin 9) : Clause where
  cmd dt := .pauseWatchdogTrip dt port cls
  pre u := u.inRun &&
    match u.stopOf port.val cls.val with
    | some x => (x.1 + u.rdF (ethObj port.val 3) 2 9 0 * 1000000 ≤ u.now : Bool)
        && (x.1 + u.rdF (ethObj port.val 3) 2 9 0 * 1000000 < x.2 : Bool)
    | none => false
  eff u :=
    let p := port.val
    let hold := u.rdF (ethObj p 3) 3 13 0
    let t := u.setStop p cls.val 0
    let t := t.modPdyn p fun d =>
      if cls.val = 8 then { d with pauseHold := some (t.now + hold * 1000000) }
      else { d with pfcHold := mapSet d.pfcHold cls.val (t.now + hold * 1000000) }
    ((t.wrB (ethObj p 3) 4 cls.val true).portCount p 0x26 1).event (portCarriage p) 0x62 p (if cls.val = 8 then 0xFF else cls.val) hold

/-- The hold-off ends (R136). -/
def holdOffEnd (port : Fin 44) (cls : Fin 9) : Clause where
  cmd dt := .holdOffEnd dt port cls
  pre u := u.inRun &&
    match u.holdOf port.val cls.val with
    | some t => (t ≤ u.now : Bool)
    | none => false
  eff u := (u.modPdyn port.val fun d => if cls.val = 8 then { d with pauseHold := none } else { d with pfcHold := mapDel d.pfcHold cls.val }).wrB
    (ethObj port.val 3) 4 cls.val false

/-- The receive buffer of a linked B or G port fills to 75 % (R135): with Send set a pause of 0xFFFF quanta leaves. -/
def receiveBufferHigh (port : Fin 44) (fill : Nat) : Clause where
  cmd dt := .receiveBufferThreshold dt port fill
  pre u := u.inRun && (port.val ≤ 27 : Bool) && u.linkUp port.val && !(u.pdyn port.val).rxHigh
    && (receiveBuffer port.val * 3 ≤ fill * 4 : Bool)
  eff u :=
    let t := u.modPdyn port.val fun d => { d with rxHigh := true, pauseAt := u.now }
    if u.rdB (ethObj port.val 3) 1 2 then
      ((t.emit (.pause port.val 0xFFFF)).portCount port.val 0x20 1).modPdyn port.val fun d => { d with pauseAt := u.now }
    else t

/-- It falls back to 25 % (R135): with Send set a pause of 0 quanta leaves. -/
def receiveBufferLow (port : Fin 44) (fill : Nat) : Clause where
  cmd dt := .receiveBufferThreshold dt port fill
  pre u := u.inRun && (port.val ≤ 27 : Bool) && u.linkUp port.val && (u.pdyn port.val).rxHigh && (fill * 4 ≤ receiveBuffer port.val : Bool)
  eff u :=
    let t := u.modPdyn port.val fun d => { d with rxHigh := false }
    if u.rdB (ethObj port.val 3) 1 2 then
      ((t.emit (.pause port.val 0)).portCount port.val 0x21 1).modPdyn port.val fun d => { d with pauseAt := u.now }
    else t

/-- The pause is repeated after half its time while the buffer stays high (R135). -/
def pauseRepeat (port : Fin 44) : Clause where
  cmd dt := .pauseRepeat dt port
  pre u := u.inRun && (port.val ≤ 27 : Bool) && u.linkUp port.val && (u.pdyn port.val).rxHigh && u.rdB (ethObj port.val 3) 1 2
    && ((u.pdyn port.val).pauseAt + u.pauseNs port.val 32768 ≤ u.now : Bool)
  eff u := ((u.emit (.pause port.val 0xFFFF)).portCount port.val 0x20 1).modPdyn port.val fun d => { d with pauseAt := u.now }

/-! ### T1S segments (R137–R141) -/

/-- The coordinator of a segment in PLCA sends its BEACON (R137), counted in 0x2D. -/
def beaconSend (port : Fin 44) : Clause where
  cmd dt := .beaconSend dt port
  pre u := u.inRun && u.plca port.val && u.coordinator port.val
  eff u :=
    let t := (u.emit (.beacon port.val)).portCount port.val 0x2D 1
    (t.modPdyn port.val fun d => { d with beaconAt := some t.now }).wr (ethObj port.val 4) 3 1

/-- A follower sees a BEACON (R137), counted in 0x2E: PLCA is active. -/
def beaconSeen (port : Fin 44) : Clause where
  cmd dt := .beaconReceived dt port
  pre u := u.inRun && u.plca port.val && u.present (portCarriage port.val) && !u.coordinator port.val
  eff u :=
    let t := u.portCount port.val 0x2E 1
    (t.modPdyn port.val fun d => { d with beaconAt := some t.now }).wr (ethObj port.val 4) 3 1

/-- A coordinator detects the BEACON of another (R138): counted in 0x2F, event 0x0064 once a second with the count of the last second. -/
def beaconConflict (port : Fin 44) : Clause where
  cmd dt := .beaconReceived dt port
  pre u := u.inRun && u.plca port.val && u.present (portCarriage port.val) && u.coordinator port.val
  eff u :=
    let p := port.val
    let t := u.portCount p 0x2F 1
    let t := if (t.pdyn p).conflictRaised then t
      else (t.event (portCarriage p) 0x64 p 0 (min 65535 (t.pdyn p).conflictsPrev)).modPdyn p fun d => { d with conflictRaised := true }
    t.modPdyn p fun d => { d with conflicts := d.conflicts + 1 }

/-- A follower without a BEACON for 4,000 bit times uses CSMA/CD (R139), counted in 0x30. -/
def beaconTimeout (port : Fin 44) : Clause where
  cmd dt := .beaconTimeout dt port
  pre u := u.inRun && u.plca port.val && !u.rdB (ethObj port.val 4) 3 1
    && (((u.pdyn port.val).beaconAt).getD (u.pdyn port.val).listenSince + 400000 ≤ u.now : Bool)
    && !(u.modPdyn port.val fun d => { d with beaconAt := none }).coordinator port.val
  eff u := ((u.modPdyn port.val fun d => { d with beaconAt := none }).portCount port.val 0x30 1).wr (ethObj port.val 4) 3 2

/-- A collision before the 16th attempt (R139): counted, late where it comes after 512 bit times, and the frame is sent again. -/
def collision (port : Fin 44) (bits : Nat) : Clause where
  cmd dt := .collision dt port bits
  pre u :=
    let t := u.portCount port.val 0x28 1
    let t := if 512 < bits then t.portCount port.val 0x29 1 else t
    u.inRun && u.csma port.val && (u.pdyn port.val).tx.isSome && ((t.pdyn port.val).attempts < 15 : Bool)
  eff u :=
    match (u.pdyn port.val).tx with
    | none => u
    | some x =>
      let t := u.portCount port.val 0x28 1
      let t := if 512 < bits then t.portCount port.val 0x29 1 else t
      (t.pushHead port.val x.queue ⟨x.frame, t.now, if x.out.isSome then 3 else 0, x.out⟩).modPdyn port.val fun d =>
        { d with tx := none, attempts := (t.pdyn port.val).attempts + 1, retry := some x.queue }

/-- The 16th collision of a frame (R139): counted in 0x2A, and the copy is refused. -/
def lastCollision (port : Fin 44) (bits : Nat) : Clause where
  cmd dt := .collision dt port bits
  pre u :=
    let t := u.portCount port.val 0x28 1
    let t := if 512 < bits then t.portCount port.val 0x29 1 else t
    u.inRun && u.csma port.val && (u.pdyn port.val).tx.isSome && (15 ≤ (t.pdyn port.val).attempts : Bool)
  eff u :=
    match (u.pdyn port.val).tx with
    | none => u
    | some x =>
      let t := u.portCount port.val 0x28 1
      let t := if 512 < bits then t.portCount port.val 0x29 1 else t
      ((t.portCount port.val 0x2A 1).modPdyn port.val fun d => { d with tx := none, attempts := 0 }).refuseCopy port.val x.frame 0

/-- Jabber on a segment (R140): counted in 0x2B, and what is in reception is given up. -/
def jabber (port : Fin 44) : Clause where
  cmd dt := .jabber dt port
  pre u := u.inRun && (28 ≤ port.val : Bool) && u.hears port.val
  eff u :=
    let t := u.portCount port.val 0x2B 1
    match (t.ingressQ port.val).cur with
    | some id => if ((t.frame? id).map fun f => f.released).getD false then t.endEarly port.val id 2 else t.giveUp port.val id
    | none => t.modIngress port.val fun q => { q with skip := true }

/-- Noise on a segment (R140), counted in 0x2C. -/
def noise (port : Fin 44) : Clause where
  cmd dt := .noise dt port
  pre u := u.inRun && (28 ≤ port.val : Bool) && u.hears port.val
  eff u := u.portCount port.val 0x2C 1

/-- A snapshot (R145): the banks of every port, those not selected with zeros; then its time, and its count. -/
def snapshot (sess : Nat) : Clause :=
  asWrite (fun dt => .snapshot dt sess) sess 0x9000 6 1 fun t =>
    let v := t.forEach allPorts fun v p => v.snapPort p (v.rdB 0x9000 (1 + p / 32) (p % 32))
    ((v.wr 0x9000 7 t.clockNow.2).wr 0x9000 8 (t.clockNow.1 % 2 ^ 32)).bump 0x9000 9 1

end Sys2Proof.Machine.Row
end

