-- ==== Sys2Proof/Clauses/Rules.lean ====
section
/-! DEFINITION. What the statements about single rules are said with: what leaves the objects as they are, and a state in which no unit
has anything left to do. -/

namespace Sys2Proof.Machine

/-- Every scalar of the state `s` reads the same in `t`, but those of the indices in `but`. -/
def State.sameScalars (s t : State) (but : List Nat) : Prop := ∀ idx sub, sub < 256 → idx ∉ but → t.rd idx sub = s.rd idx sub

/-- Every window byte of the state `s` reads the same in `t`, but those of the indices in `but`. -/
def State.sameWindows (s t : State) (but : List Nat) : Prop :=
  ∀ idx sub off, sub < 256 → off < 2 ^ 24 → idx ∉ but → t.winB idx sub off = s.winB idx sub off

/-- No unit has anything left to do by itself: no mode write or flush waits for the end of a frame, no item waits in an ingress queue, no
copy for a cipher, no operation to start, no entry for re-insertion, no notice, no frame in an egress queue, and no wake stands latched. -/
def State.quiet (s : State) : Bool :=
  (s.eth.ports.all fun x => x.2.oldMode.isNone) && (s.buf.ingress.all fun x => x.2.items.isEmpty) && s.buf.flush.isNone
    && (s.tm.ports.all fun x => x.2.queues.isEmpty) && (s.crypto.ops.all fun o => o.phase != 0) && s.route.lost.isEmpty
    && s.tm.noticeReady.isEmpty && !s.wake.latch && (s.buf.leastFree ≤ s.freeCells : Bool)

/-- The record of Table 1.8 stands at an offset of the event ring: the clock's nanoseconds and seconds, the source with its epoch, the code
and the three data fields. -/
def State.showsEvent (t s : State) (off src code d0 d1 d2 : Nat) : Prop :=
  t.winLe 0x1200 0 off 4 = s.clockNow.2 % 2 ^ 32 ∧ t.winLe 0x1200 0 (off + 4) 4 = s.clockNow.1 % 2 ^ 32
    ∧ t.winB 0x1200 0 (off + 8) = src % 256 ∧ t.winB 0x1200 0 (off + 9) = (if src < 0x80 then s.epoch src else 0)
    ∧ t.winLe 0x1200 0 (off + 10) 2 = code % 65536 ∧ t.winB 0x1200 0 (off + 12) = d0 % 256 ∧ t.winB 0x1200 0 (off + 13) = d1 % 256
    ∧ t.winLe 0x1200 0 (off + 14) 2 = d2 % 65536

end Sys2Proof.Machine
end

