-- ==== Sys2Proof/Clauses/Time.lean ====
section
/-! DEFINITION. Clauses about the commands of Chapters 12 and 13. -/

namespace Sys2Proof.Machine.Row

/-! ### Corrections (R317–R320) -/

/-- The time unit serves. -/
def timeUp (u : State) : Bool := u.awake && u.present 42

/-- A capture (R317): nanoseconds and seconds of device time, its fraction, and the step count. -/
def timeCapture (sess : Nat) : Clause :=
  asWrite (fun dt => .timeCapture dt sess) sess 0x7001 1 1
    (fun t => (((t.wr 0x7001 2 t.clockNow.2).wr 0x7001 3 (t.clockNow.1 % 2 ^ 32)).wr 0x7001 4
      (t.clockNow.1 / 2 ^ 32 % 2 ^ 16 + t.time.dev % 2 ^ 48 / 2 ^ 32 * 2 ^ 16)).wr 0x7001 5 (t.rd 0x7000 8)) fun t => t.present 42

/-- An apply of an offset and a rate (R319), taken from the scalars written before it. -/
def timeApply (sess : Nat) (offset : BitVec 64) (rate : BitVec 32) : Clause :=
  asStart (fun dt => .timeApply dt sess offset rate) sess [(0x7010, 1, offset.toNat), (0x7010, 2, rate.toNat)] 0x7010 3
    (fun t => t.applyTime offset.toInt rate.toInt)

/-- The slew ends (R319): the state is LOCKED, with event 0x00D3 of cause 0. -/
def slewEnd : Clause where
  cmd dt := .slewEnd dt
  pre u := timeUp u && u.timeState == tSlewing && u.time.slew == 0
  eff u := (u.setTimeState tLocked).endSlew 0

/-- Loss is declared (R320): the state is FREE, and a slew under way ends with cause 2. -/
def declareLoss (sess : Nat) : Clause :=
  asWrite (fun dt => .declareLoss dt sess) sess 0x7000 7 1
    (fun t => if t.timeState = tSlewing then (t.setTimeState tFree).endSlew 2 else t.setTimeState tFree) fun t => t.timeState != tFree

/-- No apply for the holdover limit (R320): HOLDOVER, and a slew under way ends with cause 1. -/
def holdoverTimeout : Clause where
  cmd dt := .holdoverTimeout dt
  pre u := timeUp u && (u.timeState == tLocked || u.timeState == tSlewing)
    && (u.time.applied + u.rdF 0x7000 5 15 0 * 1000000 ≤ u.now : Bool)
  eff u :=
    let t := (u.setTimeState tHoldover).withTime fun x => { x with holdSince := u.now }
    if u.timeState = tSlewing then t.endSlew 1 else t

/-- HOLDOVER lasts for the loss limit (R320): FREE. -/
def lossTimeout : Clause where
  cmd dt := .lossTimeout dt
  pre u := timeUp u && u.timeState == tHoldover && (u.time.holdSince + u.rdF 0x7000 6 11 0 * 1000000000 ≤ u.now : Bool)
  eff u := u.setTimeState tFree

/-! ### Pulses and triggers (R327–R330) -/

/-- A pulse is enabled (R327): Late reads 0, and its next edge is its start or, periodic, the first of its edges after now. -/
def pulseOn (sess : Nat) (n : Fin 16) (value : BitVec 32) : Clause :=
  asWrite (fun dt => .pulseEnable dt sess n value) sess (pulseObj n.val) 1 value.toNat
    (fun t =>
      let o := pulseObj n.val
      let v := t.wr o 1 value.toNat
      let first := if tb value.toNat 1 then pulseNext (v.pulseStart n.val) (v.rdF o 5 29 0) v.devNs else v.pulseStart n.val
      (v.wr o 7 0).setPulse n.val { v.pulse n.val with next := some first }) fun _ => tb value.toNat 0

/-- A pulse is disabled (R327). -/
def pulseOff (sess : Nat) (n : Fin 16) (value : BitVec 32) : Clause :=
  asWrite (fun dt => .pulseEnable dt sess n value) sess (pulseObj n.val) 1 value.toNat
    (fun t => (t.wr (pulseObj n.val) 1 value.toNat).setPulse n.val { (t.wr (pulseObj n.val) 1 value.toNat).pulse n.val with next := none })
    fun _ => !tb value.toNat 0

/-- A pulse's time has come (R327): the pin is driven for its width; a periodic pulse has its next edge a period later, a single one is
disabled. -/
def pulseEdge (n : Fin 16) : Clause where
  cmd dt := .pulseEdge dt n
  pre u := timeUp u && u.rdB (pulseObj n.val) 1 0 &&
    match (u.pulse n.val).next with
    | some t => (t ≤ u.devNs : Bool)
    | none => false
  eff u :=
    let o := pulseObj n.val
    let t := u.emit (.pulse n.val)
    if t.rdB o 1 1 then t.setPulse n.val ⟨(u.pulse n.val).next.map (· + t.rdF o 5 29 0), t.now + t.rdF o 6 29 0⟩
    else (t.setPulse n.val ⟨none, t.now + t.rdF o 6 29 0⟩).wrB o 1 0 false

/-- A trigger that follows device time drives the edge that is due (R329). -/
def triggerEdge (n : Fin 8) : Clause where
  cmd dt := .triggerEdge dt n
  pre u :=
    let o := trigObj n.val
    timeUp u && u.rdB o 1 0 && u.rdF o 2 29 0 != 0 && !u.rdB o 5 0
      && (trigDue (u.rdF o 2 29 0) (u.rdF o 3 29 0) (u.trig n.val).lastDev ≤ u.devNs : Bool)
  eff u := (u.trigFire n.val).setTrig n.val { (u.trigFire n.val).trig n.val with lastDev := (u.trigFire n.val).devNs }

/-- A trigger that runs on local time after a step drives its edge at the local instant set for it (R330). -/
def localTriggerEdge (n : Fin 8) : Clause where
  cmd dt := .triggerEdge dt n
  pre u :=
    let o := trigObj n.val
    timeUp u && u.rdB o 1 0 && u.rdF o 2 29 0 != 0 && u.rdB o 5 0 && !(u.trigFire n.val).rdB o 5 1 &&
      match (u.trig n.val).localNext with
      | some t => (t ≤ u.now : Bool)
      | none => false
  eff u :=
    match (u.trig n.val).localNext with
    | some t => (u.trigFire n.val).setTrig n.val
        { (u.trigFire n.val).trig n.val with localNext := some (t + (u.trigFire n.val).trigPeriod n.val) }
    | none => u

/-! ### Calendar and lifetime (R331–R334) -/

/-- While LOCKED the calendar takes device time at the first second of an hour, and at once while it is not valid (R331). -/
def calendarWrite : Clause where
  cmd dt := .calendarWrite dt
  pre u := timeUp u && u.timeState == tLocked && (u.time.dev / devSecond / 3600 != u.time.calHour || !u.calValid)
  eff u := (u.withTime fun t =>
    { t with cal := u.time.dev * 32768 / devSecond, calAt := u.now, calHour := t.dev / devSecond / 3600 }).wrB 0x7300 2 31 true

/-- VBKP comes back (R332): the calendar is not valid. -/
def vbkpRise : Clause where
  cmd dt := .vbkpRise dt
  pre u := u.alive
  eff u := (u.withTime fun t => { t with vbkp := true }).wrB 0x7300 2 31 false

/-- What a commit of the lifetime record stores (R333). -/
def lifeStored (u : State) : State :=
  let l := { u.time.live with generation := u.time.live.generation + 1, mramCommits := u.time.live.mramCommits + 1, lastDev := u.clockNow.1 }
  (u.withTime fun t => { t with live := l, stored := some l, lifeAt := u.now }).bump 0x7401 1 1

/-- The lifetime record is committed every 600 s (R333), but under a brown-out warning. -/
def lifetimeCommit : Clause where
  cmd dt := .lifetimeCommit dt
  pre u := u.awake && (u.time.lifeAt + 600000000000 ≤ u.now : Bool) && u.present 46 && !u.key.brownOut
  eff u := lifeStored u

/-- It is committed on command (R333). -/
def commitNow (sess : Nat) : Clause := asWrite (fun dt => .commitNow dt sess) sess 0x7401 2 1 lifeStored

/-- A junction temperature (R334): the extremes, and a thermal cycle at 80 °C once 20 °C has been seen since the last. -/
def thermalCycle (temp : Int) : Clause where
  cmd dt := .thermalCycle dt temp
  pre u := u.awake
  eff u := u.withTime fun t =>
    let hot := decide (800 ≤ temp) && t.thermalArmed
    { t with
      temp := temp, thermalArmed := if hot then false else if temp ≤ 200 then true else t.thermalArmed,
      live := { t.live with
        thermal := if hot then (t.live.thermal + 1) % 2 ^ 32 else t.live.thermal, high := max t.live.high temp, low := min t.live.low temp } }

/-! ### Oscillators and references (R338–R348) -/

/-- A count of IOSC in its range (R338): the eighth in a row qualifies it, with event 0x00E0. -/
def ioscGood (count : Fin 2048) : Clause where
  cmd dt := .ioscWindow dt count
  pre u := u.powered && !u.power.ioscOff && (1504 ≤ count.val : Bool) && (count.val ≤ 1696 : Bool)
  eff u :=
    let t := (u.wr 0x2001 4 count.val).withPower fun p => { p with ioscGood := p.ioscGood + 1, ioscBad := 0, ioscTold := p.ioscTold + 1 }
    if (u.wr 0x2001 4 count.val).rdB 0x2001 1 3 ∨ t.power.ioscGood < 8 then t
    else
      let t := ((t.wrB 0x2001 1 3 true).wrB 0x2001 1 5 false).event 0x80 0xE0 1 0 (min 65535 t.power.ioscTold)
      if t.power.lost.isSome then t.abandonXtal 2 else t.selectReference

/-- A count outside it (R338): the second in a row fails a qualified IOSC. -/
def ioscBad (count : Fin 2048) : Clause where
  cmd dt := .ioscWindow dt count
  pre u := u.powered && !u.power.ioscOff && ((count.val < 1504 : Bool) || (1696 < count.val : Bool))
  eff u :=
    let t := (u.wr 0x2001 4 count.val).withPower fun p => { p with ioscGood := 0, ioscBad := p.ioscBad + 1, ioscTold := p.ioscTold + 1 }
    if (u.wr 0x2001 4 count.val).rdB 0x2001 1 3 ∧ 2 ≤ t.power.ioscBad then t.ioscFails else t

/-- A failed IOSC is tried again after 1 s (R338). -/
def ioscRequalify : Clause where
  cmd dt := .ioscRequalify dt
  pre u := u.powered && u.rdB 0x2001 1 5 && (u.power.ioscTry + 1000000000 ≤ u.now : Bool)
  eff u := u.withPower fun p => { p with ioscTry := u.now, ioscGood := 0, ioscBad := 0, ioscTold := 0 }

/-- A count of XTAL within its tolerance while IOSC is qualified (R339): the eighth in a row qualifies it, with event 0x00E0, and the part
may return to it. -/
def xtalGood (count : Fin 512) : Clause where
  cmd dt := .xtalWindow dt count
  pre u := u.powered && u.rdB 0x2001 1 3 && u.clockOn 2 u.mode
    && (ceilDiv (256 * (1000 - u.rdF 0x2002 1 6 0)) 1000 ≤ count.val : Bool) && (count.val ≤ 256 * (1000 + u.rdF 0x2002 1 6 0) / 1000 : Bool)
  eff u :=
    let t := (u.wr 0x2001 3 count.val).withPower fun p => { p with xtalGood := p.xtalGood + 1, xtalBad := 0, xtalTold := p.xtalTold + 1 }
    (if (u.wr 0x2001 3 count.val).rdB 0x2001 1 2 ∨ t.power.xtalGood < 8 then t
     else (t.wrB 0x2001 1 2 true).event 0x80 0xE0 2 0 (min 65535 t.power.xtalTold)).autoReturn

/-- The reference selection (R342): the part moves to a qualified reference that is selected. -/
def referenceSelect (sess : Nat) (value : BitVec 32) : Clause :=
  asWrite (fun dt => .referenceSelect dt sess value) sess 0x2002 2 value.toNat fun t => (t.wr 0x2002 2 value.toNat).selectReference

/-- A clock's enables are written (R341): the one of the present power state acts at once. -/
def clockEnableWrite (sess : Nat) (clock : Fin 10) (value : Byte) : Clause :=
  asRecord (fun dt => .clockEnableWrite dt sess clock value) sess 0x2003 1 clock.val [value] fun t =>
    (t.setWin 0x2003 1 clock.val [value]).clockWritten clock.val (byteAt (t.viewBytes 0x2003 1 1 clock.val 1) 0)

/-- A clock monitor trips (R338, R343, R346): counted in 0x2001:05, and XTAL, IOSC, SREF or the PCIe reference is lost. -/
def lossOfClock (clock : Fin 10) : Clause where
  cmd dt := .lossOfClock dt clock
  pre u := u.powered && ((clock.val == 1 && !u.power.ioscOff)
    || ((clock.val == 2 || clock.val == 3 || clock.val == 9) && u.clockOn clock.val u.mode))
  eff u :=
    let t := u.bump 0x2001 5 1
    if clock.val = 2 then t.xtalStops else if clock.val = 1 then t.ioscFails else if clock.val = 3 then t.srefStops else t.pcieStops

/-- The PLLs of the clock domains lock to IOSC after an XTAL stop (R343): their locks, event 0x00E1, the count, the domains restart, and
accuracy is reduced. -/
def pllsLocked (clock : Fin 10) : Clause where
  cmd dt := .pllLocked dt clock
  pre u := u.powered && clock.val != 9 && u.power.lost.isSome && u.reference == 2
  eff u :=
    match u.power.lost with
    | none => u
    | some l =>
      let n := (((List.range 5).map (· + 4)).filter fun k => u.clockOn k u.mode).length
      let t := u.withPower fun p => { p with lost := none }
      let t := ((t.wr 0x2001 2 (t.lockBits t.mode)).event 0x80 0xE1 l.clock l.how (min 65535 (ceilDiv (t.now - l.at_) 1000))).bump 0x2001 7 n
      (t.forEach u.pllDomains State.restartDomain).reduceAccuracy

/-- The PCIe PLL locks again (R346): event 0x00E1, and carriage 41 restarts. -/
def pciePllLocked : Clause where
  cmd dt := .pllLocked dt 9
  pre u := u.powered && u.power.pcieLost
  eff u :=
    let us := ceilDiv (u.now - u.power.pcieAt) 1000
    let t := u.withPower fun p => { p with pcieLost := false }
    (((t.wr 0x2001 2 (t.lockBits t.mode)).event 0x80 0xE1 9 1 (min 65535 us)).bump 0x2001 7 1).restartDomain 41

/-- IOSC does not qualify within 200 µs of an XTAL stop (Table 13.3): event 0x00E1 and STANDSTILL. -/
def fallbackTimeout : Clause where
  cmd dt := .fallbackTimeout dt
  pre u := u.powered && u.reference == 1 &&
    match u.power.lost with
    | some l => l.how == 0 && (l.at_ + 200000 ≤ u.now : Bool)
    | none => false
  eff u :=
    let t := u.event 0x80 0xE1 2 3 0
    { t with mode := .standstill }.withPower fun p => { p with faultN := true, cause := 2, ens := setFld p.ens 4 2 0, lost := none }

/-- AOSC stops while IOSC runs (R348): the part stops, with FAULT_N and cause 3. -/
def aoscFailure : Clause where
  cmd dt := .aoscFailure dt
  pre u := u.powered && !u.power.ioscOff
  eff u := { u with mode := .stopped }.withPower fun p => { p with faultN := true, cause := 3 }

/-! ### Power states (R349–R351) -/

/-- Power command 1: SLEEP. -/
def sleepCommand (sess : Nat) : Clause := asWrite (fun dt => .sleepCommand dt sess) sess 0x2005 2 1 State.enterSleep

/-- Power command 2 arms the sleep sequence (R377). -/
def deepSleepCommand (sess : Nat) : Clause :=
  asWrite (fun dt => .deepSleepCommand dt sess) sess 0x2005 2 2 fun t =>
    t.withWake fun w => { w with latch := false, errors := [], partial_ := [], seqAt := some t.now }

/-- Power command 3: the ledgers commit, every carriage goes down, the rails and PHOLD drop (R351). -/
def offCommand (sess : Nat) : Clause :=
  asWrite (fun dt => .offCommand dt sess) sess 0x2005 2 3 fun t =>
    let v := t.powerCommits.forEach carriages (State.downCarriage · false)
    { v with mode := .off }.withPower fun p => { p with ens := 0, goods := 0, todo := [], phold := false, pholdAt := v.now }

/-- Power command 4 is a wake of kind 8 (Table 14.2). -/
def runCommand (sess : Nat) : Clause := asWrite (fun dt => .runCommand dt sess) sess 0x2005 2 4 fun t => t.latchWake 8 0xFF 0 []

/-- VAON is there 100 ms after PHOLD was released (R351): the part is in DEEP_SLEEP. -/
def pholdReleaseTimeout : Clause where
  cmd dt := .pholdReleaseTimeout dt
  pre u := u.mode == .off && (u.power.pholdAt + 100000000 ≤ u.now : Bool)
  eff u := { u with mode := .deepSleep }.wr 0x2005 1 2

/-! ### Regulators (R352–R357) -/

/-- A supply-good rises (R352): its rails read good, and the sequence goes on behind the rail it waits for; the last rail of a wake ends
DEEP_SLEEP (R382). -/
def supplyGoodRise (pg : Fin 8) : Clause where
  cmd dt := .supplyGoodRise dt pg
  pre u := u.powered && !u.power.halted && !u.power.dead
  eff u :=
    let ups := (List.range 8).filter fun k => u.regulator k 1 1 == pg.val && tb u.power.ens k
    let t := u.withPower fun p => { p with goods := ups.foldl (fun g k => setBit g k true) p.goods }
    (match t.power.todo with
     | [] => t
     | k :: rest => if t.regulator k 1 1 = pg.val then t.raiseNext rest else t).leaveDeepSleep

/-- An external rail misses its timeout (R353): event, and its fallback, and the sequence goes on. -/
def externalTimeout : Clause where
  cmd dt := .sequencingTimeout dt
  pre u := u.powered && !u.power.halted && !u.power.dead &&
    match u.power.todo with
    | [] => false
    | k :: _ => (5 ≤ k : Bool) && (u.power.stepAt + u.regulator k 6 2 * 1000000 ≤ u.now : Bool)
  eff u :=
    match u.power.todo with
    | [] => u
    | k :: rest =>
      let t := u.supplyEvent k 1 0
      (if t.regulator k 8 1 = 1 then t.drive k false else t).raiseNext rest

/-- A core rail misses its timeout (R352): every rail drops, and the sequence is tried again after 100 ms; the third time the part stays
off with FAULT_N. -/
def coreTimeout : Clause where
  cmd dt := .sequencingTimeout dt
  pre u := u.powered && !u.power.halted && !u.power.dead &&
    match u.power.todo with
    | [] => false
    | k :: _ => (k < 5 : Bool) && (u.power.stepAt + u.regulator k 6 2 * 1000000 ≤ u.now : Bool)
  eff u :=
    match u.power.todo with
    | [] => u
    | k :: _ =>
      let t := (u.supplyEvent k 1 0).withPower fun p => { p with ens := 0, goods := 0, todo := [], fails := p.fails + 1 }
      if 3 ≤ t.power.fails then t.withPower fun p => { p with dead := true, faultN := true, cause := 4 }
      else t.withPower fun p => { p with retryAt := some (t.now + 100000000) }

/-- The sequence starts again after its wait (R352). -/
def sequenceRetry : Clause where
  cmd dt := .sequenceRetry dt
  pre u := u.powered && !u.power.halted &&
    match u.power.retryAt with
    | some t => (t ≤ u.now : Bool)
    | none => false
  eff u := u.startSequence

/-- A supply-good is low for more than 10 µs (R354): each of its rails that was good fails with code 2. -/
def supplyGoodLost (pg : Fin 8) (ns : Nat) : Clause where
  cmd dt := .supplyGoodLost dt pg ns
  pre u := u.powered && (10000 < ns : Bool) && !u.power.halted
  eff u := u.forEach ((List.range 8).filter fun k => u.regulator k 1 1 == pg.val && tb u.power.goods k) fun t k =>
    (t.withPower fun p => { p with goods := setBit p.goods k false }).supplyFault k 2 0

/-- Readings of the PMBus rails (R355), one after the other. -/
def pmbusPoll (l : List PmbusRead) : Clause where
  cmd dt := .pmbusPoll dt l
  pre u := u.powered && !u.power.halted
  eff u := u.forEach l State.pmbusRead

/-- A PMBus rail asserts its alert (R355): its STATUS_WORD is kept, and a fault in it fails the rail with code 3. -/
def pmbusAlert (rail : Fin 8) (status : BitVec 16) : Clause where
  cmd dt := .pmbusAlert dt rail status
  pre u := u.powered && !u.power.halted && tb (u.regulator rail.val 0 1) 2
  eff u :=
    let t := u.setWin 0x2006 2 (8 * rail.val + 6) (leBytes 2 status.toNat)
    if status.toNat % 65536 / 4 ≠ 0 then t.supplyFault rail.val 3 (status.toNat % 65536) else t

/-- VFAB is lost (R357): event, brown-out warning, carriages 0–31 go down. -/
def vfabFault : Clause where
  cmd dt := .vfabFault dt
  pre u := u.awake && !u.power.halted && u.power.vfabAt.isNone
  eff u :=
    let t := ((u.supplyEvent 2 4 0).brownOut).withPower fun p => { p with vfabAt := some u.now }
    let t := t.forEach (List.range 32) (State.downCarriage · false)
    let t := t.forEach ((List.range 32).filter fun n => t.power.slept.contains n) fun t n => t.setCar n stFenced
    if tb (t.regulator 2 0 1) 2 then (t.emit (.pmbus 2 1 0)).emit (.pmbus 2 1 0x80) else t

/-- VFAB is back for 1 ms (R357): the carriages come back, the warning ends. -/
def vfabBack : Clause where
  cmd dt := .vfabRecoveryTimeout dt true
  pre u := u.awake &&
    match u.power.vfabAt with
    | some t => (t + 1000000 ≤ u.now : Bool)
    | none => false
  eff u :=
    let t := u.withPower fun p => { p with vfabAt := none }
    let t := t.forEach ((List.range 32).filter fun n => t.carState n == stFenced && t.power.slept.contains n) (State.upCarriage · false)
    (t.withKey fun k => { k with brownOut := false }).reloadSetPoint

/-- VFAB stays away for 10 ms (R357): STANDSTILL. -/
def vfabAway : Clause where
  cmd dt := .vfabRecoveryTimeout dt false
  pre u := u.awake &&
    match u.power.vfabAt with
    | some t => (t + 10000000 ≤ u.now : Bool)
    | none => false
  eff u := { u with mode := .standstill }.withPower fun p =>
    { p with faultN := true, cause := 2, ens := setFld p.ens 4 2 0, lost := none }

end Sys2Proof.Machine.Row
end

