-- ==== Sys2Proof/Clauses/Wake.lean ====
section
/-! DEFINITION. Clauses about the commands of Chapters 14, 15 and 20. -/

namespace Sys2Proof.Machine.Row

/-! ### Wake decoders and pins (R361–R369) -/

/-- A whole pattern of phases clear of the filter, within its time (R363): the wake of a C channel is latched, for the domains of the
channel. -/
def canWakePattern (c : Fin 72) (dom1 rec_ dom2 : Nat) : Clause where
  cmd dt := .canWakePattern dt c dom1 rec_ dom2
  pre u :=
    let f := u.rdF 0x2070 1 5 0 * 100
    u.alive && u.patternMode c.val && dom1 != 0 && dom2 != 0 && (11 * f < 10 * dom1 : Bool) && (11 * f < 10 * rec_ : Bool)
      && (11 * f < 10 * dom2 : Bool) && (u.now - dom2 + f ≤ u.now - (dom1 + rec_ + dom2) + u.rdF 0x2070 1 21 8 * 1000 : Bool)
  eff u :=
    let t := u.withWake fun w => { w with partial_ := mapDel w.partial_ c.val }
    t.latchWake 0 (64 + c.val) 0 (t.domainsOf (64 + c.val))

/-- A pattern that stops before its last phase is kept as begun (R363). -/
def partialPattern (c : Fin 72) (dom1 rec_ : Nat) : Clause where
  cmd dt := .canWakePattern dt c dom1 rec_ 0
  pre u :=
    let f := u.rdF 0x2070 1 5 0 * 100
    u.alive && u.patternMode c.val && dom1 != 0 && (11 * f < 10 * dom1 : Bool) && (11 * f < 10 * rec_ : Bool)
  eff u := (u.withWake fun w => { w with partial_ := mapDel w.partial_ c.val }).withWake fun w =>
    { w with partial_ := mapSet w.partial_ c.val (u.now - (dom1 + rec_ + 0)) }

/-- A begun pattern is given up after the wake timeout (R363). -/
def wakePatternTimeout (c : Fin 72) : Clause where
  cmd dt := .wakePatternTimeout dt c
  pre u := u.alive &&
    match mapGet u.wake.partial_ c.val with
    | some t => (t + u.rdF 0x2070 1 21 8 * 1000 ≤ u.now : Bool)
    | none => false
  eff u := u.withWake fun w => { w with partial_ := mapDel w.partial_ c.val }

/-- A good frame at a decoder of wake mode 2 (R364, R365): its error count falls, and a frame that the record selects is latched as a wake
with its header. -/
def wakeFrame (c : Fin 72) (bs : List Byte) : Clause where
  cmd dt := .wakeFrame dt c bs
  pre u := u.alive && u.decodes c.val && u.wakeMode c.val == 2 && u.xtalRuns
  eff u :=
    let t := u.decGood c.val
    if t.wakeMatch c.val bs then t.latchWake 1 (64 + c.val) (beAt bs 0 4) (t.domainsOf (64 + c.val)) else t

/-- A frame with an error at a decoder (R365): its error count rises; at 32 a wake of kind 2 is latched, with event 0x00F3. -/
def decoderError (c : Fin 72) : Clause where
  cmd dt := .decoderError dt c true
  pre u := u.alive && u.decodes c.val && u.wakeMode c.val == 2 && u.xtalRuns
  eff u :=
    let n := u.decErrors c.val + 1
    let t := u.withWake fun w => { w with errors := mapPut 0 w.errors c.val n }
    if n = 32 then (t.latchWake 2 (64 + c.val) 0 (t.domainsOf (64 + c.val))).event 0x81 0xF3 (64 + c.val) 1 0 else t

/-- A dominant level of 150 µs on an L channel in wake mode 1 (R366): latched; a responder leaves its Listen levels. -/
def linDominantWake (l : Fin 24) (ns : Nat) : Clause where
  cmd dt := .linDominantWake dt l ns
  pre u := u.alive && (150000 ≤ ns : Bool) && u.decodes (72 + l.val) && u.wakeMode (72 + l.val) == 1
    && (u.modCh (72 + l.val) fun x => { x with quiet := false, lastBus := u.now }).decodes (72 + l.val)
    && (u.modCh (72 + l.val) fun x => { x with quiet := false, lastBus := u.now }).wakeMode (72 + l.val) == 1
  eff u :=
    let c := 72 + l.val
    let t := if u.mode = .run ∧ (u.ch c).quiet then u.modCh c fun x => { x with quiet := false, lastBus := u.now } else u
    t.latchWake 3 (64 + c) 0 (t.domainsOf (64 + c))

/-- Activity clear of the filter on a T1S segment whose record is enabled, while the port sleeps (R367): latched. -/
def t1sActivityWake (k : Fin 16) (ns : Nat) : Clause where
  cmd dt := .t1sActivityWake dt k ns
  pre u := u.alive && (u.mode == .sleep || u.mode == .deepSleep || u.mode == .standstill || u.listens (28 + k.val) || u.wake.seqAt.isSome)
    && u.winB 0x2072 0 (4 * k.val) % 2 != 0 && !(10 * ns < 9 * (u.winB 0x2072 0 (4 * k.val + 1) * 1000) : Bool)
    && (11 * (u.winB 0x2072 0 (4 * k.val + 1) * 1000) < 10 * ns : Bool)
  eff u := u.latchWake 4 (28 + k.val) 0 (u.domainsOf (28 + k.val))

/-- A WAKE pin's level holds past its filter (R368): it reads so, and an edge that its record selects is latched, for its domains. -/
def wakePinEdge (pin : Fin 8) (level : Bool) (ns : Nat) : Clause where
  cmd dt := .wakePinEdge dt pin level ns
  pre u := u.alive && tb u.wake.pins pin.val != level && !(10 * ns < 9 * (u.winLe 0x2073 0 (16 * pin.val + 2) 2 * 1000) : Bool)
    && (11 * (u.winLe 0x2073 0 (16 * pin.val + 2) 2 * 1000) < 10 * ns : Bool)
  eff u :=
    let b := u.winB 0x2073 0 (16 * pin.val)
    let t := u.withWake fun w => { w with pins := setBit w.pins pin.val level }
    if (level && tb b 0) || (!level && tb b 1) then t.latchWake 5 pin.val 0 (maskList 64 (t.winLe 0x2073 0 (16 * pin.val + 4) 8)) else t

/-! ### Domains (R372–R375) -/

/-- A keep-alive of a domain (R372, R373): counted, its timer restarts, and a domain in PREPARE or ASLEEP is READY. -/
def keepAliveReceived (d : Fin 64) (port : Fin 160) (bytes : List Byte) : Clause where
  cmd dt := .keepAliveReceived dt d port bytes
  pre u := u.inRun && portOk port.val && u.isKeepAlive d.val port.val bytes && u.present 43
  eff u :=
    let t := (u.bumpWin 0x2082 0 (8 * d.val + 4) 4 1).modDom d.val fun x => { x with alive := u.now }
    (if t.domState d.val = 3 ∨ t.domState d.val = 4 then t.setDom d.val 2 else t).wakeLin (u.listeners [d.val]) (some port.val)

/-- READY without a keep-alive for the timeout (R372): PREPARE. -/
def keepAliveTimeout (d : Fin 64) : Clause where
  cmd dt := .keepAliveTimeout dt d
  pre u := u.inRun && u.nmRuns && u.domState d.val == 2 && ((u.dom d.val).alive + u.domRec d.val 2 2 * 1000000 ≤ u.now : Bool)
  eff u := (u.setDom d.val 3).modDom d.val fun x => { x with prepareAt := u.now }

/-- The prepare time passes (R372): ASLEEP, and the LIN members that no other domain holds awake are put to sleep. -/
def prepareTimeout (d : Fin 64) : Clause where
  cmd dt := .prepareTimeout dt d
  pre u := u.inRun && u.nmRuns && u.domState d.val == 3 && ((u.dom d.val).prepareAt + u.domRec d.val 6 2 * 1000000 ≤ u.now : Bool)
  eff u := (u.setDom d.val 4).sleepLin d.val

/-- AWAKE, every send period (R374): the templates leave on every member. -/
def sendPeriod (d : Fin 64) : Clause where
  cmd dt := .sendPeriod dt d
  pre u := u.inRun && u.nmRuns && u.domState d.val == 1 && ((u.dom d.val).sentAt + u.domRec d.val 4 2 * 1000000 ≤ u.now : Bool)
  eff u := u.sendTemplates d.val

/-- AWAKE without a local request once the wake hold has passed (R372): READY. -/
def wakeHoldExpiry (d : Fin 64) : Clause where
  cmd dt := .wakeHoldExpiry dt d
  pre u := u.inRun && u.nmRuns && u.domState d.val == 1 && !u.localReq d.val && ((u.dom d.val).holdAt ≤ u.now : Bool)
  eff u := u.setDom d.val 2

/-- Byte 0 of a domain's record written with a bit set or cleared (R372): the domain follows it. -/
def domainBit (cmd : Nat → Instr) (sess : Nat) (d : Fin 64) (b : Nat) (v : Bool) : Clause where
  cmd := cmd
  pre u := u.serves sess 0x2080 && ((u.write sess ((u.roleOf sess).getD 0) 0x2080 0 (32 * d.val) (leBytes 1 (setBit (u.domRec d.val 0 1) b v))).1 == 0)
  eff u := (u.write sess ((u.roleOf sess).getD 0) 0x2080 0 (32 * d.val) (leBytes 1 (setBit (u.domRec d.val 0 1) b v))).2.emit (.answer sess 0 [])

/-- The local request is set (R372). -/
def localRequest (sess : Nat) (d : Fin 64) : Clause := domainBit (fun dt => .localRequest dt sess d) sess d 1 true

/-- It is cleared (R372). -/
noncomputable def localRequestClear (sess : Nat) (d : Fin 64) : Clause := domainBit (fun dt => .localRequestClear dt sess d) sess d 1 false

/-- NM is enabled (R372). -/
def nmEnable (sess : Nat) (d : Fin 64) : Clause := domainBit (fun dt => .nmEnable dt sess d) sess d 0 true

/-! ### The sleep sequence (R377–R381) -/

/-- Every NM domain is ASLEEP and no local wake stands (R377): the sequence begins, with the wake latch clear. -/
def sleepSequenceStart : Clause where
  cmd dt := .sleepSequenceStart dt
  pre u := u.inRun && u.wake.seqAt.isNone && u.mayAgree
  eff u := u.withWake fun w => { w with latch := false, errors := [], partial_ := [], seqAt := some u.now }

/-- Quiescing ends after the commit point (R378–R381): the lifetime record is committed, frames are discarded, every carriage goes down,
and the part is in DEEP_SLEEP with its rails off. -/
def sleepQuiesceDone : Clause where
  cmd dt := .sleepQuiesceDone dt
  pre u := u.awake && u.committed
  eff u :=
    let t := u.withWake fun w => { w with seqAt := none }
    let fall := (List.range 72).filter fun c => t.wakeMode c == 2 && !t.clockOn 2 .deepSleep
    let t := t.lifeCommit.discardFrames.forEach carriages (State.downCarriage · true)
    let t := (t.forEach fall fun t c => t.event 0x81 0xF3 (64 + c) 2 0).enterMode .deepSleep
    (t.clearEvents.withPower fun p => { p with ens := 0, goods := 0, todo := [], ioscOff := true }).wrB 0x2001 1 3 false

/-! ### Control pairs and firmware (R383–R397) -/

/-- A mismatch of a pair in service, below three in an hour (R385): the pair restarts, with event 0x0100. -/
def lockstepMismatch (pair : Fin 3) (channel : Fin 5) : Clause where
  cmd dt := .lockstepMismatch dt pair channel
  pre u :=
    let n := pairCarriage pair
    let t := (u.noteMismatch n)
    let t := if channel.val = 4 then t.bump 0x2030 6 1 else t
    u.awake && u.present n && !u.rdB 0x2030 (pairSub n) 1 && (t.recentMismatches n < 3 : Bool)
  eff u :=
    let n := pairCarriage pair
    let t := u.noteMismatch n
    let t := if channel.val = 4 then t.bump 0x2030 6 1 else t
    (t.restart n 0 0).event n 0x100 (channel.val + 1) (min (t.recentMismatches n) 255) 0

/-- A mismatch of the power sequencer (R388): event 0x0100; the third halts it with FAULT_N. -/
def sequencerMismatch (channel : Fin 5) : Clause where
  cmd dt := .sequencerMismatch dt channel
  pre u := u.powered && !u.power.halted
  eff u :=
    let t := u.noteMismatch 128
    let t := if channel.val = 4 then t.bump 0x2030 6 1 else t
    let v := t.event 0x80 0x100 (channel.val + 1) (min (t.recentMismatches 128) 255) 0
    if 3 ≤ t.recentMismatches 128 then { v with power := { v.power with halted := true, faultN := true } } else v

/-- The word of a firmware action. -/
def fwWords (act : Nat) (cover : Bool) : List (Nat × Nat × Nat) := [(0x1F00, 1, act + 256 * cover.toNat)]

/-- An erase of the inactive slot begins (R392): status 1. -/
def fwErase (sess : Nat) : Clause :=
  asStart (fun dt => .fwErase dt sess) sess (fwWords 1 false) 0x1F00 2
    (fun t => ((t.wr 0x1F00 2 1).fwReport 1 (t.rdF 0x1F00 3 15 8)).withCtl fun c =>
      { c with action := some ⟨1, 0, t.inactiveSlot, false, t.now⟩ }) fun t => t.ctl.action.isNone

/-- The image of the inactive slot is checked (R390): its status. -/
def fwCheck (sess : Nat) : Clause :=
  asStart (fun dt => .fwCheck dt sess) sess (fwWords 2 false) 0x1F00 2
    (fun t => t.fwReport (t.checkImage t.inactiveSlot) (t.rdF 0x1F00 3 15 8)) fun t => t.ctl.action.isNone

/-- A good image is activated (R393): the keys are resealed for it, the trial begins with three starts, and the pairs restart one after the
other. -/
def fwActivate (sess : Nat) (cover : Bool) : Clause :=
  asStart (fun dt => .fwActivate dt sess cover) sess (fwWords 3 cover) 0x1F00 2
    (fun t =>
      let k := t.inactiveSlot
      let v := (t.keyReseal 0 (t.measureSlot k)).2.withCtl fun c => { c with trial := some k, starts := 3 }
      (v.wr 0x1F00 2 1).stepPair ⟨3, 43, k, v.rdB 0x1F00 1 8, v.now⟩ [43, 44, 45])
    fun t => t.ctl.action.isNone && t.checkImage t.inactiveSlot == 0

/-- A trial is confirmed (R392): its slot is the confirmed one, the floor rises to its version, the migration closes, and event 0x0104. -/
def fwConfirm (sess : Nat) : Clause :=
  asStart (fun dt => .fwConfirm dt sess) sess (fwWords 4 false) 0x1F00 2 State.fwConfirm fun t => t.ctl.action.isNone && t.inTrial

/-- A trial is given up (R392): the pairs restart with the confirmed slot. -/
def fwRevert (sess : Nat) (cover : Bool) : Clause :=
  asStart (fun dt => .fwRevert dt sess cover) sess (fwWords 5 cover) 0x1F00 2
    (fun t =>
      let v := (t.wr 0x1F00 2 1).stepPair ⟨5, 43, t.ctl.confirmed, t.rdB 0x1F00 1 8, t.now⟩ [43, 44, 45]
      match v.ctl.action with
      | some c => if c.step = 46 then v.fwFinish c else v
      | none => v) fun t => t.ctl.action.isNone && t.inTrial

/-- An erase ends (R392): the slot is erased with status 0, or a flash error is status 9. -/
noncomputable def fwEraseDone (ok : Bool) : Clause where
  cmd dt := .fwEraseDone dt ok
  pre u := u.awake &&
    match u.ctl.action with
    | some a => a.act == 1
    | none => false
  eff u :=
    match u.ctl.action with
    | some a =>
      (if ok then u.withCtl fun c => { c with flash := mapSet c.flash a.slot ⟨true, [], []⟩ } else u).fwEnd (if ok then 0 else 9) (u.rdF 0x1F00 3 15 8)
    | none => u

/-- A record of the inactive slot is written (R392). -/
def fwSlotRecordWrite (sess : Nat) (rec_ : Fin 524288) (r : List Byte) : Clause :=
  asRecord (fun dt => .fwSlotRecordWrite dt sess rec_ r) sess 0x1F01 0 rec_.val r fun t => t.flashWrite rec_.val r

/-- A restarted pair ends its start with a test passed (R387): its slot and channels are shown, it is PRESENT, its partner channel joins,
and a firmware action goes on. -/
def pairPresent (pair : Fin 3) (bit us : Nat) (joinPass : Bool) : Clause where
  cmd dt := .pairPresent dt pair true bit us joinPass
  pre u := u.awake && u.startup.measured && u.ctl.action.isNone &&
    match u.seqOf (pairCarriage pair) with
    | some q => q.phase == .acting
    | none => false
  eff u :=
    let n := pairCarriage pair
    match u.seqOf n with
    | none => u
    | some q =>
      let t := if n = 45 then u else (u.wrF 0x2030 (pairSub n) 4 3 3).event n 0x102 0 bit us
      let t := (t.wrF 0x2030 (pairSub n) 0 0 (t.restartSlot n)).wrF 0x2030 (pairSub n) 4 3 3
      ((t.returnSeq n q.reason []).joinPair n joinPass bit us).fwAdvance n

/-- A pair has not come back 250 ms after its fence (R387): it fails. -/
def pairStartTimeout (pair : Fin 3) : Clause where
  cmd dt := .pairStartTimeout dt pair
  pre u := u.awake && u.ctl.action.isNone &&
    match u.seqOf (pairCarriage pair) with
    | some q => q.phase == .acting && (q.since + 250000000 ≤ u.now : Bool)
    | none => false
  eff u := u.failPair (pairCarriage pair) 3

/-! ### Start-up (Chapter 20) -/

/-- A BIST group ends (R473–R475): its carriages' results. -/
def bistGroupEnd (res : List (Nat × Nat × Nat × Nat × Nat)) : Clause where
  cmd dt := .bistGroupEnd dt res
  pre u := u.inRun && (u.startup.groups < 6 : Bool) && u.power.todo == []
  eff u :=
    let g := u.startup.groups + 1
    let t := u.forEach (carriages.filter fun n => bistGroup n == g) fun t n =>
      let x := mapGetD res n (0, 0, 0xFF, 0)
      t.bistOne n (x.1 % 4) (x.2.1 % 4) x.2.2.1 x.2.2.2
    let t := { t with startup := { t.startup with groups := g } }
    if g = 2 then (if t.present 42 then t.startClock else t) else if g = 3 then t.bistBank else t

/-- The firmware is measured (R477–R479). -/
def bootMeasurementDone (station signal : Bool × Nat × Nat) : Clause where
  cmd dt := .bootMeasurementDone dt station signal
  pre u := u.inRun && !u.startup.measured && u.startup.groups != 0 && u.life != 5 && u.carState 45 != stFailed && u.carState 46 != stFailed
  eff u :=
    let r := (u.withKey fun k => { k with fuses := completeFuses k.fuses }).selectSlot
    let t := r.2
    let t := if t.fwStatus r.1 = 0 then t.releasePairs r.1 false
      else if t.fwStatus (1 - r.1) = 0 then t.releasePairs (1 - r.1) true else t.standstill
    if t.mode ≠ .run ∨ t.rdF 0xF000 2 6 4 = 2 then t else (t.bootTest 43 station).bootTest 44 signal

/-- The forwarding point (R480): the image is applied, forwarding begins with event 0x0140, and the NM domains start. -/
def forwardingPoint : Clause where
  cmd dt := .forwardingPoint dt
  pre u := u.inRun && !u.startup.forwarding && u.startup.measured && (6 ≤ u.startup.groups : Bool) && u.present 45
  eff u :=
    let t := u.startImage
    let us := (t.now - t.startup.begun) / 1000
    let failed := t.rdF 0xF000 5 7 0
    let t := { t with startup := { t.startup with forwarding := true, forwardAt := t.now } }
    let t := if t.gwOn then t.gwEnable else t
    let t := match t.startup.failedBank with
      | some n => t.event n 0x32 n 10 t.sparesLeft
      | none => t
    let t := (t.wr 0xF000 1 (us % 2 ^ 32)).event 0x80 0x140 (t.rdF 0xF000 2 6 4) failed (min 65535 (us / 10))
    let t := t.startDomains
    if t.frozen then t.freeze else t

/-- 100 ms after it start-up is complete (R482): Complete reads 1, with event 0x0141. -/
def startupComplete : Clause where
  cmd dt := .startupComplete dt
  pre u := u.inRun && u.startup.forwarding && !u.rdB 0xF000 2 3 && (u.startup.forwardAt + 100000000 ≤ u.now : Bool)
  eff u := (u.wrB 0xF000 2 3 true).event 0x80 0x141 0 0 0

end Sys2Proof.Machine.Row
end

