-- ==== Sys2Proof/WellFormed.lean ====
section
/-! DEFINITION. Which commands are well formed. Every operand type rules out what its range does not hold; a port operand
(Fin 160) also has to name a port index that exists (R7, Table 0.3). Nothing else of a command can be ill formed: a session,
address or value out of range is answered by the part itself with an abort code. -/

namespace Sys2Proof

/-- A command is well formed. -/
def Instr.wf : Instr → Bool
  | .dictionaryWrite _ _ _ _ _ _ => true
  | .headroomWindowEnd _ _ => true
  | .resetMinima _ _ => true
  | .latencyProbeArm _ _ => true
  | .wholeSecondStart _ => true
  | .couplingRequest _ _ _ _ _ => true
  | .couplingAcknowledge _ _ _ _ _ => true
  | .carriageReset _ _ _ => true
  | .carriagePowerDown _ _ _ => true
  | .carriagePowerUp _ _ _ => true
  | .carriageSelfTest _ _ _ => true
  | .swapToSpare _ _ _ _ => true
  | .retireRouteBank _ _ _ => true
  | .returnRouteBank _ _ _ => true
  | .drainComplete _ _ => true
  | .drainLimitExpiry _ _ => true
  | .carriageActionEnd _ _ _ _ => true
  | .queuedSequenceStart _ => true
  | .correctedError _ _ _ => true
  | .errorCountDecay _ => true
  | .cellBankCopyEnd _ _ => true
  | .edgeSwapCopyEnd _ _ _ => true
  | .edgeSwapIntegrated _ _ _ => true
  | .retirementShuntEnd _ _ => true
  | .selfTestSlot _ => true
  | .selfTestEnd _ _ => true
  | .queueItemWrite _ port _ _ => Machine.portOk port
  | .queuePop _ port => Machine.portOk port
  | .ethernetFrameEnd _ _ _ _ _ _ _ _ _ => true
  | .cutThroughRelease _ port _ => Machine.portOk port
  | .queueFlush _ _ _ _ => true
  | .flushDeferredEffect _ => true
  | .ageSweep _ _ => true
  | .waitingCopyTaken _ port => Machine.portOk port
  | .resetLeastFree _ _ => true
  | .entryReadByKey _ _ _ _ => true
  | .entryInsert _ _ _ _ => true
  | .entryDelete _ _ _ _ => true
  | .entryReadBySlot _ _ _ _ _ _ => true
  | .shuntMove _ => true
  | .learningRequest _ _ _ => true
  | .clearLog _ _ _ => true
  | .ageingScanVisit _ _ _ _ _ _ => true
  | .portModeWrite _ _ _ _ => true
  | .linkUp _ _ => true
  | .linkDown _ _ => true
  | .thresholdWrite _ _ _ _ => true
  | .egressSelect _ port _ => Machine.portOk port
  | .transmitUnderrun _ _ => true
  | .thresholdDecay _ _ => true
  | .forcedSafEnd _ => true
  | .pauseReceived _ _ _ => true
  | .pfcReceived _ _ _ _ => true
  | .pauseExpiry _ _ _ => true
  | .pauseWatchdogTrip _ _ _ => true
  | .holdOffEnd _ _ _ => true
  | .receiveBufferThreshold _ _ _ => true
  | .pauseRepeat _ _ => true
  | .beaconSend _ _ => true
  | .beaconReceived _ _ => true
  | .beaconTimeout _ _ => true
  | .collision _ _ _ => true
  | .jabber _ _ => true
  | .noise _ _ => true
  | .snapshot _ _ => true
  | .channelModeWrite _ _ _ _ _ => true
  | .channelIntegrated _ _ => true
  | .canFrameValid _ _ _ _ _ _ _ => true
  | .bufferLock _ _ _ _ => true
  | .canFrameSent _ _ _ => true
  | .arbitrationLost _ _ => true
  | .canBusError _ _ _ _ _ _ => true
  | .transmitRequest _ _ _ _ => true
  | .transmitCancel _ _ _ _ => true
  | .busOffRecover _ _ _ => true
  | .busOffRecovered _ _ => true
  | .columnStart _ _ => true
  | .referenceMessageReceived _ _ _ _ _ => true
  | .masterTimeout _ _ => true
  | .linSlotStart _ _ => true
  | .linResponseTimeout _ _ => true
  | .linTableSwitch _ _ _ _ => true
  | .linHeaderReceived _ _ _ _ _ => true
  | .linFrameReceived _ _ _ _ _ _ _ _ _ _ => true
  | .linInactivityTimeout _ _ => true
  | .gatewayJob _ _ => true
  | .timerWheelTick _ => true
  | .transmissionTimer _ _ => true
  | .deadlineTimeout _ _ => true
  | .timerHandover _ _ => true
  | .gatewayEnable _ _ => true
  | .pduRecordWrite _ _ _ _ => true
  | .containerFlushTimer _ _ => true
  | .containerReceived _ => true
  | .gateChange _ _ _ => true
  | .gateListChange _ _ => true
  | .gateEntryStart _ _ => true
  | .verifyTimer _ _ => true
  | .frerResetTimer _ _ => true
  | .observationSample _ port => Machine.portOk port
  | .observationReset _ _ port => Machine.portOk port
  | .traceRelease _ _ _ => true
  | .noticeTimer _ => true
  | .shadowRuleWrite _ _ _ _ _ => true
  | .copyToShadow _ _ => true
  | .copyToShadowDone _ => true
  | .swap _ _ => true
  | .ruleScrub _ _ => true
  | .authenticatorVerifyDone _ _ _ _ => true
  | .cryptoOperationEnd _ _ _ _ => true
  | .suspendedResume _ _ _ => true
  | .keyDerivationDone _ _ => true
  | .freshnessCommit _ => true
  | .keyDefine _ _ _ _ _ _ _ => true
  | .keyGenerate _ _ _ _ _ => true
  | .keyImport _ _ _ _ => true
  | .keyRotate _ _ _ => true
  | .keyRevoke _ _ _ => true
  | .keyDelete _ _ _ => true
  | .keyReseal _ _ => true
  | .closeMigration _ _ => true
  | .entropyHealthFail _ _ => true
  | .attestation _ _ _ _ _ => true
  | .lifeCycleRequest _ _ _ => true
  | .sensorTrip _ _ _ _ => true
  | .thaw _ _ => true
  | .configExport _ _ => true
  | .configImport _ _ => true
  | .configCheckOnly _ _ => true
  | .brownOutWarning _ => true
  | .brownOutClear _ => true
  | .timeCapture _ _ => true
  | .timeApply _ _ _ _ => true
  | .slewEnd _ => true
  | .declareLoss _ _ => true
  | .holdoverTimeout _ => true
  | .lossTimeout _ => true
  | .pulseEnable _ _ _ _ => true
  | .pulseEdge _ _ => true
  | .triggerEdge _ _ => true
  | .calendarWrite _ => true
  | .vbkpRise _ => true
  | .lifetimeCommit _ => true
  | .commitNow _ _ => true
  | .thermalCycle _ _ => true
  | .ioscWindow _ _ => true
  | .ioscRequalify _ => true
  | .xtalWindow _ _ => true
  | .referenceSelect _ _ _ => true
  | .clockEnableWrite _ _ _ _ => true
  | .lossOfClock _ _ => true
  | .pllLocked _ _ => true
  | .fallbackTimeout _ => true
  | .aoscFailure _ => true
  | .sleepCommand _ _ => true
  | .deepSleepCommand _ _ => true
  | .offCommand _ _ => true
  | .runCommand _ _ => true
  | .pholdReleaseTimeout _ => true
  | .supplyGoodRise _ _ => true
  | .sequencingTimeout _ => true
  | .sequenceRetry _ => true
  | .supplyGoodLost _ _ _ => true
  | .pmbusPoll _ _ => true
  | .pmbusAlert _ _ _ => true
  | .vfabFault _ => true
  | .vfabRecoveryTimeout _ _ => true
  | .canWakePattern _ _ _ _ _ => true
  | .wakePatternTimeout _ _ => true
  | .wakeFrame _ _ _ => true
  | .linDominantWake _ _ _ => true
  | .t1sActivityWake _ _ _ => true
  | .wakePinEdge _ _ _ _ => true
  | .keepAliveReceived _ _ port _ => Machine.portOk port
  | .keepAliveTimeout _ _ => true
  | .prepareTimeout _ _ => true
  | .sendPeriod _ _ => true
  | .wakeHoldExpiry _ _ => true
  | .localRequest _ _ _ => true
  | .sleepSequenceStart _ => true
  | .sleepQuiesceDone _ => true
  | .lockstepMismatch _ _ _ => true
  | .sequencerMismatch _ _ => true
  | .fwErase _ _ => true
  | .fwCheck _ _ => true
  | .fwActivate _ _ _ => true
  | .pairPresent _ _ _ _ _ _ => true
  | .pairStartTimeout _ _ => true
  | .fwConfirm _ _ => true
  | .fwRevert _ _ _ => true
  | .fwSlotRecordWrite _ _ _ _ => true
  | .pciePerst _ => true
  | .functionLevelReset _ => true
  | .pcieLinkChange _ _ _ _ => true
  | .bar0Read _ _ _ _ _ => true
  | .bar0Write _ _ _ _ => true
  | .delayedReadTimeout _ _ _ => true
  | .windowAccess _ _ _ _ _ _ _ _ => true
  | .translationWindowWrite _ _ _ _ => true
  | .prefetchAgeExpiry _ _ => true
  | .queueWindowRead _ _ _ _ => true
  | .doorbellWrite _ _ _ => true
  | .hostDescriptorFetched _ _ _ _ _ _ _ => true
  | .partToHostFrame _ _ _ => true
  | .msixCoalesceTimer _ _ => true
  | .sdoInitiateDownload _ _ _ => true
  | .sdoDownloadSegment _ _ _ => true
  | .sdoInitiateUpload _ _ _ => true
  | .sdoUploadSegment _ _ _ => true
  | .sdoBlockDownload _ _ _ => true
  | .sdoBlockUpload _ _ _ => true
  | .sdoAbortReceived _ _ _ => true
  | .sdoTimeout _ _ => true
  | .dalmolyOpen _ _ _ => true
  | .dalmolyRead _ _ _ => true
  | .dalmolyWrite _ _ _ => true
  | .dalmolyClose _ _ _ => true
  | .sessionIdleTimeout _ _ => true
  | .groupBegin _ _ _ => true
  | .groupCommit _ _ _ => true
  | .groupAbandon _ _ _ => true
  | .lockHoldExpiry _ _ => true
  | .quenchBlockEnd _ _ => true
  | .drawbarLookupFrame _ _ _ _ => true
  | .drawbarUnicastFrame _ _ _ _ => true
  | .drawbarFloodFrame _ _ _ _ => true
  | .rollCallReceived _ _ _ _ => true
  | .managementRequest _ _ _ => true
  | .managementAnswer _ _ _ => true
  | .rollCallTimer _ => true
  | .heardTimeout _ _ => true
  | .preemptHoldExpiry _ => true
  | .wardenGraceExpiry _ => true
  | .forwardTimeout _ _ => true
  | .conflictClear _ => true
  | .sessionTargetWrite _ _ _ => true
  | .powerOnReset _ _ => true
  | .bistGroupEnd _ _ => true
  | .bootMeasurementDone _ _ _ => true
  | .forwardingPoint _ => true
  | .startupComplete _ => true
  | .decoderError _ _ _ => true
  | .verifyResponse _ _ => true
  | .nmEnable _ _ _ => true
  | .localRequestClear _ _ _ => true
  | .mkaSak _ _ _ _ _ => true
  | .fwEraseDone _ _ => true
  | .configExportDone _ => true

end Sys2Proof
end

