-- ==== Sys2Proof/Certificates/Slice0/Obligations.lean ====
section
/-! DEFINITION. The statements about the block. -/

open Sys2Proof Sys2Proof.Machine

/-- A step runs the front command. -/
def Obligations.StepRunsFrontCommand : Prop :=
  ∀ (c : Instr) (s : State), step { s with pending := c :: s.pending } = exec c s

/-! ### The machine's form -/

/-- No command stops the block: a well-formed command (WellFormed.lean) answers a next state in every state whatever, as every refused access
is an answer with an abort code (R446) and every event at a unit that is away is lost on it. A command that names a port index which does
not exist (R7) is refused as ill formed. -/
def Obligations.WellFormedCommandsComplete : Prop :=
  ∀ (c : Instr) (s : State), (c.wf = true → ∃ t, exec c s = .next t) ∧ (c.wf = false → exec c s = .refused .illFormed)

/-- Every step keeps a well-kept state well kept: the dictionary's scalars and window bytes stay in canonical form, local time does not run
back, no free value is drawn a second time, what has been sent stays sent, in its order, and only the front command leaves the queue. -/
def Obligations.StepsKeepTheState : Prop :=
  ∀ s t : State, step s = .next t →
    (s.canonical → t.canonical) ∧ s.now ≤ t.now ∧ s.fresh ≤ t.fresh ∧ s.outputs <:+ t.outputs ∧ t.pending = s.pending.tail

/-- The state after reset meets the invariant: canonical scalars and windows, and no command waits. -/
def Obligations.ResetIsWellKept : Prop := State.reset.canonical ∧ State.reset.pending = []

/-- A part that AOSC has stopped takes no command but the power-on reset (R348): only time passes. -/
def Obligations.StoppedPartTakesNoCommand : Prop :=
  ∀ (c : Instr) (s : State), c.wf = true → (∀ dt, (s.advance dt).mode = .stopped) → (∀ dt vaon, c ≠ .powerOnReset dt vaon) →
    ∃ dt, exec c s = .next (s.advance dt)

/-- Where no unit has anything left to do by itself, nothing follows a command's own effect: the state that the effect gives stands. With the
exact effects of the completion statements this is their frame. -/
def Obligations.QuietUnitsChangeNothing : Prop := ∀ s : State, s.quiet = true → s.settle = s

/-! ### Storage -/

/-- A scalar set reads as the value set (rw of Table 0.4, R10), and every other scalar, every window byte and all else stay as they were. -/
def Obligations.ScalarsReadBack : Prop :=
  ∀ (s : State) (idx sub v : Nat), sub < 256 → s.canonical →
    (s.wr idx sub v).rd idx sub = v % 2 ^ 64 ∧ (∀ i a, a < 256 → (i, a) ≠ (idx, sub) → (s.wr idx sub v).rd i a = s.rd i a) ∧ s.sameWindows (s.wr idx sub v) []
      ∧ { s.wr idx sub v with regs := s.regs } = s

/-- Bytes written to a table window from an offset read back, and every other window byte, every scalar and all else stay as they were (R425). -/
def Obligations.WindowBytesReadBack : Prop :=
  ∀ (s : State) (idx sub off : Nat) (bs : List Byte), sub < 256 → off + bs.length ≤ 2 ^ 24 → s.canonical →
    (s.setWin idx sub off bs).winBytes idx sub off bs.length = bs
      ∧ (∀ i a o, a < 256 → o < 2 ^ 24 → ¬ (i = idx ∧ a = sub ∧ off ≤ o ∧ o < off + bs.length) →
          (s.setWin idx sub off bs).winB i a o = s.winB i a o)
      ∧ { s.setWin idx sub off bs with wins := s.wins } = s

/-- An event stands in the ring as the record of Table 1.8, in the slot of its number modulo 4,096; sub 01 of 0x1201 counts it, sub 02 counts
the record it overwrites once the ring has been filled, both wrapping at 2^32; nothing else changes (R32, R34). -/
def Obligations.EventsStandInTheRing : Prop :=
  ∀ (s : State) (src code d0 d1 d2 : Nat), s.canonical → src < 256 →
    let t := s.event src code d0 d1 d2
    let n := s.rd 0x1201 1
    t.showsEvent s (n % 4096 * 16) src code d0 d1 d2
      ∧ t.rd 0x1201 1 = (n + 1) % 2 ^ 32
      ∧ t.rd 0x1201 2 = (if s.ringFull then (s.rd 0x1201 2 + 1) % 2 ^ 32 else s.rd 0x1201 2)
      ∧ t.ringFull = (s.ringFull || (n + 1) % 2 ^ 32 % 4096 == 0)
      ∧ (∀ idx sub, sub < 256 → (idx, sub) ∉ [(0x1201, 1), (0x1201, 2)] → t.rd idx sub = s.rd idx sub)
      ∧ (∀ idx sub off, sub < 256 → off < 2 ^ 24 → ¬ (idx = 0x1200 ∧ sub = 0 ∧ n % 4096 * 16 ≤ off ∧ off < n % 4096 * 16 + 16) →
          t.winB idx sub off = s.winB idx sub off)
      ∧ { t with regs := s.regs, wins := s.wins, ringFull := s.ringFull } = s

/-- A write of a plain scalar that passes its checks, on a state in which no unit has work of its own, answers a next state: the scalar holds the
value (R10); every other scalar, every window byte and all else stay, but the session's lock (R429) and the answer sent. -/
def Obligations.PlainWritesChangeOneScalar : Prop :=
  ∀ (dt : Nat) (s : State) (sess idx sub v : Nat), s.canonical →
    let u := s.advance dt
    (Row.dictionaryWrite sess idx sub v).pre u = true → u.quiet = true →
    ∃ t, exec (.dictionaryWrite dt sess idx sub 0 (scalarBytes idx sub v)) s = .next t ∧ t.canonical ∧ t.rd idx sub = v % 2 ^ 64
      ∧ (∀ i a, a < 256 → (i, a) ≠ (idx, sub) → t.rd i a = u.rd i a) ∧ u.sameWindows t [] ∧ t.outputs = .answer sess 0 [] :: u.outputs
      ∧ { t with regs := u.regs, sess := u.sess, outputs := u.outputs } = u

/-! ### The dictionary -/

/-- The identity and profile objects of a part of step B0 at reset: the defaults of Tables 0.1 and 0.5 whatever session reads them, and a serial
number that is neither of the two never issued (R2, R14). -/
def Obligations.IdentityAndProfileAtReset : Prop :=
  ∀ sess : Nat,
    State.reset.readObj sess 0x1018 0 0 0 = (0, leBytes 1 4) ∧ State.reset.readObj sess 0x1018 1 0 0 = (0, leBytes 4 0x000007A3)
      ∧ State.reset.readObj sess 0x1018 2 0 0 = (0, leBytes 4 0x00009612) ∧ State.reset.readObj sess 0x1018 3 0 0 = (0, leBytes 4 0x00020000)
      ∧ State.reset.readObj sess 0x1018 4 0 0 = (0, leBytes 4 Config.serial) ∧ Config.serial ≠ 0 ∧ Config.serial ≠ 0xFFFFFFFF
      ∧ State.reset.readObj sess 0x1030 0 0 0 = (0, leBytes 1 2) ∧ State.reset.readObj sess 0x1030 1 0 0 = (0, leBytes 4 0x0000000E)
      ∧ State.reset.readObj sess 0x1030 2 0 0 = (0, leBytes 1 3)

/-- The access codes of Table 0.4 (R10): an ro subindex refuses every write with the access abort and the state stays as it is; a wo subindex
refuses every read; 0 written to an rs scalar has no effect, and 1 written while its action runs is refused busy. (0x1F00 is left out of the
last: R392 gives its actions a status instead.) -/
def Obligations.AccessCodesHold : Prop :=
  ∀ (s : State) (sess role idx sub : Nat) (row : ObjRow), objRow idx sub = some row →
    (row.acc = .ro → ∀ off bs, s.writeChecked State.configStart sess role idx sub off bs = (abReadOnly, s))
      ∧ (row.acc = .wo → ∀ off len, s.readObj sess idx sub off len = (abWriteOnly, []))
      ∧ (row.acc = .rs → row.window = false → idx ≠ 0x1130 → (State.setObj State.configStart s sess row idx sub 0) = s)
      ∧ (row.acc = .rs → row.window = false → idx ≠ 0x1F00 → idx ≠ 0x1130 → s.view idx sub % 2 = 1 → s.scalarState row sess idx sub 1 = abBusy)

/-- A role without the right to write an object is refused with 0x0200_0003 whatever it writes, and the object stays as it is: the
write only counts towards sensor 6 (R278, R452); an ro subindex answers 0x0200_0001 whatever the role. -/
def Obligations.WriteRightsHold : Prop :=
  ∀ (s : State) (sess role idx sub off : Nat) (bs : List Byte) (row : ObjRow), objRow idx sub = some row →
    (row.acc = .ro → s.writeObj State.configStart sess role idx sub off bs = (0x02000001, s))
      ∧ (row.acc ≠ .ro → rightIsS idx sub = true → role ≠ 1 → role ≠ 3 → idx ≠ 0x8000 →
          s.writeObj State.configStart sess role idx sub off bs = (0x02000003, s.violation sess))

/-- A reserved bit set in a scalar is refused whole: no write of a value with a bit outside the field map's bits is accepted, and the value of
the object stays (R12). -/
def Obligations.ReservedBitsAreRefused : Prop :=
  ∀ (s : State) (sess role idx sub off : Nat) (bs : List Byte) (row : ObjRow), objRow idx sub = some row → row.window = false →
    s.groupOf sess = none → (∃ i < 64, (leVal bs).testBit i = true ∧ row.mask.testBit i = false) →
    (s.writeChecked State.configStart sess role idx sub off bs).1 ≠ 0 ∧ (s.writeChecked State.configStart sess role idx sub off bs).2 = s

/-- A refused write of a scalar changes no object: every scalar but the count of refusals for a lock (0x1120:02) and every window byte read as
before, and no lock is taken or renewed (R429, R446). Commits of a group (0x1130) report their own results (R433). -/
def Obligations.RefusedWritesChangeNothing : Prop :=
  ∀ (s t : State) (sess role idx sub off a : Nat) (bs : List Byte) (row : ObjRow), objRow idx sub = some row → row.window = false →
    idx ≠ 0x1130 → s.writeChecked State.configStart sess role idx sub off bs = (a, t) → a ≠ 0 →
    t = s ∨ (a = abLocked ∧ t = s.bump 0x1120 2 1)

/-- A write to an index whose lock another session holds is refused at once as locked, and counted; reads are never refused for a lock; and a
scalar write that is accepted outside a group takes or renews the lock for the hold time of 0x1120:01 (R429). -/
def Obligations.ObjectLocksHold : Prop :=
  ∀ (s : State) (sess role idx sub off : Nat) (bs : List Byte) (row : ObjRow), objRow idx sub = some row → row.window = false →
    writeAbort role idx sub off bs.length = 0 → idx ≠ 0x1130 → isLocal idx = false → s.groupOf sess = none →
    scalarAlone row idx sub (leVal bs) = 0 →
    (s.lockedFor sess idx = true → s.writeChecked State.configStart sess role idx sub off bs = (0x05000002, s.bump 0x1120 2 1))
      ∧ (∀ other off len, (s.readObj other idx sub off len).1 ≠ 0x05000002)
      ∧ (s.lockedFor sess idx = false → (s.takeLock sess idx).lockedFor sess idx = false
          ∧ (0 < s.holdNs → ∀ other, other ≠ sess → (s.takeLock sess idx).lockedFor other idx = true))

/-- The timing objects of a channel take no write while a protocol is in force: the write is refused with the state abort and the state stays
(R154). The premises are those of the checks that come before it. -/
def Obligations.TimingWaitsForNoProtocol : Prop :=
  ∀ (s : State) (sess role c sub : Nat) (o : Nat) (bs : List Byte) (row : ObjRow), c < 96 → (o = 1 ∨ (o = 2 ∧ c < 72)) →
    objRow (0x4000 + 0x20 * c + o) sub = some row → writeAbort role (0x4000 + 0x20 * c + o) sub 0 bs.length = 0 →
    scalarAlone row (0x4000 + 0x20 * c + o) sub (leVal bs) = 0 → s.groupOf sess = none →
    s.lockedFor sess (0x4000 + 0x20 * c + o) = false → s.proto c ≠ 0 →
    s.writeChecked State.configStart sess role (0x4000 + 0x20 * c + o) sub 0 bs = (0x04000001, s)

/-- The body of a request that the master forwards (R441, R468) spells the request again at the target: every operand at every value the body
admits. -/
def Obligations.ForwardedRequestsReadBack : Prop :=
  (∀ idx sub off len : Nat, idx < 65536 → sub < 256 → off < 2 ^ 32 → len ≤ 1024 → (len = 0 → isWindow idx sub = false) →
      parseReq (Req.read idx sub off len).body = .inl (.read idx sub off len))
    ∧ (∀ (idx sub off : Nat) (data : List Byte), idx < 65536 → sub < 256 → off < 2 ^ 32 → data.length ≤ 1024 →
      parseReq (Req.write idx sub off data).body = .inl (.write idx sub off data))

/-! ### Carriages and couplings -/

/-- An acknowledge that a coupling holds for its requester, and the acknowledge of an accepted request, are delivered only with the requester's
current epoch; any other is discarded, and counted in 0x2200 + n:06 of the requester (R39). Either leaves the coupling. -/
def Obligations.AcknowledgesNeedTheCurrentEpoch : Prop :=
  ∀ (dt : Nat) (s : State) (r t : Fin 47) (tag : Byte) (status : Fin 4),
    let u := s.advance dt
    u.awake = true → (u.present r.val = true ∨ u.carState r.val = stDraining) →
    (∀ a, (u.car.acks.find? fun a => a.requester == r.val && a.responder == t.val && a.tag == tag.toNat) = some a →
      let v := u.withCar fun c => { c with acks := c.acks.erase a }
      exec (.couplingAcknowledge dt r t tag status) s
        = u.done (if a.reqEpoch = u.epoch r.val then v.emit (.ack r.val t.val tag.toNat a.reqEpoch a.respEpoch a.status)
            else v.bump (0x2200 + r.val) 6 1))
      ∧ ((u.car.acks.find? fun a => a.requester == r.val && a.responder == t.val && a.tag == tag.toNat) = none →
        (status.val = 1 → exec (.couplingAcknowledge dt r t tag status) s = u.done u)
          ∧ (status.val ≠ 1 → ∀ q,
            (u.car.reqs.find? fun q => q.requester == r.val && q.target == t.val && q.tag == tag.toNat && !q.held) = some q →
            let v := u.withCar fun c => { c with
              reqs := c.reqs.erase q
              seqs := c.seqs.map fun x => if x.carriage = t.val ∧ x.phase = .draining then { x with completed := x.completed + 1 } else x }
            exec (.couplingAcknowledge dt r t tag status) s
              = u.done (if q.epoch = u.epoch r.val then v.emit (.ack r.val t.val tag.toNat q.epoch (u.epoch t.val) status.val)
                  else v.bump (0x2200 + r.val) 6 1)))

/-- At power-on reset every carriage has epoch 1. A carriage that returns to PRESENT takes the next epoch, 1 after 255, never 0, and no other
carriage's epoch changes (R38). -/
def Obligations.EpochsAdvance : Prop :=
  ∀ (s : State) (n : Nat), s.canonical → n < 47 →
    (∀ vaon, (s.powerOn vaon).epoch n = 1)
      ∧ (∀ reason result, (s.becomePresent n reason result).epoch n = (if s.epoch n = 255 then 1 else s.epoch n + 1)
        ∧ (s.becomePresent n reason result).epoch n ≠ 0 ∧ (s.becomePresent n reason result).present n = true
        ∧ ∀ m, m < 47 → m ≠ n → (s.becomePresent n reason result).epoch m = s.epoch m)

/-- An alarm or a clock-domain restart of a carriage that is POWERED_DOWN, RETIRED, SPARE_IDLE or FAILED resets nothing: state and epoch stay,
and no event is raised for it (R506). -/
def Obligations.RestartsOfAbsentCarriagesDoNothing : Prop :=
  ∀ (s : State) (n reason limit : Nat), s.testsCarriage n = false → s.seqOf n = none →
    (s.carState n = stPoweredDown ∨ s.carState n = stRetired ∨ s.carState n = stSpareIdle ∨ s.carState n = stFailed) →
    s.restart n reason limit = s

/-- A power-on reset acts in every state, the stopped one included, and leaves the part as R471 says: RUN, every carriage PRESENT or SPARE_IDLE with
epoch 1, queues, frames, sessions and routes empty, every scalar but those of non-volatile memory at its default (R426) and the reset cause in
0x2005:03; the commands that wait, and what has been sent, stay. -/
def Obligations.PowerOnResetCompletes : Prop :=
  ∀ (dt : Nat) (vaon : Bool) (s : State), s.canonical →
    ∃ t, exec (.powerOnReset dt vaon) s = .next t ∧ t.pending = (s.advance dt).pending ∧ t.outputs = (s.advance dt).outputs
      ∧ t.now = (s.advance dt).now ∧ t.mode = .run ∧ t.ringFull = false ∧ t.car = .reset ∧ t.buf = .reset ∧ t.eth = .reset ∧ t.chan = []
      ∧ t.gw = .reset ∧ t.tm = .reset ∧ t.fw = .reset ∧ t.crypto = .reset ∧ t.consist = .reset ∧ t.host = .reset ∧ t.sess = .reset
      ∧ t.wake = .reset ∧ t.route.slots = [] ∧ t.startup.forwarding = false
      ∧ t.rd 0x2005 3 = (if !vaon then 0 else if (s.advance dt).power.cause = 0 then 1 else (s.advance dt).power.cause) % 2 ^ 64
      ∧ (∀ idx sub, sub < 256 → keptAlways idx sub = false → (idx, sub) ≠ (0x2005, 3) → t.rd idx sub = objDefault idx sub % 2 ^ 64)
      ∧ (∀ idx sub, sub < 256 → keptAlways idx sub = true → t.rd idx sub = (s.advance dt).rd idx sub)

/-! ### Single rules of the units -/

/-- A read of the head of a delivery queue returns the item in stage 0 and pops it; a read of an empty queue returns with bit 35 set, pops nothing
and leaves the queue, so that a not-valid read in the middle of a frame does not end it: the next item read is the same as without it (R69). -/
def Obligations.QueueReadsPopTheHead : Prop :=
  ∀ (dt : Nat) (s : State) (port : Fin 160),
    let u := s.advance dt
    u.inRun = true → (port.val = 46 ∨ (port.val = 44 ∧ u.rdB 0x20A0 3 2 = true)) →
    (∀ w w' rest, (u.deliveryQ port.val).stream = w :: w' :: rest →
      exec (.queuePop dt port) s
        = u.done ((u.setDelivery port.val { u.deliveryQ port.val with stream := w' :: rest }).emit (.item port.val w)))
      ∧ (∀ w, (u.deliveryQ port.val).stream = [w] → ∃ t : State, exec (.queuePop dt port) s = u.done (t.emit (.item port.val w))
          ∧ (t.deliveryQ port.val).stream = [])
      ∧ ((u.deliveryQ port.val).stream = [] → (u.deliveryQ port.val).frames = [] →
        ∃ w : BitVec 36, w.getLsbD 35 = true ∧ (u.popItem port.val).2.popItem port.val = u.popItem port.val
          ∧ exec (.queuePop dt port) s = u.done (u.emit (.item port.val w)))

/-- A capture latches device time and the step count together, at one instant, into subs 02–05 of 0x7001, and leaves every other scalar and every
window byte as they are where no unit has work of its own; reading those subs leaves the state as it is (R317). -/
def Obligations.CaptureLatchesDeviceTime : Prop :=
  ∀ (dt sess : Nat) (s : State), s.canonical →
    let u := s.advance dt
    u.takes sess 0x7001 1 1 = true → u.present 42 = true → u.quiet = true →
    ∃ t, exec (.timeCapture dt sess) s = .next t
      ∧ t.rd 0x7001 2 = u.time.dev % devSecond / 2 ^ 48 ∧ t.rd 0x7001 3 = u.time.dev / devSecond % 2 ^ 48 % 2 ^ 32
      ∧ t.rd 0x7001 4 = u.time.dev / devSecond % 2 ^ 48 / 2 ^ 32 + u.time.dev % 2 ^ 48 / 2 ^ 32 * 2 ^ 16
      ∧ t.rd 0x7001 5 = u.rd 0x7000 8
      ∧ (∀ i a, a < 256 → (i, a) ∉ [(0x7001, 2), (0x7001, 3), (0x7001, 4), (0x7001, 5)] → t.rd i a = u.rd i a) ∧ u.sameWindows t [] ∧ t.time = u.time ∧ t.pending = u.pending ∧ t.mode = u.mode
      ∧ ∀ sub off len, t.access sess 0 (.read 0x7001 sub off len) = ((t.readObj sess 0x7001 sub off len).1, (t.readObj sess 0x7001 sub off len).2, t)

/-- The life-cycle state is the highest one whose fuse pair has at least one fuse blown, and BRASS while none is: pair k of bits [2k + 1:2k] stands
for BRONZE, STEEL, PEWTER and SLAG, k = 0–3; at start-up the second fuse of a pair with one blown is blown (R300). -/
def Obligations.LifeCycleIsTheHighestPairBlown : Prop :=
  ∀ fuses : Nat, fuses < 256 →
    (∀ k < 4, lifeOf fuses = k + 2 ↔ ((fuses.testBit (2 * k) = true ∨ fuses.testBit (2 * k + 1) = true)
        ∧ ∀ j, k < j → j < 4 → fuses.testBit (2 * j) = false ∧ fuses.testBit (2 * j + 1) = false))
      ∧ (lifeOf fuses = 1 ↔ fuses = 0)
      ∧ (∀ k < 4, (completeFuses fuses).testBit (2 * k) = (fuses.testBit (2 * k) || fuses.testBit (2 * k + 1))
        ∧ (completeFuses fuses).testBit (2 * k + 1) = (fuses.testBit (2 * k) || fuses.testBit (2 * k + 1)))

/-- The job of record N runs on engine N mod 4 where it is PRESENT, else on the first PRESENT of (N + 1), (N + 2), (N + 3) mod 4, and on none only
where all four are away (R180). -/
def Obligations.JobsRunOnTheNextPresentEngine : Prop :=
  ∀ (s : State) (n : Nat),
    (∀ k < 4, s.present (28 + (n + k) % 4) = true → (∀ j < k, s.present (28 + (n + j) % 4) = false) → s.engineOf n = some ((n + k) % 4))
      ∧ (s.engineOf n = none ↔ ∀ e < 4, s.present (28 + e) = false)

/-- A frame that the device builds ends with an FCS under which the check of a received frame passes: the CRC register over all its bytes holds the
residue of a good frame (R125, R128). -/
def Obligations.BuiltFramesPassTheFcsCheck : Prop := ∀ bs : List Byte, crcRun 0xFFFFFFFF (withFcs bs) = crcGood

/-! ### Completion: each command answers the next state that its clause gives -/

/-- A write of the dictionary that passes its checks sets what its object says (R10, R446): a scalar without an action of its own holds the value;
any scalar, and a whole record of a table window, do what the object's write does. -/
def Obligations.DictionaryWritesTakeEffect : Prop :=
  (∀ (sess idx sub v : Nat), (Row.dictionaryWrite sess idx sub v).Holds)
    ∧ (∀ (sess idx sub v : Nat), (Row.scalarWrite sess idx sub v).Holds)
    ∧ (∀ (sess idx sub k : Nat) (r : List Byte), (Row.recordWrite sess idx sub k r).Holds)

/-- The commands of headroom, the latency probe and whole seconds (Chapter 1). -/
def Obligations.HeadroomProbeAndSecondsComplete : Prop :=
  (∀ (meas : List (Nat × Nat × Nat)), (Row.headroomWindowEnd meas).Holds)
    ∧ (∀ (sess : Nat), (Row.resetMinima sess).Holds)
    ∧ (∀ (sess : Nat), (Row.latencyProbeArm sess).Holds)
    ∧ (Row.wholeSecondStart).Holds

/-- Requests and acknowledges of a coupling (R36–R40). -/
def Obligations.CouplingsAnswerRequests : Prop :=
  (∀ (r t : Fin 47) (tag : Byte) (op : CouplingOp), (Row.requestAccepted r t tag op).Holds)
    ∧ (∀ (r t : Fin 47) (tag : Byte) (op : CouplingOp), (Row.requestAbsent r t tag op).Holds)
    ∧ (∀ (r t : Fin 47) (tag : Byte) (status : Fin 4), (Row.couplingAcknowledge r t tag status).Holds)

/-- The seven carriage commands where the carriage takes them (R51–R62). -/
def Obligations.CarriageCommandsBegin : Prop :=
  (∀ (sess : Nat) (n : Fin 47), (Row.carriageReset sess n).Holds)
    ∧ (∀ (sess : Nat) (n : Fin 47), (Row.carriagePowerDown sess n).Holds)
    ∧ (∀ (sess : Nat) (n : Fin 47), (Row.carriagePowerUp sess n).Holds)
    ∧ (∀ (sess : Nat) (n : Fin 47), (Row.carriageSelfTest sess n).Holds)
    ∧ (∀ (sess : Nat) (n : Fin 47) (unit : Fin 16), (Row.swapEngineUnit sess n unit).Holds)
    ∧ (∀ (sess : Nat) (n : Fin 47) (unit : Fin 16), (Row.swapBank sess n unit).Holds)
    ∧ (∀ (sess : Nat) (n : Fin 47), (Row.retireRouteBank sess n).Holds)
    ∧ (∀ (sess : Nat) (n : Fin 47), (Row.returnRouteBank sess n).Holds)

/-- The ends of the phases of a carriage sequence (R46–R61). -/
def Obligations.CarriageSequencesProceed : Prop :=
  (∀ (n : Fin 47), (Row.drainComplete n).Holds)
    ∧ (∀ (n : Fin 47), (Row.drainLimitExpiry n).Holds)
    ∧ (∀ (n : Fin 47) (pass : Bool) (failed : List Nat), (Row.carriageActionEnd n pass failed).Holds)
    ∧ (Row.queuedSequenceStart).Holds
    ∧ (∀ (n : Fin 47), (Row.cellBankCopyEnd n).Holds)
    ∧ (∀ (n : Fin 47) (unit : Fin 16), (Row.edgeSwapCopyEnd n unit).Holds)
    ∧ (∀ (n : Fin 47) (unit : Fin 16), (Row.edgeSwapIntegrated n unit).Holds)
    ∧ (∀ (n : Fin 47), (Row.retirementShuntEnd n).Holds)

/-- Corrected errors, their decay, and the in-service self-tests (R55–R57, R63, R78). -/
def Obligations.ErrorCountsAndSelfTestsComplete : Prop :=
  (∀ (n : Fin 47) (unit : Fin 18), (Row.correctedError n unit).Holds)
    ∧ (∀ (n : Fin 47) (unit : Fin 18), (Row.correctedErrorSwaps n unit).Holds)
    ∧ (Row.errorCountDecay).Holds
    ∧ (Row.selfTestSlot).Holds
    ∧ (Row.unitTestPasses).Holds
    ∧ (Row.unitTestFails).Holds

/-- Items written to ingress queues and read from delivery queues, the end of a frame, early release, flushes, the age sweep, waiting
copies, and the least free count (R65–R89, R125). -/
def Obligations.QueuesAndSweepsComplete : Prop :=
  (∀ (port : Fin 160) (domain : Fin 64) (cls : Fin 8) (errs : ReadErrs), (Row.startItem port domain cls errs).Holds)
    ∧ (∀ (port : Fin 160) (typ : Fin 4) (x : BitVec 32) (errs : ReadErrs), (Row.laterItem port typ x errs).Holds)
    ∧ (∀ (port : Fin 160), (Row.queuePop port).Holds)
    ∧ (∀ (port : Fin 44) (tail : List Byte) (domain : Fin 64) (cls : Fin 8) (ago : Nat) (node : Byte) (pcs : Bool) (errs : ReadErrs), (Row.ethernetFrameEnd port tail domain cls ago node pcs errs).Holds)
    ∧ (∀ (port : Fin 160) (errs : ReadErrs), (Row.cutThroughRelease port errs).Holds)
    ∧ (∀ (sess port : Nat) (delivery : Bool), (Row.queueFlush sess port delivery).Holds)
    ∧ (Row.flushDeferredEffect).Holds
    ∧ (∀ (group : Fin 2), (Row.ageSweep group).Holds)
    ∧ (∀ (port : Fin 160), (Row.waitingCopyTaken port).Holds)
    ∧ (∀ (sess : Nat), (Row.resetLeastFree sess).Holds)

/-- Entry commands, shunt moves, learning and ageing (R104–R116). -/
def Obligations.RouteStoreCommandsComplete : Prop :=
  (∀ (sess : Nat) (entry : BitVec 142) (errs : ReadErrs), (Row.entryReadByKey sess entry errs).Holds)
    ∧ (∀ (sess : Nat) (entry : BitVec 142) (errs : ReadErrs), (Row.entryInsert sess entry errs).Holds)
    ∧ (∀ (sess : Nat) (entry : BitVec 142) (errs : ReadErrs), (Row.entryDelete sess entry errs).Holds)
    ∧ (∀ (sess : Nat) (bank : Fin 8) (bucket : Fin 8192) (way : Fin 4) (errs : ReadErrs), (Row.entryReadBySlot sess bank bucket way errs).Holds)
    ∧ (Row.shuntMove).Holds
    ∧ (Row.lastMove).Holds
    ∧ (∀ (group : Fin 2) (errs : ReadErrs), (Row.learnsNew group errs).Holds)
    ∧ (∀ (sess : Nat) (port : Fin 44), (Row.clearLog sess port).Holds)
    ∧ (∀ (bank : Fin 8) (bucket : Fin 8192) (way : Fin 4) (typ : Fin 5) (errs : ReadErrs), (Row.ageingScanVisit bank bucket way typ errs).Holds)

/-- Port modes, links and the configured threshold (R121–R132). -/
def Obligations.PortModesAndLinksComplete : Prop :=
  (∀ (sess : Nat) (port : Fin 44) (value : BitVec 32), (Row.portModeWrite sess port value).Holds)
    ∧ (∀ (sess : Nat) (port : Fin 44) (value : BitVec 32), (Row.portModeChange sess port value).Holds)
    ∧ (∀ (port : Fin 44), (Row.linkUp port).Holds)
    ∧ (∀ (port : Fin 44), (Row.linkDown port).Holds)
    ∧ (∀ (sess : Nat) (port : Fin 44) (value : BitVec 32), (Row.thresholdWrite sess port value).Holds)

/-- Egress selection, the start of a frame, and underruns (R131–R133, R210–R222). -/
def Obligations.EgressSelectionAndUnderrunsComplete : Prop :=
  (∀ (port : Fin 160) (errs : ReadErrs), (Row.egressSelect port errs).Holds)
    ∧ (∀ (port : Fin 44) (errs : ReadErrs), (Row.startsFrame port errs).Holds)
    ∧ (∀ (port : Fin 44), (Row.transmitUnderrun port).Holds)
    ∧ (∀ (port : Fin 44), (Row.thresholdDecay port).Holds)
    ∧ (Row.forcedSafEnd).Holds

/-- Pause and PFC, received and sent (R134–R136). -/
def Obligations.FlowControlCompletes : Prop :=
  (∀ (port : Fin 44) (quanta : BitVec 16), (Row.pauseReceived port quanta).Holds)
    ∧ (∀ (port : Fin 44) (classes : Byte) (quanta : List Nat), (Row.pfcReceived port classes quanta).Holds)
    ∧ (∀ (port : Fin 44) (cls : Fin 9), (Row.pauseExpiry port cls).Holds)
    ∧ (∀ (port : Fin 44) (cls : Fin 9), (Row.pauseWatchdogTrip port cls).Holds)
    ∧ (∀ (port : Fin 44) (cls : Fin 9), (Row.holdOffEnd port cls).Holds)
    ∧ (∀ (port : Fin 44) (fill : Nat), (Row.receiveBufferHigh port fill).Holds)
    ∧ (∀ (port : Fin 44) (fill : Nat), (Row.receiveBufferLow port fill).Holds)
    ∧ (∀ (port : Fin 44), (Row.pauseRepeat port).Holds)

/-- BEACONs, collisions, jabber and noise of the T1S segments, and snapshots (R137–R145). -/
def Obligations.SegmentEventsAndSnapshotsComplete : Prop :=
  (∀ (port : Fin 44), (Row.beaconSend port).Holds)
    ∧ (∀ (port : Fin 44), (Row.beaconSeen port).Holds)
    ∧ (∀ (port : Fin 44), (Row.beaconConflict port).Holds)
    ∧ (∀ (port : Fin 44), (Row.beaconTimeout port).Holds)
    ∧ (∀ (port : Fin 44) (bits : Nat), (Row.collision port bits).Holds)
    ∧ (∀ (port : Fin 44) (bits : Nat), (Row.lastCollision port bits).Holds)
    ∧ (∀ (port : Fin 44), (Row.jabber port).Holds)
    ∧ (∀ (port : Fin 44), (Row.noise port).Holds)
    ∧ (∀ (sess : Nat), (Row.snapshot sess).Holds)

/-- Channel modes, integration, received CAN frames and the lock of a receive buffer (R150–R161). -/
def Obligations.ChannelModesAndReceptionComplete : Prop :=
  (∀ (sess : Nat) (chan : Fin 96) (value : BitVec 32), (Row.channelModeWrite sess chan value).Holds)
    ∧ (∀ (sess : Nat) (chan : Fin 96) (value : BitVec 32), (Row.channelModeWaits sess chan value).Holds)
    ∧ (∀ (chan : Fin 96), (Row.channelIntegrated chan).Holds)
    ∧ (∀ (chan : Fin 72) (bytes : List Byte) (domain : Fin 64) (cls : Fin 8) (ago : Nat) (errs : ReadErrs), (Row.canFrameValid chan bytes domain cls ago errs).Holds)
    ∧ (∀ (sess : Nat) (chan : Fin 96) (value : BitVec 32), (Row.bufferLock sess chan value).Holds)
    ∧ (∀ (sess : Nat) (chan : Fin 96) (value : BitVec 32), (Row.bufferUnlock sess chan value).Holds)

/-- Transmission on a C channel, lost arbitration, errors, transmit buffers and bus-off recovery (R153–R166). -/
def Obligations.CanTransmissionAndErrorsComplete : Prop :=
  (∀ (chan : Fin 72) (loop : Nat), (Row.canFrameSent chan loop).Holds)
    ∧ (∀ (chan : Fin 72) (loop : Nat), (Row.canFastSent chan loop).Holds)
    ∧ (∀ (chan : Fin 72), (Row.arbitrationLost chan).Holds)
    ∧ (∀ (chan : Fin 72) (kind : Fin 6) (sending exempt : Bool) (eights : Nat), (Row.canBusError chan kind sending exempt eights).Holds)
    ∧ (∀ (sess : Nat) (chan : Fin 72) (buf : Fin 32), (Row.transmitRequest sess chan buf).Holds)
    ∧ (∀ (sess : Nat) (chan : Fin 72) (buf : Fin 32), (Row.transmitCancel sess chan buf).Holds)
    ∧ (∀ (sess : Nat) (chan : Fin 72), (Row.busOffRecover sess chan).Holds)
    ∧ (∀ (chan : Fin 72), (Row.busOffRecovered chan).Holds)

/-- The windows of the schedule matrix and the time master (R167–R172). -/
def Obligations.ScheduleMatrixCompletes : Prop :=
  (∀ (chan : Fin 72), (Row.columnStart chan).Holds)
    ∧ (∀ (chan : Fin 72), (Row.cycleEnds chan).Holds)
    ∧ (∀ (chan : Fin 72) (prio : Fin 8) (cycle : Fin 64) (ago : Nat), (Row.referenceMessageReceived chan prio cycle ago).Holds)
    ∧ (∀ (chan : Fin 72) (prio : Fin 8) (cycle : Fin 64) (ago : Nat), (Row.masterYields chan prio cycle ago).Holds)
    ∧ (∀ (chan : Fin 72), (Row.masterTimeout chan).Holds)

/-- The commander and responder of an L channel (R173–R176, R366). -/
def Obligations.LinChannelsComplete : Prop :=
  (∀ (lin : Fin 24), (Row.linSlotStart lin).Holds)
    ∧ (∀ (lin : Fin 24), (Row.linScheduleStart lin).Holds)
    ∧ (∀ (lin : Fin 24), (Row.linResponseTimeout lin).Holds)
    ∧ (∀ (sess : Nat) (lin : Fin 24) (value : BitVec 32), (Row.linTableSwitch sess lin value).Holds)
    ∧ (∀ (lin : Fin 24) (pid : Byte) (breakBits sync : Nat), (Row.linHeaderReceived lin pid breakBits sync).Holds)
    ∧ (∀ (lin : Fin 24) (pid : Byte) (data : List Byte) (domain : Fin 64) (cls : Fin 8) (ago : Nat) (errs : ReadErrs), (Row.linFrameReceived lin pid data domain cls ago errs).Holds)
    ∧ (∀ (lin : Fin 24), (Row.linInactivityTimeout lin).Holds)

/-- The jobs, timers and containers of the signal gateway (R179–R203). -/
def Obligations.GatewayJobsAndTimersComplete : Prop :=
  (∀ (engine : Fin 4), (Row.gatewayJob engine).Holds)
    ∧ (Row.timerWheelTick).Holds
    ∧ (∀ (rec_ : Fin 65536), (Row.cyclicTransmission rec_).Holds)
    ∧ (∀ (rec_ : Fin 65536), (Row.changeTransmission rec_).Holds)
    ∧ (∀ (rec_ : Fin 65536), (Row.deadlineTimeout rec_).Holds)
    ∧ (∀ (engine : Fin 4), (Row.timerHandover engine).Holds)
    ∧ (∀ (sess : Nat), (Row.gatewayEnable sess).Holds)
    ∧ (∀ (sess : Nat) (rec_ : Fin 65536) (r : List Byte), (Row.pduRecordWrite sess rec_ r).Holds)
    ∧ (∀ (stream : Fin 256), (Row.containerFlushTimer stream).Holds)
    ∧ (Row.containerReceived).Holds

/-- Gate lists, preemption verify, sequence recovery, observation, the refusal trace and notices (R216–R236). -/
def Obligations.GatesVerifyAndObservationComplete : Prop :=
  (∀ (sess : Nat) (port : Fin 28), (Row.gateChange sess port).Holds)
    ∧ (∀ (port : Fin 28), (Row.gateListChange port).Holds)
    ∧ (∀ (port : Fin 28), (Row.gateEntryStart port).Holds)
    ∧ (∀ (port : Fin 28), (Row.verifyAgain port).Holds)
    ∧ (∀ (port : Fin 28), (Row.verifyFails port).Holds)
    ∧ (∀ (port : Fin 28), (Row.verifyResponse port).Holds)
    ∧ (∀ (handle : Fin 1024), (Row.frerResetTimer handle).Holds)
    ∧ (∀ (port : Fin 160), (Row.observationSample port).Holds)
    ∧ (∀ (sess : Nat) (port : Fin 160), (Row.observationReset sess port).Holds)
    ∧ (∀ (sess : Nat) (n : BitVec 32), (Row.traceRelease sess n).Holds)
    ∧ (Row.noticeTimer).Holds

/-- The halves of the rule store and its scrub, cipher operations, working keys and freshness (R251–R274). -/
def Obligations.FirewallAndCipherCommandsComplete : Prop :=
  (∀ (sess : Nat) (window : Fin 3) (k : Nat) (r : List Byte), (Row.shadowRuleWrite sess window k r).Holds)
    ∧ (∀ (sess : Nat), (Row.copyToShadow sess).Holds)
    ∧ (Row.copyToShadowDone).Holds
    ∧ (∀ (sess : Nat), (Row.swap sess).Holds)
    ∧ (∀ (errs : ReadErrs), (Row.ruleScrub errs).Holds)
    ∧ (∀ (cluster : Fin 5) (engine : Fin 16) (ctxError : Bool), (Row.authenticatorVerifyDone cluster engine ctxError).Holds)
    ∧ (∀ (cluster : Fin 5) (engine : Fin 16), (Row.protectionEnds cluster engine).Holds)
    ∧ (∀ (cluster : Fin 5) (engine : Fin 16) (ctxError : Bool), (Row.openingEnds cluster engine ctxError).Holds)
    ∧ (∀ (cluster : Fin 5) (engine : Fin 16), (Row.suspendedResume cluster engine).Holds)
    ∧ (∀ (cluster : Fin 5), (Row.keyDerivationDone cluster).Holds)
    ∧ (Row.freshnessCommit).Holds

/-- The key actions, entropy and session keys (R284–R297). -/
def Obligations.KeyActionsComplete : Prop :=
  (∀ (sess : Nat) (h : BitVec 16) (kind : Fin 3) (wide : Bool) (parent : BitVec 16) (label : List Byte), (Row.keyDefine sess h kind wide parent label).Holds)
    ∧ (∀ (sess : Nat) (h : BitVec 16) (kind : Fin 3) (wide : Bool), (Row.keyGenerate sess h kind wide).Holds)
    ∧ (∀ (sess : Nat) (h : BitVec 16) (blob : List Byte), (Row.keyImport sess h blob).Holds)
    ∧ (∀ (sess : Nat) (h : BitVec 16), (Row.keyRotate sess h).Holds)
    ∧ (∀ (sess : Nat) (h : BitVec 16), (Row.keyRevoke sess h).Holds)
    ∧ (∀ (sess : Nat) (h : BitVec 16), (Row.keyDelete sess h).Holds)
    ∧ (∀ (sess : Nat), (Row.keyReseal sess).Holds)
    ∧ (∀ (sess : Nat), (Row.closeMigration sess).Holds)
    ∧ (Row.entropyFails).Holds
    ∧ (Row.entropyPasses).Holds
    ∧ (∀ (handle : Fin 512) (cak : BitVec 16) (wide : Bool), (Row.sakGenerated handle cak wide).Holds)
    ∧ (∀ (handle : Fin 512) (cak : BitVec 16) (wide : Bool) (w : List Byte), (Row.sakUnwrapped handle cak wide w).Holds)

/-- Attestation, life cycle, sensors, thaw, configuration images and brown-out (R294–R313). -/
def Obligations.SecurityStateCommandsComplete : Prop :=
  (∀ (sess : Nat) (h : BitVec 16) (kind : Fin 16) (nonce : List Byte), (Row.attestation sess h kind nonce).Holds)
    ∧ (∀ (sess : Nat) (target : Fin 8), (Row.lifeCycleRequest sess target).Holds)
    ∧ (∀ (sensor : Fin 9) (cars : List (Fin 47)) (sess : Nat), (Row.sensorTrip sensor cars sess).Holds)
    ∧ (∀ (sess : Nat), (Row.thaw sess).Holds)
    ∧ (∀ (sess : Nat), (Row.configExport sess).Holds)
    ∧ (∀ (sess : Nat), (Row.configImport sess).Holds)
    ∧ (∀ (sess : Nat), (Row.configCheckOnly sess).Holds)
    ∧ (Row.configExportDone).Holds
    ∧ (Row.brownOutWarning).Holds
    ∧ (Row.brownOutClear).Holds

/-- Captures, corrections and the time states (R317–R324). -/
def Obligations.TimeCorrectionsComplete : Prop :=
  (∀ (sess : Nat), (Row.timeCapture sess).Holds)
    ∧ (∀ (sess : Nat) (offset : BitVec 64) (rate : BitVec 32), (Row.timeApply sess offset rate).Holds)
    ∧ (Row.slewEnd).Holds
    ∧ (∀ (sess : Nat), (Row.declareLoss sess).Holds)
    ∧ (Row.holdoverTimeout).Holds
    ∧ (Row.lossTimeout).Holds

/-- Pulses, triggers, the calendar and the lifetime ledger (R327–R334). -/
def Obligations.PulsesCalendarAndLedgerComplete : Prop :=
  (∀ (sess : Nat) (n : Fin 16) (value : BitVec 32), (Row.pulseOn sess n value).Holds)
    ∧ (∀ (sess : Nat) (n : Fin 16) (value : BitVec 32), (Row.pulseOff sess n value).Holds)
    ∧ (∀ (n : Fin 16), (Row.pulseEdge n).Holds)
    ∧ (∀ (n : Fin 8), (Row.triggerEdge n).Holds)
    ∧ (∀ (n : Fin 8), (Row.localTriggerEdge n).Holds)
    ∧ (Row.calendarWrite).Holds
    ∧ (Row.vbkpRise).Holds
    ∧ (Row.lifetimeCommit).Holds
    ∧ (∀ (sess : Nat), (Row.commitNow sess).Holds)
    ∧ (∀ (temp : Int), (Row.thermalCycle temp).Holds)

/-- Oscillators, references and clock monitors (R338–R348). -/
def Obligations.OscillatorsAndReferencesComplete : Prop :=
  (∀ (count : Fin 2048), (Row.ioscGood count).Holds)
    ∧ (∀ (count : Fin 2048), (Row.ioscBad count).Holds)
    ∧ (Row.ioscRequalify).Holds
    ∧ (∀ (count : Fin 512), (Row.xtalGood count).Holds)
    ∧ (∀ (sess : Nat) (value : BitVec 32), (Row.referenceSelect sess value).Holds)
    ∧ (∀ (sess : Nat) (clock : Fin 10) (value : Byte), (Row.clockEnableWrite sess clock value).Holds)
    ∧ (∀ (clock : Fin 10), (Row.lossOfClock clock).Holds)
    ∧ (∀ (clock : Fin 10), (Row.pllsLocked clock).Holds)
    ∧ (Row.pciePllLocked).Holds
    ∧ (Row.fallbackTimeout).Holds
    ∧ (Row.aoscFailure).Holds

/-- Power commands, regulators, PMBus and the VFAB rail (R349–R357). -/
def Obligations.PowerStatesAndRegulatorsComplete : Prop :=
  (∀ (sess : Nat), (Row.sleepCommand sess).Holds)
    ∧ (∀ (sess : Nat), (Row.deepSleepCommand sess).Holds)
    ∧ (∀ (sess : Nat), (Row.offCommand sess).Holds)
    ∧ (∀ (sess : Nat), (Row.runCommand sess).Holds)
    ∧ (Row.pholdReleaseTimeout).Holds
    ∧ (∀ (pg : Fin 8), (Row.supplyGoodRise pg).Holds)
    ∧ (Row.externalTimeout).Holds
    ∧ (Row.coreTimeout).Holds
    ∧ (Row.sequenceRetry).Holds
    ∧ (∀ (pg : Fin 8) (ns : Nat), (Row.supplyGoodLost pg ns).Holds)
    ∧ (∀ (l : List PmbusRead), (Row.pmbusPoll l).Holds)
    ∧ (∀ (rail : Fin 8) (status : BitVec 16), (Row.pmbusAlert rail status).Holds)
    ∧ (Row.vfabFault).Holds
    ∧ (Row.vfabBack).Holds
    ∧ (Row.vfabAway).Holds

/-- Wake patterns, wake frames, decoder errors, and the wakes of L channels, segments and pins (R361–R369). -/
def Obligations.WakesAreLatched : Prop :=
  (∀ (c : Fin 72) (dom1 rec_ dom2 : Nat), (Row.canWakePattern c dom1 rec_ dom2).Holds)
    ∧ (∀ (c : Fin 72) (dom1 rec_ : Nat), (Row.partialPattern c dom1 rec_).Holds)
    ∧ (∀ (c : Fin 72), (Row.wakePatternTimeout c).Holds)
    ∧ (∀ (c : Fin 72) (bs : List Byte), (Row.wakeFrame c bs).Holds)
    ∧ (∀ (c : Fin 72), (Row.decoderError c).Holds)
    ∧ (∀ (l : Fin 24) (ns : Nat), (Row.linDominantWake l ns).Holds)
    ∧ (∀ (k : Fin 16) (ns : Nat), (Row.t1sActivityWake k ns).Holds)
    ∧ (∀ (pin : Fin 8) (level : Bool) (ns : Nat), (Row.wakePinEdge pin level ns).Holds)

/-- Network-management domains and the sleep sequence (R372–R381). -/
def Obligations.DomainsAndSleepComplete : Prop :=
  (∀ (d : Fin 64) (port : Fin 160) (bytes : List Byte), (Row.keepAliveReceived d port bytes).Holds)
    ∧ (∀ (d : Fin 64), (Row.keepAliveTimeout d).Holds)
    ∧ (∀ (d : Fin 64), (Row.prepareTimeout d).Holds)
    ∧ (∀ (d : Fin 64), (Row.sendPeriod d).Holds)
    ∧ (∀ (d : Fin 64), (Row.wakeHoldExpiry d).Holds)
    ∧ (∀ (sess : Nat) (d : Fin 64), (Row.localRequest sess d).Holds)
    ∧ (∀ (sess : Nat) (d : Fin 64), (Row.localRequestClear sess d).Holds)
    ∧ (∀ (sess : Nat) (d : Fin 64), (Row.nmEnable sess d).Holds)
    ∧ (Row.sleepSequenceStart).Holds
    ∧ (Row.sleepQuiesceDone).Holds

/-- Mismatches, firmware actions and the starts of the control pairs (R385–R395). -/
def Obligations.PairsAndFirmwareComplete : Prop :=
  (∀ (pair : Fin 3) (channel : Fin 5), (Row.lockstepMismatch pair channel).Holds)
    ∧ (∀ (channel : Fin 5), (Row.sequencerMismatch channel).Holds)
    ∧ (∀ (sess : Nat), (Row.fwErase sess).Holds)
    ∧ (∀ (sess : Nat), (Row.fwCheck sess).Holds)
    ∧ (∀ (sess : Nat) (cover : Bool), (Row.fwActivate sess cover).Holds)
    ∧ (∀ (sess : Nat), (Row.fwConfirm sess).Holds)
    ∧ (∀ (sess : Nat) (cover : Bool), (Row.fwRevert sess cover).Holds)
    ∧ (∀ (ok : Bool), (Row.fwEraseDone ok).Holds)
    ∧ (∀ (sess : Nat) (rec_ : Fin 524288) (r : List Byte), (Row.fwSlotRecordWrite sess rec_ r).Holds)
    ∧ (∀ (pair : Fin 3) (bit us : Nat) (joinPass : Bool), (Row.pairPresent pair bit us joinPass).Holds)
    ∧ (∀ (pair : Fin 3), (Row.pairStartTimeout pair).Holds)

/-- BIST groups, the measured boot, the forwarding point and the end of start-up (R473–R482). -/
def Obligations.StartUpStepsComplete : Prop :=
  (∀ (res : List (Nat × Nat × Nat × Nat × Nat)), (Row.bistGroupEnd res).Holds)
    ∧ (∀ (station signal : Bool × Nat × Nat), (Row.bootMeasurementDone station signal).Holds)
    ∧ (Row.forwardingPoint).Holds
    ∧ (Row.startupComplete).Holds

/-- Resets, link, accesses, rings and messages of the host bridge (R403–R423). -/
def Obligations.HostBridgeCommandsComplete : Prop :=
  (Row.pciePerst).Holds
    ∧ (Row.functionLevelReset).Holds
    ∧ (∀ (speed : Fin 4) (width : Fin 3), (Row.linkGoesUp speed width).Holds)
    ∧ (∀ (speed : Fin 4) (width : Fin 3), (Row.linkGoesDown speed width).Holds)
    ∧ (∀ (off : BitVec 28) (len : Nat) (tag : Fin 1024), (Row.bar0Read off len tag).Holds)
    ∧ (∀ (off : BitVec 28) (len : Nat) (tag : Fin 1024), (Row.bar0ReadHeld off len tag).Holds)
    ∧ (∀ (off : BitVec 28) (data : List Byte) (bs : List Byte), (Row.bar0Write off data bs).Holds)
    ∧ (∀ (tag : Fin 1024) (late : Bool), (Row.delayedReadTimeout tag late).Holds)
    ∧ (∀ (w : Fin 16) (off : BitVec 24) (len : Nat) (tag : Fin 1024) (data : List Byte) (poisoned : Bool), (Row.windowQueueRead w off len tag data poisoned).Holds)
    ∧ (∀ (w : Fin 16) (off : BitVec 24) (len : Nat) (tag : Fin 1024) (data : List Byte) (poisoned : Bool), (Row.windowTableRead w off len tag data poisoned).Holds)
    ∧ (∀ (w : Fin 16) (off : BitVec 24) (len : Nat) (tag : Fin 1024) (data : List Byte), (Row.windowWrite w off len tag data).Holds)
    ∧ (∀ (sess : Nat) (w : Fin 16) (r : List Byte), (Row.translationWindowWrite sess w r).Holds)
    ∧ (∀ (w : Fin 16), (Row.prefetchAgeExpiry w).Holds)
    ∧ (∀ (off : BitVec 12) (len : Nat) (tag : Fin 1024), (Row.queueWindowRead off len tag).Holds)
    ∧ (∀ (ring : Fin 16) (value : BitVec 32), (Row.doorbellWrite ring value).Holds)
    ∧ (∀ (ring : Fin 8) (len : BitVec 16) (kind : Byte) (domain : Fin 64) (data : List Byte), (Row.hostDescriptorFetched ring len kind domain data).Holds)
    ∧ (∀ (ring : Fin 8) (addr : BitVec 64), (Row.partToHostFrame ring addr).Holds)
    ∧ (∀ (vec : Fin 24), (Row.msixCoalesceTimer vec).Holds)

/-- The services of an SDO server (R435–R438). -/
def Obligations.SdoServicesComplete : Prop :=
  (∀ (c : Fin 72) (idx sub n : Nat) (data : List Byte), (Row.sdoExpedited c idx sub n data).Holds)
    ∧ (∀ (c : Fin 72) (data : List Byte), (Row.sdoSegmentedDownload c data).Holds)
    ∧ (∀ (c : Fin 72) (data : List Byte), (Row.sdoDownloadSegment c data).Holds)
    ∧ (∀ (c : Fin 72) (data : List Byte), (Row.sdoInitiateUpload c data).Holds)
    ∧ (∀ (c : Fin 72) (data : List Byte), (Row.sdoUploadSegment c data).Holds)
    ∧ (∀ (c : Fin 72) (data : List Byte), (Row.sdoBlockSegment c data).Holds)
    ∧ (∀ (c : Fin 72) (data : List Byte), (Row.sdoBlockDownload c data).Holds)
    ∧ (∀ (c : Fin 72) (data : List Byte), (Row.sdoBlockUpload c data).Holds)
    ∧ (∀ (c : Fin 72) (data : List Byte), (Row.sdoAbortReceived c data).Holds)
    ∧ (∀ (c : Fin 72), (Row.sdoTimeout c).Holds)

/-- Dalmoly sessions, transaction groups and locks (R429–R443). -/
def Obligations.SessionsGroupsAndLocksComplete : Prop :=
  (∀ (port : Fin 44) (frame : List Byte), (Row.dalmolyOpen port frame).Holds)
    ∧ (∀ (port : Fin 44) (frame : List Byte), (Row.dalmolyRead port frame).Holds)
    ∧ (∀ (port : Fin 44) (frame : List Byte), (Row.dalmolyWrite port frame).Holds)
    ∧ (∀ (port : Fin 44) (frame : List Byte), (Row.dalmolyClose port frame).Holds)
    ∧ (∀ (n : Fin 16), (Row.sessionIdleTimeout n).Holds)
    ∧ (∀ (sess : Nat), (Row.groupBegin sess).Holds)
    ∧ (∀ (sess : Nat), (Row.groupCommit sess).Holds)
    ∧ (∀ (sess : Nat), (Row.groupAbandon sess).Holds)
    ∧ (∀ (idx : BitVec 16), (Row.lockHoldExpiry idx).Holds)
    ∧ (∀ (sess : Nat), (Row.quenchBlockEnd sess).Holds)

/-- Drawbar frames by their mode, the timers of the consist logic and the session target (R458–R469). -/
def Obligations.ConsistCommandsComplete : Prop :=
  (∀ (port : Fin 12) (bytes : List Byte) (ago : Nat), (Row.drawbarLookupFrame port bytes ago).Holds)
    ∧ (∀ (port : Fin 12) (bytes : List Byte) (ago : Nat), (Row.drawbarUnicastFrame port bytes ago).Holds)
    ∧ (∀ (port : Fin 12) (bytes : List Byte) (ago : Nat), (Row.drawbarFloodFrame port bytes ago).Holds)
    ∧ (∀ (port : Fin 12) (bytes : List Byte) (dist : Fin 8), (Row.rollCallReceived port bytes dist).Holds)
    ∧ (∀ (port : Fin 12) (bytes : List Byte), (Row.managementRequest port bytes).Holds)
    ∧ (∀ (port : Fin 12) (bytes : List Byte), (Row.managementAnswer port bytes).Holds)
    ∧ (Row.rollCallTimer).Holds
    ∧ (∀ (d : Fin 8), (Row.heardTimeout d).Holds)
    ∧ (Row.preemptHoldExpiry).Holds
    ∧ (Row.wardenGraceExpiry).Holds
    ∧ (∀ (slot : Fin 32), (Row.forwardTimeout slot).Holds)
    ∧ (Row.conflictClear).Holds
    ∧ (∀ (sess : Nat) (value : BitVec 32), (Row.sessionTargetWrite sess value).Holds)
end

