-- ==== Sys2Proof/Laws/Maps.lean ====
section
/-! SUPPORT. Lists with rising keys: what a write, a deletion and a filter of such a list keep, and what reading it gives. -/

namespace Sys2Proof.Machine

/-- Rising keys as a pairwise order, on which library lemmas apply. -/
theorem keysRise_iff {α : Type} (m : List (Nat × α)) : keysRise m = true ↔ m.Pairwise fun a b => a.1 < b.1 := by
  induction m with
  | nil => simp [keysRise]
  | cons a r ih =>
    obtain ⟨k, v⟩ := a
    cases r with
    | nil => simp [keysRise]
    | cons b r =>
      obtain ⟨k', v'⟩ := b
      simp only [keysRise, Bool.and_eq_true, decide_eq_true_eq, ih]
      constructor
      · rintro ⟨h, p⟩
        refine List.pairwise_cons.2 ⟨fun c hc => ?_, p⟩
        rcases List.mem_cons.1 hc with rfl | hc
        · exact h
        · exact Nat.lt_trans h ((List.pairwise_cons.1 p).1 c hc)
      · intro p
        exact ⟨(List.pairwise_cons.1 p).1 (k', v') (by simp), (List.pairwise_cons.1 p).2⟩

/-- An element of a list with a key set is the one set or was there before. -/
theorem mem_mapSet {α : Type} {m : List (Nat × α)} {x : Nat} {a : α} {e : Nat × α} (h : e ∈ mapSet m x a) : e = (x, a) ∨ e ∈ m := by
  induction m with
  | nil => simpa [mapSet] using h
  | cons b r ih =>
    obtain ⟨k, v⟩ := b
    simp only [mapSet] at h
    split at h
    · simpa using h
    · split at h
      · rcases List.mem_cons.1 h with h | h
        · exact .inl h
        · exact .inr (List.mem_cons_of_mem _ h)
      · rcases List.mem_cons.1 h with h | h
        · exact .inr (h ▸ List.mem_cons_self)
        · exact (ih h).imp id (List.mem_cons_of_mem _)

/-- A key deleted leaves a part of the list. -/
theorem mapDel_sublist {α : Type} (m : List (Nat × α)) (x : Nat) : (mapDel m x).Sublist m := by
  induction m with
  | nil => exact List.Sublist.refl _
  | cons b r ih =>
    obtain ⟨k, v⟩ := b
    simp only [mapDel]
    split
    · exact List.sublist_cons_self _ _
    · split
      · exact List.Sublist.refl _
      · exact ih.cons_cons _

/-- Setting a key keeps the keys rising. -/
theorem keysRise_mapSet {α : Type} {m : List (Nat × α)} (x : Nat) (a : α) (h : keysRise m = true) : keysRise (mapSet m x a) = true := by
  rw [keysRise_iff] at h ⊢
  induction m with
  | nil => simp [mapSet]
  | cons b r ih =>
    obtain ⟨k, v⟩ := b
    obtain ⟨h1, h2⟩ := List.pairwise_cons.1 h
    simp only [mapSet]
    split
    · rename_i hx
      refine List.pairwise_cons.2 ⟨fun c hc => ?_, h⟩
      rcases List.mem_cons.1 hc with rfl | hc
      · exact hx
      · exact Nat.lt_trans hx (h1 c hc)
    · split
      · rename_i hk
        subst hk
        exact List.pairwise_cons.2 ⟨h1, h2⟩
      · rename_i h3 h4
        refine List.pairwise_cons.2 ⟨fun c hc => ?_, ih h2⟩
        rcases mem_mapSet hc with rfl | hc
        · exact show k < x by omega
        · exact h1 c hc

/-- Deleting a key keeps the keys rising. -/
theorem keysRise_mapDel {α : Type} {m : List (Nat × α)} (x : Nat) (h : keysRise m = true) : keysRise (mapDel m x) = true := by
  rw [keysRise_iff] at h ⊢
  exact h.sublist (mapDel_sublist m x)

/-- A filter keeps the keys rising. -/
theorem keysRise_filter {α : Type} {m : List (Nat × α)} (p : Nat × α → Bool) (h : keysRise m = true) : keysRise (m.filter p) = true := by
  rw [keysRise_iff] at h ⊢
  exact h.sublist List.filter_sublist

/-- The canonical form of a list of keys and values over what an unlisted key reads as. -/
theorem canonical_mapPut {α : Type} [DecidableEq α] (f : Nat → α) {m : List (Nat × α)} (x : Nat) (a : α)
    (h : (keysRise m && m.all fun e => e.2 != f e.1) = true) :
    (keysRise (mapPut (f x) m x a) && (mapPut (f x) m x a).all fun e => e.2 != f e.1) = true := by
  rw [Bool.and_eq_true] at h ⊢
  obtain ⟨h1, h2⟩ := h
  rw [List.all_eq_true] at h2 ⊢
  unfold mapPut
  split
  · exact ⟨keysRise_mapDel x h1, fun e he => h2 e ((mapDel_sublist m x).subset he)⟩
  · rename_i hne
    refine ⟨keysRise_mapSet x a h1, fun e he => ?_⟩
    rcases mem_mapSet he with rfl | he
    · simpa using hne
    · exact h2 e he

/-- A part of a canonical list is canonical. -/
theorem canonical_filter {α : Type} [DecidableEq α] (f : Nat → α) {m : List (Nat × α)} (p : Nat × α → Bool)
    (h : (keysRise m && m.all fun e => e.2 != f e.1) = true) :
    (keysRise (m.filter p) && (m.filter p).all fun e => e.2 != f e.1) = true := by
  rw [Bool.and_eq_true] at h ⊢
  obtain ⟨h1, h2⟩ := h
  rw [List.all_eq_true] at h2 ⊢
  exact ⟨keysRise_filter p h1, fun e he => h2 e (List.mem_of_mem_filter he)⟩

/-- Many keys put, one after the other, keep a list canonical. -/
theorem canonical_foldl {α : Type} [DecidableEq α] (f : Nat → α) (g : Nat × α → Nat) (l : List (Nat × α)) (m : List (Nat × α))
    (h : (keysRise m && m.all fun e => e.2 != f e.1) = true) :
    (keysRise (l.foldl (fun m c => mapPut (f (g c)) m (g c) c.2) m)
      && (l.foldl (fun m c => mapPut (f (g c)) m (g c) c.2) m).all fun e => e.2 != f e.1) = true := by
  induction l generalizing m with
  | nil => exact h
  | cons c r ih => exact ih _ (canonical_mapPut f (g c) c.2 h)

/-- Reading back the key set. -/
@[simp] theorem mapGet_mapSet_self {α : Type} (m : List (Nat × α)) (x : Nat) (a : α) : mapGet (mapSet m x a) x = some a := by
  induction m with
  | nil => simp [mapSet, mapGet]
  | cons b r ih =>
    obtain ⟨k, v⟩ := b
    simp only [mapSet]
    split
    · simp [mapGet]
    · split
      · simp [mapGet]
      · rename_i h1 h2
        simp only [mapGet, if_neg h2, if_neg h1, ih]

/-- Reading another key than the one set. -/
theorem mapGet_mapSet_ne {α : Type} (m : List (Nat × α)) {x y : Nat} (a : α) (h : y ≠ x) : mapGet (mapSet m x a) y = mapGet m y := by
  induction m with
  | nil => simp [mapSet, mapGet, h.symm]
  | cons b r ih =>
    obtain ⟨k, v⟩ := b
    simp only [mapSet]
    split
    · rename_i hx
      simp only [mapGet, if_neg h.symm]
      split
      · rw [if_neg (by omega), if_pos (by omega)]
      · rfl
    · split
      · rename_i h1 h2
        subst h2
        simp only [mapGet, if_neg h.symm]
      · simp only [mapGet, ih]

end Sys2Proof.Machine
end

