-- ==== Sys2Proof/Laws/Keeps.lean ====
section
/-! SUPPORT. The shape of the proofs that work keeps what every command keeps (`State.Keeps`): reflexivity, the ways a body is put
together, and the named operations of Ops. -/

namespace Sys2Proof.Machine

variable {s0 s t : State}

theorem State.Keeps.refl (s : State) : s.Keeps s := ⟨rfl, le_refl _, le_refl _, List.suffix_refl _, id, id⟩

theorem State.Keeps.trans (h : s0.Keeps s) (k : s.Keeps t) : s0.Keeps t :=
  ⟨k.queue.trans h.queue, h.time.trans k.time, h.draws.trans k.draws, h.log.trans k.log, k.scalars ∘ h.scalars, k.windows ∘ h.windows⟩

/-- Work that leaves the six parts alone. -/
theorem State.Keeps.same (h : s0.Keeps s) (h1 : t.pending = s.pending) (h2 : t.now = s.now) (h3 : t.fresh = s.fresh)
    (h4 : t.outputs = s.outputs) (h5 : t.regs = s.regs) (h6 : t.wins = s.wins) : s0.Keeps t :=
  ⟨h1.trans h.queue, by rw [h2]; exact h.time, by rw [h3]; exact h.draws, by rw [h4]; exact h.log, by rw [h5]; exact h.scalars,
   by rw [h6]; exact h.windows⟩

theorem State.Keeps.id (h : s0.Keeps s) : s0.Keeps (id s) := h

theorem State.Keeps.ite {c : Prop} [Decidable c] {a b : State} (ha : s0.Keeps a) (hb : s0.Keeps b) :
    s0.Keeps (if c then a else b) := by split <;> assumption

theorem State.Keeps.ite_fst {α : Type} {c : Prop} [Decidable c] {a b : State × α} (ha : s0.Keeps a.1) (hb : s0.Keeps b.1) :
    s0.Keeps (if c then a else b).1 := by split <;> assumption

theorem State.Keeps.ite_snd {α : Type} {c : Prop} [Decidable c] {a b : α × State} (ha : s0.Keeps a.2) (hb : s0.Keeps b.2) :
    s0.Keeps (if c then a else b).2 := by split <;> assumption

/-- A local value of a body: what it keeps, and what the rest keeps of it. -/
theorem State.Keeps.local {G : Prop} {x v : State} (e : x = v) (hv : s0.Keeps v) (hb : s0.Keeps x → G) : G := hb (e ▸ hv)

theorem State.Keeps.of_snd {α : Type} {p : α × State} {a : α} (e : p = (a, t)) (h : s0.Keeps p.2) : s0.Keeps t := by
  rw [e] at h; exact h

theorem State.Keeps.of_fst {α : Type} {p : State × α} {a : α} (e : p = (t, a)) (h : s0.Keeps p.1) : s0.Keeps t := by
  rw [e] at h; exact h

theorem State.Keeps.of_third {α β : Type} {p : α × β × State} {a : α} {b : β} (e : p = (a, b, t)) (h : s0.Keeps p.2.2) : s0.Keeps t := by
  rw [e] at h; exact h

theorem State.forEach_keeps {α : Type} {l : List α} {f : State → α → State} (hf : ∀ u a, s0.Keeps u → s0.Keeps (f u a))
    (h : s0.Keeps s) : s0.Keeps (s.forEach l f) := by
  unfold State.forEach
  induction l generalizing s with
  | nil => exact h
  | cons a r ih => exact ih (hf s a h)

theorem State.foldl_keeps {α : Type} {l : List α} {f : State → α → State} (hf : ∀ u a, s0.Keeps u → s0.Keeps (f u a))
    (h : s0.Keeps s) : s0.Keeps (l.foldl f s) := State.forEach_keeps hf h

/-- A record update that leaves the six parts alone. -/
theorem State.Keeps.rest {f0 : Bool} {f1 : PowerMode} {f2 : CarState} {f3 : ProbeState} {f4 : BufState} {f5 : RouteState} {f6 : EthState} {f7 :
    List (Nat × ChanDyn)} {f8 : GwState} {f9 : TmState} {f10 : FwState} {f11 : CryptoState} {f12 : KeyState} {f13 :
    ConsistState} {f14 : StartState} {f15 : PowerState} {f16 : WakeState} {f17 : CtlState} {f18 : HostState} {f19 :
    SessState} {f20 : TimeState}
    (h : s0.Keeps s) :
    s0.Keeps (State.mk s.pending s.outputs s.now s.fresh s.regs s.wins f0 f1 f2 f3 f4 f5 f6 f7 f8 f9 f10 f11 f12 f13 f14 f15 f16 f17
      f18 f19 f20) :=
  h.same rfl rfl rfl rfl rfl rfl

theorem Out.Keeps.next (h : s0.Keeps s) : Out.Keeps s0 (.next s) := fun _ e => by cases e; exact h

theorem Out.Keeps.refused {r : Refusal} : Out.Keeps s0 (.refused r) := fun _ e => by cases e

theorem Out.Keeps.fault {r : Fault} : Out.Keeps s0 (.fault r) := fun _ e => by cases e

theorem Out.Keeps.ite {c : Prop} [Decidable c] {a b : Out} (ha : Out.Keeps s0 a) (hb : Out.Keeps s0 b) :
    Out.Keeps s0 (if c then a else b) := by split <;> assumption

end Sys2Proof.Machine
end

