-- ==== Sys2Proof/Laws/KeepsOps.lean ====
section
/-! SUPPORT. What the definitions of Machine/Ops keep (`State.Keeps`). -/

set_option linter.unusedTactic false
set_option linter.unreachableTactic false

namespace Sys2Proof.Machine

theorem State.wr_keeps {s0 s : State} {idx sub v : Nat} (h : s0.Keeps s) : s0.Keeps (s.wr idx sub v) :=
  ⟨h.queue, h.time, h.draws, h.log, fun k => canonical_mapPut regDefault _ _ (h.scalars k), h.windows⟩

theorem State.wrF_keeps {s0 s : State} {idx : Nat} {sub : Nat} {hi : Nat} {lo : Nat} {v : Nat} (kept : s0.Keeps s) :
    s0.Keeps (State.wrF s idx sub hi lo v) := by
  unfold State.wrF
  repeat' first
    | with_reducible intro _
    | with_reducible assumption
    | with_reducible exact State.Keeps.refl _
    | (extract_lets +onlyGivenNames x; clear_value (hx : x = _); first | refine State.Keeps.local (s0 := s0) hx ?_ fun k => ?_ | skip)
    | with_reducible apply State.Keeps.ite
    | with_reducible apply State.wr_keeps
    | fail_if_no_progress (with_reducible apply State.Keeps.rest)
    | dsimp only
    | split

theorem State.wrB_keeps {s0 s : State} {idx : Nat} {sub : Nat} {i : Nat} {b : Bool} (kept : s0.Keeps s) :
    s0.Keeps (State.wrB s idx sub i b) := by
  unfold State.wrB
  repeat' first
    | with_reducible intro _
    | with_reducible assumption
    | with_reducible exact State.Keeps.refl _
    | (extract_lets +onlyGivenNames x; clear_value (hx : x = _); first | refine State.Keeps.local (s0 := s0) hx ?_ fun k => ?_ | skip)
    | with_reducible apply State.Keeps.ite
    | with_reducible apply State.wrF_keeps
    | fail_if_no_progress (with_reducible apply State.Keeps.rest)
    | dsimp only
    | split

theorem State.bump_keeps {s0 s : State} {idx : Nat} {sub : Nat} {n : Nat} (kept : s0.Keeps s) :
    s0.Keeps (State.bump s idx sub n) := by
  unfold State.bump
  repeat' first
    | with_reducible intro _
    | with_reducible assumption
    | with_reducible exact State.Keeps.refl _
    | (extract_lets +onlyGivenNames x; clear_value (hx : x = _); first | refine State.Keeps.local (s0 := s0) hx ?_ fun k => ?_ | skip)
    | with_reducible apply State.Keeps.ite
    | with_reducible apply State.wr_keeps
    | fail_if_no_progress (with_reducible apply State.Keeps.rest)
    | dsimp only
    | split

theorem State.bump64_keeps {s0 s : State} {idx : Nat} {sub : Nat} {n : Nat} (kept : s0.Keeps s) :
    s0.Keeps (State.bump64 s idx sub n) := by
  unfold State.bump64
  repeat' first
    | with_reducible intro _
    | with_reducible assumption
    | with_reducible exact State.Keeps.refl _
    | (extract_lets +onlyGivenNames x; clear_value (hx : x = _); first | refine State.Keeps.local (s0 := s0) hx ?_ fun k => ?_ | skip)
    | with_reducible apply State.Keeps.ite
    | with_reducible apply State.wr_keeps
    | fail_if_no_progress (with_reducible apply State.Keeps.rest)
    | dsimp only
    | split

theorem State.setWinB_keeps {s0 s : State} {idx sub off v : Nat} (h : s0.Keeps s) : s0.Keeps (s.setWinB idx sub off v) :=
  ⟨h.queue, h.time, h.draws, h.log, h.scalars, fun k => canonical_mapPut byteDefault _ _ (h.windows k)⟩

theorem State.dropWins_keeps {s0 s : State} {lo hi : Nat} (h : s0.Keeps s) : s0.Keeps (s.dropWins lo hi) :=
  ⟨h.queue, h.time, h.draws, h.log, h.scalars, fun k => canonical_filter byteDefault _ (h.windows k)⟩

theorem State.setWin_keeps {s0 s : State} {idx sub off : Nat} {bs : List Byte} (h : s0.Keeps s) : s0.Keeps (s.setWin idx sub off bs) := by
  induction bs generalizing s off with
  | nil => exact h
  | cons b r ih => exact ih (State.setWinB_keeps h)

theorem State.setWinLe_keeps {s0 s : State} {idx : Nat} {sub : Nat} {off : Nat} {n : Nat} {v : Nat} (kept : s0.Keeps s) :
    s0.Keeps (State.setWinLe s idx sub off n v) := by
  unfold State.setWinLe
  repeat' first
    | with_reducible intro _
    | with_reducible assumption
    | with_reducible exact State.Keeps.refl _
    | (extract_lets +onlyGivenNames x; clear_value (hx : x = _); first | refine State.Keeps.local (s0 := s0) hx ?_ fun k => ?_ | skip)
    | with_reducible apply State.Keeps.ite
    | with_reducible apply State.setWin_keeps
    | fail_if_no_progress (with_reducible apply State.Keeps.rest)
    | dsimp only
    | split

theorem State.bumpWin_keeps {s0 s : State} {idx : Nat} {sub : Nat} {off : Nat} {n : Nat} {k : Nat} (kept : s0.Keeps s) :
    s0.Keeps (State.bumpWin s idx sub off n k) := by
  unfold State.bumpWin
  repeat' first
    | with_reducible intro _
    | with_reducible assumption
    | with_reducible exact State.Keeps.refl _
    | (extract_lets +onlyGivenNames x; clear_value (hx : x = _); first | refine State.Keeps.local (s0 := s0) hx ?_ fun k => ?_ | skip)
    | with_reducible apply State.Keeps.ite
    | with_reducible apply State.setWinLe_keeps
    | fail_if_no_progress (with_reducible apply State.Keeps.rest)
    | dsimp only
    | split

theorem State.tick_keeps {s0 s : State} {dt : Nat} (h : s0.Keeps s) : s0.Keeps (s.tick dt) := by
  unfold State.tick
  dsimp only
  split <;> exact ⟨h.queue, Nat.le_add_right_of_le h.time, h.draws, h.log, h.scalars, h.windows⟩

theorem State.event_keeps {s0 s : State} {src : Nat} {code : Nat} {d0 : Nat} {d1 : Nat} {d2 : Nat} (kept : s0.Keeps s) :
    s0.Keeps (State.event s src code d0 d1 d2) := by
  unfold State.event
  repeat' first
    | with_reducible intro _
    | with_reducible assumption
    | with_reducible exact State.Keeps.refl _
    | (extract_lets +onlyGivenNames x; clear_value (hx : x = _); first | refine State.Keeps.local (s0 := s0) hx ?_ fun k => ?_ | skip)
    | with_reducible apply State.Keeps.ite
    | with_reducible apply State.setWin_keeps
    | with_reducible apply State.bump_keeps
    | fail_if_no_progress (with_reducible apply State.Keeps.rest)
    | dsimp only
    | split

theorem State.emit_keeps {s0 s : State} {o : Output} (h : s0.Keeps s) : s0.Keeps (s.emit o) :=
  ⟨h.queue, h.time, h.draws, h.log.trans (List.suffix_cons _ _), h.scalars, h.windows⟩

theorem State.emits_keeps {s0 s : State} {x1 : List Output} (kept : s0.Keeps s) :
    s0.Keeps (State.emits s x1) := by
  induction x1 generalizing s with
  | nil =>
    unfold State.emits
    repeat' first
      | with_reducible intro _
      | with_reducible assumption
      | with_reducible exact State.Keeps.refl _
      | (extract_lets +onlyGivenNames x; clear_value (hx : x = _); first | refine State.Keeps.local (s0 := s0) hx ?_ fun k => ?_ | skip)
      | with_reducible apply State.Keeps.ite
      | with_reducible apply State.emit_keeps
      | fail_if_no_progress (with_reducible apply State.Keeps.rest)
      | dsimp only
      | split
  | cons y r ih =>
    unfold State.emits
    repeat' first
      | with_reducible intro _
      | with_reducible assumption
      | with_reducible apply ih
      | with_reducible exact State.Keeps.refl _
      | (extract_lets +onlyGivenNames x; clear_value (hx : x = _); first | refine State.Keeps.local (s0 := s0) hx ?_ fun k => ?_ | skip)
      | with_reducible apply State.Keeps.ite
      | with_reducible apply State.emit_keeps
      | fail_if_no_progress (with_reducible apply State.Keeps.rest)
      | dsimp only
      | split

theorem State.draw_keeps {s0 s : State} (h : s0.Keeps s) : s0.Keeps s.draw.2 :=
  ⟨h.queue, h.time, Nat.le_succ_of_le h.draws, h.log, h.scalars, h.windows⟩



end Sys2Proof.Machine
end

