-- ==== Sys2Proof/Laws/KeepsCarriage.lean ====
section
/-! SUPPORT. What the definitions of Machine/Carriage keep (`State.Keeps`). -/

set_option linter.unusedTactic false
set_option linter.unreachableTactic false

namespace Sys2Proof.Machine

theorem State.withCar_keeps {s0 s : State} {f : CarState → CarState} (kept : s0.Keeps s) :
    s0.Keeps (State.withCar s f) := by
  unfold State.withCar
  repeat' first
    | with_reducible intro _
    | with_reducible assumption
    | with_reducible exact State.Keeps.refl _
    | (extract_lets +onlyGivenNames x; clear_value (hx : x = _); first | refine State.Keeps.local (s0 := s0) hx ?_ fun k => ?_ | skip)
    | with_reducible apply State.Keeps.ite
    | fail_if_no_progress (with_reducible apply State.Keeps.rest)
    | dsimp only
    | split

theorem State.setCar_keeps {s0 s : State} {n : Nat} {st : Nat} (kept : s0.Keeps s) :
    s0.Keeps (State.setCar s n st) := by
  unfold State.setCar
  repeat' first
    | with_reducible intro _
    | with_reducible assumption
    | with_reducible exact State.Keeps.refl _
    | (extract_lets +onlyGivenNames x; clear_value (hx : x = _); first | refine State.Keeps.local (s0 := s0) hx ?_ fun k => ?_ | skip)
    | with_reducible apply State.Keeps.ite
    | with_reducible apply State.wrF_keeps
    | fail_if_no_progress (with_reducible apply State.Keeps.rest)
    | dsimp only
    | split

theorem State.repairWindow_keeps {s0 s : State} {n : Nat} (kept : s0.Keeps s) :
    s0.Keeps (State.repairWindow s n) := by
  unfold State.repairWindow
  repeat' first
    | with_reducible intro _
    | with_reducible assumption
    | with_reducible exact State.Keeps.refl _
    | (extract_lets +onlyGivenNames x; clear_value (hx : x = _); first | refine State.Keeps.local (s0 := s0) hx ?_ fun k => ?_ | skip)
    | with_reducible apply State.Keeps.ite
    | fail_if_no_progress (with_reducible apply State.Keeps.rest)
    | dsimp only
    | split

theorem State.dropSeq_keeps {s0 s : State} {n : Nat} (kept : s0.Keeps s) :
    s0.Keeps (State.dropSeq s n) := by
  unfold State.dropSeq
  repeat' first
    | with_reducible intro _
    | with_reducible assumption
    | with_reducible exact State.Keeps.refl _
    | (extract_lets +onlyGivenNames x; clear_value (hx : x = _); first | refine State.Keeps.local (s0 := s0) hx ?_ fun k => ?_ | skip)
    | with_reducible apply State.Keeps.ite
    | with_reducible apply State.withCar_keeps
    | fail_if_no_progress (with_reducible apply State.Keeps.rest)
    | dsimp only
    | split

theorem State.putSeq_keeps {s0 s : State} {q : CarSeq} (kept : s0.Keeps s) :
    s0.Keeps (State.putSeq s q) := by
  unfold State.putSeq
  repeat' first
    | with_reducible intro _
    | with_reducible assumption
    | with_reducible exact State.Keeps.refl _
    | (extract_lets +onlyGivenNames x; clear_value (hx : x = _); first | refine State.Keeps.local (s0 := s0) hx ?_ fun k => ?_ | skip)
    | with_reducible apply State.Keeps.ite
    | with_reducible apply State.withCar_keeps
    | fail_if_no_progress (with_reducible apply State.Keeps.rest)
    | dsimp only
    | split

theorem State.startSeq_keeps {s0 s : State} {n : Nat} {act : SeqAct} {phase : SeqPhase} {reason : Nat} {limit : Nat} {unit : Nat} {spare : Nat} {cmd : Bool} {fifth : Bool} (kept : s0.Keeps s) :
    s0.Keeps (State.startSeq s n act phase reason limit unit spare cmd fifth) := by
  unfold State.startSeq
  repeat' first
    | with_reducible intro _
    | with_reducible assumption
    | with_reducible exact State.Keeps.refl _
    | (extract_lets +onlyGivenNames x; clear_value (hx : x = _); first | refine State.Keeps.local (s0 := s0) hx ?_ fun k => ?_ | skip)
    | with_reducible apply State.Keeps.ite
    | with_reducible apply State.setCar_keeps
    | with_reducible apply State.withCar_keeps
    | with_reducible apply State.bump_keeps
    | with_reducible apply State.wrF_keeps
    | fail_if_no_progress (with_reducible apply State.Keeps.rest)
    | dsimp only
    | split

theorem State.endCommand_keeps {s0 s : State} {n : Nat} {result : Nat} (kept : s0.Keeps s) :
    s0.Keeps (State.endCommand s n result) := by
  unfold State.endCommand
  repeat' first
    | with_reducible intro _
    | with_reducible assumption
    | with_reducible exact State.Keeps.refl _
    | (extract_lets +onlyGivenNames x; clear_value (hx : x = _); first | refine State.Keeps.local (s0 := s0) hx ?_ fun k => ?_ | skip)
    | with_reducible apply State.Keeps.ite
    | with_reducible apply State.withCar_keeps
    | with_reducible apply State.wrF_keeps
    | fail_if_no_progress (with_reducible apply State.Keeps.rest)
    | dsimp only
    | split

theorem State.becomePresent_keeps {s0 s : State} {n : Nat} {reason : Nat} {result : Nat} (kept : s0.Keeps s) :
    s0.Keeps (State.becomePresent s n reason result) := by
  unfold State.becomePresent
  repeat' first
    | with_reducible intro _
    | with_reducible assumption
    | with_reducible exact State.Keeps.refl _
    | (extract_lets +onlyGivenNames x; clear_value (hx : x = _); first | refine State.Keeps.local (s0 := s0) hx ?_ fun k => ?_ | skip)
    | with_reducible apply State.Keeps.ite
    | with_reducible apply State.repairWindow_keeps
    | with_reducible apply State.setCar_keeps
    | with_reducible apply State.withCar_keeps
    | with_reducible apply State.event_keeps
    | with_reducible apply State.wrF_keeps
    | with_reducible apply State.wr_keeps
    | fail_if_no_progress (with_reducible apply State.Keeps.rest)
    | dsimp only
    | split

theorem State.fenceSteps_keeps {s0 s : State} {n : Nat} {reason : Nat} {completed : Nat} (kept : s0.Keeps s) :
    s0.Keeps (State.fenceSteps s n reason completed) := by
  unfold State.fenceSteps
  repeat' first
    | with_reducible intro _
    | with_reducible assumption
    | with_reducible exact State.Keeps.refl _
    | (extract_lets +onlyGivenNames x; clear_value (hx : x = _); first | refine State.Keeps.local (s0 := s0) hx ?_ fun k => ?_ | skip)
    | with_reducible apply State.Keeps.ite
    | with_reducible apply State.setCar_keeps
    | with_reducible apply State.withCar_keeps
    | with_reducible apply State.forEach_keeps
    | with_reducible apply State.event_keeps
    | with_reducible apply State.bump_keeps
    | with_reducible apply State.wr_keeps
    | fail_if_no_progress (with_reducible apply State.Keeps.rest)
    | dsimp only
    | split

theorem State.skipTest_keeps {s0 s : State} (kept : s0.Keeps s) :
    s0.Keeps (State.skipTest s) := by
  unfold State.skipTest
  repeat' first
    | with_reducible intro _
    | with_reducible assumption
    | with_reducible exact State.Keeps.refl _
    | (extract_lets +onlyGivenNames x; clear_value (hx : x = _); first | refine State.Keeps.local (s0 := s0) hx ?_ fun k => ?_ | skip)
    | with_reducible apply State.Keeps.ite
    | with_reducible apply State.withCar_keeps
    | with_reducible apply State.bump_keeps
    | fail_if_no_progress (with_reducible apply State.Keeps.rest)
    | dsimp only
    | split

theorem State.abandonTest_keeps {s0 s : State} (kept : s0.Keeps s) :
    s0.Keeps (State.abandonTest s) := by
  unfold State.abandonTest
  repeat' first
    | with_reducible intro _
    | with_reducible assumption
    | with_reducible exact State.Keeps.refl _
    | (extract_lets +onlyGivenNames x; clear_value (hx : x = _); first | refine State.Keeps.local (s0 := s0) hx ?_ fun k => ?_ | skip)
    | with_reducible apply State.Keeps.ite
    | with_reducible apply State.skipTest_keeps
    | with_reducible apply State.becomePresent_keeps
    | with_reducible apply State.setCar_keeps
    | fail_if_no_progress (with_reducible apply State.Keeps.rest)
    | dsimp only
    | split

theorem State.restartCarriage_keeps {s0 s : State} {n : Nat} {reason : Nat} {limit : Nat} (kept : s0.Keeps s) :
    s0.Keeps (State.restartCarriage s n reason limit) := by
  unfold State.restartCarriage
  repeat' first
    | with_reducible intro _
    | with_reducible assumption
    | with_reducible exact State.Keeps.refl _
    | (extract_lets +onlyGivenNames x; clear_value (hx : x = _); first | refine State.Keeps.local (s0 := s0) hx ?_ fun k => ?_ | skip)
    | with_reducible apply State.Keeps.ite
    | with_reducible apply State.abandonTest_keeps
    | with_reducible apply State.skipTest_keeps
    | with_reducible apply State.endCommand_keeps
    | with_reducible apply State.startSeq_keeps
    | with_reducible apply State.putSeq_keeps
    | with_reducible apply State.setCar_keeps
    | with_reducible apply State.withCar_keeps
    | with_reducible apply State.bump_keeps
    | with_reducible apply State.wrF_keeps
    | fail_if_no_progress (with_reducible apply State.Keeps.rest)
    | dsimp only
    | split

theorem State.exhausted_keeps {s0 s : State} {n : Nat} {unit : Nat} (kept : s0.Keeps s) :
    s0.Keeps (State.exhausted s n unit) := by
  unfold State.exhausted
  repeat' first
    | with_reducible intro _
    | with_reducible assumption
    | with_reducible exact State.Keeps.refl _
    | (extract_lets +onlyGivenNames x; clear_value (hx : x = _); first | refine State.Keeps.local (s0 := s0) hx ?_ fun k => ?_ | skip)
    | with_reducible apply State.Keeps.ite
    | with_reducible apply State.event_keeps
    | fail_if_no_progress (with_reducible apply State.Keeps.rest)
    | dsimp only
    | split

theorem State.request_keeps {s0 s : State} {requester : Nat} {target : Nat} {tag : Nat} {op : CouplingOp} (kept : s0.Keeps s) :
    s0.Keeps (State.request s requester target tag op) := by
  unfold State.request
  repeat' first
    | with_reducible intro _
    | with_reducible assumption
    | with_reducible exact State.Keeps.refl _
    | (extract_lets +onlyGivenNames x; clear_value (hx : x = _); first | refine State.Keeps.local (s0 := s0) hx ?_ fun k => ?_ | skip)
    | with_reducible apply State.Keeps.ite
    | with_reducible apply State.withCar_keeps
    | with_reducible apply State.bump_keeps
    | fail_if_no_progress (with_reducible apply State.Keeps.rest)
    | dsimp only
    | split

theorem State.deliverAck_keeps {s0 s : State} {a : CAck} (kept : s0.Keeps s) :
    s0.Keeps (State.deliverAck s a) := by
  unfold State.deliverAck
  repeat' first
    | with_reducible intro _
    | with_reducible assumption
    | with_reducible exact State.Keeps.refl _
    | (extract_lets +onlyGivenNames x; clear_value (hx : x = _); first | refine State.Keeps.local (s0 := s0) hx ?_ fun k => ?_ | skip)
    | with_reducible apply State.Keeps.ite
    | with_reducible apply State.emit_keeps
    | with_reducible apply State.bump_keeps
    | fail_if_no_progress (with_reducible apply State.Keeps.rest)
    | dsimp only
    | split

end Sys2Proof.Machine
end

