-- ==== Sys2Proof/Laws/KeepsBuffer.lean ====
section
/-! SUPPORT. What the definitions of Machine/Buffer keep (`State.Keeps`). -/

set_option linter.unusedTactic false
set_option linter.unreachableTactic false

namespace Sys2Proof.Machine

theorem State.withBuf_keeps {s0 s : State} {f : BufState → BufState} (kept : s0.Keeps s) :
    s0.Keeps (State.withBuf s f) := by
  unfold State.withBuf
  repeat' first
    | with_reducible intro _
    | with_reducible assumption
    | with_reducible exact State.Keeps.refl _
    | (extract_lets +onlyGivenNames x; clear_value (hx : x = _); first | refine State.Keeps.local (s0 := s0) hx ?_ fun k => ?_ | skip)
    | with_reducible apply State.Keeps.ite
    | fail_if_no_progress (with_reducible apply State.Keeps.rest)
    | dsimp only
    | split

theorem State.withTm_keeps {s0 s : State} {f : TmState → TmState} (kept : s0.Keeps s) :
    s0.Keeps (State.withTm s f) := by
  unfold State.withTm
  repeat' first
    | with_reducible intro _
    | with_reducible assumption
    | with_reducible exact State.Keeps.refl _
    | (extract_lets +onlyGivenNames x; clear_value (hx : x = _); first | refine State.Keeps.local (s0 := s0) hx ?_ fun k => ?_ | skip)
    | with_reducible apply State.Keeps.ite
    | fail_if_no_progress (with_reducible apply State.Keeps.rest)
    | dsimp only
    | split

theorem State.setFrame_keeps {s0 s : State} {id : Nat} {f : Frame} (kept : s0.Keeps s) :
    s0.Keeps (State.setFrame s id f) := by
  unfold State.setFrame
  repeat' first
    | with_reducible intro _
    | with_reducible assumption
    | with_reducible exact State.Keeps.refl _
    | (extract_lets +onlyGivenNames x; clear_value (hx : x = _); first | refine State.Keeps.local (s0 := s0) hx ?_ fun k => ?_ | skip)
    | with_reducible apply State.Keeps.ite
    | with_reducible apply State.withBuf_keeps
    | with_reducible apply State.Keeps.id
    | fail_if_no_progress (with_reducible apply State.Keeps.rest)
    | dsimp only
    | split

theorem State.modFrame_keeps {s0 s : State} {id : Nat} {g : Frame → Frame} (kept : s0.Keeps s) :
    s0.Keeps (State.modFrame s id g) := by
  unfold State.modFrame
  repeat' first
    | with_reducible intro _
    | with_reducible assumption
    | with_reducible exact State.Keeps.refl _
    | (extract_lets +onlyGivenNames x; clear_value (hx : x = _); first | refine State.Keeps.local (s0 := s0) hx ?_ fun k => ?_ | skip)
    | with_reducible apply State.Keeps.ite
    | with_reducible apply State.setFrame_keeps
    | with_reducible apply State.Keeps.id
    | fail_if_no_progress (with_reducible apply State.Keeps.rest)
    | dsimp only
    | split

theorem State.eraseFrame_keeps {s0 s : State} {id : Nat} (kept : s0.Keeps s) :
    s0.Keeps (State.eraseFrame s id) := by
  unfold State.eraseFrame
  repeat' first
    | with_reducible intro _
    | with_reducible assumption
    | with_reducible exact State.Keeps.refl _
    | (extract_lets +onlyGivenNames x; clear_value (hx : x = _); first | refine State.Keeps.local (s0 := s0) hx ?_ fun k => ?_ | skip)
    | with_reducible apply State.Keeps.ite
    | with_reducible apply State.withBuf_keeps
    | with_reducible apply State.Keeps.id
    | fail_if_no_progress (with_reducible apply State.Keeps.rest)
    | dsimp only
    | split

theorem State.allocCell_keeps {s0 s t : State} {early : Bool} {b : Nat} (e : s.allocCell early = some (b, t)) (h : s0.Keeps s) :
    s0.Keeps t := by
  unfold State.allocCell at e
  split at e
  · split at e
    · cases e
      exact State.withBuf_keeps h
    · cases e
  · cases e

theorem State.noteLeast_keeps {s0 s : State} (kept : s0.Keeps s) :
    s0.Keeps (State.noteLeast s) := by
  unfold State.noteLeast
  repeat' first
    | with_reducible intro _
    | with_reducible assumption
    | with_reducible exact State.Keeps.refl _
    | (extract_lets +onlyGivenNames x; clear_value (hx : x = _); first | refine State.Keeps.local (s0 := s0) hx ?_ fun k => ?_ | skip)
    | with_reducible apply State.Keeps.ite
    | with_reducible apply State.withBuf_keeps
    | fail_if_no_progress (with_reducible apply State.Keeps.rest)
    | dsimp only
    | split

theorem State.growCells_keeps {s0 s : State} {id : Nat} {want : Nat} {x1 : Nat} (kept : s0.Keeps s) :
    s0.Keeps (State.growCells s id want x1).1 := by
  induction x1 generalizing s id want with
  | zero =>
    unfold State.growCells
    repeat' first
      | with_reducible intro _
      | with_reducible assumption
      | with_reducible exact State.Keeps.refl _
      | (extract_lets +onlyGivenNames x; clear_value (hx : x = _); first | refine State.Keeps.local (s0 := s0) hx ?_ fun k => ?_ | skip)
      | with_reducible apply State.Keeps.ite
      | with_reducible apply State.noteLeast_keeps
      | with_reducible apply State.setFrame_keeps
      | with_reducible apply State.Keeps.id
      | with_reducible apply State.Keeps.ite_fst
      | fail_if_no_progress (with_reducible apply State.Keeps.rest)
      | dsimp only
      | refine State.allocCell_keeps ‹_ = some (_, _)› ?_
      | split
  | succ k ih =>
    unfold State.growCells
    repeat' first
      | with_reducible intro _
      | with_reducible assumption
      | with_reducible apply ih
      | with_reducible exact State.Keeps.refl _
      | (extract_lets +onlyGivenNames x; clear_value (hx : x = _); first | refine State.Keeps.local (s0 := s0) hx ?_ fun k => ?_ | skip)
      | with_reducible apply State.Keeps.ite
      | with_reducible apply State.noteLeast_keeps
      | with_reducible apply State.setFrame_keeps
      | with_reducible apply State.Keeps.id
      | with_reducible apply State.Keeps.ite_fst
      | fail_if_no_progress (with_reducible apply State.Keeps.rest)
      | dsimp only
      | refine State.allocCell_keeps ‹_ = some (_, _)› ?_
      | split

theorem State.appendBytes_keeps {s0 s : State} {id : Nat} {bs : List Byte} (kept : s0.Keeps s) :
    s0.Keeps (State.appendBytes s id bs).1 := by
  unfold State.appendBytes
  repeat' first
    | with_reducible intro _
    | with_reducible assumption
    | with_reducible exact State.Keeps.refl _
    | (extract_lets +onlyGivenNames x; clear_value (hx : x = _); first | refine State.Keeps.local (s0 := s0) hx ?_ fun k => ?_ | skip)
    | with_reducible apply State.Keeps.ite
    | with_reducible apply State.growCells_keeps
    | with_reducible apply State.modFrame_keeps
    | with_reducible apply State.Keeps.id
    | with_reducible apply State.Keeps.ite_fst
    | fail_if_no_progress (with_reducible apply State.Keeps.rest)
    | dsimp only
    | refine State.Keeps.of_fst ‹_ = (_, _)› ?_
    | split

theorem State.buildFrame_keeps {s0 s t : State} {f : Frame} {bs : List Byte} {b : Nat} (e : s.buildFrame f bs = some (b, t))
    (h : s0.Keeps s) : s0.Keeps t := by
  unfold State.buildFrame at e
  dsimp only at e
  split at e
  · cases e
    exact State.modFrame_keeps (State.appendBytes_keeps (State.withBuf_keeps h))
  · cases e

theorem State.newFrame_keeps {s0 s : State} {f : Frame} (kept : s0.Keeps s) :
    s0.Keeps (State.newFrame s f).2 := by
  unfold State.newFrame
  repeat' first
    | with_reducible intro _
    | with_reducible assumption
    | with_reducible exact State.Keeps.refl _
    | (extract_lets +onlyGivenNames x; clear_value (hx : x = _); first | refine State.Keeps.local (s0 := s0) hx ?_ fun k => ?_ | skip)
    | with_reducible apply State.Keeps.ite
    | with_reducible apply State.withBuf_keeps
    | with_reducible apply State.Keeps.ite_snd
    | fail_if_no_progress (with_reducible apply State.Keeps.rest)
    | dsimp only
    | split

theorem State.countRefusal_keeps {s0 s : State} {port : Nat} {cls : Nat} {reason : Nat} (kept : s0.Keeps s) :
    s0.Keeps (State.countRefusal s port cls reason) := by
  unfold State.countRefusal
  repeat' first
    | with_reducible intro _
    | with_reducible assumption
    | with_reducible exact State.Keeps.refl _
    | (extract_lets +onlyGivenNames x; clear_value (hx : x = _); first | refine State.Keeps.local (s0 := s0) hx ?_ fun k => ?_ | skip)
    | with_reducible apply State.Keeps.ite
    | with_reducible apply State.bump64_keeps
    | with_reducible apply State.bump_keeps
    | fail_if_no_progress (with_reducible apply State.Keeps.rest)
    | dsimp only
    | split

theorem State.traceRefusal_keeps {s0 s : State} {f : Frame} {egress : Nat} {cls : Nat} {reason : Nat} (kept : s0.Keeps s) :
    s0.Keeps (State.traceRefusal s f egress cls reason) := by
  unfold State.traceRefusal
  repeat' first
    | with_reducible intro _
    | with_reducible assumption
    | with_reducible exact State.Keeps.refl _
    | (extract_lets +onlyGivenNames x; clear_value (hx : x = _); first | refine State.Keeps.local (s0 := s0) hx ?_ fun k => ?_ | skip)
    | with_reducible apply State.Keeps.ite
    | with_reducible apply State.event_keeps
    | with_reducible apply State.setWin_keeps
    | with_reducible apply State.bump_keeps
    | with_reducible apply State.wrF_keeps
    | fail_if_no_progress (with_reducible apply State.Keeps.rest)
    | dsimp only
    | split

theorem State.noticeRefusal_keeps {s0 s : State} {f : Frame} {egress : Nat} {cls : Nat} {reason : Nat} (kept : s0.Keeps s) :
    s0.Keeps (State.noticeRefusal s f egress cls reason) := by
  unfold State.noticeRefusal
  repeat' first
    | with_reducible intro _
    | with_reducible assumption
    | with_reducible exact State.Keeps.refl _
    | (extract_lets +onlyGivenNames x; clear_value (hx : x = _); first | refine State.Keeps.local (s0 := s0) hx ?_ fun k => ?_ | skip)
    | with_reducible apply State.Keeps.ite
    | with_reducible apply State.withTm_keeps
    | with_reducible apply State.bump_keeps
    | fail_if_no_progress (with_reducible apply State.Keeps.rest)
    | dsimp only
    | split

theorem State.probeStep_keeps {s0 s : State} {id : Nat} {sub : Nat} (kept : s0.Keeps s) :
    s0.Keeps (State.probeStep s id sub) := by
  unfold State.probeStep
  repeat' first
    | with_reducible intro _
    | with_reducible assumption
    | with_reducible exact State.Keeps.refl _
    | (extract_lets +onlyGivenNames x; clear_value (hx : x = _); first | refine State.Keeps.local (s0 := s0) hx ?_ fun k => ?_ | skip)
    | with_reducible apply State.Keeps.ite
    | with_reducible apply State.wr_keeps
    | with_reducible apply State.Keeps.id
    | fail_if_no_progress (with_reducible apply State.Keeps.rest)
    | dsimp only
    | split

theorem State.probeDrop_keeps {s0 s : State} {id : Nat} (kept : s0.Keeps s) :
    s0.Keeps (State.probeDrop s id) := by
  unfold State.probeDrop
  repeat' first
    | with_reducible intro _
    | with_reducible assumption
    | with_reducible exact State.Keeps.refl _
    | (extract_lets +onlyGivenNames x; clear_value (hx : x = _); first | refine State.Keeps.local (s0 := s0) hx ?_ fun k => ?_ | skip)
    | with_reducible apply State.Keeps.ite
    | with_reducible apply State.wrF_keeps
    | with_reducible apply State.Keeps.id
    | fail_if_no_progress (with_reducible apply State.Keeps.rest)
    | dsimp only
    | split

theorem State.probeOut_keeps {s0 s : State} {id : Nat} {p : Nat} (kept : s0.Keeps s) :
    s0.Keeps (State.probeOut s id p) := by
  unfold State.probeOut
  repeat' first
    | with_reducible intro _
    | with_reducible assumption
    | with_reducible exact State.Keeps.refl _
    | (extract_lets +onlyGivenNames x; clear_value (hx : x = _); first | refine State.Keeps.local (s0 := s0) hx ?_ fun k => ?_ | skip)
    | with_reducible apply State.Keeps.ite
    | with_reducible apply State.probeStep_keeps
    | with_reducible apply State.wrF_keeps
    | with_reducible apply State.Keeps.id
    | fail_if_no_progress (with_reducible apply State.Keeps.rest)
    | dsimp only
    | split

theorem State.probeEnd_keeps {s0 s : State} {id : Nat} (kept : s0.Keeps s) :
    s0.Keeps (State.probeEnd s id) := by
  unfold State.probeEnd
  repeat' first
    | with_reducible intro _
    | with_reducible assumption
    | with_reducible exact State.Keeps.refl _
    | (extract_lets +onlyGivenNames x; clear_value (hx : x = _); first | refine State.Keeps.local (s0 := s0) hx ?_ fun k => ?_ | skip)
    | with_reducible apply State.Keeps.ite
    | with_reducible apply State.probeStep_keeps
    | with_reducible apply State.Keeps.id
    | fail_if_no_progress (with_reducible apply State.Keeps.rest)
    | dsimp only
    | split

theorem State.probeBuilt_keeps {s0 s : State} {id : Nat} (kept : s0.Keeps s) :
    s0.Keeps (State.probeBuilt s id) := by
  unfold State.probeBuilt
  repeat' first
    | with_reducible intro _
    | with_reducible assumption
    | with_reducible exact State.Keeps.refl _
    | (extract_lets +onlyGivenNames x; clear_value (hx : x = _); first | refine State.Keeps.local (s0 := s0) hx ?_ fun k => ?_ | skip)
    | with_reducible apply State.Keeps.ite
    | with_reducible apply State.probeStep_keeps
    | with_reducible apply State.Keeps.id
    | fail_if_no_progress (with_reducible apply State.Keeps.rest)
    | dsimp only
    | split

theorem State.refuse_keeps {s0 s : State} {f : Frame} {port : Nat} {egress : Nat} {reason : Nat} (kept : s0.Keeps s) :
    s0.Keeps (State.refuse s f port egress reason) := by
  unfold State.refuse
  repeat' first
    | with_reducible intro _
    | with_reducible assumption
    | with_reducible exact State.Keeps.refl _
    | (extract_lets +onlyGivenNames x; clear_value (hx : x = _); first | refine State.Keeps.local (s0 := s0) hx ?_ fun k => ?_ | skip)
    | with_reducible apply State.Keeps.ite
    | with_reducible apply State.noticeRefusal_keeps
    | with_reducible apply State.traceRefusal_keeps
    | with_reducible apply State.countRefusal_keeps
    | with_reducible apply State.bump_keeps
    | fail_if_no_progress (with_reducible apply State.Keeps.rest)
    | dsimp only
    | split

theorem State.dropRef_keeps {s0 s : State} {id : Nat} {port : Nat} (kept : s0.Keeps s) :
    s0.Keeps (State.dropRef s id port) := by
  unfold State.dropRef
  repeat' first
    | with_reducible intro _
    | with_reducible assumption
    | with_reducible exact State.Keeps.refl _
    | (extract_lets +onlyGivenNames x; clear_value (hx : x = _); first | refine State.Keeps.local (s0 := s0) hx ?_ fun k => ?_ | skip)
    | with_reducible apply State.Keeps.ite
    | with_reducible apply State.eraseFrame_keeps
    | with_reducible apply State.setFrame_keeps
    | with_reducible apply State.Keeps.id
    | fail_if_no_progress (with_reducible apply State.Keeps.rest)
    | dsimp only
    | split

theorem State.residueRecord_keeps {s0 s : State} {f : Frame} {ports : List Nat} (kept : s0.Keeps s) :
    s0.Keeps (State.residueRecord s f ports) := by
  unfold State.residueRecord
  repeat' first
    | with_reducible intro _
    | with_reducible assumption
    | with_reducible exact State.Keeps.refl _
    | (extract_lets +onlyGivenNames x; clear_value (hx : x = _); first | refine State.Keeps.local (s0 := s0) hx ?_ fun k => ?_ | skip)
    | with_reducible apply State.Keeps.ite
    | with_reducible apply State.withBuf_keeps
    | with_reducible apply State.event_keeps
    | with_reducible apply State.setWin_keeps
    | with_reducible apply State.bump_keeps
    | with_reducible apply State.foldl_keeps
    | fail_if_no_progress (with_reducible apply State.Keeps.rest)
    | dsimp only
    | split

theorem State.dropWaiting_keeps {s0 s : State} {id : Nat} (kept : s0.Keeps s) :
    s0.Keeps (State.dropWaiting s id) := by
  unfold State.dropWaiting
  repeat' first
    | with_reducible intro _
    | with_reducible assumption
    | with_reducible exact State.Keeps.refl _
    | (extract_lets +onlyGivenNames x; clear_value (hx : x = _); first | refine State.Keeps.local (s0 := s0) hx ?_ fun k => ?_ | skip)
    | with_reducible apply State.Keeps.ite
    | with_reducible apply State.residueRecord_keeps
    | with_reducible apply State.dropRef_keeps
    | with_reducible apply State.refuse_keeps
    | with_reducible apply State.forEach_keeps
    | with_reducible apply State.bump_keeps
    | with_reducible apply State.Keeps.id
    | fail_if_no_progress (with_reducible apply State.Keeps.rest)
    | dsimp only
    | split

theorem State.discardPoisoned_keeps {s0 s : State} {id : Nat} (kept : s0.Keeps s) :
    s0.Keeps (State.discardPoisoned s id) := by
  unfold State.discardPoisoned
  repeat' first
    | with_reducible intro _
    | with_reducible assumption
    | with_reducible exact State.Keeps.refl _
    | (extract_lets +onlyGivenNames x; clear_value (hx : x = _); first | refine State.Keeps.local (s0 := s0) hx ?_ fun k => ?_ | (have g := State.regs x.2; clear g; subst hx) | skip)
    | with_reducible apply State.Keeps.ite
    | with_reducible apply State.eraseFrame_keeps
    | with_reducible apply State.draw_keeps
    | with_reducible apply State.event_keeps
    | with_reducible apply State.bump_keeps
    | with_reducible apply State.Keeps.id
    | fail_if_no_progress (with_reducible apply State.Keeps.rest)
    | dsimp only
    | refine State.Keeps.of_snd ‹_ = (_, _)› ?_
    | split

theorem State.markPoison_keeps {s0 s : State} {id : Nat} {i : Nat} {kind : Nat} (kept : s0.Keeps s) :
    s0.Keeps (State.markPoison s id i kind) := by
  unfold State.markPoison
  repeat' first
    | with_reducible intro _
    | with_reducible assumption
    | with_reducible exact State.Keeps.refl _
    | (extract_lets +onlyGivenNames x; clear_value (hx : x = _); first | refine State.Keeps.local (s0 := s0) hx ?_ fun k => ?_ | skip)
    | with_reducible apply State.Keeps.ite
    | with_reducible apply State.modFrame_keeps
    | with_reducible apply State.bump_keeps
    | with_reducible apply State.Keeps.id
    | fail_if_no_progress (with_reducible apply State.Keeps.rest)
    | dsimp only
    | split

end Sys2Proof.Machine
end

