-- ==== Sys2Proof/Laws/KeepsRoute.lean ====
section
/-! SUPPORT. What the definitions of Machine/Route keep (`State.Keeps`). -/

set_option linter.unusedTactic false
set_option linter.unreachableTactic false

namespace Sys2Proof.Machine

theorem State.withRoute_keeps {s0 s : State} {f : RouteState → RouteState} (kept : s0.Keeps s) :
    s0.Keeps (State.withRoute s f) := by
  unfold State.withRoute
  repeat' first
    | with_reducible intro _
    | with_reducible assumption
    | with_reducible exact State.Keeps.refl _
    | (extract_lets +onlyGivenNames x; clear_value (hx : x = _); first | refine State.Keeps.local (s0 := s0) hx ?_ fun k => ?_ | skip)
    | with_reducible apply State.Keeps.ite
    | fail_if_no_progress (with_reducible apply State.Keeps.rest)
    | dsimp only
    | split

theorem State.setSlot_keeps {s0 s : State} {k : Nat} {r : RouteSlot} (kept : s0.Keeps s) :
    s0.Keeps (State.setSlot s k r) := by
  unfold State.setSlot
  repeat' first
    | with_reducible intro _
    | with_reducible assumption
    | with_reducible exact State.Keeps.refl _
    | (extract_lets +onlyGivenNames x; clear_value (hx : x = _); first | refine State.Keeps.local (s0 := s0) hx ?_ fun k => ?_ | skip)
    | with_reducible apply State.Keeps.ite
    | with_reducible apply State.withRoute_keeps
    | fail_if_no_progress (with_reducible apply State.Keeps.rest)
    | dsimp only
    | split

theorem State.clearSlot_keeps {s0 s : State} {k : Nat} (kept : s0.Keeps s) :
    s0.Keeps (State.clearSlot s k) := by
  unfold State.clearSlot
  repeat' first
    | with_reducible intro _
    | with_reducible assumption
    | with_reducible exact State.Keeps.refl _
    | (extract_lets +onlyGivenNames x; clear_value (hx : x = _); first | refine State.Keeps.local (s0 := s0) hx ?_ fun k => ?_ | skip)
    | with_reducible apply State.Keeps.ite
    | with_reducible apply State.withRoute_keeps
    | fail_if_no_progress (with_reducible apply State.Keeps.rest)
    | dsimp only
    | split

theorem State.emptyBank_keeps {s0 s : State} {b : Nat} (kept : s0.Keeps s) :
    s0.Keeps (State.emptyBank s b) := by
  unfold State.emptyBank
  repeat' first
    | with_reducible intro _
    | with_reducible assumption
    | with_reducible exact State.Keeps.refl _
    | (extract_lets +onlyGivenNames x; clear_value (hx : x = _); first | refine State.Keeps.local (s0 := s0) hx ?_ fun k => ?_ | skip)
    | with_reducible apply State.Keeps.ite
    | with_reducible apply State.withRoute_keeps
    | fail_if_no_progress (with_reducible apply State.Keeps.rest)
    | dsimp only
    | split

theorem State.readSlot_keeps {s0 s : State} {k : Nat} (kept : s0.Keeps s) :
    s0.Keeps (State.readSlot s k) := by
  unfold State.readSlot
  repeat' first
    | with_reducible intro _
    | with_reducible assumption
    | with_reducible exact State.Keeps.refl _
    | (extract_lets +onlyGivenNames x; clear_value (hx : x = _); first | refine State.Keeps.local (s0 := s0) hx ?_ fun k => ?_ | skip)
    | with_reducible apply State.Keeps.ite
    | with_reducible apply State.clearSlot_keeps
    | with_reducible apply State.withRoute_keeps
    | with_reducible apply State.event_keeps
    | with_reducible apply State.bump_keeps
    | fail_if_no_progress (with_reducible apply State.Keeps.rest)
    | dsimp only
    | split

theorem State.readBuckets_keeps {s0 s : State} {key : Nat} (kept : s0.Keeps s) :
    s0.Keeps (State.readBuckets s key) := by
  unfold State.readBuckets
  repeat' first
    | with_reducible intro _
    | with_reducible assumption
    | with_reducible exact State.Keeps.refl _
    | (extract_lets +onlyGivenNames x; clear_value (hx : x = _); first | refine State.Keeps.local (s0 := s0) hx ?_ fun k => ?_ | (have g := fun u => State.regs (x u); clear g; subst hx) | (have g := fun u v => State.regs (x u v); clear g; subst hx) | (have g := fun u v w => State.regs (x u v w); clear g; subst hx) | (have g := fun u v w y => State.regs (x u v w y); clear g; subst hx) | skip)
    | with_reducible apply State.Keeps.ite
    | with_reducible apply State.readSlot_keeps
    | with_reducible apply State.forEach_keeps
    | with_reducible apply State.bump_keeps
    | fail_if_no_progress (with_reducible apply State.Keeps.rest)
    | dsimp only
    | split

theorem State.lookup_keeps {s0 s : State} {key : Nat} (kept : s0.Keeps s) :
    s0.Keeps (State.lookup s key).2 := by
  unfold State.lookup
  repeat' first
    | with_reducible intro _
    | with_reducible assumption
    | with_reducible exact State.Keeps.refl _
    | (extract_lets +onlyGivenNames x; clear_value (hx : x = _); first | refine State.Keeps.local (s0 := s0) hx ?_ fun k => ?_ | skip)
    | with_reducible apply State.Keeps.ite
    | with_reducible apply State.readBuckets_keeps
    | with_reducible apply State.setSlot_keeps
    | with_reducible apply State.forEach_keeps
    | with_reducible apply State.Keeps.ite_snd
    | fail_if_no_progress (with_reducible apply State.Keeps.rest)
    | dsimp only
    | split

theorem State.pressure_keeps {s0 s : State} {bank : Nat} (kept : s0.Keeps s) :
    s0.Keeps (State.pressure s bank) := by
  unfold State.pressure
  repeat' first
    | with_reducible intro _
    | with_reducible assumption
    | with_reducible exact State.Keeps.refl _
    | (extract_lets +onlyGivenNames x; clear_value (hx : x = _); first | refine State.Keeps.local (s0 := s0) hx ?_ fun k => ?_ | skip)
    | with_reducible apply State.Keeps.ite
    | with_reducible apply State.withRoute_keeps
    | with_reducible apply State.event_keeps
    | with_reducible apply State.bump_keeps
    | fail_if_no_progress (with_reducible apply State.Keeps.rest)
    | dsimp only
    | split

theorem State.insertFailed_keeps {s0 s : State} {key : Nat} {status : Nat} (kept : s0.Keeps s) :
    s0.Keeps (State.insertFailed s key status) := by
  unfold State.insertFailed
  repeat' first
    | with_reducible intro _
    | with_reducible assumption
    | with_reducible exact State.Keeps.refl _
    | (extract_lets +onlyGivenNames x; clear_value (hx : x = _); first | refine State.Keeps.local (s0 := s0) hx ?_ fun k => ?_ | skip)
    | with_reducible apply State.Keeps.ite
    | with_reducible apply State.withRoute_keeps
    | with_reducible apply State.event_keeps
    | with_reducible apply State.bump_keeps
    | fail_if_no_progress (with_reducible apply State.Keeps.rest)
    | dsimp only
    | split

theorem State.copyMoving_keeps {s0 s : State} {src : Nat} {dst : Nat} (kept : s0.Keeps s) :
    s0.Keeps (State.copyMoving s src dst) := by
  unfold State.copyMoving
  repeat' first
    | with_reducible intro _
    | with_reducible assumption
    | with_reducible exact State.Keeps.refl _
    | (extract_lets +onlyGivenNames x; clear_value (hx : x = _); first | refine State.Keeps.local (s0 := s0) hx ?_ fun k => ?_ | skip)
    | with_reducible apply State.Keeps.ite
    | with_reducible apply State.setSlot_keeps
    | fail_if_no_progress (with_reducible apply State.Keeps.rest)
    | dsimp only
    | split

theorem State.entryDone_keeps {s0 s : State} {status : Nat} {moves : Nat} (kept : s0.Keeps s) :
    s0.Keeps (State.entryDone s status moves) := by
  unfold State.entryDone
  repeat' first
    | with_reducible intro _
    | with_reducible assumption
    | with_reducible exact State.Keeps.refl _
    | (extract_lets +onlyGivenNames x; clear_value (hx : x = _); first | refine State.Keeps.local (s0 := s0) hx ?_ fun k => ?_ | skip)
    | with_reducible apply State.Keeps.ite
    | with_reducible apply State.wr_keeps
    | fail_if_no_progress (with_reducible apply State.Keeps.rest)
    | dsimp only
    | split

theorem State.insert_keeps {s0 s : State} {w : Nat} {owner : Option Nat} {cmd : Bool} (kept : s0.Keeps s) :
    s0.Keeps (State.insert s w owner cmd).1 := by
  unfold State.insert
  repeat' first
    | with_reducible intro _
    | with_reducible assumption
    | with_reducible exact State.Keeps.refl _
    | (extract_lets +onlyGivenNames x; clear_value (hx : x = _); first | refine State.Keeps.local (s0 := s0) hx ?_ fun k => ?_ | skip)
    | with_reducible apply State.Keeps.ite
    | with_reducible apply State.copyMoving_keeps
    | with_reducible apply State.insertFailed_keeps
    | with_reducible apply State.pressure_keeps
    | with_reducible apply State.readBuckets_keeps
    | with_reducible apply State.setSlot_keeps
    | with_reducible apply State.withRoute_keeps
    | with_reducible apply State.forEach_keeps
    | with_reducible apply State.Keeps.ite_fst
    | fail_if_no_progress (with_reducible apply State.Keeps.rest)
    | dsimp only
    | split

theorem State.clearMoving_keeps {s0 s : State} {copies : List Nat} (kept : s0.Keeps s) :
    s0.Keeps (State.clearMoving s copies) := by
  unfold State.clearMoving
  repeat' first
    | with_reducible intro _
    | with_reducible assumption
    | with_reducible exact State.Keeps.refl _
    | (extract_lets +onlyGivenNames x; clear_value (hx : x = _); first | refine State.Keeps.local (s0 := s0) hx ?_ fun k => ?_ | skip)
    | with_reducible apply State.Keeps.ite
    | with_reducible apply State.setSlot_keeps
    | with_reducible apply State.forEach_keeps
    | fail_if_no_progress (with_reducible apply State.Keeps.rest)
    | dsimp only
    | split

theorem State.shuntStep_keeps {s0 s : State} (kept : s0.Keeps s) :
    s0.Keeps (State.shuntStep s) := by
  unfold State.shuntStep
  repeat' first
    | with_reducible intro _
    | with_reducible assumption
    | with_reducible exact State.Keeps.refl _
    | (extract_lets +onlyGivenNames x; clear_value (hx : x = _); first | refine State.Keeps.local (s0 := s0) hx ?_ fun k => ?_ | skip)
    | with_reducible apply State.Keeps.ite
    | with_reducible apply State.clearMoving_keeps
    | with_reducible apply State.entryDone_keeps
    | with_reducible apply State.copyMoving_keeps
    | with_reducible apply State.pressure_keeps
    | with_reducible apply State.setSlot_keeps
    | with_reducible apply State.withRoute_keeps
    | with_reducible apply State.bump_keeps
    | fail_if_no_progress (with_reducible apply State.Keeps.rest)
    | dsimp only
    | split

theorem State.deleteEntry_keeps {s0 s : State} {key : Nat} (kept : s0.Keeps s) :
    s0.Keeps (State.deleteEntry s key).1 := by
  unfold State.deleteEntry
  repeat' first
    | with_reducible intro _
    | with_reducible assumption
    | with_reducible exact State.Keeps.refl _
    | (extract_lets +onlyGivenNames x; clear_value (hx : x = _); first | refine State.Keeps.local (s0 := s0) hx ?_ fun k => ?_ | skip)
    | with_reducible apply State.Keeps.ite
    | with_reducible apply State.readBuckets_keeps
    | with_reducible apply State.clearSlot_keeps
    | with_reducible apply State.withRoute_keeps
    | with_reducible apply State.forEach_keeps
    | with_reducible apply State.Keeps.ite_fst
    | fail_if_no_progress (with_reducible apply State.Keeps.rest)
    | dsimp only
    | split

theorem State.reinsert_keeps {s0 s : State} {x1 : Nat} (kept : s0.Keeps s) :
    s0.Keeps (State.reinsert s x1) := by
  induction x1 generalizing s with
  | zero =>
    unfold State.reinsert
    repeat' first
      | with_reducible intro _
      | with_reducible assumption
      | with_reducible exact State.Keeps.refl _
      | (extract_lets +onlyGivenNames x; clear_value (hx : x = _); first | refine State.Keeps.local (s0 := s0) hx ?_ fun k => ?_ | skip)
      | with_reducible apply State.Keeps.ite
      | with_reducible apply State.insert_keeps
      | with_reducible apply State.withRoute_keeps
      | fail_if_no_progress (with_reducible apply State.Keeps.rest)
      | dsimp only
      | refine State.Keeps.of_fst ‹_ = (_, _)› ?_
      | split
  | succ k ih =>
    unfold State.reinsert
    repeat' first
      | with_reducible intro _
      | with_reducible assumption
      | with_reducible apply ih
      | with_reducible exact State.Keeps.refl _
      | (extract_lets +onlyGivenNames x; clear_value (hx : x = _); first | refine State.Keeps.local (s0 := s0) hx ?_ fun k => ?_ | skip)
      | with_reducible apply State.Keeps.ite
      | with_reducible apply State.insert_keeps
      | with_reducible apply State.withRoute_keeps
      | fail_if_no_progress (with_reducible apply State.Keeps.rest)
      | dsimp only
      | refine State.Keeps.of_fst ‹_ = (_, _)› ?_
      | split

theorem State.showEntry_keeps {s0 s : State} {w : Nat} (kept : s0.Keeps s) :
    s0.Keeps (State.showEntry s w) := by
  unfold State.showEntry
  repeat' first
    | with_reducible intro _
    | with_reducible assumption
    | with_reducible exact State.Keeps.refl _
    | (extract_lets +onlyGivenNames x; clear_value (hx : x = _); first | refine State.Keeps.local (s0 := s0) hx ?_ fun k => ?_ | skip)
    | with_reducible apply State.Keeps.ite
    | with_reducible apply State.wr_keeps
    | fail_if_no_progress (with_reducible apply State.Keeps.rest)
    | dsimp only
    | split

theorem State.entryCommand_keeps {s0 s : State} (kept : s0.Keeps s) :
    s0.Keeps (State.entryCommand s) := by
  unfold State.entryCommand
  repeat' first
    | with_reducible intro _
    | with_reducible assumption
    | with_reducible exact State.Keeps.refl _
    | (extract_lets +onlyGivenNames x; clear_value (hx : x = _); first | refine State.Keeps.local (s0 := s0) hx ?_ fun k => ?_ | skip)
    | with_reducible apply State.Keeps.ite
    | with_reducible apply State.showEntry_keeps
    | with_reducible apply State.deleteEntry_keeps
    | with_reducible apply State.insert_keeps
    | with_reducible apply State.entryDone_keeps
    | with_reducible apply State.readBuckets_keeps
    | with_reducible apply State.readSlot_keeps
    | with_reducible apply State.wr_keeps
    | fail_if_no_progress (with_reducible apply State.Keeps.rest)
    | dsimp only
    | refine State.Keeps.of_fst ‹_ = (_, _)› ?_
    | split

theorem State.excess_keeps {s0 s : State} {port : Nat} {mac : Nat} {vid : Nat} (kept : s0.Keeps s) :
    s0.Keeps (State.excess s port mac vid) := by
  unfold State.excess
  repeat' first
    | with_reducible intro _
    | with_reducible assumption
    | with_reducible exact State.Keeps.refl _
    | (extract_lets +onlyGivenNames x; clear_value (hx : x = _); first | refine State.Keeps.local (s0 := s0) hx ?_ fun k => ?_ | skip)
    | with_reducible apply State.Keeps.ite
    | with_reducible apply State.event_keeps
    | with_reducible apply State.setWin_keeps
    | with_reducible apply State.bump_keeps
    | with_reducible apply State.wr_keeps
    | fail_if_no_progress (with_reducible apply State.Keeps.rest)
    | dsimp only
    | split

theorem State.learnAsk_keeps {s0 s : State} {port : Nat} {domain : Nat} {mac : Nat} {vid : Nat} {target : Nat} (kept : s0.Keeps s) :
    s0.Keeps (State.learnAsk s port domain mac vid target).1 := by
  unfold State.learnAsk
  repeat' first
    | with_reducible intro _
    | with_reducible assumption
    | with_reducible exact State.Keeps.refl _
    | (extract_lets +onlyGivenNames x; clear_value (hx : x = _); first | refine State.Keeps.local (s0 := s0) hx ?_ fun k => ?_ | (have g := fun u => State.regs (x u); clear g; subst hx) | (have g := fun u v => State.regs (x u v); clear g; subst hx) | (have g := fun u v w => State.regs (x u v w); clear g; subst hx) | (have g := fun u v w y => State.regs (x u v w y); clear g; subst hx) | (have g := State.regs x.2; clear g; subst hx) | skip)
    | with_reducible apply State.Keeps.ite
    | with_reducible apply State.decide_keeps
    | with_reducible apply State.excess_keeps
    | with_reducible apply State.lookup_keeps
    | with_reducible apply State.withRoute_keeps
    | with_reducible apply State.bump_keeps
    | with_reducible apply State.Keeps.ite_fst
    | fail_if_no_progress (with_reducible apply State.Keeps.rest)
    | dsimp only
    | refine State.Keeps.of_snd ‹_ = (_, _)› ?_
    | split

theorem State.takeLearn_keeps {s0 s : State} {group : Nat} (kept : s0.Keeps s) :
    s0.Keeps (State.takeLearn s group) := by
  unfold State.takeLearn
  repeat' first
    | with_reducible intro _
    | with_reducible assumption
    | with_reducible exact State.Keeps.refl _
    | (extract_lets +onlyGivenNames x; clear_value (hx : x = _); first | refine State.Keeps.local (s0 := s0) hx ?_ fun k => ?_ | skip)
    | with_reducible apply State.Keeps.ite
    | with_reducible apply State.decide_keeps
    | with_reducible apply State.excess_keeps
    | with_reducible apply State.insert_keeps
    | with_reducible apply State.readBuckets_keeps
    | with_reducible apply State.setSlot_keeps
    | with_reducible apply State.withRoute_keeps
    | with_reducible apply State.forEach_keeps
    | with_reducible apply State.bump_keeps
    | fail_if_no_progress (with_reducible apply State.Keeps.rest)
    | dsimp only
    | refine State.Keeps.of_fst ‹_ = (_, _)› ?_
    | split

theorem State.scanVisit_keeps {s0 s : State} {k : Nat} {typ : Nat} (kept : s0.Keeps s) :
    s0.Keeps (State.scanVisit s k typ) := by
  unfold State.scanVisit
  repeat' first
    | with_reducible intro _
    | with_reducible assumption
    | with_reducible exact State.Keeps.refl _
    | (extract_lets +onlyGivenNames x; clear_value (hx : x = _); first | refine State.Keeps.local (s0 := s0) hx ?_ fun k => ?_ | skip)
    | with_reducible apply State.Keeps.ite
    | with_reducible apply State.readSlot_keeps
    | with_reducible apply State.clearSlot_keeps
    | with_reducible apply State.setSlot_keeps
    | fail_if_no_progress (with_reducible apply State.Keeps.rest)
    | dsimp only
    | split

theorem State.moveAll_keeps {s0 s : State} {ms : List (Nat × Nat)} (kept : s0.Keeps s) :
    s0.Keeps (State.moveAll s ms) := by
  unfold State.moveAll
  repeat' first
    | with_reducible intro _
    | with_reducible assumption
    | with_reducible exact State.Keeps.refl _
    | (extract_lets +onlyGivenNames x; clear_value (hx : x = _); first | refine State.Keeps.local (s0 := s0) hx ?_ fun k => ?_ | skip)
    | with_reducible apply State.Keeps.ite
    | with_reducible apply State.clearSlot_keeps
    | with_reducible apply State.setSlot_keeps
    | with_reducible apply State.forEach_keeps
    | fail_if_no_progress (with_reducible apply State.Keeps.rest)
    | dsimp only
    | split

theorem State.shuntOut_keeps {s0 s : State} {b : Nat} {x1 : List (Nat × RouteSlot)} {x2 : Nat} {x3 : Nat} (kept : s0.Keeps s) :
    s0.Keeps (State.shuntOut s b x1 x2 x3).1 := by
  induction x1 generalizing s b x2 x3 with
  | nil =>
    unfold State.shuntOut
    repeat' first
      | with_reducible intro _
      | with_reducible assumption
      | with_reducible exact State.Keeps.refl _
      | (extract_lets +onlyGivenNames x; clear_value (hx : x = _); first | refine State.Keeps.local (s0 := s0) hx ?_ fun k => ?_ | skip)
      | with_reducible apply State.Keeps.ite
      | with_reducible apply State.moveAll_keeps
      | with_reducible apply State.Keeps.ite_fst
      | fail_if_no_progress (with_reducible apply State.Keeps.rest)
      | dsimp only
      | split
  | cons y r ih =>
    unfold State.shuntOut
    repeat' first
      | with_reducible intro _
      | with_reducible assumption
      | with_reducible apply ih
      | with_reducible exact State.Keeps.refl _
      | (extract_lets +onlyGivenNames x; clear_value (hx : x = _); first | refine State.Keeps.local (s0 := s0) hx ?_ fun k => ?_ | skip)
      | with_reducible apply State.Keeps.ite
      | with_reducible apply State.moveAll_keeps
      | with_reducible apply State.Keeps.ite_fst
      | fail_if_no_progress (with_reducible apply State.Keeps.rest)
      | dsimp only
      | split

theorem State.endChain_keeps {s0 s : State} {x1 : Nat} (kept : s0.Keeps s) :
    s0.Keeps (State.endChain s x1) := by
  induction x1 generalizing s with
  | zero =>
    unfold State.endChain
    repeat' first
      | with_reducible intro _
      | with_reducible assumption
      | with_reducible exact State.Keeps.refl _
      | (extract_lets +onlyGivenNames x; clear_value (hx : x = _); first | refine State.Keeps.local (s0 := s0) hx ?_ fun k => ?_ | skip)
      | with_reducible apply State.Keeps.ite
      | with_reducible apply State.shuntStep_keeps
      | fail_if_no_progress (with_reducible apply State.Keeps.rest)
      | dsimp only
      | split
  | succ k ih =>
    unfold State.endChain
    repeat' first
      | with_reducible intro _
      | with_reducible assumption
      | with_reducible apply ih
      | with_reducible exact State.Keeps.refl _
      | (extract_lets +onlyGivenNames x; clear_value (hx : x = _); first | refine State.Keeps.local (s0 := s0) hx ?_ fun k => ?_ | skip)
      | with_reducible apply State.Keeps.ite
      | with_reducible apply State.shuntStep_keeps
      | fail_if_no_progress (with_reducible apply State.Keeps.rest)
      | dsimp only
      | split

end Sys2Proof.Machine
end

