-- ==== Sys2Proof/Laws/KeepsFirewall.lean ====
section
/-! SUPPORT. What the definitions of Machine/Firewall keep (`State.Keeps`). -/

set_option linter.unusedTactic false
set_option linter.unreachableTactic false

namespace Sys2Proof.Machine

theorem State.withFw_keeps {s0 s : State} {f : FwState → FwState} (kept : s0.Keeps s) :
    s0.Keeps (State.withFw s f) := by
  unfold State.withFw
  repeat' first
    | with_reducible intro _
    | with_reducible assumption
    | with_reducible exact State.Keeps.refl _
    | (extract_lets +onlyGivenNames x; clear_value (hx : x = _); first | refine State.Keeps.local (s0 := s0) hx ?_ fun k => ?_ | skip)
    | with_reducible apply State.Keeps.ite
    | fail_if_no_progress (with_reducible apply State.Keeps.rest)
    | dsimp only
    | split

theorem State.readRules_keeps {s0 s : State} {h : Nat} (kept : s0.Keeps s) :
    s0.Keeps (State.readRules s h) := by
  unfold State.readRules
  repeat' first
    | with_reducible intro _
    | with_reducible assumption
    | with_reducible exact State.Keeps.refl _
    | (extract_lets +onlyGivenNames x; clear_value (hx : x = _); first | refine State.Keeps.local (s0 := s0) hx ?_ fun k => ?_ | skip)
    | with_reducible apply State.Keeps.ite
    | with_reducible apply State.withFw_keeps
    | with_reducible apply State.forEach_keeps
    | with_reducible apply State.event_keeps
    | with_reducible apply State.bump_keeps
    | fail_if_no_progress (with_reducible apply State.Keeps.rest)
    | dsimp only
    | split

theorem State.fwCount_keeps {s0 s : State} {port : Nat} {k : Nat} (kept : s0.Keeps s) :
    s0.Keeps (State.fwCount s port k) := by
  unfold State.fwCount
  repeat' first
    | with_reducible intro _
    | with_reducible assumption
    | with_reducible exact State.Keeps.refl _
    | (extract_lets +onlyGivenNames x; clear_value (hx : x = _); first | refine State.Keeps.local (s0 := s0) hx ?_ fun k => ?_ | skip)
    | with_reducible apply State.Keeps.ite
    | with_reducible apply State.bumpWin_keeps
    | fail_if_no_progress (with_reducible apply State.Keeps.rest)
    | dsimp only
    | split

theorem State.intrusion_keeps {s0 s : State} {f : Frame} {unknown : Bool} {rule : Nat} (kept : s0.Keeps s) :
    s0.Keeps (State.intrusion s f unknown rule) := by
  unfold State.intrusion
  repeat' first
    | with_reducible intro _
    | with_reducible assumption
    | with_reducible exact State.Keeps.refl _
    | (extract_lets +onlyGivenNames x; clear_value (hx : x = _); first | refine State.Keeps.local (s0 := s0) hx ?_ fun k => ?_ | skip)
    | with_reducible apply State.Keeps.ite
    | with_reducible apply State.withFw_keeps
    | with_reducible apply State.event_keeps
    | with_reducible apply State.bump_keeps
    | fail_if_no_progress (with_reducible apply State.Keeps.rest)
    | dsimp only
    | split

theorem State.refuseHeld_keeps {s0 s : State} {id : Nat} (kept : s0.Keeps s) :
    s0.Keeps (State.refuseHeld s id) := by
  unfold State.refuseHeld
  repeat' first
    | with_reducible intro _
    | with_reducible assumption
    | with_reducible exact State.Keeps.refl _
    | (extract_lets +onlyGivenNames x; clear_value (hx : x = _); first | refine State.Keeps.local (s0 := s0) hx ?_ fun k => ?_ | skip)
    | with_reducible apply State.Keeps.ite
    | with_reducible apply State.fwCount_keeps
    | with_reducible apply State.withFw_keeps
    | with_reducible apply State.dropRef_keeps
    | with_reducible apply State.refuse_keeps
    | with_reducible apply State.probeDrop_keeps
    | with_reducible apply State.Keeps.id
    | fail_if_no_progress (with_reducible apply State.Keeps.rest)
    | dsimp only
    | split

theorem State.copyHalf_keeps {s0 s : State} {src dst : Nat} (h : s0.Keeps s) : s0.Keeps (s.copyHalf src dst) := by
  unfold State.copyHalf
  dsimp only
  refine State.withFw_keeps ⟨h.queue, h.time, h.draws, h.log, h.scalars, fun k => ?_⟩
  exact canonical_foldl byteDefault Prod.fst _ _ (canonical_filter byteDefault _ (h.windows k))

theorem State.clearHalf_keeps {s0 s : State} {h : Nat} (kept : s0.Keeps s) :
    s0.Keeps (State.clearHalf s h) := by
  unfold State.clearHalf
  repeat' first
    | with_reducible intro _
    | with_reducible assumption
    | with_reducible exact State.Keeps.refl _
    | (extract_lets +onlyGivenNames x; clear_value (hx : x = _); first | refine State.Keeps.local (s0 := s0) hx ?_ fun k => ?_ | skip)
    | with_reducible apply State.Keeps.ite
    | with_reducible apply State.withFw_keeps
    | with_reducible apply State.dropWins_keeps
    | fail_if_no_progress (with_reducible apply State.Keeps.rest)
    | dsimp only
    | split

theorem State.fwCopyStart_keeps {s0 s : State} (kept : s0.Keeps s) :
    s0.Keeps (State.fwCopyStart s) := by
  unfold State.fwCopyStart
  repeat' first
    | with_reducible intro _
    | with_reducible assumption
    | with_reducible exact State.Keeps.refl _
    | (extract_lets +onlyGivenNames x; clear_value (hx : x = _); first | refine State.Keeps.local (s0 := s0) hx ?_ fun k => ?_ | skip)
    | with_reducible apply State.Keeps.ite
    | with_reducible apply State.withFw_keeps
    | with_reducible apply State.wr_keeps
    | fail_if_no_progress (with_reducible apply State.Keeps.rest)
    | dsimp only
    | split

theorem State.fwCopyDone_keeps {s0 s : State} (kept : s0.Keeps s) :
    s0.Keeps (State.fwCopyDone s) := by
  unfold State.fwCopyDone
  repeat' first
    | with_reducible intro _
    | with_reducible assumption
    | with_reducible exact State.Keeps.refl _
    | (extract_lets +onlyGivenNames x; clear_value (hx : x = _); first | refine State.Keeps.local (s0 := s0) hx ?_ fun k => ?_ | skip)
    | with_reducible apply State.Keeps.ite
    | with_reducible apply State.copyHalf_keeps
    | with_reducible apply State.withFw_keeps
    | with_reducible apply State.wr_keeps
    | fail_if_no_progress (with_reducible apply State.Keeps.rest)
    | dsimp only
    | split

theorem State.fwSwap_keeps {s0 s : State} (kept : s0.Keeps s) :
    s0.Keeps (State.fwSwap s) := by
  unfold State.fwSwap
  repeat' first
    | with_reducible intro _
    | with_reducible assumption
    | with_reducible exact State.Keeps.refl _
    | (extract_lets +onlyGivenNames x; clear_value (hx : x = _); first | refine State.Keeps.local (s0 := s0) hx ?_ fun k => ?_ | skip)
    | with_reducible apply State.Keeps.ite
    | with_reducible apply State.event_keeps
    | with_reducible apply State.wr_keeps
    | fail_if_no_progress (with_reducible apply State.Keeps.rest)
    | dsimp only
    | split

theorem State.shadowWrite_keeps {s0 s : State} {idx : Nat} {off : Nat} {bs : List Byte} (kept : s0.Keeps s) :
    s0.Keeps (State.shadowWrite s idx off bs) := by
  unfold State.shadowWrite
  repeat' first
    | with_reducible intro _
    | with_reducible assumption
    | with_reducible exact State.Keeps.refl _
    | (extract_lets +onlyGivenNames x; clear_value (hx : x = _); first | refine State.Keeps.local (s0 := s0) hx ?_ fun k => ?_ | skip)
    | with_reducible apply State.Keeps.ite
    | with_reducible apply State.withFw_keeps
    | with_reducible apply State.setWin_keeps
    | with_reducible apply State.wr_keeps
    | fail_if_no_progress (with_reducible apply State.Keeps.rest)
    | dsimp only
    | split

end Sys2Proof.Machine
end

