-- ==== Sys2Proof/Laws/KeepsTraffic.lean ====
section
/-! SUPPORT. What the definitions of Machine/Traffic keep (`State.Keeps`). -/

set_option linter.unusedTactic false
set_option linter.unreachableTactic false

namespace Sys2Proof.Machine

theorem State.modPtm_keeps {s0 s : State} {p : Nat} {f : PortTm → PortTm} (kept : s0.Keeps s) :
    s0.Keeps (State.modPtm s p f) := by
  unfold State.modPtm
  repeat' first
    | with_reducible intro _
    | with_reducible assumption
    | with_reducible exact State.Keeps.refl _
    | (extract_lets +onlyGivenNames x; clear_value (hx : x = _); first | refine State.Keeps.local (s0 := s0) hx ?_ fun k => ?_ | skip)
    | with_reducible apply State.Keeps.ite
    | with_reducible apply State.withTm_keeps
    | fail_if_no_progress (with_reducible apply State.Keeps.rest)
    | dsimp only
    | split

theorem State.modPdyn_keeps {s0 s : State} {p : Nat} {f : PortDyn → PortDyn} (kept : s0.Keeps s) :
    s0.Keeps (State.modPdyn s p f) := by
  unfold State.modPdyn
  repeat' first
    | with_reducible intro _
    | with_reducible assumption
    | with_reducible exact State.Keeps.refl _
    | (extract_lets +onlyGivenNames x; clear_value (hx : x = _); first | refine State.Keeps.local (s0 := s0) hx ?_ fun k => ?_ | skip)
    | with_reducible apply State.Keeps.ite
    | fail_if_no_progress (with_reducible apply State.Keeps.rest)
    | dsimp only
    | split

theorem State.portCount_keeps {s0 s : State} {p : Nat} {sub : Nat} {n : Nat} (kept : s0.Keeps s) :
    s0.Keeps (State.portCount s p sub n) := by
  unfold State.portCount
  repeat' first
    | with_reducible intro _
    | with_reducible assumption
    | with_reducible exact State.Keeps.refl _
    | (extract_lets +onlyGivenNames x; clear_value (hx : x = _); first | refine State.Keeps.local (s0 := s0) hx ?_ fun k => ?_ | skip)
    | with_reducible apply State.Keeps.ite
    | with_reducible apply State.bump64_keeps
    | fail_if_no_progress (with_reducible apply State.Keeps.rest)
    | dsimp only
    | split

theorem State.tagQueue_keeps {s0 s : State} {p : Nat} {n : Nat} (kept : s0.Keeps s) :
    s0.Keeps (State.tagQueue s p n) := by
  unfold State.tagQueue
  repeat' first
    | with_reducible intro _
    | with_reducible assumption
    | with_reducible exact State.Keeps.refl _
    | (extract_lets +onlyGivenNames x; clear_value (hx : x = _); first | refine State.Keeps.local (s0 := s0) hx ?_ fun k => ?_ | skip)
    | with_reducible apply State.Keeps.ite
    | with_reducible apply State.modPtm_keeps
    | fail_if_no_progress (with_reducible apply State.Keeps.rest)
    | dsimp only
    | split

theorem State.restartTags_keeps {s0 s : State} {p : Nat} (kept : s0.Keeps s) :
    s0.Keeps (State.restartTags s p) := by
  unfold State.restartTags
  repeat' first
    | with_reducible intro _
    | with_reducible assumption
    | with_reducible exact State.Keeps.refl _
    | (extract_lets +onlyGivenNames x; clear_value (hx : x = _); first | refine State.Keeps.local (s0 := s0) hx ?_ fun k => ?_ | skip)
    | with_reducible apply State.Keeps.ite
    | with_reducible apply State.modPtm_keeps
    | fail_if_no_progress (with_reducible apply State.Keeps.rest)
    | dsimp only
    | split

theorem State.pushTail_keeps {s0 s : State} {p : Nat} {id : Nat} (kept : s0.Keeps s) :
    s0.Keeps (State.pushTail s p id) := by
  unfold State.pushTail
  repeat' first
    | with_reducible intro _
    | with_reducible assumption
    | with_reducible exact State.Keeps.refl _
    | (extract_lets +onlyGivenNames x; clear_value (hx : x = _); first | refine State.Keeps.local (s0 := s0) hx ?_ fun k => ?_ | skip)
    | with_reducible apply State.Keeps.ite
    | with_reducible apply State.tagQueue_keeps
    | with_reducible apply State.modPtm_keeps
    | with_reducible apply State.probeStep_keeps
    | with_reducible apply State.Keeps.id
    | fail_if_no_progress (with_reducible apply State.Keeps.rest)
    | dsimp only
    | split

theorem State.refuseCopy_keeps {s0 s : State} {p : Nat} {id : Nat} {reason : Nat} (kept : s0.Keeps s) :
    s0.Keeps (State.refuseCopy s p id reason) := by
  unfold State.refuseCopy
  repeat' first
    | with_reducible intro _
    | with_reducible assumption
    | with_reducible exact State.Keeps.refl _
    | (extract_lets +onlyGivenNames x; clear_value (hx : x = _); first | refine State.Keeps.local (s0 := s0) hx ?_ fun k => ?_ | skip)
    | with_reducible apply State.Keeps.ite
    | with_reducible apply State.dropRef_keeps
    | with_reducible apply State.refuse_keeps
    | with_reducible apply State.probeDrop_keeps
    | with_reducible apply State.Keeps.id
    | fail_if_no_progress (with_reducible apply State.Keeps.rest)
    | dsimp only
    | split

theorem State.enterPlain_keeps {s0 s : State} {p : Nat} {id : Nat} {limit : Bool} (kept : s0.Keeps s) :
    s0.Keeps (State.enterPlain s p id limit) := by
  unfold State.enterPlain
  repeat' first
    | with_reducible intro _
    | with_reducible assumption
    | with_reducible exact State.Keeps.refl _
    | (extract_lets +onlyGivenNames x; clear_value (hx : x = _); first | refine State.Keeps.local (s0 := s0) hx ?_ fun k => ?_ | skip)
    | with_reducible apply State.Keeps.ite
    | with_reducible apply State.refuseCopy_keeps
    | with_reducible apply State.pushTail_keeps
    | with_reducible apply State.portCount_keeps
    | with_reducible apply State.Keeps.id
    | fail_if_no_progress (with_reducible apply State.Keeps.rest)
    | dsimp only
    | split

theorem State.sendBuilt_keeps {s0 s : State} {p : Nat} {cls : Nat} {kind : Nat} {bs : List Byte} (kept : s0.Keeps s) :
    s0.Keeps (State.sendBuilt s p cls kind bs) := by
  unfold State.sendBuilt
  repeat' first
    | with_reducible intro _
    | with_reducible assumption
    | with_reducible exact State.Keeps.refl _
    | (extract_lets +onlyGivenNames x; clear_value (hx : x = _); first | refine State.Keeps.local (s0 := s0) hx ?_ fun k => ?_ | skip)
    | with_reducible apply State.Keeps.ite
    | with_reducible apply State.enterPlain_keeps
    | with_reducible apply State.refuse_keeps
    | with_reducible apply State.Keeps.id
    | fail_if_no_progress (with_reducible apply State.Keeps.rest)
    | dsimp only
    | refine State.buildFrame_keeps ‹_ = some (_, _)› ?_
    | split

theorem State.busyAnswer_keeps {s0 s : State} {f : Frame} (kept : s0.Keeps s) :
    s0.Keeps (State.busyAnswer s f) := by
  unfold State.busyAnswer
  repeat' first
    | with_reducible intro _
    | with_reducible assumption
    | with_reducible exact State.Keeps.refl _
    | (extract_lets +onlyGivenNames x; clear_value (hx : x = _); first | refine State.Keeps.local (s0 := s0) hx ?_ fun k => ?_ | skip)
    | with_reducible apply State.Keeps.ite
    | with_reducible apply State.sendBuilt_keeps
    | with_reducible apply State.bump_keeps
    | fail_if_no_progress (with_reducible apply State.Keeps.rest)
    | dsimp only
    | split

theorem State.enterQueue_keeps {s0 s : State} {p : Nat} {id : Nat} {limit : Bool} (kept : s0.Keeps s) :
    s0.Keeps (State.enterQueue s p id limit) := by
  unfold State.enterQueue
  repeat' first
    | with_reducible intro _
    | with_reducible assumption
    | with_reducible exact State.Keeps.refl _
    | (extract_lets +onlyGivenNames x; clear_value (hx : x = _); first | refine State.Keeps.local (s0 := s0) hx ?_ fun k => ?_ | skip)
    | with_reducible apply State.Keeps.ite
    | with_reducible apply State.busyAnswer_keeps
    | with_reducible apply State.enterPlain_keeps
    | with_reducible apply State.pushTail_keeps
    | with_reducible apply State.dropRef_keeps
    | with_reducible apply State.Keeps.id
    | fail_if_no_progress (with_reducible apply State.Keeps.rest)
    | dsimp only
    | split

theorem State.enterUnicast_keeps {s0 s : State} {p : Nat} {id : Nat} (kept : s0.Keeps s) :
    s0.Keeps (State.enterUnicast s p id) := by
  unfold State.enterUnicast
  repeat' first
    | with_reducible intro _
    | with_reducible assumption
    | with_reducible exact State.Keeps.refl _
    | (extract_lets +onlyGivenNames x; clear_value (hx : x = _); first | refine State.Keeps.local (s0 := s0) hx ?_ fun k => ?_ | skip)
    | with_reducible apply State.Keeps.ite
    | with_reducible apply State.enterQueue_keeps
    | with_reducible apply State.refuseCopy_keeps
    | with_reducible apply State.Keeps.id
    | fail_if_no_progress (with_reducible apply State.Keeps.rest)
    | dsimp only
    | split

theorem State.takeCopy_keeps {s0 s : State} {p : Nat} {id : Nat} (kept : s0.Keeps s) :
    s0.Keeps (State.takeCopy s p id) := by
  unfold State.takeCopy
  repeat' first
    | with_reducible intro _
    | with_reducible assumption
    | with_reducible exact State.Keeps.refl _
    | (extract_lets +onlyGivenNames x; clear_value (hx : x = _); first | refine State.Keeps.local (s0 := s0) hx ?_ fun k => ?_ | skip)
    | with_reducible apply State.Keeps.ite
    | with_reducible apply State.enterQueue_keeps
    | with_reducible apply State.modFrame_keeps
    | with_reducible apply State.Keeps.id
    | fail_if_no_progress (with_reducible apply State.Keeps.rest)
    | dsimp only
    | split

theorem State.takeWaiting_keeps {s0 s : State} {p : Nat} (kept : s0.Keeps s) :
    s0.Keeps (State.takeWaiting s p) := by
  unfold State.takeWaiting
  repeat' first
    | with_reducible intro _
    | with_reducible assumption
    | with_reducible exact State.Keeps.refl _
    | (extract_lets +onlyGivenNames x; clear_value (hx : x = _); first | refine State.Keeps.local (s0 := s0) hx ?_ fun k => ?_ | skip)
    | with_reducible apply State.Keeps.ite
    | with_reducible apply State.takeCopy_keeps
    | with_reducible apply State.forEach_keeps
    | with_reducible apply State.Keeps.id
    | fail_if_no_progress (with_reducible apply State.Keeps.rest)
    | dsimp only
    | split

theorem State.replicate_keeps {s0 s : State} {id : Nat} {ports : List Nat} (kept : s0.Keeps s) :
    s0.Keeps (State.replicate s id ports) := by
  unfold State.replicate
  repeat' first
    | with_reducible intro _
    | with_reducible assumption
    | with_reducible exact State.Keeps.refl _
    | (extract_lets +onlyGivenNames x; clear_value (hx : x = _); first | refine State.Keeps.local (s0 := s0) hx ?_ fun k => ?_ | skip)
    | with_reducible apply State.Keeps.ite
    | with_reducible apply State.takeWaiting_keeps
    | with_reducible apply State.modFrame_keeps
    | with_reducible apply State.forEach_keeps
    | with_reducible apply State.Keeps.id
    | fail_if_no_progress (with_reducible apply State.Keeps.rest)
    | dsimp only
    | split

theorem State.gateTakeOver_keeps {s0 s : State} {p : Nat} (kept : s0.Keeps s) :
    s0.Keeps (State.gateTakeOver s p) := by
  unfold State.gateTakeOver
  repeat' first
    | with_reducible intro _
    | with_reducible assumption
    | with_reducible exact State.Keeps.refl _
    | (extract_lets +onlyGivenNames x; clear_value (hx : x = _); first | refine State.Keeps.local (s0 := s0) hx ?_ fun k => ?_ | skip)
    | with_reducible apply State.Keeps.ite
    | with_reducible apply State.modPtm_keeps
    | with_reducible apply State.event_keeps
    | with_reducible apply State.setWin_keeps
    | with_reducible apply State.wr_keeps
    | fail_if_no_progress (with_reducible apply State.Keeps.rest)
    | dsimp only
    | split

theorem State.creditUpdate_keeps {s0 s : State} {p : Nat} {ns : Nat} {d0 : Nat} (kept : s0.Keeps s) :
    s0.Keeps (State.creditUpdate s p ns d0) := by
  unfold State.creditUpdate
  repeat' first
    | with_reducible intro _
    | with_reducible assumption
    | with_reducible exact State.Keeps.refl _
    | (extract_lets +onlyGivenNames x; clear_value (hx : x = _); first | refine State.Keeps.local (s0 := s0) hx ?_ fun k => ?_ | (have g := fun u => State.regs (x u); clear g; subst hx) | (have g := fun u v => State.regs (x u v); clear g; subst hx) | (have g := fun u v w => State.regs (x u v w); clear g; subst hx) | (have g := fun u v w y => State.regs (x u v w y); clear g; subst hx) | skip)
    | with_reducible apply State.Keeps.ite
    | with_reducible apply State.modPtm_keeps
    | with_reducible apply State.foldl_keeps
    | fail_if_no_progress (with_reducible apply State.Keeps.rest)
    | dsimp only
    | split

theorem State.takeKinds_keeps {s0 s : State} {p : Nat} (kept : s0.Keeps s) :
    s0.Keeps (State.takeKinds s p) := by
  unfold State.takeKinds
  repeat' first
    | with_reducible intro _
    | with_reducible assumption
    | with_reducible exact State.Keeps.refl _
    | (extract_lets +onlyGivenNames x; clear_value (hx : x = _); first | refine State.Keeps.local (s0 := s0) hx ?_ fun k => ?_ | skip)
    | with_reducible apply State.Keeps.ite
    | with_reducible apply State.modPtm_keeps
    | with_reducible apply State.foldl_keeps
    | fail_if_no_progress (with_reducible apply State.Keeps.rest)
    | dsimp only
    | split

theorem State.drrPick_keeps {s0 s : State} {p : Nat} {key : Nat} {qs : List Nat} (kept : s0.Keeps s) :
    s0.Keeps (State.drrPick s p key qs).2 := by
  unfold State.drrPick
  repeat' first
    | with_reducible intro _
    | with_reducible assumption
    | with_reducible exact State.Keeps.refl _
    | (extract_lets +onlyGivenNames x; clear_value (hx : x = _); first | refine State.Keeps.local (s0 := s0) hx ?_ fun k => ?_ | skip)
    | with_reducible apply State.Keeps.ite
    | with_reducible apply State.modPtm_keeps
    | with_reducible apply State.Keeps.ite_snd
    | fail_if_no_progress (with_reducible apply State.Keeps.rest)
    | dsimp only
    | split

theorem State.firstClass_keeps {s0 s : State} {p : Nat} {x1 : List Nat} (kept : s0.Keeps s) :
    s0.Keeps (State.firstClass s p x1).2 := by
  induction x1 generalizing s p with
  | nil =>
    unfold State.firstClass
    repeat' first
      | with_reducible intro _
      | with_reducible assumption
      | with_reducible exact State.Keeps.refl _
      | (extract_lets +onlyGivenNames x; clear_value (hx : x = _); first | refine State.Keeps.local (s0 := s0) hx ?_ fun k => ?_ | skip)
      | with_reducible apply State.Keeps.ite
      | with_reducible apply State.drrPick_keeps
      | with_reducible apply State.Keeps.ite_snd
      | fail_if_no_progress (with_reducible apply State.Keeps.rest)
      | dsimp only
      | refine State.Keeps.of_snd ‹_ = (_, _)› ?_
      | split
  | cons y r ih =>
    unfold State.firstClass
    repeat' first
      | with_reducible intro _
      | with_reducible assumption
      | with_reducible apply ih
      | with_reducible exact State.Keeps.refl _
      | (extract_lets +onlyGivenNames x; clear_value (hx : x = _); first | refine State.Keeps.local (s0 := s0) hx ?_ fun k => ?_ | skip)
      | with_reducible apply State.Keeps.ite
      | with_reducible apply State.drrPick_keeps
      | with_reducible apply State.Keeps.ite_snd
      | fail_if_no_progress (with_reducible apply State.Keeps.rest)
      | dsimp only
      | refine State.Keeps.of_snd ‹_ = (_, _)› ?_
      | split

theorem State.selectAmong_keeps {s0 s : State} {p : Nat} {ok : Nat → Bool} (kept : s0.Keeps s) :
    s0.Keeps (State.selectAmong s p ok).2 := by
  unfold State.selectAmong
  repeat' first
    | with_reducible intro _
    | with_reducible assumption
    | with_reducible exact State.Keeps.refl _
    | (extract_lets +onlyGivenNames x; clear_value (hx : x = _); first | refine State.Keeps.local (s0 := s0) hx ?_ fun k => ?_ | (have g := State.regs x.2; clear g; subst hx) | skip)
    | with_reducible apply State.Keeps.ite
    | with_reducible apply State.firstClass_keeps
    | with_reducible apply State.drrPick_keeps
    | with_reducible apply State.Keeps.ite_snd
    | fail_if_no_progress (with_reducible apply State.Keeps.rest)
    | dsimp only
    | refine State.Keeps.of_snd ‹_ = (_, _)› ?_
    | split

theorem State.selectQueue_keeps {s0 s : State} {p : Nat} (kept : s0.Keeps s) :
    s0.Keeps (State.selectQueue s p).2 := by
  unfold State.selectQueue
  repeat' first
    | with_reducible intro _
    | with_reducible assumption
    | with_reducible exact State.Keeps.refl _
    | (extract_lets +onlyGivenNames x; clear_value (hx : x = _); first | refine State.Keeps.local (s0 := s0) hx ?_ fun k => ?_ | skip)
    | with_reducible apply State.Keeps.ite
    | with_reducible apply State.selectAmong_keeps
    | with_reducible apply State.Keeps.ite_snd
    | fail_if_no_progress (with_reducible apply State.Keeps.rest)
    | dsimp only
    | refine State.Keeps.of_snd ‹_ = (_, _)› ?_
    | split

theorem State.popHead_keeps {s0 s : State} {p : Nat} {n : Nat} (kept : s0.Keeps s) :
    s0.Keeps (State.popHead s p n) := by
  unfold State.popHead
  repeat' first
    | with_reducible intro _
    | with_reducible assumption
    | with_reducible exact State.Keeps.refl _
    | (extract_lets +onlyGivenNames x; clear_value (hx : x = _); first | refine State.Keeps.local (s0 := s0) hx ?_ fun k => ?_ | skip)
    | with_reducible apply State.Keeps.ite
    | with_reducible apply State.restartTags_keeps
    | with_reducible apply State.tagQueue_keeps
    | with_reducible apply State.modPtm_keeps
    | fail_if_no_progress (with_reducible apply State.Keeps.rest)
    | dsimp only
    | split

theorem State.removeItem_keeps {s0 s : State} {p : Nat} {n : Nat} {id : Nat} (kept : s0.Keeps s) :
    s0.Keeps (State.removeItem s p n id) := by
  unfold State.removeItem
  repeat' first
    | with_reducible intro _
    | with_reducible assumption
    | with_reducible exact State.Keeps.refl _
    | (extract_lets +onlyGivenNames x; clear_value (hx : x = _); first | refine State.Keeps.local (s0 := s0) hx ?_ fun k => ?_ | skip)
    | with_reducible apply State.Keeps.ite
    | with_reducible apply State.restartTags_keeps
    | with_reducible apply State.tagQueue_keeps
    | with_reducible apply State.modPtm_keeps
    | with_reducible apply State.Keeps.id
    | fail_if_no_progress (with_reducible apply State.Keeps.rest)
    | dsimp only
    | split

theorem State.pushHead_keeps {s0 s : State} {p : Nat} {n : Nat} {i : QItem} (kept : s0.Keeps s) :
    s0.Keeps (State.pushHead s p n i) := by
  unfold State.pushHead
  repeat' first
    | with_reducible intro _
    | with_reducible assumption
    | with_reducible exact State.Keeps.refl _
    | (extract_lets +onlyGivenNames x; clear_value (hx : x = _); first | refine State.Keeps.local (s0 := s0) hx ?_ fun k => ?_ | skip)
    | with_reducible apply State.Keeps.ite
    | with_reducible apply State.modPtm_keeps
    | fail_if_no_progress (with_reducible apply State.Keeps.rest)
    | dsimp only
    | split

theorem State.sweep_keeps {s0 s : State} {group : Nat} (kept : s0.Keeps s) :
    s0.Keeps (State.sweep s group) := by
  unfold State.sweep
  repeat' first
    | with_reducible intro _
    | with_reducible assumption
    | with_reducible exact State.Keeps.refl _
    | (extract_lets +onlyGivenNames x; clear_value (hx : x = _); first | refine State.Keeps.local (s0 := s0) hx ?_ fun k => ?_ | skip)
    | with_reducible apply State.Keeps.ite
    | with_reducible apply State.removeItem_keeps
    | with_reducible apply State.refuseCopy_keeps
    | with_reducible apply State.dropWaiting_keeps
    | with_reducible apply State.forEach_keeps
    | fail_if_no_progress (with_reducible apply State.Keeps.rest)
    | dsimp only
    | split

theorem State.meter_keeps {s0 s : State} {m : Nat} {f : Frame} {incoming : Option Nat} (kept : s0.Keeps s) :
    s0.Keeps (State.meter s m f incoming).2 := by
  unfold State.meter
  repeat' first
    | with_reducible intro _
    | with_reducible assumption
    | with_reducible exact State.Keeps.refl _
    | (extract_lets +onlyGivenNames x; clear_value (hx : x = _); first | refine State.Keeps.local (s0 := s0) hx ?_ fun k => ?_ | skip)
    | with_reducible apply State.Keeps.ite
    | with_reducible apply State.withTm_keeps
    | with_reducible apply State.bumpWin_keeps
    | with_reducible apply State.Keeps.ite_snd
    | fail_if_no_progress (with_reducible apply State.Keeps.rest)
    | dsimp only
    | split

theorem State.editFrame_keeps {s0 s : State} {id : Nat} {g : List Byte → List Byte} (kept : s0.Keeps s) :
    s0.Keeps (State.editFrame s id g) := by
  unfold State.editFrame
  repeat' first
    | with_reducible intro _
    | with_reducible assumption
    | with_reducible exact State.Keeps.refl _
    | (extract_lets +onlyGivenNames x; clear_value (hx : x = _); first | refine State.Keeps.local (s0 := s0) hx ?_ fun k => ?_ | skip)
    | with_reducible apply State.Keeps.ite
    | with_reducible apply State.modFrame_keeps
    | with_reducible apply State.Keeps.id
    | fail_if_no_progress (with_reducible apply State.Keeps.rest)
    | dsimp only
    | split

theorem State.markYellow_keeps {s0 s : State} {m : Nat} {id : Nat} {col : Nat} (kept : s0.Keeps s) :
    s0.Keeps (State.markYellow s m id col) := by
  unfold State.markYellow
  repeat' first
    | with_reducible intro _
    | with_reducible assumption
    | with_reducible exact State.Keeps.refl _
    | (extract_lets +onlyGivenNames x; clear_value (hx : x = _); first | refine State.Keeps.local (s0 := s0) hx ?_ fun k => ?_ | skip)
    | with_reducible apply State.Keeps.ite
    | with_reducible apply State.editFrame_keeps
    | with_reducible apply State.Keeps.id
    | fail_if_no_progress (with_reducible apply State.Keeps.rest)
    | dsimp only
    | split

theorem State.streamFilter_keeps {s0 s : State} {h : Nat} {id : Nat} {incoming : Option Nat} (kept : s0.Keeps s) :
    s0.Keeps (State.streamFilter s h id incoming).2 := by
  unfold State.streamFilter
  repeat' first
    | with_reducible intro _
    | with_reducible assumption
    | with_reducible exact State.Keeps.refl _
    | (extract_lets +onlyGivenNames x; clear_value (hx : x = _); first | refine State.Keeps.local (s0 := s0) hx ?_ fun k => ?_ | (have g := fun u => State.regs (x u); clear g; subst hx) | (have g := fun u v => State.regs (x u v); clear g; subst hx) | (have g := fun u v w => State.regs (x u v w); clear g; subst hx) | (have g := fun u v w y => State.regs (x u v w y); clear g; subst hx) | (have g := State.regs x.2; clear g; subst hx) | skip)
    | with_reducible apply State.Keeps.ite
    | with_reducible apply State.markYellow_keeps
    | with_reducible apply State.meter_keeps
    | with_reducible apply State.bumpWin_keeps
    | with_reducible apply State.Keeps.id
    | with_reducible apply State.Keeps.ite_snd
    | fail_if_no_progress (with_reducible apply State.Keeps.rest)
    | dsimp only
    | refine State.Keeps.of_snd ‹_ = (_, _)› ?_
    | split

theorem State.setFrer_keeps {s0 s : State} {h : Nat} {d : FrerDyn} (kept : s0.Keeps s) :
    s0.Keeps (State.setFrer s h d) := by
  unfold State.setFrer
  repeat' first
    | with_reducible intro _
    | with_reducible assumption
    | with_reducible exact State.Keeps.refl _
    | (extract_lets +onlyGivenNames x; clear_value (hx : x = _); first | refine State.Keeps.local (s0 := s0) hx ?_ fun k => ?_ | skip)
    | with_reducible apply State.Keeps.ite
    | with_reducible apply State.withTm_keeps
    | fail_if_no_progress (with_reducible apply State.Keeps.rest)
    | dsimp only
    | split

theorem State.frerStep_keeps {s0 s : State} {h : Nat} {id : Nat} (kept : s0.Keeps s) :
    s0.Keeps (State.frerStep s h id).2 := by
  unfold State.frerStep
  repeat' first
    | with_reducible intro _
    | with_reducible assumption
    | with_reducible exact State.Keeps.refl _
    | (extract_lets +onlyGivenNames x; clear_value (hx : x = _); first | refine State.Keeps.local (s0 := s0) hx ?_ fun k => ?_ | skip)
    | with_reducible apply State.Keeps.ite
    | with_reducible apply State.restart_keeps
    | with_reducible apply State.setFrer_keeps
    | with_reducible apply State.editFrame_keeps
    | with_reducible apply State.bumpWin_keeps
    | with_reducible apply State.Keeps.id
    | with_reducible apply State.Keeps.ite_snd
    | fail_if_no_progress (with_reducible apply State.Keeps.rest)
    | dsimp only
    | split

theorem State.sampleQueue_keeps {s0 s : State} {p : Nat} {n : Nat} (kept : s0.Keeps s) :
    s0.Keeps (State.sampleQueue s p n) := by
  unfold State.sampleQueue
  repeat' first
    | with_reducible intro _
    | with_reducible assumption
    | with_reducible exact State.Keeps.refl _
    | (extract_lets +onlyGivenNames x; clear_value (hx : x = _); first | refine State.Keeps.local (s0 := s0) hx ?_ fun k => ?_ | (have g := fun u => State.regs (x u); clear g; subst hx) | (have g := fun u v => State.regs (x u v); clear g; subst hx) | (have g := fun u v w => State.regs (x u v w); clear g; subst hx) | (have g := fun u v w y => State.regs (x u v w y); clear g; subst hx) | skip)
    | with_reducible apply State.Keeps.ite
    | with_reducible apply State.bumpWin_keeps
    | with_reducible apply State.setWinLe_keeps
    | fail_if_no_progress (with_reducible apply State.Keeps.rest)
    | dsimp only
    | split

theorem State.restartObservation_keeps {s0 s : State} {p : Nat} (kept : s0.Keeps s) :
    s0.Keeps (State.restartObservation s p) := by
  unfold State.restartObservation
  repeat' first
    | with_reducible intro _
    | with_reducible assumption
    | with_reducible exact State.Keeps.refl _
    | (extract_lets +onlyGivenNames x; clear_value (hx : x = _); first | refine State.Keeps.local (s0 := s0) hx ?_ fun k => ?_ | skip)
    | with_reducible apply State.Keeps.ite
    | with_reducible apply State.forEach_keeps
    | with_reducible apply State.setWin_keeps
    | fail_if_no_progress (with_reducible apply State.Keeps.rest)
    | dsimp only
    | split

theorem State.sheddingWindow_keeps {s0 s : State} {headroom : Nat} (kept : s0.Keeps s) :
    s0.Keeps (State.sheddingWindow s headroom) := by
  unfold State.sheddingWindow
  repeat' first
    | with_reducible intro _
    | with_reducible assumption
    | with_reducible exact State.Keeps.refl _
    | (extract_lets +onlyGivenNames x; clear_value (hx : x = _); first | refine State.Keeps.local (s0 := s0) hx ?_ fun k => ?_ | skip)
    | with_reducible apply State.Keeps.ite
    | with_reducible apply State.withTm_keeps
    | with_reducible apply State.event_keeps
    | with_reducible apply State.bump_keeps
    | with_reducible apply State.wr_keeps
    | fail_if_no_progress (with_reducible apply State.Keeps.rest)
    | dsimp only
    | split

end Sys2Proof.Machine
end

