-- ==== Sys2Proof/Laws/KeepsEther.lean ====
section
/-! SUPPORT. What the definitions of Machine/Ether keep (`State.Keeps`). -/

set_option linter.unusedTactic false
set_option linter.unreachableTactic false

namespace Sys2Proof.Machine

theorem State.withTime_keeps {s0 s : State} {f : TimeState → TimeState} (kept : s0.Keeps s) :
    s0.Keeps (State.withTime s f) := by
  unfold State.withTime
  repeat' first
    | with_reducible intro _
    | with_reducible assumption
    | with_reducible exact State.Keeps.refl _
    | (extract_lets +onlyGivenNames x; clear_value (hx : x = _); first | refine State.Keeps.local (s0 := s0) hx ?_ fun k => ?_ | skip)
    | with_reducible apply State.Keeps.ite
    | fail_if_no_progress (with_reducible apply State.Keeps.rest)
    | dsimp only
    | split

theorem State.ptpStamp_keeps {s0 s : State} {p : Nat} {sent : Bool} {bs : List Byte} {t : Nat} (kept : s0.Keeps s) :
    s0.Keeps (State.ptpStamp s p sent bs t) := by
  unfold State.ptpStamp
  repeat' first
    | with_reducible intro _
    | with_reducible assumption
    | with_reducible exact State.Keeps.refl _
    | (extract_lets +onlyGivenNames x; clear_value (hx : x = _); first | refine State.Keeps.local (s0 := s0) hx ?_ fun k => ?_ | skip)
    | with_reducible apply State.Keeps.ite
    | with_reducible apply State.withTime_keeps
    | with_reducible apply State.setWin_keeps
    | fail_if_no_progress (with_reducible apply State.Keeps.rest)
    | dsimp only
    | split

theorem State.raiseThreshold_keeps {s0 s : State} {p : Nat} (kept : s0.Keeps s) :
    s0.Keeps (State.raiseThreshold s p) := by
  unfold State.raiseThreshold
  repeat' first
    | with_reducible intro _
    | with_reducible assumption
    | with_reducible exact State.Keeps.refl _
    | (extract_lets +onlyGivenNames x; clear_value (hx : x = _); first | refine State.Keeps.local (s0 := s0) hx ?_ fun k => ?_ | skip)
    | with_reducible apply State.Keeps.ite
    | with_reducible apply State.portCount_keeps
    | with_reducible apply State.modPdyn_keeps
    | with_reducible apply State.event_keeps
    | fail_if_no_progress (with_reducible apply State.Keeps.rest)
    | dsimp only
    | split

theorem State.restartRun_keeps {s0 s : State} {p : Nat} (kept : s0.Keeps s) :
    s0.Keeps (State.restartRun s p) := by
  unfold State.restartRun
  repeat' first
    | with_reducible intro _
    | with_reducible assumption
    | with_reducible exact State.Keeps.refl _
    | (extract_lets +onlyGivenNames x; clear_value (hx : x = _); first | refine State.Keeps.local (s0 := s0) hx ?_ fun k => ?_ | skip)
    | with_reducible apply State.Keeps.ite
    | with_reducible apply State.modPdyn_keeps
    | fail_if_no_progress (with_reducible apply State.Keeps.rest)
    | dsimp only
    | split

theorem State.decayThreshold_keeps {s0 s : State} {p : Nat} (kept : s0.Keeps s) :
    s0.Keeps (State.decayThreshold s p) := by
  unfold State.decayThreshold
  repeat' first
    | with_reducible intro _
    | with_reducible assumption
    | with_reducible exact State.Keeps.refl _
    | (extract_lets +onlyGivenNames x; clear_value (hx : x = _); first | refine State.Keeps.local (s0 := s0) hx ?_ fun k => ?_ | skip)
    | with_reducible apply State.Keeps.ite
    | with_reducible apply State.modPdyn_keeps
    | fail_if_no_progress (with_reducible apply State.Keeps.rest)
    | dsimp only
    | split

theorem State.writeThreshold_keeps {s0 s : State} {p : Nat} {v : Nat} (kept : s0.Keeps s) :
    s0.Keeps (State.writeThreshold s p v) := by
  unfold State.writeThreshold
  repeat' first
    | with_reducible intro _
    | with_reducible assumption
    | with_reducible exact State.Keeps.refl _
    | (extract_lets +onlyGivenNames x; clear_value (hx : x = _); first | refine State.Keeps.local (s0 := s0) hx ?_ fun k => ?_ | skip)
    | with_reducible apply State.Keeps.ite
    | with_reducible apply State.modPdyn_keeps
    | with_reducible apply State.wr_keeps
    | fail_if_no_progress (with_reducible apply State.Keeps.rest)
    | dsimp only
    | split

theorem State.countTx_keeps {s0 s : State} {p : Nat} {bs : List Byte} (kept : s0.Keeps s) :
    s0.Keeps (State.countTx s p bs) := by
  unfold State.countTx
  repeat' first
    | with_reducible intro _
    | with_reducible assumption
    | with_reducible exact State.Keeps.refl _
    | (extract_lets +onlyGivenNames x; clear_value (hx : x = _); first | refine State.Keeps.local (s0 := s0) hx ?_ fun k => ?_ | skip)
    | with_reducible apply State.Keeps.ite
    | with_reducible apply State.portCount_keeps
    | fail_if_no_progress (with_reducible apply State.Keeps.rest)
    | dsimp only
    | split

theorem State.countRx_keeps {s0 s : State} {p : Nat} {bs : List Byte} {n : Nat} {tagged : Bool} (kept : s0.Keeps s) :
    s0.Keeps (State.countRx s p bs n tagged) := by
  unfold State.countRx
  repeat' first
    | with_reducible intro _
    | with_reducible assumption
    | with_reducible exact State.Keeps.refl _
    | (extract_lets +onlyGivenNames x; clear_value (hx : x = _); first | refine State.Keeps.local (s0 := s0) hx ?_ fun k => ?_ | skip)
    | with_reducible apply State.Keeps.ite
    | with_reducible apply State.portCount_keeps
    | fail_if_no_progress (with_reducible apply State.Keeps.rest)
    | dsimp only
    | split

theorem State.countStomped_keeps {s0 s : State} {id : Nat} {p : Nat} (kept : s0.Keeps s) :
    s0.Keeps (State.countStomped s id p) := by
  unfold State.countStomped
  repeat' first
    | with_reducible intro _
    | with_reducible assumption
    | with_reducible exact State.Keeps.refl _
    | (extract_lets +onlyGivenNames x; clear_value (hx : x = _); first | refine State.Keeps.local (s0 := s0) hx ?_ fun k => ?_ | skip)
    | with_reducible apply State.Keeps.ite
    | with_reducible apply State.portCount_keeps
    | with_reducible apply State.modFrame_keeps
    | with_reducible apply State.Keeps.id
    | fail_if_no_progress (with_reducible apply State.Keeps.rest)
    | dsimp only
    | split

theorem State.endStomped_keeps {s0 s : State} {p : Nat} {t : Tx} {n : Nat} (kept : s0.Keeps s) :
    s0.Keeps (State.endStomped s p t n) := by
  unfold State.endStomped
  repeat' first
    | with_reducible intro _
    | with_reducible assumption
    | with_reducible exact State.Keeps.refl _
    | (extract_lets +onlyGivenNames x; clear_value (hx : x = _); first | refine State.Keeps.local (s0 := s0) hx ?_ fun k => ?_ | skip)
    | with_reducible apply State.Keeps.ite
    | with_reducible apply State.countStomped_keeps
    | with_reducible apply State.takeWaiting_keeps
    | with_reducible apply State.modPdyn_keeps
    | with_reducible apply State.dropRef_keeps
    | with_reducible apply State.emit_keeps
    | fail_if_no_progress (with_reducible apply State.Keeps.rest)
    | dsimp only
    | split

theorem State.finishTx_keeps {s0 s : State} {p : Nat} (kept : s0.Keeps s) :
    s0.Keeps (State.finishTx s p) := by
  unfold State.finishTx
  repeat' first
    | with_reducible intro _
    | with_reducible assumption
    | with_reducible exact State.Keeps.refl _
    | (extract_lets +onlyGivenNames x; clear_value (hx : x = _); first | refine State.Keeps.local (s0 := s0) hx ?_ fun k => ?_ | skip)
    | with_reducible apply State.Keeps.ite
    | with_reducible apply State.endStomped_keeps
    | with_reducible apply State.countTx_keeps
    | with_reducible apply State.takeWaiting_keeps
    | with_reducible apply State.portCount_keeps
    | with_reducible apply State.modPdyn_keeps
    | with_reducible apply State.dropRef_keeps
    | with_reducible apply State.probeEnd_keeps
    | with_reducible apply State.emit_keeps
    | fail_if_no_progress (with_reducible apply State.Keeps.rest)
    | dsimp only
    | split

theorem State.startCheck_keeps {s0 s : State} {p : Nat} {n : Nat} {id : Nat} (kept : s0.Keeps s) :
    s0.Keeps (State.startCheck s p n id).2 := by
  unfold State.startCheck
  repeat' first
    | with_reducible intro _
    | with_reducible assumption
    | with_reducible exact State.Keeps.refl _
    | (extract_lets +onlyGivenNames x; clear_value (hx : x = _); first | refine State.Keeps.local (s0 := s0) hx ?_ fun k => ?_ | skip)
    | with_reducible apply State.Keeps.ite
    | with_reducible apply State.popHead_keeps
    | with_reducible apply State.refuseCopy_keeps
    | with_reducible apply State.portCount_keeps
    | with_reducible apply State.markPoison_keeps
    | with_reducible apply State.discardPoisoned_keeps
    | with_reducible apply State.dropRef_keeps
    | with_reducible apply State.Keeps.id
    | with_reducible apply State.Keeps.ite_snd
    | fail_if_no_progress (with_reducible apply State.Keeps.rest)
    | dsimp only
    | split

theorem State.startTx_keeps {s0 s : State} {p : Nat} {n : Nat} (kept : s0.Keeps s) :
    s0.Keeps (State.startTx s p n) := by
  unfold State.startTx
  repeat' first
    | with_reducible intro _
    | with_reducible assumption
    | with_reducible exact State.Keeps.refl _
    | (extract_lets +onlyGivenNames x; clear_value (hx : x = _); first | refine State.Keeps.local (s0 := s0) hx ?_ fun k => ?_ | (have g := State.regs x.2; clear g; subst hx) | skip)
    | with_reducible apply State.Keeps.ite
    | with_reducible apply State.startCheck_keeps
    | with_reducible apply State.popHead_keeps
    | with_reducible apply State.takeWaiting_keeps
    | with_reducible apply State.modPdyn_keeps
    | with_reducible apply State.ptpStamp_keeps
    | with_reducible apply State.probeOut_keeps
    | fail_if_no_progress (with_reducible apply State.Keeps.rest)
    | dsimp only
    | refine State.Keeps.of_snd ‹_ = (_, _)› ?_
    | split

theorem State.resumeTx_keeps {s0 s : State} {p : Nat} (kept : s0.Keeps s) :
    s0.Keeps (State.resumeTx s p) := by
  unfold State.resumeTx
  repeat' first
    | with_reducible intro _
    | with_reducible assumption
    | with_reducible exact State.Keeps.refl _
    | (extract_lets +onlyGivenNames x; clear_value (hx : x = _); first | refine State.Keeps.local (s0 := s0) hx ?_ fun k => ?_ | skip)
    | with_reducible apply State.Keeps.ite
    | with_reducible apply State.decide_keeps
    | with_reducible apply State.portCount_keeps
    | with_reducible apply State.modPdyn_keeps
    | fail_if_no_progress (with_reducible apply State.Keeps.rest)
    | dsimp only
    | split

theorem State.preempt_keeps {s0 s : State} {p : Nat} {t : Tx} (kept : s0.Keeps s) :
    s0.Keeps (State.preempt s p t).1 := by
  unfold State.preempt
  repeat' first
    | with_reducible intro _
    | with_reducible assumption
    | with_reducible exact State.Keeps.refl _
    | (extract_lets +onlyGivenNames x; clear_value (hx : x = _); first | refine State.Keeps.local (s0 := s0) hx ?_ fun k => ?_ | skip)
    | with_reducible apply State.Keeps.ite
    | with_reducible apply State.modPdyn_keeps
    | with_reducible apply State.Keeps.ite_fst
    | fail_if_no_progress (with_reducible apply State.Keeps.rest)
    | dsimp only
    | split

theorem State.closeTx_keeps {s0 s : State} {id : Nat} (kept : s0.Keeps s) :
    s0.Keeps (State.closeTx s id) := by
  unfold State.closeTx
  repeat' first
    | with_reducible intro _
    | with_reducible assumption
    | with_reducible exact State.Keeps.refl _
    | (extract_lets +onlyGivenNames x; clear_value (hx : x = _); first | refine State.Keeps.local (s0 := s0) hx ?_ fun k => ?_ | skip)
    | with_reducible apply State.Keeps.ite
    | with_reducible apply State.decide_keeps
    | with_reducible apply State.modPdyn_keeps
    | with_reducible apply State.forEach_keeps
    | with_reducible apply State.Keeps.id
    | fail_if_no_progress (with_reducible apply State.Keeps.rest)
    | dsimp only
    | split

theorem State.cutRx_keeps {s0 s : State} {p : Nat} (kept : s0.Keeps s) :
    s0.Keeps (State.cutRx s p) := by
  unfold State.cutRx
  repeat' first
    | with_reducible intro _
    | with_reducible assumption
    | with_reducible exact State.Keeps.refl _
    | (extract_lets +onlyGivenNames x; clear_value (hx : x = _); first | refine State.Keeps.local (s0 := s0) hx ?_ fun k => ?_ | skip)
    | with_reducible apply State.Keeps.ite
    | with_reducible apply State.closeTx_keeps
    | with_reducible apply State.portCount_keeps
    | with_reducible apply State.eraseFrame_keeps
    | with_reducible apply State.modFrame_keeps
    | with_reducible apply State.withBuf_keeps
    | with_reducible apply State.Keeps.id
    | fail_if_no_progress (with_reducible apply State.Keeps.rest)
    | dsimp only
    | split

theorem State.dropLink_keeps {s0 s : State} {p : Nat} {mode : Nat} (kept : s0.Keeps s) :
    s0.Keeps (State.dropLink s p mode) := by
  unfold State.dropLink
  repeat' first
    | with_reducible intro _
    | with_reducible assumption
    | with_reducible exact State.Keeps.refl _
    | (extract_lets +onlyGivenNames x; clear_value (hx : x = _); first | refine State.Keeps.local (s0 := s0) hx ?_ fun k => ?_ | skip)
    | with_reducible apply State.Keeps.ite
    | with_reducible apply State.cutRx_keeps
    | with_reducible apply State.portCount_keeps
    | with_reducible apply State.modPdyn_keeps
    | with_reducible apply State.dropRef_keeps
    | with_reducible apply State.emit_keeps
    | with_reducible apply State.event_keeps
    | with_reducible apply State.wr_keeps
    | fail_if_no_progress (with_reducible apply State.Keeps.rest)
    | dsimp only
    | split

theorem State.takeMode_keeps {s0 s : State} {p : Nat} (kept : s0.Keeps s) :
    s0.Keeps (State.takeMode s p) := by
  unfold State.takeMode
  repeat' first
    | with_reducible intro _
    | with_reducible assumption
    | with_reducible exact State.Keeps.refl _
    | (extract_lets +onlyGivenNames x; clear_value (hx : x = _); first | refine State.Keeps.local (s0 := s0) hx ?_ fun k => ?_ | skip)
    | with_reducible apply State.Keeps.ite
    | with_reducible apply State.dropLink_keeps
    | fail_if_no_progress (with_reducible apply State.Keeps.rest)
    | dsimp only
    | split

theorem State.writePortMode_keeps {s0 s : State} {p : Nat} {v : Nat} (kept : s0.Keeps s) :
    s0.Keeps (State.writePortMode s p v) := by
  unfold State.writePortMode
  repeat' first
    | with_reducible intro _
    | with_reducible assumption
    | with_reducible exact State.Keeps.refl _
    | (extract_lets +onlyGivenNames x; clear_value (hx : x = _); first | refine State.Keeps.local (s0 := s0) hx ?_ fun k => ?_ | skip)
    | with_reducible apply State.Keeps.ite
    | with_reducible apply State.takeMode_keeps
    | with_reducible apply State.modPdyn_keeps
    | with_reducible apply State.wr_keeps
    | fail_if_no_progress (with_reducible apply State.Keeps.rest)
    | dsimp only
    | split

theorem State.raiseLink_keeps {s0 s : State} {p : Nat} (kept : s0.Keeps s) :
    s0.Keeps (State.raiseLink s p) := by
  unfold State.raiseLink
  repeat' first
    | with_reducible intro _
    | with_reducible assumption
    | with_reducible exact State.Keeps.refl _
    | (extract_lets +onlyGivenNames x; clear_value (hx : x = _); first | refine State.Keeps.local (s0 := s0) hx ?_ fun k => ?_ | skip)
    | with_reducible apply State.Keeps.ite
    | with_reducible apply State.takeWaiting_keeps
    | with_reducible apply State.modPdyn_keeps
    | with_reducible apply State.event_keeps
    | with_reducible apply State.wr_keeps
    | fail_if_no_progress (with_reducible apply State.Keeps.rest)
    | dsimp only
    | split

theorem State.modStops_keeps {s0 s : State} {p : Nat} {f : PortDyn → PortDyn} (kept : s0.Keeps s) :
    s0.Keeps (State.modStops s p f) := by
  unfold State.modStops
  repeat' first
    | with_reducible intro _
    | with_reducible assumption
    | with_reducible exact State.Keeps.refl _
    | (extract_lets +onlyGivenNames x; clear_value (hx : x = _); first | refine State.Keeps.local (s0 := s0) hx ?_ fun k => ?_ | skip)
    | with_reducible apply State.Keeps.ite
    | with_reducible apply State.portCount_keeps
    | with_reducible apply State.modPdyn_keeps
    | fail_if_no_progress (with_reducible apply State.Keeps.rest)
    | dsimp only
    | split

theorem State.setStop_keeps {s0 s : State} {p : Nat} {c : Nat} {q : Nat} (kept : s0.Keeps s) :
    s0.Keeps (State.setStop s p c q) := by
  unfold State.setStop
  repeat' first
    | with_reducible intro _
    | with_reducible assumption
    | with_reducible exact State.Keeps.refl _
    | (extract_lets +onlyGivenNames x; clear_value (hx : x = _); first | refine State.Keeps.local (s0 := s0) hx ?_ fun k => ?_ | skip)
    | with_reducible apply State.Keeps.ite
    | with_reducible apply State.modStops_keeps
    | fail_if_no_progress (with_reducible apply State.Keeps.rest)
    | dsimp only
    | split

theorem State.watchdogTrip_keeps {s0 s : State} {p : Nat} {c : Nat} (kept : s0.Keeps s) :
    s0.Keeps (State.watchdogTrip s p c) := by
  unfold State.watchdogTrip
  repeat' first
    | with_reducible intro _
    | with_reducible assumption
    | with_reducible exact State.Keeps.refl _
    | (extract_lets +onlyGivenNames x; clear_value (hx : x = _); first | refine State.Keeps.local (s0 := s0) hx ?_ fun k => ?_ | skip)
    | with_reducible apply State.Keeps.ite
    | with_reducible apply State.setStop_keeps
    | with_reducible apply State.portCount_keeps
    | with_reducible apply State.modPdyn_keeps
    | with_reducible apply State.event_keeps
    | with_reducible apply State.wrB_keeps
    | fail_if_no_progress (with_reducible apply State.Keeps.rest)
    | dsimp only
    | split

theorem State.sendPause_keeps {s0 s : State} {p : Nat} {q : Nat} (kept : s0.Keeps s) :
    s0.Keeps (State.sendPause s p q) := by
  unfold State.sendPause
  repeat' first
    | with_reducible intro _
    | with_reducible assumption
    | with_reducible exact State.Keeps.refl _
    | (extract_lets +onlyGivenNames x; clear_value (hx : x = _); first | refine State.Keeps.local (s0 := s0) hx ?_ fun k => ?_ | skip)
    | with_reducible apply State.Keeps.ite
    | with_reducible apply State.portCount_keeps
    | with_reducible apply State.modPdyn_keeps
    | with_reducible apply State.emit_keeps
    | fail_if_no_progress (with_reducible apply State.Keeps.rest)
    | dsimp only
    | split

end Sys2Proof.Machine
end

