-- ==== Sys2Proof/Laws/KeepsTime.lean ====
section
/-! SUPPORT. What the definitions of Machine/Time keep (`State.Keeps`). -/

set_option linter.unusedTactic false
set_option linter.unreachableTactic false

namespace Sys2Proof.Machine

theorem State.pass_keeps {s0 s : State} {dt : Nat} (kept : s0.Keeps s) :
    s0.Keeps (State.pass s dt) := by
  unfold State.pass
  repeat' first
    | with_reducible intro _
    | with_reducible assumption
    | with_reducible exact State.Keeps.refl _
    | (extract_lets +onlyGivenNames x; clear_value (hx : x = _); first | refine State.Keeps.local (s0 := s0) hx ?_ fun k => ?_ | skip)
    | with_reducible apply State.Keeps.ite
    | with_reducible apply State.creditUpdate_keeps
    | with_reducible apply State.forEach_keeps
    | with_reducible apply State.tick_keeps
    | fail_if_no_progress (with_reducible apply State.Keeps.rest)
    | dsimp only
    | split

theorem State.runTo_keeps {s0 s : State} {limit : Nat} {x1 : Nat} (kept : s0.Keeps s) :
    s0.Keeps (State.runTo s limit x1) := by
  induction x1 generalizing s limit with
  | zero =>
    unfold State.runTo
    repeat' first
      | with_reducible intro _
      | with_reducible assumption
      | with_reducible exact State.Keeps.refl _
      | (extract_lets +onlyGivenNames x; clear_value (hx : x = _); first | refine State.Keeps.local (s0 := s0) hx ?_ fun k => ?_ | skip)
      | with_reducible apply State.Keeps.ite
      | with_reducible apply State.pass_keeps
      | with_reducible apply State.takeMode_keeps
      | with_reducible apply State.finishTx_keeps
      | fail_if_no_progress (with_reducible apply State.Keeps.rest)
      | dsimp only
      | split
  | succ k ih =>
    unfold State.runTo
    repeat' first
      | with_reducible intro _
      | with_reducible assumption
      | with_reducible apply ih
      | with_reducible exact State.Keeps.refl _
      | (extract_lets +onlyGivenNames x; clear_value (hx : x = _); first | refine State.Keeps.local (s0 := s0) hx ?_ fun k => ?_ | skip)
      | with_reducible apply State.Keeps.ite
      | with_reducible apply State.pass_keeps
      | with_reducible apply State.takeMode_keeps
      | with_reducible apply State.finishTx_keeps
      | fail_if_no_progress (with_reducible apply State.Keeps.rest)
      | dsimp only
      | split

theorem State.advance_keeps {s0 s : State} {dt : Nat} (kept : s0.Keeps s) :
    s0.Keeps (State.advance s dt) := by
  unfold State.advance
  repeat' first
    | with_reducible intro _
    | with_reducible assumption
    | with_reducible exact State.Keeps.refl _
    | (extract_lets +onlyGivenNames x; clear_value (hx : x = _); first | refine State.Keeps.local (s0 := s0) hx ?_ fun k => ?_ | skip)
    | with_reducible apply State.Keeps.ite
    | with_reducible apply State.runTo_keeps
    | fail_if_no_progress (with_reducible apply State.Keeps.rest)
    | dsimp only
    | split

theorem State.setTrig_keeps {s0 s : State} {n : Nat} {d : TrigDyn} (kept : s0.Keeps s) :
    s0.Keeps (State.setTrig s n d) := by
  unfold State.setTrig
  repeat' first
    | with_reducible intro _
    | with_reducible assumption
    | with_reducible exact State.Keeps.refl _
    | (extract_lets +onlyGivenNames x; clear_value (hx : x = _); first | refine State.Keeps.local (s0 := s0) hx ?_ fun k => ?_ | skip)
    | with_reducible apply State.Keeps.ite
    | with_reducible apply State.withTime_keeps
    | fail_if_no_progress (with_reducible apply State.Keeps.rest)
    | dsimp only
    | split

theorem State.trigLocal_keeps {s0 s : State} {n : Nat} (kept : s0.Keeps s) :
    s0.Keeps (State.trigLocal s n) := by
  unfold State.trigLocal
  repeat' first
    | with_reducible intro _
    | with_reducible assumption
    | with_reducible exact State.Keeps.refl _
    | (extract_lets +onlyGivenNames x; clear_value (hx : x = _); first | refine State.Keeps.local (s0 := s0) hx ?_ fun k => ?_ | skip)
    | with_reducible apply State.Keeps.ite
    | with_reducible apply State.setTrig_keeps
    | with_reducible apply State.bump_keeps
    | with_reducible apply State.wr_keeps
    | fail_if_no_progress (with_reducible apply State.Keeps.rest)
    | dsimp only
    | split

theorem State.trigsLocal_keeps {s0 s : State} (kept : s0.Keeps s) :
    s0.Keeps (State.trigsLocal s) := by
  unfold State.trigsLocal
  repeat' first
    | with_reducible intro _
    | with_reducible assumption
    | with_reducible exact State.Keeps.refl _
    | (extract_lets +onlyGivenNames x; clear_value (hx : x = _); first | refine State.Keeps.local (s0 := s0) hx ?_ fun k => ?_ | skip)
    | with_reducible apply State.Keeps.ite
    | with_reducible apply State.trigLocal_keeps
    | with_reducible apply State.forEach_keeps
    | with_reducible apply State.wrB_keeps
    | fail_if_no_progress (with_reducible apply State.Keeps.rest)
    | dsimp only
    | split

theorem State.trigsRealign_keeps {s0 s : State} (kept : s0.Keeps s) :
    s0.Keeps (State.trigsRealign s) := by
  unfold State.trigsRealign
  repeat' first
    | with_reducible intro _
    | with_reducible assumption
    | with_reducible exact State.Keeps.refl _
    | (extract_lets +onlyGivenNames x; clear_value (hx : x = _); first | refine State.Keeps.local (s0 := s0) hx ?_ fun k => ?_ | skip)
    | with_reducible apply State.Keeps.ite
    | with_reducible apply State.setTrig_keeps
    | with_reducible apply State.forEach_keeps
    | with_reducible apply State.wrB_keeps
    | fail_if_no_progress (with_reducible apply State.Keeps.rest)
    | dsimp only
    | split

theorem State.setTimeState_keeps {s0 s : State} {new : Nat} (kept : s0.Keeps s) :
    s0.Keeps (State.setTimeState s new) := by
  unfold State.setTimeState
  repeat' first
    | with_reducible intro _
    | with_reducible assumption
    | with_reducible exact State.Keeps.refl _
    | (extract_lets +onlyGivenNames x; clear_value (hx : x = _); first | refine State.Keeps.local (s0 := s0) hx ?_ fun k => ?_ | skip)
    | with_reducible apply State.Keeps.ite
    | with_reducible apply State.trigsRealign_keeps
    | with_reducible apply State.trigsLocal_keeps
    | with_reducible apply State.event_keeps
    | with_reducible apply State.wr_keeps
    | fail_if_no_progress (with_reducible apply State.Keeps.rest)
    | dsimp only
    | split

theorem State.endSlew_keeps {s0 s : State} {cause : Nat} (kept : s0.Keeps s) :
    s0.Keeps (State.endSlew s cause) := by
  unfold State.endSlew
  repeat' first
    | with_reducible intro _
    | with_reducible assumption
    | with_reducible exact State.Keeps.refl _
    | (extract_lets +onlyGivenNames x; clear_value (hx : x = _); first | refine State.Keeps.local (s0 := s0) hx ?_ fun k => ?_ | skip)
    | with_reducible apply State.Keeps.ite
    | with_reducible apply State.withTime_keeps
    | with_reducible apply State.event_keeps
    | fail_if_no_progress (with_reducible apply State.Keeps.rest)
    | dsimp only
    | split

theorem State.setPulse_keeps {s0 s : State} {n : Nat} {d : PulseDyn} (kept : s0.Keeps s) :
    s0.Keeps (State.setPulse s n d) := by
  unfold State.setPulse
  repeat' first
    | with_reducible intro _
    | with_reducible assumption
    | with_reducible exact State.Keeps.refl _
    | (extract_lets +onlyGivenNames x; clear_value (hx : x = _); first | refine State.Keeps.local (s0 := s0) hx ?_ fun k => ?_ | skip)
    | with_reducible apply State.Keeps.ite
    | with_reducible apply State.withTime_keeps
    | fail_if_no_progress (with_reducible apply State.Keeps.rest)
    | dsimp only
    | split

theorem State.pulseFire_keeps {s0 s : State} {n : Nat} (kept : s0.Keeps s) :
    s0.Keeps (State.pulseFire s n) := by
  unfold State.pulseFire
  repeat' first
    | with_reducible intro _
    | with_reducible assumption
    | with_reducible exact State.Keeps.refl _
    | (extract_lets +onlyGivenNames x; clear_value (hx : x = _); first | refine State.Keeps.local (s0 := s0) hx ?_ fun k => ?_ | skip)
    | with_reducible apply State.Keeps.ite
    | with_reducible apply State.setPulse_keeps
    | with_reducible apply State.emit_keeps
    | with_reducible apply State.wrB_keeps
    | fail_if_no_progress (with_reducible apply State.Keeps.rest)
    | dsimp only
    | split

theorem State.pulsesStep_keeps {s0 s : State} (kept : s0.Keeps s) :
    s0.Keeps (State.pulsesStep s) := by
  unfold State.pulsesStep
  repeat' first
    | with_reducible intro _
    | with_reducible assumption
    | with_reducible exact State.Keeps.refl _
    | (extract_lets +onlyGivenNames x; clear_value (hx : x = _); first | refine State.Keeps.local (s0 := s0) hx ?_ fun k => ?_ | skip)
    | with_reducible apply State.Keeps.ite
    | with_reducible apply State.pulseFire_keeps
    | with_reducible apply State.setPulse_keeps
    | with_reducible apply State.forEach_keeps
    | with_reducible apply State.event_keeps
    | with_reducible apply State.wr_keeps
    | fail_if_no_progress (with_reducible apply State.Keeps.rest)
    | dsimp only
    | split

theorem State.gatesStep_keeps {s0 s : State} (kept : s0.Keeps s) :
    s0.Keeps (State.gatesStep s) := by
  unfold State.gatesStep
  repeat' first
    | with_reducible intro _
    | with_reducible assumption
    | with_reducible exact State.Keeps.refl _
    | (extract_lets +onlyGivenNames x; clear_value (hx : x = _); first | refine State.Keeps.local (s0 := s0) hx ?_ fun k => ?_ | skip)
    | with_reducible apply State.Keeps.ite
    | with_reducible apply State.gateTakeOver_keeps
    | with_reducible apply State.forEach_keeps
    | fail_if_no_progress (with_reducible apply State.Keeps.rest)
    | dsimp only
    | split

theorem State.newSecond_keeps {s0 s : State} {next : Bool} (kept : s0.Keeps s) :
    s0.Keeps (State.newSecond s next) := by
  unfold State.newSecond
  repeat' first
    | with_reducible intro _
    | with_reducible assumption
    | with_reducible exact State.Keeps.refl _
    | (extract_lets +onlyGivenNames x; clear_value (hx : x = _); first | refine State.Keeps.local (s0 := s0) hx ?_ fun k => ?_ | (have g := fun u => State.regs (x u); clear g; subst hx) | (have g := fun u v => State.regs (x u v); clear g; subst hx) | (have g := fun u v w => State.regs (x u v w); clear g; subst hx) | (have g := fun u v w y => State.regs (x u v w y); clear g; subst hx) | skip)
    | with_reducible apply State.Keeps.ite
    | fail_if_no_progress (with_reducible apply State.Keeps.rest)
    | dsimp only
    | split

theorem State.secondStart_keeps {s0 s : State} (kept : s0.Keeps s) :
    s0.Keeps (State.secondStart s) := by
  unfold State.secondStart
  repeat' first
    | with_reducible intro _
    | with_reducible assumption
    | with_reducible exact State.Keeps.refl _
    | (extract_lets +onlyGivenNames x; clear_value (hx : x = _); first | refine State.Keeps.local (s0 := s0) hx ?_ fun k => ?_ | skip)
    | with_reducible apply State.Keeps.ite
    | with_reducible apply State.newSecond_keeps
    | fail_if_no_progress (with_reducible apply State.Keeps.rest)
    | dsimp only
    | split

theorem State.stepTime_keeps {s0 s : State} {o : Int} (kept : s0.Keeps s) :
    s0.Keeps (State.stepTime s o) := by
  unfold State.stepTime
  repeat' first
    | with_reducible intro _
    | with_reducible assumption
    | with_reducible exact State.Keeps.refl _
    | (extract_lets +onlyGivenNames x; clear_value (hx : x = _); first | refine State.Keeps.local (s0 := s0) hx ?_ fun k => ?_ | skip)
    | with_reducible apply State.Keeps.ite
    | with_reducible apply State.newSecond_keeps
    | with_reducible apply State.gatesStep_keeps
    | with_reducible apply State.pulsesStep_keeps
    | with_reducible apply State.withTime_keeps
    | fail_if_no_progress (with_reducible apply State.Keeps.rest)
    | dsimp only
    | split

theorem State.applyTime_keeps {s0 s : State} {o : Int} {r : Int} (kept : s0.Keeps s) :
    s0.Keeps (State.applyTime s o r) := by
  unfold State.applyTime
  repeat' first
    | with_reducible intro _
    | with_reducible assumption
    | with_reducible exact State.Keeps.refl _
    | (extract_lets +onlyGivenNames x; clear_value (hx : x = _); first | refine State.Keeps.local (s0 := s0) hx ?_ fun k => ?_ | skip)
    | with_reducible apply State.Keeps.ite
    | with_reducible apply State.decide_keeps
    | with_reducible apply State.stepTime_keeps
    | with_reducible apply State.endSlew_keeps
    | with_reducible apply State.setTimeState_keeps
    | with_reducible apply State.withTime_keeps
    | with_reducible apply State.event_keeps
    | with_reducible apply State.bump_keeps
    | fail_if_no_progress (with_reducible apply State.Keeps.rest)
    | dsimp only
    | split

theorem State.declareLoss_keeps {s0 s : State} (kept : s0.Keeps s) :
    s0.Keeps (State.declareLoss s) := by
  unfold State.declareLoss
  repeat' first
    | with_reducible intro _
    | with_reducible assumption
    | with_reducible exact State.Keeps.refl _
    | (extract_lets +onlyGivenNames x; clear_value (hx : x = _); first | refine State.Keeps.local (s0 := s0) hx ?_ fun k => ?_ | skip)
    | with_reducible apply State.Keeps.ite
    | with_reducible apply State.endSlew_keeps
    | with_reducible apply State.setTimeState_keeps
    | fail_if_no_progress (with_reducible apply State.Keeps.rest)
    | dsimp only
    | split

theorem State.enterHoldover_keeps {s0 s : State} (kept : s0.Keeps s) :
    s0.Keeps (State.enterHoldover s) := by
  unfold State.enterHoldover
  repeat' first
    | with_reducible intro _
    | with_reducible assumption
    | with_reducible exact State.Keeps.refl _
    | (extract_lets +onlyGivenNames x; clear_value (hx : x = _); first | refine State.Keeps.local (s0 := s0) hx ?_ fun k => ?_ | skip)
    | with_reducible apply State.Keeps.ite
    | with_reducible apply State.endSlew_keeps
    | with_reducible apply State.setTimeState_keeps
    | with_reducible apply State.withTime_keeps
    | fail_if_no_progress (with_reducible apply State.Keeps.rest)
    | dsimp only
    | split

theorem State.slewDone_keeps {s0 s : State} (kept : s0.Keeps s) :
    s0.Keeps (State.slewDone s) := by
  unfold State.slewDone
  repeat' first
    | with_reducible intro _
    | with_reducible assumption
    | with_reducible exact State.Keeps.refl _
    | (extract_lets +onlyGivenNames x; clear_value (hx : x = _); first | refine State.Keeps.local (s0 := s0) hx ?_ fun k => ?_ | skip)
    | with_reducible apply State.Keeps.ite
    | with_reducible apply State.endSlew_keeps
    | with_reducible apply State.setTimeState_keeps
    | fail_if_no_progress (with_reducible apply State.Keeps.rest)
    | dsimp only
    | split

theorem State.timeUnitReturn_keeps {s0 s : State} (kept : s0.Keeps s) :
    s0.Keeps (State.timeUnitReturn s) := by
  unfold State.timeUnitReturn
  repeat' first
    | with_reducible intro _
    | with_reducible assumption
    | with_reducible exact State.Keeps.refl _
    | (extract_lets +onlyGivenNames x; clear_value (hx : x = _); first | refine State.Keeps.local (s0 := s0) hx ?_ fun k => ?_ | skip)
    | with_reducible apply State.Keeps.ite
    | with_reducible apply State.gatesStep_keeps
    | with_reducible apply State.pulsesStep_keeps
    | with_reducible apply State.setTimeState_keeps
    | with_reducible apply State.withTime_keeps
    | fail_if_no_progress (with_reducible apply State.Keeps.rest)
    | dsimp only
    | split

theorem State.trigFire_keeps {s0 s : State} {n : Nat} (kept : s0.Keeps s) :
    s0.Keeps (State.trigFire s n) := by
  unfold State.trigFire
  repeat' first
    | with_reducible intro _
    | with_reducible assumption
    | with_reducible exact State.Keeps.refl _
    | (extract_lets +onlyGivenNames x; clear_value (hx : x = _); first | refine State.Keeps.local (s0 := s0) hx ?_ fun k => ?_ | skip)
    | with_reducible apply State.Keeps.ite
    | with_reducible apply State.setTrig_keeps
    | with_reducible apply State.emit_keeps
    | fail_if_no_progress (with_reducible apply State.Keeps.rest)
    | dsimp only
    | split

theorem State.trigEdge_keeps {s0 s : State} {n : Nat} (kept : s0.Keeps s) :
    s0.Keeps (State.trigEdge s n) := by
  unfold State.trigEdge
  repeat' first
    | with_reducible intro _
    | with_reducible assumption
    | with_reducible exact State.Keeps.refl _
    | (extract_lets +onlyGivenNames x; clear_value (hx : x = _); first | refine State.Keeps.local (s0 := s0) hx ?_ fun k => ?_ | skip)
    | with_reducible apply State.Keeps.ite
    | with_reducible apply State.trigFire_keeps
    | with_reducible apply State.setTrig_keeps
    | with_reducible apply State.event_keeps
    | with_reducible apply State.wr_keeps
    | fail_if_no_progress (with_reducible apply State.Keeps.rest)
    | dsimp only
    | split

theorem State.trigEnable_keeps {s0 s : State} {n : Nat} (kept : s0.Keeps s) :
    s0.Keeps (State.trigEnable s n) := by
  unfold State.trigEnable
  repeat' first
    | with_reducible intro _
    | with_reducible assumption
    | with_reducible exact State.Keeps.refl _
    | (extract_lets +onlyGivenNames x; clear_value (hx : x = _); first | refine State.Keeps.local (s0 := s0) hx ?_ fun k => ?_ | skip)
    | with_reducible apply State.Keeps.ite
    | with_reducible apply State.trigLocal_keeps
    | with_reducible apply State.setTrig_keeps
    | with_reducible apply State.wr_keeps
    | fail_if_no_progress (with_reducible apply State.Keeps.rest)
    | dsimp only
    | split

theorem State.calWrite_keeps {s0 s : State} (kept : s0.Keeps s) :
    s0.Keeps (State.calWrite s) := by
  unfold State.calWrite
  repeat' first
    | with_reducible intro _
    | with_reducible assumption
    | with_reducible exact State.Keeps.refl _
    | (extract_lets +onlyGivenNames x; clear_value (hx : x = _); first | refine State.Keeps.local (s0 := s0) hx ?_ fun k => ?_ | skip)
    | with_reducible apply State.Keeps.ite
    | with_reducible apply State.withTime_keeps
    | with_reducible apply State.wrB_keeps
    | fail_if_no_progress (with_reducible apply State.Keeps.rest)
    | dsimp only
    | split

theorem State.lifeCommit_keeps {s0 s : State} (kept : s0.Keeps s) :
    s0.Keeps (State.lifeCommit s) := by
  unfold State.lifeCommit
  repeat' first
    | with_reducible intro _
    | with_reducible assumption
    | with_reducible exact State.Keeps.refl _
    | (extract_lets +onlyGivenNames x; clear_value (hx : x = _); first | refine State.Keeps.local (s0 := s0) hx ?_ fun k => ?_ | skip)
    | with_reducible apply State.Keeps.ite
    | with_reducible apply State.withTime_keeps
    | with_reducible apply State.bump_keeps
    | fail_if_no_progress (with_reducible apply State.Keeps.rest)
    | dsimp only
    | split

theorem State.measureTemp_keeps {s0 s : State} {temp : Int} (kept : s0.Keeps s) :
    s0.Keeps (State.measureTemp s temp) := by
  unfold State.measureTemp
  repeat' first
    | with_reducible intro _
    | with_reducible assumption
    | with_reducible exact State.Keeps.refl _
    | (extract_lets +onlyGivenNames x; clear_value (hx : x = _); first | refine State.Keeps.local (s0 := s0) hx ?_ fun k => ?_ | skip)
    | with_reducible apply State.Keeps.ite
    | with_reducible apply State.decide_keeps
    | with_reducible apply State.withTime_keeps
    | fail_if_no_progress (with_reducible apply State.Keeps.rest)
    | dsimp only
    | split

theorem State.calLost_keeps {s0 s : State} (kept : s0.Keeps s) :
    s0.Keeps (State.calLost s) := by
  unfold State.calLost
  repeat' first
    | with_reducible intro _
    | with_reducible assumption
    | with_reducible exact State.Keeps.refl _
    | (extract_lets +onlyGivenNames x; clear_value (hx : x = _); first | refine State.Keeps.local (s0 := s0) hx ?_ fun k => ?_ | skip)
    | with_reducible apply State.Keeps.ite
    | with_reducible apply State.withTime_keeps
    | with_reducible apply State.event_keeps
    | with_reducible apply State.bump_keeps
    | fail_if_no_progress (with_reducible apply State.Keeps.rest)
    | dsimp only
    | split

end Sys2Proof.Machine
end

