-- ==== Sys2Proof/Laws/KeepsKeys.lean ====
section
/-! SUPPORT. What the definitions of Machine/Keys keep (`State.Keeps`). -/

set_option linter.unusedTactic false
set_option linter.unreachableTactic false

namespace Sys2Proof.Machine

theorem State.withKey_keeps {s0 s : State} {f : KeyState → KeyState} (kept : s0.Keeps s) :
    s0.Keeps (State.withKey s f) := by
  unfold State.withKey
  repeat' first
    | with_reducible intro _
    | with_reducible assumption
    | with_reducible exact State.Keeps.refl _
    | (extract_lets +onlyGivenNames x; clear_value (hx : x = _); first | refine State.Keeps.local (s0 := s0) hx ?_ fun k => ?_ | skip)
    | with_reducible apply State.Keeps.ite
    | fail_if_no_progress (with_reducible apply State.Keeps.rest)
    | dsimp only
    | split

theorem State.countCommit_keeps {s0 s : State} {n : Nat} {gen : Nat} (kept : s0.Keeps s) :
    s0.Keeps (State.countCommit s n gen) := by
  unfold State.countCommit
  repeat' first
    | with_reducible intro _
    | with_reducible assumption
    | with_reducible exact State.Keeps.refl _
    | (extract_lets +onlyGivenNames x; clear_value (hx : x = _); first | refine State.Keeps.local (s0 := s0) hx ?_ fun k => ?_ | skip)
    | with_reducible apply State.Keeps.ite
    | with_reducible apply State.withTime_keeps
    | with_reducible apply State.bump_keeps
    | fail_if_no_progress (with_reducible apply State.Keeps.rest)
    | dsimp only
    | split

theorem State.writePair_keeps {s0 s : State} {k : Nat} {slot : KeySlot} (kept : s0.Keeps s) :
    s0.Keeps (State.writePair s k slot) := by
  unfold State.writePair
  repeat' first
    | with_reducible intro _
    | with_reducible assumption
    | with_reducible exact State.Keeps.refl _
    | (extract_lets +onlyGivenNames x; clear_value (hx : x = _); first | refine State.Keeps.local (s0 := s0) hx ?_ fun k => ?_ | skip)
    | with_reducible apply State.Keeps.ite
    | with_reducible apply State.countCommit_keeps
    | with_reducible apply State.withKey_keeps
    | fail_if_no_progress (with_reducible apply State.Keeps.rest)
    | dsimp only
    | split

theorem State.revokeHandles_keeps {s0 s : State} {hs : List Nat} (kept : s0.Keeps s) :
    s0.Keeps (State.revokeHandles s hs) := by
  unfold State.revokeHandles
  repeat' first
    | with_reducible intro _
    | with_reducible assumption
    | with_reducible exact State.Keeps.refl _
    | (extract_lets +onlyGivenNames x; clear_value (hx : x = _); first | refine State.Keeps.local (s0 := s0) hx ?_ fun k => ?_ | skip)
    | with_reducible apply State.Keeps.ite
    | with_reducible apply State.writePair_keeps
    | with_reducible apply State.withKey_keeps
    | with_reducible apply State.forEach_keeps
    | fail_if_no_progress (with_reducible apply State.Keeps.rest)
    | dsimp only
    | split

theorem State.keyDefine_keeps {s0 s : State} {h : Nat} {parent : Nat} {kind : Nat} {wide : Bool} {label : List Byte} (kept : s0.Keeps s) :
    s0.Keeps (State.keyDefine s h parent kind wide label).2 := by
  unfold State.keyDefine
  repeat' first
    | with_reducible intro _
    | with_reducible assumption
    | with_reducible exact State.Keeps.refl _
    | (extract_lets +onlyGivenNames x; clear_value (hx : x = _); first | refine State.Keeps.local (s0 := s0) hx ?_ fun k => ?_ | skip)
    | with_reducible apply State.Keeps.ite
    | with_reducible apply State.writePair_keeps
    | with_reducible apply State.Keeps.ite_snd
    | fail_if_no_progress (with_reducible apply State.Keeps.rest)
    | dsimp only
    | split

theorem State.keyGenerate_keeps {s0 s : State} {h : Nat} {kind : Nat} {wide : Bool} (kept : s0.Keeps s) :
    s0.Keeps (State.keyGenerate s h kind wide).2 := by
  unfold State.keyGenerate
  repeat' first
    | with_reducible intro _
    | with_reducible assumption
    | with_reducible exact State.Keeps.refl _
    | (extract_lets +onlyGivenNames x; clear_value (hx : x = _); first | refine State.Keeps.local (s0 := s0) hx ?_ fun k => ?_ | skip)
    | with_reducible apply State.Keeps.ite
    | with_reducible apply State.writePair_keeps
    | with_reducible apply State.draw_keeps
    | with_reducible apply State.Keeps.ite_snd
    | fail_if_no_progress (with_reducible apply State.Keeps.rest)
    | dsimp only
    | refine State.Keeps.of_snd ‹_ = (_, _)› ?_
    | split

theorem State.keyImport_keeps {s0 s : State} {h : Nat} (kept : s0.Keeps s) :
    s0.Keeps (State.keyImport s h).2 := by
  unfold State.keyImport
  repeat' first
    | with_reducible intro _
    | with_reducible assumption
    | with_reducible exact State.Keeps.refl _
    | (extract_lets +onlyGivenNames x; clear_value (hx : x = _); first | refine State.Keeps.local (s0 := s0) hx ?_ fun k => ?_ | skip)
    | with_reducible apply State.Keeps.ite
    | with_reducible apply State.writePair_keeps
    | with_reducible apply State.event_keeps
    | with_reducible apply State.Keeps.ite_snd
    | fail_if_no_progress (with_reducible apply State.Keeps.rest)
    | dsimp only
    | split

theorem State.keyRotate_keeps {s0 s : State} {h : Nat} (kept : s0.Keeps s) :
    s0.Keeps (State.keyRotate s h).2 := by
  unfold State.keyRotate
  repeat' first
    | with_reducible intro _
    | with_reducible assumption
    | with_reducible exact State.Keeps.refl _
    | (extract_lets +onlyGivenNames x; clear_value (hx : x = _); first | refine State.Keeps.local (s0 := s0) hx ?_ fun k => ?_ | (have g := State.regs x.2; clear g; subst hx) | skip)
    | with_reducible apply State.Keeps.ite
    | with_reducible apply State.writePair_keeps
    | with_reducible apply State.draw_keeps
    | with_reducible apply State.Keeps.ite_snd
    | fail_if_no_progress (with_reducible apply State.Keeps.rest)
    | dsimp only
    | refine State.Keeps.of_snd ‹_ = (_, _)› ?_
    | split

theorem State.keyRevoke_keeps {s0 s : State} {h : Nat} (kept : s0.Keeps s) :
    s0.Keeps (State.keyRevoke s h).2 := by
  unfold State.keyRevoke
  repeat' first
    | with_reducible intro _
    | with_reducible assumption
    | with_reducible exact State.Keeps.refl _
    | (extract_lets +onlyGivenNames x; clear_value (hx : x = _); first | refine State.Keeps.local (s0 := s0) hx ?_ fun k => ?_ | skip)
    | with_reducible apply State.Keeps.ite
    | with_reducible apply State.revokeHandles_keeps
    | with_reducible apply State.Keeps.ite_snd
    | fail_if_no_progress (with_reducible apply State.Keeps.rest)
    | dsimp only
    | split

theorem State.keyDelete_keeps {s0 s : State} {h : Nat} (kept : s0.Keeps s) :
    s0.Keeps (State.keyDelete s h).2 := by
  unfold State.keyDelete
  repeat' first
    | with_reducible intro _
    | with_reducible assumption
    | with_reducible exact State.Keeps.refl _
    | (extract_lets +onlyGivenNames x; clear_value (hx : x = _); first | refine State.Keeps.local (s0 := s0) hx ?_ fun k => ?_ | skip)
    | with_reducible apply State.Keeps.ite
    | with_reducible apply State.writePair_keeps
    | with_reducible apply State.Keeps.ite_snd
    | fail_if_no_progress (with_reducible apply State.Keeps.rest)
    | dsimp only
    | split

theorem State.keyReseal_keeps {s0 s : State} {h : Nat} {measurement : List Byte} (kept : s0.Keeps s) :
    s0.Keeps (State.keyReseal s h measurement).2 := by
  unfold State.keyReseal
  repeat' first
    | with_reducible intro _
    | with_reducible assumption
    | with_reducible exact State.Keeps.refl _
    | (extract_lets +onlyGivenNames x; clear_value (hx : x = _); first | refine State.Keeps.local (s0 := s0) hx ?_ fun k => ?_ | skip)
    | with_reducible apply State.Keeps.ite
    | with_reducible apply State.countCommit_keeps
    | with_reducible apply State.withKey_keeps
    | with_reducible apply State.forEach_keeps
    | with_reducible apply State.wrB_keeps
    | with_reducible apply State.Keeps.ite_snd
    | fail_if_no_progress (with_reducible apply State.Keeps.rest)
    | dsimp only
    | split

theorem State.keyClose_keeps {s0 s : State} {h : Nat} (kept : s0.Keeps s) :
    s0.Keeps (State.keyClose s h).2 := by
  unfold State.keyClose
  repeat' first
    | with_reducible intro _
    | with_reducible assumption
    | with_reducible exact State.Keeps.refl _
    | (extract_lets +onlyGivenNames x; clear_value (hx : x = _); first | refine State.Keeps.local (s0 := s0) hx ?_ fun k => ?_ | skip)
    | with_reducible apply State.Keeps.ite
    | with_reducible apply State.countCommit_keeps
    | with_reducible apply State.withKey_keeps
    | with_reducible apply State.forEach_keeps
    | with_reducible apply State.wrB_keeps
    | with_reducible apply State.Keeps.ite_snd
    | fail_if_no_progress (with_reducible apply State.Keeps.rest)
    | dsimp only
    | split

theorem State.recoverLedger_keeps {s0 s : State} (kept : s0.Keeps s) :
    s0.Keeps (State.recoverLedger s) := by
  unfold State.recoverLedger
  repeat' first
    | with_reducible intro _
    | with_reducible assumption
    | with_reducible exact State.Keeps.refl _
    | (extract_lets +onlyGivenNames x; clear_value (hx : x = _); first | refine State.Keeps.local (s0 := s0) hx ?_ fun k => ?_ | skip)
    | with_reducible apply State.Keeps.ite
    | with_reducible apply State.writePair_keeps
    | with_reducible apply State.withKey_keeps
    | with_reducible apply State.forEach_keeps
    | with_reducible apply State.event_keeps
    | with_reducible apply State.wr_keeps
    | fail_if_no_progress (with_reducible apply State.Keeps.rest)
    | dsimp only
    | split

end Sys2Proof.Machine
end

