-- ==== Sys2Proof/Laws/KeepsCrypto.lean ====
section
/-! SUPPORT. What the definitions of Machine/Crypto keep (`State.Keeps`). -/

set_option linter.unusedTactic false
set_option linter.unreachableTactic false

namespace Sys2Proof.Machine

theorem State.withCrypto_keeps {s0 s : State} {f : CryptoState → CryptoState} (kept : s0.Keeps s) :
    s0.Keeps (State.withCrypto s f) := by
  unfold State.withCrypto
  repeat' first
    | with_reducible intro _
    | with_reducible assumption
    | with_reducible exact State.Keeps.refl _
    | (extract_lets +onlyGivenNames x; clear_value (hx : x = _); first | refine State.Keeps.local (s0 := s0) hx ?_ fun k => ?_ | skip)
    | with_reducible apply State.Keeps.ite
    | fail_if_no_progress (with_reducible apply State.Keeps.rest)
    | dsimp only
    | split

theorem State.setFlag_keeps {s0 s : State} {id : Nat} {b : Nat} {v : Bool} (kept : s0.Keeps s) :
    s0.Keeps (State.setFlag s id b v) := by
  unfold State.setFlag
  repeat' first
    | with_reducible intro _
    | with_reducible assumption
    | with_reducible exact State.Keeps.refl _
    | (extract_lets +onlyGivenNames x; clear_value (hx : x = _); first | refine State.Keeps.local (s0 := s0) hx ?_ fun k => ?_ | skip)
    | with_reducible apply State.Keeps.ite
    | with_reducible apply State.setWinB_keeps
    | with_reducible apply State.Keeps.id
    | fail_if_no_progress (with_reducible apply State.Keeps.rest)
    | dsimp only
    | split

theorem State.askKeys_keeps {s0 s : State} {id : Nat} (kept : s0.Keeps s) :
    s0.Keeps (State.askKeys s id) := by
  unfold State.askKeys
  repeat' first
    | with_reducible intro _
    | with_reducible assumption
    | with_reducible exact State.Keeps.refl _
    | (extract_lets +onlyGivenNames x; clear_value (hx : x = _); first | refine State.Keeps.local (s0 := s0) hx ?_ fun k => ?_ | skip)
    | with_reducible apply State.Keeps.ite
    | with_reducible apply State.withCrypto_keeps
    | with_reducible apply State.Keeps.id
    | fail_if_no_progress (with_reducible apply State.Keeps.rest)
    | dsimp only
    | split

theorem State.dropKeys_keeps {s0 s : State} {id : Nat} (kept : s0.Keeps s) :
    s0.Keeps (State.dropKeys s id) := by
  unfold State.dropKeys
  repeat' first
    | with_reducible intro _
    | with_reducible assumption
    | with_reducible exact State.Keeps.refl _
    | (extract_lets +onlyGivenNames x; clear_value (hx : x = _); first | refine State.Keeps.local (s0 := s0) hx ?_ fun k => ?_ | skip)
    | with_reducible apply State.Keeps.ite
    | with_reducible apply State.withCrypto_keeps
    | with_reducible apply State.Keeps.id
    | fail_if_no_progress (with_reducible apply State.Keeps.rest)
    | dsimp only
    | split

theorem State.rederive_keeps {s0 s : State} {h : Nat} (kept : s0.Keeps s) :
    s0.Keeps (State.rederive s h) := by
  unfold State.rederive
  repeat' first
    | with_reducible intro _
    | with_reducible assumption
    | with_reducible exact State.Keeps.refl _
    | (extract_lets +onlyGivenNames x; clear_value (hx : x = _); first | refine State.Keeps.local (s0 := s0) hx ?_ fun k => ?_ | skip)
    | with_reducible apply State.Keeps.ite
    | with_reducible apply State.askKeys_keeps
    | with_reducible apply State.forEach_keeps
    | with_reducible apply State.Keeps.id
    | fail_if_no_progress (with_reducible apply State.Keeps.rest)
    | dsimp only
    | split

theorem State.failEvent_keeps {s0 s : State} {cluster : Nat} {kind : Nat} {port : Nat} {rec_ : Nat} (kept : s0.Keeps s) :
    s0.Keeps (State.failEvent s cluster kind port rec_) := by
  unfold State.failEvent
  repeat' first
    | with_reducible intro _
    | with_reducible assumption
    | with_reducible exact State.Keeps.refl _
    | (extract_lets +onlyGivenNames x; clear_value (hx : x = _); first | refine State.Keeps.local (s0 := s0) hx ?_ fun k => ?_ | skip)
    | with_reducible apply State.Keeps.ite
    | with_reducible apply State.withCrypto_keeps
    | with_reducible apply State.event_keeps
    | with_reducible apply State.bump_keeps
    | fail_if_no_progress (with_reducible apply State.Keeps.rest)
    | dsimp only
    | split

theorem State.recFail_keeps {s0 s : State} {id : Nat} (kept : s0.Keeps s) :
    s0.Keeps (State.recFail s id) := by
  unfold State.recFail
  repeat' first
    | with_reducible intro _
    | with_reducible assumption
    | with_reducible exact State.Keeps.refl _
    | (extract_lets +onlyGivenNames x; clear_value (hx : x = _); first | refine State.Keeps.local (s0 := s0) hx ?_ fun k => ?_ | skip)
    | with_reducible apply State.Keeps.ite
    | with_reducible apply State.setFlag_keeps
    | with_reducible apply State.bumpWin_keeps
    | with_reducible apply State.bump_keeps
    | with_reducible apply State.Keeps.id
    | fail_if_no_progress (with_reducible apply State.Keeps.rest)
    | dsimp only
    | split

theorem State.recPass_keeps {s0 s : State} {id : Nat} (kept : s0.Keeps s) :
    s0.Keeps (State.recPass s id) := by
  unfold State.recPass
  repeat' first
    | with_reducible intro _
    | with_reducible assumption
    | with_reducible exact State.Keeps.refl _
    | (extract_lets +onlyGivenNames x; clear_value (hx : x = _); first | refine State.Keeps.local (s0 := s0) hx ?_ fun k => ?_ | skip)
    | with_reducible apply State.Keeps.ite
    | with_reducible apply State.bumpWin_keeps
    | with_reducible apply State.Keeps.id
    | fail_if_no_progress (with_reducible apply State.Keeps.rest)
    | dsimp only
    | split

theorem State.secCount_keeps {s0 s : State} {p : Nat} {k : Nat} (kept : s0.Keeps s) :
    s0.Keeps (State.secCount s p k) := by
  unfold State.secCount
  repeat' first
    | with_reducible intro _
    | with_reducible assumption
    | with_reducible exact State.Keeps.refl _
    | (extract_lets +onlyGivenNames x; clear_value (hx : x = _); first | refine State.Keeps.local (s0 := s0) hx ?_ fun k => ?_ | skip)
    | with_reducible apply State.Keeps.ite
    | with_reducible apply State.bumpWin_keeps
    | fail_if_no_progress (with_reducible apply State.Keeps.rest)
    | dsimp only
    | split

theorem State.tryStart_keeps {s0 s : State} {o : CryptoOp} (kept : s0.Keeps s) :
    s0.Keeps (State.tryStart s o) := by
  unfold State.tryStart
  repeat' first
    | with_reducible intro _
    | with_reducible assumption
    | with_reducible exact State.Keeps.refl _
    | (extract_lets +onlyGivenNames x; clear_value (hx : x = _); first | refine State.Keeps.local (s0 := s0) hx ?_ fun k => ?_ | skip)
    | with_reducible apply State.Keeps.ite
    | with_reducible apply State.withCrypto_keeps
    | with_reducible apply State.bump_keeps
    | fail_if_no_progress (with_reducible apply State.Keeps.rest)
    | dsimp only
    | split

theorem State.startOps_keeps {s0 s : State} (kept : s0.Keeps s) :
    s0.Keeps (State.startOps s) := by
  unfold State.startOps
  repeat' first
    | with_reducible intro _
    | with_reducible assumption
    | with_reducible exact State.Keeps.refl _
    | (extract_lets +onlyGivenNames x; clear_value (hx : x = _); first | refine State.Keeps.local (s0 := s0) hx ?_ fun k => ?_ | skip)
    | with_reducible apply State.Keeps.ite
    | with_reducible apply State.tryStart_keeps
    | with_reducible apply State.forEach_keeps
    | fail_if_no_progress (with_reducible apply State.Keeps.rest)
    | dsimp only
    | split

theorem State.dispatchOp_keeps {s0 s : State} {o : CryptoOp} (kept : s0.Keeps s) :
    s0.Keeps (State.dispatchOp s o) := by
  unfold State.dispatchOp
  repeat' first
    | with_reducible intro _
    | with_reducible assumption
    | with_reducible exact State.Keeps.refl _
    | (extract_lets +onlyGivenNames x; clear_value (hx : x = _); first | refine State.Keeps.local (s0 := s0) hx ?_ fun k => ?_ | skip)
    | with_reducible apply State.Keeps.ite
    | with_reducible apply State.startOps_keeps
    | with_reducible apply State.withCrypto_keeps
    | fail_if_no_progress (with_reducible apply State.Keeps.rest)
    | dsimp only
    | split

theorem State.dropOp_keeps {s0 s : State} {o : CryptoOp} (kept : s0.Keeps s) :
    s0.Keeps (State.dropOp s o) := by
  unfold State.dropOp
  repeat' first
    | with_reducible intro _
    | with_reducible assumption
    | with_reducible exact State.Keeps.refl _
    | (extract_lets +onlyGivenNames x; clear_value (hx : x = _); first | refine State.Keeps.local (s0 := s0) hx ?_ fun k => ?_ | skip)
    | with_reducible apply State.Keeps.ite
    | with_reducible apply State.withCrypto_keeps
    | fail_if_no_progress (with_reducible apply State.Keeps.rest)
    | dsimp only
    | split

theorem State.resumeOp_keeps {s0 s : State} {k : Nat} {e : Nat} (kept : s0.Keeps s) :
    s0.Keeps (State.resumeOp s k e) := by
  unfold State.resumeOp
  repeat' first
    | with_reducible intro _
    | with_reducible assumption
    | with_reducible exact State.Keeps.refl _
    | (extract_lets +onlyGivenNames x; clear_value (hx : x = _); first | refine State.Keeps.local (s0 := s0) hx ?_ fun k => ?_ | skip)
    | with_reducible apply State.Keeps.ite
    | with_reducible apply State.withCrypto_keeps
    | fail_if_no_progress (with_reducible apply State.Keeps.rest)
    | dsimp only
    | split

theorem State.commitFresh_keeps {s0 s : State} {r : Nat} {v : Nat} (kept : s0.Keeps s) :
    s0.Keeps (State.commitFresh s r v) := by
  unfold State.commitFresh
  repeat' first
    | with_reducible intro _
    | with_reducible assumption
    | with_reducible exact State.Keeps.refl _
    | (extract_lets +onlyGivenNames x; clear_value (hx : x = _); first | refine State.Keeps.local (s0 := s0) hx ?_ fun k => ?_ | skip)
    | with_reducible apply State.Keeps.ite
    | with_reducible apply State.countCommit_keeps
    | with_reducible apply State.withKey_keeps
    | fail_if_no_progress (with_reducible apply State.Keeps.rest)
    | dsimp only
    | split

theorem State.modItem_keeps {s0 s : State} {p : Nat} {id : Nat} {g : QItem → QItem} (kept : s0.Keeps s) :
    s0.Keeps (State.modItem s p id g) := by
  unfold State.modItem
  repeat' first
    | with_reducible intro _
    | with_reducible assumption
    | with_reducible exact State.Keeps.refl _
    | (extract_lets +onlyGivenNames x; clear_value (hx : x = _); first | refine State.Keeps.local (s0 := s0) hx ?_ fun k => ?_ | skip)
    | with_reducible apply State.Keeps.ite
    | with_reducible apply State.modPtm_keeps
    | with_reducible apply State.Keeps.id
    | fail_if_no_progress (with_reducible apply State.Keeps.rest)
    | dsimp only
    | split

theorem State.discardItem_keeps {s0 s : State} {p : Nat} {id : Nat} (kept : s0.Keeps s) :
    s0.Keeps (State.discardItem s p id) := by
  unfold State.discardItem
  repeat' first
    | with_reducible intro _
    | with_reducible assumption
    | with_reducible exact State.Keeps.refl _
    | (extract_lets +onlyGivenNames x; clear_value (hx : x = _); first | refine State.Keeps.local (s0 := s0) hx ?_ fun k => ?_ | skip)
    | with_reducible apply State.Keeps.ite
    | with_reducible apply State.removeItem_keeps
    | with_reducible apply State.dropRef_keeps
    | with_reducible apply State.forEach_keeps
    | with_reducible apply State.Keeps.id
    | fail_if_no_progress (with_reducible apply State.Keeps.rest)
    | dsimp only
    | split

theorem State.assignPn_keeps {s0 s : State} {p : Nat} {r : Nat} (kept : s0.Keeps s) :
    s0.Keeps (State.assignPn s p r).2 := by
  unfold State.assignPn
  repeat' first
    | with_reducible intro _
    | with_reducible assumption
    | with_reducible exact State.Keeps.refl _
    | (extract_lets +onlyGivenNames x; clear_value (hx : x = _); first | refine State.Keeps.local (s0 := s0) hx ?_ fun k => ?_ | skip)
    | with_reducible apply State.Keeps.ite
    | with_reducible apply State.setFlag_keeps
    | with_reducible apply State.event_keeps
    | with_reducible apply State.setWinLe_keeps
    | with_reducible apply State.Keeps.ite_snd
    | fail_if_no_progress (with_reducible apply State.Keeps.rest)
    | dsimp only
    | split

theorem State.handMacsec_keeps {s0 s : State} {p : Nat} {id : Nat} {f : Frame} (kept : s0.Keeps s) :
    s0.Keeps (State.handMacsec s p id f) := by
  unfold State.handMacsec
  repeat' first
    | with_reducible intro _
    | with_reducible assumption
    | with_reducible exact State.Keeps.refl _
    | (extract_lets +onlyGivenNames x; clear_value (hx : x = _); first | refine State.Keeps.local (s0 := s0) hx ?_ fun k => ?_ | (have g := State.regs x.2; clear g; subst hx) | skip)
    | with_reducible apply State.Keeps.ite
    | with_reducible apply State.assignPn_keeps
    | with_reducible apply State.discardItem_keeps
    | with_reducible apply State.modItem_keeps
    | with_reducible apply State.dispatchOp_keeps
    | with_reducible apply State.secCount_keeps
    | with_reducible apply State.withCrypto_keeps
    | with_reducible apply State.event_keeps
    | with_reducible apply State.Keeps.id
    | fail_if_no_progress (with_reducible apply State.Keeps.rest)
    | dsimp only
    | refine State.Keeps.of_snd ‹_ = (_, _)› ?_
    | split

theorem State.handAuth_keeps {s0 s : State} {p : Nat} {id : Nat} {r : Nat} {f : Frame} (kept : s0.Keeps s) :
    s0.Keeps (State.handAuth s p id r f) := by
  unfold State.handAuth
  repeat' first
    | with_reducible intro _
    | with_reducible assumption
    | with_reducible exact State.Keeps.refl _
    | (extract_lets +onlyGivenNames x; clear_value (hx : x = _); first | refine State.Keeps.local (s0 := s0) hx ?_ fun k => ?_ | skip)
    | with_reducible apply State.Keeps.ite
    | with_reducible apply State.discardItem_keeps
    | with_reducible apply State.modItem_keeps
    | with_reducible apply State.commitFresh_keeps
    | with_reducible apply State.dispatchOp_keeps
    | with_reducible apply State.recFail_keeps
    | with_reducible apply State.setWinLe_keeps
    | with_reducible apply State.Keeps.id
    | fail_if_no_progress (with_reducible apply State.Keeps.rest)
    | dsimp only
    | split

theorem State.handCansec_keeps {s0 s : State} {p : Nat} {id : Nat} {f : Frame} (kept : s0.Keeps s) :
    s0.Keeps (State.handCansec s p id f) := by
  unfold State.handCansec
  repeat' first
    | with_reducible intro _
    | with_reducible assumption
    | with_reducible exact State.Keeps.refl _
    | (extract_lets +onlyGivenNames x; clear_value (hx : x = _); first | refine State.Keeps.local (s0 := s0) hx ?_ fun k => ?_ | skip)
    | with_reducible apply State.Keeps.ite
    | with_reducible apply State.discardItem_keeps
    | with_reducible apply State.modItem_keeps
    | with_reducible apply State.dispatchOp_keeps
    | with_reducible apply State.recFail_keeps
    | with_reducible apply State.setWinLe_keeps
    | with_reducible apply State.Keeps.id
    | fail_if_no_progress (with_reducible apply State.Keeps.rest)
    | dsimp only
    | split

theorem State.handOver_keeps {s0 s : State} {p : Nat} (kept : s0.Keeps s) :
    s0.Keeps (State.handOver s p) := by
  unfold State.handOver
  repeat' first
    | with_reducible intro _
    | with_reducible assumption
    | with_reducible exact State.Keeps.refl _
    | (extract_lets +onlyGivenNames x; clear_value (hx : x = _); first | refine State.Keeps.local (s0 := s0) hx ?_ fun k => ?_ | skip)
    | with_reducible apply State.Keeps.ite
    | with_reducible apply State.handCansec_keeps
    | with_reducible apply State.handAuth_keeps
    | with_reducible apply State.handMacsec_keeps
    | with_reducible apply State.removeItem_keeps
    | with_reducible apply State.refuseCopy_keeps
    | with_reducible apply State.forEach_keeps
    | fail_if_no_progress (with_reducible apply State.Keeps.rest)
    | dsimp only
    | split

theorem State.handOvers_keeps {s0 s : State} (kept : s0.Keeps s) :
    s0.Keeps (State.handOvers s) := by
  unfold State.handOvers
  repeat' first
    | with_reducible intro _
    | with_reducible assumption
    | with_reducible exact State.Keeps.refl _
    | (extract_lets +onlyGivenNames x; clear_value (hx : x = _); first | refine State.Keeps.local (s0 := s0) hx ?_ fun k => ?_ | skip)
    | with_reducible apply State.Keeps.ite
    | with_reducible apply State.handOver_keeps
    | with_reducible apply State.forEach_keeps
    | fail_if_no_progress (with_reducible apply State.Keeps.rest)
    | dsimp only
    | split

theorem State.abortOp_keeps {s0 s : State} {o : CryptoOp} (kept : s0.Keeps s) :
    s0.Keeps (State.abortOp s o) := by
  unfold State.abortOp
  repeat' first
    | with_reducible intro _
    | with_reducible assumption
    | with_reducible exact State.Keeps.refl _
    | (extract_lets +onlyGivenNames x; clear_value (hx : x = _); first | refine State.Keeps.local (s0 := s0) hx ?_ fun k => ?_ | skip)
    | with_reducible apply State.Keeps.ite
    | with_reducible apply State.discardItem_keeps
    | with_reducible apply State.dropOp_keeps
    | with_reducible apply State.secCount_keeps
    | with_reducible apply State.recFail_keeps
    | with_reducible apply State.eraseFrame_keeps
    | fail_if_no_progress (with_reducible apply State.Keeps.rest)
    | dsimp only
    | split

theorem State.revokeRecords_keeps {s0 s : State} {h : Nat} (kept : s0.Keeps s) :
    s0.Keeps (State.revokeRecords s h) := by
  unfold State.revokeRecords
  repeat' first
    | with_reducible intro _
    | with_reducible assumption
    | with_reducible exact State.Keeps.refl _
    | (extract_lets +onlyGivenNames x; clear_value (hx : x = _); first | refine State.Keeps.local (s0 := s0) hx ?_ fun k => ?_ | skip)
    | with_reducible apply State.Keeps.ite
    | with_reducible apply State.dropKeys_keeps
    | with_reducible apply State.setFlag_keeps
    | with_reducible apply State.forEach_keeps
    | with_reducible apply State.event_keeps
    | with_reducible apply State.bump_keeps
    | with_reducible apply State.Keeps.id
    | fail_if_no_progress (with_reducible apply State.Keeps.rest)
    | dsimp only
    | split

end Sys2Proof.Machine
end

