-- ==== Sys2Proof/Laws/KeepsCan.lean ====
section
/-! SUPPORT. What the definitions of Machine/Can keep (`State.Keeps`). -/

set_option linter.unusedTactic false
set_option linter.unreachableTactic false

namespace Sys2Proof.Machine

theorem State.modCh_keeps {s0 s : State} {c : Nat} {f : ChanDyn → ChanDyn} (kept : s0.Keeps s) :
    s0.Keeps (State.modCh s c f) := by
  unfold State.modCh
  repeat' first
    | with_reducible intro _
    | with_reducible assumption
    | with_reducible exact State.Keeps.refl _
    | (extract_lets +onlyGivenNames x; clear_value (hx : x = _); first | refine State.Keeps.local (s0 := s0) hx ?_ fun k => ?_ | skip)
    | with_reducible apply State.Keeps.ite
    | fail_if_no_progress (with_reducible apply State.Keeps.rest)
    | dsimp only
    | split

theorem State.chCount_keeps {s0 s : State} {c : Nat} {sub : Nat} {n : Nat} (kept : s0.Keeps s) :
    s0.Keeps (State.chCount s c sub n) := by
  unfold State.chCount
  repeat' first
    | with_reducible intro _
    | with_reducible assumption
    | with_reducible exact State.Keeps.refl _
    | (extract_lets +onlyGivenNames x; clear_value (hx : x = _); first | refine State.Keeps.local (s0 := s0) hx ?_ fun k => ?_ | skip)
    | with_reducible apply State.Keeps.ite
    | with_reducible apply State.bump64_keeps
    | fail_if_no_progress (with_reducible apply State.Keeps.rest)
    | dsimp only
    | split

theorem State.dropHead_keeps {s0 s : State} {c : Nat} {reason : Option Nat} (kept : s0.Keeps s) :
    s0.Keeps (State.dropHead s c reason) := by
  unfold State.dropHead
  repeat' first
    | with_reducible intro _
    | with_reducible assumption
    | with_reducible exact State.Keeps.refl _
    | (extract_lets +onlyGivenNames x; clear_value (hx : x = _); first | refine State.Keeps.local (s0 := s0) hx ?_ fun k => ?_ | skip)
    | with_reducible apply State.Keeps.ite
    | with_reducible apply State.modCh_keeps
    | with_reducible apply State.refuseCopy_keeps
    | with_reducible apply State.dropRef_keeps
    | fail_if_no_progress (with_reducible apply State.Keeps.rest)
    | dsimp only
    | split

theorem State.canRelease_keeps {s0 s : State} {c : Nat} {x1 : Nat} (kept : s0.Keeps s) :
    s0.Keeps (State.canRelease s c x1) := by
  induction x1 generalizing s c with
  | zero =>
    unfold State.canRelease
    repeat' first
      | with_reducible intro _
      | with_reducible assumption
      | with_reducible exact State.Keeps.refl _
      | (extract_lets +onlyGivenNames x; clear_value (hx : x = _); first | refine State.Keeps.local (s0 := s0) hx ?_ fun k => ?_ | (have g := State.regs x.2; clear g; subst hx) | skip)
      | with_reducible apply State.Keeps.ite
      | with_reducible apply State.dropHead_keeps
      | with_reducible apply State.chCount_keeps
      | with_reducible apply State.modCh_keeps
      | with_reducible apply State.startCheck_keeps
      | with_reducible apply State.popHead_keeps
      | with_reducible apply State.selectQueue_keeps
      | with_reducible apply State.takeWaiting_keeps
      | fail_if_no_progress (with_reducible apply State.Keeps.rest)
      | dsimp only
      | refine State.Keeps.of_snd ‹_ = (_, _)› ?_
      | split
  | succ k ih =>
    unfold State.canRelease
    repeat' first
      | with_reducible intro _
      | with_reducible assumption
      | with_reducible apply ih
      | with_reducible exact State.Keeps.refl _
      | (extract_lets +onlyGivenNames x; clear_value (hx : x = _); first | refine State.Keeps.local (s0 := s0) hx ?_ fun k => ?_ | (have g := State.regs x.2; clear g; subst hx) | skip)
      | with_reducible apply State.Keeps.ite
      | with_reducible apply State.dropHead_keeps
      | with_reducible apply State.chCount_keeps
      | with_reducible apply State.modCh_keeps
      | with_reducible apply State.startCheck_keeps
      | with_reducible apply State.popHead_keeps
      | with_reducible apply State.selectQueue_keeps
      | with_reducible apply State.takeWaiting_keeps
      | fail_if_no_progress (with_reducible apply State.Keeps.rest)
      | dsimp only
      | refine State.Keeps.of_snd ‹_ = (_, _)› ?_
      | split

theorem State.countHeld_keeps {s0 s : State} {c : Nat} {o : CanOffer} (kept : s0.Keeps s) :
    s0.Keeps (State.countHeld s c o) := by
  unfold State.countHeld
  repeat' first
    | with_reducible intro _
    | with_reducible assumption
    | with_reducible exact State.Keeps.refl _
    | (extract_lets +onlyGivenNames x; clear_value (hx : x = _); first | refine State.Keeps.local (s0 := s0) hx ?_ fun k => ?_ | skip)
    | with_reducible apply State.Keeps.ite
    | with_reducible apply State.chCount_keeps
    | with_reducible apply State.modCh_keeps
    | fail_if_no_progress (with_reducible apply State.Keeps.rest)
    | dsimp only
    | split

theorem State.dropUnsendable_keeps {s0 s : State} {c : Nat} (kept : s0.Keeps s) :
    s0.Keeps (State.dropUnsendable s c) := by
  unfold State.dropUnsendable
  repeat' first
    | with_reducible intro _
    | with_reducible assumption
    | with_reducible exact State.Keeps.refl _
    | (extract_lets +onlyGivenNames x; clear_value (hx : x = _); first | refine State.Keeps.local (s0 := s0) hx ?_ fun k => ?_ | skip)
    | with_reducible apply State.Keeps.ite
    | with_reducible apply State.chCount_keeps
    | with_reducible apply State.forEach_keeps
    | with_reducible apply State.wr_keeps
    | fail_if_no_progress (with_reducible apply State.Keeps.rest)
    | dsimp only
    | split

theorem State.offerExclusive_keeps {s0 s : State} {c : Nat} (kept : s0.Keeps s) :
    s0.Keeps (State.offerExclusive s c) := by
  unfold State.offerExclusive
  repeat' first
    | with_reducible intro _
    | with_reducible assumption
    | with_reducible exact State.Keeps.refl _
    | (extract_lets +onlyGivenNames x; clear_value (hx : x = _); first | refine State.Keeps.local (s0 := s0) hx ?_ fun k => ?_ | skip)
    | with_reducible apply State.Keeps.ite
    | with_reducible apply State.countHeld_keeps
    | with_reducible apply State.chCount_keeps
    | with_reducible apply State.modCh_keeps
    | fail_if_no_progress (with_reducible apply State.Keeps.rest)
    | dsimp only
    | split

theorem State.offerChosen_keeps {s0 s : State} {c : Nat} {o : Option CanOffer} (kept : s0.Keeps s) :
    s0.Keeps (State.offerChosen s c o) := by
  unfold State.offerChosen
  repeat' first
    | with_reducible intro _
    | with_reducible assumption
    | with_reducible exact State.Keeps.refl _
    | (extract_lets +onlyGivenNames x; clear_value (hx : x = _); first | refine State.Keeps.local (s0 := s0) hx ?_ fun k => ?_ | skip)
    | with_reducible apply State.Keeps.ite
    | with_reducible apply State.modCh_keeps
    | with_reducible apply State.probeOut_keeps
    | fail_if_no_progress (with_reducible apply State.Keeps.rest)
    | dsimp only
    | split

theorem State.canOffer_keeps {s0 s : State} {c : Nat} (kept : s0.Keeps s) :
    s0.Keeps (State.canOffer s c) := by
  unfold State.canOffer
  repeat' first
    | with_reducible intro _
    | with_reducible assumption
    | with_reducible exact State.Keeps.refl _
    | (extract_lets +onlyGivenNames x; clear_value (hx : x = _); first | refine State.Keeps.local (s0 := s0) hx ?_ fun k => ?_ | skip)
    | with_reducible apply State.Keeps.ite
    | with_reducible apply State.offerChosen_keeps
    | with_reducible apply State.offerExclusive_keeps
    | with_reducible apply State.dropUnsendable_keeps
    | with_reducible apply State.countHeld_keeps
    | with_reducible apply State.canRelease_keeps
    | with_reducible apply State.dropHead_keeps
    | with_reducible apply State.modCh_keeps
    | with_reducible apply State.forEach_keeps
    | fail_if_no_progress (with_reducible apply State.Keeps.rest)
    | dsimp only
    | split

theorem State.setErrors_keeps {s0 s : State} {c : Nat} {tec : Nat} {rec_ : Nat} (kept : s0.Keeps s) :
    s0.Keeps (State.setErrors s c tec rec_) := by
  unfold State.setErrors
  repeat' first
    | with_reducible intro _
    | with_reducible assumption
    | with_reducible exact State.Keeps.refl _
    | (extract_lets +onlyGivenNames x; clear_value (hx : x = _); first | refine State.Keeps.local (s0 := s0) hx ?_ fun k => ?_ | (have g := State.regs x.2; clear g; subst hx) | skip)
    | with_reducible apply State.Keeps.ite
    | with_reducible apply State.decide_keeps
    | with_reducible apply State.chCount_keeps
    | with_reducible apply State.draw_keeps
    | with_reducible apply State.event_keeps
    | with_reducible apply State.bump_keeps
    | with_reducible apply State.wrF_keeps
    | fail_if_no_progress (with_reducible apply State.Keeps.rest)
    | dsimp only
    | refine State.Keeps.of_snd ‹_ = (_, _)› ?_
    | split

theorem State.goodRx_keeps {s0 s : State} {c : Nat} (kept : s0.Keeps s) :
    s0.Keeps (State.goodRx s c) := by
  unfold State.goodRx
  repeat' first
    | with_reducible intro _
    | with_reducible assumption
    | with_reducible exact State.Keeps.refl _
    | (extract_lets +onlyGivenNames x; clear_value (hx : x = _); first | refine State.Keeps.local (s0 := s0) hx ?_ fun k => ?_ | (have g := State.regs x.2; clear g; subst hx) | skip)
    | with_reducible apply State.Keeps.ite
    | with_reducible apply State.setErrors_keeps
    | with_reducible apply State.draw_keeps
    | fail_if_no_progress (with_reducible apply State.Keeps.rest)
    | dsimp only
    | refine State.Keeps.of_snd ‹_ = (_, _)› ?_
    | split

theorem State.exclusiveFault_keeps {s0 s : State} {c : Nat} (kept : s0.Keeps s) :
    s0.Keeps (State.exclusiveFault s c) := by
  unfold State.exclusiveFault
  repeat' first
    | with_reducible intro _
    | with_reducible assumption
    | with_reducible exact State.Keeps.refl _
    | (extract_lets +onlyGivenNames x; clear_value (hx : x = _); first | refine State.Keeps.local (s0 := s0) hx ?_ fun k => ?_ | skip)
    | with_reducible apply State.Keeps.ite
    | with_reducible apply State.chCount_keeps
    | with_reducible apply State.modCh_keeps
    | with_reducible apply State.event_keeps
    | fail_if_no_progress (with_reducible apply State.Keeps.rest)
    | dsimp only
    | split

theorem State.withdraw_keeps {s0 s : State} {c : Nat} (kept : s0.Keeps s) :
    s0.Keeps (State.withdraw s c) := by
  unfold State.withdraw
  repeat' first
    | with_reducible intro _
    | with_reducible assumption
    | with_reducible exact State.Keeps.refl _
    | (extract_lets +onlyGivenNames x; clear_value (hx : x = _); first | refine State.Keeps.local (s0 := s0) hx ?_ fun k => ?_ | skip)
    | with_reducible apply State.Keeps.ite
    | with_reducible apply State.exclusiveFault_keeps
    | with_reducible apply State.modCh_keeps
    | fail_if_no_progress (with_reducible apply State.Keeps.rest)
    | dsimp only
    | split

theorem State.headBack_keeps {s0 s : State} {c : Nat} (kept : s0.Keeps s) :
    s0.Keeps (State.headBack s c) := by
  unfold State.headBack
  repeat' first
    | with_reducible intro _
    | with_reducible assumption
    | with_reducible exact State.Keeps.refl _
    | (extract_lets +onlyGivenNames x; clear_value (hx : x = _); first | refine State.Keeps.local (s0 := s0) hx ?_ fun k => ?_ | skip)
    | with_reducible apply State.Keeps.ite
    | with_reducible apply State.modCh_keeps
    | with_reducible apply State.pushHead_keeps
    | fail_if_no_progress (with_reducible apply State.Keeps.rest)
    | dsimp only
    | split

theorem State.busError_keeps {s0 s : State} {c : Nat} {kind : Nat} {sending : Bool} {free_ : Bool} {eights : Nat} (kept : s0.Keeps s) :
    s0.Keeps (State.busError s c kind sending free_ eights) := by
  unfold State.busError
  repeat' first
    | with_reducible intro _
    | with_reducible assumption
    | with_reducible exact State.Keeps.refl _
    | (extract_lets +onlyGivenNames x; clear_value (hx : x = _); first | refine State.Keeps.local (s0 := s0) hx ?_ fun k => ?_ | skip)
    | with_reducible apply State.Keeps.ite
    | with_reducible apply State.headBack_keeps
    | with_reducible apply State.withdraw_keeps
    | with_reducible apply State.setErrors_keeps
    | with_reducible apply State.chCount_keeps
    | with_reducible apply State.modCh_keeps
    | with_reducible apply State.wrF_keeps
    | fail_if_no_progress (with_reducible apply State.Keeps.rest)
    | dsimp only
    | split

theorem State.applyMode_keeps {s0 s : State} {c : Nat} (kept : s0.Keeps s) :
    s0.Keeps (State.applyMode s c) := by
  unfold State.applyMode
  repeat' first
    | with_reducible intro _
    | with_reducible assumption
    | with_reducible exact State.Keeps.refl _
    | (extract_lets +onlyGivenNames x; clear_value (hx : x = _); first | refine State.Keeps.local (s0 := s0) hx ?_ fun k => ?_ | skip)
    | with_reducible apply State.Keeps.ite
    | with_reducible apply State.decide_keeps
    | with_reducible apply State.headBack_keeps
    | with_reducible apply State.modCh_keeps
    | with_reducible apply State.wrB_keeps
    | with_reducible apply State.wr_keeps
    | fail_if_no_progress (with_reducible apply State.Keeps.rest)
    | dsimp only
    | split

theorem State.changeMode_keeps {s0 s : State} {c : Nat} {v : Nat} {receiving : Bool} (kept : s0.Keeps s) :
    s0.Keeps (State.changeMode s c v receiving) := by
  unfold State.changeMode
  repeat' first
    | with_reducible intro _
    | with_reducible assumption
    | with_reducible exact State.Keeps.refl _
    | (extract_lets +onlyGivenNames x; clear_value (hx : x = _); first | refine State.Keeps.local (s0 := s0) hx ?_ fun k => ?_ | skip)
    | with_reducible apply State.Keeps.ite
    | with_reducible apply State.applyMode_keeps
    | with_reducible apply State.chCount_keeps
    | with_reducible apply State.modCh_keeps
    | with_reducible apply State.wr_keeps
    | fail_if_no_progress (with_reducible apply State.Keeps.rest)
    | dsimp only
    | split

theorem State.nextOnBus_keeps {s0 s : State} {c : Nat} (kept : s0.Keeps s) :
    s0.Keeps (State.nextOnBus s c) := by
  unfold State.nextOnBus
  repeat' first
    | with_reducible intro _
    | with_reducible assumption
    | with_reducible exact State.Keeps.refl _
    | (extract_lets +onlyGivenNames x; clear_value (hx : x = _); first | refine State.Keeps.local (s0 := s0) hx ?_ fun k => ?_ | skip)
    | with_reducible apply State.Keeps.ite
    | with_reducible apply State.applyMode_keeps
    | with_reducible apply State.canOffer_keeps
    | fail_if_no_progress (with_reducible apply State.Keeps.rest)
    | dsimp only
    | split

theorem State.fillBuffer_keeps {s0 s : State} {c : Nat} {k : Nat} {r : List Byte} {shadow : Bool} (kept : s0.Keeps s) :
    s0.Keeps (State.fillBuffer s c k r shadow) := by
  unfold State.fillBuffer
  repeat' first
    | with_reducible intro _
    | with_reducible assumption
    | with_reducible exact State.Keeps.refl _
    | (extract_lets +onlyGivenNames x; clear_value (hx : x = _); first | refine State.Keeps.local (s0 := s0) hx ?_ fun k => ?_ | skip)
    | with_reducible apply State.Keeps.ite
    | with_reducible apply State.setWin_keeps
    | with_reducible apply State.wr_keeps
    | fail_if_no_progress (with_reducible apply State.Keeps.rest)
    | dsimp only
    | split

theorem State.placeRx_keeps {s0 s : State} {c : Nat} {k : Nat} {bs : List Byte} {stamp : Nat} (kept : s0.Keeps s) :
    s0.Keeps (State.placeRx s c k bs stamp) := by
  unfold State.placeRx
  repeat' first
    | with_reducible intro _
    | with_reducible assumption
    | with_reducible exact State.Keeps.refl _
    | (extract_lets +onlyGivenNames x; clear_value (hx : x = _); first | refine State.Keeps.local (s0 := s0) hx ?_ fun k => ?_ | skip)
    | with_reducible apply State.Keeps.ite
    | with_reducible apply State.fillBuffer_keeps
    | with_reducible apply State.chCount_keeps
    | with_reducible apply State.modCh_keeps
    | with_reducible apply State.event_keeps
    | with_reducible apply State.setWinB_keeps
    | fail_if_no_progress (with_reducible apply State.Keeps.rest)
    | dsimp only
    | split

theorem State.releaseBuffer_keeps {s0 s : State} {c : Nat} {k : Nat} (kept : s0.Keeps s) :
    s0.Keeps (State.releaseBuffer s c k) := by
  unfold State.releaseBuffer
  repeat' first
    | with_reducible intro _
    | with_reducible assumption
    | with_reducible exact State.Keeps.refl _
    | (extract_lets +onlyGivenNames x; clear_value (hx : x = _); first | refine State.Keeps.local (s0 := s0) hx ?_ fun k => ?_ | skip)
    | with_reducible apply State.Keeps.ite
    | with_reducible apply State.fillBuffer_keeps
    | with_reducible apply State.modCh_keeps
    | with_reducible apply State.setWin_keeps
    | with_reducible apply State.wr_keeps
    | fail_if_no_progress (with_reducible apply State.Keeps.rest)
    | dsimp only
    | split

theorem State.writeLock_keeps {s0 s : State} {c : Nat} {v : Nat} (kept : s0.Keeps s) :
    s0.Keeps (State.writeLock s c v) := by
  unfold State.writeLock
  repeat' first
    | with_reducible intro _
    | with_reducible assumption
    | with_reducible exact State.Keeps.refl _
    | (extract_lets +onlyGivenNames x; clear_value (hx : x = _); first | refine State.Keeps.local (s0 := s0) hx ?_ fun k => ?_ | skip)
    | with_reducible apply State.Keeps.ite
    | with_reducible apply State.releaseBuffer_keeps
    | with_reducible apply State.wr_keeps
    | fail_if_no_progress (with_reducible apply State.Keeps.rest)
    | dsimp only
    | split

theorem State.takeRx_keeps {s0 s : State} {c : Nat} {bs : List Byte} {stamp : Nat} (kept : s0.Keeps s) :
    s0.Keeps (State.takeRx s c bs stamp).2 := by
  unfold State.takeRx
  repeat' first
    | with_reducible intro _
    | with_reducible assumption
    | with_reducible exact State.Keeps.refl _
    | (extract_lets +onlyGivenNames x; clear_value (hx : x = _); first | refine State.Keeps.local (s0 := s0) hx ?_ fun k => ?_ | skip)
    | with_reducible apply State.Keeps.ite
    | with_reducible apply State.placeRx_keeps
    | with_reducible apply State.chCount_keeps
    | with_reducible apply State.Keeps.ite_snd
    | fail_if_no_progress (with_reducible apply State.Keeps.rest)
    | dsimp only
    | split

theorem State.countCanRx_keeps {s0 s : State} {c : Nat} {bs : List Byte} (kept : s0.Keeps s) :
    s0.Keeps (State.countCanRx s c bs) := by
  unfold State.countCanRx
  repeat' first
    | with_reducible intro _
    | with_reducible assumption
    | with_reducible exact State.Keeps.refl _
    | (extract_lets +onlyGivenNames x; clear_value (hx : x = _); first | refine State.Keeps.local (s0 := s0) hx ?_ fun k => ?_ | skip)
    | with_reducible apply State.Keeps.ite
    | with_reducible apply State.chCount_keeps
    | fail_if_no_progress (with_reducible apply State.Keeps.rest)
    | dsimp only
    | split

theorem State.countCanTx_keeps {s0 s : State} {c : Nat} {n : Nat} (kept : s0.Keeps s) :
    s0.Keeps (State.countCanTx s c n) := by
  unfold State.countCanTx
  repeat' first
    | with_reducible intro _
    | with_reducible assumption
    | with_reducible exact State.Keeps.refl _
    | (extract_lets +onlyGivenNames x; clear_value (hx : x = _); first | refine State.Keeps.local (s0 := s0) hx ?_ fun k => ?_ | skip)
    | with_reducible apply State.Keeps.ite
    | with_reducible apply State.chCount_keeps
    | fail_if_no_progress (with_reducible apply State.Keeps.rest)
    | dsimp only
    | split

theorem State.masterChange_keeps {s0 s : State} {c : Nat} {prio : Nat} {self : Bool} (kept : s0.Keeps s) :
    s0.Keeps (State.masterChange s c prio self) := by
  unfold State.masterChange
  repeat' first
    | with_reducible intro _
    | with_reducible assumption
    | with_reducible exact State.Keeps.refl _
    | (extract_lets +onlyGivenNames x; clear_value (hx : x = _); first | refine State.Keeps.local (s0 := s0) hx ?_ fun k => ?_ | skip)
    | with_reducible apply State.Keeps.ite
    | with_reducible apply State.event_keeps
    | with_reducible apply State.wrB_keeps
    | with_reducible apply State.wrF_keeps
    | fail_if_no_progress (with_reducible apply State.Keeps.rest)
    | dsimp only
    | split

theorem State.beginCycle_keeps {s0 s : State} {c : Nat} {at_ : Nat} (kept : s0.Keeps s) :
    s0.Keeps (State.beginCycle s c at_) := by
  unfold State.beginCycle
  repeat' first
    | with_reducible intro _
    | with_reducible assumption
    | with_reducible exact State.Keeps.refl _
    | (extract_lets +onlyGivenNames x; clear_value (hx : x = _); first | refine State.Keeps.local (s0 := s0) hx ?_ fun k => ?_ | skip)
    | with_reducible apply State.Keeps.ite
    | with_reducible apply State.modCh_keeps
    | with_reducible apply State.wrB_keeps
    | fail_if_no_progress (with_reducible apply State.Keeps.rest)
    | dsimp only
    | split

theorem State.offerSent_keeps {s0 s : State} {c : Nat} {o : CanOffer} (kept : s0.Keeps s) :
    s0.Keeps (State.offerSent s c o) := by
  unfold State.offerSent
  repeat' first
    | with_reducible intro _
    | with_reducible assumption
    | with_reducible exact State.Keeps.refl _
    | (extract_lets +onlyGivenNames x; clear_value (hx : x = _); first | refine State.Keeps.local (s0 := s0) hx ?_ fun k => ?_ | skip)
    | with_reducible apply State.Keeps.ite
    | with_reducible apply State.beginCycle_keeps
    | with_reducible apply State.masterChange_keeps
    | with_reducible apply State.countCanTx_keeps
    | with_reducible apply State.setErrors_keeps
    | with_reducible apply State.dropHead_keeps
    | with_reducible apply State.chCount_keeps
    | with_reducible apply State.modCh_keeps
    | with_reducible apply State.takeWaiting_keeps
    | with_reducible apply State.probeEnd_keeps
    | with_reducible apply State.emit_keeps
    | with_reducible apply State.wr_keeps
    | fail_if_no_progress (with_reducible apply State.Keeps.rest)
    | dsimp only
    | split

theorem State.linPublish_keeps {s0 s : State} {c : Nat} {id : Nat} (kept : s0.Keeps s) :
    s0.Keeps (State.linPublish s c id) := by
  unfold State.linPublish
  repeat' first
    | with_reducible intro _
    | with_reducible assumption
    | with_reducible exact State.Keeps.refl _
    | (extract_lets +onlyGivenNames x; clear_value (hx : x = _); first | refine State.Keeps.local (s0 := s0) hx ?_ fun k => ?_ | skip)
    | with_reducible apply State.Keeps.ite
    | with_reducible apply State.countCanTx_keeps
    | with_reducible apply State.modCh_keeps
    | with_reducible apply State.emit_keeps
    | with_reducible apply State.Keeps.id
    | fail_if_no_progress (with_reducible apply State.Keeps.rest)
    | dsimp only
    | split

theorem State.slotError_keeps {s0 s : State} {c : Nat} {id : Nat} {kind : Nat} (kept : s0.Keeps s) :
    s0.Keeps (State.slotError s c id kind) := by
  unfold State.slotError
  repeat' first
    | with_reducible intro _
    | with_reducible assumption
    | with_reducible exact State.Keeps.refl _
    | (extract_lets +onlyGivenNames x; clear_value (hx : x = _); first | refine State.Keeps.local (s0 := s0) hx ?_ fun k => ?_ | skip)
    | with_reducible apply State.Keeps.ite
    | with_reducible apply State.modCh_keeps
    | with_reducible apply State.event_keeps
    | with_reducible apply State.Keeps.id
    | fail_if_no_progress (with_reducible apply State.Keeps.rest)
    | dsimp only
    | split

theorem State.linHeader_keeps {s0 s : State} {c : Nat} {id : Nat} {typ : Nat} {res : Nat} {delay : Nat} (kept : s0.Keeps s) :
    s0.Keeps (State.linHeader s c id typ res delay) := by
  unfold State.linHeader
  repeat' first
    | with_reducible intro _
    | with_reducible assumption
    | with_reducible exact State.Keeps.refl _
    | (extract_lets +onlyGivenNames x; clear_value (hx : x = _); first | refine State.Keeps.local (s0 := s0) hx ?_ fun k => ?_ | skip)
    | with_reducible apply State.Keeps.ite
    | with_reducible apply State.linPublish_keeps
    | with_reducible apply State.modCh_keeps
    | with_reducible apply State.emit_keeps
    | with_reducible apply State.Keeps.id
    | fail_if_no_progress (with_reducible apply State.Keeps.rest)
    | dsimp only
    | split

theorem State.linSlotStart_keeps {s0 s : State} {c : Nat} (kept : s0.Keeps s) :
    s0.Keeps (State.linSlotStart s c) := by
  unfold State.linSlotStart
  repeat' first
    | with_reducible intro _
    | with_reducible assumption
    | with_reducible exact State.Keeps.refl _
    | (extract_lets +onlyGivenNames x; clear_value (hx : x = _); first | refine State.Keeps.local (s0 := s0) hx ?_ fun k => ?_ | skip)
    | with_reducible apply State.Keeps.ite
    | with_reducible apply State.linHeader_keeps
    | with_reducible apply State.modCh_keeps
    | with_reducible apply State.Keeps.id
    | fail_if_no_progress (with_reducible apply State.Keeps.rest)
    | dsimp only
    | split

theorem State.linCollision_keeps {s0 s : State} {c : Nat} {res : Nat} (kept : s0.Keeps s) :
    s0.Keeps (State.linCollision s c res) := by
  unfold State.linCollision
  repeat' first
    | with_reducible intro _
    | with_reducible assumption
    | with_reducible exact State.Keeps.refl _
    | (extract_lets +onlyGivenNames x; clear_value (hx : x = _); first | refine State.Keeps.local (s0 := s0) hx ?_ fun k => ?_ | skip)
    | with_reducible apply State.Keeps.ite
    | with_reducible apply State.chCount_keeps
    | with_reducible apply State.modCh_keeps
    | fail_if_no_progress (with_reducible apply State.Keeps.rest)
    | dsimp only
    | split

theorem State.linTake_keeps {s0 s : State} {c : Nat} {q : Nat} {i : QItem} (kept : s0.Keeps s) :
    s0.Keeps (State.linTake s c q i) := by
  unfold State.linTake
  repeat' first
    | with_reducible intro _
    | with_reducible assumption
    | with_reducible exact State.Keeps.refl _
    | (extract_lets +onlyGivenNames x; clear_value (hx : x = _); first | refine State.Keeps.local (s0 := s0) hx ?_ fun k => ?_ | skip)
    | with_reducible apply State.Keeps.ite
    | with_reducible apply State.chCount_keeps
    | with_reducible apply State.modCh_keeps
    | with_reducible apply State.popHead_keeps
    | with_reducible apply State.takeWaiting_keeps
    | with_reducible apply State.refuseCopy_keeps
    | with_reducible apply State.dropRef_keeps
    | with_reducible apply State.setWin_keeps
    | with_reducible apply State.Keeps.id
    | fail_if_no_progress (with_reducible apply State.Keeps.rest)
    | dsimp only
    | split

theorem State.linEgress_keeps {s0 s : State} {c : Nat} {x1 : Nat} (kept : s0.Keeps s) :
    s0.Keeps (State.linEgress s c x1) := by
  induction x1 generalizing s c with
  | zero =>
    unfold State.linEgress
    repeat' first
      | with_reducible intro _
      | with_reducible assumption
      | with_reducible exact State.Keeps.refl _
      | (extract_lets +onlyGivenNames x; clear_value (hx : x = _); first | refine State.Keeps.local (s0 := s0) hx ?_ fun k => ?_ | skip)
      | with_reducible apply State.Keeps.ite
      | with_reducible apply State.linTake_keeps
      | with_reducible apply State.startCheck_keeps
      | with_reducible apply State.selectQueue_keeps
      | with_reducible apply State.takeWaiting_keeps
      | fail_if_no_progress (with_reducible apply State.Keeps.rest)
      | dsimp only
      | refine State.Keeps.of_snd ‹_ = (_, _)› ?_
      | split
  | succ k ih =>
    unfold State.linEgress
    repeat' first
      | with_reducible intro _
      | with_reducible assumption
      | with_reducible apply ih
      | with_reducible exact State.Keeps.refl _
      | (extract_lets +onlyGivenNames x; clear_value (hx : x = _); first | refine State.Keeps.local (s0 := s0) hx ?_ fun k => ?_ | skip)
      | with_reducible apply State.Keeps.ite
      | with_reducible apply State.linTake_keeps
      | with_reducible apply State.startCheck_keeps
      | with_reducible apply State.selectQueue_keeps
      | with_reducible apply State.takeWaiting_keeps
      | fail_if_no_progress (with_reducible apply State.Keeps.rest)
      | dsimp only
      | refine State.Keeps.of_snd ‹_ = (_, _)› ?_
      | split

end Sys2Proof.Machine
end

