-- ==== Sys2Proof/Laws/KeepsGateway.lean ====
section
/-! SUPPORT. What the definitions of Machine/Gateway keep (`State.Keeps`). -/

set_option linter.unusedTactic false
set_option linter.unreachableTactic false

namespace Sys2Proof.Machine

theorem State.withGw_keeps {s0 s : State} {f : GwState → GwState} (kept : s0.Keeps s) :
    s0.Keeps (State.withGw s f) := by
  unfold State.withGw
  repeat' first
    | with_reducible intro _
    | with_reducible assumption
    | with_reducible exact State.Keeps.refl _
    | (extract_lets +onlyGivenNames x; clear_value (hx : x = _); first | refine State.Keeps.local (s0 := s0) hx ?_ fun k => ?_ | skip)
    | with_reducible apply State.Keeps.ite
    | fail_if_no_progress (with_reducible apply State.Keeps.rest)
    | dsimp only
    | split

theorem State.gwCount_keeps {s0 s : State} {sub : Nat} {n : Nat} (kept : s0.Keeps s) :
    s0.Keeps (State.gwCount s sub n) := by
  unfold State.gwCount
  repeat' first
    | with_reducible intro _
    | with_reducible assumption
    | with_reducible exact State.Keeps.refl _
    | (extract_lets +onlyGivenNames x; clear_value (hx : x = _); first | refine State.Keeps.local (s0 := s0) hx ?_ fun k => ?_ | skip)
    | with_reducible apply State.Keeps.ite
    | with_reducible apply State.bump64_keeps
    | fail_if_no_progress (with_reducible apply State.Keeps.rest)
    | dsimp only
    | split

theorem State.gwEvent_keeps {s0 s : State} {engine : Nat} {code : Nat} {d0 : Nat} {d1 : Nat} {d2 : Nat} (kept : s0.Keeps s) :
    s0.Keeps (State.gwEvent s engine code d0 d1 d2) := by
  unfold State.gwEvent
  repeat' first
    | with_reducible intro _
    | with_reducible assumption
    | with_reducible exact State.Keeps.refl _
    | (extract_lets +onlyGivenNames x; clear_value (hx : x = _); first | refine State.Keeps.local (s0 := s0) hx ?_ fun k => ?_ | skip)
    | with_reducible apply State.Keeps.ite
    | with_reducible apply State.withGw_keeps
    | with_reducible apply State.event_keeps
    | with_reducible apply State.bump_keeps
    | fail_if_no_progress (with_reducible apply State.Keeps.rest)
    | dsimp only
    | split

theorem State.setGwBit_keeps {s0 s : State} {n : Nat} {b : Nat} {v : Bool} (kept : s0.Keeps s) :
    s0.Keeps (State.setGwBit s n b v) := by
  unfold State.setGwBit
  repeat' first
    | with_reducible intro _
    | with_reducible assumption
    | with_reducible exact State.Keeps.refl _
    | (extract_lets +onlyGivenNames x; clear_value (hx : x = _); first | refine State.Keeps.local (s0 := s0) hx ?_ fun k => ?_ | skip)
    | with_reducible apply State.Keeps.ite
    | with_reducible apply State.setWinB_keeps
    | fail_if_no_progress (with_reducible apply State.Keeps.rest)
    | dsimp only
    | split

theorem State.setImage_keeps {s0 s : State} {n : Nat} {bs : List Byte} (kept : s0.Keeps s) :
    s0.Keeps (State.setImage s n bs) := by
  unfold State.setImage
  repeat' first
    | with_reducible intro _
    | with_reducible assumption
    | with_reducible exact State.Keeps.refl _
    | (extract_lets +onlyGivenNames x; clear_value (hx : x = _); first | refine State.Keeps.local (s0 := s0) hx ?_ fun k => ?_ | skip)
    | with_reducible apply State.Keeps.ite
    | with_reducible apply State.setWin_keeps
    | fail_if_no_progress (with_reducible apply State.Keeps.rest)
    | dsimp only
    | split

theorem State.gwOut_keeps {s0 s : State} {port : Nat} {cls : Nat} {kind : Nat} {domain : Nat} {bs : List Byte} {age : Nat} {stamp : Nat} {passes : Nat} (kept : s0.Keeps s) :
    s0.Keeps (State.gwOut s port cls kind domain bs age stamp passes) := by
  unfold State.gwOut
  repeat' first
    | with_reducible intro _
    | with_reducible assumption
    | with_reducible exact State.Keeps.refl _
    | (extract_lets +onlyGivenNames x; clear_value (hx : x = _); first | refine State.Keeps.local (s0 := s0) hx ?_ fun k => ?_ | skip)
    | with_reducible apply State.Keeps.ite
    | with_reducible apply State.enterUnicast_keeps
    | with_reducible apply State.refuse_keeps
    | with_reducible apply State.probeBuilt_keeps
    | with_reducible apply State.Keeps.id
    | fail_if_no_progress (with_reducible apply State.Keeps.rest)
    | dsimp only
    | refine State.buildFrame_keeps ‹_ = some (_, _)› ?_
    | split

theorem State.flushContainer_keeps {s0 s : State} {k : Nat} (kept : s0.Keeps s) :
    s0.Keeps (State.flushContainer s k) := by
  unfold State.flushContainer
  repeat' first
    | with_reducible intro _
    | with_reducible assumption
    | with_reducible exact State.Keeps.refl _
    | (extract_lets +onlyGivenNames x; clear_value (hx : x = _); first | refine State.Keeps.local (s0 := s0) hx ?_ fun k => ?_ | skip)
    | with_reducible apply State.Keeps.ite
    | with_reducible apply State.gwOut_keeps
    | with_reducible apply State.withGw_keeps
    | fail_if_no_progress (with_reducible apply State.Keeps.rest)
    | dsimp only
    | split

theorem State.addEntry_keeps {s0 s : State} {k : Nat} {e : List Byte} (kept : s0.Keeps s) :
    s0.Keeps (State.addEntry s k e) := by
  unfold State.addEntry
  repeat' first
    | with_reducible intro _
    | with_reducible assumption
    | with_reducible exact State.Keeps.refl _
    | (extract_lets +onlyGivenNames x; clear_value (hx : x = _); first | refine State.Keeps.local (s0 := s0) hx ?_ fun k => ?_ | skip)
    | with_reducible apply State.Keeps.ite
    | with_reducible apply State.flushContainer_keeps
    | with_reducible apply State.withGw_keeps
    | fail_if_no_progress (with_reducible apply State.Keeps.rest)
    | dsimp only
    | split

theorem State.notSent_keeps {s0 s : State} {engine : Nat} {n : Nat} {len : Nat} {code : Nat} {f : Frame} (kept : s0.Keeps s) :
    s0.Keeps (State.notSent s engine n len code f) := by
  unfold State.notSent
  repeat' first
    | with_reducible intro _
    | with_reducible assumption
    | with_reducible exact State.Keeps.refl _
    | (extract_lets +onlyGivenNames x; clear_value (hx : x = _); first | refine State.Keeps.local (s0 := s0) hx ?_ fun k => ?_ | skip)
    | with_reducible apply State.Keeps.ite
    | with_reducible apply State.gwEvent_keeps
    | with_reducible apply State.gwCount_keeps
    | with_reducible apply State.refuse_keeps
    | fail_if_no_progress (with_reducible apply State.Keeps.rest)
    | dsimp only
    | split

theorem State.gwSend_keeps {s0 s : State} {engine : Nat} {n : Nat} {data : List Byte} {src : Option Frame} (kept : s0.Keeps s) :
    s0.Keeps (State.gwSend s engine n data src) := by
  unfold State.gwSend
  repeat' first
    | with_reducible intro _
    | with_reducible assumption
    | with_reducible exact State.Keeps.refl _
    | (extract_lets +onlyGivenNames x; clear_value (hx : x = _); first | refine State.Keeps.local (s0 := s0) hx ?_ fun k => ?_ | (have g := fun u => State.regs (x u); clear g; subst hx) | (have g := fun u v => State.regs (x u v); clear g; subst hx) | (have g := fun u v w => State.regs (x u v w); clear g; subst hx) | (have g := fun u v w y => State.regs (x u v w y); clear g; subst hx) | skip)
    | with_reducible apply State.Keeps.ite
    | with_reducible apply State.notSent_keeps
    | with_reducible apply State.addEntry_keeps
    | with_reducible apply State.gwOut_keeps
    | with_reducible apply State.gwCount_keeps
    | with_reducible apply State.Keeps.id
    | fail_if_no_progress (with_reducible apply State.Keeps.rest)
    | dsimp only
    | split

theorem State.gwBuild_keeps {s0 s : State} {n : Nat} (kept : s0.Keeps s) :
    s0.Keeps (State.gwBuild s n) := by
  unfold State.gwBuild
  repeat' first
    | with_reducible intro _
    | with_reducible assumption
    | with_reducible exact State.Keeps.refl _
    | (extract_lets +onlyGivenNames x; clear_value (hx : x = _); first | refine State.Keeps.local (s0 := s0) hx ?_ fun k => ?_ | skip)
    | with_reducible apply State.Keeps.ite
    | with_reducible apply State.gwSend_keeps
    | with_reducible apply State.setImage_keeps
    | with_reducible apply State.setGwBit_keeps
    | with_reducible apply State.withGw_keeps
    | with_reducible apply State.foldl_keeps
    | fail_if_no_progress (with_reducible apply State.Keeps.rest)
    | dsimp only
    | split

theorem State.afterPack_keeps {s0 s : State} {n : Nat} (kept : s0.Keeps s) :
    s0.Keeps (State.afterPack s n) := by
  unfold State.afterPack
  repeat' first
    | with_reducible intro _
    | with_reducible assumption
    | with_reducible exact State.Keeps.refl _
    | (extract_lets +onlyGivenNames x; clear_value (hx : x = _); first | refine State.Keeps.local (s0 := s0) hx ?_ fun k => ?_ | skip)
    | with_reducible apply State.Keeps.ite
    | with_reducible apply State.gwBuild_keeps
    | fail_if_no_progress (with_reducible apply State.Keeps.rest)
    | dsimp only
    | split

theorem State.transmit_keeps {s0 s : State} {n : Nat} (kept : s0.Keeps s) :
    s0.Keeps (State.transmit s n) := by
  unfold State.transmit
  repeat' first
    | with_reducible intro _
    | with_reducible assumption
    | with_reducible exact State.Keeps.refl _
    | (extract_lets +onlyGivenNames x; clear_value (hx : x = _); first | refine State.Keeps.local (s0 := s0) hx ?_ fun k => ?_ | skip)
    | with_reducible apply State.Keeps.ite
    | with_reducible apply State.decide_keeps
    | with_reducible apply State.gwBuild_keeps
    | with_reducible apply State.gwCount_keeps
    | with_reducible apply State.withGw_keeps
    | with_reducible apply State.tick_keeps
    | fail_if_no_progress (with_reducible apply State.Keeps.rest)
    | dsimp only
    | split

theorem State.extractPass_keeps {s0 s : State} {n : Nat} {data : List Byte} {engine : Nat} {x1 : List Nat} (kept : s0.Keeps s) :
    s0.Keeps (State.extractPass s n data engine x1).1 := by
  induction x1 generalizing s n data engine with
  | nil =>
    unfold State.extractPass
    repeat' first
      | with_reducible intro _
      | with_reducible assumption
      | with_reducible exact State.Keeps.refl _
      | (extract_lets +onlyGivenNames x; clear_value (hx : x = _); first | refine State.Keeps.local (s0 := s0) hx ?_ fun k => ?_ | skip)
      | with_reducible apply State.Keeps.ite
      | with_reducible apply State.gwEvent_keeps
      | with_reducible apply State.gwCount_keeps
      | with_reducible apply State.lookup_keeps
      | with_reducible apply State.Keeps.ite_fst
      | fail_if_no_progress (with_reducible apply State.Keeps.rest)
      | dsimp only
      | refine State.Keeps.of_snd ‹_ = (_, _)› ?_
      | split
  | cons y r ih =>
    unfold State.extractPass
    repeat' first
      | with_reducible intro _
      | with_reducible assumption
      | with_reducible apply ih
      | with_reducible exact State.Keeps.refl _
      | (extract_lets +onlyGivenNames x; clear_value (hx : x = _); first | refine State.Keeps.local (s0 := s0) hx ?_ fun k => ?_ | skip)
      | with_reducible apply State.Keeps.ite
      | with_reducible apply State.gwEvent_keeps
      | with_reducible apply State.gwCount_keeps
      | with_reducible apply State.lookup_keeps
      | with_reducible apply State.Keeps.ite_fst
      | fail_if_no_progress (with_reducible apply State.Keeps.rest)
      | dsimp only
      | refine State.Keeps.of_snd ‹_ = (_, _)› ?_
      | split

theorem State.pack_keeps {s0 s : State} {d : Signal} {v : Nat} (kept : s0.Keeps s) :
    s0.Keeps (State.pack s d v) := by
  unfold State.pack
  repeat' first
    | with_reducible intro _
    | with_reducible assumption
    | with_reducible exact State.Keeps.refl _
    | (extract_lets +onlyGivenNames x; clear_value (hx : x = _); first | refine State.Keeps.local (s0 := s0) hx ?_ fun k => ?_ | skip)
    | with_reducible apply State.Keeps.ite
    | with_reducible apply State.setImage_keeps
    | with_reducible apply State.setGwBit_keeps
    | with_reducible apply State.gwCount_keeps
    | fail_if_no_progress (with_reducible apply State.Keeps.rest)
    | dsimp only
    | split

theorem State.runJob_keeps {s0 s : State} {engine : Nat} {id : Nat} {n : Nat} (kept : s0.Keeps s) :
    s0.Keeps (State.runJob s engine id n) := by
  unfold State.runJob
  repeat' first
    | with_reducible intro _
    | with_reducible assumption
    | with_reducible exact State.Keeps.refl _
    | (extract_lets +onlyGivenNames x; clear_value (hx : x = _); first | refine State.Keeps.local (s0 := s0) hx ?_ fun k => ?_ | skip)
    | with_reducible apply State.Keeps.ite
    | with_reducible apply State.pack_keeps
    | with_reducible apply State.extractPass_keeps
    | with_reducible apply State.afterPack_keeps
    | with_reducible apply State.gwSend_keeps
    | with_reducible apply State.setGwBit_keeps
    | with_reducible apply State.gwCount_keeps
    | with_reducible apply State.withGw_keeps
    | with_reducible apply State.dropRef_keeps
    | with_reducible apply State.probeStep_keeps
    | with_reducible apply State.forEach_keeps
    | with_reducible apply State.Keeps.id
    | fail_if_no_progress (with_reducible apply State.Keeps.rest)
    | dsimp only
    | refine State.Keeps.of_fst ‹_ = (_, _)› ?_
    | split

theorem State.takeJob_keeps {s0 s : State} {e : Nat} (kept : s0.Keeps s) :
    s0.Keeps (State.takeJob s e) := by
  unfold State.takeJob
  repeat' first
    | with_reducible intro _
    | with_reducible assumption
    | with_reducible exact State.Keeps.refl _
    | (extract_lets +onlyGivenNames x; clear_value (hx : x = _); first | refine State.Keeps.local (s0 := s0) hx ?_ fun k => ?_ | skip)
    | with_reducible apply State.Keeps.ite
    | with_reducible apply State.runJob_keeps
    | with_reducible apply State.withGw_keeps
    | with_reducible apply State.refuseCopy_keeps
    | with_reducible apply State.Keeps.id
    | fail_if_no_progress (with_reducible apply State.Keeps.rest)
    | dsimp only
    | split

theorem State.gwDispatch_keeps {s0 s : State} {id : Nat} (kept : s0.Keeps s) :
    s0.Keeps (State.gwDispatch s id) := by
  unfold State.gwDispatch
  repeat' first
    | with_reducible intro _
    | with_reducible assumption
    | with_reducible exact State.Keeps.refl _
    | (extract_lets +onlyGivenNames x; clear_value (hx : x = _); first | refine State.Keeps.local (s0 := s0) hx ?_ fun k => ?_ | skip)
    | with_reducible apply State.Keeps.ite
    | with_reducible apply State.gwCount_keeps
    | with_reducible apply State.withGw_keeps
    | with_reducible apply State.refuseCopy_keeps
    | with_reducible apply State.Keeps.id
    | fail_if_no_progress (with_reducible apply State.Keeps.rest)
    | dsimp only
    | split

theorem State.gwSelect_keeps {s0 s : State} (kept : s0.Keeps s) :
    s0.Keeps (State.gwSelect s) := by
  unfold State.gwSelect
  repeat' first
    | with_reducible intro _
    | with_reducible assumption
    | with_reducible exact State.Keeps.refl _
    | (extract_lets +onlyGivenNames x; clear_value (hx : x = _); first | refine State.Keeps.local (s0 := s0) hx ?_ fun k => ?_ | skip)
    | with_reducible apply State.Keeps.ite
    | with_reducible apply State.gwDispatch_keeps
    | with_reducible apply State.startCheck_keeps
    | with_reducible apply State.popHead_keeps
    | with_reducible apply State.selectQueue_keeps
    | with_reducible apply State.takeWaiting_keeps
    | with_reducible apply State.discardPoisoned_keeps
    | fail_if_no_progress (with_reducible apply State.Keeps.rest)
    | dsimp only
    | refine State.Keeps.of_snd ‹_ = (_, _)› ?_
    | split

theorem State.substitute_keeps {s0 s : State} {n : Nat} {x1 : List Nat} (kept : s0.Keeps s) :
    s0.Keeps (State.substitute s n x1) := by
  induction x1 generalizing s n with
  | nil =>
    unfold State.substitute
    repeat' first
      | with_reducible intro _
      | with_reducible assumption
      | with_reducible exact State.Keeps.refl _
      | (extract_lets +onlyGivenNames x; clear_value (hx : x = _); first | refine State.Keeps.local (s0 := s0) hx ?_ fun k => ?_ | (have g := State.regs x.2; clear g; subst hx) | skip)
      | with_reducible apply State.Keeps.ite
      | with_reducible apply State.setImage_keeps
      | with_reducible apply State.setGwBit_keeps
      | with_reducible apply State.lookup_keeps
      | fail_if_no_progress (with_reducible apply State.Keeps.rest)
      | dsimp only
      | refine State.Keeps.of_snd ‹_ = (_, _)› ?_
      | split
  | cons y r ih =>
    unfold State.substitute
    repeat' first
      | with_reducible intro _
      | with_reducible assumption
      | with_reducible apply ih
      | with_reducible exact State.Keeps.refl _
      | (extract_lets +onlyGivenNames x; clear_value (hx : x = _); first | refine State.Keeps.local (s0 := s0) hx ?_ fun k => ?_ | (have g := State.regs x.2; clear g; subst hx) | skip)
      | with_reducible apply State.Keeps.ite
      | with_reducible apply State.setImage_keeps
      | with_reducible apply State.setGwBit_keeps
      | with_reducible apply State.lookup_keeps
      | fail_if_no_progress (with_reducible apply State.Keeps.rest)
      | dsimp only
      | refine State.Keeps.of_snd ‹_ = (_, _)› ?_
      | split

theorem State.deadlineOver_keeps {s0 s : State} {n : Nat} (kept : s0.Keeps s) :
    s0.Keeps (State.deadlineOver s n) := by
  unfold State.deadlineOver
  repeat' first
    | with_reducible intro _
    | with_reducible assumption
    | with_reducible exact State.Keeps.refl _
    | (extract_lets +onlyGivenNames x; clear_value (hx : x = _); first | refine State.Keeps.local (s0 := s0) hx ?_ fun k => ?_ | skip)
    | with_reducible apply State.Keeps.ite
    | with_reducible apply State.substitute_keeps
    | with_reducible apply State.setGwBit_keeps
    | with_reducible apply State.gwEvent_keeps
    | with_reducible apply State.gwCount_keeps
    | with_reducible apply State.withGw_keeps
    | fail_if_no_progress (with_reducible apply State.Keeps.rest)
    | dsimp only
    | split

theorem State.loadImages_keeps {s0 s : State} (h : s0.Keeps s) : s0.Keeps s.loadImages :=
  ⟨h.queue, h.time, h.draws, h.log, h.scalars, fun k =>
    canonical_foldl byteDefault (fun c => winKey 0x5612 0 0 + c.1) _ _ (canonical_filter byteDefault _ (h.windows k))⟩

theorem State.startNominal_keeps {s0 s : State} {n : Nat} (kept : s0.Keeps s) :
    s0.Keeps (State.startNominal s n) := by
  unfold State.startNominal
  repeat' first
    | with_reducible intro _
    | with_reducible assumption
    | with_reducible exact State.Keeps.refl _
    | (extract_lets +onlyGivenNames x; clear_value (hx : x = _); first | refine State.Keeps.local (s0 := s0) hx ?_ fun k => ?_ | skip)
    | with_reducible apply State.Keeps.ite
    | with_reducible apply State.withGw_keeps
    | fail_if_no_progress (with_reducible apply State.Keeps.rest)
    | dsimp only
    | split

theorem State.gwEnable_keeps {s0 s : State} (kept : s0.Keeps s) :
    s0.Keeps (State.gwEnable s) := by
  unfold State.gwEnable
  repeat' first
    | with_reducible intro _
    | with_reducible assumption
    | with_reducible exact State.Keeps.refl _
    | (extract_lets +onlyGivenNames x; clear_value (hx : x = _); first | refine State.Keeps.local (s0 := s0) hx ?_ fun k => ?_ | skip)
    | with_reducible apply State.Keeps.ite
    | with_reducible apply State.startNominal_keeps
    | with_reducible apply State.loadImages_keeps
    | with_reducible apply State.withGw_keeps
    | with_reducible apply State.forEach_keeps
    | with_reducible apply State.tick_keeps
    | with_reducible apply State.dropWins_keeps
    | fail_if_no_progress (with_reducible apply State.Keeps.rest)
    | dsimp only
    | split

theorem State.writePdu_keeps {s0 s : State} {n : Nat} {r : List Byte} (kept : s0.Keeps s) :
    s0.Keeps (State.writePdu s n r) := by
  unfold State.writePdu
  repeat' first
    | with_reducible intro _
    | with_reducible assumption
    | with_reducible exact State.Keeps.refl _
    | (extract_lets +onlyGivenNames x; clear_value (hx : x = _); first | refine State.Keeps.local (s0 := s0) hx ?_ fun k => ?_ | skip)
    | with_reducible apply State.Keeps.ite
    | with_reducible apply State.startNominal_keeps
    | with_reducible apply State.withGw_keeps
    | with_reducible apply State.setWin_keeps
    | fail_if_no_progress (with_reducible apply State.Keeps.rest)
    | dsimp only
    | split

theorem State.badContainer_keeps {s0 s : State} {id : Nat} {reason : Nat} (kept : s0.Keeps s) :
    s0.Keeps (State.badContainer s id reason) := by
  unfold State.badContainer
  repeat' first
    | with_reducible intro _
    | with_reducible assumption
    | with_reducible exact State.Keeps.refl _
    | (extract_lets +onlyGivenNames x; clear_value (hx : x = _); first | refine State.Keeps.local (s0 := s0) hx ?_ fun k => ?_ | skip)
    | with_reducible apply State.Keeps.ite
    | with_reducible apply State.gwEvent_keeps
    | with_reducible apply State.gwCount_keeps
    | with_reducible apply State.dropRef_keeps
    | with_reducible apply State.Keeps.id
    | fail_if_no_progress (with_reducible apply State.Keeps.rest)
    | dsimp only
    | split

theorem State.followSeq_keeps {s0 s : State} {device : Nat} {domain : Nat} {seq : Nat} (kept : s0.Keeps s) :
    s0.Keeps (State.followSeq s device domain seq) := by
  unfold State.followSeq
  repeat' first
    | with_reducible intro _
    | with_reducible assumption
    | with_reducible exact State.Keeps.refl _
    | (extract_lets +onlyGivenNames x; clear_value (hx : x = _); first | refine State.Keeps.local (s0 := s0) hx ?_ fun k => ?_ | skip)
    | with_reducible apply State.Keeps.ite
    | with_reducible apply State.gwCount_keeps
    | with_reducible apply State.withGw_keeps
    | fail_if_no_progress (with_reducible apply State.Keeps.rest)
    | dsimp only
    | split

end Sys2Proof.Machine
end

