-- ==== Sys2Proof/Laws/KeepsHost.lean ====
section
/-! SUPPORT. What the definitions of Machine/Host keep (`State.Keeps`). -/

set_option linter.unusedTactic false
set_option linter.unreachableTactic false

namespace Sys2Proof.Machine

theorem State.withHost_keeps {s0 s : State} {f : HostState → HostState} (kept : s0.Keeps s) :
    s0.Keeps (State.withHost s f) := by
  unfold State.withHost
  repeat' first
    | with_reducible intro _
    | with_reducible assumption
    | with_reducible exact State.Keeps.refl _
    | (extract_lets +onlyGivenNames x; clear_value (hx : x = _); first | refine State.Keeps.local (s0 := s0) hx ?_ fun k => ?_ | skip)
    | with_reducible apply State.Keeps.ite
    | fail_if_no_progress (with_reducible apply State.Keeps.rest)
    | dsimp only
    | split

theorem State.sendVector_keeps {s0 s : State} {v : Nat} (kept : s0.Keeps s) :
    s0.Keeps (State.sendVector s v) := by
  unfold State.sendVector
  repeat' first
    | with_reducible intro _
    | with_reducible assumption
    | with_reducible exact State.Keeps.refl _
    | (extract_lets +onlyGivenNames x; clear_value (hx : x = _); first | refine State.Keeps.local (s0 := s0) hx ?_ fun k => ?_ | skip)
    | with_reducible apply State.Keeps.ite
    | with_reducible apply State.withHost_keeps
    | with_reducible apply State.emit_keeps
    | fail_if_no_progress (with_reducible apply State.Keeps.rest)
    | dsimp only
    | split

theorem State.sideVector_keeps {s0 s : State} {v : Nat} (kept : s0.Keeps s) :
    s0.Keeps (State.sideVector s v) := by
  unfold State.sideVector
  repeat' first
    | with_reducible intro _
    | with_reducible assumption
    | with_reducible exact State.Keeps.refl _
    | (extract_lets +onlyGivenNames x; clear_value (hx : x = _); first | refine State.Keeps.local (s0 := s0) hx ?_ fun k => ?_ | skip)
    | with_reducible apply State.Keeps.ite
    | with_reducible apply State.sendVector_keeps
    | with_reducible apply State.withHost_keeps
    | fail_if_no_progress (with_reducible apply State.Keeps.rest)
    | dsimp only
    | split

theorem State.ringMessage_keeps {s0 s : State} {r : Nat} (kept : s0.Keeps s) :
    s0.Keeps (State.ringMessage s r) := by
  unfold State.ringMessage
  repeat' first
    | with_reducible intro _
    | with_reducible assumption
    | with_reducible exact State.Keeps.refl _
    | (extract_lets +onlyGivenNames x; clear_value (hx : x = _); first | refine State.Keeps.local (s0 := s0) hx ?_ fun k => ?_ | skip)
    | with_reducible apply State.Keeps.ite
    | with_reducible apply State.sendVector_keeps
    | with_reducible apply State.withHost_keeps
    | fail_if_no_progress (with_reducible apply State.Keeps.rest)
    | dsimp only
    | split

theorem State.releaseMessage_keeps {s0 s : State} {v : Nat} (kept : s0.Keeps s) :
    s0.Keeps (State.releaseMessage s v) := by
  unfold State.releaseMessage
  repeat' first
    | with_reducible intro _
    | with_reducible assumption
    | with_reducible exact State.Keeps.refl _
    | (extract_lets +onlyGivenNames x; clear_value (hx : x = _); first | refine State.Keeps.local (s0 := s0) hx ?_ fun k => ?_ | skip)
    | with_reducible apply State.Keeps.ite
    | with_reducible apply State.sendVector_keeps
    | with_reducible apply State.withHost_keeps
    | fail_if_no_progress (with_reducible apply State.Keeps.rest)
    | dsimp only
    | split

theorem State.deferred_keeps {s0 s : State} {window : Nat} {epoch : Nat} {reason : Nat} {off : Nat} {seq : Nat} {code : Nat} {target : Nat} (kept : s0.Keeps s) :
    s0.Keeps (State.deferred s window epoch reason off seq code target) := by
  unfold State.deferred
  repeat' first
    | with_reducible intro _
    | with_reducible assumption
    | with_reducible exact State.Keeps.refl _
    | (extract_lets +onlyGivenNames x; clear_value (hx : x = _); first | refine State.Keeps.local (s0 := s0) hx ?_ fun k => ?_ | (have g := State.regs x.2; clear g; subst hx) | skip)
    | with_reducible apply State.Keeps.ite
    | with_reducible apply State.sideVector_keeps
    | with_reducible apply State.draw_keeps
    | with_reducible apply State.event_keeps
    | with_reducible apply State.setWin_keeps
    | with_reducible apply State.bump_keeps
    | fail_if_no_progress (with_reducible apply State.Keeps.rest)
    | dsimp only
    | refine State.Keeps.of_snd ‹_ = (_, _)› ?_
    | split

theorem State.dropPrefetch_keeps {s0 s : State} {w : Nat} (kept : s0.Keeps s) :
    s0.Keeps (State.dropPrefetch s w) := by
  unfold State.dropPrefetch
  repeat' first
    | with_reducible intro _
    | with_reducible assumption
    | with_reducible exact State.Keeps.refl _
    | (extract_lets +onlyGivenNames x; clear_value (hx : x = _); first | refine State.Keeps.local (s0 := s0) hx ?_ fun k => ?_ | skip)
    | with_reducible apply State.Keeps.ite
    | with_reducible apply State.withHost_keeps
    | with_reducible apply State.bump_keeps
    | fail_if_no_progress (with_reducible apply State.Keeps.rest)
    | dsimp only
    | split

theorem State.dropPrefetches_keeps {s0 s : State} (kept : s0.Keeps s) :
    s0.Keeps (State.dropPrefetches s) := by
  unfold State.dropPrefetches
  repeat' first
    | with_reducible intro _
    | with_reducible assumption
    | with_reducible exact State.Keeps.refl _
    | (extract_lets +onlyGivenNames x; clear_value (hx : x = _); first | refine State.Keeps.local (s0 := s0) hx ?_ fun k => ?_ | skip)
    | with_reducible apply State.Keeps.ite
    | with_reducible apply State.dropPrefetch_keeps
    | with_reducible apply State.forEach_keeps
    | fail_if_no_progress (with_reducible apply State.Keeps.rest)
    | dsimp only
    | split

theorem State.discardRead_keeps {s0 s : State} {r : HeldRead} (kept : s0.Keeps s) :
    s0.Keeps (State.discardRead s r) := by
  unfold State.discardRead
  repeat' first
    | with_reducible intro _
    | with_reducible assumption
    | with_reducible exact State.Keeps.refl _
    | (extract_lets +onlyGivenNames x; clear_value (hx : x = _); first | refine State.Keeps.local (s0 := s0) hx ?_ fun k => ?_ | skip)
    | with_reducible apply State.Keeps.ite
    | with_reducible apply State.deferred_keeps
    | with_reducible apply State.withHost_keeps
    | with_reducible apply State.emit_keeps
    | with_reducible apply State.bump_keeps
    | fail_if_no_progress (with_reducible apply State.Keeps.rest)
    | dsimp only
    | split

theorem State.endReads_keeps {s0 s : State} {busy : Bool} (kept : s0.Keeps s) :
    s0.Keeps (State.endReads s busy) := by
  unfold State.endReads
  repeat' first
    | with_reducible intro _
    | with_reducible assumption
    | with_reducible exact State.Keeps.refl _
    | (extract_lets +onlyGivenNames x; clear_value (hx : x = _); first | refine State.Keeps.local (s0 := s0) hx ?_ fun k => ?_ | skip)
    | with_reducible apply State.Keeps.ite
    | with_reducible apply State.discardRead_keeps
    | with_reducible apply State.withHost_keeps
    | with_reducible apply State.forEach_keeps
    | with_reducible apply State.bump_keeps
    | fail_if_no_progress (with_reducible apply State.Keeps.rest)
    | dsimp only
    | split

theorem State.pcieLink_keeps {s0 s : State} {up : Bool} {speed : Nat} {width : Nat} (kept : s0.Keeps s) :
    s0.Keeps (State.pcieLink s up speed width) := by
  unfold State.pcieLink
  repeat' first
    | with_reducible intro _
    | with_reducible assumption
    | with_reducible exact State.Keeps.refl _
    | (extract_lets +onlyGivenNames x; clear_value (hx : x = _); first | refine State.Keeps.local (s0 := s0) hx ?_ fun k => ?_ | skip)
    | with_reducible apply State.Keeps.ite
    | with_reducible apply State.sideVector_keeps
    | with_reducible apply State.event_keeps
    | with_reducible apply State.wr_keeps
    | fail_if_no_progress (with_reducible apply State.Keeps.rest)
    | dsimp only
    | split

theorem State.configDefaults_keeps {s0 s : State} (kept : s0.Keeps s) :
    s0.Keeps (State.configDefaults s) := by
  unfold State.configDefaults
  repeat' first
    | with_reducible intro _
    | with_reducible assumption
    | with_reducible exact State.Keeps.refl _
    | (extract_lets +onlyGivenNames x; clear_value (hx : x = _); first | refine State.Keeps.local (s0 := s0) hx ?_ fun k => ?_ | skip)
    | with_reducible apply State.Keeps.ite
    | with_reducible apply State.withHost_keeps
    | fail_if_no_progress (with_reducible apply State.Keeps.rest)
    | dsimp only
    | split

theorem State.clearRings_keeps {s0 s : State} (kept : s0.Keeps s) :
    s0.Keeps (State.clearRings s) := by
  unfold State.clearRings
  repeat' first
    | with_reducible intro _
    | with_reducible assumption
    | with_reducible exact State.Keeps.refl _
    | (extract_lets +onlyGivenNames x; clear_value (hx : x = _); first | refine State.Keeps.local (s0 := s0) hx ?_ fun k => ?_ | skip)
    | with_reducible apply State.Keeps.ite
    | with_reducible apply State.withHost_keeps
    | fail_if_no_progress (with_reducible apply State.Keeps.rest)
    | dsimp only
    | split

end Sys2Proof.Machine
end

