-- ==== Sys2Proof/Laws/KeepsSess.lean ====
section
/-! SUPPORT. What the definitions of Machine/Sess keep (`State.Keeps`). -/

set_option linter.unusedTactic false
set_option linter.unreachableTactic false

namespace Sys2Proof.Machine

theorem State.withSess_keeps {s0 s : State} {f : SessState → SessState} (kept : s0.Keeps s) :
    s0.Keeps (State.withSess s f) := by
  unfold State.withSess
  repeat' first
    | with_reducible intro _
    | with_reducible assumption
    | with_reducible exact State.Keeps.refl _
    | (extract_lets +onlyGivenNames x; clear_value (hx : x = _); first | refine State.Keeps.local (s0 := s0) hx ?_ fun k => ?_ | skip)
    | with_reducible apply State.Keeps.ite
    | fail_if_no_progress (with_reducible apply State.Keeps.rest)
    | dsimp only
    | split

theorem State.modOwn_keeps {s0 s : State} {sess : Nat} {f : SessLocal → SessLocal} (kept : s0.Keeps s) :
    s0.Keeps (State.modOwn s sess f) := by
  unfold State.modOwn
  repeat' first
    | with_reducible intro _
    | with_reducible assumption
    | with_reducible exact State.Keeps.refl _
    | (extract_lets +onlyGivenNames x; clear_value (hx : x = _); first | refine State.Keeps.local (s0 := s0) hx ?_ fun k => ?_ | skip)
    | with_reducible apply State.Keeps.ite
    | with_reducible apply State.withSess_keeps
    | fail_if_no_progress (with_reducible apply State.Keeps.rest)
    | dsimp only
    | split

theorem State.takeLock_keeps {s0 s : State} {sess : Nat} {idx : Nat} (kept : s0.Keeps s) :
    s0.Keeps (State.takeLock s sess idx) := by
  unfold State.takeLock
  repeat' first
    | with_reducible intro _
    | with_reducible assumption
    | with_reducible exact State.Keeps.refl _
    | (extract_lets +onlyGivenNames x; clear_value (hx : x = _); first | refine State.Keeps.local (s0 := s0) hx ?_ fun k => ?_ | skip)
    | with_reducible apply State.Keeps.ite
    | with_reducible apply State.withSess_keeps
    | fail_if_no_progress (with_reducible apply State.Keeps.rest)
    | dsimp only
    | split

theorem State.claimLock_keeps {s0 s : State} {sess : Nat} {idx : Nat} (kept : s0.Keeps s) :
    s0.Keeps (State.claimLock s sess idx) := by
  unfold State.claimLock
  repeat' first
    | with_reducible intro _
    | with_reducible assumption
    | with_reducible exact State.Keeps.refl _
    | (extract_lets +onlyGivenNames x; clear_value (hx : x = _); first | refine State.Keeps.local (s0 := s0) hx ?_ fun k => ?_ | skip)
    | with_reducible apply State.Keeps.ite
    | with_reducible apply State.withSess_keeps
    | fail_if_no_progress (with_reducible apply State.Keeps.rest)
    | dsimp only
    | split

theorem State.freeLock_keeps {s0 s : State} {idx : Nat} (kept : s0.Keeps s) :
    s0.Keeps (State.freeLock s idx) := by
  unfold State.freeLock
  repeat' first
    | with_reducible intro _
    | with_reducible assumption
    | with_reducible exact State.Keeps.refl _
    | (extract_lets +onlyGivenNames x; clear_value (hx : x = _); first | refine State.Keeps.local (s0 := s0) hx ?_ fun k => ?_ | skip)
    | with_reducible apply State.Keeps.ite
    | with_reducible apply State.withSess_keeps
    | fail_if_no_progress (with_reducible apply State.Keeps.rest)
    | dsimp only
    | split

theorem State.dropGroup_keeps {s0 s : State} {sess : Nat} (kept : s0.Keeps s) :
    s0.Keeps (State.dropGroup s sess) := by
  unfold State.dropGroup
  repeat' first
    | with_reducible intro _
    | with_reducible assumption
    | with_reducible exact State.Keeps.refl _
    | (extract_lets +onlyGivenNames x; clear_value (hx : x = _); first | refine State.Keeps.local (s0 := s0) hx ?_ fun k => ?_ | skip)
    | with_reducible apply State.Keeps.ite
    | with_reducible apply State.withSess_keeps
    | fail_if_no_progress (with_reducible apply State.Keeps.rest)
    | dsimp only
    | split

theorem State.dropLocks_keeps {s0 s : State} {sess : Nat} (kept : s0.Keeps s) :
    s0.Keeps (State.dropLocks s sess) := by
  unfold State.dropLocks
  repeat' first
    | with_reducible intro _
    | with_reducible assumption
    | with_reducible exact State.Keeps.refl _
    | (extract_lets +onlyGivenNames x; clear_value (hx : x = _); first | refine State.Keeps.local (s0 := s0) hx ?_ fun k => ?_ | skip)
    | with_reducible apply State.Keeps.ite
    | with_reducible apply State.withSess_keeps
    | fail_if_no_progress (with_reducible apply State.Keeps.rest)
    | dsimp only
    | split

theorem State.clearSession_keeps {s0 s : State} {sess : Nat} (kept : s0.Keeps s) :
    s0.Keeps (State.clearSession s sess) := by
  unfold State.clearSession
  repeat' first
    | with_reducible intro _
    | with_reducible assumption
    | with_reducible exact State.Keeps.refl _
    | (extract_lets +onlyGivenNames x; clear_value (hx : x = _); first | refine State.Keeps.local (s0 := s0) hx ?_ fun k => ?_ | skip)
    | with_reducible apply State.Keeps.ite
    | with_reducible apply State.decide_keeps
    | with_reducible apply State.dropLocks_keeps
    | with_reducible apply State.dropGroup_keeps
    | with_reducible apply State.withSess_keeps
    | with_reducible apply State.writeLock_keeps
    | with_reducible apply State.forEach_keeps
    | fail_if_no_progress (with_reducible apply State.Keeps.rest)
    | dsimp only
    | split

theorem State.endDalmoly_keeps {s0 s : State} {n : Nat} {cause : Nat} (kept : s0.Keeps s) :
    s0.Keeps (State.endDalmoly s n cause) := by
  unfold State.endDalmoly
  repeat' first
    | with_reducible intro _
    | with_reducible assumption
    | with_reducible exact State.Keeps.refl _
    | (extract_lets +onlyGivenNames x; clear_value (hx : x = _); first | refine State.Keeps.local (s0 := s0) hx ?_ fun k => ?_ | skip)
    | with_reducible apply State.Keeps.ite
    | with_reducible apply State.clearSession_keeps
    | with_reducible apply State.withSess_keeps
    | with_reducible apply State.event_keeps
    | fail_if_no_progress (with_reducible apply State.Keeps.rest)
    | dsimp only
    | split

theorem State.endHostSession_keeps {s0 s : State} (kept : s0.Keeps s) :
    s0.Keeps (State.endHostSession s) := by
  unfold State.endHostSession
  repeat' first
    | with_reducible intro _
    | with_reducible assumption
    | with_reducible exact State.Keeps.refl _
    | (extract_lets +onlyGivenNames x; clear_value (hx : x = _); first | refine State.Keeps.local (s0 := s0) hx ?_ fun k => ?_ | skip)
    | with_reducible apply State.Keeps.ite
    | with_reducible apply State.clearSession_keeps
    | fail_if_no_progress (with_reducible apply State.Keeps.rest)
    | dsimp only
    | split

theorem State.quenchSession_keeps {s0 s : State} {sess : Nat} (kept : s0.Keeps s) :
    s0.Keeps (State.quenchSession s sess) := by
  unfold State.quenchSession
  repeat' first
    | with_reducible intro _
    | with_reducible assumption
    | with_reducible exact State.Keeps.refl _
    | (extract_lets +onlyGivenNames x; clear_value (hx : x = _); first | refine State.Keeps.local (s0 := s0) hx ?_ fun k => ?_ | skip)
    | with_reducible apply State.Keeps.ite
    | with_reducible apply State.endDalmoly_keeps
    | with_reducible apply State.clearSession_keeps
    | with_reducible apply State.withSess_keeps
    | fail_if_no_progress (with_reducible apply State.Keeps.rest)
    | dsimp only
    | split

theorem State.wardenLost_keeps {s0 s : State} (kept : s0.Keeps s) :
    s0.Keeps (State.wardenLost s) := by
  unfold State.wardenLost
  repeat' first
    | with_reducible intro _
    | with_reducible assumption
    | with_reducible exact State.Keeps.refl _
    | (extract_lets +onlyGivenNames x; clear_value (hx : x = _); first | refine State.Keeps.local (s0 := s0) hx ?_ fun k => ?_ | skip)
    | with_reducible apply State.Keeps.ite
    | with_reducible apply State.endDalmoly_keeps
    | with_reducible apply State.clearSession_keeps
    | with_reducible apply State.withSess_keeps
    | with_reducible apply State.forEach_keeps
    | fail_if_no_progress (with_reducible apply State.Keeps.rest)
    | dsimp only
    | split

end Sys2Proof.Machine
end

