-- ==== Sys2Proof/Laws/KeepsRestart.lean ====
section
/-! SUPPORT. What the definitions of Machine/Restart keep (`State.Keeps`). -/

set_option linter.unusedTactic false
set_option linter.unreachableTactic false

namespace Sys2Proof.Machine

theorem State.loseFrames_keeps {s0 s : State} {ids : List Nat} (kept : s0.Keeps s) :
    s0.Keeps (State.loseFrames s ids) := by
  unfold State.loseFrames
  repeat' first
    | with_reducible intro _
    | with_reducible assumption
    | with_reducible exact State.Keeps.refl _
    | (extract_lets +onlyGivenNames x; clear_value (hx : x = _); first | refine State.Keeps.local (s0 := s0) hx ?_ fun k => ?_ | skip)
    | with_reducible apply State.Keeps.ite
    | with_reducible apply State.withCrypto_keeps
    | with_reducible apply State.withFw_keeps
    | with_reducible apply State.eraseFrame_keeps
    | with_reducible apply State.forEach_keeps
    | fail_if_no_progress (with_reducible apply State.Keeps.rest)
    | dsimp only
    | split

theorem State.loseIngress_keeps {s0 s : State} {g : Nat} (kept : s0.Keeps s) :
    s0.Keeps (State.loseIngress s g) := by
  unfold State.loseIngress
  repeat' first
    | with_reducible intro _
    | with_reducible assumption
    | with_reducible exact State.Keeps.refl _
    | (extract_lets +onlyGivenNames x; clear_value (hx : x = _); first | refine State.Keeps.local (s0 := s0) hx ?_ fun k => ?_ | skip)
    | with_reducible apply State.Keeps.ite
    | with_reducible apply State.loseFrames_keeps
    | with_reducible apply State.closeTx_keeps
    | with_reducible apply State.withRoute_keeps
    | with_reducible apply State.modFrame_keeps
    | with_reducible apply State.withBuf_keeps
    | with_reducible apply State.forEach_keeps
    | with_reducible apply State.wr_keeps
    | with_reducible apply State.Keeps.id
    | fail_if_no_progress (with_reducible apply State.Keeps.rest)
    | dsimp only
    | split

theorem State.loseCells_keeps {s0 s : State} {bank : Nat} (kept : s0.Keeps s) :
    s0.Keeps (State.loseCells s bank) := by
  unfold State.loseCells
  repeat' first
    | with_reducible intro _
    | with_reducible assumption
    | with_reducible exact State.Keeps.refl _
    | (extract_lets +onlyGivenNames x; clear_value (hx : x = _); first | refine State.Keeps.local (s0 := s0) hx ?_ fun k => ?_ | skip)
    | with_reducible apply State.Keeps.ite
    | with_reducible apply State.markPoison_keeps
    | with_reducible apply State.forEach_keeps
    | fail_if_no_progress (with_reducible apply State.Keeps.rest)
    | dsimp only
    | split

theorem State.loseQueues_keeps {s0 s : State} {p : Nat} (kept : s0.Keeps s) :
    s0.Keeps (State.loseQueues s p) := by
  unfold State.loseQueues
  repeat' first
    | with_reducible intro _
    | with_reducible assumption
    | with_reducible exact State.Keeps.refl _
    | (extract_lets +onlyGivenNames x; clear_value (hx : x = _); first | refine State.Keeps.local (s0 := s0) hx ?_ fun k => ?_ | skip)
    | with_reducible apply State.Keeps.ite
    | with_reducible apply State.withCrypto_keeps
    | with_reducible apply State.endStomped_keeps
    | with_reducible apply State.modPtm_keeps
    | with_reducible apply State.dropRef_keeps
    | with_reducible apply State.forEach_keeps
    | with_reducible apply State.Keeps.id
    | fail_if_no_progress (with_reducible apply State.Keeps.rest)
    | dsimp only
    | split

theorem State.loseEgress_keeps {s0 s : State} {g : Nat} (kept : s0.Keeps s) :
    s0.Keeps (State.loseEgress s g) := by
  unfold State.loseEgress
  repeat' first
    | with_reducible intro _
    | with_reducible assumption
    | with_reducible exact State.Keeps.refl _
    | (extract_lets +onlyGivenNames x; clear_value (hx : x = _); first | refine State.Keeps.local (s0 := s0) hx ?_ fun k => ?_ | skip)
    | with_reducible apply State.Keeps.ite
    | with_reducible apply State.loseQueues_keeps
    | with_reducible apply State.forEach_keeps
    | fail_if_no_progress (with_reducible apply State.Keeps.rest)
    | dsimp only
    | split

theorem State.loseCluster_keeps {s0 s : State} {k : Nat} {retain : Bool} (kept : s0.Keeps s) :
    s0.Keeps (State.loseCluster s k retain) := by
  unfold State.loseCluster
  repeat' first
    | with_reducible intro _
    | with_reducible assumption
    | with_reducible exact State.Keeps.refl _
    | (extract_lets +onlyGivenNames x; clear_value (hx : x = _); first | refine State.Keeps.local (s0 := s0) hx ?_ fun k => ?_ | skip)
    | with_reducible apply State.Keeps.ite
    | with_reducible apply State.startOps_keeps
    | with_reducible apply State.withCrypto_keeps
    | fail_if_no_progress (with_reducible apply State.Keeps.rest)
    | dsimp only
    | split

theorem State.loseEngine_keeps {s0 s : State} {e : Nat} (kept : s0.Keeps s) :
    s0.Keeps (State.loseEngine s e) := by
  unfold State.loseEngine
  repeat' first
    | with_reducible intro _
    | with_reducible assumption
    | with_reducible exact State.Keeps.refl _
    | (extract_lets +onlyGivenNames x; clear_value (hx : x = _); first | refine State.Keeps.local (s0 := s0) hx ?_ fun k => ?_ | skip)
    | with_reducible apply State.Keeps.ite
    | with_reducible apply State.gwDispatch_keeps
    | with_reducible apply State.withGw_keeps
    | with_reducible apply State.forEach_keeps
    | fail_if_no_progress (with_reducible apply State.Keeps.rest)
    | dsimp only
    | split

theorem State.loseChannel_keeps {s0 s : State} {c : Nat} (kept : s0.Keeps s) :
    s0.Keeps (State.loseChannel s c) := by
  unfold State.loseChannel
  repeat' first
    | with_reducible intro _
    | with_reducible assumption
    | with_reducible exact State.Keeps.refl _
    | (extract_lets +onlyGivenNames x; clear_value (hx : x = _); first | refine State.Keeps.local (s0 := s0) hx ?_ fun k => ?_ | skip)
    | with_reducible apply State.Keeps.ite
    | with_reducible apply State.dropHead_keeps
    | with_reducible apply State.chCount_keeps
    | with_reducible apply State.modCh_keeps
    | with_reducible apply State.forEach_keeps
    | with_reducible apply State.setWin_keeps
    | with_reducible apply State.wrB_keeps
    | with_reducible apply State.wr_keeps
    | fail_if_no_progress (with_reducible apply State.Keeps.rest)
    | dsimp only
    | split

theorem State.loseDelivery_keeps {s0 s : State} {p : Nat} (kept : s0.Keeps s) :
    s0.Keeps (State.loseDelivery s p) := by
  unfold State.loseDelivery
  repeat' first
    | with_reducible intro _
    | with_reducible assumption
    | with_reducible exact State.Keeps.refl _
    | (extract_lets +onlyGivenNames x; clear_value (hx : x = _); first | refine State.Keeps.local (s0 := s0) hx ?_ fun k => ?_ | skip)
    | with_reducible apply State.Keeps.ite
    | with_reducible apply State.dropRef_keeps
    | with_reducible apply State.withBuf_keeps
    | with_reducible apply State.forEach_keeps
    | with_reducible apply State.Keeps.id
    | fail_if_no_progress (with_reducible apply State.Keeps.rest)
    | dsimp only
    | split

theorem State.loseContents_keeps {s0 s : State} {n : Nat} {retain : Bool} (kept : s0.Keeps s) :
    s0.Keeps (State.loseContents s n retain) := by
  unfold State.loseContents
  repeat' first
    | with_reducible intro _
    | with_reducible assumption
    | with_reducible exact State.Keeps.refl _
    | (extract_lets +onlyGivenNames x; clear_value (hx : x = _); first | refine State.Keeps.local (s0 := s0) hx ?_ fun k => ?_ | skip)
    | with_reducible apply State.Keeps.ite
    | with_reducible apply State.loseDelivery_keeps
    | with_reducible apply State.loseChannel_keeps
    | with_reducible apply State.loseEngine_keeps
    | with_reducible apply State.loseCluster_keeps
    | with_reducible apply State.loseEgress_keeps
    | with_reducible apply State.loseCells_keeps
    | with_reducible apply State.loseIngress_keeps
    | with_reducible apply State.wardenLost_keeps
    | with_reducible apply State.endHostSession_keeps
    | with_reducible apply State.clearRings_keeps
    | with_reducible apply State.pcieLink_keeps
    | with_reducible apply State.endReads_keeps
    | with_reducible apply State.dropPrefetches_keeps
    | with_reducible apply State.withKey_keeps
    | with_reducible apply State.dropLink_keeps
    | with_reducible apply State.withFw_keeps
    | with_reducible apply State.emptyBank_keeps
    | with_reducible apply State.forEach_keeps
    | with_reducible apply State.wr_keeps
    | fail_if_no_progress (with_reducible apply State.Keeps.rest)
    | dsimp only
    | split

theorem State.reloadShadow_keeps {s0 s : State} (kept : s0.Keeps s) :
    s0.Keeps (State.reloadShadow s) := by
  unfold State.reloadShadow
  repeat' first
    | with_reducible intro _
    | with_reducible assumption
    | with_reducible exact State.Keeps.refl _
    | (extract_lets +onlyGivenNames x; clear_value (hx : x = _); first | refine State.Keeps.local (s0 := s0) hx ?_ fun k => ?_ | skip)
    | with_reducible apply State.Keeps.ite
    | with_reducible apply State.copyHalf_keeps
    | with_reducible apply State.wr_keeps
    | fail_if_no_progress (with_reducible apply State.Keeps.rest)
    | dsimp only
    | split

theorem State.regain_keeps {s0 s : State} {n : Nat} {retain : Bool} (kept : s0.Keeps s) :
    s0.Keeps (State.regain s n retain) := by
  unfold State.regain
  repeat' first
    | with_reducible intro _
    | with_reducible assumption
    | with_reducible exact State.Keeps.refl _
    | (extract_lets +onlyGivenNames x; clear_value (hx : x = _); first | refine State.Keeps.local (s0 := s0) hx ?_ fun k => ?_ | skip)
    | with_reducible apply State.Keeps.ite
    | with_reducible apply State.reloadShadow_keeps
    | with_reducible apply State.applyMode_keeps
    | with_reducible apply State.startOps_keeps
    | with_reducible apply State.withCrypto_keeps
    | with_reducible apply State.timeUnitReturn_keeps
    | with_reducible apply State.forEach_keeps
    | with_reducible apply State.Keeps.id
    | fail_if_no_progress (with_reducible apply State.Keeps.rest)
    | dsimp only
    | split

theorem State.endSeq_keeps {s0 s : State} {n : Nat} {result : Nat} (kept : s0.Keeps s) :
    s0.Keeps (State.endSeq s n result) := by
  unfold State.endSeq
  repeat' first
    | with_reducible intro _
    | with_reducible assumption
    | with_reducible exact State.Keeps.refl _
    | (extract_lets +onlyGivenNames x; clear_value (hx : x = _); first | refine State.Keeps.local (s0 := s0) hx ?_ fun k => ?_ | skip)
    | with_reducible apply State.Keeps.ite
    | with_reducible apply State.endCommand_keeps
    | with_reducible apply State.dropSeq_keeps
    | fail_if_no_progress (with_reducible apply State.Keeps.rest)
    | dsimp only
    | split

theorem State.moveCells_keeps {s0 s : State} {k : Nat} {spare : Nat} (kept : s0.Keeps s) :
    s0.Keeps (State.moveCells s k spare) := by
  unfold State.moveCells
  repeat' first
    | with_reducible intro _
    | with_reducible assumption
    | with_reducible exact State.Keeps.refl _
    | (extract_lets +onlyGivenNames x; clear_value (hx : x = _); first | refine State.Keeps.local (s0 := s0) hx ?_ fun k => ?_ | skip)
    | with_reducible apply State.Keeps.ite
    | with_reducible apply State.withBuf_keeps
    | fail_if_no_progress (with_reducible apply State.Keeps.rest)
    | dsimp only
    | split

theorem State.freshUnit_keeps {s0 s : State} {n : Nat} {u : Nat} (kept : s0.Keeps s) :
    s0.Keeps (State.freshUnit s n u) := by
  unfold State.freshUnit
  repeat' first
    | with_reducible intro _
    | with_reducible assumption
    | with_reducible exact State.Keeps.refl _
    | (extract_lets +onlyGivenNames x; clear_value (hx : x = _); first | refine State.Keeps.local (s0 := s0) hx ?_ fun k => ?_ | skip)
    | with_reducible apply State.Keeps.ite
    | with_reducible apply State.withCar_keeps
    | fail_if_no_progress (with_reducible apply State.Keeps.rest)
    | dsimp only
    | split

theorem State.endSplit_keeps {s0 s : State} {n : Nat} (kept : s0.Keeps s) :
    s0.Keeps (State.endSplit s n) := by
  unfold State.endSplit
  repeat' first
    | with_reducible intro _
    | with_reducible assumption
    | with_reducible exact State.Keeps.refl _
    | (extract_lets +onlyGivenNames x; clear_value (hx : x = _); first | refine State.Keeps.local (s0 := s0) hx ?_ fun k => ?_ | skip)
    | with_reducible apply State.Keeps.ite
    | with_reducible apply State.wrB_keeps
    | with_reducible apply State.wrF_keeps
    | fail_if_no_progress (with_reducible apply State.Keeps.rest)
    | dsimp only
    | split

theorem State.coverSplit_keeps {s0 s : State} {n : Nat} {reason : Nat} (kept : s0.Keeps s) :
    s0.Keeps (State.coverSplit s n reason) := by
  unfold State.coverSplit
  repeat' first
    | with_reducible intro _
    | with_reducible assumption
    | with_reducible exact State.Keeps.refl _
    | (extract_lets +onlyGivenNames x; clear_value (hx : x = _); first | refine State.Keeps.local (s0 := s0) hx ?_ fun k => ?_ | (have g := State.regs x.2; clear g; subst hx) | skip)
    | with_reducible apply State.Keeps.ite
    | with_reducible apply State.draw_keeps
    | with_reducible apply State.event_keeps
    | with_reducible apply State.bump_keeps
    | with_reducible apply State.wrB_keeps
    | with_reducible apply State.wrF_keeps
    | fail_if_no_progress (with_reducible apply State.Keeps.rest)
    | dsimp only
    | refine State.Keeps.of_snd ‹_ = (_, _)› ?_
    | split

theorem State.pairFence_keeps {s0 s : State} {n : Nat} {reason : Nat} (kept : s0.Keeps s) :
    s0.Keeps (State.pairFence s n reason) := by
  unfold State.pairFence
  repeat' first
    | with_reducible intro _
    | with_reducible assumption
    | with_reducible exact State.Keeps.refl _
    | (extract_lets +onlyGivenNames x; clear_value (hx : x = _); first | refine State.Keeps.local (s0 := s0) hx ?_ fun k => ?_ | skip)
    | with_reducible apply State.Keeps.ite
    | with_reducible apply State.coverSplit_keeps
    | with_reducible apply State.endSplit_keeps
    | with_reducible apply State.bump_keeps
    | fail_if_no_progress (with_reducible apply State.Keeps.rest)
    | dsimp only
    | split

theorem State.fenceSeq_keeps {s0 s : State} {q : CarSeq} (kept : s0.Keeps s) :
    s0.Keeps (State.fenceSeq s q) := by
  unfold State.fenceSeq
  repeat' first
    | with_reducible intro _
    | with_reducible assumption
    | with_reducible exact State.Keeps.refl _
    | (extract_lets +onlyGivenNames x; clear_value (hx : x = _); first | refine State.Keeps.local (s0 := s0) hx ?_ fun k => ?_ | skip)
    | with_reducible apply State.Keeps.ite
    | with_reducible apply State.pairFence_keeps
    | with_reducible apply State.freshUnit_keeps
    | with_reducible apply State.endSeq_keeps
    | with_reducible apply State.loseContents_keeps
    | with_reducible apply State.exhausted_keeps
    | with_reducible apply State.fenceSteps_keeps
    | with_reducible apply State.becomePresent_keeps
    | with_reducible apply State.putSeq_keeps
    | with_reducible apply State.repairWindow_keeps
    | with_reducible apply State.setCar_keeps
    | with_reducible apply State.event_keeps
    | fail_if_no_progress (with_reducible apply State.Keeps.rest)
    | dsimp only
    | split

theorem State.beginDrain_keeps {s0 s : State} {q : CarSeq} (kept : s0.Keeps s) :
    s0.Keeps (State.beginDrain s q) := by
  unfold State.beginDrain
  repeat' first
    | with_reducible intro _
    | with_reducible assumption
    | with_reducible exact State.Keeps.refl _
    | (extract_lets +onlyGivenNames x; clear_value (hx : x = _); first | refine State.Keeps.local (s0 := s0) hx ?_ fun k => ?_ | skip)
    | with_reducible apply State.Keeps.ite
    | with_reducible apply State.fenceSeq_keeps
    | with_reducible apply State.putSeq_keeps
    | with_reducible apply State.setCar_keeps
    | with_reducible apply State.bump_keeps
    | with_reducible apply State.wrF_keeps
    | fail_if_no_progress (with_reducible apply State.Keeps.rest)
    | dsimp only
    | split

theorem State.restart_keeps {s0 s : State} {n : Nat} {reason : Nat} {limit : Nat} (kept : s0.Keeps s) :
    s0.Keeps (State.restart s n reason limit) := by
  unfold State.restart
  repeat' first
    | with_reducible intro _
    | with_reducible assumption
    | with_reducible exact State.Keeps.refl _
    | (extract_lets +onlyGivenNames x; clear_value (hx : x = _); first | refine State.Keeps.local (s0 := s0) hx ?_ fun k => ?_ | skip)
    | with_reducible apply State.Keeps.ite
    | with_reducible apply State.fenceSeq_keeps
    | with_reducible apply State.restartCarriage_keeps
    | fail_if_no_progress (with_reducible apply State.Keeps.rest)
    | dsimp only
    | split

theorem State.abortContext_keeps {s0 s : State} {o : CryptoOp} (kept : s0.Keeps s) :
    s0.Keeps (State.abortContext s o) := by
  unfold State.abortContext
  repeat' first
    | with_reducible intro _
    | with_reducible assumption
    | with_reducible exact State.Keeps.refl _
    | (extract_lets +onlyGivenNames x; clear_value (hx : x = _); first | refine State.Keeps.local (s0 := s0) hx ?_ fun k => ?_ | skip)
    | with_reducible apply State.Keeps.ite
    | with_reducible apply State.abortOp_keeps
    | with_reducible apply State.recFail_keeps
    | with_reducible apply State.refuseHeld_keeps
    | fail_if_no_progress (with_reducible apply State.Keeps.rest)
    | dsimp only
    | split

theorem State.moveContexts_keeps {s0 s : State} {k : Nat} {e : Nat} (kept : s0.Keeps s) :
    s0.Keeps (State.moveContexts s k e) := by
  unfold State.moveContexts
  repeat' first
    | with_reducible intro _
    | with_reducible assumption
    | with_reducible exact State.Keeps.refl _
    | (extract_lets +onlyGivenNames x; clear_value (hx : x = _); first | refine State.Keeps.local (s0 := s0) hx ?_ fun k => ?_ | skip)
    | with_reducible apply State.Keeps.ite
    | with_reducible apply State.decide_keeps
    | with_reducible apply State.abortContext_keeps
    | with_reducible apply State.withCrypto_keeps
    | with_reducible apply State.forEach_keeps
    | fail_if_no_progress (with_reducible apply State.Keeps.rest)
    | dsimp only
    | split

theorem State.takeOut_keeps {s0 s : State} {n : Nat} {u : Nat} (kept : s0.Keeps s) :
    s0.Keeps (State.takeOut s n u) := by
  unfold State.takeOut
  repeat' first
    | with_reducible intro _
    | with_reducible assumption
    | with_reducible exact State.Keeps.refl _
    | (extract_lets +onlyGivenNames x; clear_value (hx : x = _); first | refine State.Keeps.local (s0 := s0) hx ?_ fun k => ?_ | skip)
    | with_reducible apply State.Keeps.ite
    | with_reducible apply State.moveContexts_keeps
    | with_reducible apply State.freshUnit_keeps
    | with_reducible apply State.chCount_keeps
    | with_reducible apply State.modCh_keeps
    | with_reducible apply State.exhausted_keeps
    | with_reducible apply State.withCar_keeps
    | with_reducible apply State.wrB_keeps
    | fail_if_no_progress (with_reducible apply State.Keeps.rest)
    | dsimp only
    | split

theorem State.claimSpare_keeps {s0 s : State} {n : Nat} (kept : s0.Keeps s) :
    s0.Keeps (State.claimSpare s n).2 := by
  unfold State.claimSpare
  repeat' first
    | with_reducible intro _
    | with_reducible assumption
    | with_reducible exact State.Keeps.refl _
    | (extract_lets +onlyGivenNames x; clear_value (hx : x = _); first | refine State.Keeps.local (s0 := s0) hx ?_ fun k => ?_ | skip)
    | with_reducible apply State.Keeps.ite
    | with_reducible apply State.abandonTest_keeps
    | with_reducible apply State.Keeps.ite_snd
    | fail_if_no_progress (with_reducible apply State.Keeps.rest)
    | dsimp only
    | split

theorem State.lastReason_keeps {s0 s : State} {n : Nat} {reason : Nat} (kept : s0.Keeps s) :
    s0.Keeps (State.lastReason s n reason) := by
  unfold State.lastReason
  repeat' first
    | with_reducible intro _
    | with_reducible assumption
    | with_reducible exact State.Keeps.refl _
    | (extract_lets +onlyGivenNames x; clear_value (hx : x = _); first | refine State.Keeps.local (s0 := s0) hx ?_ fun k => ?_ | skip)
    | with_reducible apply State.Keeps.ite
    | with_reducible apply State.wrF_keeps
    | fail_if_no_progress (with_reducible apply State.Keeps.rest)
    | dsimp only
    | split

theorem State.swapEngine_keeps {s0 s : State} {n : Nat} {u : Nat} {reason : Nat} (kept : s0.Keeps s) :
    s0.Keeps (State.swapEngine s n u reason) := by
  unfold State.swapEngine
  repeat' first
    | with_reducible intro _
    | with_reducible assumption
    | with_reducible exact State.Keeps.refl _
    | (extract_lets +onlyGivenNames x; clear_value (hx : x = _); first | refine State.Keeps.local (s0 := s0) hx ?_ fun k => ?_ | (have g := State.regs x.2; clear g; subst hx) | skip)
    | with_reducible apply State.Keeps.ite
    | with_reducible apply State.lastReason_keeps
    | with_reducible apply State.claimSpare_keeps
    | with_reducible apply State.takeOut_keeps
    | with_reducible apply State.freshUnit_keeps
    | with_reducible apply State.repairWindow_keeps
    | with_reducible apply State.withCar_keeps
    | with_reducible apply State.event_keeps
    | fail_if_no_progress (with_reducible apply State.Keeps.rest)
    | dsimp only
    | refine State.Keeps.of_snd ‹_ = (_, _)› ?_
    | split

theorem State.swapController_keeps {s0 s : State} {n : Nat} {u : Nat} {reason : Nat} {spare : Nat} {cmd : Bool} (kept : s0.Keeps s) :
    s0.Keeps (State.swapController s n u reason spare cmd) := by
  unfold State.swapController
  repeat' first
    | with_reducible intro _
    | with_reducible assumption
    | with_reducible exact State.Keeps.refl _
    | (extract_lets +onlyGivenNames x; clear_value (hx : x = _); first | refine State.Keeps.local (s0 := s0) hx ?_ fun k => ?_ | skip)
    | with_reducible apply State.Keeps.ite
    | with_reducible apply State.decide_keeps
    | with_reducible apply State.lastReason_keeps
    | with_reducible apply State.chCount_keeps
    | with_reducible apply State.modCh_keeps
    | with_reducible apply State.startSeq_keeps
    | with_reducible apply State.wrB_keeps
    | fail_if_no_progress (with_reducible apply State.Keeps.rest)
    | dsimp only
    | split

theorem State.swapUnit_keeps {s0 s : State} {n : Nat} {u : Nat} {reason : Nat} (kept : s0.Keeps s) :
    s0.Keeps (State.swapUnit s n u reason) := by
  unfold State.swapUnit
  repeat' first
    | with_reducible intro _
    | with_reducible assumption
    | with_reducible exact State.Keeps.refl _
    | (extract_lets +onlyGivenNames x; clear_value (hx : x = _); first | refine State.Keeps.local (s0 := s0) hx ?_ fun k => ?_ | (have g := State.regs x.2; clear g; subst hx) | skip)
    | with_reducible apply State.Keeps.ite
    | with_reducible apply State.decide_keeps
    | with_reducible apply State.swapController_keeps
    | with_reducible apply State.swapEngine_keeps
    | with_reducible apply State.lastReason_keeps
    | with_reducible apply State.claimSpare_keeps
    | with_reducible apply State.takeOut_keeps
    | with_reducible apply State.abandonTest_keeps
    | with_reducible apply State.startSeq_keeps
    | with_reducible apply State.withCar_keeps
    | fail_if_no_progress (with_reducible apply State.Keeps.rest)
    | dsimp only
    | refine State.Keeps.of_snd ‹_ = (_, _)› ?_
    | split

theorem State.testUnits_keeps {s0 s : State} {n : Nat} {failed : List Nat} (kept : s0.Keeps s) :
    s0.Keeps (State.testUnits s n failed) := by
  unfold State.testUnits
  repeat' first
    | with_reducible intro _
    | with_reducible assumption
    | with_reducible exact State.Keeps.refl _
    | (extract_lets +onlyGivenNames x; clear_value (hx : x = _); first | refine State.Keeps.local (s0 := s0) hx ?_ fun k => ?_ | skip)
    | with_reducible apply State.Keeps.ite
    | with_reducible apply State.withCar_keeps
    | with_reducible apply State.forEach_keeps
    | fail_if_no_progress (with_reducible apply State.Keeps.rest)
    | dsimp only
    | split

theorem State.swapFailed_keeps {s0 s : State} {n : Nat} {failed : List Nat} (kept : s0.Keeps s) :
    s0.Keeps (State.swapFailed s n failed) := by
  unfold State.swapFailed
  repeat' first
    | with_reducible intro _
    | with_reducible assumption
    | with_reducible exact State.Keeps.refl _
    | (extract_lets +onlyGivenNames x; clear_value (hx : x = _); first | refine State.Keeps.local (s0 := s0) hx ?_ fun k => ?_ | skip)
    | with_reducible apply State.Keeps.ite
    | with_reducible apply State.decide_keeps
    | with_reducible apply State.swapUnit_keeps
    | with_reducible apply State.forEach_keeps
    | fail_if_no_progress (with_reducible apply State.Keeps.rest)
    | dsimp only
    | split

theorem State.testEvent_keeps {s0 s : State} {q : CarSeq} {pass : Bool} {failed : List Nat} (kept : s0.Keeps s) :
    s0.Keeps (State.testEvent s q pass failed) := by
  unfold State.testEvent
  repeat' first
    | with_reducible intro _
    | with_reducible assumption
    | with_reducible exact State.Keeps.refl _
    | (extract_lets +onlyGivenNames x; clear_value (hx : x = _); first | refine State.Keeps.local (s0 := s0) hx ?_ fun k => ?_ | skip)
    | with_reducible apply State.Keeps.ite
    | with_reducible apply State.pass_keeps
    | with_reducible apply State.event_keeps
    | fail_if_no_progress (with_reducible apply State.Keeps.rest)
    | dsimp only
    | split

theorem State.returnSeq_keeps {s0 s : State} {n : Nat} {reason : Nat} {failed : List Nat} (kept : s0.Keeps s) :
    s0.Keeps (State.returnSeq s n reason failed) := by
  unfold State.returnSeq
  repeat' first
    | with_reducible intro _
    | with_reducible assumption
    | with_reducible exact State.Keeps.refl _
    | (extract_lets +onlyGivenNames x; clear_value (hx : x = _); first | refine State.Keeps.local (s0 := s0) hx ?_ fun k => ?_ | skip)
    | with_reducible apply State.Keeps.ite
    | with_reducible apply State.swapFailed_keeps
    | with_reducible apply State.endSeq_keeps
    | with_reducible apply State.regain_keeps
    | with_reducible apply State.becomePresent_keeps
    | fail_if_no_progress (with_reducible apply State.Keeps.rest)
    | dsimp only
    | split

theorem State.leaveFailed_keeps {s0 s : State} {q : CarSeq} (kept : s0.Keeps s) :
    s0.Keeps (State.leaveFailed s q) := by
  unfold State.leaveFailed
  repeat' first
    | with_reducible intro _
    | with_reducible assumption
    | with_reducible exact State.Keeps.refl _
    | (extract_lets +onlyGivenNames x; clear_value (hx : x = _); first | refine State.Keeps.local (s0 := s0) hx ?_ fun k => ?_ | skip)
    | with_reducible apply State.Keeps.ite
    | with_reducible apply State.endSeq_keeps
    | with_reducible apply State.exhausted_keeps
    | with_reducible apply State.setCar_keeps
    | fail_if_no_progress (with_reducible apply State.Keeps.rest)
    | dsimp only
    | split

theorem State.actionEnd_keeps {s0 s : State} {q : CarSeq} {pass : Bool} {failed : List Nat} (kept : s0.Keeps s) :
    s0.Keeps (State.actionEnd s q pass failed) := by
  unfold State.actionEnd
  repeat' first
    | with_reducible intro _
    | with_reducible assumption
    | with_reducible exact State.Keeps.refl _
    | (extract_lets +onlyGivenNames x; clear_value (hx : x = _); first | refine State.Keeps.local (s0 := s0) hx ?_ fun k => ?_ | skip)
    | with_reducible apply State.Keeps.ite
    | with_reducible apply State.leaveFailed_keeps
    | with_reducible apply State.returnSeq_keeps
    | with_reducible apply State.testEvent_keeps
    | with_reducible apply State.testUnits_keeps
    | with_reducible apply State.endSeq_keeps
    | with_reducible apply State.pass_keeps
    | with_reducible apply State.setCar_keeps
    | fail_if_no_progress (with_reducible apply State.Keeps.rest)
    | dsimp only
    | split

theorem State.refuseCommand_keeps {s0 s : State} {result : Nat} {misfit : Nat} (kept : s0.Keeps s) :
    s0.Keeps (State.refuseCommand s result misfit) := by
  unfold State.refuseCommand
  repeat' first
    | with_reducible intro _
    | with_reducible assumption
    | with_reducible exact State.Keeps.refl _
    | (extract_lets +onlyGivenNames x; clear_value (hx : x = _); first | refine State.Keeps.local (s0 := s0) hx ?_ fun k => ?_ | skip)
    | with_reducible apply State.Keeps.ite
    | with_reducible apply State.wr_keeps
    | fail_if_no_progress (with_reducible apply State.Keeps.rest)
    | dsimp only
    | split

theorem State.startRetire_keeps {s0 s : State} {n : Nat} (kept : s0.Keeps s) :
    s0.Keeps (State.startRetire s n) := by
  unfold State.startRetire
  repeat' first
    | with_reducible intro _
    | with_reducible assumption
    | with_reducible exact State.Keeps.refl _
    | (extract_lets +onlyGivenNames x; clear_value (hx : x = _); first | refine State.Keeps.local (s0 := s0) hx ?_ fun k => ?_ | skip)
    | with_reducible apply State.Keeps.ite
    | with_reducible apply State.refuseCommand_keeps
    | with_reducible apply State.endChain_keeps
    | with_reducible apply State.shuntOut_keeps
    | with_reducible apply State.startSeq_keeps
    | with_reducible apply State.withCar_keeps
    | with_reducible apply State.event_keeps
    | with_reducible apply State.bump_keeps
    | with_reducible apply State.wr_keeps
    | fail_if_no_progress (with_reducible apply State.Keeps.rest)
    | dsimp only
    | refine State.Keeps.of_fst ‹_ = (_, _)› ?_
    | split

theorem State.carriageCommand_keeps {s0 s : State} (kept : s0.Keeps s) :
    s0.Keeps (State.carriageCommand s) := by
  unfold State.carriageCommand
  repeat' first
    | with_reducible intro _
    | with_reducible assumption
    | with_reducible exact State.Keeps.refl _
    | (extract_lets +onlyGivenNames x; clear_value (hx : x = _); first | refine State.Keeps.local (s0 := s0) hx ?_ fun k => ?_ | (have g := fun u => State.regs (x u); clear g; subst hx) | (have g := fun u v => State.regs (x u v); clear g; subst hx) | (have g := fun u v w => State.regs (x u v w); clear g; subst hx) | (have g := fun u v w y => State.regs (x u v w y); clear g; subst hx) | (have g := State.regs x.2; clear g; subst hx) | skip)
    | with_reducible apply State.Keeps.ite
    | with_reducible apply State.decide_keeps
    | with_reducible apply State.startRetire_keeps
    | with_reducible apply State.refuseCommand_keeps
    | with_reducible apply State.swapController_keeps
    | with_reducible apply State.swapEngine_keeps
    | with_reducible apply State.lastReason_keeps
    | with_reducible apply State.claimSpare_keeps
    | with_reducible apply State.fenceSeq_keeps
    | with_reducible apply State.abandonTest_keeps
    | with_reducible apply State.endCommand_keeps
    | with_reducible apply State.startSeq_keeps
    | with_reducible apply State.withCar_keeps
    | with_reducible apply State.wr_keeps
    | fail_if_no_progress (with_reducible apply State.Keeps.rest)
    | dsimp only
    | refine State.Keeps.of_snd ‹_ = (_, _)› ?_
    | split

theorem State.startWaiting_keeps {s0 s : State} (kept : s0.Keeps s) :
    s0.Keeps (State.startWaiting s) := by
  unfold State.startWaiting
  repeat' first
    | with_reducible intro _
    | with_reducible assumption
    | with_reducible exact State.Keeps.refl _
    | (extract_lets +onlyGivenNames x; clear_value (hx : x = _); first | refine State.Keeps.local (s0 := s0) hx ?_ fun k => ?_ | skip)
    | with_reducible apply State.Keeps.ite
    | with_reducible apply State.swapUnit_keeps
    | with_reducible apply State.restart_keeps
    | with_reducible apply State.withCar_keeps
    | fail_if_no_progress (with_reducible apply State.Keeps.rest)
    | dsimp only
    | split

theorem State.testSlot_keeps {s0 s : State} (kept : s0.Keeps s) :
    s0.Keeps (State.testSlot s) := by
  unfold State.testSlot
  repeat' first
    | with_reducible intro _
    | with_reducible assumption
    | with_reducible exact State.Keeps.refl _
    | (extract_lets +onlyGivenNames x; clear_value (hx : x = _); first | refine State.Keeps.local (s0 := s0) hx ?_ fun k => ?_ | skip)
    | with_reducible apply State.Keeps.ite
    | with_reducible apply State.lastReason_keeps
    | with_reducible apply State.fenceSteps_keeps
    | with_reducible apply State.setCar_keeps
    | with_reducible apply State.withCar_keeps
    | with_reducible apply State.bump_keeps
    | fail_if_no_progress (with_reducible apply State.Keeps.rest)
    | dsimp only
    | split

theorem State.testDone_keeps {s0 s : State} {pass : Bool} (kept : s0.Keeps s) :
    s0.Keeps (State.testDone s pass) := by
  unfold State.testDone
  repeat' first
    | with_reducible intro _
    | with_reducible assumption
    | with_reducible exact State.Keeps.refl _
    | (extract_lets +onlyGivenNames x; clear_value (hx : x = _); first | refine State.Keeps.local (s0 := s0) hx ?_ fun k => ?_ | skip)
    | with_reducible apply State.Keeps.ite
    | with_reducible apply State.regain_keeps
    | with_reducible apply State.pass_keeps
    | with_reducible apply State.exhausted_keeps
    | with_reducible apply State.becomePresent_keeps
    | with_reducible apply State.setCar_keeps
    | with_reducible apply State.withCar_keeps
    | with_reducible apply State.event_keeps
    | with_reducible apply State.bump_keeps
    | fail_if_no_progress (with_reducible apply State.Keeps.rest)
    | dsimp only
    | split

theorem State.giveUpHalf_keeps {s0 s : State} (kept : s0.Keeps s) :
    s0.Keeps (State.giveUpHalf s) := by
  unfold State.giveUpHalf
  repeat' first
    | with_reducible intro _
    | with_reducible assumption
    | with_reducible exact State.Keeps.refl _
    | (extract_lets +onlyGivenNames x; clear_value (hx : x = _); first | refine State.Keeps.local (s0 := s0) hx ?_ fun k => ?_ | skip)
    | with_reducible apply State.Keeps.ite
    | with_reducible apply State.reloadShadow_keeps
    | with_reducible apply State.abandonTest_keeps
    | fail_if_no_progress (with_reducible apply State.Keeps.rest)
    | dsimp only
    | split

end Sys2Proof.Machine
end

