-- ==== Sys2Proof/Laws/KeepsControl.lean ====
section
/-! SUPPORT. What the definitions of Machine/Control keep (`State.Keeps`). -/

set_option linter.unusedTactic false
set_option linter.unreachableTactic false

namespace Sys2Proof.Machine

theorem State.withCtl_keeps {s0 s : State} {f : CtlState → CtlState} (kept : s0.Keeps s) :
    s0.Keeps (State.withCtl s f) := by
  unfold State.withCtl
  repeat' first
    | with_reducible intro _
    | with_reducible assumption
    | with_reducible exact State.Keeps.refl _
    | (extract_lets +onlyGivenNames x; clear_value (hx : x = _); first | refine State.Keeps.local (s0 := s0) hx ?_ fun k => ?_ | skip)
    | with_reducible apply State.Keeps.ite
    | fail_if_no_progress (with_reducible apply State.Keeps.rest)
    | dsimp only
    | split

theorem State.flashWrite_keeps {s0 s : State} {r : Nat} {bs : List Byte} (kept : s0.Keeps s) :
    s0.Keeps (State.flashWrite s r bs) := by
  unfold State.flashWrite
  repeat' first
    | with_reducible intro _
    | with_reducible assumption
    | with_reducible exact State.Keeps.refl _
    | (extract_lets +onlyGivenNames x; clear_value (hx : x = _); first | refine State.Keeps.local (s0 := s0) hx ?_ fun k => ?_ | skip)
    | with_reducible apply State.Keeps.ite
    | with_reducible apply State.withCtl_keeps
    | fail_if_no_progress (with_reducible apply State.Keeps.rest)
    | dsimp only
    | split

theorem State.fwReport_keeps {s0 s : State} {status : Nat} {phase : Nat} (kept : s0.Keeps s) :
    s0.Keeps (State.fwReport s status phase) := by
  unfold State.fwReport
  repeat' first
    | with_reducible intro _
    | with_reducible assumption
    | with_reducible exact State.Keeps.refl _
    | (extract_lets +onlyGivenNames x; clear_value (hx : x = _); first | refine State.Keeps.local (s0 := s0) hx ?_ fun k => ?_ | skip)
    | with_reducible apply State.Keeps.ite
    | with_reducible apply State.wr_keeps
    | fail_if_no_progress (with_reducible apply State.Keeps.rest)
    | dsimp only
    | split

theorem State.fwEnd_keeps {s0 s : State} {status : Nat} {phase : Nat} (kept : s0.Keeps s) :
    s0.Keeps (State.fwEnd s status phase) := by
  unfold State.fwEnd
  repeat' first
    | with_reducible intro _
    | with_reducible assumption
    | with_reducible exact State.Keeps.refl _
    | (extract_lets +onlyGivenNames x; clear_value (hx : x = _); first | refine State.Keeps.local (s0 := s0) hx ?_ fun k => ?_ | skip)
    | with_reducible apply State.Keeps.ite
    | with_reducible apply State.fwReport_keeps
    | with_reducible apply State.withCtl_keeps
    | with_reducible apply State.wr_keeps
    | fail_if_no_progress (with_reducible apply State.Keeps.rest)
    | dsimp only
    | split

theorem State.takeEpoch_keeps {s0 s : State} {m : List Byte} (kept : s0.Keeps s) :
    s0.Keeps (State.takeEpoch s m) := by
  unfold State.takeEpoch
  repeat' first
    | with_reducible intro _
    | with_reducible assumption
    | with_reducible exact State.Keeps.refl _
    | (extract_lets +onlyGivenNames x; clear_value (hx : x = _); first | refine State.Keeps.local (s0 := s0) hx ?_ fun k => ?_ | skip)
    | with_reducible apply State.Keeps.ite
    | with_reducible apply State.askKeys_keeps
    | with_reducible apply State.withKey_keeps
    | with_reducible apply State.forEach_keeps
    | with_reducible apply State.Keeps.id
    | fail_if_no_progress (with_reducible apply State.Keeps.rest)
    | dsimp only
    | split

theorem State.stepPair_keeps {s0 s : State} {a : FwAction} {x1 : List Nat} (kept : s0.Keeps s) :
    s0.Keeps (State.stepPair s a x1) := by
  induction x1 generalizing s a with
  | nil =>
    unfold State.stepPair
    repeat' first
      | with_reducible intro _
      | with_reducible assumption
      | with_reducible exact State.Keeps.refl _
      | (extract_lets +onlyGivenNames x; clear_value (hx : x = _); first | refine State.Keeps.local (s0 := s0) hx ?_ fun k => ?_ | skip)
      | with_reducible apply State.Keeps.ite
      | with_reducible apply State.fwReport_keeps
      | with_reducible apply State.withCtl_keeps
      | with_reducible apply State.restart_keeps
      | fail_if_no_progress (with_reducible apply State.Keeps.rest)
      | dsimp only
      | split
  | cons y r ih =>
    unfold State.stepPair
    repeat' first
      | with_reducible intro _
      | with_reducible assumption
      | with_reducible apply ih
      | with_reducible exact State.Keeps.refl _
      | (extract_lets +onlyGivenNames x; clear_value (hx : x = _); first | refine State.Keeps.local (s0 := s0) hx ?_ fun k => ?_ | skip)
      | with_reducible apply State.Keeps.ite
      | with_reducible apply State.fwReport_keeps
      | with_reducible apply State.withCtl_keeps
      | with_reducible apply State.restart_keeps
      | fail_if_no_progress (with_reducible apply State.Keeps.rest)
      | dsimp only
      | split

theorem State.fwFinish_keeps {s0 s : State} {a : FwAction} (kept : s0.Keeps s) :
    s0.Keeps (State.fwFinish s a) := by
  unfold State.fwFinish
  repeat' first
    | with_reducible intro _
    | with_reducible assumption
    | with_reducible exact State.Keeps.refl _
    | (extract_lets +onlyGivenNames x; clear_value (hx : x = _); first | refine State.Keeps.local (s0 := s0) hx ?_ fun k => ?_ | (have g := State.regs x.2; clear g; subst hx) | skip)
    | with_reducible apply State.Keeps.ite
    | with_reducible apply State.fwEnd_keeps
    | with_reducible apply State.withCtl_keeps
    | with_reducible apply State.keyClose_keeps
    | with_reducible apply State.event_keeps
    | fail_if_no_progress (with_reducible apply State.Keeps.rest)
    | dsimp only
    | refine State.Keeps.of_snd ‹_ = (_, _)› ?_
    | split

theorem State.fwAdvance_keeps {s0 s : State} {n : Nat} (kept : s0.Keeps s) :
    s0.Keeps (State.fwAdvance s n) := by
  unfold State.fwAdvance
  repeat' first
    | with_reducible intro _
    | with_reducible assumption
    | with_reducible exact State.Keeps.refl _
    | (extract_lets +onlyGivenNames x; clear_value (hx : x = _); first | refine State.Keeps.local (s0 := s0) hx ?_ fun k => ?_ | skip)
    | with_reducible apply State.Keeps.ite
    | with_reducible apply State.fwFinish_keeps
    | with_reducible apply State.stepPair_keeps
    | fail_if_no_progress (with_reducible apply State.Keeps.rest)
    | dsimp only
    | split

theorem State.fwUndo_keeps {s0 s : State} (kept : s0.Keeps s) :
    s0.Keeps (State.fwUndo s) := by
  unfold State.fwUndo
  repeat' first
    | with_reducible intro _
    | with_reducible assumption
    | with_reducible exact State.Keeps.refl _
    | (extract_lets +onlyGivenNames x; clear_value (hx : x = _); first | refine State.Keeps.local (s0 := s0) hx ?_ fun k => ?_ | skip)
    | with_reducible apply State.Keeps.ite
    | with_reducible apply State.fwFinish_keeps
    | with_reducible apply State.stepPair_keeps
    | fail_if_no_progress (with_reducible apply State.Keeps.rest)
    | dsimp only
    | split

theorem State.fwActivate_keeps {s0 s : State} (kept : s0.Keeps s) :
    s0.Keeps (State.fwActivate s) := by
  unfold State.fwActivate
  repeat' first
    | with_reducible intro _
    | with_reducible assumption
    | with_reducible exact State.Keeps.refl _
    | (extract_lets +onlyGivenNames x; clear_value (hx : x = _); first | refine State.Keeps.local (s0 := s0) hx ?_ fun k => ?_ | (have g := State.regs x.2; clear g; subst hx) | skip)
    | with_reducible apply State.Keeps.ite
    | with_reducible apply State.stepPair_keeps
    | with_reducible apply State.fwReport_keeps
    | with_reducible apply State.withCtl_keeps
    | with_reducible apply State.keyReseal_keeps
    | with_reducible apply State.wr_keeps
    | fail_if_no_progress (with_reducible apply State.Keeps.rest)
    | dsimp only
    | refine State.Keeps.of_snd ‹_ = (_, _)› ?_
    | split

theorem State.fwConfirm_keeps {s0 s : State} (kept : s0.Keeps s) :
    s0.Keeps (State.fwConfirm s) := by
  unfold State.fwConfirm
  repeat' first
    | with_reducible intro _
    | with_reducible assumption
    | with_reducible exact State.Keeps.refl _
    | (extract_lets +onlyGivenNames x; clear_value (hx : x = _); first | refine State.Keeps.local (s0 := s0) hx ?_ fun k => ?_ | (have g := State.regs x.2; clear g; subst hx) | skip)
    | with_reducible apply State.Keeps.ite
    | with_reducible apply State.fwEnd_keeps
    | with_reducible apply State.withCtl_keeps
    | with_reducible apply State.keyClose_keeps
    | with_reducible apply State.event_keeps
    | fail_if_no_progress (with_reducible apply State.Keeps.rest)
    | dsimp only
    | refine State.Keeps.of_snd ‹_ = (_, _)› ?_
    | split

theorem State.fwCommand_keeps {s0 s : State} (kept : s0.Keeps s) :
    s0.Keeps (State.fwCommand s) := by
  unfold State.fwCommand
  repeat' first
    | with_reducible intro _
    | with_reducible assumption
    | with_reducible exact State.Keeps.refl _
    | (extract_lets +onlyGivenNames x; clear_value (hx : x = _); first | refine State.Keeps.local (s0 := s0) hx ?_ fun k => ?_ | skip)
    | with_reducible apply State.Keeps.ite
    | with_reducible apply State.fwConfirm_keeps
    | with_reducible apply State.fwActivate_keeps
    | with_reducible apply State.fwFinish_keeps
    | with_reducible apply State.stepPair_keeps
    | with_reducible apply State.fwReport_keeps
    | with_reducible apply State.withCtl_keeps
    | with_reducible apply State.wrF_keeps
    | with_reducible apply State.wr_keeps
    | fail_if_no_progress (with_reducible apply State.Keeps.rest)
    | dsimp only
    | split

theorem State.eraseDone_keeps {s0 s : State} {ok : Bool} (kept : s0.Keeps s) :
    s0.Keeps (State.eraseDone s ok) := by
  unfold State.eraseDone
  repeat' first
    | with_reducible intro _
    | with_reducible assumption
    | with_reducible exact State.Keeps.refl _
    | (extract_lets +onlyGivenNames x; clear_value (hx : x = _); first | refine State.Keeps.local (s0 := s0) hx ?_ fun k => ?_ | skip)
    | with_reducible apply State.Keeps.ite
    | with_reducible apply State.fwEnd_keeps
    | with_reducible apply State.withCtl_keeps
    | fail_if_no_progress (with_reducible apply State.Keeps.rest)
    | dsimp only
    | split

theorem State.failPair_keeps {s0 s : State} {n : Nat} {cause : Nat} (kept : s0.Keeps s) :
    s0.Keeps (State.failPair s n cause) := by
  unfold State.failPair
  repeat' first
    | with_reducible intro _
    | with_reducible assumption
    | with_reducible exact State.Keeps.refl _
    | (extract_lets +onlyGivenNames x; clear_value (hx : x = _); first | refine State.Keeps.local (s0 := s0) hx ?_ fun k => ?_ | skip)
    | with_reducible apply State.Keeps.ite
    | with_reducible apply State.fwUndo_keeps
    | with_reducible apply State.fwAdvance_keeps
    | with_reducible apply State.lastReason_keeps
    | with_reducible apply State.pairFence_keeps
    | with_reducible apply State.loseContents_keeps
    | with_reducible apply State.fenceSteps_keeps
    | with_reducible apply State.endCommand_keeps
    | with_reducible apply State.dropSeq_keeps
    | with_reducible apply State.setCar_keeps
    | with_reducible apply State.event_keeps
    | with_reducible apply State.bump_keeps
    | fail_if_no_progress (with_reducible apply State.Keeps.rest)
    | dsimp only
    | split

theorem State.noteMismatch_keeps {s0 s : State} {k : Nat} (kept : s0.Keeps s) :
    s0.Keeps (State.noteMismatch s k) := by
  unfold State.noteMismatch
  repeat' first
    | with_reducible intro _
    | with_reducible assumption
    | with_reducible exact State.Keeps.refl _
    | (extract_lets +onlyGivenNames x; clear_value (hx : x = _); first | refine State.Keeps.local (s0 := s0) hx ?_ fun k => ?_ | skip)
    | with_reducible apply State.Keeps.ite
    | with_reducible apply State.withCtl_keeps
    | fail_if_no_progress (with_reducible apply State.Keeps.rest)
    | dsimp only
    | split

theorem State.mismatch_keeps {s0 s : State} {n : Nat} {ch : Nat} (kept : s0.Keeps s) :
    s0.Keeps (State.mismatch s n ch) := by
  unfold State.mismatch
  repeat' first
    | with_reducible intro _
    | with_reducible assumption
    | with_reducible exact State.Keeps.refl _
    | (extract_lets +onlyGivenNames x; clear_value (hx : x = _); first | refine State.Keeps.local (s0 := s0) hx ?_ fun k => ?_ | skip)
    | with_reducible apply State.Keeps.ite
    | with_reducible apply State.noteMismatch_keeps
    | with_reducible apply State.failPair_keeps
    | with_reducible apply State.restart_keeps
    | with_reducible apply State.event_keeps
    | with_reducible apply State.bump_keeps
    | fail_if_no_progress (with_reducible apply State.Keeps.rest)
    | dsimp only
    | split

theorem State.sequencerMismatch_keeps {s0 s : State} {ch : Nat} (kept : s0.Keeps s) :
    s0.Keeps (State.sequencerMismatch s ch) := by
  unfold State.sequencerMismatch
  repeat' first
    | with_reducible intro _
    | with_reducible assumption
    | with_reducible exact State.Keeps.refl _
    | (extract_lets +onlyGivenNames x; clear_value (hx : x = _); first | refine State.Keeps.local (s0 := s0) hx ?_ fun k => ?_ | skip)
    | with_reducible apply State.Keeps.ite
    | with_reducible apply State.noteMismatch_keeps
    | with_reducible apply State.event_keeps
    | with_reducible apply State.bump_keeps
    | fail_if_no_progress (with_reducible apply State.Keeps.rest)
    | dsimp only
    | split

theorem State.joinPair_keeps {s0 s : State} {n : Nat} {pass : Bool} {bit : Nat} {us : Nat} (kept : s0.Keeps s) :
    s0.Keeps (State.joinPair s n pass bit us) := by
  unfold State.joinPair
  repeat' first
    | with_reducible intro _
    | with_reducible assumption
    | with_reducible exact State.Keeps.refl _
    | (extract_lets +onlyGivenNames x; clear_value (hx : x = _); first | refine State.Keeps.local (s0 := s0) hx ?_ fun k => ?_ | (have g := State.regs x.2; clear g; subst hx) | skip)
    | with_reducible apply State.Keeps.ite
    | with_reducible apply State.failPair_keeps
    | with_reducible apply State.withCtl_keeps
    | with_reducible apply State.pass_keeps
    | with_reducible apply State.draw_keeps
    | with_reducible apply State.event_keeps
    | with_reducible apply State.wrF_keeps
    | fail_if_no_progress (with_reducible apply State.Keeps.rest)
    | dsimp only
    | refine State.Keeps.of_snd ‹_ = (_, _)› ?_
    | split

theorem State.pairPresent_keeps {s0 s : State} {n : Nat} {pass : Bool} {bit : Nat} {us : Nat} {joinPass : Bool} (kept : s0.Keeps s) :
    s0.Keeps (State.pairPresent s n pass bit us joinPass) := by
  unfold State.pairPresent
  repeat' first
    | with_reducible intro _
    | with_reducible assumption
    | with_reducible exact State.Keeps.refl _
    | (extract_lets +onlyGivenNames x; clear_value (hx : x = _); first | refine State.Keeps.local (s0 := s0) hx ?_ fun k => ?_ | skip)
    | with_reducible apply State.Keeps.ite
    | with_reducible apply State.measured_keeps
    | with_reducible apply State.decide_keeps
    | with_reducible apply State.joinPair_keeps
    | with_reducible apply State.failPair_keeps
    | with_reducible apply State.fwAdvance_keeps
    | with_reducible apply State.takeEpoch_keeps
    | with_reducible apply State.returnSeq_keeps
    | with_reducible apply State.pass_keeps
    | with_reducible apply State.event_keeps
    | with_reducible apply State.wrF_keeps
    | fail_if_no_progress (with_reducible apply State.Keeps.rest)
    | dsimp only
    | split

theorem State.pairLate_keeps {s0 s : State} {n : Nat} (kept : s0.Keeps s) :
    s0.Keeps (State.pairLate s n) := by
  unfold State.pairLate
  repeat' first
    | with_reducible intro _
    | with_reducible assumption
    | with_reducible exact State.Keeps.refl _
    | (extract_lets +onlyGivenNames x; clear_value (hx : x = _); first | refine State.Keeps.local (s0 := s0) hx ?_ fun k => ?_ | skip)
    | with_reducible apply State.Keeps.ite
    | with_reducible apply State.failPair_keeps
    | with_reducible apply State.fwUndo_keeps
    | with_reducible apply State.putSeq_keeps
    | with_reducible apply State.event_keeps
    | fail_if_no_progress (with_reducible apply State.Keeps.rest)
    | dsimp only
    | split

end Sys2Proof.Machine
end

