-- ==== Sys2Proof/Laws/KeepsPower.lean ====
section
/-! SUPPORT. What the definitions of Machine/Power keep (`State.Keeps`). -/

set_option linter.unusedTactic false
set_option linter.unreachableTactic false

namespace Sys2Proof.Machine

theorem State.withPower_keeps {s0 s : State} {f : PowerState → PowerState} (kept : s0.Keeps s) :
    s0.Keeps (State.withPower s f) := by
  unfold State.withPower
  repeat' first
    | with_reducible intro _
    | with_reducible assumption
    | with_reducible exact State.Keeps.refl _
    | (extract_lets +onlyGivenNames x; clear_value (hx : x = _); first | refine State.Keeps.local (s0 := s0) hx ?_ fun k => ?_ | skip)
    | with_reducible apply State.Keeps.ite
    | fail_if_no_progress (with_reducible apply State.Keeps.rest)
    | dsimp only
    | split

theorem State.enterMode_keeps {s0 s : State} {m : PowerMode} (kept : s0.Keeps s) :
    s0.Keeps (State.enterMode s m) := by
  unfold State.enterMode
  repeat' first
    | with_reducible intro _
    | with_reducible assumption
    | with_reducible exact State.Keeps.refl _
    | (extract_lets +onlyGivenNames x; clear_value (hx : x = _); first | refine State.Keeps.local (s0 := s0) hx ?_ fun k => ?_ | skip)
    | with_reducible apply State.Keeps.ite
    | with_reducible apply State.event_keeps
    | with_reducible apply State.wr_keeps
    | fail_if_no_progress (with_reducible apply State.Keeps.rest)
    | dsimp only
    | split

theorem State.standstill_keeps {s0 s : State} (kept : s0.Keeps s) :
    s0.Keeps (State.standstill s) := by
  unfold State.standstill
  repeat' first
    | with_reducible intro _
    | with_reducible assumption
    | with_reducible exact State.Keeps.refl _
    | (extract_lets +onlyGivenNames x; clear_value (hx : x = _); first | refine State.Keeps.local (s0 := s0) hx ?_ fun k => ?_ | skip)
    | with_reducible apply State.Keeps.ite
    | with_reducible apply State.withPower_keeps
    | fail_if_no_progress (with_reducible apply State.Keeps.rest)
    | dsimp only
    | split

theorem State.downCarriage_keeps {s0 s : State} {retain : Bool} {n : Nat} (kept : s0.Keeps s) :
    s0.Keeps (State.downCarriage s retain n) := by
  unfold State.downCarriage
  repeat' first
    | with_reducible intro _
    | with_reducible assumption
    | with_reducible exact State.Keeps.refl _
    | (extract_lets +onlyGivenNames x; clear_value (hx : x = _); first | refine State.Keeps.local (s0 := s0) hx ?_ fun k => ?_ | skip)
    | with_reducible apply State.Keeps.ite
    | with_reducible apply State.withPower_keeps
    | with_reducible apply State.lastReason_keeps
    | with_reducible apply State.loseContents_keeps
    | with_reducible apply State.abandonTest_keeps
    | with_reducible apply State.fenceSteps_keeps
    | with_reducible apply State.endCommand_keeps
    | with_reducible apply State.dropSeq_keeps
    | with_reducible apply State.setCar_keeps
    | with_reducible apply State.bump_keeps
    | fail_if_no_progress (with_reducible apply State.Keeps.rest)
    | dsimp only
    | split

theorem State.upCarriage_keeps {s0 s : State} {retain : Bool} {n : Nat} (kept : s0.Keeps s) :
    s0.Keeps (State.upCarriage s retain n) := by
  unfold State.upCarriage
  repeat' first
    | with_reducible intro _
    | with_reducible assumption
    | with_reducible exact State.Keeps.refl _
    | (extract_lets +onlyGivenNames x; clear_value (hx : x = _); first | refine State.Keeps.local (s0 := s0) hx ?_ fun k => ?_ | skip)
    | with_reducible apply State.Keeps.ite
    | with_reducible apply State.withPower_keeps
    | with_reducible apply State.regain_keeps
    | with_reducible apply State.becomePresent_keeps
    | fail_if_no_progress (with_reducible apply State.Keeps.rest)
    | dsimp only
    | split

theorem State.gateIosc_keeps {s0 s : State} {on : Bool} (kept : s0.Keeps s) :
    s0.Keeps (State.gateIosc s on) := by
  unfold State.gateIosc
  repeat' first
    | with_reducible intro _
    | with_reducible assumption
    | with_reducible exact State.Keeps.refl _
    | (extract_lets +onlyGivenNames x; clear_value (hx : x = _); first | refine State.Keeps.local (s0 := s0) hx ?_ fun k => ?_ | skip)
    | with_reducible apply State.Keeps.ite
    | with_reducible apply State.withPower_keeps
    | with_reducible apply State.wrB_keeps
    | fail_if_no_progress (with_reducible apply State.Keeps.rest)
    | dsimp only
    | split

theorem State.applyClocks_keeps {s0 s : State} {m : PowerMode} {hold : List Nat} {retain : Bool} (kept : s0.Keeps s) :
    s0.Keeps (State.applyClocks s m hold retain) := by
  unfold State.applyClocks
  repeat' first
    | with_reducible intro _
    | with_reducible assumption
    | with_reducible exact State.Keeps.refl _
    | (extract_lets +onlyGivenNames x; clear_value (hx : x = _); first | refine State.Keeps.local (s0 := s0) hx ?_ fun k => ?_ | skip)
    | with_reducible apply State.Keeps.ite
    | with_reducible apply State.decide_keeps
    | with_reducible apply State.gateIosc_keeps
    | with_reducible apply State.upCarriage_keeps
    | with_reducible apply State.downCarriage_keeps
    | with_reducible apply State.forEach_keeps
    | with_reducible apply State.wr_keeps
    | fail_if_no_progress (with_reducible apply State.Keeps.rest)
    | dsimp only
    | split

theorem State.reduceAccuracy_keeps {s0 s : State} (kept : s0.Keeps s) :
    s0.Keeps (State.reduceAccuracy s) := by
  unfold State.reduceAccuracy
  repeat' first
    | with_reducible intro _
    | with_reducible assumption
    | with_reducible exact State.Keeps.refl _
    | (extract_lets +onlyGivenNames x; clear_value (hx : x = _); first | refine State.Keeps.local (s0 := s0) hx ?_ fun k => ?_ | skip)
    | with_reducible apply State.Keeps.ite
    | with_reducible apply State.modCh_keeps
    | with_reducible apply State.dropLink_keeps
    | with_reducible apply State.forEach_keeps
    | with_reducible apply State.wrB_keeps
    | fail_if_no_progress (with_reducible apply State.Keeps.rest)
    | dsimp only
    | split

theorem State.fullAccuracy_keeps {s0 s : State} (kept : s0.Keeps s) :
    s0.Keeps (State.fullAccuracy s) := by
  unfold State.fullAccuracy
  repeat' first
    | with_reducible intro _
    | with_reducible assumption
    | with_reducible exact State.Keeps.refl _
    | (extract_lets +onlyGivenNames x; clear_value (hx : x = _); first | refine State.Keeps.local (s0 := s0) hx ?_ fun k => ?_ | skip)
    | with_reducible apply State.Keeps.ite
    | with_reducible apply State.applyMode_keeps
    | with_reducible apply State.forEach_keeps
    | with_reducible apply State.wrB_keeps
    | fail_if_no_progress (with_reducible apply State.Keeps.rest)
    | dsimp only
    | split

theorem State.switchReference_keeps {s0 s : State} {ref : Nat} {cause : Nat} (kept : s0.Keeps s) :
    s0.Keeps (State.switchReference s ref cause) := by
  unfold State.switchReference
  repeat' first
    | with_reducible intro _
    | with_reducible assumption
    | with_reducible exact State.Keeps.refl _
    | (extract_lets +onlyGivenNames x; clear_value (hx : x = _); first | refine State.Keeps.local (s0 := s0) hx ?_ fun k => ?_ | skip)
    | with_reducible apply State.Keeps.ite
    | with_reducible apply State.fullAccuracy_keeps
    | with_reducible apply State.reduceAccuracy_keeps
    | with_reducible apply State.event_keeps
    | with_reducible apply State.bump_keeps
    | with_reducible apply State.wrF_keeps
    | fail_if_no_progress (with_reducible apply State.Keeps.rest)
    | dsimp only
    | split

theorem State.selectReference_keeps {s0 s : State} (kept : s0.Keeps s) :
    s0.Keeps (State.selectReference s) := by
  unfold State.selectReference
  repeat' first
    | with_reducible intro _
    | with_reducible assumption
    | with_reducible exact State.Keeps.refl _
    | (extract_lets +onlyGivenNames x; clear_value (hx : x = _); first | refine State.Keeps.local (s0 := s0) hx ?_ fun k => ?_ | skip)
    | with_reducible apply State.Keeps.ite
    | with_reducible apply State.switchReference_keeps
    | fail_if_no_progress (with_reducible apply State.Keeps.rest)
    | dsimp only
    | split

theorem State.autoReturn_keeps {s0 s : State} (kept : s0.Keeps s) :
    s0.Keeps (State.autoReturn s) := by
  unfold State.autoReturn
  repeat' first
    | with_reducible intro _
    | with_reducible assumption
    | with_reducible exact State.Keeps.refl _
    | (extract_lets +onlyGivenNames x; clear_value (hx : x = _); first | refine State.Keeps.local (s0 := s0) hx ?_ fun k => ?_ | skip)
    | with_reducible apply State.Keeps.ite
    | with_reducible apply State.switchReference_keeps
    | fail_if_no_progress (with_reducible apply State.Keeps.rest)
    | dsimp only
    | split

theorem State.abandonXtal_keeps {s0 s : State} {how : Nat} (kept : s0.Keeps s) :
    s0.Keeps (State.abandonXtal s how) := by
  unfold State.abandonXtal
  repeat' first
    | with_reducible intro _
    | with_reducible assumption
    | with_reducible exact State.Keeps.refl _
    | (extract_lets +onlyGivenNames x; clear_value (hx : x = _); first | refine State.Keeps.local (s0 := s0) hx ?_ fun k => ?_ | skip)
    | with_reducible apply State.Keeps.ite
    | with_reducible apply State.withPower_keeps
    | with_reducible apply State.wrF_keeps
    | with_reducible apply State.wr_keeps
    | fail_if_no_progress (with_reducible apply State.Keeps.rest)
    | dsimp only
    | split

theorem State.restartDomain_keeps {s0 s : State} {n : Nat} (kept : s0.Keeps s) :
    s0.Keeps (State.restartDomain s n) := by
  unfold State.restartDomain
  repeat' first
    | with_reducible intro _
    | with_reducible assumption
    | with_reducible exact State.Keeps.refl _
    | (extract_lets +onlyGivenNames x; clear_value (hx : x = _); first | refine State.Keeps.local (s0 := s0) hx ?_ fun k => ?_ | skip)
    | with_reducible apply State.Keeps.ite
    | with_reducible apply State.lastReason_keeps
    | with_reducible apply State.pairFence_keeps
    | with_reducible apply State.regain_keeps
    | with_reducible apply State.loseContents_keeps
    | with_reducible apply State.abandonTest_keeps
    | with_reducible apply State.fenceSteps_keeps
    | with_reducible apply State.becomePresent_keeps
    | with_reducible apply State.endCommand_keeps
    | with_reducible apply State.startSeq_keeps
    | with_reducible apply State.dropSeq_keeps
    | with_reducible apply State.bump_keeps
    | fail_if_no_progress (with_reducible apply State.Keeps.rest)
    | dsimp only
    | split

theorem State.xtalStops_keeps {s0 s : State} (kept : s0.Keeps s) :
    s0.Keeps (State.xtalStops s) := by
  unfold State.xtalStops
  repeat' first
    | with_reducible intro _
    | with_reducible assumption
    | with_reducible exact State.Keeps.refl _
    | (extract_lets +onlyGivenNames x; clear_value (hx : x = _); first | refine State.Keeps.local (s0 := s0) hx ?_ fun k => ?_ | skip)
    | with_reducible apply State.Keeps.ite
    | with_reducible apply State.abandonXtal_keeps
    | with_reducible apply State.gateIosc_keeps
    | with_reducible apply State.standstill_keeps
    | with_reducible apply State.withPower_keeps
    | with_reducible apply State.event_keeps
    | with_reducible apply State.wrB_keeps
    | fail_if_no_progress (with_reducible apply State.Keeps.rest)
    | dsimp only
    | split

theorem State.ioscFails_keeps {s0 s : State} (kept : s0.Keeps s) :
    s0.Keeps (State.ioscFails s) := by
  unfold State.ioscFails
  repeat' first
    | with_reducible intro _
    | with_reducible assumption
    | with_reducible exact State.Keeps.refl _
    | (extract_lets +onlyGivenNames x; clear_value (hx : x = _); first | refine State.Keeps.local (s0 := s0) hx ?_ fun k => ?_ | skip)
    | with_reducible apply State.Keeps.ite
    | with_reducible apply State.standstill_keeps
    | with_reducible apply State.withPower_keeps
    | with_reducible apply State.event_keeps
    | with_reducible apply State.wrB_keeps
    | fail_if_no_progress (with_reducible apply State.Keeps.rest)
    | dsimp only
    | split

theorem State.srefStops_keeps {s0 s : State} (kept : s0.Keeps s) :
    s0.Keeps (State.srefStops s) := by
  unfold State.srefStops
  repeat' first
    | with_reducible intro _
    | with_reducible assumption
    | with_reducible exact State.Keeps.refl _
    | (extract_lets +onlyGivenNames x; clear_value (hx : x = _); first | refine State.Keeps.local (s0 := s0) hx ?_ fun k => ?_ | skip)
    | with_reducible apply State.Keeps.ite
    | with_reducible apply State.restartDomain_keeps
    | with_reducible apply State.withPower_keeps
    | with_reducible apply State.event_keeps
    | with_reducible apply State.bump_keeps
    | fail_if_no_progress (with_reducible apply State.Keeps.rest)
    | dsimp only
    | split

theorem State.pcieStops_keeps {s0 s : State} (kept : s0.Keeps s) :
    s0.Keeps (State.pcieStops s) := by
  unfold State.pcieStops
  repeat' first
    | with_reducible intro _
    | with_reducible assumption
    | with_reducible exact State.Keeps.refl _
    | (extract_lets +onlyGivenNames x; clear_value (hx : x = _); first | refine State.Keeps.local (s0 := s0) hx ?_ fun k => ?_ | skip)
    | with_reducible apply State.Keeps.ite
    | with_reducible apply State.withPower_keeps
    | with_reducible apply State.endHostSession_keeps
    | with_reducible apply State.clearRings_keeps
    | with_reducible apply State.pcieLink_keeps
    | with_reducible apply State.endReads_keeps
    | with_reducible apply State.dropPrefetches_keeps
    | with_reducible apply State.wr_keeps
    | fail_if_no_progress (with_reducible apply State.Keeps.rest)
    | dsimp only
    | split

theorem State.clockLoss_keeps {s0 s : State} {k : Nat} (kept : s0.Keeps s) :
    s0.Keeps (State.clockLoss s k) := by
  unfold State.clockLoss
  repeat' first
    | with_reducible intro _
    | with_reducible assumption
    | with_reducible exact State.Keeps.refl _
    | (extract_lets +onlyGivenNames x; clear_value (hx : x = _); first | refine State.Keeps.local (s0 := s0) hx ?_ fun k => ?_ | skip)
    | with_reducible apply State.Keeps.ite
    | with_reducible apply State.pcieStops_keeps
    | with_reducible apply State.srefStops_keeps
    | with_reducible apply State.ioscFails_keeps
    | with_reducible apply State.xtalStops_keeps
    | with_reducible apply State.bump_keeps
    | fail_if_no_progress (with_reducible apply State.Keeps.rest)
    | dsimp only
    | split

theorem State.pllLocked_keeps {s0 s : State} {k : Nat} (kept : s0.Keeps s) :
    s0.Keeps (State.pllLocked s k) := by
  unfold State.pllLocked
  repeat' first
    | with_reducible intro _
    | with_reducible assumption
    | with_reducible exact State.Keeps.refl _
    | (extract_lets +onlyGivenNames x; clear_value (hx : x = _); first | refine State.Keeps.local (s0 := s0) hx ?_ fun k => ?_ | skip)
    | with_reducible apply State.Keeps.ite
    | with_reducible apply State.restartDomain_keeps
    | with_reducible apply State.reduceAccuracy_keeps
    | with_reducible apply State.withPower_keeps
    | with_reducible apply State.forEach_keeps
    | with_reducible apply State.event_keeps
    | with_reducible apply State.bump_keeps
    | with_reducible apply State.wr_keeps
    | fail_if_no_progress (with_reducible apply State.Keeps.rest)
    | dsimp only
    | split

theorem State.ioscWindow_keeps {s0 s : State} {count : Nat} (kept : s0.Keeps s) :
    s0.Keeps (State.ioscWindow s count) := by
  unfold State.ioscWindow
  repeat' first
    | with_reducible intro _
    | with_reducible assumption
    | with_reducible exact State.Keeps.refl _
    | (extract_lets +onlyGivenNames x; clear_value (hx : x = _); first | refine State.Keeps.local (s0 := s0) hx ?_ fun k => ?_ | skip)
    | with_reducible apply State.Keeps.ite
    | with_reducible apply State.ioscFails_keeps
    | with_reducible apply State.abandonXtal_keeps
    | with_reducible apply State.selectReference_keeps
    | with_reducible apply State.withPower_keeps
    | with_reducible apply State.event_keeps
    | with_reducible apply State.wrB_keeps
    | with_reducible apply State.wr_keeps
    | fail_if_no_progress (with_reducible apply State.Keeps.rest)
    | dsimp only
    | split

theorem State.ioscRequalify_keeps {s0 s : State} (kept : s0.Keeps s) :
    s0.Keeps (State.ioscRequalify s) := by
  unfold State.ioscRequalify
  repeat' first
    | with_reducible intro _
    | with_reducible assumption
    | with_reducible exact State.Keeps.refl _
    | (extract_lets +onlyGivenNames x; clear_value (hx : x = _); first | refine State.Keeps.local (s0 := s0) hx ?_ fun k => ?_ | skip)
    | with_reducible apply State.Keeps.ite
    | with_reducible apply State.withPower_keeps
    | fail_if_no_progress (with_reducible apply State.Keeps.rest)
    | dsimp only
    | split

theorem State.xtalWindow_keeps {s0 s : State} {count : Nat} (kept : s0.Keeps s) :
    s0.Keeps (State.xtalWindow s count) := by
  unfold State.xtalWindow
  repeat' first
    | with_reducible intro _
    | with_reducible assumption
    | with_reducible exact State.Keeps.refl _
    | (extract_lets +onlyGivenNames x; clear_value (hx : x = _); first | refine State.Keeps.local (s0 := s0) hx ?_ fun k => ?_ | skip)
    | with_reducible apply State.Keeps.ite
    | with_reducible apply State.autoReturn_keeps
    | with_reducible apply State.switchReference_keeps
    | with_reducible apply State.withPower_keeps
    | with_reducible apply State.event_keeps
    | with_reducible apply State.wrB_keeps
    | with_reducible apply State.wr_keeps
    | fail_if_no_progress (with_reducible apply State.Keeps.rest)
    | dsimp only
    | split

theorem State.brownOut_keeps {s0 s : State} (kept : s0.Keeps s) :
    s0.Keeps (State.brownOut s) := by
  unfold State.brownOut
  repeat' first
    | with_reducible intro _
    | with_reducible assumption
    | with_reducible exact State.Keeps.refl _
    | (extract_lets +onlyGivenNames x; clear_value (hx : x = _); first | refine State.Keeps.local (s0 := s0) hx ?_ fun k => ?_ | skip)
    | with_reducible apply State.Keeps.ite
    | with_reducible apply State.withPower_keeps
    | with_reducible apply State.withKey_keeps
    | with_reducible apply State.withTime_keeps
    | with_reducible apply State.event_keeps
    | with_reducible apply State.bump_keeps
    | fail_if_no_progress (with_reducible apply State.Keeps.rest)
    | dsimp only
    | split

theorem State.reloadSetPoint_keeps {s0 s : State} (kept : s0.Keeps s) :
    s0.Keeps (State.reloadSetPoint s) := by
  unfold State.reloadSetPoint
  repeat' first
    | with_reducible intro _
    | with_reducible assumption
    | with_reducible exact State.Keeps.refl _
    | (extract_lets +onlyGivenNames x; clear_value (hx : x = _); first | refine State.Keeps.local (s0 := s0) hx ?_ fun k => ?_ | skip)
    | with_reducible apply State.Keeps.ite
    | with_reducible apply State.wr_keeps
    | fail_if_no_progress (with_reducible apply State.Keeps.rest)
    | dsimp only
    | split

theorem State.brownClear_keeps {s0 s : State} (kept : s0.Keeps s) :
    s0.Keeps (State.brownClear s) := by
  unfold State.brownClear
  repeat' first
    | with_reducible intro _
    | with_reducible assumption
    | with_reducible exact State.Keeps.refl _
    | (extract_lets +onlyGivenNames x; clear_value (hx : x = _); first | refine State.Keeps.local (s0 := s0) hx ?_ fun k => ?_ | skip)
    | with_reducible apply State.Keeps.ite
    | with_reducible apply State.reloadSetPoint_keeps
    | with_reducible apply State.brownOut_keeps
    | with_reducible apply State.withKey_keeps
    | fail_if_no_progress (with_reducible apply State.Keeps.rest)
    | dsimp only
    | split

theorem State.drive_keeps {s0 s : State} {k : Nat} {b : Bool} (kept : s0.Keeps s) :
    s0.Keeps (State.drive s k b) := by
  unfold State.drive
  repeat' first
    | with_reducible intro _
    | with_reducible assumption
    | with_reducible exact State.Keeps.refl _
    | (extract_lets +onlyGivenNames x; clear_value (hx : x = _); first | refine State.Keeps.local (s0 := s0) hx ?_ fun k => ?_ | skip)
    | with_reducible apply State.Keeps.ite
    | with_reducible apply State.withPower_keeps
    | fail_if_no_progress (with_reducible apply State.Keeps.rest)
    | dsimp only
    | split

theorem State.raiseNext_keeps {s0 s : State} {x1 : List Nat} (kept : s0.Keeps s) :
    s0.Keeps (State.raiseNext s x1) := by
  induction x1 generalizing s with
  | nil =>
    unfold State.raiseNext
    repeat' first
      | with_reducible intro _
      | with_reducible assumption
      | with_reducible exact State.Keeps.refl _
      | (extract_lets +onlyGivenNames x; clear_value (hx : x = _); first | refine State.Keeps.local (s0 := s0) hx ?_ fun k => ?_ | skip)
      | with_reducible apply State.Keeps.ite
      | with_reducible apply State.drive_keeps
      | with_reducible apply State.withPower_keeps
      | fail_if_no_progress (with_reducible apply State.Keeps.rest)
      | dsimp only
      | split
  | cons y r ih =>
    unfold State.raiseNext
    repeat' first
      | with_reducible intro _
      | with_reducible assumption
      | with_reducible apply ih
      | with_reducible exact State.Keeps.refl _
      | (extract_lets +onlyGivenNames x; clear_value (hx : x = _); first | refine State.Keeps.local (s0 := s0) hx ?_ fun k => ?_ | skip)
      | with_reducible apply State.Keeps.ite
      | with_reducible apply State.drive_keeps
      | with_reducible apply State.withPower_keeps
      | fail_if_no_progress (with_reducible apply State.Keeps.rest)
      | dsimp only
      | split

theorem State.startSequence_keeps {s0 s : State} (kept : s0.Keeps s) :
    s0.Keeps (State.startSequence s) := by
  unfold State.startSequence
  repeat' first
    | with_reducible intro _
    | with_reducible assumption
    | with_reducible exact State.Keeps.refl _
    | (extract_lets +onlyGivenNames x; clear_value (hx : x = _); first | refine State.Keeps.local (s0 := s0) hx ?_ fun k => ?_ | skip)
    | with_reducible apply State.Keeps.ite
    | with_reducible apply State.raiseNext_keeps
    | with_reducible apply State.withPower_keeps
    | fail_if_no_progress (with_reducible apply State.Keeps.rest)
    | dsimp only
    | split

theorem State.raiseExternal_keeps {s0 s : State} (kept : s0.Keeps s) :
    s0.Keeps (State.raiseExternal s) := by
  unfold State.raiseExternal
  repeat' first
    | with_reducible intro _
    | with_reducible assumption
    | with_reducible exact State.Keeps.refl _
    | (extract_lets +onlyGivenNames x; clear_value (hx : x = _); first | refine State.Keeps.local (s0 := s0) hx ?_ fun k => ?_ | skip)
    | with_reducible apply State.Keeps.ite
    | with_reducible apply State.raiseNext_keeps
    | fail_if_no_progress (with_reducible apply State.Keeps.rest)
    | dsimp only
    | split

theorem State.supplyGood_keeps {s0 s : State} {pg : Nat} (kept : s0.Keeps s) :
    s0.Keeps (State.supplyGood s pg) := by
  unfold State.supplyGood
  repeat' first
    | with_reducible intro _
    | with_reducible assumption
    | with_reducible exact State.Keeps.refl _
    | (extract_lets +onlyGivenNames x; clear_value (hx : x = _); first | refine State.Keeps.local (s0 := s0) hx ?_ fun k => ?_ | skip)
    | with_reducible apply State.Keeps.ite
    | with_reducible apply State.raiseNext_keeps
    | with_reducible apply State.withPower_keeps
    | with_reducible apply State.foldl_keeps
    | fail_if_no_progress (with_reducible apply State.Keeps.rest)
    | dsimp only
    | split

theorem State.supplyEvent_keeps {s0 s : State} {k : Nat} {code : Nat} {status : Nat} (kept : s0.Keeps s) :
    s0.Keeps (State.supplyEvent s k code status) := by
  unfold State.supplyEvent
  repeat' first
    | with_reducible intro _
    | with_reducible assumption
    | with_reducible exact State.Keeps.refl _
    | (extract_lets +onlyGivenNames x; clear_value (hx : x = _); first | refine State.Keeps.local (s0 := s0) hx ?_ fun k => ?_ | skip)
    | with_reducible apply State.Keeps.ite
    | with_reducible apply State.event_keeps
    | with_reducible apply State.bump_keeps
    | fail_if_no_progress (with_reducible apply State.Keeps.rest)
    | dsimp only
    | split

theorem State.sequencingTimeout_keeps {s0 s : State} (kept : s0.Keeps s) :
    s0.Keeps (State.sequencingTimeout s) := by
  unfold State.sequencingTimeout
  repeat' first
    | with_reducible intro _
    | with_reducible assumption
    | with_reducible exact State.Keeps.refl _
    | (extract_lets +onlyGivenNames x; clear_value (hx : x = _); first | refine State.Keeps.local (s0 := s0) hx ?_ fun k => ?_ | skip)
    | with_reducible apply State.Keeps.ite
    | with_reducible apply State.decide_keeps
    | with_reducible apply State.supplyEvent_keeps
    | with_reducible apply State.raiseNext_keeps
    | with_reducible apply State.drive_keeps
    | with_reducible apply State.withPower_keeps
    | fail_if_no_progress (with_reducible apply State.Keeps.rest)
    | dsimp only
    | split

theorem State.sequenceRetry_keeps {s0 s : State} (kept : s0.Keeps s) :
    s0.Keeps (State.sequenceRetry s) := by
  unfold State.sequenceRetry
  repeat' first
    | with_reducible intro _
    | with_reducible assumption
    | with_reducible exact State.Keeps.refl _
    | (extract_lets +onlyGivenNames x; clear_value (hx : x = _); first | refine State.Keeps.local (s0 := s0) hx ?_ fun k => ?_ | skip)
    | with_reducible apply State.Keeps.ite
    | with_reducible apply State.startSequence_keeps
    | fail_if_no_progress (with_reducible apply State.Keeps.rest)
    | dsimp only
    | split

theorem State.vfabFault_keeps {s0 s : State} {code : Nat} {status : Nat} (kept : s0.Keeps s) :
    s0.Keeps (State.vfabFault s code status) := by
  unfold State.vfabFault
  repeat' first
    | with_reducible intro _
    | with_reducible assumption
    | with_reducible exact State.Keeps.refl _
    | (extract_lets +onlyGivenNames x; clear_value (hx : x = _); first | refine State.Keeps.local (s0 := s0) hx ?_ fun k => ?_ | skip)
    | with_reducible apply State.Keeps.ite
    | with_reducible apply State.supplyEvent_keeps
    | with_reducible apply State.brownOut_keeps
    | with_reducible apply State.downCarriage_keeps
    | with_reducible apply State.withPower_keeps
    | with_reducible apply State.setCar_keeps
    | with_reducible apply State.forEach_keeps
    | with_reducible apply State.emit_keeps
    | fail_if_no_progress (with_reducible apply State.Keeps.rest)
    | dsimp only
    | split

theorem State.vfabRecovery_keeps {s0 s : State} {back : Bool} (kept : s0.Keeps s) :
    s0.Keeps (State.vfabRecovery s back) := by
  unfold State.vfabRecovery
  repeat' first
    | with_reducible intro _
    | with_reducible assumption
    | with_reducible exact State.Keeps.refl _
    | (extract_lets +onlyGivenNames x; clear_value (hx : x = _); first | refine State.Keeps.local (s0 := s0) hx ?_ fun k => ?_ | skip)
    | with_reducible apply State.Keeps.ite
    | with_reducible apply State.reloadSetPoint_keeps
    | with_reducible apply State.brownOut_keeps
    | with_reducible apply State.upCarriage_keeps
    | with_reducible apply State.standstill_keeps
    | with_reducible apply State.withPower_keeps
    | with_reducible apply State.withKey_keeps
    | with_reducible apply State.forEach_keeps
    | fail_if_no_progress (with_reducible apply State.Keeps.rest)
    | dsimp only
    | split

theorem State.supplyFault_keeps {s0 s : State} {k : Nat} {code : Nat} {status : Nat} (kept : s0.Keeps s) :
    s0.Keeps (State.supplyFault s k code status) := by
  unfold State.supplyFault
  repeat' first
    | with_reducible intro _
    | with_reducible assumption
    | with_reducible exact State.Keeps.refl _
    | (extract_lets +onlyGivenNames x; clear_value (hx : x = _); first | refine State.Keeps.local (s0 := s0) hx ?_ fun k => ?_ | skip)
    | with_reducible apply State.Keeps.ite
    | with_reducible apply State.vfabFault_keeps
    | with_reducible apply State.supplyEvent_keeps
    | with_reducible apply State.drive_keeps
    | with_reducible apply State.brownOut_keeps
    | fail_if_no_progress (with_reducible apply State.Keeps.rest)
    | dsimp only
    | split

theorem State.supplyLost_keeps {s0 s : State} {pg : Nat} {ns : Nat} (kept : s0.Keeps s) :
    s0.Keeps (State.supplyLost s pg ns) := by
  unfold State.supplyLost
  repeat' first
    | with_reducible intro _
    | with_reducible assumption
    | with_reducible exact State.Keeps.refl _
    | (extract_lets +onlyGivenNames x; clear_value (hx : x = _); first | refine State.Keeps.local (s0 := s0) hx ?_ fun k => ?_ | skip)
    | with_reducible apply State.Keeps.ite
    | with_reducible apply State.supplyFault_keeps
    | with_reducible apply State.withPower_keeps
    | with_reducible apply State.forEach_keeps
    | fail_if_no_progress (with_reducible apply State.Keeps.rest)
    | dsimp only
    | split

theorem State.pmbusRead_keeps {s0 s : State} {r : PmbusRead} (kept : s0.Keeps s) :
    s0.Keeps (State.pmbusRead s r) := by
  unfold State.pmbusRead
  repeat' first
    | with_reducible intro _
    | with_reducible assumption
    | with_reducible exact State.Keeps.refl _
    | (extract_lets +onlyGivenNames x; clear_value (hx : x = _); first | refine State.Keeps.local (s0 := s0) hx ?_ fun k => ?_ | skip)
    | with_reducible apply State.Keeps.ite
    | with_reducible apply State.supplyEvent_keeps
    | with_reducible apply State.withPower_keeps
    | with_reducible apply State.setWin_keeps
    | fail_if_no_progress (with_reducible apply State.Keeps.rest)
    | dsimp only
    | split

theorem State.pmbusPoll_keeps {s0 s : State} {l : List PmbusRead} (kept : s0.Keeps s) :
    s0.Keeps (State.pmbusPoll s l) := by
  unfold State.pmbusPoll
  repeat' first
    | with_reducible intro _
    | with_reducible assumption
    | with_reducible exact State.Keeps.refl _
    | (extract_lets +onlyGivenNames x; clear_value (hx : x = _); first | refine State.Keeps.local (s0 := s0) hx ?_ fun k => ?_ | skip)
    | with_reducible apply State.Keeps.ite
    | with_reducible apply State.pmbusRead_keeps
    | with_reducible apply State.forEach_keeps
    | fail_if_no_progress (with_reducible apply State.Keeps.rest)
    | dsimp only
    | split

theorem State.pmbusAlert_keeps {s0 s : State} {k : Nat} {status : Nat} (kept : s0.Keeps s) :
    s0.Keeps (State.pmbusAlert s k status) := by
  unfold State.pmbusAlert
  repeat' first
    | with_reducible intro _
    | with_reducible assumption
    | with_reducible exact State.Keeps.refl _
    | (extract_lets +onlyGivenNames x; clear_value (hx : x = _); first | refine State.Keeps.local (s0 := s0) hx ?_ fun k => ?_ | skip)
    | with_reducible apply State.Keeps.ite
    | with_reducible apply State.decide_keeps
    | with_reducible apply State.supplyFault_keeps
    | with_reducible apply State.setWin_keeps
    | fail_if_no_progress (with_reducible apply State.Keeps.rest)
    | dsimp only
    | split

theorem State.trimTo_keeps {s0 s : State} {mv : Nat} {up : Bool} (kept : s0.Keeps s) :
    s0.Keeps (State.trimTo s mv up) := by
  unfold State.trimTo
  repeat' first
    | with_reducible intro _
    | with_reducible assumption
    | with_reducible exact State.Keeps.refl _
    | (extract_lets +onlyGivenNames x; clear_value (hx : x = _); first | refine State.Keeps.local (s0 := s0) hx ?_ fun k => ?_ | skip)
    | with_reducible apply State.Keeps.ite
    | with_reducible apply State.withPower_keeps
    | with_reducible apply State.emit_keeps
    | with_reducible apply State.event_keeps
    | with_reducible apply State.wr_keeps
    | fail_if_no_progress (with_reducible apply State.Keeps.rest)
    | dsimp only
    | split

theorem State.trimStep_keeps {s0 s : State} {h : Nat} (kept : s0.Keeps s) :
    s0.Keeps (State.trimStep s h) := by
  unfold State.trimStep
  repeat' first
    | with_reducible intro _
    | with_reducible assumption
    | with_reducible exact State.Keeps.refl _
    | (extract_lets +onlyGivenNames x; clear_value (hx : x = _); first | refine State.Keeps.local (s0 := s0) hx ?_ fun k => ?_ | skip)
    | with_reducible apply State.Keeps.ite
    | with_reducible apply State.decide_keeps
    | with_reducible apply State.trimTo_keeps
    | with_reducible apply State.brownOut_keeps
    | with_reducible apply State.withPower_keeps
    | fail_if_no_progress (with_reducible apply State.Keeps.rest)
    | dsimp only
    | split

theorem State.powerCommits_keeps {s0 s : State} (kept : s0.Keeps s) :
    s0.Keeps (State.powerCommits s) := by
  unfold State.powerCommits
  repeat' first
    | with_reducible intro _
    | with_reducible assumption
    | with_reducible exact State.Keeps.refl _
    | (extract_lets +onlyGivenNames x; clear_value (hx : x = _); first | refine State.Keeps.local (s0 := s0) hx ?_ fun k => ?_ | skip)
    | with_reducible apply State.Keeps.ite
    | with_reducible apply State.commitFresh_keeps
    | with_reducible apply State.lifeCommit_keeps
    | with_reducible apply State.forEach_keeps
    | fail_if_no_progress (with_reducible apply State.Keeps.rest)
    | dsimp only
    | split

theorem State.powerOff_keeps {s0 s : State} (kept : s0.Keeps s) :
    s0.Keeps (State.powerOff s) := by
  unfold State.powerOff
  repeat' first
    | with_reducible intro _
    | with_reducible assumption
    | with_reducible exact State.Keeps.refl _
    | (extract_lets +onlyGivenNames x; clear_value (hx : x = _); first | refine State.Keeps.local (s0 := s0) hx ?_ fun k => ?_ | skip)
    | with_reducible apply State.Keeps.ite
    | with_reducible apply State.powerCommits_keeps
    | with_reducible apply State.downCarriage_keeps
    | with_reducible apply State.withPower_keeps
    | with_reducible apply State.forEach_keeps
    | fail_if_no_progress (with_reducible apply State.Keeps.rest)
    | dsimp only
    | split

theorem State.pholdTimeout_keeps {s0 s : State} (kept : s0.Keeps s) :
    s0.Keeps (State.pholdTimeout s) := by
  unfold State.pholdTimeout
  repeat' first
    | with_reducible intro _
    | with_reducible assumption
    | with_reducible exact State.Keeps.refl _
    | (extract_lets +onlyGivenNames x; clear_value (hx : x = _); first | refine State.Keeps.local (s0 := s0) hx ?_ fun k => ?_ | skip)
    | with_reducible apply State.Keeps.ite
    | with_reducible apply State.wr_keeps
    | fail_if_no_progress (with_reducible apply State.Keeps.rest)
    | dsimp only
    | split

end Sys2Proof.Machine
end

