-- ==== Sys2Proof/Laws/KeepsWake.lean ====
section
/-! SUPPORT. What the definitions of Machine/Wake keep (`State.Keeps`). -/

set_option linter.unusedTactic false
set_option linter.unreachableTactic false

namespace Sys2Proof.Machine

theorem State.withWake_keeps {s0 s : State} {f : WakeState → WakeState} (kept : s0.Keeps s) :
    s0.Keeps (State.withWake s f) := by
  unfold State.withWake
  repeat' first
    | with_reducible intro _
    | with_reducible assumption
    | with_reducible exact State.Keeps.refl _
    | (extract_lets +onlyGivenNames x; clear_value (hx : x = _); first | refine State.Keeps.local (s0 := s0) hx ?_ fun k => ?_ | skip)
    | with_reducible apply State.Keeps.ite
    | fail_if_no_progress (with_reducible apply State.Keeps.rest)
    | dsimp only
    | split

theorem State.modDom_keeps {s0 s : State} {d : Nat} {f : DomainDyn → DomainDyn} (kept : s0.Keeps s) :
    s0.Keeps (State.modDom s d f) := by
  unfold State.modDom
  repeat' first
    | with_reducible intro _
    | with_reducible assumption
    | with_reducible exact State.Keeps.refl _
    | (extract_lets +onlyGivenNames x; clear_value (hx : x = _); first | refine State.Keeps.local (s0 := s0) hx ?_ fun k => ?_ | skip)
    | with_reducible apply State.Keeps.ite
    | with_reducible apply State.withWake_keeps
    | fail_if_no_progress (with_reducible apply State.Keeps.rest)
    | dsimp only
    | split

theorem State.setDom_keeps {s0 s : State} {d : Nat} {new : Nat} (kept : s0.Keeps s) :
    s0.Keeps (State.setDom s d new) := by
  unfold State.setDom
  repeat' first
    | with_reducible intro _
    | with_reducible assumption
    | with_reducible exact State.Keeps.refl _
    | (extract_lets +onlyGivenNames x; clear_value (hx : x = _); first | refine State.Keeps.local (s0 := s0) hx ?_ fun k => ?_ | skip)
    | with_reducible apply State.Keeps.ite
    | with_reducible apply State.event_keeps
    | with_reducible apply State.setWinB_keeps
    | fail_if_no_progress (with_reducible apply State.Keeps.rest)
    | dsimp only
    | split

theorem State.sleepLin_keeps {s0 s : State} {d : Nat} (kept : s0.Keeps s) :
    s0.Keeps (State.sleepLin s d) := by
  unfold State.sleepLin
  repeat' first
    | with_reducible intro _
    | with_reducible assumption
    | with_reducible exact State.Keeps.refl _
    | (extract_lets +onlyGivenNames x; clear_value (hx : x = _); first | refine State.Keeps.local (s0 := s0) hx ?_ fun k => ?_ | skip)
    | with_reducible apply State.Keeps.ite
    | with_reducible apply State.linHeader_keeps
    | with_reducible apply State.modCh_keeps
    | with_reducible apply State.forEach_keeps
    | with_reducible apply State.emits_keeps
    | fail_if_no_progress (with_reducible apply State.Keeps.rest)
    | dsimp only
    | split

theorem State.wakeLin_keeps {s0 s : State} {was : List Nat} {src : Option Nat} (kept : s0.Keeps s) :
    s0.Keeps (State.wakeLin s was src) := by
  unfold State.wakeLin
  repeat' first
    | with_reducible intro _
    | with_reducible assumption
    | with_reducible exact State.Keeps.refl _
    | (extract_lets +onlyGivenNames x; clear_value (hx : x = _); first | refine State.Keeps.local (s0 := s0) hx ?_ fun k => ?_ | skip)
    | with_reducible apply State.Keeps.ite
    | with_reducible apply State.modCh_keeps
    | with_reducible apply State.forEach_keeps
    | with_reducible apply State.emit_keeps
    | fail_if_no_progress (with_reducible apply State.Keeps.rest)
    | dsimp only
    | split

theorem State.sendTemplates_keeps {s0 s : State} {d : Nat} (kept : s0.Keeps s) :
    s0.Keeps (State.sendTemplates s d) := by
  unfold State.sendTemplates
  repeat' first
    | with_reducible intro _
    | with_reducible assumption
    | with_reducible exact State.Keeps.refl _
    | (extract_lets +onlyGivenNames x; clear_value (hx : x = _); first | refine State.Keeps.local (s0 := s0) hx ?_ fun k => ?_ | skip)
    | with_reducible apply State.Keeps.ite
    | with_reducible apply State.modDom_keeps
    | with_reducible apply State.sendBuilt_keeps
    | with_reducible apply State.forEach_keeps
    | fail_if_no_progress (with_reducible apply State.Keeps.rest)
    | dsimp only
    | split

theorem State.awaken_keeps {s0 s : State} {d : Nat} {hold : Bool} (kept : s0.Keeps s) :
    s0.Keeps (State.awaken s d hold) := by
  unfold State.awaken
  repeat' first
    | with_reducible intro _
    | with_reducible assumption
    | with_reducible exact State.Keeps.refl _
    | (extract_lets +onlyGivenNames x; clear_value (hx : x = _); first | refine State.Keeps.local (s0 := s0) hx ?_ fun k => ?_ | skip)
    | with_reducible apply State.Keeps.ite
    | with_reducible apply State.sendTemplates_keeps
    | with_reducible apply State.setDom_keeps
    | with_reducible apply State.modDom_keeps
    | fail_if_no_progress (with_reducible apply State.Keeps.rest)
    | dsimp only
    | split

theorem State.domainWritten_keeps {s0 s : State} {d : Nat} {old : Nat} (kept : s0.Keeps s) :
    s0.Keeps (State.domainWritten s d old) := by
  unfold State.domainWritten
  repeat' first
    | with_reducible intro _
    | with_reducible assumption
    | with_reducible exact State.Keeps.refl _
    | (extract_lets +onlyGivenNames x; clear_value (hx : x = _); first | refine State.Keeps.local (s0 := s0) hx ?_ fun k => ?_ | skip)
    | with_reducible apply State.Keeps.ite
    | with_reducible apply State.awaken_keeps
    | with_reducible apply State.wakeLin_keeps
    | with_reducible apply State.setDom_keeps
    | with_reducible apply State.modDom_keeps
    | fail_if_no_progress (with_reducible apply State.Keeps.rest)
    | dsimp only
    | split

theorem State.keepAlive_keeps {s0 s : State} {d : Nat} {p : Nat} {bs : List Byte} (kept : s0.Keeps s) :
    s0.Keeps (State.keepAlive s d p bs) := by
  unfold State.keepAlive
  repeat' first
    | with_reducible intro _
    | with_reducible assumption
    | with_reducible exact State.Keeps.refl _
    | (extract_lets +onlyGivenNames x; clear_value (hx : x = _); first | refine State.Keeps.local (s0 := s0) hx ?_ fun k => ?_ | skip)
    | with_reducible apply State.Keeps.ite
    | with_reducible apply State.wakeLin_keeps
    | with_reducible apply State.setDom_keeps
    | with_reducible apply State.modDom_keeps
    | with_reducible apply State.bumpWin_keeps
    | fail_if_no_progress (with_reducible apply State.Keeps.rest)
    | dsimp only
    | split

theorem State.domTimeout_keeps {s0 s : State} {d : Nat} (kept : s0.Keeps s) :
    s0.Keeps (State.domTimeout s d) := by
  unfold State.domTimeout
  repeat' first
    | with_reducible intro _
    | with_reducible assumption
    | with_reducible exact State.Keeps.refl _
    | (extract_lets +onlyGivenNames x; clear_value (hx : x = _); first | refine State.Keeps.local (s0 := s0) hx ?_ fun k => ?_ | skip)
    | with_reducible apply State.Keeps.ite
    | with_reducible apply State.setDom_keeps
    | with_reducible apply State.modDom_keeps
    | fail_if_no_progress (with_reducible apply State.Keeps.rest)
    | dsimp only
    | split

theorem State.domPrepared_keeps {s0 s : State} {d : Nat} (kept : s0.Keeps s) :
    s0.Keeps (State.domPrepared s d) := by
  unfold State.domPrepared
  repeat' first
    | with_reducible intro _
    | with_reducible assumption
    | with_reducible exact State.Keeps.refl _
    | (extract_lets +onlyGivenNames x; clear_value (hx : x = _); first | refine State.Keeps.local (s0 := s0) hx ?_ fun k => ?_ | skip)
    | with_reducible apply State.Keeps.ite
    | with_reducible apply State.sleepLin_keeps
    | with_reducible apply State.setDom_keeps
    | fail_if_no_progress (with_reducible apply State.Keeps.rest)
    | dsimp only
    | split

theorem State.domHeld_keeps {s0 s : State} {d : Nat} (kept : s0.Keeps s) :
    s0.Keeps (State.domHeld s d) := by
  unfold State.domHeld
  repeat' first
    | with_reducible intro _
    | with_reducible assumption
    | with_reducible exact State.Keeps.refl _
    | (extract_lets +onlyGivenNames x; clear_value (hx : x = _); first | refine State.Keeps.local (s0 := s0) hx ?_ fun k => ?_ | skip)
    | with_reducible apply State.Keeps.ite
    | with_reducible apply State.setDom_keeps
    | fail_if_no_progress (with_reducible apply State.Keeps.rest)
    | dsimp only
    | split

theorem State.domPeriod_keeps {s0 s : State} {d : Nat} (kept : s0.Keeps s) :
    s0.Keeps (State.domPeriod s d) := by
  unfold State.domPeriod
  repeat' first
    | with_reducible intro _
    | with_reducible assumption
    | with_reducible exact State.Keeps.refl _
    | (extract_lets +onlyGivenNames x; clear_value (hx : x = _); first | refine State.Keeps.local (s0 := s0) hx ?_ fun k => ?_ | skip)
    | with_reducible apply State.Keeps.ite
    | with_reducible apply State.sendTemplates_keeps
    | fail_if_no_progress (with_reducible apply State.Keeps.rest)
    | dsimp only
    | split

theorem State.wakeLog_keeps {s0 s : State} {kind : Nat} {src : Nat} {word : Nat} (kept : s0.Keeps s) :
    s0.Keeps (State.wakeLog s kind src word) := by
  unfold State.wakeLog
  repeat' first
    | with_reducible intro _
    | with_reducible assumption
    | with_reducible exact State.Keeps.refl _
    | (extract_lets +onlyGivenNames x; clear_value (hx : x = _); first | refine State.Keeps.local (s0 := s0) hx ?_ fun k => ?_ | skip)
    | with_reducible apply State.Keeps.ite
    | with_reducible apply State.withWake_keeps
    | with_reducible apply State.setWin_keeps
    | with_reducible apply State.bump_keeps
    | with_reducible apply State.wr_keeps
    | fail_if_no_progress (with_reducible apply State.Keeps.rest)
    | dsimp only
    | split

theorem State.tellWakes_keeps {s0 s : State} (kept : s0.Keeps s) :
    s0.Keeps (State.tellWakes s) := by
  unfold State.tellWakes
  repeat' first
    | with_reducible intro _
    | with_reducible assumption
    | with_reducible exact State.Keeps.refl _
    | (extract_lets +onlyGivenNames x; clear_value (hx : x = _); first | refine State.Keeps.local (s0 := s0) hx ?_ fun k => ?_ | skip)
    | with_reducible apply State.Keeps.ite
    | with_reducible apply State.awaken_keeps
    | with_reducible apply State.wakeLin_keeps
    | with_reducible apply State.withWake_keeps
    | with_reducible apply State.forEach_keeps
    | with_reducible apply State.event_keeps
    | fail_if_no_progress (with_reducible apply State.Keeps.rest)
    | dsimp only
    | split

theorem State.leaveSleep_keeps {s0 s : State} (kept : s0.Keeps s) :
    s0.Keeps (State.leaveSleep s) := by
  unfold State.leaveSleep
  repeat' first
    | with_reducible intro _
    | with_reducible assumption
    | with_reducible exact State.Keeps.refl _
    | (extract_lets +onlyGivenNames x; clear_value (hx : x = _); first | refine State.Keeps.local (s0 := s0) hx ?_ fun k => ?_ | skip)
    | with_reducible apply State.Keeps.ite
    | with_reducible apply State.tellWakes_keeps
    | with_reducible apply State.withWake_keeps
    | with_reducible apply State.raiseExternal_keeps
    | with_reducible apply State.applyClocks_keeps
    | with_reducible apply State.enterMode_keeps
    | fail_if_no_progress (with_reducible apply State.Keeps.rest)
    | dsimp only
    | split

theorem State.abortSleep_keeps {s0 s : State} {step : Nat} {kind : Nat} {src : Nat} (kept : s0.Keeps s) :
    s0.Keeps (State.abortSleep s step kind src) := by
  unfold State.abortSleep
  repeat' first
    | with_reducible intro _
    | with_reducible assumption
    | with_reducible exact State.Keeps.refl _
    | (extract_lets +onlyGivenNames x; clear_value (hx : x = _); first | refine State.Keeps.local (s0 := s0) hx ?_ fun k => ?_ | skip)
    | with_reducible apply State.Keeps.ite
    | with_reducible apply State.tellWakes_keeps
    | with_reducible apply State.withWake_keeps
    | with_reducible apply State.event_keeps
    | with_reducible apply State.bump_keeps
    | fail_if_no_progress (with_reducible apply State.Keeps.rest)
    | dsimp only
    | split

theorem State.latchWake_keeps {s0 s : State} {kind : Nat} {src : Nat} {word : Nat} {ds : List Nat} (kept : s0.Keeps s) :
    s0.Keeps (State.latchWake s kind src word ds) := by
  unfold State.latchWake
  repeat' first
    | with_reducible intro _
    | with_reducible assumption
    | with_reducible exact State.Keeps.refl _
    | (extract_lets +onlyGivenNames x; clear_value (hx : x = _); first | refine State.Keeps.local (s0 := s0) hx ?_ fun k => ?_ | skip)
    | with_reducible apply State.Keeps.ite
    | with_reducible apply State.abortSleep_keeps
    | with_reducible apply State.leaveSleep_keeps
    | with_reducible apply State.tellWakes_keeps
    | with_reducible apply State.wakeLog_keeps
    | with_reducible apply State.withWake_keeps
    | with_reducible apply State.startSequence_keeps
    | with_reducible apply State.standstill_keeps
    | fail_if_no_progress (with_reducible apply State.Keeps.rest)
    | dsimp only
    | split

theorem State.clearLatch_keeps {s0 s : State} (kept : s0.Keeps s) :
    s0.Keeps (State.clearLatch s) := by
  unfold State.clearLatch
  repeat' first
    | with_reducible intro _
    | with_reducible assumption
    | with_reducible exact State.Keeps.refl _
    | (extract_lets +onlyGivenNames x; clear_value (hx : x = _); first | refine State.Keeps.local (s0 := s0) hx ?_ fun k => ?_ | skip)
    | with_reducible apply State.Keeps.ite
    | with_reducible apply State.withWake_keeps
    | fail_if_no_progress (with_reducible apply State.Keeps.rest)
    | dsimp only
    | split

theorem State.requestWake_keeps {s0 s : State} {d : Nat} (kept : s0.Keeps s) :
    s0.Keeps (State.requestWake s d) := by
  unfold State.requestWake
  repeat' first
    | with_reducible intro _
    | with_reducible assumption
    | with_reducible exact State.Keeps.refl _
    | (extract_lets +onlyGivenNames x; clear_value (hx : x = _); first | refine State.Keeps.local (s0 := s0) hx ?_ fun k => ?_ | skip)
    | with_reducible apply State.Keeps.ite
    | with_reducible apply State.latchWake_keeps
    | fail_if_no_progress (with_reducible apply State.Keeps.rest)
    | dsimp only
    | split

theorem State.trafficWakes_keeps {s0 s : State} (kept : s0.Keeps s) :
    s0.Keeps (State.trafficWakes s) := by
  unfold State.trafficWakes
  repeat' first
    | with_reducible intro _
    | with_reducible assumption
    | with_reducible exact State.Keeps.refl _
    | (extract_lets +onlyGivenNames x; clear_value (hx : x = _); first | refine State.Keeps.local (s0 := s0) hx ?_ fun k => ?_ | skip)
    | with_reducible apply State.Keeps.ite
    | with_reducible apply State.latchWake_keeps
    | with_reducible apply State.forEach_keeps
    | fail_if_no_progress (with_reducible apply State.Keeps.rest)
    | dsimp only
    | split

theorem State.pulseTaken_keeps {s0 s : State} {ns : Nat} {filter : Nat} (kept : s0.Keeps s) :
    s0.Keeps (State.pulseTaken s ns filter).2 := by
  unfold State.pulseTaken
  repeat' first
    | with_reducible intro _
    | with_reducible assumption
    | with_reducible exact State.Keeps.refl _
    | (extract_lets +onlyGivenNames x; clear_value (hx : x = _); first | refine State.Keeps.local (s0 := s0) hx ?_ fun k => ?_ | (have g := State.regs x.2; clear g; subst hx) | skip)
    | with_reducible apply State.Keeps.ite
    | with_reducible apply State.draw_keeps
    | with_reducible apply State.Keeps.ite_snd
    | fail_if_no_progress (with_reducible apply State.Keeps.rest)
    | dsimp only
    | refine State.Keeps.of_snd ‹_ = (_, _)› ?_
    | split

theorem State.canPattern_keeps {s0 s : State} {c : Nat} {dom1 : Nat} {rec_ : Nat} {dom2 : Nat} (kept : s0.Keeps s) :
    s0.Keeps (State.canPattern s c dom1 rec_ dom2) := by
  unfold State.canPattern
  repeat' first
    | with_reducible intro _
    | with_reducible assumption
    | with_reducible exact State.Keeps.refl _
    | (extract_lets +onlyGivenNames x; clear_value (hx : x = _); first | refine State.Keeps.local (s0 := s0) hx ?_ fun k => ?_ | (have g := State.regs x.2; clear g; subst hx) | skip)
    | with_reducible apply State.Keeps.ite
    | with_reducible apply State.decide_keeps
    | with_reducible apply State.pulseTaken_keeps
    | with_reducible apply State.latchWake_keeps
    | with_reducible apply State.withWake_keeps
    | fail_if_no_progress (with_reducible apply State.Keeps.rest)
    | dsimp only
    | refine State.Keeps.of_snd ‹_ = (_, _)› ?_
    | split

theorem State.patternTimeout_keeps {s0 s : State} {c : Nat} (kept : s0.Keeps s) :
    s0.Keeps (State.patternTimeout s c) := by
  unfold State.patternTimeout
  repeat' first
    | with_reducible intro _
    | with_reducible assumption
    | with_reducible exact State.Keeps.refl _
    | (extract_lets +onlyGivenNames x; clear_value (hx : x = _); first | refine State.Keeps.local (s0 := s0) hx ?_ fun k => ?_ | skip)
    | with_reducible apply State.Keeps.ite
    | with_reducible apply State.withWake_keeps
    | fail_if_no_progress (with_reducible apply State.Keeps.rest)
    | dsimp only
    | split

theorem State.decGood_keeps {s0 s : State} {c : Nat} (kept : s0.Keeps s) :
    s0.Keeps (State.decGood s c) := by
  unfold State.decGood
  repeat' first
    | with_reducible intro _
    | with_reducible assumption
    | with_reducible exact State.Keeps.refl _
    | (extract_lets +onlyGivenNames x; clear_value (hx : x = _); first | refine State.Keeps.local (s0 := s0) hx ?_ fun k => ?_ | skip)
    | with_reducible apply State.Keeps.ite
    | with_reducible apply State.withWake_keeps
    | fail_if_no_progress (with_reducible apply State.Keeps.rest)
    | dsimp only
    | split

theorem State.wakeFrame_keeps {s0 s : State} {c : Nat} {bs : List Byte} (kept : s0.Keeps s) :
    s0.Keeps (State.wakeFrame s c bs) := by
  unfold State.wakeFrame
  repeat' first
    | with_reducible intro _
    | with_reducible assumption
    | with_reducible exact State.Keeps.refl _
    | (extract_lets +onlyGivenNames x; clear_value (hx : x = _); first | refine State.Keeps.local (s0 := s0) hx ?_ fun k => ?_ | skip)
    | with_reducible apply State.Keeps.ite
    | with_reducible apply State.decGood_keeps
    | with_reducible apply State.latchWake_keeps
    | fail_if_no_progress (with_reducible apply State.Keeps.rest)
    | dsimp only
    | split

theorem State.decoderError_keeps {s0 s : State} {c : Nat} {err : Bool} (kept : s0.Keeps s) :
    s0.Keeps (State.decoderError s c err) := by
  unfold State.decoderError
  repeat' first
    | with_reducible intro _
    | with_reducible assumption
    | with_reducible exact State.Keeps.refl _
    | (extract_lets +onlyGivenNames x; clear_value (hx : x = _); first | refine State.Keeps.local (s0 := s0) hx ?_ fun k => ?_ | skip)
    | with_reducible apply State.Keeps.ite
    | with_reducible apply State.decGood_keeps
    | with_reducible apply State.latchWake_keeps
    | with_reducible apply State.withWake_keeps
    | with_reducible apply State.event_keeps
    | fail_if_no_progress (with_reducible apply State.Keeps.rest)
    | dsimp only
    | split

theorem State.linDominant_keeps {s0 s : State} {l : Nat} {ns : Nat} (kept : s0.Keeps s) :
    s0.Keeps (State.linDominant s l ns) := by
  unfold State.linDominant
  repeat' first
    | with_reducible intro _
    | with_reducible assumption
    | with_reducible exact State.Keeps.refl _
    | (extract_lets +onlyGivenNames x; clear_value (hx : x = _); first | refine State.Keeps.local (s0 := s0) hx ?_ fun k => ?_ | skip)
    | with_reducible apply State.Keeps.ite
    | with_reducible apply State.latchWake_keeps
    | with_reducible apply State.modCh_keeps
    | fail_if_no_progress (with_reducible apply State.Keeps.rest)
    | dsimp only
    | split

theorem State.t1sActivity_keeps {s0 s : State} {k : Nat} {ns : Nat} (kept : s0.Keeps s) :
    s0.Keeps (State.t1sActivity s k ns) := by
  unfold State.t1sActivity
  repeat' first
    | with_reducible intro _
    | with_reducible assumption
    | with_reducible exact State.Keeps.refl _
    | (extract_lets +onlyGivenNames x; clear_value (hx : x = _); first | refine State.Keeps.local (s0 := s0) hx ?_ fun k => ?_ | (have g := State.regs x.2; clear g; subst hx) | skip)
    | with_reducible apply State.Keeps.ite
    | with_reducible apply State.pulseTaken_keeps
    | with_reducible apply State.latchWake_keeps
    | with_reducible apply State.standstill_keeps
    | fail_if_no_progress (with_reducible apply State.Keeps.rest)
    | dsimp only
    | refine State.Keeps.of_snd ‹_ = (_, _)› ?_
    | split

theorem State.pinEdge_keeps {s0 s : State} {n : Nat} {level : Bool} {ns : Nat} (kept : s0.Keeps s) :
    s0.Keeps (State.pinEdge s n level ns) := by
  unfold State.pinEdge
  repeat' first
    | with_reducible intro _
    | with_reducible assumption
    | with_reducible exact State.Keeps.refl _
    | (extract_lets +onlyGivenNames x; clear_value (hx : x = _); first | refine State.Keeps.local (s0 := s0) hx ?_ fun k => ?_ | (have g := State.regs x.2; clear g; subst hx) | skip)
    | with_reducible apply State.Keeps.ite
    | with_reducible apply State.pulseTaken_keeps
    | with_reducible apply State.latchWake_keeps
    | with_reducible apply State.withWake_keeps
    | fail_if_no_progress (with_reducible apply State.Keeps.rest)
    | dsimp only
    | refine State.Keeps.of_snd ‹_ = (_, _)› ?_
    | split

theorem State.armSleep_keeps {s0 s : State} (kept : s0.Keeps s) :
    s0.Keeps (State.armSleep s) := by
  unfold State.armSleep
  repeat' first
    | with_reducible intro _
    | with_reducible assumption
    | with_reducible exact State.Keeps.refl _
    | (extract_lets +onlyGivenNames x; clear_value (hx : x = _); first | refine State.Keeps.local (s0 := s0) hx ?_ fun k => ?_ | skip)
    | with_reducible apply State.Keeps.ite
    | with_reducible apply State.withWake_keeps
    | fail_if_no_progress (with_reducible apply State.Keeps.rest)
    | dsimp only
    | split

theorem State.sleepAgreement_keeps {s0 s : State} (kept : s0.Keeps s) :
    s0.Keeps (State.sleepAgreement s) := by
  unfold State.sleepAgreement
  repeat' first
    | with_reducible intro _
    | with_reducible assumption
    | with_reducible exact State.Keeps.refl _
    | (extract_lets +onlyGivenNames x; clear_value (hx : x = _); first | refine State.Keeps.local (s0 := s0) hx ?_ fun k => ?_ | skip)
    | with_reducible apply State.Keeps.ite
    | with_reducible apply State.armSleep_keeps
    | fail_if_no_progress (with_reducible apply State.Keeps.rest)
    | dsimp only
    | split

theorem State.discardFrames_keeps {s0 s : State} (kept : s0.Keeps s) :
    s0.Keeps (State.discardFrames s) := by
  unfold State.discardFrames
  repeat' first
    | with_reducible intro _
    | with_reducible assumption
    | with_reducible exact State.Keeps.refl _
    | (extract_lets +onlyGivenNames x; clear_value (hx : x = _); first | refine State.Keeps.local (s0 := s0) hx ?_ fun k => ?_ | skip)
    | with_reducible apply State.Keeps.ite
    | with_reducible apply State.loseFrames_keeps
    | with_reducible apply State.withBuf_keeps
    | with_reducible apply State.bump_keeps
    | fail_if_no_progress (with_reducible apply State.Keeps.rest)
    | dsimp only
    | split

theorem State.clearEvents_keeps {s0 s : State} (kept : s0.Keeps s) :
    s0.Keeps (State.clearEvents s) := by
  unfold State.clearEvents
  repeat' first
    | with_reducible intro _
    | with_reducible assumption
    | with_reducible exact State.Keeps.refl _
    | (extract_lets +onlyGivenNames x; clear_value (hx : x = _); first | refine State.Keeps.local (s0 := s0) hx ?_ fun k => ?_ | skip)
    | with_reducible apply State.Keeps.ite
    | with_reducible apply State.dropWins_keeps
    | with_reducible apply State.wr_keeps
    | fail_if_no_progress (with_reducible apply State.Keeps.rest)
    | dsimp only
    | split

theorem State.quiesceDone_keeps {s0 s : State} (kept : s0.Keeps s) :
    s0.Keeps (State.quiesceDone s) := by
  unfold State.quiesceDone
  repeat' first
    | with_reducible intro _
    | with_reducible assumption
    | with_reducible exact State.Keeps.refl _
    | (extract_lets +onlyGivenNames x; clear_value (hx : x = _); first | refine State.Keeps.local (s0 := s0) hx ?_ fun k => ?_ | skip)
    | with_reducible apply State.Keeps.ite
    | with_reducible apply State.clearEvents_keeps
    | with_reducible apply State.discardFrames_keeps
    | with_reducible apply State.withWake_keeps
    | with_reducible apply State.downCarriage_keeps
    | with_reducible apply State.enterMode_keeps
    | with_reducible apply State.withPower_keeps
    | with_reducible apply State.lifeCommit_keeps
    | with_reducible apply State.forEach_keeps
    | with_reducible apply State.event_keeps
    | with_reducible apply State.wrB_keeps
    | fail_if_no_progress (with_reducible apply State.Keeps.rest)
    | dsimp only
    | split

theorem State.leaveDeepSleep_keeps {s0 s : State} (kept : s0.Keeps s) :
    s0.Keeps (State.leaveDeepSleep s) := by
  unfold State.leaveDeepSleep
  repeat' first
    | with_reducible intro _
    | with_reducible assumption
    | with_reducible exact State.Keeps.refl _
    | (extract_lets +onlyGivenNames x; clear_value (hx : x = _); first | refine State.Keeps.local (s0 := s0) hx ?_ fun k => ?_ | skip)
    | with_reducible apply State.Keeps.ite
    | with_reducible apply State.measured_keeps
    | with_reducible apply State.tellWakes_keeps
    | with_reducible apply State.raiseExternal_keeps
    | with_reducible apply State.applyClocks_keeps
    | with_reducible apply State.enterMode_keeps
    | with_reducible apply State.withPower_keeps
    | with_reducible apply State.gwEnable_keeps
    | with_reducible apply State.startSeq_keeps
    | with_reducible apply State.forEach_keeps
    | with_reducible apply State.event_keeps
    | with_reducible apply State.wrB_keeps
    | with_reducible apply State.wrF_keeps
    | with_reducible apply State.wr_keeps
    | fail_if_no_progress (with_reducible apply State.Keeps.rest)
    | dsimp only
    | split

theorem State.enterSleep_keeps {s0 s : State} (kept : s0.Keeps s) :
    s0.Keeps (State.enterSleep s) := by
  unfold State.enterSleep
  repeat' first
    | with_reducible intro _
    | with_reducible assumption
    | with_reducible exact State.Keeps.refl _
    | (extract_lets +onlyGivenNames x; clear_value (hx : x = _); first | refine State.Keeps.local (s0 := s0) hx ?_ fun k => ?_ | skip)
    | with_reducible apply State.Keeps.ite
    | with_reducible apply State.withWake_keeps
    | with_reducible apply State.applyClocks_keeps
    | with_reducible apply State.downCarriage_keeps
    | with_reducible apply State.enterMode_keeps
    | with_reducible apply State.forEach_keeps
    | fail_if_no_progress (with_reducible apply State.Keeps.rest)
    | dsimp only
    | split

end Sys2Proof.Machine
end

