-- ==== Sys2Proof/Laws/KeepsConsist.lean ====
section
/-! SUPPORT. What the definitions of Machine/Consist keep (`State.Keeps`). -/

set_option linter.unusedTactic false
set_option linter.unreachableTactic false

namespace Sys2Proof.Machine

theorem State.withConsist_keeps {s0 s : State} {f : ConsistState → ConsistState} (kept : s0.Keeps s) :
    s0.Keeps (State.withConsist s f) := by
  unfold State.withConsist
  repeat' first
    | with_reducible intro _
    | with_reducible assumption
    | with_reducible exact State.Keeps.refl _
    | (extract_lets +onlyGivenNames x; clear_value (hx : x = _); first | refine State.Keeps.local (s0 := s0) hx ?_ fun k => ?_ | skip)
    | with_reducible apply State.Keeps.ite
    | fail_if_no_progress (with_reducible apply State.Keeps.rest)
    | dsimp only
    | split

theorem State.sendMessage_keeps {s0 s : State} {mode : Nat} {dst : Nat} {hops : List (Nat × Nat)} {body : List Byte} (kept : s0.Keeps s) :
    s0.Keeps (State.sendMessage s mode dst hops body) := by
  unfold State.sendMessage
  repeat' first
    | with_reducible intro _
    | with_reducible assumption
    | with_reducible exact State.Keeps.refl _
    | (extract_lets +onlyGivenNames x; clear_value (hx : x = _); first | refine State.Keeps.local (s0 := s0) hx ?_ fun k => ?_ | (have g := State.regs x.2; clear g; subst hx) | skip)
    | with_reducible apply State.Keeps.ite
    | with_reducible apply State.enterPlain_keeps
    | with_reducible apply State.refuse_keeps
    | with_reducible apply State.modFrame_keeps
    | with_reducible apply State.forEach_keeps
    | with_reducible apply State.draw_keeps
    | with_reducible apply State.Keeps.id
    | fail_if_no_progress (with_reducible apply State.Keeps.rest)
    | dsimp only
    | refine State.Keeps.of_snd ‹_ = (_, _)› ?_
    | refine State.buildFrame_keeps ‹_ = some (_, _)› ?_
    | split

theorem State.sendRollCall_keeps {s0 s : State} (kept : s0.Keeps s) :
    s0.Keeps (State.sendRollCall s) := by
  unfold State.sendRollCall
  repeat' first
    | with_reducible intro _
    | with_reducible assumption
    | with_reducible exact State.Keeps.refl _
    | (extract_lets +onlyGivenNames x; clear_value (hx : x = _); first | refine State.Keeps.local (s0 := s0) hx ?_ fun k => ?_ | skip)
    | with_reducible apply State.Keeps.ite
    | with_reducible apply State.sendMessage_keeps
    | fail_if_no_progress (with_reducible apply State.Keeps.rest)
    | dsimp only
    | split

theorem State.endForwarded_keeps {s0 s : State} (kept : s0.Keeps s) :
    s0.Keeps (State.endForwarded s) := by
  unfold State.endForwarded
  repeat' first
    | with_reducible intro _
    | with_reducible assumption
    | with_reducible exact State.Keeps.refl _
    | (extract_lets +onlyGivenNames x; clear_value (hx : x = _); first | refine State.Keeps.local (s0 := s0) hx ?_ fun k => ?_ | skip)
    | with_reducible apply State.Keeps.ite
    | with_reducible apply State.withConsist_keeps
    | with_reducible apply State.clearSession_keeps
    | with_reducible apply State.forEach_keeps
    | with_reducible apply State.event_keeps
    | fail_if_no_progress (with_reducible apply State.Keeps.rest)
    | dsimp only
    | split

theorem State.setTerm_keeps {s0 s : State} {t : Nat} (kept : s0.Keeps s) :
    s0.Keeps (State.setTerm s t) := by
  unfold State.setTerm
  repeat' first
    | with_reducible intro _
    | with_reducible assumption
    | with_reducible exact State.Keeps.refl _
    | (extract_lets +onlyGivenNames x; clear_value (hx : x = _); first | refine State.Keeps.local (s0 := s0) hx ?_ fun k => ?_ | skip)
    | with_reducible apply State.Keeps.ite
    | with_reducible apply State.endForwarded_keeps
    | with_reducible apply State.wr_keeps
    | fail_if_no_progress (with_reducible apply State.Keeps.rest)
    | dsimp only
    | split

theorem State.updateMaster_keeps {s0 s : State} (kept : s0.Keeps s) :
    s0.Keeps (State.updateMaster s) := by
  unfold State.updateMaster
  repeat' first
    | with_reducible intro _
    | with_reducible assumption
    | with_reducible exact State.Keeps.refl _
    | (extract_lets +onlyGivenNames x; clear_value (hx : x = _); first | refine State.Keeps.local (s0 := s0) hx ?_ fun k => ?_ | skip)
    | with_reducible apply State.Keeps.ite
    | with_reducible apply State.setTerm_keeps
    | with_reducible apply State.sendRollCall_keeps
    | with_reducible apply State.withConsist_keeps
    | with_reducible apply State.event_keeps
    | with_reducible apply State.foldl_keeps
    | fail_if_no_progress (with_reducible apply State.Keeps.rest)
    | dsimp only
    | split

theorem State.tellTopology_keeps {s0 s : State} {ring : Bool} {reach : Nat} {p : Nat} (kept : s0.Keeps s) :
    s0.Keeps (State.tellTopology s ring reach p) := by
  unfold State.tellTopology
  repeat' first
    | with_reducible intro _
    | with_reducible assumption
    | with_reducible exact State.Keeps.refl _
    | (extract_lets +onlyGivenNames x; clear_value (hx : x = _); first | refine State.Keeps.local (s0 := s0) hx ?_ fun k => ?_ | skip)
    | with_reducible apply State.Keeps.ite
    | with_reducible apply State.event_keeps
    | fail_if_no_progress (with_reducible apply State.Keeps.rest)
    | dsimp only
    | split

theorem State.loseMember_keeps {s0 s : State} {d : Nat} (kept : s0.Keeps s) :
    s0.Keeps (State.loseMember s d) := by
  unfold State.loseMember
  repeat' first
    | with_reducible intro _
    | with_reducible assumption
    | with_reducible exact State.Keeps.refl _
    | (extract_lets +onlyGivenNames x; clear_value (hx : x = _); first | refine State.Keeps.local (s0 := s0) hx ?_ fun k => ?_ | skip)
    | with_reducible apply State.Keeps.ite
    | with_reducible apply State.tellTopology_keeps
    | with_reducible apply State.withConsist_keeps
    | with_reducible apply State.event_keeps
    | fail_if_no_progress (with_reducible apply State.Keeps.rest)
    | dsimp only
    | split

theorem State.noteMember_keeps {s0 s : State} {d : Nat} {body : List Byte} {dist : List (Nat × Nat)} (kept : s0.Keeps s) :
    s0.Keeps (State.noteMember s d body dist) := by
  unfold State.noteMember
  repeat' first
    | with_reducible intro _
    | with_reducible assumption
    | with_reducible exact State.Keeps.refl _
    | (extract_lets +onlyGivenNames x; clear_value (hx : x = _); first | refine State.Keeps.local (s0 := s0) hx ?_ fun k => ?_ | skip)
    | with_reducible apply State.Keeps.ite
    | with_reducible apply State.tellTopology_keeps
    | with_reducible apply State.updateMaster_keeps
    | with_reducible apply State.withConsist_keeps
    | with_reducible apply State.event_keeps
    | with_reducible apply State.foldl_keeps
    | fail_if_no_progress (with_reducible apply State.Keeps.rest)
    | dsimp only
    | split

theorem State.numberConflict_keeps {s0 s : State} {serial : Nat} (kept : s0.Keeps s) :
    s0.Keeps (State.numberConflict s serial) := by
  unfold State.numberConflict
  repeat' first
    | with_reducible intro _
    | with_reducible assumption
    | with_reducible exact State.Keeps.refl _
    | (extract_lets +onlyGivenNames x; clear_value (hx : x = _); first | refine State.Keeps.local (s0 := s0) hx ?_ fun k => ?_ | skip)
    | with_reducible apply State.Keeps.ite
    | with_reducible apply State.decide_keeps
    | with_reducible apply State.withConsist_keeps
    | with_reducible apply State.event_keeps
    | fail_if_no_progress (with_reducible apply State.Keeps.rest)
    | dsimp only
    | split

theorem State.rollCall_keeps {s0 s : State} {body : List Byte} {dist : List (Nat × Nat)} (kept : s0.Keeps s) :
    s0.Keeps (State.rollCall s body dist) := by
  unfold State.rollCall
  repeat' first
    | with_reducible intro _
    | with_reducible assumption
    | with_reducible exact State.Keeps.refl _
    | (extract_lets +onlyGivenNames x; clear_value (hx : x = _); first | refine State.Keeps.local (s0 := s0) hx ?_ fun k => ?_ | skip)
    | with_reducible apply State.Keeps.ite
    | with_reducible apply State.numberConflict_keeps
    | with_reducible apply State.noteMember_keeps
    | with_reducible apply State.setTerm_keeps
    | fail_if_no_progress (with_reducible apply State.Keeps.rest)
    | dsimp only
    | split

theorem State.passOn_keeps {s0 s : State} {p : Nat} {mode : Nat} {src : Nat} {dst : Nat} {hops : Nat} {body : List Byte} (kept : s0.Keeps s) :
    s0.Keeps (State.passOn s p mode src dst hops body) := by
  unfold State.passOn
  repeat' first
    | with_reducible intro _
    | with_reducible assumption
    | with_reducible exact State.Keeps.refl _
    | (extract_lets +onlyGivenNames x; clear_value (hx : x = _); first | refine State.Keeps.local (s0 := s0) hx ?_ fun k => ?_ | (have g := State.regs x.2; clear g; subst hx) | skip)
    | with_reducible apply State.Keeps.ite
    | with_reducible apply State.sendMessage_keeps
    | with_reducible apply State.modFrame_keeps
    | with_reducible apply State.draw_keeps
    | fail_if_no_progress (with_reducible apply State.Keeps.rest)
    | dsimp only
    | refine State.Keeps.of_snd ‹_ = (_, _)› ?_
    | split

end Sys2Proof.Machine
end

