-- ==== Sys2Proof/Laws/KeepsForward.lean ====
section
/-! SUPPORT. What the definitions of Machine/Forward keep (`State.Keeps`). -/

set_option linter.unusedTactic false
set_option linter.unreachableTactic false

namespace Sys2Proof.Machine

theorem State.refuseIngress_keeps {s0 s : State} {id : Nat} {reason : Nat} (kept : s0.Keeps s) :
    s0.Keeps (State.refuseIngress s id reason) := by
  unfold State.refuseIngress
  repeat' first
    | with_reducible intro _
    | with_reducible assumption
    | with_reducible exact State.Keeps.refl _
    | (extract_lets +onlyGivenNames x; clear_value (hx : x = _); first | refine State.Keeps.local (s0 := s0) hx ?_ fun k => ?_ | skip)
    | with_reducible apply State.Keeps.ite
    | with_reducible apply State.refuse_keeps
    | with_reducible apply State.probeDrop_keeps
    | with_reducible apply State.eraseFrame_keeps
    | with_reducible apply State.Keeps.id
    | fail_if_no_progress (with_reducible apply State.Keeps.rest)
    | dsimp only
    | split

theorem State.discardFrame_keeps {s0 s : State} {id : Nat} (kept : s0.Keeps s) :
    s0.Keeps (State.discardFrame s id) := by
  unfold State.discardFrame
  repeat' first
    | with_reducible intro _
    | with_reducible assumption
    | with_reducible exact State.Keeps.refl _
    | (extract_lets +onlyGivenNames x; clear_value (hx : x = _); first | refine State.Keeps.local (s0 := s0) hx ?_ fun k => ?_ | skip)
    | with_reducible apply State.Keeps.ite
    | with_reducible apply State.eraseFrame_keeps
    | with_reducible apply State.Keeps.id
    | fail_if_no_progress (with_reducible apply State.Keeps.rest)
    | dsimp only
    | split

theorem State.giveDests_keeps {s0 s : State} {id : Nat} {ports : List Nat} (kept : s0.Keeps s) :
    s0.Keeps (State.giveDests s id ports) := by
  unfold State.giveDests
  repeat' first
    | with_reducible intro _
    | with_reducible assumption
    | with_reducible exact State.Keeps.refl _
    | (extract_lets +onlyGivenNames x; clear_value (hx : x = _); first | refine State.Keeps.local (s0 := s0) hx ?_ fun k => ?_ | skip)
    | with_reducible apply State.Keeps.ite
    | with_reducible apply State.takeWaiting_keeps
    | with_reducible apply State.enterUnicast_keeps
    | with_reducible apply State.eraseFrame_keeps
    | with_reducible apply State.modFrame_keeps
    | with_reducible apply State.forEach_keeps
    | with_reducible apply State.Keeps.id
    | fail_if_no_progress (with_reducible apply State.Keeps.rest)
    | dsimp only
    | split

theorem State.lookup2_keeps {s0 s : State} {id : Nat} {port : Nat} {target : Nat} (kept : s0.Keeps s) :
    s0.Keeps (State.lookup2 s id port target).1 := by
  unfold State.lookup2
  repeat' first
    | with_reducible intro _
    | with_reducible assumption
    | with_reducible exact State.Keeps.refl _
    | (extract_lets +onlyGivenNames x; clear_value (hx : x = _); first | refine State.Keeps.local (s0 := s0) hx ?_ fun k => ?_ | (have g := State.regs x.2; clear g; subst hx) | skip)
    | with_reducible apply State.Keeps.ite
    | with_reducible apply State.learnAsk_keeps
    | with_reducible apply State.lookup_keeps
    | with_reducible apply State.modFrame_keeps
    | with_reducible apply State.Keeps.id
    | with_reducible apply State.Keeps.ite_fst
    | fail_if_no_progress (with_reducible apply State.Keeps.rest)
    | dsimp only
    | refine State.Keeps.of_snd ‹_ = (_, _)› ?_
    | refine State.Keeps.of_fst ‹_ = (_, _)› ?_
    | split

theorem State.lookups_keeps {s0 s : State} {id : Nat} (kept : s0.Keeps s) :
    s0.Keeps (State.lookups s id).1 := by
  unfold State.lookups
  repeat' first
    | with_reducible intro _
    | with_reducible assumption
    | with_reducible exact State.Keeps.refl _
    | (extract_lets +onlyGivenNames x; clear_value (hx : x = _); first | refine State.Keeps.local (s0 := s0) hx ?_ fun k => ?_ | (have g := State.regs x.2; clear g; subst hx) | skip)
    | with_reducible apply State.Keeps.ite
    | with_reducible apply State.lookup2_keeps
    | with_reducible apply State.excess_keeps
    | with_reducible apply State.lookup_keeps
    | with_reducible apply State.refuse_keeps
    | with_reducible apply State.probeStep_keeps
    | with_reducible apply State.Keeps.id
    | with_reducible apply State.Keeps.ite_fst
    | fail_if_no_progress (with_reducible apply State.Keeps.rest)
    | dsimp only
    | refine State.Keeps.of_snd ‹_ = (_, _)› ?_
    | refine State.Keeps.of_fst ‹_ = (_, _)› ?_
    | split

theorem State.police_keeps {s0 s : State} {id : Nat} {action : Nat} {dec : Option Nat} {found : Found} (kept : s0.Keeps s) :
    s0.Keeps (State.police s id action dec found) := by
  unfold State.police
  repeat' first
    | with_reducible intro _
    | with_reducible assumption
    | with_reducible exact State.Keeps.refl _
    | (extract_lets +onlyGivenNames x; clear_value (hx : x = _); first | refine State.Keeps.local (s0 := s0) hx ?_ fun k => ?_ | (have g := State.regs x.2; clear g; subst hx) | skip)
    | with_reducible apply State.Keeps.ite
    | with_reducible apply State.giveDests_keeps
    | with_reducible apply State.discardFrame_keeps
    | with_reducible apply State.refuseIngress_keeps
    | with_reducible apply State.frerStep_keeps
    | with_reducible apply State.streamFilter_keeps
    | with_reducible apply State.markYellow_keeps
    | with_reducible apply State.meter_keeps
    | with_reducible apply State.fwCount_keeps
    | with_reducible apply State.probeStep_keeps
    | with_reducible apply State.modFrame_keeps
    | with_reducible apply State.draw_keeps
    | with_reducible apply State.Keeps.id
    | fail_if_no_progress (with_reducible apply State.Keeps.rest)
    | dsimp only
    | refine State.Keeps.of_snd ‹_ = (_, _)› ?_
    | split

theorem State.overrideClass_keeps {s0 s : State} {id : Nat} {action : Nat} {found : Found} (kept : s0.Keeps s) :
    s0.Keeps (State.overrideClass s id action found) := by
  unfold State.overrideClass
  repeat' first
    | with_reducible intro _
    | with_reducible assumption
    | with_reducible exact State.Keeps.refl _
    | (extract_lets +onlyGivenNames x; clear_value (hx : x = _); first | refine State.Keeps.local (s0 := s0) hx ?_ fun k => ?_ | skip)
    | with_reducible apply State.Keeps.ite
    | with_reducible apply State.modFrame_keeps
    | with_reducible apply State.Keeps.id
    | fail_if_no_progress (with_reducible apply State.Keeps.rest)
    | dsimp only
    | split

theorem State.holdAuth_keeps {s0 s : State} {id : Nat} {action : Nat} {found : Found} (kept : s0.Keeps s) :
    s0.Keeps (State.holdAuth s id action found) := by
  unfold State.holdAuth
  repeat' first
    | with_reducible intro _
    | with_reducible assumption
    | with_reducible exact State.Keeps.refl _
    | (extract_lets +onlyGivenNames x; clear_value (hx : x = _); first | refine State.Keeps.local (s0 := s0) hx ?_ fun k => ?_ | (have g := State.regs x.2; clear g; subst hx) | skip)
    | with_reducible apply State.Keeps.ite
    | with_reducible apply State.dispatchOp_keeps
    | with_reducible apply State.recFail_keeps
    | with_reducible apply State.failEvent_keeps
    | with_reducible apply State.refuseHeld_keeps
    | with_reducible apply State.withFw_keeps
    | with_reducible apply State.modFrame_keeps
    | with_reducible apply State.draw_keeps
    | with_reducible apply State.Keeps.id
    | fail_if_no_progress (with_reducible apply State.Keeps.rest)
    | dsimp only
    | refine State.Keeps.of_snd ‹_ = (_, _)› ?_
    | split

theorem State.passHeld_keeps {s0 s : State} {id : Nat} (kept : s0.Keeps s) :
    s0.Keeps (State.passHeld s id) := by
  unfold State.passHeld
  repeat' first
    | with_reducible intro _
    | with_reducible assumption
    | with_reducible exact State.Keeps.refl _
    | (extract_lets +onlyGivenNames x; clear_value (hx : x = _); first | refine State.Keeps.local (s0 := s0) hx ?_ fun k => ?_ | (have g := State.regs x.2; clear g; subst hx) | skip)
    | with_reducible apply State.Keeps.ite
    | with_reducible apply State.police_keeps
    | with_reducible apply State.withFw_keeps
    | with_reducible apply State.modFrame_keeps
    | with_reducible apply State.draw_keeps
    | with_reducible apply State.Keeps.id
    | fail_if_no_progress (with_reducible apply State.Keeps.rest)
    | dsimp only
    | refine State.Keeps.of_snd ‹_ = (_, _)› ?_
    | split

theorem State.applyRule_keeps {s0 s : State} {h : Nat} {n : Nat} {id : Nat} {found : Found} (kept : s0.Keeps s) :
    s0.Keeps (State.applyRule s h n id found) := by
  unfold State.applyRule
  repeat' first
    | with_reducible intro _
    | with_reducible assumption
    | with_reducible exact State.Keeps.refl _
    | (extract_lets +onlyGivenNames x; clear_value (hx : x = _); first | refine State.Keeps.local (s0 := s0) hx ?_ fun k => ?_ | skip)
    | with_reducible apply State.Keeps.ite
    | with_reducible apply State.holdAuth_keeps
    | with_reducible apply State.overrideClass_keeps
    | with_reducible apply State.police_keeps
    | with_reducible apply State.giveDests_keeps
    | with_reducible apply State.refuseIngress_keeps
    | with_reducible apply State.takeWaiting_keeps
    | with_reducible apply State.intrusion_keeps
    | with_reducible apply State.fwCount_keeps
    | with_reducible apply State.modFrame_keeps
    | with_reducible apply State.bumpWin_keeps
    | with_reducible apply State.Keeps.id
    | fail_if_no_progress (with_reducible apply State.Keeps.rest)
    | dsimp only
    | split

theorem State.decide_keeps {s0 s : State} {id : Nat} {found : Found} (kept : s0.Keeps s) :
    s0.Keeps (State.decide s id found) := by
  unfold State.decide
  repeat' first
    | with_reducible intro _
    | with_reducible assumption
    | with_reducible exact State.Keeps.refl _
    | (extract_lets +onlyGivenNames x; clear_value (hx : x = _); first | refine State.Keeps.local (s0 := s0) hx ?_ fun k => ?_ | skip)
    | with_reducible apply State.Keeps.ite
    | with_reducible apply State.applyRule_keeps
    | with_reducible apply State.overrideClass_keeps
    | with_reducible apply State.police_keeps
    | with_reducible apply State.refuseIngress_keeps
    | with_reducible apply State.fwCount_keeps
    | with_reducible apply State.readRules_keeps
    | with_reducible apply State.probeStep_keeps
    | with_reducible apply State.Keeps.id
    | fail_if_no_progress (with_reducible apply State.Keeps.rest)
    | dsimp only
    | split

theorem State.forward_keeps {s0 s : State} {id : Nat} (kept : s0.Keeps s) :
    s0.Keeps (State.forward s id) := by
  unfold State.forward
  repeat' first
    | with_reducible intro _
    | with_reducible assumption
    | with_reducible exact State.Keeps.refl _
    | (extract_lets +onlyGivenNames x; clear_value (hx : x = _); first | refine State.Keeps.local (s0 := s0) hx ?_ fun k => ?_ | skip)
    | with_reducible apply State.Keeps.ite
    | with_reducible apply State.decide_keeps
    | with_reducible apply State.lookups_keeps
    | with_reducible apply State.refuseIngress_keeps
    | with_reducible apply State.excess_keeps
    | with_reducible apply State.Keeps.id
    | fail_if_no_progress (with_reducible apply State.Keeps.rest)
    | dsimp only
    | refine State.Keeps.of_fst ‹_ = (_, _)› ?_
    | split

theorem State.probeCapture_keeps {s0 s : State} {id : Nat} (kept : s0.Keeps s) :
    s0.Keeps (State.probeCapture s id) := by
  unfold State.probeCapture
  repeat' first
    | with_reducible intro _
    | with_reducible assumption
    | with_reducible exact State.Keeps.refl _
    | (extract_lets +onlyGivenNames x; clear_value (hx : x = _); first | refine State.Keeps.local (s0 := s0) hx ?_ fun k => ?_ | skip)
    | with_reducible apply State.Keeps.ite
    | with_reducible apply State.probeStep_keeps
    | with_reducible apply State.wr_keeps
    | with_reducible apply State.Keeps.id
    | fail_if_no_progress (with_reducible apply State.Keeps.rest)
    | dsimp only
    | split

theorem State.releaseCheck_keeps {s0 s : State} {id : Nat} (kept : s0.Keeps s) :
    s0.Keeps (State.releaseCheck s id).2 := by
  unfold State.releaseCheck
  repeat' first
    | with_reducible intro _
    | with_reducible assumption
    | with_reducible exact State.Keeps.refl _
    | (extract_lets +onlyGivenNames x; clear_value (hx : x = _); first | refine State.Keeps.local (s0 := s0) hx ?_ fun k => ?_ | skip)
    | with_reducible apply State.Keeps.ite
    | with_reducible apply State.probeCapture_keeps
    | with_reducible apply State.refuseIngress_keeps
    | with_reducible apply State.discardPoisoned_keeps
    | with_reducible apply State.Keeps.id
    | with_reducible apply State.Keeps.ite_snd
    | fail_if_no_progress (with_reducible apply State.Keeps.rest)
    | dsimp only
    | split

theorem State.secureStep_keeps {s0 s : State} {id : Nat} (kept : s0.Keeps s) :
    s0.Keeps (State.secureStep s id).2 := by
  unfold State.secureStep
  repeat' first
    | with_reducible intro _
    | with_reducible assumption
    | with_reducible exact State.Keeps.refl _
    | (extract_lets +onlyGivenNames x; clear_value (hx : x = _); first | refine State.Keeps.local (s0 := s0) hx ?_ fun k => ?_ | skip)
    | with_reducible apply State.Keeps.ite
    | with_reducible apply State.dispatchOp_keeps
    | with_reducible apply State.secCount_keeps
    | with_reducible apply State.recFail_keeps
    | with_reducible apply State.pass_keeps
    | with_reducible apply State.eraseFrame_keeps
    | with_reducible apply State.Keeps.id
    | with_reducible apply State.Keeps.ite_snd
    | fail_if_no_progress (with_reducible apply State.Keeps.rest)
    | dsimp only
    | split

theorem State.releaseFrame_keeps {s0 s : State} {id : Nat} (kept : s0.Keeps s) :
    s0.Keeps (State.releaseFrame s id) := by
  unfold State.releaseFrame
  repeat' first
    | with_reducible intro _
    | with_reducible assumption
    | with_reducible exact State.Keeps.refl _
    | (extract_lets +onlyGivenNames x; clear_value (hx : x = _); first | refine State.Keeps.local (s0 := s0) hx ?_ fun k => ?_ | skip)
    | with_reducible apply State.Keeps.ite
    | with_reducible apply State.secureStep_keeps
    | with_reducible apply State.releaseCheck_keeps
    | with_reducible apply State.forward_keeps
    | with_reducible apply State.Keeps.id
    | fail_if_no_progress (with_reducible apply State.Keeps.rest)
    | dsimp only
    | refine State.Keeps.of_snd ‹_ = (_, _)› ?_
    | split

theorem State.drawDiscard_keeps {s0 s : State} {id : Nat} (kept : s0.Keeps s) :
    s0.Keeps (State.drawDiscard s id) := by
  unfold State.drawDiscard
  repeat' first
    | with_reducible intro _
    | with_reducible assumption
    | with_reducible exact State.Keeps.refl _
    | (extract_lets +onlyGivenNames x; clear_value (hx : x = _); first | refine State.Keeps.local (s0 := s0) hx ?_ fun k => ?_ | skip)
    | with_reducible apply State.Keeps.ite
    | with_reducible apply State.eraseFrame_keeps
    | with_reducible apply State.bump_keeps
    | with_reducible apply State.Keeps.id
    | fail_if_no_progress (with_reducible apply State.Keeps.rest)
    | dsimp only
    | split

theorem State.unwrap_keeps {s0 s : State} {id : Nat} {v : DrawView} (kept : s0.Keeps s) :
    s0.Keeps (State.unwrap s id v) := by
  unfold State.unwrap
  repeat' first
    | with_reducible intro _
    | with_reducible assumption
    | with_reducible exact State.Keeps.refl _
    | (extract_lets +onlyGivenNames x; clear_value (hx : x = _); first | refine State.Keeps.local (s0 := s0) hx ?_ fun k => ?_ | skip)
    | with_reducible apply State.Keeps.ite
    | with_reducible apply State.modFrame_keeps
    | with_reducible apply State.Keeps.id
    | fail_if_no_progress (with_reducible apply State.Keeps.rest)
    | dsimp only
    | split

theorem State.drawLookup_keeps {s0 s : State} {id : Nat} {v : DrawView} (kept : s0.Keeps s) :
    s0.Keeps (State.drawLookup s id v) := by
  unfold State.drawLookup
  repeat' first
    | with_reducible intro _
    | with_reducible assumption
    | with_reducible exact State.Keeps.refl _
    | (extract_lets +onlyGivenNames x; clear_value (hx : x = _); first | refine State.Keeps.local (s0 := s0) hx ?_ fun k => ?_ | skip)
    | with_reducible apply State.Keeps.ite
    | with_reducible apply State.unwrap_keeps
    | with_reducible apply State.releaseFrame_keeps
    | with_reducible apply State.Keeps.id
    | fail_if_no_progress (with_reducible apply State.Keeps.rest)
    | dsimp only
    | split

theorem State.drawForward_keeps {s0 s : State} {p : Nat} {id : Nat} {v : DrawView} {found : Found} (kept : s0.Keeps s) :
    s0.Keeps (State.drawForward s p id v found) := by
  unfold State.drawForward
  repeat' first
    | with_reducible intro _
    | with_reducible assumption
    | with_reducible exact State.Keeps.refl _
    | (extract_lets +onlyGivenNames x; clear_value (hx : x = _); first | refine State.Keeps.local (s0 := s0) hx ?_ fun k => ?_ | skip)
    | with_reducible apply State.Keeps.ite
    | with_reducible apply State.releaseCheck_keeps
    | with_reducible apply State.decide_keeps
    | with_reducible apply State.lookup2_keeps
    | with_reducible apply State.refuseIngress_keeps
    | with_reducible apply State.refuse_keeps
    | with_reducible apply State.Keeps.id
    | fail_if_no_progress (with_reducible apply State.Keeps.rest)
    | dsimp only
    | refine State.Keeps.of_snd ‹_ = (_, _)› ?_
    | refine State.Keeps.of_fst ‹_ = (_, _)› ?_
    | split

theorem State.drawUnicast_keeps {s0 s : State} {p : Nat} {id : Nat} {v : DrawView} (kept : s0.Keeps s) :
    s0.Keeps (State.drawUnicast s p id v) := by
  unfold State.drawUnicast
  repeat' first
    | with_reducible intro _
    | with_reducible assumption
    | with_reducible exact State.Keeps.refl _
    | (extract_lets +onlyGivenNames x; clear_value (hx : x = _); first | refine State.Keeps.local (s0 := s0) hx ?_ fun k => ?_ | (have g := State.regs x.2; clear g; subst hx) | skip)
    | with_reducible apply State.Keeps.ite
    | with_reducible apply State.drawForward_keeps
    | with_reducible apply State.unwrap_keeps
    | with_reducible apply State.drawDiscard_keeps
    | with_reducible apply State.draw_keeps
    | with_reducible apply State.Keeps.id
    | fail_if_no_progress (with_reducible apply State.Keeps.rest)
    | dsimp only
    | refine State.Keeps.of_snd ‹_ = (_, _)› ?_
    | split

theorem State.drawFlood_keeps {s0 s : State} {p : Nat} {id : Nat} {v : DrawView} (kept : s0.Keeps s) :
    s0.Keeps (State.drawFlood s p id v) := by
  unfold State.drawFlood
  repeat' first
    | with_reducible intro _
    | with_reducible assumption
    | with_reducible exact State.Keeps.refl _
    | (extract_lets +onlyGivenNames x; clear_value (hx : x = _); first | refine State.Keeps.local (s0 := s0) hx ?_ fun k => ?_ | (have g := State.regs x.2; clear g; subst hx) | skip)
    | with_reducible apply State.Keeps.ite
    | with_reducible apply State.drawForward_keeps
    | with_reducible apply State.unwrap_keeps
    | with_reducible apply State.drawDiscard_keeps
    | with_reducible apply State.draw_keeps
    | with_reducible apply State.Keeps.id
    | fail_if_no_progress (with_reducible apply State.Keeps.rest)
    | dsimp only
    | refine State.Keeps.of_snd ‹_ = (_, _)› ?_
    | split

end Sys2Proof.Machine
end

