-- ==== Sys2Proof/Laws/KeepsAlarm.lean ====
section
/-! SUPPORT. What the definitions of Machine/Alarm keep (`State.Keeps`). -/

set_option linter.unusedTactic false
set_option linter.unreachableTactic false

namespace Sys2Proof.Machine

theorem State.logAlarm_keeps {s0 s : State} {sensor : Nat} {grade : Nat} {what : Nat} (kept : s0.Keeps s) :
    s0.Keeps (State.logAlarm s sensor grade what) := by
  unfold State.logAlarm
  repeat' first
    | with_reducible intro _
    | with_reducible assumption
    | with_reducible exact State.Keeps.refl _
    | (extract_lets +onlyGivenNames x; clear_value (hx : x = _); first | refine State.Keeps.local (s0 := s0) hx ?_ fun k => ?_ | skip)
    | with_reducible apply State.Keeps.ite
    | with_reducible apply State.withKey_keeps
    | with_reducible apply State.setWin_keeps
    | fail_if_no_progress (with_reducible apply State.Keeps.rest)
    | dsimp only
    | split

theorem State.endRevoked_keeps {s0 s : State} (kept : s0.Keeps s) :
    s0.Keeps (State.endRevoked s) := by
  unfold State.endRevoked
  repeat' first
    | with_reducible intro _
    | with_reducible assumption
    | with_reducible exact State.Keeps.refl _
    | (extract_lets +onlyGivenNames x; clear_value (hx : x = _); first | refine State.Keeps.local (s0 := s0) hx ?_ fun k => ?_ | skip)
    | with_reducible apply State.Keeps.ite
    | with_reducible apply State.abortOp_keeps
    | with_reducible apply State.refuseHeld_keeps
    | with_reducible apply State.forEach_keeps
    | fail_if_no_progress (with_reducible apply State.Keeps.rest)
    | dsimp only
    | split

theorem State.revokeAll_keeps {s0 s : State} {hs : List Nat} (kept : s0.Keeps s) :
    s0.Keeps (State.revokeAll s hs) := by
  unfold State.revokeAll
  repeat' first
    | with_reducible intro _
    | with_reducible assumption
    | with_reducible exact State.Keeps.refl _
    | (extract_lets +onlyGivenNames x; clear_value (hx : x = _); first | refine State.Keeps.local (s0 := s0) hx ?_ fun k => ?_ | skip)
    | with_reducible apply State.Keeps.ite
    | with_reducible apply State.endRevoked_keeps
    | with_reducible apply State.revokeRecords_keeps
    | with_reducible apply State.forEach_keeps
    | fail_if_no_progress (with_reducible apply State.Keeps.rest)
    | dsimp only
    | split

theorem State.silence_keeps {s0 s : State} {c : Nat} (kept : s0.Keeps s) :
    s0.Keeps (State.silence s c) := by
  unfold State.silence
  repeat' first
    | with_reducible intro _
    | with_reducible assumption
    | with_reducible exact State.Keeps.refl _
    | (extract_lets +onlyGivenNames x; clear_value (hx : x = _); first | refine State.Keeps.local (s0 := s0) hx ?_ fun k => ?_ | skip)
    | with_reducible apply State.Keeps.ite
    | with_reducible apply State.modCh_keeps
    | fail_if_no_progress (with_reducible apply State.Keeps.rest)
    | dsimp only
    | split

theorem State.freeze_keeps {s0 s : State} (kept : s0.Keeps s) :
    s0.Keeps (State.freeze s) := by
  unfold State.freeze
  repeat' first
    | with_reducible intro _
    | with_reducible assumption
    | with_reducible exact State.Keeps.refl _
    | (extract_lets +onlyGivenNames x; clear_value (hx : x = _); first | refine State.Keeps.local (s0 := s0) hx ?_ fun k => ?_ | skip)
    | with_reducible apply State.Keeps.ite
    | with_reducible apply State.silence_keeps
    | with_reducible apply State.clearRings_keeps
    | with_reducible apply State.dropLink_keeps
    | with_reducible apply State.clearHalf_keeps
    | with_reducible apply State.forEach_keeps
    | with_reducible apply State.wrB_keeps
    | with_reducible apply State.wr_keeps
    | fail_if_no_progress (with_reducible apply State.Keeps.rest)
    | dsimp only
    | split

theorem State.melt_keeps {s0 s : State} (kept : s0.Keeps s) :
    s0.Keeps (State.melt s) := by
  unfold State.melt
  repeat' first
    | with_reducible intro _
    | with_reducible assumption
    | with_reducible exact State.Keeps.refl _
    | (extract_lets +onlyGivenNames x; clear_value (hx : x = _); first | refine State.Keeps.local (s0 := s0) hx ?_ fun k => ?_ | skip)
    | with_reducible apply State.Keeps.ite
    | with_reducible apply State.freeze_keeps
    | with_reducible apply State.revokeAll_keeps
    | with_reducible apply State.countCommit_keeps
    | with_reducible apply State.withKey_keeps
    | fail_if_no_progress (with_reducible apply State.Keeps.rest)
    | dsimp only
    | split

theorem State.tripWith_keeps {s0 s : State} {sensor : Nat} {what : Nat} {cars : List Nat} {sess : Option Nat} (kept : s0.Keeps s) :
    s0.Keeps (State.tripWith s sensor what cars sess) := by
  unfold State.tripWith
  repeat' first
    | with_reducible intro _
    | with_reducible assumption
    | with_reducible exact State.Keeps.refl _
    | (extract_lets +onlyGivenNames x; clear_value (hx : x = _); first | refine State.Keeps.local (s0 := s0) hx ?_ fun k => ?_ | skip)
    | with_reducible apply State.Keeps.ite
    | with_reducible apply State.melt_keeps
    | with_reducible apply State.logAlarm_keeps
    | with_reducible apply State.restart_keeps
    | with_reducible apply State.quenchSession_keeps
    | with_reducible apply State.withTime_keeps
    | with_reducible apply State.forEach_keeps
    | with_reducible apply State.event_keeps
    | with_reducible apply State.bump_keeps
    | fail_if_no_progress (with_reducible apply State.Keeps.rest)
    | dsimp only
    | split

theorem State.trip_keeps {s0 s : State} {sensor : Nat} {cars : List Nat} (kept : s0.Keeps s) :
    s0.Keeps (State.trip s sensor cars) := by
  unfold State.trip
  repeat' first
    | with_reducible intro _
    | with_reducible assumption
    | with_reducible exact State.Keeps.refl _
    | (extract_lets +onlyGivenNames x; clear_value (hx : x = _); first | refine State.Keeps.local (s0 := s0) hx ?_ fun k => ?_ | skip)
    | with_reducible apply State.Keeps.ite
    | with_reducible apply State.tripWith_keeps
    | fail_if_no_progress (with_reducible apply State.Keeps.rest)
    | dsimp only
    | split

theorem State.authFailure_keeps {s0 s : State} {sess : Nat} (kept : s0.Keeps s) :
    s0.Keeps (State.authFailure s sess) := by
  unfold State.authFailure
  repeat' first
    | with_reducible intro _
    | with_reducible assumption
    | with_reducible exact State.Keeps.refl _
    | (extract_lets +onlyGivenNames x; clear_value (hx : x = _); first | refine State.Keeps.local (s0 := s0) hx ?_ fun k => ?_ | skip)
    | with_reducible apply State.Keeps.ite
    | with_reducible apply State.tripWith_keeps
    | with_reducible apply State.withKey_keeps
    | fail_if_no_progress (with_reducible apply State.Keeps.rest)
    | dsimp only
    | split

theorem State.violation_keeps {s0 s : State} {sess : Nat} (kept : s0.Keeps s) :
    s0.Keeps (State.violation s sess) := by
  unfold State.violation
  repeat' first
    | with_reducible intro _
    | with_reducible assumption
    | with_reducible exact State.Keeps.refl _
    | (extract_lets +onlyGivenNames x; clear_value (hx : x = _); first | refine State.Keeps.local (s0 := s0) hx ?_ fun k => ?_ | skip)
    | with_reducible apply State.Keeps.ite
    | with_reducible apply State.tripWith_keeps
    | with_reducible apply State.withKey_keeps
    | fail_if_no_progress (with_reducible apply State.Keeps.rest)
    | dsimp only
    | split

end Sys2Proof.Machine
end

