-- ==== Sys2Proof/Laws/KeepsBoot.lean ====
section
/-! SUPPORT. What the definitions of Machine/Boot keep (`State.Keeps`). -/

set_option linter.unusedTactic false
set_option linter.unreachableTactic false

namespace Sys2Proof.Machine

theorem State.startFresh_keeps {s0 s : State} (kept : s0.Keeps s) :
    s0.Keeps (State.startFresh s) := by
  unfold State.startFresh
  repeat' first
    | with_reducible intro _
    | with_reducible assumption
    | with_reducible exact State.Keeps.refl _
    | (extract_lets +onlyGivenNames x; clear_value (hx : x = _); first | refine State.Keeps.local (s0 := s0) hx ?_ fun k => ?_ | skip)
    | with_reducible apply State.Keeps.ite
    | fail_if_no_progress (with_reducible apply State.Keeps.rest)
    | dsimp only
    | split

theorem State.powerOn_keeps {s0 s : State} {vaon : Bool} (h : s0.Keeps s) : s0.Keeps (s.powerOn vaon) := by
  unfold State.powerOn
  dsimp only [State.draw]
  refine State.withPower_keeps (State.startFresh_keeps (State.setWin_keeps (State.wr_keeps ?_)))
  exact ⟨h.queue, h.time, Nat.le_succ_of_le (Nat.le_succ_of_le h.draws), h.log,
    fun k => canonical_filter regDefault _ (h.scalars k), fun k => canonical_filter byteDefault _ (h.windows k)⟩

theorem State.deviceRestart_keeps {s0 s : State} (h : s0.Keeps s) : s0.Keeps s.deviceRestart := by
  unfold State.deviceRestart
  dsimp only [State.draw]
  refine State.startFresh_keeps (State.setWin_keeps (State.wrF_keeps (State.wr_keeps ?_)))
  exact ⟨h.queue, h.time, Nat.le_succ_of_le h.draws, h.log,
    fun k => canonical_filter regDefault _ (h.scalars k), fun k => canonical_filter byteDefault _ (h.windows k)⟩

theorem State.bistUnit_keeps {s0 s : State} {n : Nat} {u : Nat} (kept : s0.Keeps s) :
    s0.Keeps (State.bistUnit s n u).2 := by
  unfold State.bistUnit
  repeat' first
    | with_reducible intro _
    | with_reducible assumption
    | with_reducible exact State.Keeps.refl _
    | (extract_lets +onlyGivenNames x; clear_value (hx : x = _); first | refine State.Keeps.local (s0 := s0) hx ?_ fun k => ?_ | skip)
    | with_reducible apply State.Keeps.ite
    | with_reducible apply State.withCar_keeps
    | with_reducible apply State.Keeps.ite_snd
    | fail_if_no_progress (with_reducible apply State.Keeps.rest)
    | dsimp only
    | split

theorem State.bistFailed_keeps {s0 s : State} {n : Nat} (kept : s0.Keeps s) :
    s0.Keeps (State.bistFailed s n) := by
  unfold State.bistFailed
  repeat' first
    | with_reducible intro _
    | with_reducible assumption
    | with_reducible exact State.Keeps.refl _
    | (extract_lets +onlyGivenNames x; clear_value (hx : x = _); first | refine State.Keeps.local (s0 := s0) hx ?_ fun k => ?_ | skip)
    | with_reducible apply State.Keeps.ite
    | with_reducible apply State.standstill_keeps
    | with_reducible apply State.setCar_keeps
    | with_reducible apply State.wrF_keeps
    | fail_if_no_progress (with_reducible apply State.Keeps.rest)
    | dsimp only
    | split

theorem State.bistOne_keeps {s0 s : State} {n : Nat} {first : Nat} {second : Nat} {unit : Nat} {us : Nat} (kept : s0.Keeps s) :
    s0.Keeps (State.bistOne s n first second unit us) := by
  unfold State.bistOne
  repeat' first
    | with_reducible intro _
    | with_reducible assumption
    | with_reducible exact State.Keeps.refl _
    | (extract_lets +onlyGivenNames x; clear_value (hx : x = _); first | refine State.Keeps.local (s0 := s0) hx ?_ fun k => ?_ | skip)
    | with_reducible apply State.Keeps.ite
    | with_reducible apply State.bistFailed_keeps
    | with_reducible apply State.bistUnit_keeps
    | with_reducible apply State.setWin_keeps
    | with_reducible apply State.wrF_keeps
    | fail_if_no_progress (with_reducible apply State.Keeps.rest)
    | dsimp only
    | refine State.Keeps.of_snd ‹_ = (_, _)› ?_
    | split

theorem State.bistBank_keeps {s0 s : State} (kept : s0.Keeps s) :
    s0.Keeps (State.bistBank s) := by
  unfold State.bistBank
  repeat' first
    | with_reducible intro _
    | with_reducible assumption
    | with_reducible exact State.Keeps.refl _
    | (extract_lets +onlyGivenNames x; clear_value (hx : x = _); first | refine State.Keeps.local (s0 := s0) hx ?_ fun k => ?_ | skip)
    | with_reducible apply State.Keeps.ite
    | with_reducible apply State.setCar_keeps
    | with_reducible apply State.setWinB_keeps
    | fail_if_no_progress (with_reducible apply State.Keeps.rest)
    | dsimp only
    | split

theorem State.startClock_keeps {s0 s : State} (kept : s0.Keeps s) :
    s0.Keeps (State.startClock s) := by
  unfold State.startClock
  repeat' first
    | with_reducible intro _
    | with_reducible assumption
    | with_reducible exact State.Keeps.refl _
    | (extract_lets +onlyGivenNames x; clear_value (hx : x = _); first | refine State.Keeps.local (s0 := s0) hx ?_ fun k => ?_ | skip)
    | with_reducible apply State.Keeps.ite
    | with_reducible apply State.calLost_keeps
    | with_reducible apply State.timeUnitReturn_keeps
    | fail_if_no_progress (with_reducible apply State.Keeps.rest)
    | dsimp only
    | split

theorem State.bistGroupEnd_keeps {s0 s : State} {res : List (Nat × Nat × Nat × Nat × Nat)} (kept : s0.Keeps s) :
    s0.Keeps (State.bistGroupEnd s res) := by
  unfold State.bistGroupEnd
  repeat' first
    | with_reducible intro _
    | with_reducible assumption
    | with_reducible exact State.Keeps.refl _
    | (extract_lets +onlyGivenNames x; clear_value (hx : x = _); first | refine State.Keeps.local (s0 := s0) hx ?_ fun k => ?_ | skip)
    | with_reducible apply State.Keeps.ite
    | with_reducible apply State.startClock_keeps
    | with_reducible apply State.bistBank_keeps
    | with_reducible apply State.bistOne_keeps
    | with_reducible apply State.forEach_keeps
    | fail_if_no_progress (with_reducible apply State.Keeps.rest)
    | dsimp only
    | split

theorem State.selectSlot_keeps {s0 s : State} (kept : s0.Keeps s) :
    s0.Keeps (State.selectSlot s).2 := by
  unfold State.selectSlot
  repeat' first
    | with_reducible intro _
    | with_reducible assumption
    | with_reducible exact State.Keeps.refl _
    | (extract_lets +onlyGivenNames x; clear_value (hx : x = _); first | refine State.Keeps.local (s0 := s0) hx ?_ fun k => ?_ | skip)
    | with_reducible apply State.Keeps.ite
    | with_reducible apply State.withCtl_keeps
    | with_reducible apply State.Keeps.ite_snd
    | fail_if_no_progress (with_reducible apply State.Keeps.rest)
    | dsimp only
    | split

theorem State.pairsOn_keeps {s0 s : State} {slot : Nat} (kept : s0.Keeps s) :
    s0.Keeps (State.pairsOn s slot) := by
  unfold State.pairsOn
  repeat' first
    | with_reducible intro _
    | with_reducible assumption
    | with_reducible exact State.Keeps.refl _
    | (extract_lets +onlyGivenNames x; clear_value (hx : x = _); first | refine State.Keeps.local (s0 := s0) hx ?_ fun k => ?_ | skip)
    | with_reducible apply State.Keeps.ite
    | with_reducible apply State.forEach_keeps
    | with_reducible apply State.wrF_keeps
    | fail_if_no_progress (with_reducible apply State.Keeps.rest)
    | dsimp only
    | split

theorem State.bootTest_keeps {s0 s : State} {n : Nat} {r : Bool × Nat × Nat} (kept : s0.Keeps s) :
    s0.Keeps (State.bootTest s n r) := by
  unfold State.bootTest
  repeat' first
    | with_reducible intro _
    | with_reducible assumption
    | with_reducible exact State.Keeps.refl _
    | (extract_lets +onlyGivenNames x; clear_value (hx : x = _); first | refine State.Keeps.local (s0 := s0) hx ?_ fun k => ?_ | skip)
    | with_reducible apply State.Keeps.ite
    | with_reducible apply State.setCar_keeps
    | with_reducible apply State.event_keeps
    | with_reducible apply State.wrF_keeps
    | fail_if_no_progress (with_reducible apply State.Keeps.rest)
    | dsimp only
    | split

theorem State.releasePairs_keeps {s0 s : State} {k : Nat} {failover : Bool} (kept : s0.Keeps s) :
    s0.Keeps (State.releasePairs s k failover) := by
  unfold State.releasePairs
  repeat' first
    | with_reducible intro _
    | with_reducible assumption
    | with_reducible exact State.Keeps.refl _
    | (extract_lets +onlyGivenNames x; clear_value (hx : x = _); first | refine State.Keeps.local (s0 := s0) hx ?_ fun k => ?_ | skip)
    | with_reducible apply State.Keeps.ite
    | with_reducible apply State.measured_keeps
    | with_reducible apply State.pairsOn_keeps
    | with_reducible apply State.takeEpoch_keeps
    | with_reducible apply State.recoverLedger_keeps
    | with_reducible apply State.wrB_keeps
    | with_reducible apply State.wrF_keeps
    | fail_if_no_progress (with_reducible apply State.Keeps.rest)
    | dsimp only
    | split

theorem State.measureBoot_keeps {s0 s : State} {station : Bool × Nat × Nat} {signal : Bool × Nat × Nat} (kept : s0.Keeps s) :
    s0.Keeps (State.measureBoot s station signal) := by
  unfold State.measureBoot
  repeat' first
    | with_reducible intro _
    | with_reducible assumption
    | with_reducible exact State.Keeps.refl _
    | (extract_lets +onlyGivenNames x; clear_value (hx : x = _); first | refine State.Keeps.local (s0 := s0) hx ?_ fun k => ?_ | (have g := State.regs x.2; clear g; subst hx) | skip)
    | with_reducible apply State.Keeps.ite
    | with_reducible apply State.releasePairs_keeps
    | with_reducible apply State.bootTest_keeps
    | with_reducible apply State.selectSlot_keeps
    | with_reducible apply State.standstill_keeps
    | with_reducible apply State.withKey_keeps
    | fail_if_no_progress (with_reducible apply State.Keeps.rest)
    | dsimp only
    | refine State.Keeps.of_snd ‹_ = (_, _)› ?_
    | split

theorem State.measured_keeps {s0 s : State} {station : Bool × Nat × Nat} {signal : Bool × Nat × Nat} (kept : s0.Keeps s) :
    s0.Keeps (State.measured s station signal) := by
  unfold State.measured
  repeat' first
    | with_reducible intro _
    | with_reducible assumption
    | with_reducible exact State.Keeps.refl _
    | (extract_lets +onlyGivenNames x; clear_value (hx : x = _); first | refine State.Keeps.local (s0 := s0) hx ?_ fun k => ?_ | skip)
    | with_reducible apply State.Keeps.ite
    | with_reducible apply State.measureBoot_keeps
    | fail_if_no_progress (with_reducible apply State.Keeps.rest)
    | dsimp only
    | split

end Sys2Proof.Machine
end

