-- ==== Sys2Proof/Laws/KeepsActions.lean ====
section
/-! SUPPORT. What the definitions of Machine/Actions keep (`State.Keeps`). -/

set_option linter.unusedTactic false
set_option linter.unreachableTactic false

namespace Sys2Proof.Machine

theorem State.resetMinima_keeps {s0 s : State} (kept : s0.Keeps s) :
    s0.Keeps (State.resetMinima s) := by
  unfold State.resetMinima
  repeat' first
    | with_reducible intro _
    | with_reducible assumption
    | with_reducible exact State.Keeps.refl _
    | (extract_lets +onlyGivenNames x; clear_value (hx : x = _); first | refine State.Keeps.local (s0 := s0) hx ?_ fun k => ?_ | skip)
    | with_reducible apply State.Keeps.ite
    | with_reducible apply State.forEach_keeps
    | with_reducible apply State.wr_keeps
    | fail_if_no_progress (with_reducible apply State.Keeps.rest)
    | dsimp only
    | split

theorem State.resetLeastFree_keeps {s0 s : State} (kept : s0.Keeps s) :
    s0.Keeps (State.resetLeastFree s) := by
  unfold State.resetLeastFree
  repeat' first
    | with_reducible intro _
    | with_reducible assumption
    | with_reducible exact State.Keeps.refl _
    | (extract_lets +onlyGivenNames x; clear_value (hx : x = _); first | refine State.Keeps.local (s0 := s0) hx ?_ fun k => ?_ | skip)
    | with_reducible apply State.Keeps.ite
    | with_reducible apply State.withBuf_keeps
    | fail_if_no_progress (with_reducible apply State.Keeps.rest)
    | dsimp only
    | split

theorem State.flushEffect_keeps {s0 s : State} {p : Nat} {delivery : Bool} (kept : s0.Keeps s) :
    s0.Keeps (State.flushEffect s p delivery) := by
  unfold State.flushEffect
  repeat' first
    | with_reducible intro _
    | with_reducible assumption
    | with_reducible exact State.Keeps.refl _
    | (extract_lets +onlyGivenNames x; clear_value (hx : x = _); first | refine State.Keeps.local (s0 := s0) hx ?_ fun k => ?_ | skip)
    | with_reducible apply State.Keeps.ite
    | with_reducible apply State.loseFrames_keeps
    | with_reducible apply State.dropRef_keeps
    | with_reducible apply State.withBuf_keeps
    | with_reducible apply State.forEach_keeps
    | with_reducible apply State.wr_keeps
    | with_reducible apply State.Keeps.id
    | fail_if_no_progress (with_reducible apply State.Keeps.rest)
    | dsimp only
    | split

theorem State.flushStart_keeps {s0 s : State} (kept : s0.Keeps s) :
    s0.Keeps (State.flushStart s) := by
  unfold State.flushStart
  repeat' first
    | with_reducible intro _
    | with_reducible assumption
    | with_reducible exact State.Keeps.refl _
    | (extract_lets +onlyGivenNames x; clear_value (hx : x = _); first | refine State.Keeps.local (s0 := s0) hx ?_ fun k => ?_ | skip)
    | with_reducible apply State.Keeps.ite
    | with_reducible apply State.flushEffect_keeps
    | with_reducible apply State.withBuf_keeps
    | with_reducible apply State.wr_keeps
    | fail_if_no_progress (with_reducible apply State.Keeps.rest)
    | dsimp only
    | split

theorem State.flushDue_keeps {s0 s : State} (kept : s0.Keeps s) :
    s0.Keeps (State.flushDue s) := by
  unfold State.flushDue
  repeat' first
    | with_reducible intro _
    | with_reducible assumption
    | with_reducible exact State.Keeps.refl _
    | (extract_lets +onlyGivenNames x; clear_value (hx : x = _); first | refine State.Keeps.local (s0 := s0) hx ?_ fun k => ?_ | skip)
    | with_reducible apply State.Keeps.ite
    | with_reducible apply State.flushEffect_keeps
    | fail_if_no_progress (with_reducible apply State.Keeps.rest)
    | dsimp only
    | split

theorem State.clearLog_keeps {s0 s : State} {p : Nat} (kept : s0.Keeps s) :
    s0.Keeps (State.clearLog s p) := by
  unfold State.clearLog
  repeat' first
    | with_reducible intro _
    | with_reducible assumption
    | with_reducible exact State.Keeps.refl _
    | (extract_lets +onlyGivenNames x; clear_value (hx : x = _); first | refine State.Keeps.local (s0 := s0) hx ?_ fun k => ?_ | skip)
    | with_reducible apply State.Keeps.ite
    | with_reducible apply State.setWin_keeps
    | with_reducible apply State.wr_keeps
    | fail_if_no_progress (with_reducible apply State.Keeps.rest)
    | dsimp only
    | split

theorem State.armProbe_keeps {s0 s : State} (kept : s0.Keeps s) :
    s0.Keeps (State.armProbe s) := by
  unfold State.armProbe
  repeat' first
    | with_reducible intro _
    | with_reducible assumption
    | with_reducible exact State.Keeps.refl _
    | (extract_lets +onlyGivenNames x; clear_value (hx : x = _); first | refine State.Keeps.local (s0 := s0) hx ?_ fun k => ?_ | skip)
    | with_reducible apply State.Keeps.ite
    | with_reducible apply State.forEach_keeps
    | with_reducible apply State.wr_keeps
    | fail_if_no_progress (with_reducible apply State.Keeps.rest)
    | dsimp only
    | split

theorem State.snapPort_keeps {s0 s : State} {p : Nat} {sel : Bool} (kept : s0.Keeps s) :
    s0.Keeps (State.snapPort s p sel) := by
  unfold State.snapPort
  repeat' first
    | with_reducible intro _
    | with_reducible assumption
    | with_reducible exact State.Keeps.refl _
    | (extract_lets +onlyGivenNames x; clear_value (hx : x = _); first | refine State.Keeps.local (s0 := s0) hx ?_ fun k => ?_ | (have g := fun u => State.regs (x u); clear g; subst hx) | (have g := fun u v => State.regs (x u v); clear g; subst hx) | (have g := fun u v w => State.regs (x u v w); clear g; subst hx) | (have g := fun u v w y => State.regs (x u v w y); clear g; subst hx) | skip)
    | with_reducible apply State.Keeps.ite
    | with_reducible apply State.forEach_keeps
    | with_reducible apply State.setWin_keeps
    | with_reducible apply State.wr_keeps
    | fail_if_no_progress (with_reducible apply State.Keeps.rest)
    | dsimp only
    | split

theorem State.snapshot_keeps {s0 s : State} (kept : s0.Keeps s) :
    s0.Keeps (State.snapshot s) := by
  unfold State.snapshot
  repeat' first
    | with_reducible intro _
    | with_reducible assumption
    | with_reducible exact State.Keeps.refl _
    | (extract_lets +onlyGivenNames x; clear_value (hx : x = _); first | refine State.Keeps.local (s0 := s0) hx ?_ fun k => ?_ | skip)
    | with_reducible apply State.Keeps.ite
    | with_reducible apply State.snapPort_keeps
    | with_reducible apply State.forEach_keeps
    | with_reducible apply State.bump_keeps
    | with_reducible apply State.wr_keeps
    | fail_if_no_progress (with_reducible apply State.Keeps.rest)
    | dsimp only
    | split

theorem State.busOffRecover_keeps {s0 s : State} {c : Nat} (kept : s0.Keeps s) :
    s0.Keeps (State.busOffRecover s c) := by
  unfold State.busOffRecover
  repeat' first
    | with_reducible intro _
    | with_reducible assumption
    | with_reducible exact State.Keeps.refl _
    | (extract_lets +onlyGivenNames x; clear_value (hx : x = _); first | refine State.Keeps.local (s0 := s0) hx ?_ fun k => ?_ | skip)
    | with_reducible apply State.Keeps.ite
    | with_reducible apply State.modCh_keeps
    | with_reducible apply State.wr_keeps
    | fail_if_no_progress (with_reducible apply State.Keeps.rest)
    | dsimp only
    | split

theorem State.requestBuffer_keeps {s0 s : State} {c : Nat} {b : Nat} (kept : s0.Keeps s) :
    s0.Keeps (State.requestBuffer s c b) := by
  unfold State.requestBuffer
  repeat' first
    | with_reducible intro _
    | with_reducible assumption
    | with_reducible exact State.Keeps.refl _
    | (extract_lets +onlyGivenNames x; clear_value (hx : x = _); first | refine State.Keeps.local (s0 := s0) hx ?_ fun k => ?_ | skip)
    | with_reducible apply State.Keeps.ite
    | with_reducible apply State.canOffer_keeps
    | with_reducible apply State.wr_keeps
    | fail_if_no_progress (with_reducible apply State.Keeps.rest)
    | dsimp only
    | split

theorem State.cancelBuffer_keeps {s0 s : State} {c : Nat} {b : Nat} (kept : s0.Keeps s) :
    s0.Keeps (State.cancelBuffer s c b) := by
  unfold State.cancelBuffer
  repeat' first
    | with_reducible intro _
    | with_reducible assumption
    | with_reducible exact State.Keeps.refl _
    | (extract_lets +onlyGivenNames x; clear_value (hx : x = _); first | refine State.Keeps.local (s0 := s0) hx ?_ fun k => ?_ | skip)
    | with_reducible apply State.Keeps.ite
    | with_reducible apply State.wr_keeps
    | fail_if_no_progress (with_reducible apply State.Keeps.rest)
    | dsimp only
    | split

theorem State.gateChange_keeps {s0 s : State} {p : Nat} (kept : s0.Keeps s) :
    s0.Keeps (State.gateChange s p) := by
  unfold State.gateChange
  repeat' first
    | with_reducible intro _
    | with_reducible assumption
    | with_reducible exact State.Keeps.refl _
    | (extract_lets +onlyGivenNames x; clear_value (hx : x = _); first | refine State.Keeps.local (s0 := s0) hx ?_ fun k => ?_ | skip)
    | with_reducible apply State.Keeps.ite
    | with_reducible apply State.modPtm_keeps
    | with_reducible apply State.wr_keeps
    | fail_if_no_progress (with_reducible apply State.Keeps.rest)
    | dsimp only
    | split

theorem State.releaseTrace_keeps {s0 s : State} {n : Nat} (kept : s0.Keeps s) :
    s0.Keeps (State.releaseTrace s n) := by
  unfold State.releaseTrace
  repeat' first
    | with_reducible intro _
    | with_reducible assumption
    | with_reducible exact State.Keeps.refl _
    | (extract_lets +onlyGivenNames x; clear_value (hx : x = _); first | refine State.Keeps.local (s0 := s0) hx ?_ fun k => ?_ | skip)
    | with_reducible apply State.Keeps.ite
    | with_reducible apply State.setWin_keeps
    | with_reducible apply State.wr_keeps
    | fail_if_no_progress (with_reducible apply State.Keeps.rest)
    | dsimp only
    | split

theorem State.verifyStart_keeps {s0 s : State} {p : Nat} (kept : s0.Keeps s) :
    s0.Keeps (State.verifyStart s p) := by
  unfold State.verifyStart
  repeat' first
    | with_reducible intro _
    | with_reducible assumption
    | with_reducible exact State.Keeps.refl _
    | (extract_lets +onlyGivenNames x; clear_value (hx : x = _); first | refine State.Keeps.local (s0 := s0) hx ?_ fun k => ?_ | skip)
    | with_reducible apply State.Keeps.ite
    | with_reducible apply State.modPtm_keeps
    | with_reducible apply State.wr_keeps
    | fail_if_no_progress (with_reducible apply State.Keeps.rest)
    | dsimp only
    | split

theorem State.capture_keeps {s0 s : State} (kept : s0.Keeps s) :
    s0.Keeps (State.capture s) := by
  unfold State.capture
  repeat' first
    | with_reducible intro _
    | with_reducible assumption
    | with_reducible exact State.Keeps.refl _
    | (extract_lets +onlyGivenNames x; clear_value (hx : x = _); first | refine State.Keeps.local (s0 := s0) hx ?_ fun k => ?_ | skip)
    | with_reducible apply State.Keeps.ite
    | with_reducible apply State.wr_keeps
    | fail_if_no_progress (with_reducible apply State.Keeps.rest)
    | dsimp only
    | split

theorem State.applyCorrection_keeps {s0 s : State} (kept : s0.Keeps s) :
    s0.Keeps (State.applyCorrection s) := by
  unfold State.applyCorrection
  repeat' first
    | with_reducible intro _
    | with_reducible assumption
    | with_reducible exact State.Keeps.refl _
    | (extract_lets +onlyGivenNames x; clear_value (hx : x = _); first | refine State.Keeps.local (s0 := s0) hx ?_ fun k => ?_ | skip)
    | with_reducible apply State.Keeps.ite
    | with_reducible apply State.applyTime_keeps
    | fail_if_no_progress (with_reducible apply State.Keeps.rest)
    | dsimp only
    | split

theorem State.keyDone_keeps {s0 s : State} {sess : Nat} {h : Nat} {act : Nat} {a : KeyAnswer} (kept : s0.Keeps s) :
    s0.Keeps (State.keyDone s sess h act a) := by
  unfold State.keyDone
  repeat' first
    | with_reducible intro _
    | with_reducible assumption
    | with_reducible exact State.Keeps.refl _
    | (extract_lets +onlyGivenNames x; clear_value (hx : x = _); first | refine State.Keeps.local (s0 := s0) hx ?_ fun k => ?_ | skip)
    | with_reducible apply State.Keeps.ite
    | with_reducible apply State.authFailure_keeps
    | with_reducible apply State.revokeAll_keeps
    | with_reducible apply State.rederive_keeps
    | with_reducible apply State.forEach_keeps
    | with_reducible apply State.event_keeps
    | with_reducible apply State.wr_keeps
    | fail_if_no_progress (with_reducible apply State.Keeps.rest)
    | dsimp only
    | split

theorem State.keyAct_keeps {s0 s : State} {h : Nat} {act : Nat} {kind : Nat} {parent : Nat} {wide : Bool} {label : List Byte} (kept : s0.Keeps s) :
    s0.Keeps (State.keyAct s h act kind parent wide label).2 := by
  unfold State.keyAct
  repeat' first
    | with_reducible intro _
    | with_reducible assumption
    | with_reducible exact State.Keeps.refl _
    | (extract_lets +onlyGivenNames x; clear_value (hx : x = _); first | refine State.Keeps.local (s0 := s0) hx ?_ fun k => ?_ | skip)
    | with_reducible apply State.Keeps.ite
    | with_reducible apply State.brownOut_keeps
    | with_reducible apply State.keyClose_keeps
    | with_reducible apply State.keyReseal_keeps
    | with_reducible apply State.keyDelete_keeps
    | with_reducible apply State.keyRevoke_keeps
    | with_reducible apply State.keyRotate_keeps
    | with_reducible apply State.keyImport_keeps
    | with_reducible apply State.keyGenerate_keeps
    | with_reducible apply State.keyDefine_keeps
    | with_reducible apply State.Keeps.ite_snd
    | fail_if_no_progress (with_reducible apply State.Keeps.rest)
    | dsimp only
    | refine State.Keeps.of_snd ‹_ = (_, _)› ?_
    | split

theorem State.keyCommand_keeps {s0 s : State} {sess : Nat} (kept : s0.Keeps s) :
    s0.Keeps (State.keyCommand s sess) := by
  unfold State.keyCommand
  repeat' first
    | with_reducible intro _
    | with_reducible assumption
    | with_reducible exact State.Keeps.refl _
    | (extract_lets +onlyGivenNames x; clear_value (hx : x = _); first | refine State.Keeps.local (s0 := s0) hx ?_ fun k => ?_ | (have g := State.regs x.2; clear g; subst hx) | skip)
    | with_reducible apply State.Keeps.ite
    | with_reducible apply State.keyAct_keeps
    | with_reducible apply State.keyDone_keeps
    | fail_if_no_progress (with_reducible apply State.Keeps.rest)
    | dsimp only
    | refine State.Keeps.of_snd ‹_ = (_, _)› ?_
    | split

theorem State.attest_keeps {s0 s : State} (kept : s0.Keeps s) :
    s0.Keeps (State.attest s) := by
  unfold State.attest
  repeat' first
    | with_reducible intro _
    | with_reducible assumption
    | with_reducible exact State.Keeps.refl _
    | (extract_lets +onlyGivenNames x; clear_value (hx : x = _); first | refine State.Keeps.local (s0 := s0) hx ?_ fun k => ?_ | skip)
    | with_reducible apply State.Keeps.ite
    | with_reducible apply State.brownOut_keeps
    | with_reducible apply State.setWin_keeps
    | with_reducible apply State.wr_keeps
    | fail_if_no_progress (with_reducible apply State.Keeps.rest)
    | dsimp only
    | split

theorem State.newNonce_keeps {s0 s : State} (kept : s0.Keeps s) :
    s0.Keeps (State.newNonce s) := by
  unfold State.newNonce
  repeat' first
    | with_reducible intro _
    | with_reducible assumption
    | with_reducible exact State.Keeps.refl _
    | (extract_lets +onlyGivenNames x; clear_value (hx : x = _); first | refine State.Keeps.local (s0 := s0) hx ?_ fun k => ?_ | skip)
    | with_reducible apply State.Keeps.ite
    | with_reducible apply State.draw_keeps
    | with_reducible apply State.setWin_keeps
    | fail_if_no_progress (with_reducible apply State.Keeps.rest)
    | dsimp only
    | refine State.Keeps.of_snd ‹_ = (_, _)› ?_
    | split

theorem State.lifeIllegal_keeps {s0 s : State} (kept : s0.Keeps s) :
    s0.Keeps (State.lifeIllegal s) := by
  unfold State.lifeIllegal
  repeat' first
    | with_reducible intro _
    | with_reducible assumption
    | with_reducible exact State.Keeps.refl _
    | (extract_lets +onlyGivenNames x; clear_value (hx : x = _); first | refine State.Keeps.local (s0 := s0) hx ?_ fun k => ?_ | skip)
    | with_reducible apply State.Keeps.ite
    | with_reducible apply State.newNonce_keeps
    | with_reducible apply State.trip_keeps
    | with_reducible apply State.wr_keeps
    | fail_if_no_progress (with_reducible apply State.Keeps.rest)
    | dsimp only
    | split

theorem State.lifeErase_keeps {s0 s : State} {target : Nat} (kept : s0.Keeps s) :
    s0.Keeps (State.lifeErase s target) := by
  unfold State.lifeErase
  repeat' first
    | with_reducible intro _
    | with_reducible assumption
    | with_reducible exact State.Keeps.refl _
    | (extract_lets +onlyGivenNames x; clear_value (hx : x = _); first | refine State.Keeps.local (s0 := s0) hx ?_ fun k => ?_ | skip)
    | with_reducible apply State.Keeps.ite
    | with_reducible apply State.withCtl_keeps
    | with_reducible apply State.withKey_keeps
    | with_reducible apply State.setWin_keeps
    | with_reducible apply State.wrB_keeps
    | with_reducible apply State.wr_keeps
    | fail_if_no_progress (with_reducible apply State.Keeps.rest)
    | dsimp only
    | split

theorem State.lifeRequest_keeps {s0 s : State} {target : Nat} (kept : s0.Keeps s) :
    s0.Keeps (State.lifeRequest s target) := by
  unfold State.lifeRequest
  repeat' first
    | with_reducible intro _
    | with_reducible assumption
    | with_reducible exact State.Keeps.refl _
    | (extract_lets +onlyGivenNames x; clear_value (hx : x = _); first | refine State.Keeps.local (s0 := s0) hx ?_ fun k => ?_ | skip)
    | with_reducible apply State.Keeps.ite
    | with_reducible apply State.lifeErase_keeps
    | with_reducible apply State.lifeIllegal_keeps
    | with_reducible apply State.deviceRestart_keeps
    | with_reducible apply State.revokeAll_keeps
    | with_reducible apply State.brownOut_keeps
    | with_reducible apply State.countCommit_keeps
    | with_reducible apply State.withKey_keeps
    | with_reducible apply State.event_keeps
    | with_reducible apply State.wr_keeps
    | fail_if_no_progress (with_reducible apply State.Keeps.rest)
    | dsimp only
    | split

theorem State.thaw_keeps {s0 s : State} (kept : s0.Keeps s) :
    s0.Keeps (State.thaw s) := by
  unfold State.thaw
  repeat' first
    | with_reducible intro _
    | with_reducible assumption
    | with_reducible exact State.Keeps.refl _
    | (extract_lets +onlyGivenNames x; clear_value (hx : x = _); first | refine State.Keeps.local (s0 := s0) hx ?_ fun k => ?_ | skip)
    | with_reducible apply State.Keeps.ite
    | with_reducible apply State.deviceRestart_keeps
    | with_reducible apply State.wr_keeps
    | fail_if_no_progress (with_reducible apply State.Keeps.rest)
    | dsimp only
    | split

theorem State.powerCommand_keeps {s0 s : State} {v : Nat} (kept : s0.Keeps s) :
    s0.Keeps (State.powerCommand s v) := by
  unfold State.powerCommand
  repeat' first
    | with_reducible intro _
    | with_reducible assumption
    | with_reducible exact State.Keeps.refl _
    | (extract_lets +onlyGivenNames x; clear_value (hx : x = _); first | refine State.Keeps.local (s0 := s0) hx ?_ fun k => ?_ | skip)
    | with_reducible apply State.Keeps.ite
    | with_reducible apply State.enterSleep_keeps
    | with_reducible apply State.armSleep_keeps
    | with_reducible apply State.latchWake_keeps
    | with_reducible apply State.powerOff_keeps
    | fail_if_no_progress (with_reducible apply State.Keeps.rest)
    | dsimp only
    | split

end Sys2Proof.Machine
end

