-- ==== Sys2Proof/Laws/KeepsApply.lean ====
section
/-! SUPPORT. What the definitions of Machine/Apply keep (`State.Keeps`). -/

set_option linter.unusedTactic false
set_option linter.unreachableTactic false

namespace Sys2Proof.Machine

theorem State.putPort_keeps {s0 s : State} {off : Nat} {p : Nat} {sub : Nat} {v : Nat} (kept : s0.Keeps s) :
    s0.Keeps (State.putPort s off p sub v) := by
  unfold State.putPort
  repeat' first
    | with_reducible intro _
    | with_reducible assumption
    | with_reducible exact State.Keeps.refl _
    | (extract_lets +onlyGivenNames x; clear_value (hx : x = _); first | refine State.Keeps.local (s0 := s0) hx ?_ fun k => ?_ | skip)
    | with_reducible apply State.Keeps.ite
    | with_reducible apply State.clearLog_keeps
    | with_reducible apply State.writePortMode_keeps
    | with_reducible apply State.writeThreshold_keeps
    | with_reducible apply State.wr_keeps
    | fail_if_no_progress (with_reducible apply State.Keeps.rest)
    | dsimp only
    | split

theorem State.putBufferLock_keeps {s0 s : State} {sess : Nat} {c : Nat} {v : Nat} (kept : s0.Keeps s) :
    s0.Keeps (State.putBufferLock s sess c v) := by
  unfold State.putBufferLock
  repeat' first
    | with_reducible intro _
    | with_reducible assumption
    | with_reducible exact State.Keeps.refl _
    | (extract_lets +onlyGivenNames x; clear_value (hx : x = _); first | refine State.Keeps.local (s0 := s0) hx ?_ fun k => ?_ | skip)
    | with_reducible apply State.Keeps.ite
    | with_reducible apply State.freeLock_keeps
    | with_reducible apply State.claimLock_keeps
    | with_reducible apply State.writeLock_keeps
    | fail_if_no_progress (with_reducible apply State.Keeps.rest)
    | dsimp only
    | split

theorem State.putMatrix_keeps {s0 s : State} {c : Nat} {v : Nat} (kept : s0.Keeps s) :
    s0.Keeps (State.putMatrix s c v) := by
  unfold State.putMatrix
  repeat' first
    | with_reducible intro _
    | with_reducible assumption
    | with_reducible exact State.Keeps.refl _
    | (extract_lets +onlyGivenNames x; clear_value (hx : x = _); first | refine State.Keeps.local (s0 := s0) hx ?_ fun k => ?_ | skip)
    | with_reducible apply State.Keeps.ite
    | with_reducible apply State.canOffer_keeps
    | with_reducible apply State.modCh_keeps
    | with_reducible apply State.wr_keeps
    | fail_if_no_progress (with_reducible apply State.Keeps.rest)
    | dsimp only
    | split

theorem State.putChannel_keeps {s0 s : State} {sess : Nat} {off : Nat} {c : Nat} {sub : Nat} {v : Nat} (kept : s0.Keeps s) :
    s0.Keeps (State.putChannel s sess off c sub v) := by
  unfold State.putChannel
  repeat' first
    | with_reducible intro _
    | with_reducible assumption
    | with_reducible exact State.Keeps.refl _
    | (extract_lets +onlyGivenNames x; clear_value (hx : x = _); first | refine State.Keeps.local (s0 := s0) hx ?_ fun k => ?_ | skip)
    | with_reducible apply State.Keeps.ite
    | with_reducible apply State.putMatrix_keeps
    | with_reducible apply State.putBufferLock_keeps
    | with_reducible apply State.cancelBuffer_keeps
    | with_reducible apply State.requestBuffer_keeps
    | with_reducible apply State.busOffRecover_keeps
    | with_reducible apply State.changeMode_keeps
    | with_reducible apply State.wr_keeps
    | fail_if_no_progress (with_reducible apply State.Keeps.rest)
    | dsimp only
    | split

theorem State.putGateway_keeps {s0 s : State} {v : Nat} (kept : s0.Keeps s) :
    s0.Keeps (State.putGateway s v) := by
  unfold State.putGateway
  repeat' first
    | with_reducible intro _
    | with_reducible assumption
    | with_reducible exact State.Keeps.refl _
    | (extract_lets +onlyGivenNames x; clear_value (hx : x = _); first | refine State.Keeps.local (s0 := s0) hx ?_ fun k => ?_ | skip)
    | with_reducible apply State.Keeps.ite
    | with_reducible apply State.gwEnable_keeps
    | with_reducible apply State.wr_keeps
    | fail_if_no_progress (with_reducible apply State.Keeps.rest)
    | dsimp only
    | split

theorem State.putTm_keeps {s0 s : State} {off : Nat} {p : Nat} {sub : Nat} {v : Nat} (kept : s0.Keeps s) :
    s0.Keeps (State.putTm s off p sub v) := by
  unfold State.putTm
  repeat' first
    | with_reducible intro _
    | with_reducible assumption
    | with_reducible exact State.Keeps.refl _
    | (extract_lets +onlyGivenNames x; clear_value (hx : x = _); first | refine State.Keeps.local (s0 := s0) hx ?_ fun k => ?_ | skip)
    | with_reducible apply State.Keeps.ite
    | with_reducible apply State.verifyStart_keeps
    | with_reducible apply State.gateChange_keeps
    | with_reducible apply State.restartObservation_keeps
    | with_reducible apply State.wr_keeps
    | fail_if_no_progress (with_reducible apply State.Keeps.rest)
    | dsimp only
    | split

theorem State.putPulse_keeps {s0 s : State} {n : Nat} {v : Nat} (kept : s0.Keeps s) :
    s0.Keeps (State.putPulse s n v) := by
  unfold State.putPulse
  repeat' first
    | with_reducible intro _
    | with_reducible assumption
    | with_reducible exact State.Keeps.refl _
    | (extract_lets +onlyGivenNames x; clear_value (hx : x = _); first | refine State.Keeps.local (s0 := s0) hx ?_ fun k => ?_ | skip)
    | with_reducible apply State.Keeps.ite
    | with_reducible apply State.setPulse_keeps
    | with_reducible apply State.wr_keeps
    | fail_if_no_progress (with_reducible apply State.Keeps.rest)
    | dsimp only
    | split

theorem State.putTrigger_keeps {s0 s : State} {n : Nat} {v : Nat} (kept : s0.Keeps s) :
    s0.Keeps (State.putTrigger s n v) := by
  unfold State.putTrigger
  repeat' first
    | with_reducible intro _
    | with_reducible assumption
    | with_reducible exact State.Keeps.refl _
    | (extract_lets +onlyGivenNames x; clear_value (hx : x = _); first | refine State.Keeps.local (s0 := s0) hx ?_ fun k => ?_ | skip)
    | with_reducible apply State.Keeps.ite
    | with_reducible apply State.trigEnable_keeps
    | with_reducible apply State.setTrig_keeps
    | with_reducible apply State.wr_keeps
    | fail_if_no_progress (with_reducible apply State.Keeps.rest)
    | dsimp only
    | split

theorem State.putTime_keeps {s0 s : State} {idx : Nat} {sub : Nat} {v : Nat} (kept : s0.Keeps s) :
    s0.Keeps (State.putTime s idx sub v) := by
  unfold State.putTime
  repeat' first
    | with_reducible intro _
    | with_reducible assumption
    | with_reducible exact State.Keeps.refl _
    | (extract_lets +onlyGivenNames x; clear_value (hx : x = _); first | refine State.Keeps.local (s0 := s0) hx ?_ fun k => ?_ | skip)
    | with_reducible apply State.Keeps.ite
    | with_reducible apply State.putTrigger_keeps
    | with_reducible apply State.putPulse_keeps
    | with_reducible apply State.applyCorrection_keeps
    | with_reducible apply State.capture_keeps
    | with_reducible apply State.lifeCommit_keeps
    | with_reducible apply State.declareLoss_keeps
    | with_reducible apply State.wr_keeps
    | fail_if_no_progress (with_reducible apply State.Keeps.rest)
    | dsimp only
    | split

theorem State.putControl_keeps {s0 s : State} {idx : Nat} {sub : Nat} {v : Nat} (kept : s0.Keeps s) :
    s0.Keeps (State.putControl s idx sub v) := by
  unfold State.putControl
  repeat' first
    | with_reducible intro _
    | with_reducible assumption
    | with_reducible exact State.Keeps.refl _
    | (extract_lets +onlyGivenNames x; clear_value (hx : x = _); first | refine State.Keeps.local (s0 := s0) hx ?_ fun k => ?_ | skip)
    | with_reducible apply State.Keeps.ite
    | with_reducible apply State.powerCommand_keeps
    | with_reducible apply State.flushStart_keeps
    | with_reducible apply State.resetLeastFree_keeps
    | with_reducible apply State.resetMinima_keeps
    | with_reducible apply State.selectReference_keeps
    | with_reducible apply State.withPower_keeps
    | with_reducible apply State.fwCommand_keeps
    | with_reducible apply State.carriageCommand_keeps
    | with_reducible apply State.withCar_keeps
    | with_reducible apply State.wr_keeps
    | fail_if_no_progress (with_reducible apply State.Keeps.rest)
    | dsimp only
    | split

theorem State.putSecurity_keeps {s0 s : State} {sess : Nat} {idx : Nat} {sub : Nat} {v : Nat} (kept : s0.Keeps s) :
    s0.Keeps (State.putSecurity s sess idx sub v) := by
  unfold State.putSecurity
  repeat' first
    | with_reducible intro _
    | with_reducible assumption
    | with_reducible exact State.Keeps.refl _
    | (extract_lets +onlyGivenNames x; clear_value (hx : x = _); first | refine State.Keeps.local (s0 := s0) hx ?_ fun k => ?_ | skip)
    | with_reducible apply State.Keeps.ite
    | with_reducible apply State.thaw_keeps
    | with_reducible apply State.lifeRequest_keeps
    | with_reducible apply State.attest_keeps
    | with_reducible apply State.keyCommand_keeps
    | with_reducible apply State.wr_keeps
    | fail_if_no_progress (with_reducible apply State.Keeps.rest)
    | dsimp only
    | split

theorem State.putUpper_keeps {s0 s : State} {idx : Nat} {sub : Nat} {v : Nat} (kept : s0.Keeps s) :
    s0.Keeps (State.putUpper s idx sub v) := by
  unfold State.putUpper
  repeat' first
    | with_reducible intro _
    | with_reducible assumption
    | with_reducible exact State.Keeps.refl _
    | (extract_lets +onlyGivenNames x; clear_value (hx : x = _); first | refine State.Keeps.local (s0 := s0) hx ?_ fun k => ?_ | skip)
    | with_reducible apply State.Keeps.ite
    | with_reducible apply State.snapshot_keeps
    | with_reducible apply State.armProbe_keeps
    | with_reducible apply State.updateMaster_keeps
    | with_reducible apply State.wr_keeps
    | fail_if_no_progress (with_reducible apply State.Keeps.rest)
    | dsimp only
    | split

theorem State.putScalar_keeps {s0 s : State} {sess : Nat} {row : ObjRow} {idx : Nat} {sub : Nat} {v : Nat} (kept : s0.Keeps s) :
    s0.Keeps (State.putScalar s sess row idx sub v) := by
  unfold State.putScalar
  repeat' first
    | with_reducible intro _
    | with_reducible assumption
    | with_reducible exact State.Keeps.refl _
    | (extract_lets +onlyGivenNames x; clear_value (hx : x = _); first | refine State.Keeps.local (s0 := s0) hx ?_ fun k => ?_ | skip)
    | with_reducible apply State.Keeps.ite
    | with_reducible apply State.putUpper_keeps
    | with_reducible apply State.putSecurity_keeps
    | with_reducible apply State.putControl_keeps
    | with_reducible apply State.putTime_keeps
    | with_reducible apply State.putTm_keeps
    | with_reducible apply State.putGateway_keeps
    | with_reducible apply State.putChannel_keeps
    | with_reducible apply State.putPort_keeps
    | with_reducible apply State.releaseTrace_keeps
    | with_reducible apply State.giveUpHalf_keeps
    | with_reducible apply State.fwSwap_keeps
    | with_reducible apply State.fwCopyStart_keeps
    | with_reducible apply State.entryCommand_keeps
    | with_reducible apply State.wr_keeps
    | fail_if_no_progress (with_reducible apply State.Keeps.rest)
    | dsimp only
    | split

theorem State.saWritten_keeps {s0 s : State} {k : Nat} (kept : s0.Keeps s) :
    s0.Keeps (State.saWritten s k) := by
  unfold State.saWritten
  repeat' first
    | with_reducible intro _
    | with_reducible assumption
    | with_reducible exact State.Keeps.refl _
    | (extract_lets +onlyGivenNames x; clear_value (hx : x = _); first | refine State.Keeps.local (s0 := s0) hx ?_ fun k => ?_ | skip)
    | with_reducible apply State.Keeps.ite
    | with_reducible apply State.dropKeys_keeps
    | with_reducible apply State.askKeys_keeps
    | with_reducible apply State.setFlag_keeps
    | with_reducible apply State.withCrypto_keeps
    | with_reducible apply State.setWinLe_keeps
    | with_reducible apply State.setWinB_keeps
    | fail_if_no_progress (with_reducible apply State.Keeps.rest)
    | dsimp only
    | split

theorem State.startFreshness_keeps {s0 s : State} {k : Nat} {changed : Bool} (kept : s0.Keeps s) :
    s0.Keeps (State.startFreshness s k changed) := by
  unfold State.startFreshness
  repeat' first
    | with_reducible intro _
    | with_reducible assumption
    | with_reducible exact State.Keeps.refl _
    | (extract_lets +onlyGivenNames x; clear_value (hx : x = _); first | refine State.Keeps.local (s0 := s0) hx ?_ fun k => ?_ | skip)
    | with_reducible apply State.Keeps.ite
    | with_reducible apply State.commitFresh_keeps
    | with_reducible apply State.setFlag_keeps
    | with_reducible apply State.setWinLe_keeps
    | fail_if_no_progress (with_reducible apply State.Keeps.rest)
    | dsimp only
    | split

theorem State.auWritten_keeps {s0 s : State} {k : Nat} {old : List Byte} (kept : s0.Keeps s) :
    s0.Keeps (State.auWritten s k old) := by
  unfold State.auWritten
  repeat' first
    | with_reducible intro _
    | with_reducible assumption
    | with_reducible exact State.Keeps.refl _
    | (extract_lets +onlyGivenNames x; clear_value (hx : x = _); first | refine State.Keeps.local (s0 := s0) hx ?_ fun k => ?_ | skip)
    | with_reducible apply State.Keeps.ite
    | with_reducible apply State.startFreshness_keeps
    | with_reducible apply State.dropKeys_keeps
    | with_reducible apply State.askKeys_keeps
    | with_reducible apply State.setFlag_keeps
    | with_reducible apply State.Keeps.id
    | fail_if_no_progress (with_reducible apply State.Keeps.rest)
    | dsimp only
    | split

theorem State.clockWritten_keeps {s0 s : State} {k : Nat} {old : Nat} (kept : s0.Keeps s) :
    s0.Keeps (State.clockWritten s k old) := by
  unfold State.clockWritten
  repeat' first
    | with_reducible intro _
    | with_reducible assumption
    | with_reducible exact State.Keeps.refl _
    | (extract_lets +onlyGivenNames x; clear_value (hx : x = _); first | refine State.Keeps.local (s0 := s0) hx ?_ fun k => ?_ | skip)
    | with_reducible apply State.Keeps.ite
    | with_reducible apply State.applyClocks_keeps
    | fail_if_no_progress (with_reducible apply State.Keeps.rest)
    | dsimp only
    | split

theorem State.regulatorWritten_keeps {s0 s : State} {k : Nat} (kept : s0.Keeps s) :
    s0.Keeps (State.regulatorWritten s k) := by
  unfold State.regulatorWritten
  repeat' first
    | with_reducible intro _
    | with_reducible assumption
    | with_reducible exact State.Keeps.refl _
    | (extract_lets +onlyGivenNames x; clear_value (hx : x = _); first | refine State.Keeps.local (s0 := s0) hx ?_ fun k => ?_ | skip)
    | with_reducible apply State.Keeps.ite
    | with_reducible apply State.raiseExternal_keeps
    | with_reducible apply State.drive_keeps
    | fail_if_no_progress (with_reducible apply State.Keeps.rest)
    | dsimp only
    | split

theorem State.ringWritten_keeps {s0 s : State} {k : Nat} (kept : s0.Keeps s) :
    s0.Keeps (State.ringWritten s k) := by
  unfold State.ringWritten
  repeat' first
    | with_reducible intro _
    | with_reducible assumption
    | with_reducible exact State.Keeps.refl _
    | (extract_lets +onlyGivenNames x; clear_value (hx : x = _); first | refine State.Keeps.local (s0 := s0) hx ?_ fun k => ?_ | skip)
    | with_reducible apply State.Keeps.ite
    | with_reducible apply State.withHost_keeps
    | fail_if_no_progress (with_reducible apply State.Keeps.rest)
    | dsimp only
    | split

theorem State.bufferWritten_keeps {s0 s : State} {c : Nat} {k : Nat} (kept : s0.Keeps s) :
    s0.Keeps (State.bufferWritten s c k) := by
  unfold State.bufferWritten
  repeat' first
    | with_reducible intro _
    | with_reducible assumption
    | with_reducible exact State.Keeps.refl _
    | (extract_lets +onlyGivenNames x; clear_value (hx : x = _); first | refine State.Keeps.local (s0 := s0) hx ?_ fun k => ?_ | skip)
    | with_reducible apply State.Keeps.ite
    | with_reducible apply State.modCh_keeps
    | fail_if_no_progress (with_reducible apply State.Keeps.rest)
    | dsimp only
    | split

theorem State.putRecord_keeps {s0 s : State} {idx : Nat} {sub : Nat} {rsz : Nat} {k : Nat} {r : List Byte} (kept : s0.Keeps s) :
    s0.Keeps (State.putRecord s idx sub rsz k r) := by
  unfold State.putRecord
  repeat' first
    | with_reducible intro _
    | with_reducible assumption
    | with_reducible exact State.Keeps.refl _
    | (extract_lets +onlyGivenNames x; clear_value (hx : x = _); first | refine State.Keeps.local (s0 := s0) hx ?_ fun k => ?_ | skip)
    | with_reducible apply State.Keeps.ite
    | with_reducible apply State.bufferWritten_keeps
    | with_reducible apply State.ringWritten_keeps
    | with_reducible apply State.regulatorWritten_keeps
    | with_reducible apply State.clockWritten_keeps
    | with_reducible apply State.auWritten_keeps
    | with_reducible apply State.saWritten_keeps
    | with_reducible apply State.requestWake_keeps
    | with_reducible apply State.domainWritten_keeps
    | with_reducible apply State.flashWrite_keeps
    | with_reducible apply State.giveUpHalf_keeps
    | with_reducible apply State.dropPrefetch_keeps
    | with_reducible apply State.writePdu_keeps
    | with_reducible apply State.shadowWrite_keeps
    | with_reducible apply State.withTm_keeps
    | with_reducible apply State.setWin_keeps
    | fail_if_no_progress (with_reducible apply State.Keeps.rest)
    | dsimp only
    | split

end Sys2Proof.Machine
end

