-- ==== Sys2Proof/Laws/KeepsDict.lean ====
section
/-! SUPPORT. What the definitions of Machine/Dict keep (`State.Keeps`). -/

set_option linter.unusedTactic false
set_option linter.unreachableTactic false

namespace Sys2Proof.Machine

theorem State.setTarget_keeps {s0 s : State} {sess : Nat} {v : Nat} (kept : s0.Keeps s) :
    s0.Keeps (State.setTarget s sess v).2 := by
  unfold State.setTarget
  repeat' first
    | with_reducible intro _
    | with_reducible assumption
    | with_reducible exact State.Keeps.refl _
    | (extract_lets +onlyGivenNames x; clear_value (hx : x = _); first | refine State.Keeps.local (s0 := s0) hx ?_ fun k => ?_ | (have g := fun u => State.regs (x u); clear g; subst hx) | (have g := fun u v => State.regs (x u v); clear g; subst hx) | (have g := fun u v w => State.regs (x u v w); clear g; subst hx) | (have g := fun u v w y => State.regs (x u v w y); clear g; subst hx) | skip)
    | with_reducible apply State.Keeps.ite
    | with_reducible apply State.withSess_keeps
    | with_reducible apply State.Keeps.ite_snd
    | fail_if_no_progress (with_reducible apply State.Keeps.rest)
    | dsimp only
    | split

theorem State.rawRecord_keeps {s0 s : State} {idx : Nat} {sub : Nat} {rsz : Nat} {k : Nat} {r : List Byte} (kept : s0.Keeps s) :
    s0.Keeps (State.rawRecord s idx sub rsz k r) := by
  unfold State.rawRecord
  repeat' first
    | with_reducible intro _
    | with_reducible assumption
    | with_reducible exact State.Keeps.refl _
    | (extract_lets +onlyGivenNames x; clear_value (hx : x = _); first | refine State.Keeps.local (s0 := s0) hx ?_ fun k => ?_ | skip)
    | with_reducible apply State.Keeps.ite
    | with_reducible apply State.flashWrite_keeps
    | with_reducible apply State.setWin_keeps
    | fail_if_no_progress (with_reducible apply State.Keeps.rest)
    | dsimp only
    | split

theorem State.rawScalar_keeps {s0 s : State} {r : ObjRow} {idx : Nat} {sub : Nat} {v : Nat} (kept : s0.Keeps s) :
    s0.Keeps (State.rawScalar s r idx sub v) := by
  unfold State.rawScalar
  repeat' first
    | with_reducible intro _
    | with_reducible assumption
    | with_reducible exact State.Keeps.refl _
    | (extract_lets +onlyGivenNames x; clear_value (hx : x = _); first | refine State.Keeps.local (s0 := s0) hx ?_ fun k => ?_ | skip)
    | with_reducible apply State.Keeps.ite
    | with_reducible apply State.wrF_keeps
    | with_reducible apply State.wr_keeps
    | fail_if_no_progress (with_reducible apply State.Keeps.rest)
    | dsimp only
    | split

theorem State.setObj_keeps {s0 s : State} {cfg : State → State} {sess : Nat} {row : ObjRow} {idx : Nat} {sub : Nat} {v : Nat} (kept : s0.Keeps s) (hcfg : ∀ u, s0.Keeps u → s0.Keeps (cfg u)) :
    s0.Keeps (State.setObj cfg s sess row idx sub v) := by
  unfold State.setObj
  repeat' first
    | with_reducible intro _
    | with_reducible assumption
    | with_reducible exact State.Keeps.refl _
    | (extract_lets +onlyGivenNames x; clear_value (hx : x = _); first | refine State.Keeps.local (s0 := s0) hx ?_ fun k => ?_ | skip)
    | with_reducible apply State.Keeps.ite
    | with_reducible apply hcfg
    | with_reducible apply State.setTarget_keeps
    | with_reducible apply State.putScalar_keeps
    | with_reducible apply State.modOwn_keeps
    | fail_if_no_progress (with_reducible apply State.Keeps.rest)
    | dsimp only
    | refine State.Keeps.of_snd ‹_ = (_, _)› ?_
    | split

theorem State.setRecords_keeps {s0 s : State} {sess : Nat} {idx : Nat} {sub : Nat} {row : ObjRow} {bind_ : Bool} {x1 : List (Nat × List Byte)} (kept : s0.Keeps s) :
    s0.Keeps (State.setRecords s sess idx sub row bind_ x1).2 := by
  induction x1 generalizing s sess idx sub row bind_ with
  | nil =>
    unfold State.setRecords
    repeat' first
      | with_reducible intro _
      | with_reducible assumption
      | with_reducible exact State.Keeps.refl _
      | (extract_lets +onlyGivenNames x; clear_value (hx : x = _); first | refine State.Keeps.local (s0 := s0) hx ?_ fun k => ?_ | skip)
      | with_reducible apply State.Keeps.ite
      | with_reducible apply State.putRecord_keeps
      | with_reducible apply State.Keeps.ite_snd
      | fail_if_no_progress (with_reducible apply State.Keeps.rest)
      | dsimp only
      | split
  | cons y r ih =>
    unfold State.setRecords
    repeat' first
      | with_reducible intro _
      | with_reducible assumption
      | with_reducible apply ih
      | with_reducible exact State.Keeps.refl _
      | (extract_lets +onlyGivenNames x; clear_value (hx : x = _); first | refine State.Keeps.local (s0 := s0) hx ?_ fun k => ?_ | skip)
      | with_reducible apply State.Keeps.ite
      | with_reducible apply State.putRecord_keeps
      | with_reducible apply State.Keeps.ite_snd
      | fail_if_no_progress (with_reducible apply State.Keeps.rest)
      | dsimp only
      | split

theorem State.applyWrite_keeps {s0 s : State} {cfg : State → State} {sess : Nat} {idx : Nat} {sub : Nat} {off : Nat} {bs : List Byte} {row : ObjRow} {bind_ : Bool} (kept : s0.Keeps s) (hcfg : ∀ u, s0.Keeps u → s0.Keeps (cfg u)) :
    s0.Keeps (State.applyWrite cfg s sess idx sub off bs row bind_).2 := by
  unfold State.applyWrite
  repeat' first
    | with_reducible intro _
    | with_reducible assumption
    | with_reducible exact State.Keeps.refl _
    | (extract_lets +onlyGivenNames x; clear_value (hx : x = _); first | refine State.Keeps.local (s0 := s0) hx ?_ fun k => ?_ | (have g := State.regs x.2; clear g; subst hx) | skip)
    | with_reducible apply State.Keeps.ite
    | with_reducible apply hcfg
    | with_reducible apply State.setRecords_keeps
    | with_reducible apply State.setObj_keeps
    | with_reducible apply State.setTarget_keeps
    | with_reducible apply State.Keeps.ite_snd
    | fail_if_no_progress (with_reducible apply State.Keeps.rest)
    | dsimp only
    | refine State.Keeps.of_snd ‹_ = (_, _)› ?_
    | split

theorem State.stage_keeps {s0 s : State} {sess : Nat} {idx : Nat} {sub : Nat} {off : Nat} {bs : List Byte} {row : ObjRow} {l : List Staged} (kept : s0.Keeps s) :
    s0.Keeps (State.stage s sess idx sub off bs row l).2 := by
  unfold State.stage
  repeat' first
    | with_reducible intro _
    | with_reducible assumption
    | with_reducible exact State.Keeps.refl _
    | (extract_lets +onlyGivenNames x; clear_value (hx : x = _); first | refine State.Keeps.local (s0 := s0) hx ?_ fun k => ?_ | skip)
    | with_reducible apply State.Keeps.ite
    | with_reducible apply State.claimLock_keeps
    | with_reducible apply State.withSess_keeps
    | with_reducible apply State.setWin_keeps
    | with_reducible apply State.bump_keeps
    | with_reducible apply State.foldl_keeps
    | with_reducible apply State.Keeps.ite_snd
    | fail_if_no_progress (with_reducible apply State.Keeps.rest)
    | dsimp only
    | split

theorem State.checkRecords_keeps {s0 s : State} {sess : Nat} {idx : Nat} {sub : Nat} {row : ObjRow} {x1 : List (Nat × List Byte)} (kept : s0.Keeps s) :
    s0.Keeps (State.checkRecords s sess idx sub row x1).2 := by
  induction x1 generalizing s sess idx sub row with
  | nil =>
    unfold State.checkRecords
    repeat' first
      | with_reducible intro _
      | with_reducible assumption
      | with_reducible exact State.Keeps.refl _
      | (extract_lets +onlyGivenNames x; clear_value (hx : x = _); first | refine State.Keeps.local (s0 := s0) hx ?_ fun k => ?_ | skip)
      | with_reducible apply State.Keeps.ite
      | with_reducible apply State.rawRecord_keeps
      | with_reducible apply State.Keeps.ite_snd
      | fail_if_no_progress (with_reducible apply State.Keeps.rest)
      | dsimp only
      | split
  | cons y r ih =>
    unfold State.checkRecords
    repeat' first
      | with_reducible intro _
      | with_reducible assumption
      | with_reducible apply ih
      | with_reducible exact State.Keeps.refl _
      | (extract_lets +onlyGivenNames x; clear_value (hx : x = _); first | refine State.Keeps.local (s0 := s0) hx ?_ fun k => ?_ | skip)
      | with_reducible apply State.Keeps.ite
      | with_reducible apply State.rawRecord_keeps
      | with_reducible apply State.Keeps.ite_snd
      | fail_if_no_progress (with_reducible apply State.Keeps.rest)
      | dsimp only
      | split

theorem State.checkEntry_keeps {s0 s : State} {sess : Nat} {role : Nat} {e : Staged} (kept : s0.Keeps s) :
    s0.Keeps (State.checkEntry s sess role e).2 := by
  unfold State.checkEntry
  repeat' first
    | with_reducible intro _
    | with_reducible assumption
    | with_reducible exact State.Keeps.refl _
    | (extract_lets +onlyGivenNames x; clear_value (hx : x = _); first | refine State.Keeps.local (s0 := s0) hx ?_ fun k => ?_ | (have g := State.regs x.2; clear g; subst hx) | skip)
    | with_reducible apply State.Keeps.ite
    | with_reducible apply State.checkRecords_keeps
    | with_reducible apply State.rawScalar_keeps
    | with_reducible apply State.setTarget_keeps
    | with_reducible apply State.Keeps.ite_snd
    | fail_if_no_progress (with_reducible apply State.Keeps.rest)
    | dsimp only
    | refine State.Keeps.of_snd ‹_ = (_, _)› ?_
    | split

theorem State.checkEntries_keeps {s0 s : State} {sess : Nat} {role : Nat} {x1 : List Staged} (kept : s0.Keeps s) :
    s0.Keeps (State.checkEntries s sess role x1).2 := by
  induction x1 generalizing s sess role with
  | nil =>
    unfold State.checkEntries
    repeat' first
      | with_reducible intro _
      | with_reducible assumption
      | with_reducible exact State.Keeps.refl _
      | (extract_lets +onlyGivenNames x; clear_value (hx : x = _); first | refine State.Keeps.local (s0 := s0) hx ?_ fun k => ?_ | skip)
      | with_reducible apply State.Keeps.ite
      | with_reducible apply State.checkEntry_keeps
      | with_reducible apply State.Keeps.ite_snd
      | fail_if_no_progress (with_reducible apply State.Keeps.rest)
      | dsimp only
      | refine State.Keeps.of_snd ‹_ = (_, _)› ?_
      | split
  | cons y r ih =>
    unfold State.checkEntries
    repeat' first
      | with_reducible intro _
      | with_reducible assumption
      | with_reducible apply ih
      | with_reducible exact State.Keeps.refl _
      | (extract_lets +onlyGivenNames x; clear_value (hx : x = _); first | refine State.Keeps.local (s0 := s0) hx ?_ fun k => ?_ | skip)
      | with_reducible apply State.Keeps.ite
      | with_reducible apply State.checkEntry_keeps
      | with_reducible apply State.Keeps.ite_snd
      | fail_if_no_progress (with_reducible apply State.Keeps.rest)
      | dsimp only
      | refine State.Keeps.of_snd ‹_ = (_, _)› ?_
      | split

theorem State.applyEntries_keeps {s0 s : State} {cfg : State → State} {sess : Nat} {skipped : Option (Nat × Staged)} {x1 : List Staged} (kept : s0.Keeps s) (hcfg : ∀ u, s0.Keeps u → s0.Keeps (cfg u)) :
    s0.Keeps (State.applyEntries cfg s sess skipped x1).2 := by
  induction x1 generalizing s sess skipped with
  | nil =>
    unfold State.applyEntries
    repeat' first
      | with_reducible intro _
      | with_reducible assumption
      | with_reducible exact State.Keeps.refl _
      | (extract_lets +onlyGivenNames x; clear_value (hx : x = _); first | refine State.Keeps.local (s0 := s0) hx ?_ fun k => ?_ | skip)
      | with_reducible apply State.Keeps.ite
      | with_reducible apply hcfg
      | with_reducible apply State.applyWrite_keeps
      | with_reducible apply State.Keeps.ite_snd
      | fail_if_no_progress (with_reducible apply State.Keeps.rest)
      | dsimp only
      | refine State.Keeps.of_snd ‹_ = (_, _)› ?_
      | split
  | cons y r ih =>
    unfold State.applyEntries
    repeat' first
      | with_reducible intro _
      | with_reducible assumption
      | with_reducible apply ih
      | with_reducible exact State.Keeps.refl _
      | (extract_lets +onlyGivenNames x; clear_value (hx : x = _); first | refine State.Keeps.local (s0 := s0) hx ?_ fun k => ?_ | skip)
      | with_reducible apply State.Keeps.ite
      | with_reducible apply hcfg
      | with_reducible apply State.applyWrite_keeps
      | with_reducible apply State.Keeps.ite_snd
      | fail_if_no_progress (with_reducible apply State.Keeps.rest)
      | dsimp only
      | refine State.Keeps.of_snd ‹_ = (_, _)› ?_
      | split

theorem State.runGroup_keeps {s0 s : State} {cfg : State → State} {sess : Nat} {l : List Staged} (kept : s0.Keeps s) (hcfg : ∀ u, s0.Keeps u → s0.Keeps (cfg u)) :
    s0.Keeps (State.runGroup cfg s sess l).2 := by
  unfold State.runGroup
  repeat' first
    | with_reducible intro _
    | with_reducible assumption
    | with_reducible exact State.Keeps.refl _
    | (extract_lets +onlyGivenNames x; clear_value (hx : x = _); first | refine State.Keeps.local (s0 := s0) hx ?_ fun k => ?_ | skip)
    | with_reducible apply State.Keeps.ite
    | with_reducible apply hcfg
    | with_reducible apply State.applyEntries_keeps
    | with_reducible apply State.Keeps.ite_snd
    | fail_if_no_progress (with_reducible apply State.Keeps.rest)
    | dsimp only
    | refine State.Keeps.of_snd ‹_ = (_, _)› ?_
    | split

theorem State.tellCommit_keeps {s0 s : State} {sess : Nat} {part : Nat} {x : Nat × Staged} (kept : s0.Keeps s) :
    s0.Keeps (State.tellCommit s sess part x) := by
  unfold State.tellCommit
  repeat' first
    | with_reducible intro _
    | with_reducible assumption
    | with_reducible exact State.Keeps.refl _
    | (extract_lets +onlyGivenNames x; clear_value (hx : x = _); first | refine State.Keeps.local (s0 := s0) hx ?_ fun k => ?_ | skip)
    | with_reducible apply State.Keeps.ite
    | with_reducible apply State.modOwn_keeps
    | with_reducible apply State.event_keeps
    | fail_if_no_progress (with_reducible apply State.Keeps.rest)
    | dsimp only
    | split

theorem State.commit_keeps {s0 s : State} {cfg : State → State} {sess : Nat} {role : Nat} (kept : s0.Keeps s) (hcfg : ∀ u, s0.Keeps u → s0.Keeps (cfg u)) :
    s0.Keeps (State.commit cfg s sess role).2 := by
  unfold State.commit
  repeat' first
    | with_reducible intro _
    | with_reducible assumption
    | with_reducible exact State.Keeps.refl _
    | (extract_lets +onlyGivenNames x; clear_value (hx : x = _); first | refine State.Keeps.local (s0 := s0) hx ?_ fun k => ?_ | (have g := State.regs x.2; clear g; subst hx) | skip)
    | with_reducible apply State.Keeps.ite
    | with_reducible apply hcfg
    | with_reducible apply State.tellCommit_keeps
    | with_reducible apply State.runGroup_keeps
    | with_reducible apply State.dropGroup_keeps
    | with_reducible apply State.Keeps.ite_snd
    | fail_if_no_progress (with_reducible apply State.Keeps.rest)
    | dsimp only
    | refine State.Keeps.of_snd ‹_ = (_, _)› ?_
    | split

theorem State.groupWrite_keeps {s0 s : State} {cfg : State → State} {sess : Nat} {role : Nat} {sub : Nat} {v : Nat} (kept : s0.Keeps s) (hcfg : ∀ u, s0.Keeps u → s0.Keeps (cfg u)) :
    s0.Keeps (State.groupWrite cfg s sess role sub v).2 := by
  unfold State.groupWrite
  repeat' first
    | with_reducible intro _
    | with_reducible assumption
    | with_reducible exact State.Keeps.refl _
    | (extract_lets +onlyGivenNames x; clear_value (hx : x = _); first | refine State.Keeps.local (s0 := s0) hx ?_ fun k => ?_ | skip)
    | with_reducible apply State.Keeps.ite
    | with_reducible apply hcfg
    | with_reducible apply State.commit_keeps
    | with_reducible apply State.dropGroup_keeps
    | with_reducible apply State.withSess_keeps
    | with_reducible apply State.Keeps.ite_snd
    | fail_if_no_progress (with_reducible apply State.Keeps.rest)
    | dsimp only
    | refine State.Keeps.of_snd ‹_ = (_, _)› ?_
    | split

theorem State.writeChecked_keeps {s0 s : State} {cfg : State → State} {sess : Nat} {role : Nat} {idx : Nat} {sub : Nat} {off : Nat} {bs : List Byte} (kept : s0.Keeps s) (hcfg : ∀ u, s0.Keeps u → s0.Keeps (cfg u)) :
    s0.Keeps (State.writeChecked cfg s sess role idx sub off bs).2 := by
  unfold State.writeChecked
  repeat' first
    | with_reducible intro _
    | with_reducible assumption
    | with_reducible exact State.Keeps.refl _
    | (extract_lets +onlyGivenNames x; clear_value (hx : x = _); first | refine State.Keeps.local (s0 := s0) hx ?_ fun k => ?_ | (have g := State.regs x.2; clear g; subst hx) | skip)
    | with_reducible apply State.Keeps.ite
    | with_reducible apply hcfg
    | with_reducible apply State.groupWrite_keeps
    | with_reducible apply State.stage_keeps
    | with_reducible apply State.applyWrite_keeps
    | with_reducible apply State.takeLock_keeps
    | with_reducible apply State.bump_keeps
    | with_reducible apply State.Keeps.ite_snd
    | fail_if_no_progress (with_reducible apply State.Keeps.rest)
    | dsimp only
    | refine State.Keeps.of_snd ‹_ = (_, _)› ?_
    | split

theorem State.writeObj_keeps {s0 s : State} {cfg : State → State} {sess : Nat} {role : Nat} {idx : Nat} {sub : Nat} {off : Nat} {bs : List Byte} (kept : s0.Keeps s) (hcfg : ∀ u, s0.Keeps u → s0.Keeps (cfg u)) :
    s0.Keeps (State.writeObj cfg s sess role idx sub off bs).2 := by
  unfold State.writeObj
  repeat' first
    | with_reducible intro _
    | with_reducible assumption
    | with_reducible exact State.Keeps.refl _
    | (extract_lets +onlyGivenNames x; clear_value (hx : x = _); first | refine State.Keeps.local (s0 := s0) hx ?_ fun k => ?_ | (have g := State.regs x.2; clear g; subst hx) | skip)
    | with_reducible apply State.Keeps.ite
    | with_reducible apply hcfg
    | with_reducible apply State.writeChecked_keeps
    | with_reducible apply State.lifeIllegal_keeps
    | with_reducible apply State.violation_keeps
    | with_reducible apply State.Keeps.ite_snd
    | fail_if_no_progress (with_reducible apply State.Keeps.rest)
    | dsimp only
    | refine State.Keeps.of_snd ‹_ = (_, _)› ?_
    | split

end Sys2Proof.Machine
end

