-- ==== Sys2Proof/Laws/KeepsImage.lean ====
section
/-! SUPPORT. What the definitions of Machine/Image keep (`State.Keeps`). -/

set_option linter.unusedTactic false
set_option linter.unreachableTactic false

namespace Sys2Proof.Machine

theorem State.withAnchors_keeps {s0 s : State} {l : List ImgEntry} (kept : s0.Keeps s) :
    s0.Keeps (State.withAnchors s l) := by
  unfold State.withAnchors
  repeat' first
    | with_reducible intro _
    | with_reducible assumption
    | with_reducible exact State.Keeps.refl _
    | (extract_lets +onlyGivenNames x; clear_value (hx : x = _); first | refine State.Keeps.local (s0 := s0) hx ?_ fun k => ?_ | skip)
    | with_reducible apply State.Keeps.ite
    | with_reducible apply State.forEach_keeps
    | with_reducible apply State.setWin_keeps
    | fail_if_no_progress (with_reducible apply State.Keeps.rest)
    | dsimp only
    | split

theorem State.defineKey_keeps {s0 s : State} {r : List Byte} (kept : s0.Keeps s) :
    s0.Keeps (State.defineKey s r).2 := by
  unfold State.defineKey
  repeat' first
    | with_reducible intro _
    | with_reducible assumption
    | with_reducible exact State.Keeps.refl _
    | (extract_lets +onlyGivenNames x; clear_value (hx : x = _); first | refine State.Keeps.local (s0 := s0) hx ?_ fun k => ?_ | (have g := State.regs x.2; clear g; subst hx) | skip)
    | with_reducible apply State.Keeps.ite
    | with_reducible apply State.rederive_keeps
    | with_reducible apply State.keyDefine_keeps
    | with_reducible apply State.forEach_keeps
    | with_reducible apply State.Keeps.ite_snd
    | fail_if_no_progress (with_reducible apply State.Keeps.rest)
    | dsimp only
    | refine State.Keeps.of_snd ‹_ = (_, _)› ?_
    | split

theorem State.defineKeys_keeps {s0 s : State} {x1 : List (List Byte)} (kept : s0.Keeps s) :
    s0.Keeps (State.defineKeys s x1).2 := by
  induction x1 generalizing s with
  | nil =>
    unfold State.defineKeys
    repeat' first
      | with_reducible intro _
      | with_reducible assumption
      | with_reducible exact State.Keeps.refl _
      | (extract_lets +onlyGivenNames x; clear_value (hx : x = _); first | refine State.Keeps.local (s0 := s0) hx ?_ fun k => ?_ | skip)
      | with_reducible apply State.Keeps.ite
      | with_reducible apply State.defineKey_keeps
      | with_reducible apply State.Keeps.ite_snd
      | fail_if_no_progress (with_reducible apply State.Keeps.rest)
      | dsimp only
      | refine State.Keeps.of_snd ‹_ = (_, _)› ?_
      | split
  | cons y r ih =>
    unfold State.defineKeys
    repeat' first
      | with_reducible intro _
      | with_reducible assumption
      | with_reducible apply ih
      | with_reducible exact State.Keeps.refl _
      | (extract_lets +onlyGivenNames x; clear_value (hx : x = _); first | refine State.Keeps.local (s0 := s0) hx ?_ fun k => ?_ | skip)
      | with_reducible apply State.Keeps.ite
      | with_reducible apply State.defineKey_keeps
      | with_reducible apply State.Keeps.ite_snd
      | fail_if_no_progress (with_reducible apply State.Keeps.rest)
      | dsimp only
      | refine State.Keeps.of_snd ‹_ = (_, _)› ?_
      | split

theorem State.runImageActions_keeps {s0 s : State} {words : List Staged} {x1 : List Staged} (kept : s0.Keeps s) :
    s0.Keeps (State.runImageActions s words x1) := by
  induction x1 generalizing s words with
  | nil =>
    unfold State.runImageActions
    repeat' first
      | with_reducible intro _
      | with_reducible assumption
      | with_reducible exact State.Keeps.refl _
      | (extract_lets +onlyGivenNames x; clear_value (hx : x = _); first | refine State.Keeps.local (s0 := s0) hx ?_ fun k => ?_ | (have g := State.regs x.2; clear g; subst hx) | skip)
      | with_reducible apply State.Keeps.ite
      | with_reducible apply State.applyWrite_keeps
      | with_reducible apply State.forEach_keeps
      | with_reducible apply State.wr_keeps
      | with_reducible apply State.Keeps.id
      | fail_if_no_progress (with_reducible apply State.Keeps.rest)
      | dsimp only
      | refine State.Keeps.of_snd ‹_ = (_, _)› ?_
      | split
  | cons y r ih =>
    unfold State.runImageActions
    repeat' first
      | with_reducible intro _
      | with_reducible assumption
      | with_reducible apply ih
      | with_reducible exact State.Keeps.refl _
      | (extract_lets +onlyGivenNames x; clear_value (hx : x = _); first | refine State.Keeps.local (s0 := s0) hx ?_ fun k => ?_ | (have g := State.regs x.2; clear g; subst hx) | skip)
      | with_reducible apply State.Keeps.ite
      | with_reducible apply State.applyWrite_keeps
      | with_reducible apply State.forEach_keeps
      | with_reducible apply State.wr_keeps
      | with_reducible apply State.Keeps.id
      | fail_if_no_progress (with_reducible apply State.Keeps.rest)
      | dsimp only
      | refine State.Keeps.of_snd ‹_ = (_, _)› ?_
      | split

theorem State.runImage_keeps {s0 s : State} {l : List Staged} (kept : s0.Keeps s) :
    s0.Keeps (State.runImage s l).2 := by
  unfold State.runImage
  repeat' first
    | with_reducible intro _
    | with_reducible assumption
    | with_reducible exact State.Keeps.refl _
    | (extract_lets +onlyGivenNames x; clear_value (hx : x = _); first | refine State.Keeps.local (s0 := s0) hx ?_ fun k => ?_ | skip)
    | with_reducible apply State.Keeps.ite
    | with_reducible apply State.runImageActions_keeps
    | with_reducible apply State.applyEntries_keeps
    | with_reducible apply State.Keeps.id
    | with_reducible apply State.Keeps.ite_snd
    | fail_if_no_progress (with_reducible apply State.Keeps.rest)
    | dsimp only
    | refine State.Keeps.of_snd ‹_ = (_, _)› ?_
    | split

theorem State.applyBody_keeps {s0 s : State} {l : List ImgEntry} (kept : s0.Keeps s) :
    s0.Keeps (State.applyBody s l).2 := by
  unfold State.applyBody
  repeat' first
    | with_reducible intro _
    | with_reducible assumption
    | with_reducible exact State.Keeps.refl _
    | (extract_lets +onlyGivenNames x; clear_value (hx : x = _); first | refine State.Keeps.local (s0 := s0) hx ?_ fun k => ?_ | (have g := State.regs x.2; clear g; subst hx) | skip)
    | with_reducible apply State.Keeps.ite
    | with_reducible apply State.runImage_keeps
    | with_reducible apply State.defineKeys_keeps
    | with_reducible apply State.Keeps.ite_snd
    | fail_if_no_progress (with_reducible apply State.Keeps.rest)
    | dsimp only
    | refine State.Keeps.of_snd ‹_ = (_, _)› ?_
    | split

theorem State.storeImage_keeps {s0 s : State} (kept : s0.Keeps s) :
    s0.Keeps (State.storeImage s) := by
  unfold State.storeImage
  repeat' first
    | with_reducible intro _
    | with_reducible assumption
    | with_reducible exact State.Keeps.refl _
    | (extract_lets +onlyGivenNames x; clear_value (hx : x = _); first | refine State.Keeps.local (s0 := s0) hx ?_ fun k => ?_ | skip)
    | with_reducible apply State.Keeps.ite
    | with_reducible apply State.withCtl_keeps
    | fail_if_no_progress (with_reducible apply State.Keeps.rest)
    | dsimp only
    | split

theorem State.configEnd_keeps {s0 s : State} {status : Nat} (kept : s0.Keeps s) :
    s0.Keeps (State.configEnd s status) := by
  unfold State.configEnd
  repeat' first
    | with_reducible intro _
    | with_reducible assumption
    | with_reducible exact State.Keeps.refl _
    | (extract_lets +onlyGivenNames x; clear_value (hx : x = _); first | refine State.Keeps.local (s0 := s0) hx ?_ fun k => ?_ | skip)
    | with_reducible apply State.Keeps.ite
    | with_reducible apply State.wr_keeps
    | fail_if_no_progress (with_reducible apply State.Keeps.rest)
    | dsimp only
    | split

theorem State.configImport_keeps {s0 s : State} (kept : s0.Keeps s) :
    s0.Keeps (State.configImport s) := by
  unfold State.configImport
  repeat' first
    | with_reducible intro _
    | with_reducible assumption
    | with_reducible exact State.Keeps.refl _
    | (extract_lets +onlyGivenNames x; clear_value (hx : x = _); first | refine State.Keeps.local (s0 := s0) hx ?_ fun k => ?_ | (have g := State.regs x.2; clear g; subst hx) | skip)
    | with_reducible apply State.Keeps.ite
    | with_reducible apply State.configEnd_keeps
    | with_reducible apply State.storeImage_keeps
    | with_reducible apply State.applyBody_keeps
    | with_reducible apply State.withAnchors_keeps
    | with_reducible apply State.tellCommit_keeps
    | with_reducible apply State.countCommit_keeps
    | with_reducible apply State.event_keeps
    | with_reducible apply State.wr_keeps
    | fail_if_no_progress (with_reducible apply State.Keeps.rest)
    | dsimp only
    | refine State.Keeps.of_snd ‹_ = (_, _)› ?_
    | split

theorem State.configCheck_keeps {s0 s : State} (kept : s0.Keeps s) :
    s0.Keeps (State.configCheck s) := by
  unfold State.configCheck
  repeat' first
    | with_reducible intro _
    | with_reducible assumption
    | with_reducible exact State.Keeps.refl _
    | (extract_lets +onlyGivenNames x; clear_value (hx : x = _); first | refine State.Keeps.local (s0 := s0) hx ?_ fun k => ?_ | skip)
    | with_reducible apply State.Keeps.ite
    | with_reducible apply State.configEnd_keeps
    | fail_if_no_progress (with_reducible apply State.Keeps.rest)
    | dsimp only
    | split

theorem State.configStart_keeps {s0 s : State} (kept : s0.Keeps s) :
    s0.Keeps (State.configStart s) := by
  unfold State.configStart
  repeat' first
    | with_reducible intro _
    | with_reducible assumption
    | with_reducible exact State.Keeps.refl _
    | (extract_lets +onlyGivenNames x; clear_value (hx : x = _); first | refine State.Keeps.local (s0 := s0) hx ?_ fun k => ?_ | skip)
    | with_reducible apply State.Keeps.ite
    | with_reducible apply State.configCheck_keeps
    | with_reducible apply State.configImport_keeps
    | with_reducible apply State.brownOut_keeps
    | with_reducible apply State.withKey_keeps
    | with_reducible apply State.wr_keeps
    | fail_if_no_progress (with_reducible apply State.Keeps.rest)
    | dsimp only
    | split

theorem State.exportDone_keeps {s0 s : State} (kept : s0.Keeps s) :
    s0.Keeps (State.exportDone s) := by
  unfold State.exportDone
  repeat' first
    | with_reducible intro _
    | with_reducible assumption
    | with_reducible exact State.Keeps.refl _
    | (extract_lets +onlyGivenNames x; clear_value (hx : x = _); first | refine State.Keeps.local (s0 := s0) hx ?_ fun k => ?_ | skip)
    | with_reducible apply State.Keeps.ite
    | with_reducible apply State.configEnd_keeps
    | with_reducible apply State.withKey_keeps
    | with_reducible apply State.event_keeps
    | with_reducible apply State.setWin_keeps
    | with_reducible apply State.wr_keeps
    | fail_if_no_progress (with_reducible apply State.Keeps.rest)
    | dsimp only
    | split

theorem State.write_keeps {s0 s : State} {sess : Nat} {role : Nat} {idx : Nat} {sub : Nat} {off : Nat} {bs : List Byte} (kept : s0.Keeps s) :
    s0.Keeps (State.write s sess role idx sub off bs).2 := by
  unfold State.write
  repeat' first
    | with_reducible intro _
    | with_reducible assumption
    | with_reducible exact State.Keeps.refl _
    | (extract_lets +onlyGivenNames x; clear_value (hx : x = _); first | refine State.Keeps.local (s0 := s0) hx ?_ fun k => ?_ | skip)
    | with_reducible apply State.Keeps.ite
    | with_reducible apply State.configStart_keeps
    | with_reducible apply State.writeObj_keeps
    | with_reducible apply State.Keeps.ite_snd
    | fail_if_no_progress (with_reducible apply State.Keeps.rest)
    | dsimp only
    | refine State.Keeps.of_snd ‹_ = (_, _)› ?_
    | split

theorem State.loadHalves_keeps {s0 s : State} {l : List Staged} (kept : s0.Keeps s) :
    s0.Keeps (State.loadHalves s l) := by
  unfold State.loadHalves
  repeat' first
    | with_reducible intro _
    | with_reducible assumption
    | with_reducible exact State.Keeps.refl _
    | (extract_lets +onlyGivenNames x; clear_value (hx : x = _); first | refine State.Keeps.local (s0 := s0) hx ?_ fun k => ?_ | skip)
    | with_reducible apply State.Keeps.ite
    | with_reducible apply State.forEach_keeps
    | with_reducible apply State.setWin_keeps
    | fail_if_no_progress (with_reducible apply State.Keeps.rest)
    | dsimp only
    | split

theorem State.applyStored_keeps {s0 s : State} (kept : s0.Keeps s) :
    s0.Keeps (State.applyStored s) := by
  unfold State.applyStored
  repeat' first
    | with_reducible intro _
    | with_reducible assumption
    | with_reducible exact State.Keeps.refl _
    | (extract_lets +onlyGivenNames x; clear_value (hx : x = _); first | refine State.Keeps.local (s0 := s0) hx ?_ fun k => ?_ | (have g := State.regs x.2; clear g; subst hx) | skip)
    | with_reducible apply State.Keeps.ite
    | with_reducible apply State.loadHalves_keeps
    | with_reducible apply State.applyBody_keeps
    | with_reducible apply State.event_keeps
    | with_reducible apply State.wr_keeps
    | with_reducible apply State.foldl_keeps
    | fail_if_no_progress (with_reducible apply State.Keeps.rest)
    | dsimp only
    | refine State.Keeps.of_snd ‹_ = (_, _)› ?_
    | split

end Sys2Proof.Machine
end

