-- ==== Sys2Proof/Laws/KeepsServe.lean ====
section
/-! SUPPORT. What the definitions of Machine/Serve keep (`State.Keeps`). -/

set_option linter.unusedTactic false
set_option linter.unreachableTactic false

namespace Sys2Proof.Machine

theorem State.access_keeps {s0 s : State} {sess : Nat} {role : Nat} {x1 : Req} (kept : s0.Keeps s) :
    s0.Keeps (State.access s sess role x1).2.2 := by
  unfold State.access
  repeat' first
    | with_reducible intro _
    | with_reducible assumption
    | with_reducible exact State.Keeps.refl _
    | (extract_lets +onlyGivenNames x; clear_value (hx : x = _); first | refine State.Keeps.local (s0 := s0) hx ?_ fun k => ?_ | skip)
    | with_reducible apply State.Keeps.ite
    | with_reducible apply State.write_keeps
    | fail_if_no_progress (with_reducible apply State.Keeps.rest)
    | dsimp only
    | refine State.Keeps.of_snd ‹_ = (_, _)› ?_
    | split

theorem State.accessBody_keeps {s0 s : State} {sess : Nat} {role : Nat} {b : List Byte} (kept : s0.Keeps s) :
    s0.Keeps (State.accessBody s sess role b).2.2 := by
  unfold State.accessBody
  repeat' first
    | with_reducible intro _
    | with_reducible assumption
    | with_reducible exact State.Keeps.refl _
    | (extract_lets +onlyGivenNames x; clear_value (hx : x = _); first | refine State.Keeps.local (s0 := s0) hx ?_ fun k => ?_ | skip)
    | with_reducible apply State.Keeps.ite
    | with_reducible apply State.access_keeps
    | fail_if_no_progress (with_reducible apply State.Keeps.rest)
    | dsimp only
    | refine State.Keeps.of_third ‹_ = (_, _, _)› ?_
    | split

theorem State.sdoSend_keeps {s0 s : State} {c : Nat} {data : List Byte} (kept : s0.Keeps s) :
    s0.Keeps (State.sdoSend s c data) := by
  unfold State.sdoSend
  repeat' first
    | with_reducible intro _
    | with_reducible assumption
    | with_reducible exact State.Keeps.refl _
    | (extract_lets +onlyGivenNames x; clear_value (hx : x = _); first | refine State.Keeps.local (s0 := s0) hx ?_ fun k => ?_ | skip)
    | with_reducible apply State.Keeps.ite
    | with_reducible apply State.sendBuilt_keeps
    | fail_if_no_progress (with_reducible apply State.Keeps.rest)
    | dsimp only
    | split

theorem State.setSdo_keeps {s0 s : State} {c : Nat} {x : SdoXfer} (kept : s0.Keeps s) :
    s0.Keeps (State.setSdo s c x) := by
  unfold State.setSdo
  repeat' first
    | with_reducible intro _
    | with_reducible assumption
    | with_reducible exact State.Keeps.refl _
    | (extract_lets +onlyGivenNames x; clear_value (hx : x = _); first | refine State.Keeps.local (s0 := s0) hx ?_ fun k => ?_ | skip)
    | with_reducible apply State.Keeps.ite
    | with_reducible apply State.withSess_keeps
    | fail_if_no_progress (with_reducible apply State.Keeps.rest)
    | dsimp only
    | split

theorem State.endSdo_keeps {s0 s : State} {c : Nat} (kept : s0.Keeps s) :
    s0.Keeps (State.endSdo s c) := by
  unfold State.endSdo
  repeat' first
    | with_reducible intro _
    | with_reducible assumption
    | with_reducible exact State.Keeps.refl _
    | (extract_lets +onlyGivenNames x; clear_value (hx : x = _); first | refine State.Keeps.local (s0 := s0) hx ?_ fun k => ?_ | skip)
    | with_reducible apply State.Keeps.ite
    | with_reducible apply State.freeLock_keeps
    | with_reducible apply State.withSess_keeps
    | fail_if_no_progress (with_reducible apply State.Keeps.rest)
    | dsimp only
    | split

theorem State.sdoAbort_keeps {s0 s : State} {c : Nat} {idx : Nat} {sub : Nat} {code : Nat} (kept : s0.Keeps s) :
    s0.Keeps (State.sdoAbort s c idx sub code) := by
  unfold State.sdoAbort
  repeat' first
    | with_reducible intro _
    | with_reducible assumption
    | with_reducible exact State.Keeps.refl _
    | (extract_lets +onlyGivenNames x; clear_value (hx : x = _); first | refine State.Keeps.local (s0 := s0) hx ?_ fun k => ?_ | skip)
    | with_reducible apply State.Keeps.ite
    | with_reducible apply State.endSdo_keeps
    | with_reducible apply State.sdoSend_keeps
    | with_reducible apply State.bump_keeps
    | fail_if_no_progress (with_reducible apply State.Keeps.rest)
    | dsimp only
    | split

theorem State.moveCursor_keeps {s0 s : State} {sess : Nat} {idx : Nat} {sub : Nat} {n : Nat} (kept : s0.Keeps s) :
    s0.Keeps (State.moveCursor s sess idx sub n) := by
  unfold State.moveCursor
  repeat' first
    | with_reducible intro _
    | with_reducible assumption
    | with_reducible exact State.Keeps.refl _
    | (extract_lets +onlyGivenNames x; clear_value (hx : x = _); first | refine State.Keeps.local (s0 := s0) hx ?_ fun k => ?_ | skip)
    | with_reducible apply State.Keeps.ite
    | with_reducible apply State.modOwn_keeps
    | fail_if_no_progress (with_reducible apply State.Keeps.rest)
    | dsimp only
    | split

theorem State.sdoUpload_keeps {s0 s : State} {c : Nat} {idx : Nat} {sub : Nat} {d : List Byte} (kept : s0.Keeps s) :
    s0.Keeps (State.sdoUpload s c idx sub d) := by
  unfold State.sdoUpload
  repeat' first
    | with_reducible intro _
    | with_reducible assumption
    | with_reducible exact State.Keeps.refl _
    | (extract_lets +onlyGivenNames x; clear_value (hx : x = _); first | refine State.Keeps.local (s0 := s0) hx ?_ fun k => ?_ | skip)
    | with_reducible apply State.Keeps.ite
    | with_reducible apply State.moveCursor_keeps
    | with_reducible apply State.setSdo_keeps
    | with_reducible apply State.sdoSend_keeps
    | fail_if_no_progress (with_reducible apply State.Keeps.rest)
    | dsimp only
    | split

theorem State.sdoBlockUpload_keeps {s0 s : State} {c : Nat} {idx : Nat} {sub : Nat} {blk : Nat} {crc : Bool} {d : List Byte} (kept : s0.Keeps s) :
    s0.Keeps (State.sdoBlockUpload s c idx sub blk crc d) := by
  unfold State.sdoBlockUpload
  repeat' first
    | with_reducible intro _
    | with_reducible assumption
    | with_reducible exact State.Keeps.refl _
    | (extract_lets +onlyGivenNames x; clear_value (hx : x = _); first | refine State.Keeps.local (s0 := s0) hx ?_ fun k => ?_ | skip)
    | with_reducible apply State.Keeps.ite
    | with_reducible apply State.setSdo_keeps
    | with_reducible apply State.sdoSend_keeps
    | fail_if_no_progress (with_reducible apply State.Keeps.rest)
    | dsimp only
    | split

theorem State.sdoAnswer_keeps {s0 s : State} {c : Nat} {kind : Nat} {idx : Nat} {sub : Nat} {n : Nat} {toggle : Nat} {crc : Bool} {abort : Nat} {data : List Byte} (kept : s0.Keeps s) :
    s0.Keeps (State.sdoAnswer s c kind idx sub n toggle crc abort data) := by
  unfold State.sdoAnswer
  repeat' first
    | with_reducible intro _
    | with_reducible assumption
    | with_reducible exact State.Keeps.refl _
    | (extract_lets +onlyGivenNames x; clear_value (hx : x = _); first | refine State.Keeps.local (s0 := s0) hx ?_ fun k => ?_ | skip)
    | with_reducible apply State.Keeps.ite
    | with_reducible apply State.sdoBlockUpload_keeps
    | with_reducible apply State.sdoUpload_keeps
    | with_reducible apply State.moveCursor_keeps
    | with_reducible apply State.sdoAbort_keeps
    | with_reducible apply State.sdoSend_keeps
    | fail_if_no_progress (with_reducible apply State.Keeps.rest)
    | dsimp only
    | split

theorem State.dalSend_keeps {s0 s : State} {port : Nat} {frame : List Byte} {msg : List Byte} (kept : s0.Keeps s) :
    s0.Keeps (State.dalSend s port frame msg) := by
  unfold State.dalSend
  repeat' first
    | with_reducible intro _
    | with_reducible assumption
    | with_reducible exact State.Keeps.refl _
    | (extract_lets +onlyGivenNames x; clear_value (hx : x = _); first | refine State.Keeps.local (s0 := s0) hx ?_ fun k => ?_ | skip)
    | with_reducible apply State.Keeps.ite
    | with_reducible apply State.sendBuilt_keeps
    | fail_if_no_progress (with_reducible apply State.Keeps.rest)
    | dsimp only
    | split

theorem State.dalAnswer_keeps {s0 s : State} {n : Nat} {seq : Nat} {port : Nat} {frame : List Byte} {typ : Nat} {body : List Byte} (kept : s0.Keeps s) :
    s0.Keeps (State.dalAnswer s n seq port frame typ body) := by
  unfold State.dalAnswer
  repeat' first
    | with_reducible intro _
    | with_reducible assumption
    | with_reducible exact State.Keeps.refl _
    | (extract_lets +onlyGivenNames x; clear_value (hx : x = _); first | refine State.Keeps.local (s0 := s0) hx ?_ fun k => ?_ | skip)
    | with_reducible apply State.Keeps.ite
    | with_reducible apply State.dalSend_keeps
    | with_reducible apply State.withSess_keeps
    | fail_if_no_progress (with_reducible apply State.Keeps.rest)
    | dsimp only
    | split

theorem State.slotAnswer_keeps {s0 s : State} {tag : Nat} {off : Nat} {len : Nat} {abort : Nat} {data : List Byte} (kept : s0.Keeps s) :
    s0.Keeps (State.slotAnswer s tag off len abort data) := by
  unfold State.slotAnswer
  repeat' first
    | with_reducible intro _
    | with_reducible assumption
    | with_reducible exact State.Keeps.refl _
    | (extract_lets +onlyGivenNames x; clear_value (hx : x = _); first | refine State.Keeps.local (s0 := s0) hx ?_ fun k => ?_ | skip)
    | with_reducible apply State.Keeps.ite
    | with_reducible apply State.withHost_keeps
    | with_reducible apply State.emit_keeps
    | with_reducible apply State.bump_keeps
    | fail_if_no_progress (with_reducible apply State.Keeps.rest)
    | dsimp only
    | split

theorem State.windowAnswer_keeps {s0 s : State} {tag : Nat} {w : Nat} {off : Nat} {len : Nat} {abort : Nat} {data : List Byte} (kept : s0.Keeps s) :
    s0.Keeps (State.windowAnswer s tag w off len abort data) := by
  unfold State.windowAnswer
  repeat' first
    | with_reducible intro _
    | with_reducible assumption
    | with_reducible exact State.Keeps.refl _
    | (extract_lets +onlyGivenNames x; clear_value (hx : x = _); first | refine State.Keeps.local (s0 := s0) hx ?_ fun k => ?_ | skip)
    | with_reducible apply State.Keeps.ite
    | with_reducible apply State.deferred_keeps
    | with_reducible apply State.emit_keeps
    | fail_if_no_progress (with_reducible apply State.Keeps.rest)
    | dsimp only
    | split

theorem State.postedAnswer_keeps {s0 s : State} {window : Nat} {off : Nat} {seq : Nat} {abort : Nat} (kept : s0.Keeps s) :
    s0.Keeps (State.postedAnswer s window off seq abort) := by
  unfold State.postedAnswer
  repeat' first
    | with_reducible intro _
    | with_reducible assumption
    | with_reducible exact State.Keeps.refl _
    | (extract_lets +onlyGivenNames x; clear_value (hx : x = _); first | refine State.Keeps.local (s0 := s0) hx ?_ fun k => ?_ | skip)
    | with_reducible apply State.Keeps.ite
    | with_reducible apply State.deferred_keeps
    | fail_if_no_progress (with_reducible apply State.Keeps.rest)
    | dsimp only
    | split

theorem State.reply_keeps {s0 s : State} {who : Asker} {abort : Nat} {data : List Byte} (kept : s0.Keeps s) :
    s0.Keeps (State.reply s who abort data) := by
  unfold State.reply
  repeat' first
    | with_reducible intro _
    | with_reducible assumption
    | with_reducible exact State.Keeps.refl _
    | (extract_lets +onlyGivenNames x; clear_value (hx : x = _); first | refine State.Keeps.local (s0 := s0) hx ?_ fun k => ?_ | skip)
    | with_reducible apply State.Keeps.ite
    | with_reducible apply State.postedAnswer_keeps
    | with_reducible apply State.windowAnswer_keeps
    | with_reducible apply State.slotAnswer_keeps
    | with_reducible apply State.dalAnswer_keeps
    | with_reducible apply State.sdoAnswer_keeps
    | with_reducible apply State.emit_keeps
    | fail_if_no_progress (with_reducible apply State.Keeps.rest)
    | dsimp only
    | split

theorem State.setSlotFwd_keeps {s0 s : State} {k : Nat} {f : FwdSlot} (kept : s0.Keeps s) :
    s0.Keeps (State.setSlotFwd s k f) := by
  unfold State.setSlotFwd
  repeat' first
    | with_reducible intro _
    | with_reducible assumption
    | with_reducible exact State.Keeps.refl _
    | (extract_lets +onlyGivenNames x; clear_value (hx : x = _); first | refine State.Keeps.local (s0 := s0) hx ?_ fun k => ?_ | skip)
    | with_reducible apply State.Keeps.ite
    | with_reducible apply State.withConsist_keeps
    | fail_if_no_progress (with_reducible apply State.Keeps.rest)
    | dsimp only
    | split

theorem State.forwardReq_keeps {s0 s : State} {k : Nat} {f : FwdSlot} {who : Asker} {r : Req} (kept : s0.Keeps s) :
    s0.Keeps (State.forwardReq s k f who r) := by
  unfold State.forwardReq
  repeat' first
    | with_reducible intro _
    | with_reducible assumption
    | with_reducible exact State.Keeps.refl _
    | (extract_lets +onlyGivenNames x; clear_value (hx : x = _); first | refine State.Keeps.local (s0 := s0) hx ?_ fun k => ?_ | skip)
    | with_reducible apply State.Keeps.ite
    | with_reducible apply State.setSlotFwd_keeps
    | with_reducible apply State.sendMessage_keeps
    | fail_if_no_progress (with_reducible apply State.Keeps.rest)
    | dsimp only
    | split

theorem State.serve_keeps {s0 s : State} {sess : Nat} {who : Asker} {r : Req} (kept : s0.Keeps s) :
    s0.Keeps (State.serve s sess who r) := by
  unfold State.serve
  repeat' first
    | with_reducible intro _
    | with_reducible assumption
    | with_reducible exact State.Keeps.refl _
    | (extract_lets +onlyGivenNames x; clear_value (hx : x = _); first | refine State.Keeps.local (s0 := s0) hx ?_ fun k => ?_ | skip)
    | with_reducible apply State.Keeps.ite
    | with_reducible apply State.forwardReq_keeps
    | with_reducible apply State.reply_keeps
    | with_reducible apply State.access_keeps
    | with_reducible apply State.measured_keeps
    | fail_if_no_progress (with_reducible apply State.Keeps.rest)
    | dsimp only
    | refine State.Keeps.of_third ‹_ = (_, _, _)› ?_
    | split

theorem State.manageAnswer_keeps {s0 s : State} {src : Nat} {body : List Byte} (kept : s0.Keeps s) :
    s0.Keeps (State.manageAnswer s src body) := by
  unfold State.manageAnswer
  repeat' first
    | with_reducible intro _
    | with_reducible assumption
    | with_reducible exact State.Keeps.refl _
    | (extract_lets +onlyGivenNames x; clear_value (hx : x = _); first | refine State.Keeps.local (s0 := s0) hx ?_ fun k => ?_ | skip)
    | with_reducible apply State.Keeps.ite
    | with_reducible apply State.setSlotFwd_keeps
    | with_reducible apply State.reply_keeps
    | with_reducible apply State.withConsist_keeps
    | with_reducible apply State.bump_keeps
    | fail_if_no_progress (with_reducible apply State.Keeps.rest)
    | dsimp only
    | split

theorem State.forwardTimeout_keeps {s0 s : State} {k : Nat} (kept : s0.Keeps s) :
    s0.Keeps (State.forwardTimeout s k) := by
  unfold State.forwardTimeout
  repeat' first
    | with_reducible intro _
    | with_reducible assumption
    | with_reducible exact State.Keeps.refl _
    | (extract_lets +onlyGivenNames x; clear_value (hx : x = _); first | refine State.Keeps.local (s0 := s0) hx ?_ fun k => ?_ | skip)
    | with_reducible apply State.Keeps.ite
    | with_reducible apply State.setSlotFwd_keeps
    | with_reducible apply State.reply_keeps
    | fail_if_no_progress (with_reducible apply State.Keeps.rest)
    | dsimp only
    | split

theorem State.manageServe_keeps {s0 s : State} {src : Nat} {body : List Byte} (kept : s0.Keeps s) :
    s0.Keeps (State.manageServe s src body) := by
  unfold State.manageServe
  repeat' first
    | with_reducible intro _
    | with_reducible assumption
    | with_reducible exact State.Keeps.refl _
    | (extract_lets +onlyGivenNames x; clear_value (hx : x = _); first | refine State.Keeps.local (s0 := s0) hx ?_ fun k => ?_ | (have g := fun u => State.regs (x u); clear g; subst hx) | (have g := fun u v => State.regs (x u v); clear g; subst hx) | (have g := fun u v w => State.regs (x u v w); clear g; subst hx) | (have g := fun u v w y => State.regs (x u v w y); clear g; subst hx) | skip)
    | with_reducible apply State.Keeps.ite
    | with_reducible apply State.accessBody_keeps
    | with_reducible apply State.sendMessage_keeps
    | with_reducible apply State.withConsist_keeps
    | with_reducible apply State.bump_keeps
    | fail_if_no_progress (with_reducible apply State.Keeps.rest)
    | dsimp only
    | refine State.Keeps.of_third ‹_ = (_, _, _)› ?_
    | split

theorem State.manageRequest_keeps {s0 s : State} {p : Nat} {src : Nat} {body : List Byte} (kept : s0.Keeps s) :
    s0.Keeps (State.manageRequest s p src body) := by
  unfold State.manageRequest
  repeat' first
    | with_reducible intro _
    | with_reducible assumption
    | with_reducible exact State.Keeps.refl _
    | (extract_lets +onlyGivenNames x; clear_value (hx : x = _); first | refine State.Keeps.local (s0 := s0) hx ?_ fun k => ?_ | skip)
    | with_reducible apply State.Keeps.ite
    | with_reducible apply State.manageServe_keeps
    | with_reducible apply State.measured_keeps
    | with_reducible apply State.bump_keeps
    | fail_if_no_progress (with_reducible apply State.Keeps.rest)
    | dsimp only
    | split

end Sys2Proof.Machine
end

