-- ==== Sys2Proof/Laws/KeepsIngress.lean ====
section
/-! SUPPORT. What the definitions of Machine/Ingress keep (`State.Keeps`). -/

set_option linter.unusedTactic false
set_option linter.unreachableTactic false

namespace Sys2Proof.Machine

theorem State.modIngress_keeps {s0 s : State} {p : Nat} {f : IngressQ → IngressQ} (kept : s0.Keeps s) :
    s0.Keeps (State.modIngress s p f) := by
  unfold State.modIngress
  repeat' first
    | with_reducible intro _
    | with_reducible assumption
    | with_reducible exact State.Keeps.refl _
    | (extract_lets +onlyGivenNames x; clear_value (hx : x = _); first | refine State.Keeps.local (s0 := s0) hx ?_ fun k => ?_ | skip)
    | with_reducible apply State.Keeps.ite
    | with_reducible apply State.withBuf_keeps
    | fail_if_no_progress (with_reducible apply State.Keeps.rest)
    | dsimp only
    | split

theorem State.giveUp_keeps {s0 s : State} {p : Nat} {id : Nat} (kept : s0.Keeps s) :
    s0.Keeps (State.giveUp s p id) := by
  unfold State.giveUp
  repeat' first
    | with_reducible intro _
    | with_reducible assumption
    | with_reducible exact State.Keeps.refl _
    | (extract_lets +onlyGivenNames x; clear_value (hx : x = _); first | refine State.Keeps.local (s0 := s0) hx ?_ fun k => ?_ | skip)
    | with_reducible apply State.Keeps.ite
    | with_reducible apply State.modIngress_keeps
    | with_reducible apply State.eraseFrame_keeps
    | with_reducible apply State.Keeps.id
    | fail_if_no_progress (with_reducible apply State.Keeps.rest)
    | dsimp only
    | split

theorem State.countOverflow_keeps {s0 s : State} {p : Nat} {f : Frame} (kept : s0.Keeps s) :
    s0.Keeps (State.countOverflow s p f) := by
  unfold State.countOverflow
  repeat' first
    | with_reducible intro _
    | with_reducible assumption
    | with_reducible exact State.Keeps.refl _
    | (extract_lets +onlyGivenNames x; clear_value (hx : x = _); first | refine State.Keeps.local (s0 := s0) hx ?_ fun k => ?_ | skip)
    | with_reducible apply State.Keeps.ite
    | with_reducible apply State.chCount_keeps
    | with_reducible apply State.portCount_keeps
    | with_reducible apply State.refuse_keeps
    | fail_if_no_progress (with_reducible apply State.Keeps.rest)
    | dsimp only
    | split

theorem State.startFrame_keeps {s0 s : State} {p : Nat} {dom : Nat} {cls : Nat} {ns : Nat} (kept : s0.Keeps s) :
    s0.Keeps (State.startFrame s p dom cls ns) := by
  unfold State.startFrame
  repeat' first
    | with_reducible intro _
    | with_reducible assumption
    | with_reducible exact State.Keeps.refl _
    | (extract_lets +onlyGivenNames x; clear_value (hx : x = _); first | refine State.Keeps.local (s0 := s0) hx ?_ fun k => ?_ | (have g := State.regs x.2; clear g; subst hx) | skip)
    | with_reducible apply State.Keeps.ite
    | with_reducible apply State.giveUp_keeps
    | with_reducible apply State.modIngress_keeps
    | with_reducible apply State.newFrame_keeps
    | with_reducible apply State.Keeps.id
    | fail_if_no_progress (with_reducible apply State.Keeps.rest)
    | dsimp only
    | refine State.Keeps.of_snd ‹_ = (_, _)› ?_
    | split

theorem State.endEarly_keeps {s0 s : State} {p : Nat} {id : Nat} {status : Nat} (kept : s0.Keeps s) :
    s0.Keeps (State.endEarly s p id status) := by
  unfold State.endEarly
  repeat' first
    | with_reducible intro _
    | with_reducible assumption
    | with_reducible exact State.Keeps.refl _
    | (extract_lets +onlyGivenNames x; clear_value (hx : x = _); first | refine State.Keeps.local (s0 := s0) hx ?_ fun k => ?_ | skip)
    | with_reducible apply State.Keeps.ite
    | with_reducible apply State.modIngress_keeps
    | with_reducible apply State.closeTx_keeps
    | with_reducible apply State.modFrame_keeps
    | with_reducible apply State.Keeps.id
    | fail_if_no_progress (with_reducible apply State.Keeps.rest)
    | dsimp only
    | split

theorem State.storeBytes_keeps {s0 s : State} {p : Nat} {id : Nat} {bs : List Byte} (kept : s0.Keeps s) :
    s0.Keeps (State.storeBytes s p id bs) := by
  unfold State.storeBytes
  repeat' first
    | with_reducible intro _
    | with_reducible assumption
    | with_reducible exact State.Keeps.refl _
    | (extract_lets +onlyGivenNames x; clear_value (hx : x = _); first | refine State.Keeps.local (s0 := s0) hx ?_ fun k => ?_ | skip)
    | with_reducible apply State.Keeps.ite
    | with_reducible apply State.endEarly_keeps
    | with_reducible apply State.countOverflow_keeps
    | with_reducible apply State.giveUp_keeps
    | with_reducible apply State.portCount_keeps
    | with_reducible apply State.appendBytes_keeps
    | with_reducible apply State.Keeps.id
    | fail_if_no_progress (with_reducible apply State.Keeps.rest)
    | dsimp only
    | refine State.Keeps.of_fst ‹_ = (_, _)› ?_
    | split

theorem State.storeWord_keeps {s0 s : State} {p : Nat} {id : Nat} {w : Nat} (kept : s0.Keeps s) :
    s0.Keeps (State.storeWord s p id w) := by
  unfold State.storeWord
  repeat' first
    | with_reducible intro _
    | with_reducible assumption
    | with_reducible exact State.Keeps.refl _
    | (extract_lets +onlyGivenNames x; clear_value (hx : x = _); first | refine State.Keeps.local (s0 := s0) hx ?_ fun k => ?_ | skip)
    | with_reducible apply State.Keeps.ite
    | with_reducible apply State.storeBytes_keeps
    | with_reducible apply State.modFrame_keeps
    | with_reducible apply State.Keeps.id
    | fail_if_no_progress (with_reducible apply State.Keeps.rest)
    | dsimp only
    | split

theorem State.meetErrs_keeps {s0 s : State} {e : ReadErrs} (kept : s0.Keeps s) :
    s0.Keeps (State.meetErrs s e) := by
  unfold State.meetErrs
  repeat' first
    | with_reducible intro _
    | with_reducible assumption
    | with_reducible exact State.Keeps.refl _
    | (extract_lets +onlyGivenNames x; clear_value (hx : x = _); first | refine State.Keeps.local (s0 := s0) hx ?_ fun k => ?_ | skip)
    | with_reducible apply State.Keeps.ite
    | with_reducible apply State.withFw_keeps
    | with_reducible apply State.withRoute_keeps
    | fail_if_no_progress (with_reducible apply State.Keeps.rest)
    | dsimp only
    | split

theorem State.meetCell_keeps {s0 s : State} {id : Nat} {e : ReadErrs} (kept : s0.Keeps s) :
    s0.Keeps (State.meetCell s id e) := by
  unfold State.meetCell
  repeat' first
    | with_reducible intro _
    | with_reducible assumption
    | with_reducible exact State.Keeps.refl _
    | (extract_lets +onlyGivenNames x; clear_value (hx : x = _); first | refine State.Keeps.local (s0 := s0) hx ?_ fun k => ?_ | skip)
    | with_reducible apply State.Keeps.ite
    | with_reducible apply State.markPoison_keeps
    | with_reducible apply State.Keeps.id
    | fail_if_no_progress (with_reducible apply State.Keeps.rest)
    | dsimp only
    | split

theorem State.rollDistance_keeps {s0 s : State} {p : Nat} {v : DrawView} (kept : s0.Keeps s) :
    s0.Keeps (State.rollDistance s p v).2 := by
  unfold State.rollDistance
  repeat' first
    | with_reducible intro _
    | with_reducible assumption
    | with_reducible exact State.Keeps.refl _
    | (extract_lets +onlyGivenNames x; clear_value (hx : x = _); first | refine State.Keeps.local (s0 := s0) hx ?_ fun k => ?_ | skip)
    | with_reducible apply State.Keeps.ite
    | with_reducible apply State.draw_keeps
    | with_reducible apply State.Keeps.ite_snd
    | fail_if_no_progress (with_reducible apply State.Keeps.rest)
    | dsimp only
    | refine State.Keeps.of_snd ‹_ = (_, _)› ?_
    | split

theorem State.drawMessage_keeps {s0 s : State} {p : Nat} {id : Nat} {v : DrawView} {dist : List (Nat × Nat)} (kept : s0.Keeps s) :
    s0.Keeps (State.drawMessage s p id v dist) := by
  unfold State.drawMessage
  repeat' first
    | with_reducible intro _
    | with_reducible assumption
    | with_reducible exact State.Keeps.refl _
    | (extract_lets +onlyGivenNames x; clear_value (hx : x = _); first | refine State.Keeps.local (s0 := s0) hx ?_ fun k => ?_ | (have g := State.regs x.2; clear g; subst hx) | skip)
    | with_reducible apply State.Keeps.ite
    | with_reducible apply State.manageRequest_keeps
    | with_reducible apply State.manageAnswer_keeps
    | with_reducible apply State.passOn_keeps
    | with_reducible apply State.rollCall_keeps
    | with_reducible apply State.sendMessage_keeps
    | with_reducible apply State.eraseFrame_keeps
    | with_reducible apply State.modFrame_keeps
    | with_reducible apply State.draw_keeps
    | with_reducible apply State.bump_keeps
    | with_reducible apply State.Keeps.id
    | fail_if_no_progress (with_reducible apply State.Keeps.rest)
    | dsimp only
    | refine State.Keeps.of_snd ‹_ = (_, _)› ?_
    | split

theorem State.drawArrive_keeps {s0 s : State} {p : Nat} {id : Nat} (kept : s0.Keeps s) :
    s0.Keeps (State.drawArrive s p id) := by
  unfold State.drawArrive
  repeat' first
    | with_reducible intro _
    | with_reducible assumption
    | with_reducible exact State.Keeps.refl _
    | (extract_lets +onlyGivenNames x; clear_value (hx : x = _); first | refine State.Keeps.local (s0 := s0) hx ?_ fun k => ?_ | (have g := State.regs x.2; clear g; subst hx) | skip)
    | with_reducible apply State.Keeps.ite
    | with_reducible apply State.drawMessage_keeps
    | with_reducible apply State.rollDistance_keeps
    | with_reducible apply State.drawFlood_keeps
    | with_reducible apply State.drawUnicast_keeps
    | with_reducible apply State.drawLookup_keeps
    | with_reducible apply State.drawDiscard_keeps
    | with_reducible apply State.withConsist_keeps
    | with_reducible apply State.Keeps.id
    | fail_if_no_progress (with_reducible apply State.Keeps.rest)
    | dsimp only
    | refine State.Keeps.of_snd ‹_ = (_, _)› ?_
    | split

theorem State.arrive_keeps {s0 s : State} {p : Nat} {id : Nat} (kept : s0.Keeps s) :
    s0.Keeps (State.arrive s p id) := by
  unfold State.arrive
  repeat' first
    | with_reducible intro _
    | with_reducible assumption
    | with_reducible exact State.Keeps.refl _
    | (extract_lets +onlyGivenNames x; clear_value (hx : x = _); first | refine State.Keeps.local (s0 := s0) hx ?_ fun k => ?_ | skip)
    | with_reducible apply State.Keeps.ite
    | with_reducible apply State.drawArrive_keeps
    | with_reducible apply State.releaseFrame_keeps
    | with_reducible apply State.secureStep_keeps
    | with_reducible apply State.Keeps.id
    | fail_if_no_progress (with_reducible apply State.Keeps.rest)
    | dsimp only
    | refine State.Keeps.of_snd ‹_ = (_, _)› ?_
    | split

theorem State.enterWhole_keeps {s0 s : State} {f : Frame} {bs : List Byte} (kept : s0.Keeps s) :
    s0.Keeps (State.enterWhole s f bs).2 := by
  unfold State.enterWhole
  repeat' first
    | with_reducible intro _
    | with_reducible assumption
    | with_reducible exact State.Keeps.refl _
    | (extract_lets +onlyGivenNames x; clear_value (hx : x = _); first | refine State.Keeps.local (s0 := s0) hx ?_ fun k => ?_ | (have g := State.regs x.2; clear g; subst hx) | skip)
    | with_reducible apply State.Keeps.ite
    | with_reducible apply State.arrive_keeps
    | with_reducible apply State.countOverflow_keeps
    | with_reducible apply State.modIngress_keeps
    | with_reducible apply State.newFrame_keeps
    | with_reducible apply State.appendBytes_keeps
    | with_reducible apply State.modFrame_keeps
    | with_reducible apply State.Keeps.id
    | with_reducible apply State.Keeps.ite_snd
    | fail_if_no_progress (with_reducible apply State.Keeps.rest)
    | dsimp only
    | refine State.Keeps.of_snd ‹_ = (_, _)› ?_
    | refine State.Keeps.of_fst ‹_ = (_, _)› ?_
    | split

theorem State.pauseReceived_keeps {s0 s : State} {p : Nat} {quanta : Nat} (kept : s0.Keeps s) :
    s0.Keeps (State.pauseReceived s p quanta) := by
  unfold State.pauseReceived
  repeat' first
    | with_reducible intro _
    | with_reducible assumption
    | with_reducible exact State.Keeps.refl _
    | (extract_lets +onlyGivenNames x; clear_value (hx : x = _); first | refine State.Keeps.local (s0 := s0) hx ?_ fun k => ?_ | skip)
    | with_reducible apply State.Keeps.ite
    | with_reducible apply State.setStop_keeps
    | with_reducible apply State.portCount_keeps
    | fail_if_no_progress (with_reducible apply State.Keeps.rest)
    | dsimp only
    | split

theorem State.pfcReceived_keeps {s0 s : State} {p : Nat} {classes : Nat} {quanta : List Nat} (kept : s0.Keeps s) :
    s0.Keeps (State.pfcReceived s p classes quanta) := by
  unfold State.pfcReceived
  repeat' first
    | with_reducible intro _
    | with_reducible assumption
    | with_reducible exact State.Keeps.refl _
    | (extract_lets +onlyGivenNames x; clear_value (hx : x = _); first | refine State.Keeps.local (s0 := s0) hx ?_ fun k => ?_ | skip)
    | with_reducible apply State.Keeps.ite
    | with_reducible apply State.setStop_keeps
    | with_reducible apply State.portCount_keeps
    | with_reducible apply State.forEach_keeps
    | fail_if_no_progress (with_reducible apply State.Keeps.rest)
    | dsimp only
    | split

theorem State.macControl_keeps {s0 s : State} {p : Nat} {bs : List Byte} (kept : s0.Keeps s) :
    s0.Keeps (State.macControl s p bs) := by
  unfold State.macControl
  repeat' first
    | with_reducible intro _
    | with_reducible assumption
    | with_reducible exact State.Keeps.refl _
    | (extract_lets +onlyGivenNames x; clear_value (hx : x = _); first | refine State.Keeps.local (s0 := s0) hx ?_ fun k => ?_ | skip)
    | with_reducible apply State.Keeps.ite
    | with_reducible apply State.pfcReceived_keeps
    | with_reducible apply State.pauseReceived_keeps
    | with_reducible apply State.portCount_keeps
    | fail_if_no_progress (with_reducible apply State.Keeps.rest)
    | dsimp only
    | split

theorem State.cleanFrame_keeps {s0 s : State} {p : Nat} (kept : s0.Keeps s) :
    s0.Keeps (State.cleanFrame s p) := by
  unfold State.cleanFrame
  repeat' first
    | with_reducible intro _
    | with_reducible assumption
    | with_reducible exact State.Keeps.refl _
    | (extract_lets +onlyGivenNames x; clear_value (hx : x = _); first | refine State.Keeps.local (s0 := s0) hx ?_ fun k => ?_ | skip)
    | with_reducible apply State.Keeps.ite
    | with_reducible apply State.modPdyn_keeps
    | fail_if_no_progress (with_reducible apply State.Keeps.rest)
    | dsimp only
    | split

theorem State.stampRx_keeps {s0 s : State} {p : Nat} {f : Frame} (kept : s0.Keeps s) :
    s0.Keeps (State.stampRx s p f) := by
  unfold State.stampRx
  repeat' first
    | with_reducible intro _
    | with_reducible assumption
    | with_reducible exact State.Keeps.refl _
    | (extract_lets +onlyGivenNames x; clear_value (hx : x = _); first | refine State.Keeps.local (s0 := s0) hx ?_ fun k => ?_ | skip)
    | with_reducible apply State.Keeps.ite
    | with_reducible apply State.ptpStamp_keeps
    | fail_if_no_progress (with_reducible apply State.Keeps.rest)
    | dsimp only
    | split

theorem State.endGood_keeps {s0 s : State} {p : Nat} {id : Nat} {f : Frame} (kept : s0.Keeps s) :
    s0.Keeps (State.endGood s p id f) := by
  unfold State.endGood
  repeat' first
    | with_reducible intro _
    | with_reducible assumption
    | with_reducible exact State.Keeps.refl _
    | (extract_lets +onlyGivenNames x; clear_value (hx : x = _); first | refine State.Keeps.local (s0 := s0) hx ?_ fun k => ?_ | skip)
    | with_reducible apply State.Keeps.ite
    | with_reducible apply State.cleanFrame_keeps
    | with_reducible apply State.macControl_keeps
    | with_reducible apply State.arrive_keeps
    | with_reducible apply State.stampRx_keeps
    | with_reducible apply State.countRx_keeps
    | with_reducible apply State.portCount_keeps
    | with_reducible apply State.eraseFrame_keeps
    | with_reducible apply State.modFrame_keeps
    | with_reducible apply State.Keeps.id
    | fail_if_no_progress (with_reducible apply State.Keeps.rest)
    | dsimp only
    | split

theorem State.endEth_keeps {s0 s : State} {p : Nat} {id : Nat} {status : Nat} {pcs : Bool} (kept : s0.Keeps s) :
    s0.Keeps (State.endEth s p id status pcs) := by
  unfold State.endEth
  repeat' first
    | with_reducible intro _
    | with_reducible assumption
    | with_reducible exact State.Keeps.refl _
    | (extract_lets +onlyGivenNames x; clear_value (hx : x = _); first | refine State.Keeps.local (s0 := s0) hx ?_ fun k => ?_ | skip)
    | with_reducible apply State.Keeps.ite
    | with_reducible apply State.endGood_keeps
    | with_reducible apply State.cleanFrame_keeps
    | with_reducible apply State.modIngress_keeps
    | with_reducible apply State.stampRx_keeps
    | with_reducible apply State.closeTx_keeps
    | with_reducible apply State.countRx_keeps
    | with_reducible apply State.portCount_keeps
    | with_reducible apply State.eraseFrame_keeps
    | with_reducible apply State.modFrame_keeps
    | with_reducible apply State.Keeps.id
    | fail_if_no_progress (with_reducible apply State.Keeps.rest)
    | dsimp only
    | split

theorem State.takeEnd_keeps {s0 s : State} {p : Nat} {id : Nat} {len : Nat} {status : Nat} (kept : s0.Keeps s) :
    s0.Keeps (State.takeEnd s p id len status) := by
  unfold State.takeEnd
  repeat' first
    | with_reducible intro _
    | with_reducible assumption
    | with_reducible exact State.Keeps.refl _
    | (extract_lets +onlyGivenNames x; clear_value (hx : x = _); first | refine State.Keeps.local (s0 := s0) hx ?_ fun k => ?_ | skip)
    | with_reducible apply State.Keeps.ite
    | with_reducible apply State.endEth_keeps
    | with_reducible apply State.arrive_keeps
    | with_reducible apply State.endEarly_keeps
    | with_reducible apply State.modIngress_keeps
    | with_reducible apply State.portCount_keeps
    | with_reducible apply State.eraseFrame_keeps
    | with_reducible apply State.modFrame_keeps
    | with_reducible apply State.Keeps.id
    | fail_if_no_progress (with_reducible apply State.Keeps.rest)
    | dsimp only
    | split

theorem State.takeItem_keeps {s0 s : State} {p : Nat} {w : BitVec 36} (kept : s0.Keeps s) :
    s0.Keeps (State.takeItem s p w) := by
  unfold State.takeItem
  repeat' first
    | with_reducible intro _
    | with_reducible assumption
    | with_reducible exact State.Keeps.refl _
    | (extract_lets +onlyGivenNames x; clear_value (hx : x = _); first | refine State.Keeps.local (s0 := s0) hx ?_ fun k => ?_ | skip)
    | with_reducible apply State.Keeps.ite
    | with_reducible apply State.takeEnd_keeps
    | with_reducible apply State.storeWord_keeps
    | with_reducible apply State.startFrame_keeps
    | with_reducible apply State.modIngress_keeps
    | with_reducible apply State.modFrame_keeps
    | with_reducible apply State.Keeps.id
    | fail_if_no_progress (with_reducible apply State.Keeps.rest)
    | dsimp only
    | split

theorem State.drainItems_keeps {s0 s : State} {p : Nat} (kept : s0.Keeps s) :
    s0.Keeps (State.drainItems s p) := by
  unfold State.drainItems
  repeat' first
    | with_reducible intro _
    | with_reducible assumption
    | with_reducible exact State.Keeps.refl _
    | (extract_lets +onlyGivenNames x; clear_value (hx : x = _); first | refine State.Keeps.local (s0 := s0) hx ?_ fun k => ?_ | skip)
    | with_reducible apply State.Keeps.ite
    | with_reducible apply State.takeItem_keeps
    | with_reducible apply State.modIngress_keeps
    | with_reducible apply State.forEach_keeps
    | fail_if_no_progress (with_reducible apply State.Keeps.rest)
    | dsimp only
    | split

theorem State.itemLost_keeps {s0 s : State} {p : Nat} (kept : s0.Keeps s) :
    s0.Keeps (State.itemLost s p) := by
  unfold State.itemLost
  repeat' first
    | with_reducible intro _
    | with_reducible assumption
    | with_reducible exact State.Keeps.refl _
    | (extract_lets +onlyGivenNames x; clear_value (hx : x = _); first | refine State.Keeps.local (s0 := s0) hx ?_ fun k => ?_ | skip)
    | with_reducible apply State.Keeps.ite
    | with_reducible apply State.countOverflow_keeps
    | with_reducible apply State.modIngress_keeps
    | fail_if_no_progress (with_reducible apply State.Keeps.rest)
    | dsimp only
    | split

theorem State.putItem_keeps {s0 s : State} {p : Nat} {w : BitVec 36} (kept : s0.Keeps s) :
    s0.Keeps (State.putItem s p w) := by
  unfold State.putItem
  repeat' first
    | with_reducible intro _
    | with_reducible assumption
    | with_reducible exact State.Keeps.refl _
    | (extract_lets +onlyGivenNames x; clear_value (hx : x = _); first | refine State.Keeps.local (s0 := s0) hx ?_ fun k => ?_ | skip)
    | with_reducible apply State.Keeps.ite
    | with_reducible apply State.itemLost_keeps
    | with_reducible apply State.takeItem_keeps
    | with_reducible apply State.modIngress_keeps
    | fail_if_no_progress (with_reducible apply State.Keeps.rest)
    | dsimp only
    | split

theorem State.releaseEarly_keeps {s0 s : State} {p : Nat} (kept : s0.Keeps s) :
    s0.Keeps (State.releaseEarly s p) := by
  unfold State.releaseEarly
  repeat' first
    | with_reducible intro _
    | with_reducible assumption
    | with_reducible exact State.Keeps.refl _
    | (extract_lets +onlyGivenNames x; clear_value (hx : x = _); first | refine State.Keeps.local (s0 := s0) hx ?_ fun k => ?_ | skip)
    | with_reducible apply State.Keeps.ite
    | with_reducible apply State.releaseFrame_keeps
    | with_reducible apply State.portCount_keeps
    | with_reducible apply State.modFrame_keeps
    | with_reducible apply State.bump_keeps
    | with_reducible apply State.Keeps.id
    | fail_if_no_progress (with_reducible apply State.Keeps.rest)
    | dsimp only
    | split

theorem State.setDelivery_keeps {s0 s : State} {p : Nat} {q : DeliveryQ} (kept : s0.Keeps s) :
    s0.Keeps (State.setDelivery s p q) := by
  unfold State.setDelivery
  repeat' first
    | with_reducible intro _
    | with_reducible assumption
    | with_reducible exact State.Keeps.refl _
    | (extract_lets +onlyGivenNames x; clear_value (hx : x = _); first | refine State.Keeps.local (s0 := s0) hx ?_ fun k => ?_ | skip)
    | with_reducible apply State.Keeps.ite
    | with_reducible apply State.withBuf_keeps
    | fail_if_no_progress (with_reducible apply State.Keeps.rest)
    | dsimp only
    | split

theorem State.nextDelivery_keeps {s0 s : State} {p : Nat} {x1 : List Nat} (kept : s0.Keeps s) :
    s0.Keeps (State.nextDelivery s p x1) := by
  induction x1 generalizing s p with
  | nil =>
    unfold State.nextDelivery
    repeat' first
      | with_reducible intro _
      | with_reducible assumption
      | with_reducible exact State.Keeps.refl _
      | (extract_lets +onlyGivenNames x; clear_value (hx : x = _); first | refine State.Keeps.local (s0 := s0) hx ?_ fun k => ?_ | skip)
      | with_reducible apply State.Keeps.ite
      | with_reducible apply State.setDelivery_keeps
      | with_reducible apply State.discardPoisoned_keeps
      | with_reducible apply State.Keeps.id
      | fail_if_no_progress (with_reducible apply State.Keeps.rest)
      | dsimp only
      | split
  | cons y r ih =>
    unfold State.nextDelivery
    repeat' first
      | with_reducible intro _
      | with_reducible assumption
      | with_reducible apply ih
      | with_reducible exact State.Keeps.refl _
      | (extract_lets +onlyGivenNames x; clear_value (hx : x = _); first | refine State.Keeps.local (s0 := s0) hx ?_ fun k => ?_ | skip)
      | with_reducible apply State.Keeps.ite
      | with_reducible apply State.setDelivery_keeps
      | with_reducible apply State.discardPoisoned_keeps
      | with_reducible apply State.Keeps.id
      | fail_if_no_progress (with_reducible apply State.Keeps.rest)
      | dsimp only
      | split

theorem State.popItem_keeps {s0 s : State} {p : Nat} (kept : s0.Keeps s) :
    s0.Keeps (State.popItem s p).2 := by
  unfold State.popItem
  repeat' first
    | with_reducible intro _
    | with_reducible assumption
    | with_reducible exact State.Keeps.refl _
    | (extract_lets +onlyGivenNames x; clear_value (hx : x = _); first | refine State.Keeps.local (s0 := s0) hx ?_ fun k => ?_ | skip)
    | with_reducible apply State.Keeps.ite
    | with_reducible apply State.nextDelivery_keeps
    | with_reducible apply State.setDelivery_keeps
    | with_reducible apply State.dropRef_keeps
    | with_reducible apply State.probeEnd_keeps
    | with_reducible apply State.Keeps.id
    | with_reducible apply State.Keeps.ite_snd
    | fail_if_no_progress (with_reducible apply State.Keeps.rest)
    | dsimp only
    | split

theorem State.popItems_keeps {s0 s : State} {p : Nat} {x1 : Nat} (kept : s0.Keeps s) :
    s0.Keeps (State.popItems s p x1).2 := by
  induction x1 generalizing s p with
  | zero =>
    unfold State.popItems
    repeat' first
      | with_reducible intro _
      | with_reducible assumption
      | with_reducible exact State.Keeps.refl _
      | (extract_lets +onlyGivenNames x; clear_value (hx : x = _); first | refine State.Keeps.local (s0 := s0) hx ?_ fun k => ?_ | skip)
      | with_reducible apply State.Keeps.ite
      | with_reducible apply State.popItem_keeps
      | with_reducible apply State.Keeps.ite_snd
      | fail_if_no_progress (with_reducible apply State.Keeps.rest)
      | dsimp only
      | refine State.Keeps.of_snd ‹_ = (_, _)› ?_
      | split
  | succ k ih =>
    unfold State.popItems
    repeat' first
      | with_reducible intro _
      | with_reducible assumption
      | with_reducible apply ih
      | with_reducible exact State.Keeps.refl _
      | (extract_lets +onlyGivenNames x; clear_value (hx : x = _); first | refine State.Keeps.local (s0 := s0) hx ?_ fun k => ?_ | skip)
      | with_reducible apply State.Keeps.ite
      | with_reducible apply State.popItem_keeps
      | with_reducible apply State.Keeps.ite_snd
      | fail_if_no_progress (with_reducible apply State.Keeps.rest)
      | dsimp only
      | refine State.Keeps.of_snd ‹_ = (_, _)› ?_
      | split

theorem State.deliver_keeps {s0 s : State} {p : Nat} {n : Nat} (kept : s0.Keeps s) :
    s0.Keeps (State.deliver s p n) := by
  unfold State.deliver
  repeat' first
    | with_reducible intro _
    | with_reducible assumption
    | with_reducible exact State.Keeps.refl _
    | (extract_lets +onlyGivenNames x; clear_value (hx : x = _); first | refine State.Keeps.local (s0 := s0) hx ?_ fun k => ?_ | (have g := State.regs x.2; clear g; subst hx) | skip)
    | with_reducible apply State.Keeps.ite
    | with_reducible apply State.setDelivery_keeps
    | with_reducible apply State.startCheck_keeps
    | with_reducible apply State.popHead_keeps
    | with_reducible apply State.takeWaiting_keeps
    | with_reducible apply State.probeOut_keeps
    | fail_if_no_progress (with_reducible apply State.Keeps.rest)
    | dsimp only
    | refine State.Keeps.of_snd ‹_ = (_, _)› ?_
    | split

end Sys2Proof.Machine
end

