-- ==== Sys2Proof/Laws/KeepsSdo.lean ====
section
/-! SUPPORT. What the definitions of Machine/Sdo keep (`State.Keeps`). -/

set_option linter.unusedTactic false
set_option linter.unreachableTactic false

namespace Sys2Proof.Machine

theorem State.takeRequest_keeps {s0 s : State} {isIt : Frame → Bool} (kept : s0.Keeps s) :
    s0.Keeps (State.takeRequest s isIt) := by
  unfold State.takeRequest
  repeat' first
    | with_reducible intro _
    | with_reducible assumption
    | with_reducible exact State.Keeps.refl _
    | (extract_lets +onlyGivenNames x; clear_value (hx : x = _); first | refine State.Keeps.local (s0 := s0) hx ?_ fun k => ?_ | skip)
    | with_reducible apply State.Keeps.ite
    | with_reducible apply State.dropRef_keeps
    | with_reducible apply State.withBuf_keeps
    | with_reducible apply State.Keeps.id
    | fail_if_no_progress (with_reducible apply State.Keeps.rest)
    | dsimp only
    | split

theorem State.sdoBegin_keeps {s0 s : State} {c : Nat} {kind : Nat} {idx : Nat} {sub : Nat} {size : Option Nat} {blk : Nat} {crc : Bool} {answer : List Byte} (kept : s0.Keeps s) :
    s0.Keeps (State.sdoBegin s c kind idx sub size blk crc answer) := by
  unfold State.sdoBegin
  repeat' first
    | with_reducible intro _
    | with_reducible assumption
    | with_reducible exact State.Keeps.refl _
    | (extract_lets +onlyGivenNames x; clear_value (hx : x = _); first | refine State.Keeps.local (s0 := s0) hx ?_ fun k => ?_ | skip)
    | with_reducible apply State.Keeps.ite
    | with_reducible apply State.sdoAbort_keeps
    | with_reducible apply State.setSdo_keeps
    | with_reducible apply State.sdoSend_keeps
    | with_reducible apply State.claimLock_keeps
    | with_reducible apply State.bump_keeps
    | fail_if_no_progress (with_reducible apply State.Keeps.rest)
    | dsimp only
    | split

theorem State.sdoInitDownload_keeps {s0 s : State} {c : Nat} {d : List Byte} (kept : s0.Keeps s) :
    s0.Keeps (State.sdoInitDownload s c d) := by
  unfold State.sdoInitDownload
  repeat' first
    | with_reducible intro _
    | with_reducible assumption
    | with_reducible exact State.Keeps.refl _
    | (extract_lets +onlyGivenNames x; clear_value (hx : x = _); first | refine State.Keeps.local (s0 := s0) hx ?_ fun k => ?_ | (have g := State.regs x.2; clear g; subst hx) | skip)
    | with_reducible apply State.Keeps.ite
    | with_reducible apply State.sdoBegin_keeps
    | with_reducible apply State.serve_keeps
    | with_reducible apply State.endSdo_keeps
    | with_reducible apply State.write_keeps
    | fail_if_no_progress (with_reducible apply State.Keeps.rest)
    | dsimp only
    | refine State.Keeps.of_snd ‹_ = (_, _)› ?_
    | split

theorem State.sdoApply_keeps {s0 s : State} {c : Nat} {kind : Nat} {toggle : Nat} {x : SdoXfer} {data : List Byte} (kept : s0.Keeps s) :
    s0.Keeps (State.sdoApply s c kind toggle x data) := by
  unfold State.sdoApply
  repeat' first
    | with_reducible intro _
    | with_reducible assumption
    | with_reducible exact State.Keeps.refl _
    | (extract_lets +onlyGivenNames x; clear_value (hx : x = _); first | refine State.Keeps.local (s0 := s0) hx ?_ fun k => ?_ | skip)
    | with_reducible apply State.Keeps.ite
    | with_reducible apply State.serve_keeps
    | with_reducible apply State.sdoAbort_keeps
    | with_reducible apply State.endSdo_keeps
    | with_reducible apply State.write_keeps
    | fail_if_no_progress (with_reducible apply State.Keeps.rest)
    | dsimp only
    | refine State.Keeps.of_snd ‹_ = (_, _)› ?_
    | split

theorem State.sdoUnknown_keeps {s0 s : State} {c : Nat} (kept : s0.Keeps s) :
    s0.Keeps (State.sdoUnknown s c) := by
  unfold State.sdoUnknown
  repeat' first
    | with_reducible intro _
    | with_reducible assumption
    | with_reducible exact State.Keeps.refl _
    | (extract_lets +onlyGivenNames x; clear_value (hx : x = _); first | refine State.Keeps.local (s0 := s0) hx ?_ fun k => ?_ | skip)
    | with_reducible apply State.Keeps.ite
    | with_reducible apply State.sdoAbort_keeps
    | fail_if_no_progress (with_reducible apply State.Keeps.rest)
    | dsimp only
    | split

theorem State.sdoDownloadSegment_keeps {s0 s : State} {c : Nat} {d : List Byte} (kept : s0.Keeps s) :
    s0.Keeps (State.sdoDownloadSegment s c d) := by
  unfold State.sdoDownloadSegment
  repeat' first
    | with_reducible intro _
    | with_reducible assumption
    | with_reducible exact State.Keeps.refl _
    | (extract_lets +onlyGivenNames x; clear_value (hx : x = _); first | refine State.Keeps.local (s0 := s0) hx ?_ fun k => ?_ | skip)
    | with_reducible apply State.Keeps.ite
    | with_reducible apply State.sdoUnknown_keeps
    | with_reducible apply State.sdoApply_keeps
    | with_reducible apply State.sdoAbort_keeps
    | with_reducible apply State.setSdo_keeps
    | with_reducible apply State.sdoSend_keeps
    | fail_if_no_progress (with_reducible apply State.Keeps.rest)
    | dsimp only
    | split

theorem State.sdoInitUpload_keeps {s0 s : State} {c : Nat} {d : List Byte} (kept : s0.Keeps s) :
    s0.Keeps (State.sdoInitUpload s c d) := by
  unfold State.sdoInitUpload
  repeat' first
    | with_reducible intro _
    | with_reducible assumption
    | with_reducible exact State.Keeps.refl _
    | (extract_lets +onlyGivenNames x; clear_value (hx : x = _); first | refine State.Keeps.local (s0 := s0) hx ?_ fun k => ?_ | skip)
    | with_reducible apply State.Keeps.ite
    | with_reducible apply State.serve_keeps
    | with_reducible apply State.endSdo_keeps
    | fail_if_no_progress (with_reducible apply State.Keeps.rest)
    | dsimp only
    | split

theorem State.sdoUploadSegment_keeps {s0 s : State} {c : Nat} {d : List Byte} (kept : s0.Keeps s) :
    s0.Keeps (State.sdoUploadSegment s c d) := by
  unfold State.sdoUploadSegment
  repeat' first
    | with_reducible intro _
    | with_reducible assumption
    | with_reducible exact State.Keeps.refl _
    | (extract_lets +onlyGivenNames x; clear_value (hx : x = _); first | refine State.Keeps.local (s0 := s0) hx ?_ fun k => ?_ | skip)
    | with_reducible apply State.Keeps.ite
    | with_reducible apply State.sdoUnknown_keeps
    | with_reducible apply State.moveCursor_keeps
    | with_reducible apply State.sdoAbort_keeps
    | with_reducible apply State.endSdo_keeps
    | with_reducible apply State.setSdo_keeps
    | with_reducible apply State.sdoSend_keeps
    | fail_if_no_progress (with_reducible apply State.Keeps.rest)
    | dsimp only
    | split

theorem State.sdoInitBlockDownload_keeps {s0 s : State} {c : Nat} {d : List Byte} (kept : s0.Keeps s) :
    s0.Keeps (State.sdoInitBlockDownload s c d) := by
  unfold State.sdoInitBlockDownload
  repeat' first
    | with_reducible intro _
    | with_reducible assumption
    | with_reducible exact State.Keeps.refl _
    | (extract_lets +onlyGivenNames x; clear_value (hx : x = _); first | refine State.Keeps.local (s0 := s0) hx ?_ fun k => ?_ | skip)
    | with_reducible apply State.Keeps.ite
    | with_reducible apply State.sdoBegin_keeps
    | with_reducible apply State.endSdo_keeps
    | fail_if_no_progress (with_reducible apply State.Keeps.rest)
    | dsimp only
    | split

theorem State.sdoBlockSegment_keeps {s0 s : State} {c : Nat} {x : SdoXfer} {d : List Byte} (kept : s0.Keeps s) :
    s0.Keeps (State.sdoBlockSegment s c x d) := by
  unfold State.sdoBlockSegment
  repeat' first
    | with_reducible intro _
    | with_reducible assumption
    | with_reducible exact State.Keeps.refl _
    | (extract_lets +onlyGivenNames x; clear_value (hx : x = _); first | refine State.Keeps.local (s0 := s0) hx ?_ fun k => ?_ | skip)
    | with_reducible apply State.Keeps.ite
    | with_reducible apply State.sdoAbort_keeps
    | with_reducible apply State.setSdo_keeps
    | with_reducible apply State.sdoSend_keeps
    | fail_if_no_progress (with_reducible apply State.Keeps.rest)
    | dsimp only
    | split

theorem State.sdoBlockEnd_keeps {s0 s : State} {c : Nat} {x : SdoXfer} {d : List Byte} (kept : s0.Keeps s) :
    s0.Keeps (State.sdoBlockEnd s c x d) := by
  unfold State.sdoBlockEnd
  repeat' first
    | with_reducible intro _
    | with_reducible assumption
    | with_reducible exact State.Keeps.refl _
    | (extract_lets +onlyGivenNames x; clear_value (hx : x = _); first | refine State.Keeps.local (s0 := s0) hx ?_ fun k => ?_ | skip)
    | with_reducible apply State.Keeps.ite
    | with_reducible apply State.sdoApply_keeps
    | with_reducible apply State.sdoAbort_keeps
    | fail_if_no_progress (with_reducible apply State.Keeps.rest)
    | dsimp only
    | split

theorem State.sdoBlockDownload_keeps {s0 s : State} {c : Nat} {d : List Byte} (kept : s0.Keeps s) :
    s0.Keeps (State.sdoBlockDownload s c d) := by
  unfold State.sdoBlockDownload
  repeat' first
    | with_reducible intro _
    | with_reducible assumption
    | with_reducible exact State.Keeps.refl _
    | (extract_lets +onlyGivenNames x; clear_value (hx : x = _); first | refine State.Keeps.local (s0 := s0) hx ?_ fun k => ?_ | skip)
    | with_reducible apply State.Keeps.ite
    | with_reducible apply State.sdoBlockEnd_keeps
    | with_reducible apply State.sdoBlockSegment_keeps
    | with_reducible apply State.sdoInitBlockDownload_keeps
    | with_reducible apply State.sdoUnknown_keeps
    | fail_if_no_progress (with_reducible apply State.Keeps.rest)
    | dsimp only
    | split

theorem State.sdoSendBlock_keeps {s0 s : State} {c : Nat} {k : Nat} {data : List Byte} {x1 : Nat} (kept : s0.Keeps s) :
    s0.Keeps (State.sdoSendBlock s c k data x1).2 := by
  induction x1 generalizing s c k data with
  | zero =>
    unfold State.sdoSendBlock
    repeat' first
      | with_reducible intro _
      | with_reducible assumption
      | with_reducible exact State.Keeps.refl _
      | (extract_lets +onlyGivenNames x; clear_value (hx : x = _); first | refine State.Keeps.local (s0 := s0) hx ?_ fun k => ?_ | skip)
      | with_reducible apply State.Keeps.ite
      | with_reducible apply State.sdoSend_keeps
      | with_reducible apply State.Keeps.ite_snd
      | fail_if_no_progress (with_reducible apply State.Keeps.rest)
      | dsimp only
      | split
  | succ k ih =>
    unfold State.sdoSendBlock
    repeat' first
      | with_reducible intro _
      | with_reducible assumption
      | with_reducible apply ih
      | with_reducible exact State.Keeps.refl _
      | (extract_lets +onlyGivenNames x; clear_value (hx : x = _); first | refine State.Keeps.local (s0 := s0) hx ?_ fun k => ?_ | skip)
      | with_reducible apply State.Keeps.ite
      | with_reducible apply State.sdoSend_keeps
      | with_reducible apply State.Keeps.ite_snd
      | fail_if_no_progress (with_reducible apply State.Keeps.rest)
      | dsimp only
      | split

theorem State.sdoNextBlock_keeps {s0 s : State} {c : Nat} {x : SdoXfer} (kept : s0.Keeps s) :
    s0.Keeps (State.sdoNextBlock s c x) := by
  unfold State.sdoNextBlock
  repeat' first
    | with_reducible intro _
    | with_reducible assumption
    | with_reducible exact State.Keeps.refl _
    | (extract_lets +onlyGivenNames x; clear_value (hx : x = _); first | refine State.Keeps.local (s0 := s0) hx ?_ fun k => ?_ | skip)
    | with_reducible apply State.Keeps.ite
    | with_reducible apply State.sdoSendBlock_keeps
    | with_reducible apply State.setSdo_keeps
    | fail_if_no_progress (with_reducible apply State.Keeps.rest)
    | dsimp only
    | refine State.Keeps.of_snd ‹_ = (_, _)› ?_
    | split

theorem State.sdoBlockUploadStep_keeps {s0 s : State} {c : Nat} {d : List Byte} (kept : s0.Keeps s) :
    s0.Keeps (State.sdoBlockUploadStep s c d) := by
  unfold State.sdoBlockUploadStep
  repeat' first
    | with_reducible intro _
    | with_reducible assumption
    | with_reducible exact State.Keeps.refl _
    | (extract_lets +onlyGivenNames x; clear_value (hx : x = _); first | refine State.Keeps.local (s0 := s0) hx ?_ fun k => ?_ | skip)
    | with_reducible apply State.Keeps.ite
    | with_reducible apply State.sdoNextBlock_keeps
    | with_reducible apply State.sdoUnknown_keeps
    | with_reducible apply State.serve_keeps
    | with_reducible apply State.moveCursor_keeps
    | with_reducible apply State.sdoAbort_keeps
    | with_reducible apply State.endSdo_keeps
    | with_reducible apply State.setSdo_keeps
    | with_reducible apply State.sdoSend_keeps
    | fail_if_no_progress (with_reducible apply State.Keeps.rest)
    | dsimp only
    | split

theorem State.sdoRow_keeps {s0 s : State} {c : Nat} {service : Nat} {d : List Byte} {run : State → State} (kept : s0.Keeps s) (hrun : ∀ u, s0.Keeps u → s0.Keeps (run u)) :
    s0.Keeps (State.sdoRow s c service d run) := by
  unfold State.sdoRow
  repeat' first
    | with_reducible intro _
    | with_reducible assumption
    | with_reducible exact State.Keeps.refl _
    | (extract_lets +onlyGivenNames x; clear_value (hx : x = _); first | refine State.Keeps.local (s0 := s0) hx ?_ fun k => ?_ | skip)
    | with_reducible apply State.Keeps.ite
    | with_reducible apply hrun
    | with_reducible apply State.sdoUnknown_keeps
    | with_reducible apply State.takeRequest_keeps
    | with_reducible apply State.measured_keeps
    | with_reducible apply State.busyAnswer_keeps
    | with_reducible apply State.bump_keeps
    | fail_if_no_progress (with_reducible apply State.Keeps.rest)
    | dsimp only
    | split

theorem State.sdoTimeout_keeps {s0 s : State} {c : Nat} (kept : s0.Keeps s) :
    s0.Keeps (State.sdoTimeout s c) := by
  unfold State.sdoTimeout
  repeat' first
    | with_reducible intro _
    | with_reducible assumption
    | with_reducible exact State.Keeps.refl _
    | (extract_lets +onlyGivenNames x; clear_value (hx : x = _); first | refine State.Keeps.local (s0 := s0) hx ?_ fun k => ?_ | skip)
    | with_reducible apply State.Keeps.ite
    | with_reducible apply State.sdoAbort_keeps
    | fail_if_no_progress (with_reducible apply State.Keeps.rest)
    | dsimp only
    | split

end Sys2Proof.Machine
end

