-- ==== Sys2Proof/Laws/KeepsDalmoly.lean ====
section
/-! SUPPORT. What the definitions of Machine/Dalmoly keep (`State.Keeps`). -/

set_option linter.unusedTactic false
set_option linter.unreachableTactic false

namespace Sys2Proof.Machine

theorem State.dalRow_keeps {s0 s : State} {port : Nat} {frame : List Byte} {run : State → DalMsg → State} (kept : s0.Keeps s) (hrun : ∀ u a, s0.Keeps u → s0.Keeps (run u a)) :
    s0.Keeps (State.dalRow s port frame run) := by
  unfold State.dalRow
  repeat' first
    | with_reducible intro _
    | with_reducible assumption
    | with_reducible exact State.Keeps.refl _
    | (extract_lets +onlyGivenNames x; clear_value (hx : x = _); first | refine State.Keeps.local (s0 := s0) hx ?_ fun k => ?_ | skip)
    | with_reducible apply State.Keeps.ite
    | with_reducible apply hrun
    | with_reducible apply State.takeRequest_keeps
    | with_reducible apply State.measured_keeps
    | with_reducible apply State.busyAnswer_keeps
    | fail_if_no_progress (with_reducible apply State.Keeps.rest)
    | dsimp only
    | split

theorem State.dalRefuse_keeps {s0 s : State} {port : Nat} {frame : List Byte} {seq : Nat} {code : Nat} (kept : s0.Keeps s) :
    s0.Keeps (State.dalRefuse s port frame seq code) := by
  unfold State.dalRefuse
  repeat' first
    | with_reducible intro _
    | with_reducible assumption
    | with_reducible exact State.Keeps.refl _
    | (extract_lets +onlyGivenNames x; clear_value (hx : x = _); first | refine State.Keeps.local (s0 := s0) hx ?_ fun k => ?_ | skip)
    | with_reducible apply State.Keeps.ite
    | with_reducible apply State.dalSend_keeps
    | fail_if_no_progress (with_reducible apply State.Keeps.rest)
    | dsimp only
    | split

theorem State.dalOpen_keeps {s0 s : State} {port : Nat} {frame : List Byte} {m : DalMsg} (kept : s0.Keeps s) :
    s0.Keeps (State.dalOpen s port frame m) := by
  unfold State.dalOpen
  repeat' first
    | with_reducible intro _
    | with_reducible assumption
    | with_reducible exact State.Keeps.refl _
    | (extract_lets +onlyGivenNames x; clear_value (hx : x = _); first | refine State.Keeps.local (s0 := s0) hx ?_ fun k => ?_ | (have g := State.regs x.2; clear g; subst hx) | skip)
    | with_reducible apply State.Keeps.ite
    | with_reducible apply State.dalRefuse_keeps
    | with_reducible apply State.dalSend_keeps
    | with_reducible apply State.authFailure_keeps
    | with_reducible apply State.withSess_keeps
    | with_reducible apply State.draw_keeps
    | with_reducible apply State.event_keeps
    | with_reducible apply State.bump_keeps
    | fail_if_no_progress (with_reducible apply State.Keeps.rest)
    | dsimp only
    | refine State.Keeps.of_snd ‹_ = (_, _)› ?_
    | split

theorem State.dalChecked_keeps {s0 s : State} {port : Nat} {frame : List Byte} {m : DalMsg} {run : State → State} (kept : s0.Keeps s) (hrun : ∀ u, s0.Keeps u → s0.Keeps (run u)) :
    s0.Keeps (State.dalChecked s port frame m run) := by
  unfold State.dalChecked
  repeat' first
    | with_reducible intro _
    | with_reducible assumption
    | with_reducible exact State.Keeps.refl _
    | (extract_lets +onlyGivenNames x; clear_value (hx : x = _); first | refine State.Keeps.local (s0 := s0) hx ?_ fun k => ?_ | (have g := fun u => State.regs (x u); clear g; subst hx) | (have g := fun u v => State.regs (x u v); clear g; subst hx) | (have g := fun u v w => State.regs (x u v w); clear g; subst hx) | (have g := fun u v w y => State.regs (x u v w y); clear g; subst hx) | skip)
    | with_reducible apply State.Keeps.ite
    | with_reducible apply hrun
    | with_reducible apply State.dalSend_keeps
    | with_reducible apply State.authFailure_keeps
    | with_reducible apply State.bump_keeps
    | fail_if_no_progress (with_reducible apply State.Keeps.rest)
    | dsimp only
    | split

theorem State.dalRequest_keeps {s0 s : State} {port : Nat} {frame : List Byte} {m : DalMsg} {ops : Nat → Bool} (kept : s0.Keeps s) :
    s0.Keeps (State.dalRequest s port frame m ops) := by
  unfold State.dalRequest
  repeat' first
    | with_reducible intro _
    | with_reducible assumption
    | with_reducible exact State.Keeps.refl _
    | (extract_lets +onlyGivenNames x; clear_value (hx : x = _); first | refine State.Keeps.local (s0 := s0) hx ?_ fun k => ?_ | skip)
    | with_reducible apply State.Keeps.ite
    | with_reducible apply State.dalChecked_keeps
    | with_reducible apply State.serve_keeps
    | with_reducible apply State.reply_keeps
    | fail_if_no_progress (with_reducible apply State.Keeps.rest)
    | dsimp only
    | split

theorem State.dalClose_keeps {s0 s : State} {port : Nat} {frame : List Byte} {m : DalMsg} (kept : s0.Keeps s) :
    s0.Keeps (State.dalClose s port frame m) := by
  unfold State.dalClose
  repeat' first
    | with_reducible intro _
    | with_reducible assumption
    | with_reducible exact State.Keeps.refl _
    | (extract_lets +onlyGivenNames x; clear_value (hx : x = _); first | refine State.Keeps.local (s0 := s0) hx ?_ fun k => ?_ | skip)
    | with_reducible apply State.Keeps.ite
    | with_reducible apply State.dalChecked_keeps
    | with_reducible apply State.dalAnswer_keeps
    | with_reducible apply State.endDalmoly_keeps
    | fail_if_no_progress (with_reducible apply State.Keeps.rest)
    | dsimp only
    | split

theorem State.dalIdle_keeps {s0 s : State} {n : Nat} (kept : s0.Keeps s) :
    s0.Keeps (State.dalIdle s n) := by
  unfold State.dalIdle
  repeat' first
    | with_reducible intro _
    | with_reducible assumption
    | with_reducible exact State.Keeps.refl _
    | (extract_lets +onlyGivenNames x; clear_value (hx : x = _); first | refine State.Keeps.local (s0 := s0) hx ?_ fun k => ?_ | skip)
    | with_reducible apply State.Keeps.ite
    | with_reducible apply State.endDalmoly_keeps
    | fail_if_no_progress (with_reducible apply State.Keeps.rest)
    | dsimp only
    | split

theorem State.groupCommand_keeps {s0 s : State} {sess : Nat} {sub : Nat} {via : Option (Nat × List Byte)} (kept : s0.Keeps s) :
    s0.Keeps (State.groupCommand s sess sub via) := by
  unfold State.groupCommand
  repeat' first
    | with_reducible intro _
    | with_reducible assumption
    | with_reducible exact State.Keeps.refl _
    | (extract_lets +onlyGivenNames x; clear_value (hx : x = _); first | refine State.Keeps.local (s0 := s0) hx ?_ fun k => ?_ | skip)
    | with_reducible apply State.Keeps.ite
    | with_reducible apply State.dalRequest_keeps
    | with_reducible apply State.dalRow_keeps
    | with_reducible apply State.serve_keeps
    | with_reducible apply State.write_keeps
    | fail_if_no_progress (with_reducible apply State.Keeps.rest)
    | dsimp only
    | refine State.Keeps.of_snd ‹_ = (_, _)› ?_
    | split

end Sys2Proof.Machine
end

