-- ==== Sys2Proof/Laws/KeepsHostIf.lean ====
section
/-! SUPPORT. What the definitions of Machine/HostIf keep (`State.Keeps`). -/

set_option linter.unusedTactic false
set_option linter.unreachableTactic false

namespace Sys2Proof.Machine

theorem State.badRead_keeps {s0 s : State} {window : Nat} {tag : Nat} {off : Nat} {len : Nat} {reason : Nat} {target : Nat} (kept : s0.Keeps s) :
    s0.Keeps (State.badRead s window tag off len reason target) := by
  unfold State.badRead
  repeat' first
    | with_reducible intro _
    | with_reducible assumption
    | with_reducible exact State.Keeps.refl _
    | (extract_lets +onlyGivenNames x; clear_value (hx : x = _); first | refine State.Keeps.local (s0 := s0) hx ?_ fun k => ?_ | skip)
    | with_reducible apply State.Keeps.ite
    | with_reducible apply State.deferred_keeps
    | with_reducible apply State.emit_keeps
    | fail_if_no_progress (with_reducible apply State.Keeps.rest)
    | dsimp only
    | split

theorem State.bar0Read_keeps {s0 s : State} {off : Nat} {len : Nat} {tag : Nat} {answered : Bool} (kept : s0.Keeps s) :
    s0.Keeps (State.bar0Read s off len tag answered) := by
  unfold State.bar0Read
  repeat' first
    | with_reducible intro _
    | with_reducible assumption
    | with_reducible exact State.Keeps.refl _
    | (extract_lets +onlyGivenNames x; clear_value (hx : x = _); first | refine State.Keeps.local (s0 := s0) hx ?_ fun k => ?_ | skip)
    | with_reducible apply State.Keeps.ite
    | with_reducible apply State.badRead_keeps
    | with_reducible apply State.serve_keeps
    | with_reducible apply State.slotAnswer_keeps
    | with_reducible apply State.measured_keeps
    | with_reducible apply State.discardRead_keeps
    | with_reducible apply State.withHost_keeps
    | with_reducible apply State.emit_keeps
    | fail_if_no_progress (with_reducible apply State.Keeps.rest)
    | dsimp only
    | split

theorem State.acceptPosted_keeps {s0 s : State} (kept : s0.Keeps s) :
    s0.Keeps (State.acceptPosted s).2 := by
  unfold State.acceptPosted
  repeat' first
    | with_reducible intro _
    | with_reducible assumption
    | with_reducible exact State.Keeps.refl _
    | (extract_lets +onlyGivenNames x; clear_value (hx : x = _); first | refine State.Keeps.local (s0 := s0) hx ?_ fun k => ?_ | skip)
    | with_reducible apply State.Keeps.ite
    | with_reducible apply State.dropPrefetches_keeps
    | with_reducible apply State.bump_keeps
    | with_reducible apply State.Keeps.ite_snd
    | fail_if_no_progress (with_reducible apply State.Keeps.rest)
    | dsimp only
    | split

theorem State.bar0Write_keeps {s0 s : State} {off : Nat} {data : List Byte} {poisoned : Bool} (kept : s0.Keeps s) :
    s0.Keeps (State.bar0Write s off data poisoned) := by
  unfold State.bar0Write
  repeat' first
    | with_reducible intro _
    | with_reducible assumption
    | with_reducible exact State.Keeps.refl _
    | (extract_lets +onlyGivenNames x; clear_value (hx : x = _); first | refine State.Keeps.local (s0 := s0) hx ?_ fun k => ?_ | (have g := State.regs x.2; clear g; subst hx) | skip)
    | with_reducible apply State.Keeps.ite
    | with_reducible apply State.acceptPosted_keeps
    | with_reducible apply State.serve_keeps
    | with_reducible apply State.write_keeps
    | with_reducible apply State.measured_keeps
    | with_reducible apply State.deferred_keeps
    | fail_if_no_progress (with_reducible apply State.Keeps.rest)
    | dsimp only
    | refine State.Keeps.of_snd ‹_ = (_, _)› ?_
    | split

theorem State.readTimeout_keeps {s0 s : State} {tag : Nat} {late : Bool} (kept : s0.Keeps s) :
    s0.Keeps (State.readTimeout s tag late) := by
  unfold State.readTimeout
  repeat' first
    | with_reducible intro _
    | with_reducible assumption
    | with_reducible exact State.Keeps.refl _
    | (extract_lets +onlyGivenNames x; clear_value (hx : x = _); first | refine State.Keeps.local (s0 := s0) hx ?_ fun k => ?_ | skip)
    | with_reducible apply State.Keeps.ite
    | with_reducible apply State.discardRead_keeps
    | with_reducible apply State.bump_keeps
    | fail_if_no_progress (with_reducible apply State.Keeps.rest)
    | dsimp only
    | split

theorem State.popRead_keeps {s0 s : State} {off : Nat} {len : Nat} (kept : s0.Keeps s) :
    s0.Keeps (State.popRead s off len).2 := by
  unfold State.popRead
  repeat' first
    | with_reducible intro _
    | with_reducible assumption
    | with_reducible exact State.Keeps.refl _
    | (extract_lets +onlyGivenNames x; clear_value (hx : x = _); first | refine State.Keeps.local (s0 := s0) hx ?_ fun k => ?_ | (have g := State.regs x.2; clear g; subst hx) | skip)
    | with_reducible apply State.Keeps.ite
    | with_reducible apply State.popItems_keeps
    | with_reducible apply State.bump_keeps
    | with_reducible apply State.Keeps.ite_snd
    | fail_if_no_progress (with_reducible apply State.Keeps.rest)
    | dsimp only
    | refine State.Keeps.of_snd ‹_ = (_, _)› ?_
    | split

theorem State.queueRead_keeps {s0 s : State} {off : Nat} {len : Nat} {tag : Nat} (kept : s0.Keeps s) :
    s0.Keeps (State.queueRead s off len tag) := by
  unfold State.queueRead
  repeat' first
    | with_reducible intro _
    | with_reducible assumption
    | with_reducible exact State.Keeps.refl _
    | (extract_lets +onlyGivenNames x; clear_value (hx : x = _); first | refine State.Keeps.local (s0 := s0) hx ?_ fun k => ?_ | skip)
    | with_reducible apply State.Keeps.ite
    | with_reducible apply State.popRead_keeps
    | with_reducible apply State.emit_keeps
    | fail_if_no_progress (with_reducible apply State.Keeps.rest)
    | dsimp only
    | refine State.Keeps.of_snd ‹_ = (_, _)› ?_
    | split

theorem State.fetchAhead_keeps {s0 s : State} {w : Nat} {o : Nat} (kept : s0.Keeps s) :
    s0.Keeps (State.fetchAhead s w o) := by
  unfold State.fetchAhead
  repeat' first
    | with_reducible intro _
    | with_reducible assumption
    | with_reducible exact State.Keeps.refl _
    | (extract_lets +onlyGivenNames x; clear_value (hx : x = _); first | refine State.Keeps.local (s0 := s0) hx ?_ fun k => ?_ | skip)
    | with_reducible apply State.Keeps.ite
    | with_reducible apply State.withHost_keeps
    | fail_if_no_progress (with_reducible apply State.Keeps.rest)
    | dsimp only
    | split

theorem State.tableRead_keeps {s0 s : State} {w : Nat} {o : Nat} {len : Nat} {tag : Nat} (kept : s0.Keeps s) :
    s0.Keeps (State.tableRead s w o len tag) := by
  unfold State.tableRead
  repeat' first
    | with_reducible intro _
    | with_reducible assumption
    | with_reducible exact State.Keeps.refl _
    | (extract_lets +onlyGivenNames x; clear_value (hx : x = _); first | refine State.Keeps.local (s0 := s0) hx ?_ fun k => ?_ | (have g := fun u => State.regs (x u); clear g; subst hx) | (have g := fun u v => State.regs (x u v); clear g; subst hx) | (have g := fun u v w => State.regs (x u v w); clear g; subst hx) | (have g := fun u v w y => State.regs (x u v w y); clear g; subst hx) | skip)
    | with_reducible apply State.Keeps.ite
    | with_reducible apply State.fetchAhead_keeps
    | with_reducible apply State.badRead_keeps
    | with_reducible apply State.serve_keeps
    | with_reducible apply State.windowAnswer_keeps
    | with_reducible apply State.dropPrefetch_keeps
    | with_reducible apply State.emit_keeps
    | with_reducible apply State.foldl_keeps
    | fail_if_no_progress (with_reducible apply State.Keeps.rest)
    | dsimp only
    | split

theorem State.windowAccess_keeps {s0 s : State} {w : Nat} {o : Nat} {write : Bool} {len : Nat} {tag : Nat} {data : List Byte} {poisoned : Bool} (kept : s0.Keeps s) :
    s0.Keeps (State.windowAccess s w o write len tag data poisoned) := by
  unfold State.windowAccess
  repeat' first
    | with_reducible intro _
    | with_reducible assumption
    | with_reducible exact State.Keeps.refl _
    | (extract_lets +onlyGivenNames x; clear_value (hx : x = _); first | refine State.Keeps.local (s0 := s0) hx ?_ fun k => ?_ | (have g := State.regs x.2; clear g; subst hx) | skip)
    | with_reducible apply State.Keeps.ite
    | with_reducible apply State.tableRead_keeps
    | with_reducible apply State.popRead_keeps
    | with_reducible apply State.acceptPosted_keeps
    | with_reducible apply State.badRead_keeps
    | with_reducible apply State.serve_keeps
    | with_reducible apply State.write_keeps
    | with_reducible apply State.measured_keeps
    | with_reducible apply State.deferred_keeps
    | with_reducible apply State.forEach_keeps
    | with_reducible apply State.emit_keeps
    | fail_if_no_progress (with_reducible apply State.Keeps.rest)
    | dsimp only
    | refine State.Keeps.of_snd ‹_ = (_, _)› ?_
    | split

theorem State.agePrefetch_keeps {s0 s : State} {w : Nat} (kept : s0.Keeps s) :
    s0.Keeps (State.agePrefetch s w) := by
  unfold State.agePrefetch
  repeat' first
    | with_reducible intro _
    | with_reducible assumption
    | with_reducible exact State.Keeps.refl _
    | (extract_lets +onlyGivenNames x; clear_value (hx : x = _); first | refine State.Keeps.local (s0 := s0) hx ?_ fun k => ?_ | skip)
    | with_reducible apply State.Keeps.ite
    | with_reducible apply State.dropPrefetch_keeps
    | fail_if_no_progress (with_reducible apply State.Keeps.rest)
    | dsimp only
    | split

theorem State.ringNext_keeps {s0 s : State} {r : Nat} (kept : s0.Keeps s) :
    s0.Keeps (State.ringNext s r) := by
  unfold State.ringNext
  repeat' first
    | with_reducible intro _
    | with_reducible assumption
    | with_reducible exact State.Keeps.refl _
    | (extract_lets +onlyGivenNames x; clear_value (hx : x = _); first | refine State.Keeps.local (s0 := s0) hx ?_ fun k => ?_ | skip)
    | with_reducible apply State.Keeps.ite
    | with_reducible apply State.withHost_keeps
    | fail_if_no_progress (with_reducible apply State.Keeps.rest)
    | dsimp only
    | split

theorem State.hostFrame_keeps {s0 s : State} {r : Nat} {len : Nat} {kind : Nat} {domain : Nat} {data : List Byte} {dmaOk : Bool} (kept : s0.Keeps s) :
    s0.Keeps (State.hostFrame s r len kind domain data dmaOk) := by
  unfold State.hostFrame
  repeat' first
    | with_reducible intro _
    | with_reducible assumption
    | with_reducible exact State.Keeps.refl _
    | (extract_lets +onlyGivenNames x; clear_value (hx : x = _); first | refine State.Keeps.local (s0 := s0) hx ?_ fun k => ?_ | (have g := State.regs x.2; clear g; subst hx) | skip)
    | with_reducible apply State.Keeps.ite
    | with_reducible apply State.ringNext_keeps
    | with_reducible apply State.enterWhole_keeps
    | with_reducible apply State.ringMessage_keeps
    | with_reducible apply State.emit_keeps
    | fail_if_no_progress (with_reducible apply State.Keeps.rest)
    | dsimp only
    | refine State.Keeps.of_snd ‹_ = (_, _)› ?_
    | split

theorem State.partToHost_keeps {s0 s : State} {c : Nat} {addr : Nat} (kept : s0.Keeps s) :
    s0.Keeps (State.partToHost s c addr) := by
  unfold State.partToHost
  repeat' first
    | with_reducible intro _
    | with_reducible assumption
    | with_reducible exact State.Keeps.refl _
    | (extract_lets +onlyGivenNames x; clear_value (hx : x = _); first | refine State.Keeps.local (s0 := s0) hx ?_ fun k => ?_ | (have g := State.regs x.2; clear g; subst hx) | skip)
    | with_reducible apply State.Keeps.ite
    | with_reducible apply State.ringNext_keeps
    | with_reducible apply State.ringMessage_keeps
    | with_reducible apply State.startCheck_keeps
    | with_reducible apply State.popHead_keeps
    | with_reducible apply State.selectQueue_keeps
    | with_reducible apply State.takeKinds_keeps
    | with_reducible apply State.takeWaiting_keeps
    | with_reducible apply State.dropRef_keeps
    | with_reducible apply State.probeEnd_keeps
    | with_reducible apply State.probeOut_keeps
    | with_reducible apply State.emit_keeps
    | fail_if_no_progress (with_reducible apply State.Keeps.rest)
    | dsimp only
    | refine State.Keeps.of_snd ‹_ = (_, _)› ?_
    | split

theorem State.bridgeReset_keeps {s0 s : State} {kind : Nat} (kept : s0.Keeps s) :
    s0.Keeps (State.bridgeReset s kind) := by
  unfold State.bridgeReset
  repeat' first
    | with_reducible intro _
    | with_reducible assumption
    | with_reducible exact State.Keeps.refl _
    | (extract_lets +onlyGivenNames x; clear_value (hx : x = _); first | refine State.Keeps.local (s0 := s0) hx ?_ fun k => ?_ | skip)
    | with_reducible apply State.Keeps.ite
    | with_reducible apply State.endHostSession_keeps
    | with_reducible apply State.clearRings_keeps
    | with_reducible apply State.configDefaults_keeps
    | with_reducible apply State.pcieLink_keeps
    | with_reducible apply State.endReads_keeps
    | with_reducible apply State.sideVector_keeps
    | with_reducible apply State.event_keeps
    | with_reducible apply State.wrF_keeps
    | fail_if_no_progress (with_reducible apply State.Keeps.rest)
    | dsimp only
    | split

end Sys2Proof.Machine
end

