-- ==== Sys2Proof/Laws/KeepsStart.lean ====
section
/-! SUPPORT. What the definitions of Machine/Start keep (`State.Keeps`). -/

set_option linter.unusedTactic false
set_option linter.unreachableTactic false

namespace Sys2Proof.Machine

theorem State.startImage_keeps {s0 s : State} (kept : s0.Keeps s) :
    s0.Keeps (State.startImage s) := by
  unfold State.startImage
  repeat' first
    | with_reducible intro _
    | with_reducible assumption
    | with_reducible exact State.Keeps.refl _
    | (extract_lets +onlyGivenNames x; clear_value (hx : x = _); first | refine State.Keeps.local (s0 := s0) hx ?_ fun k => ?_ | skip)
    | with_reducible apply State.Keeps.ite
    | with_reducible apply State.applyStored_keeps
    | fail_if_no_progress (with_reducible apply State.Keeps.rest)
    | dsimp only
    | split

theorem State.startDomains_keeps {s0 s : State} (kept : s0.Keeps s) :
    s0.Keeps (State.startDomains s) := by
  unfold State.startDomains
  repeat' first
    | with_reducible intro _
    | with_reducible assumption
    | with_reducible exact State.Keeps.refl _
    | (extract_lets +onlyGivenNames x; clear_value (hx : x = _); first | refine State.Keeps.local (s0 := s0) hx ?_ fun k => ?_ | skip)
    | with_reducible apply State.Keeps.ite
    | with_reducible apply State.tellWakes_keeps
    | with_reducible apply State.setDom_keeps
    | with_reducible apply State.modDom_keeps
    | with_reducible apply State.forEach_keeps
    | fail_if_no_progress (with_reducible apply State.Keeps.rest)
    | dsimp only
    | split

theorem State.forwardingPoint_keeps {s0 s : State} (kept : s0.Keeps s) :
    s0.Keeps (State.forwardingPoint s) := by
  unfold State.forwardingPoint
  repeat' first
    | with_reducible intro _
    | with_reducible assumption
    | with_reducible exact State.Keeps.refl _
    | (extract_lets +onlyGivenNames x; clear_value (hx : x = _); first | refine State.Keeps.local (s0 := s0) hx ?_ fun k => ?_ | skip)
    | with_reducible apply State.Keeps.ite
    | with_reducible apply State.startDomains_keeps
    | with_reducible apply State.startImage_keeps
    | with_reducible apply State.measured_keeps
    | with_reducible apply State.freeze_keeps
    | with_reducible apply State.gwEnable_keeps
    | with_reducible apply State.event_keeps
    | with_reducible apply State.wr_keeps
    | fail_if_no_progress (with_reducible apply State.Keeps.rest)
    | dsimp only
    | split

theorem State.startupEnds_keeps {s0 s : State} (kept : s0.Keeps s) :
    s0.Keeps (State.startupEnds s) := by
  unfold State.startupEnds
  repeat' first
    | with_reducible intro _
    | with_reducible assumption
    | with_reducible exact State.Keeps.refl _
    | (extract_lets +onlyGivenNames x; clear_value (hx : x = _); first | refine State.Keeps.local (s0 := s0) hx ?_ fun k => ?_ | skip)
    | with_reducible apply State.Keeps.ite
    | with_reducible apply State.event_keeps
    | with_reducible apply State.wrB_keeps
    | fail_if_no_progress (with_reducible apply State.Keeps.rest)
    | dsimp only
    | split

theorem State.sendNotice_keeps {s0 s : State} {es : List (List Byte)} (kept : s0.Keeps s) :
    s0.Keeps (State.sendNotice s es) := by
  unfold State.sendNotice
  repeat' first
    | with_reducible intro _
    | with_reducible assumption
    | with_reducible exact State.Keeps.refl _
    | (extract_lets +onlyGivenNames x; clear_value (hx : x = _); first | refine State.Keeps.local (s0 := s0) hx ?_ fun k => ?_ | skip)
    | with_reducible apply State.Keeps.ite
    | with_reducible apply State.enterPlain_keeps
    | with_reducible apply State.refuse_keeps
    | with_reducible apply State.withTm_keeps
    | with_reducible apply State.bump_keeps
    | with_reducible apply State.Keeps.id
    | fail_if_no_progress (with_reducible apply State.Keeps.rest)
    | dsimp only
    | refine State.buildFrame_keeps ‹_ = some (_, _)› ?_
    | split

theorem State.sendNotices_keeps {s0 s : State} (kept : s0.Keeps s) :
    s0.Keeps (State.sendNotices s) := by
  unfold State.sendNotices
  repeat' first
    | with_reducible intro _
    | with_reducible assumption
    | with_reducible exact State.Keeps.refl _
    | (extract_lets +onlyGivenNames x; clear_value (hx : x = _); first | refine State.Keeps.local (s0 := s0) hx ?_ fun k => ?_ | skip)
    | with_reducible apply State.Keeps.ite
    | with_reducible apply State.sendNotice_keeps
    | with_reducible apply State.withTm_keeps
    | with_reducible apply State.forEach_keeps
    | fail_if_no_progress (with_reducible apply State.Keeps.rest)
    | dsimp only
    | split

theorem State.settle_keeps {s0 s : State} (kept : s0.Keeps s) :
    s0.Keeps (State.settle s) := by
  unfold State.settle
  repeat' first
    | with_reducible intro _
    | with_reducible assumption
    | with_reducible exact State.Keeps.refl _
    | (extract_lets +onlyGivenNames x; clear_value (hx : x = _); first | refine State.Keeps.local (s0 := s0) hx ?_ fun k => ?_ | skip)
    | with_reducible apply State.Keeps.ite
    | with_reducible apply State.sendNotices_keeps
    | with_reducible apply State.drainItems_keeps
    | with_reducible apply State.flushDue_keeps
    | with_reducible apply State.trafficWakes_keeps
    | with_reducible apply State.clearLatch_keeps
    | with_reducible apply State.handOvers_keeps
    | with_reducible apply State.startOps_keeps
    | with_reducible apply State.takeMode_keeps
    | with_reducible apply State.reinsert_keeps
    | with_reducible apply State.noteLeast_keeps
    | with_reducible apply State.forEach_keeps
    | fail_if_no_progress (with_reducible apply State.Keeps.rest)
    | dsimp only
    | split

theorem State.tellRing_keeps {s0 s : State} {old : Nat} (kept : s0.Keeps s) :
    s0.Keeps (State.tellRing s old) := by
  unfold State.tellRing
  repeat' first
    | with_reducible intro _
    | with_reducible assumption
    | with_reducible exact State.Keeps.refl _
    | (extract_lets +onlyGivenNames x; clear_value (hx : x = _); first | refine State.Keeps.local (s0 := s0) hx ?_ fun k => ?_ | skip)
    | with_reducible apply State.Keeps.ite
    | with_reducible apply State.sideVector_keeps
    | fail_if_no_progress (with_reducible apply State.Keeps.rest)
    | dsimp only
    | split

theorem goAny_keeps {s0 s : State} {dt : Nat} {f : State → State} (kept : s0.Keeps s) (hf : ∀ u, s0.Keeps u → s0.Keeps (f u)) :
    Out.Keeps s0 (goAny dt f s) := by
  unfold goAny
  repeat' first
    | with_reducible intro _
    | with_reducible assumption
    | with_reducible exact State.Keeps.refl _
    | (extract_lets +onlyGivenNames x; clear_value (hx : x = _); first | refine State.Keeps.local (s0 := s0) hx ?_ fun k => ?_ | skip)
    | with_reducible apply State.Keeps.ite
    | with_reducible apply hf
    | with_reducible apply State.tellRing_keeps
    | with_reducible apply State.settle_keeps
    | with_reducible apply State.advance_keeps
    | with_reducible apply Out.Keeps.next
    | with_reducible apply Out.Keeps.refused
    | with_reducible apply Out.Keeps.fault
    | with_reducible apply Out.Keeps.ite
    | fail_if_no_progress (with_reducible apply State.Keeps.rest)
    | dsimp only
    | split

theorem goOn_keeps {s0 s : State} {dt : Nat} {f : State → State} (kept : s0.Keeps s) (hf : ∀ u, s0.Keeps u → s0.Keeps (f u)) :
    Out.Keeps s0 (goOn dt f s) := by
  unfold goOn
  repeat' first
    | with_reducible intro _
    | with_reducible assumption
    | with_reducible exact State.Keeps.refl _
    | (extract_lets +onlyGivenNames x; clear_value (hx : x = _); first | refine State.Keeps.local (s0 := s0) hx ?_ fun k => ?_ | skip)
    | with_reducible apply State.Keeps.ite
    | with_reducible apply hf
    | with_reducible apply goAny_keeps
    | with_reducible apply Out.Keeps.next
    | with_reducible apply Out.Keeps.refused
    | with_reducible apply Out.Keeps.fault
    | with_reducible apply Out.Keeps.ite
    | fail_if_no_progress (with_reducible apply State.Keeps.rest)
    | dsimp only
    | split

theorem goRun_keeps {s0 s : State} {dt : Nat} {f : State → State} (kept : s0.Keeps s) (hf : ∀ u, s0.Keeps u → s0.Keeps (f u)) :
    Out.Keeps s0 (goRun dt f s) := by
  unfold goRun
  repeat' first
    | with_reducible intro _
    | with_reducible assumption
    | with_reducible exact State.Keeps.refl _
    | (extract_lets +onlyGivenNames x; clear_value (hx : x = _); first | refine State.Keeps.local (s0 := s0) hx ?_ fun k => ?_ | skip)
    | with_reducible apply State.Keeps.ite
    | with_reducible apply hf
    | with_reducible apply goAny_keeps
    | with_reducible apply Out.Keeps.next
    | with_reducible apply Out.Keeps.refused
    | with_reducible apply Out.Keeps.fault
    | with_reducible apply Out.Keeps.ite
    | fail_if_no_progress (with_reducible apply State.Keeps.rest)
    | dsimp only
    | split

theorem goPort_keeps {s0 s : State} {dt : Nat} {p : Nat} {f : State → State} (kept : s0.Keeps s) (hf : ∀ u, s0.Keeps u → s0.Keeps (f u)) :
    Out.Keeps s0 (goPort dt p f s) := by
  unfold goPort
  repeat' first
    | with_reducible intro _
    | with_reducible assumption
    | with_reducible exact State.Keeps.refl _
    | (extract_lets +onlyGivenNames x; clear_value (hx : x = _); first | refine State.Keeps.local (s0 := s0) hx ?_ fun k => ?_ | skip)
    | with_reducible apply State.Keeps.ite
    | with_reducible apply hf
    | with_reducible apply goRun_keeps
    | with_reducible apply Out.Keeps.next
    | with_reducible apply Out.Keeps.refused
    | with_reducible apply Out.Keeps.fault
    | with_reducible apply Out.Keeps.ite
    | fail_if_no_progress (with_reducible apply State.Keeps.rest)
    | dsimp only
    | split

theorem State.asks_keeps {s0 s : State} {sess : Nat} {idx : Nat} {sub : Nat} {off : Nat} {bs : List Byte} (kept : s0.Keeps s) :
    s0.Keeps (State.asks s sess idx sub off bs) := by
  unfold State.asks
  repeat' first
    | with_reducible intro _
    | with_reducible assumption
    | with_reducible exact State.Keeps.refl _
    | (extract_lets +onlyGivenNames x; clear_value (hx : x = _); first | refine State.Keeps.local (s0 := s0) hx ?_ fun k => ?_ | skip)
    | with_reducible apply State.Keeps.ite
    | with_reducible apply State.serve_keeps
    | with_reducible apply State.write_keeps
    | fail_if_no_progress (with_reducible apply State.Keeps.rest)
    | dsimp only
    | refine State.Keeps.of_snd ‹_ = (_, _)› ?_
    | split

theorem State.puts_keeps {s0 s : State} {sess : Nat} {idx : Nat} {sub : Nat} {v : Nat} (kept : s0.Keeps s) :
    s0.Keeps (State.puts s sess idx sub v) := by
  unfold State.puts
  repeat' first
    | with_reducible intro _
    | with_reducible assumption
    | with_reducible exact State.Keeps.refl _
    | (extract_lets +onlyGivenNames x; clear_value (hx : x = _); first | refine State.Keeps.local (s0 := s0) hx ?_ fun k => ?_ | skip)
    | with_reducible apply State.Keeps.ite
    | with_reducible apply State.asks_keeps
    | fail_if_no_progress (with_reducible apply State.Keeps.rest)
    | dsimp only
    | split

theorem goWrite_keeps {s0 s : State} {dt : Nat} {sess : Nat} {idx : Nat} {sub : Nat} {v : Nat} (kept : s0.Keeps s) :
    Out.Keeps s0 (goWrite dt sess idx sub v s) := by
  unfold goWrite
  repeat' first
    | with_reducible intro _
    | with_reducible assumption
    | with_reducible exact State.Keeps.refl _
    | (extract_lets +onlyGivenNames x; clear_value (hx : x = _); first | refine State.Keeps.local (s0 := s0) hx ?_ fun k => ?_ | skip)
    | with_reducible apply State.Keeps.ite
    | with_reducible apply State.puts_keeps
    | with_reducible apply goOn_keeps
    | with_reducible apply Out.Keeps.next
    | with_reducible apply Out.Keeps.refused
    | with_reducible apply Out.Keeps.fault
    | with_reducible apply Out.Keeps.ite
    | fail_if_no_progress (with_reducible apply State.Keeps.rest)
    | dsimp only
    | split

end Sys2Proof.Machine
end

