-- ==== Sys2Proof/Laws/KeepsCmdFabric.lean ====
section
/-! SUPPORT. What the definitions of Machine/CmdFabric keep (`State.Keeps`). -/

set_option linter.unusedTactic false
set_option linter.unreachableTactic false

namespace Sys2Proof.Machine

theorem State.asksAll_keeps {s0 s : State} {sess : Nat} {l : List (Nat × Nat × Nat × List Byte)} (h : s0.Keeps s) :
    s0.Keeps (s.asksAll sess l) := by
  induction l generalizing s with
  | nil => exact h
  | cons y r ih =>
    obtain ⟨i, a, o, b⟩ := y
    have k : s0.Keeps (s.asks sess i a o b) := State.asks_keeps h
    cases r with
    | nil => exact k
    | cons z r =>
      rw [State.asksAll]
      · split
        · exact State.Keeps.ite (ih k) k
        · exact k
      · simp

theorem State.putsAll_keeps {s0 s : State} {sess : Nat} {l : List (Nat × Nat × Nat)} (kept : s0.Keeps s) :
    s0.Keeps (State.putsAll s sess l) := by
  unfold State.putsAll
  repeat' first
    | with_reducible intro _
    | with_reducible assumption
    | with_reducible exact State.Keeps.refl _
    | (extract_lets +onlyGivenNames x; clear_value (hx : x = _); first | refine State.Keeps.local (s0 := s0) hx ?_ fun k => ?_ | skip)
    | with_reducible apply State.Keeps.ite
    | with_reducible apply State.asksAll_keeps
    | fail_if_no_progress (with_reducible apply State.Keeps.rest)
    | dsimp only
    | split

theorem execDictionaryWrite_keeps {s0 s : State} {dt : Nat} {sess : Nat} {idx : Nat} {sub : Nat} {off : Nat} {data : List Byte} (kept : s0.Keeps s) :
    Out.Keeps s0 (execDictionaryWrite dt sess idx sub off data s) := by
  unfold execDictionaryWrite
  repeat' first
    | with_reducible intro _
    | with_reducible assumption
    | with_reducible exact State.Keeps.refl _
    | (extract_lets +onlyGivenNames x; clear_value (hx : x = _); first | refine State.Keeps.local (s0 := s0) hx ?_ fun k => ?_ | skip)
    | with_reducible apply State.Keeps.ite
    | with_reducible apply State.asks_keeps
    | with_reducible apply goOn_keeps
    | with_reducible apply Out.Keeps.next
    | with_reducible apply Out.Keeps.refused
    | with_reducible apply Out.Keeps.fault
    | with_reducible apply Out.Keeps.ite
    | fail_if_no_progress (with_reducible apply State.Keeps.rest)
    | dsimp only
    | split

theorem State.headroomLow_keeps {s0 s : State} {n : Nat} {h : Nat} (kept : s0.Keeps s) :
    s0.Keeps (State.headroomLow s n h) := by
  unfold State.headroomLow
  repeat' first
    | with_reducible intro _
    | with_reducible assumption
    | with_reducible exact State.Keeps.refl _
    | (extract_lets +onlyGivenNames x; clear_value (hx : x = _); first | refine State.Keeps.local (s0 := s0) hx ?_ fun k => ?_ | skip)
    | with_reducible apply State.Keeps.ite
    | with_reducible apply State.withCar_keeps
    | with_reducible apply State.event_keeps
    | fail_if_no_progress (with_reducible apply State.Keeps.rest)
    | dsimp only
    | split

theorem State.carriageWindow_keeps {s0 s : State} {meas : List (Nat × Nat × Nat)} {n : Nat} (kept : s0.Keeps s) :
    s0.Keeps (State.carriageWindow s meas n) := by
  unfold State.carriageWindow
  repeat' first
    | with_reducible intro _
    | with_reducible assumption
    | with_reducible exact State.Keeps.refl _
    | (extract_lets +onlyGivenNames x; clear_value (hx : x = _); first | refine State.Keeps.local (s0 := s0) hx ?_ fun k => ?_ | skip)
    | with_reducible apply State.Keeps.ite
    | with_reducible apply State.headroomLow_keeps
    | with_reducible apply State.wr_keeps
    | fail_if_no_progress (with_reducible apply State.Keeps.rest)
    | dsimp only
    | split

theorem State.headroomWindow_keeps {s0 s : State} {meas : List (Nat × Nat × Nat)} (kept : s0.Keeps s) :
    s0.Keeps (State.headroomWindow s meas) := by
  unfold State.headroomWindow
  repeat' first
    | with_reducible intro _
    | with_reducible assumption
    | with_reducible exact State.Keeps.refl _
    | (extract_lets +onlyGivenNames x; clear_value (hx : x = _); first | refine State.Keeps.local (s0 := s0) hx ?_ fun k => ?_ | skip)
    | with_reducible apply State.Keeps.ite
    | with_reducible apply State.carriageWindow_keeps
    | with_reducible apply State.trimStep_keeps
    | with_reducible apply State.sheddingWindow_keeps
    | with_reducible apply State.withCar_keeps
    | with_reducible apply State.forEach_keeps
    | with_reducible apply State.wr_keeps
    | fail_if_no_progress (with_reducible apply State.Keeps.rest)
    | dsimp only
    | split

theorem execHeadroomWindowEnd_keeps {s0 s : State} {dt : Nat} {meas : List (Nat × Nat × Nat)} (kept : s0.Keeps s) :
    Out.Keeps s0 (execHeadroomWindowEnd dt meas s) := by
  unfold execHeadroomWindowEnd
  repeat' first
    | with_reducible intro _
    | with_reducible assumption
    | with_reducible exact State.Keeps.refl _
    | (extract_lets +onlyGivenNames x; clear_value (hx : x = _); first | refine State.Keeps.local (s0 := s0) hx ?_ fun k => ?_ | skip)
    | with_reducible apply State.Keeps.ite
    | with_reducible apply State.headroomWindow_keeps
    | with_reducible apply goRun_keeps
    | with_reducible apply Out.Keeps.next
    | with_reducible apply Out.Keeps.refused
    | with_reducible apply Out.Keeps.fault
    | with_reducible apply Out.Keeps.ite
    | fail_if_no_progress (with_reducible apply State.Keeps.rest)
    | dsimp only
    | split

theorem execResetMinima_keeps {s0 s : State} {dt : Nat} {sess : Nat} (kept : s0.Keeps s) :
    Out.Keeps s0 (execResetMinima dt sess s) := by
  unfold execResetMinima
  repeat' first
    | with_reducible intro _
    | with_reducible assumption
    | with_reducible exact State.Keeps.refl _
    | (extract_lets +onlyGivenNames x; clear_value (hx : x = _); first | refine State.Keeps.local (s0 := s0) hx ?_ fun k => ?_ | skip)
    | with_reducible apply State.Keeps.ite
    | with_reducible apply goWrite_keeps
    | with_reducible apply Out.Keeps.next
    | with_reducible apply Out.Keeps.refused
    | with_reducible apply Out.Keeps.fault
    | with_reducible apply Out.Keeps.ite
    | fail_if_no_progress (with_reducible apply State.Keeps.rest)
    | dsimp only
    | split

theorem execLatencyProbeArm_keeps {s0 s : State} {dt : Nat} {sess : Nat} (kept : s0.Keeps s) :
    Out.Keeps s0 (execLatencyProbeArm dt sess s) := by
  unfold execLatencyProbeArm
  repeat' first
    | with_reducible intro _
    | with_reducible assumption
    | with_reducible exact State.Keeps.refl _
    | (extract_lets +onlyGivenNames x; clear_value (hx : x = _); first | refine State.Keeps.local (s0 := s0) hx ?_ fun k => ?_ | skip)
    | with_reducible apply State.Keeps.ite
    | with_reducible apply goWrite_keeps
    | with_reducible apply Out.Keeps.next
    | with_reducible apply Out.Keeps.refused
    | with_reducible apply Out.Keeps.fault
    | with_reducible apply Out.Keeps.ite
    | fail_if_no_progress (with_reducible apply State.Keeps.rest)
    | dsimp only
    | split

theorem execWholeSecondStart_keeps {s0 s : State} {dt : Nat} (kept : s0.Keeps s) :
    Out.Keeps s0 (execWholeSecondStart dt s) := by
  unfold execWholeSecondStart
  repeat' first
    | with_reducible intro _
    | with_reducible assumption
    | with_reducible exact State.Keeps.refl _
    | (extract_lets +onlyGivenNames x; clear_value (hx : x = _); first | refine State.Keeps.local (s0 := s0) hx ?_ fun k => ?_ | skip)
    | with_reducible apply State.Keeps.ite
    | with_reducible apply goOn_keeps
    | with_reducible apply State.secondStart_keeps
    | with_reducible apply Out.Keeps.next
    | with_reducible apply Out.Keeps.refused
    | with_reducible apply Out.Keeps.fault
    | with_reducible apply Out.Keeps.ite
    | fail_if_no_progress (with_reducible apply State.Keeps.rest)
    | dsimp only
    | split

theorem execCouplingRequest_keeps {s0 s : State} {dt : Nat} {requester : Fin 47} {target : Fin 47} {tag : Byte} {op : CouplingOp} (kept : s0.Keeps s) :
    Out.Keeps s0 (execCouplingRequest dt requester target tag op s) := by
  unfold execCouplingRequest
  repeat' first
    | with_reducible intro _
    | with_reducible assumption
    | with_reducible exact State.Keeps.refl _
    | (extract_lets +onlyGivenNames x; clear_value (hx : x = _); first | refine State.Keeps.local (s0 := s0) hx ?_ fun k => ?_ | skip)
    | with_reducible apply State.Keeps.ite
    | with_reducible apply goOn_keeps
    | with_reducible apply State.request_keeps
    | with_reducible apply Out.Keeps.next
    | with_reducible apply Out.Keeps.refused
    | with_reducible apply Out.Keeps.fault
    | with_reducible apply Out.Keeps.ite
    | fail_if_no_progress (with_reducible apply State.Keeps.rest)
    | dsimp only
    | split

theorem State.sendAck_keeps {s0 s : State} {a : CAck} (kept : s0.Keeps s) :
    s0.Keeps (State.sendAck s a) := by
  unfold State.sendAck
  repeat' first
    | with_reducible intro _
    | with_reducible assumption
    | with_reducible exact State.Keeps.refl _
    | (extract_lets +onlyGivenNames x; clear_value (hx : x = _); first | refine State.Keeps.local (s0 := s0) hx ?_ fun k => ?_ | skip)
    | with_reducible apply State.Keeps.ite
    | with_reducible apply State.deliverAck_keeps
    | with_reducible apply State.withCar_keeps
    | fail_if_no_progress (with_reducible apply State.Keeps.rest)
    | dsimp only
    | split

theorem State.acknowledge_keeps {s0 s : State} {requester : Nat} {responder : Nat} {tag : Nat} {status : Nat} (kept : s0.Keeps s) :
    s0.Keeps (State.acknowledge s requester responder tag status) := by
  unfold State.acknowledge
  repeat' first
    | with_reducible intro _
    | with_reducible assumption
    | with_reducible exact State.Keeps.refl _
    | (extract_lets +onlyGivenNames x; clear_value (hx : x = _); first | refine State.Keeps.local (s0 := s0) hx ?_ fun k => ?_ | skip)
    | with_reducible apply State.Keeps.ite
    | with_reducible apply State.sendAck_keeps
    | with_reducible apply State.withCar_keeps
    | fail_if_no_progress (with_reducible apply State.Keeps.rest)
    | dsimp only
    | split

theorem execCouplingAcknowledge_keeps {s0 s : State} {dt : Nat} {requester : Fin 47} {responder : Fin 47} {tag : Byte} {status : Fin 4} (kept : s0.Keeps s) :
    Out.Keeps s0 (execCouplingAcknowledge dt requester responder tag status s) := by
  unfold execCouplingAcknowledge
  repeat' first
    | with_reducible intro _
    | with_reducible assumption
    | with_reducible exact State.Keeps.refl _
    | (extract_lets +onlyGivenNames x; clear_value (hx : x = _); first | refine State.Keeps.local (s0 := s0) hx ?_ fun k => ?_ | skip)
    | with_reducible apply State.Keeps.ite
    | with_reducible apply State.acknowledge_keeps
    | with_reducible apply goOn_keeps
    | with_reducible apply Out.Keeps.next
    | with_reducible apply Out.Keeps.refused
    | with_reducible apply Out.Keeps.fault
    | with_reducible apply Out.Keeps.ite
    | fail_if_no_progress (with_reducible apply State.Keeps.rest)
    | dsimp only
    | split

theorem goCarriage_keeps {s0 s : State} {dt : Nat} {sess : Nat} {n : Nat} {act : Nat} {unit : Nat} (kept : s0.Keeps s) :
    Out.Keeps s0 (goCarriage dt sess n act unit s) := by
  unfold goCarriage
  repeat' first
    | with_reducible intro _
    | with_reducible assumption
    | with_reducible exact State.Keeps.refl _
    | (extract_lets +onlyGivenNames x; clear_value (hx : x = _); first | refine State.Keeps.local (s0 := s0) hx ?_ fun k => ?_ | skip)
    | with_reducible apply State.Keeps.ite
    | with_reducible apply State.putsAll_keeps
    | with_reducible apply goOn_keeps
    | with_reducible apply Out.Keeps.next
    | with_reducible apply Out.Keeps.refused
    | with_reducible apply Out.Keeps.fault
    | with_reducible apply Out.Keeps.ite
    | fail_if_no_progress (with_reducible apply State.Keeps.rest)
    | dsimp only
    | split

theorem execCarriageReset_keeps {s0 s : State} {dt : Nat} {sess : Nat} {n : Fin 47} (kept : s0.Keeps s) :
    Out.Keeps s0 (execCarriageReset dt sess n s) := by
  unfold execCarriageReset
  repeat' first
    | with_reducible intro _
    | with_reducible assumption
    | with_reducible exact State.Keeps.refl _
    | (extract_lets +onlyGivenNames x; clear_value (hx : x = _); first | refine State.Keeps.local (s0 := s0) hx ?_ fun k => ?_ | skip)
    | with_reducible apply State.Keeps.ite
    | with_reducible apply goCarriage_keeps
    | with_reducible apply Out.Keeps.next
    | with_reducible apply Out.Keeps.refused
    | with_reducible apply Out.Keeps.fault
    | with_reducible apply Out.Keeps.ite
    | fail_if_no_progress (with_reducible apply State.Keeps.rest)
    | dsimp only
    | split

theorem execCarriagePowerDown_keeps {s0 s : State} {dt : Nat} {sess : Nat} {n : Fin 47} (kept : s0.Keeps s) :
    Out.Keeps s0 (execCarriagePowerDown dt sess n s) := by
  unfold execCarriagePowerDown
  repeat' first
    | with_reducible intro _
    | with_reducible assumption
    | with_reducible exact State.Keeps.refl _
    | (extract_lets +onlyGivenNames x; clear_value (hx : x = _); first | refine State.Keeps.local (s0 := s0) hx ?_ fun k => ?_ | skip)
    | with_reducible apply State.Keeps.ite
    | with_reducible apply goCarriage_keeps
    | with_reducible apply Out.Keeps.next
    | with_reducible apply Out.Keeps.refused
    | with_reducible apply Out.Keeps.fault
    | with_reducible apply Out.Keeps.ite
    | fail_if_no_progress (with_reducible apply State.Keeps.rest)
    | dsimp only
    | split

theorem execCarriagePowerUp_keeps {s0 s : State} {dt : Nat} {sess : Nat} {n : Fin 47} (kept : s0.Keeps s) :
    Out.Keeps s0 (execCarriagePowerUp dt sess n s) := by
  unfold execCarriagePowerUp
  repeat' first
    | with_reducible intro _
    | with_reducible assumption
    | with_reducible exact State.Keeps.refl _
    | (extract_lets +onlyGivenNames x; clear_value (hx : x = _); first | refine State.Keeps.local (s0 := s0) hx ?_ fun k => ?_ | skip)
    | with_reducible apply State.Keeps.ite
    | with_reducible apply goCarriage_keeps
    | with_reducible apply Out.Keeps.next
    | with_reducible apply Out.Keeps.refused
    | with_reducible apply Out.Keeps.fault
    | with_reducible apply Out.Keeps.ite
    | fail_if_no_progress (with_reducible apply State.Keeps.rest)
    | dsimp only
    | split

theorem execCarriageSelfTest_keeps {s0 s : State} {dt : Nat} {sess : Nat} {n : Fin 47} (kept : s0.Keeps s) :
    Out.Keeps s0 (execCarriageSelfTest dt sess n s) := by
  unfold execCarriageSelfTest
  repeat' first
    | with_reducible intro _
    | with_reducible assumption
    | with_reducible exact State.Keeps.refl _
    | (extract_lets +onlyGivenNames x; clear_value (hx : x = _); first | refine State.Keeps.local (s0 := s0) hx ?_ fun k => ?_ | skip)
    | with_reducible apply State.Keeps.ite
    | with_reducible apply goCarriage_keeps
    | with_reducible apply Out.Keeps.next
    | with_reducible apply Out.Keeps.refused
    | with_reducible apply Out.Keeps.fault
    | with_reducible apply Out.Keeps.ite
    | fail_if_no_progress (with_reducible apply State.Keeps.rest)
    | dsimp only
    | split

theorem execSwapToSpare_keeps {s0 s : State} {dt : Nat} {sess : Nat} {n : Fin 47} {unit : Fin 16} (kept : s0.Keeps s) :
    Out.Keeps s0 (execSwapToSpare dt sess n unit s) := by
  unfold execSwapToSpare
  repeat' first
    | with_reducible intro _
    | with_reducible assumption
    | with_reducible exact State.Keeps.refl _
    | (extract_lets +onlyGivenNames x; clear_value (hx : x = _); first | refine State.Keeps.local (s0 := s0) hx ?_ fun k => ?_ | skip)
    | with_reducible apply State.Keeps.ite
    | with_reducible apply goCarriage_keeps
    | with_reducible apply Out.Keeps.next
    | with_reducible apply Out.Keeps.refused
    | with_reducible apply Out.Keeps.fault
    | with_reducible apply Out.Keeps.ite
    | fail_if_no_progress (with_reducible apply State.Keeps.rest)
    | dsimp only
    | split

theorem execRetireRouteBank_keeps {s0 s : State} {dt : Nat} {sess : Nat} {n : Fin 47} (kept : s0.Keeps s) :
    Out.Keeps s0 (execRetireRouteBank dt sess n s) := by
  unfold execRetireRouteBank
  repeat' first
    | with_reducible intro _
    | with_reducible assumption
    | with_reducible exact State.Keeps.refl _
    | (extract_lets +onlyGivenNames x; clear_value (hx : x = _); first | refine State.Keeps.local (s0 := s0) hx ?_ fun k => ?_ | skip)
    | with_reducible apply State.Keeps.ite
    | with_reducible apply goCarriage_keeps
    | with_reducible apply Out.Keeps.next
    | with_reducible apply Out.Keeps.refused
    | with_reducible apply Out.Keeps.fault
    | with_reducible apply Out.Keeps.ite
    | fail_if_no_progress (with_reducible apply State.Keeps.rest)
    | dsimp only
    | split

theorem execReturnRouteBank_keeps {s0 s : State} {dt : Nat} {sess : Nat} {n : Fin 47} (kept : s0.Keeps s) :
    Out.Keeps s0 (execReturnRouteBank dt sess n s) := by
  unfold execReturnRouteBank
  repeat' first
    | with_reducible intro _
    | with_reducible assumption
    | with_reducible exact State.Keeps.refl _
    | (extract_lets +onlyGivenNames x; clear_value (hx : x = _); first | refine State.Keeps.local (s0 := s0) hx ?_ fun k => ?_ | skip)
    | with_reducible apply State.Keeps.ite
    | with_reducible apply goCarriage_keeps
    | with_reducible apply Out.Keeps.next
    | with_reducible apply Out.Keeps.refused
    | with_reducible apply Out.Keeps.fault
    | with_reducible apply Out.Keeps.ite
    | fail_if_no_progress (with_reducible apply State.Keeps.rest)
    | dsimp only
    | split

theorem State.inPhase_keeps {s0 s : State} {n : Nat} {ph : SeqPhase} {f : State → CarSeq → State} (kept : s0.Keeps s) (hf : ∀ u a, s0.Keeps u → s0.Keeps (f u a)) :
    s0.Keeps (State.inPhase s n ph f) := by
  unfold State.inPhase
  repeat' first
    | with_reducible intro _
    | with_reducible assumption
    | with_reducible exact State.Keeps.refl _
    | (extract_lets +onlyGivenNames x; clear_value (hx : x = _); first | refine State.Keeps.local (s0 := s0) hx ?_ fun k => ?_ | skip)
    | with_reducible apply State.Keeps.ite
    | with_reducible apply hf
    | fail_if_no_progress (with_reducible apply State.Keeps.rest)
    | dsimp only
    | split

theorem execDrainComplete_keeps {s0 s : State} {dt : Nat} {n : Fin 47} (kept : s0.Keeps s) :
    Out.Keeps s0 (execDrainComplete dt n s) := by
  unfold execDrainComplete
  repeat' first
    | with_reducible intro _
    | with_reducible assumption
    | with_reducible exact State.Keeps.refl _
    | (extract_lets +onlyGivenNames x; clear_value (hx : x = _); first | refine State.Keeps.local (s0 := s0) hx ?_ fun k => ?_ | skip)
    | with_reducible apply State.Keeps.ite
    | with_reducible apply State.inPhase_keeps
    | with_reducible apply goOn_keeps
    | with_reducible apply State.fenceSeq_keeps
    | with_reducible apply Out.Keeps.next
    | with_reducible apply Out.Keeps.refused
    | with_reducible apply Out.Keeps.fault
    | with_reducible apply Out.Keeps.ite
    | fail_if_no_progress (with_reducible apply State.Keeps.rest)
    | dsimp only
    | split

theorem execDrainLimitExpiry_keeps {s0 s : State} {dt : Nat} {n : Fin 47} (kept : s0.Keeps s) :
    Out.Keeps s0 (execDrainLimitExpiry dt n s) := by
  unfold execDrainLimitExpiry
  repeat' first
    | with_reducible intro _
    | with_reducible assumption
    | with_reducible exact State.Keeps.refl _
    | (extract_lets +onlyGivenNames x; clear_value (hx : x = _); first | refine State.Keeps.local (s0 := s0) hx ?_ fun k => ?_ | skip)
    | with_reducible apply State.Keeps.ite
    | with_reducible apply State.inPhase_keeps
    | with_reducible apply goOn_keeps
    | with_reducible apply State.fenceSeq_keeps
    | with_reducible apply Out.Keeps.next
    | with_reducible apply Out.Keeps.refused
    | with_reducible apply Out.Keeps.fault
    | with_reducible apply Out.Keeps.ite
    | fail_if_no_progress (with_reducible apply State.Keeps.rest)
    | dsimp only
    | split

theorem execCarriageActionEnd_keeps {s0 s : State} {dt : Nat} {n : Fin 47} {pass : Bool} {failed : List Nat} (kept : s0.Keeps s) :
    Out.Keeps s0 (execCarriageActionEnd dt n pass failed s) := by
  unfold execCarriageActionEnd
  repeat' first
    | with_reducible intro _
    | with_reducible assumption
    | with_reducible exact State.Keeps.refl _
    | (extract_lets +onlyGivenNames x; clear_value (hx : x = _); first | refine State.Keeps.local (s0 := s0) hx ?_ fun k => ?_ | skip)
    | with_reducible apply State.Keeps.ite
    | with_reducible apply State.inPhase_keeps
    | with_reducible apply goOn_keeps
    | with_reducible apply State.pairPresent_keeps
    | with_reducible apply State.actionEnd_keeps
    | with_reducible apply State.pass_keeps
    | with_reducible apply Out.Keeps.next
    | with_reducible apply Out.Keeps.refused
    | with_reducible apply Out.Keeps.fault
    | with_reducible apply Out.Keeps.ite
    | fail_if_no_progress (with_reducible apply State.Keeps.rest)
    | dsimp only
    | split

theorem execQueuedSequenceStart_keeps {s0 s : State} {dt : Nat} (kept : s0.Keeps s) :
    Out.Keeps s0 (execQueuedSequenceStart dt s) := by
  unfold execQueuedSequenceStart
  repeat' first
    | with_reducible intro _
    | with_reducible assumption
    | with_reducible exact State.Keeps.refl _
    | (extract_lets +onlyGivenNames x; clear_value (hx : x = _); first | refine State.Keeps.local (s0 := s0) hx ?_ fun k => ?_ | skip)
    | with_reducible apply State.Keeps.ite
    | with_reducible apply goOn_keeps
    | with_reducible apply State.startWaiting_keeps
    | with_reducible apply Out.Keeps.next
    | with_reducible apply Out.Keeps.refused
    | with_reducible apply Out.Keeps.fault
    | with_reducible apply Out.Keeps.ite
    | fail_if_no_progress (with_reducible apply State.Keeps.rest)
    | dsimp only
    | split

theorem State.corrected_keeps {s0 s : State} {n : Nat} {u : Nat} (kept : s0.Keeps s) :
    s0.Keeps (State.corrected s n u) := by
  unfold State.corrected
  repeat' first
    | with_reducible intro _
    | with_reducible assumption
    | with_reducible exact State.Keeps.refl _
    | (extract_lets +onlyGivenNames x; clear_value (hx : x = _); first | refine State.Keeps.local (s0 := s0) hx ?_ fun k => ?_ | skip)
    | with_reducible apply State.Keeps.ite
    | with_reducible apply State.swapUnit_keeps
    | with_reducible apply State.withCar_keeps
    | with_reducible apply State.bump_keeps
    | fail_if_no_progress (with_reducible apply State.Keeps.rest)
    | dsimp only
    | split

theorem execCorrectedError_keeps {s0 s : State} {dt : Nat} {n : Fin 47} {unit : Fin 18} (kept : s0.Keeps s) :
    Out.Keeps s0 (execCorrectedError dt n unit s) := by
  unfold execCorrectedError
  repeat' first
    | with_reducible intro _
    | with_reducible assumption
    | with_reducible exact State.Keeps.refl _
    | (extract_lets +onlyGivenNames x; clear_value (hx : x = _); first | refine State.Keeps.local (s0 := s0) hx ?_ fun k => ?_ | skip)
    | with_reducible apply State.Keeps.ite
    | with_reducible apply State.corrected_keeps
    | with_reducible apply goOn_keeps
    | with_reducible apply Out.Keeps.next
    | with_reducible apply Out.Keeps.refused
    | with_reducible apply Out.Keeps.fault
    | with_reducible apply Out.Keeps.ite
    | fail_if_no_progress (with_reducible apply State.Keeps.rest)
    | dsimp only
    | split

theorem State.decayErrors_keeps {s0 s : State} (kept : s0.Keeps s) :
    s0.Keeps (State.decayErrors s) := by
  unfold State.decayErrors
  repeat' first
    | with_reducible intro _
    | with_reducible assumption
    | with_reducible exact State.Keeps.refl _
    | (extract_lets +onlyGivenNames x; clear_value (hx : x = _); first | refine State.Keeps.local (s0 := s0) hx ?_ fun k => ?_ | skip)
    | with_reducible apply State.Keeps.ite
    | with_reducible apply State.withCar_keeps
    | fail_if_no_progress (with_reducible apply State.Keeps.rest)
    | dsimp only
    | split

theorem execErrorCountDecay_keeps {s0 s : State} {dt : Nat} (kept : s0.Keeps s) :
    Out.Keeps s0 (execErrorCountDecay dt s) := by
  unfold execErrorCountDecay
  repeat' first
    | with_reducible intro _
    | with_reducible assumption
    | with_reducible exact State.Keeps.refl _
    | (extract_lets +onlyGivenNames x; clear_value (hx : x = _); first | refine State.Keeps.local (s0 := s0) hx ?_ fun k => ?_ | skip)
    | with_reducible apply State.Keeps.ite
    | with_reducible apply State.decayErrors_keeps
    | with_reducible apply goOn_keeps
    | with_reducible apply Out.Keeps.next
    | with_reducible apply Out.Keeps.refused
    | with_reducible apply Out.Keeps.fault
    | with_reducible apply Out.Keeps.ite
    | fail_if_no_progress (with_reducible apply State.Keeps.rest)
    | dsimp only
    | split

theorem execCellBankCopyEnd_keeps {s0 s : State} {dt : Nat} {n : Fin 47} (kept : s0.Keeps s) :
    Out.Keeps s0 (execCellBankCopyEnd dt n s) := by
  unfold execCellBankCopyEnd
  repeat' first
    | with_reducible intro _
    | with_reducible assumption
    | with_reducible exact State.Keeps.refl _
    | (extract_lets +onlyGivenNames x; clear_value (hx : x = _); first | refine State.Keeps.local (s0 := s0) hx ?_ fun k => ?_ | skip)
    | with_reducible apply State.Keeps.ite
    | with_reducible apply State.inPhase_keeps
    | with_reducible apply goOn_keeps
    | with_reducible apply State.beginDrain_keeps
    | with_reducible apply State.moveCells_keeps
    | with_reducible apply Out.Keeps.next
    | with_reducible apply Out.Keeps.refused
    | with_reducible apply Out.Keeps.fault
    | with_reducible apply Out.Keeps.ite
    | fail_if_no_progress (with_reducible apply State.Keeps.rest)
    | dsimp only
    | split

theorem execEdgeSwapCopyEnd_keeps {s0 s : State} {dt : Nat} {n : Fin 47} {unit : Fin 16} (kept : s0.Keeps s) :
    Out.Keeps s0 (execEdgeSwapCopyEnd dt n unit s) := by
  unfold execEdgeSwapCopyEnd
  repeat' first
    | with_reducible intro _
    | with_reducible assumption
    | with_reducible exact State.Keeps.refl _
    | (extract_lets +onlyGivenNames x; clear_value (hx : x = _); first | refine State.Keeps.local (s0 := s0) hx ?_ fun k => ?_ | skip)
    | with_reducible apply State.Keeps.ite
    | with_reducible apply State.inPhase_keeps
    | with_reducible apply goOn_keeps
    | with_reducible apply State.freshUnit_keeps
    | with_reducible apply State.putSeq_keeps
    | with_reducible apply State.withCar_keeps
    | with_reducible apply Out.Keeps.next
    | with_reducible apply Out.Keeps.refused
    | with_reducible apply Out.Keeps.fault
    | with_reducible apply Out.Keeps.ite
    | fail_if_no_progress (with_reducible apply State.Keeps.rest)
    | dsimp only
    | split

theorem State.spareIntegrated_keeps {s0 s : State} {q : CarSeq} (kept : s0.Keeps s) :
    s0.Keeps (State.spareIntegrated s q) := by
  unfold State.spareIntegrated
  repeat' first
    | with_reducible intro _
    | with_reducible assumption
    | with_reducible exact State.Keeps.refl _
    | (extract_lets +onlyGivenNames x; clear_value (hx : x = _); first | refine State.Keeps.local (s0 := s0) hx ?_ fun k => ?_ | skip)
    | with_reducible apply State.Keeps.ite
    | with_reducible apply State.endSeq_keeps
    | with_reducible apply State.nextOnBus_keeps
    | with_reducible apply State.repairWindow_keeps
    | with_reducible apply State.event_keeps
    | with_reducible apply State.wrB_keeps
    | fail_if_no_progress (with_reducible apply State.Keeps.rest)
    | dsimp only
    | split

theorem execEdgeSwapIntegrated_keeps {s0 s : State} {dt : Nat} {n : Fin 47} {unit : Fin 16} (kept : s0.Keeps s) :
    Out.Keeps s0 (execEdgeSwapIntegrated dt n unit s) := by
  unfold execEdgeSwapIntegrated
  repeat' first
    | with_reducible intro _
    | with_reducible assumption
    | with_reducible exact State.Keeps.refl _
    | (extract_lets +onlyGivenNames x; clear_value (hx : x = _); first | refine State.Keeps.local (s0 := s0) hx ?_ fun k => ?_ | skip)
    | with_reducible apply State.Keeps.ite
    | with_reducible apply State.spareIntegrated_keeps
    | with_reducible apply State.inPhase_keeps
    | with_reducible apply goOn_keeps
    | with_reducible apply Out.Keeps.next
    | with_reducible apply Out.Keeps.refused
    | with_reducible apply Out.Keeps.fault
    | with_reducible apply Out.Keeps.ite
    | fail_if_no_progress (with_reducible apply State.Keeps.rest)
    | dsimp only
    | split

theorem execRetirementShuntEnd_keeps {s0 s : State} {dt : Nat} {n : Fin 47} (kept : s0.Keeps s) :
    Out.Keeps s0 (execRetirementShuntEnd dt n s) := by
  unfold execRetirementShuntEnd
  repeat' first
    | with_reducible intro _
    | with_reducible assumption
    | with_reducible exact State.Keeps.refl _
    | (extract_lets +onlyGivenNames x; clear_value (hx : x = _); first | refine State.Keeps.local (s0 := s0) hx ?_ fun k => ?_ | skip)
    | with_reducible apply State.Keeps.ite
    | with_reducible apply State.inPhase_keeps
    | with_reducible apply goOn_keeps
    | with_reducible apply State.beginDrain_keeps
    | with_reducible apply Out.Keeps.next
    | with_reducible apply Out.Keeps.refused
    | with_reducible apply Out.Keeps.fault
    | with_reducible apply Out.Keeps.ite
    | fail_if_no_progress (with_reducible apply State.Keeps.rest)
    | dsimp only
    | split

theorem execSelfTestSlot_keeps {s0 s : State} {dt : Nat} (kept : s0.Keeps s) :
    Out.Keeps s0 (execSelfTestSlot dt s) := by
  unfold execSelfTestSlot
  repeat' first
    | with_reducible intro _
    | with_reducible assumption
    | with_reducible exact State.Keeps.refl _
    | (extract_lets +onlyGivenNames x; clear_value (hx : x = _); first | refine State.Keeps.local (s0 := s0) hx ?_ fun k => ?_ | skip)
    | with_reducible apply State.Keeps.ite
    | with_reducible apply goOn_keeps
    | with_reducible apply State.testSlot_keeps
    | with_reducible apply Out.Keeps.next
    | with_reducible apply Out.Keeps.refused
    | with_reducible apply Out.Keeps.fault
    | with_reducible apply Out.Keeps.ite
    | fail_if_no_progress (with_reducible apply State.Keeps.rest)
    | dsimp only
    | split

theorem execSelfTestEnd_keeps {s0 s : State} {dt : Nat} {pass : Bool} (kept : s0.Keeps s) :
    Out.Keeps s0 (execSelfTestEnd dt pass s) := by
  unfold execSelfTestEnd
  repeat' first
    | with_reducible intro _
    | with_reducible assumption
    | with_reducible exact State.Keeps.refl _
    | (extract_lets +onlyGivenNames x; clear_value (hx : x = _); first | refine State.Keeps.local (s0 := s0) hx ?_ fun k => ?_ | skip)
    | with_reducible apply State.Keeps.ite
    | with_reducible apply goOn_keeps
    | with_reducible apply State.testDone_keeps
    | with_reducible apply State.pass_keeps
    | with_reducible apply Out.Keeps.next
    | with_reducible apply Out.Keeps.refused
    | with_reducible apply Out.Keeps.fault
    | with_reducible apply Out.Keeps.ite
    | fail_if_no_progress (with_reducible apply State.Keeps.rest)
    | dsimp only
    | split

end Sys2Proof.Machine
end

