-- ==== Sys2Proof/Laws/KeepsCmdFrames.lean ====
section
/-! SUPPORT. What the definitions of Machine/CmdFrames keep (`State.Keeps`). -/

set_option linter.unusedTactic false
set_option linter.unreachableTactic false

namespace Sys2Proof.Machine

theorem State.writeItem_keeps {s0 s : State} {p : Nat} {w : BitVec 36} {errs : ReadErrs} (kept : s0.Keeps s) :
    s0.Keeps (State.writeItem s p w errs) := by
  unfold State.writeItem
  repeat' first
    | with_reducible intro _
    | with_reducible assumption
    | with_reducible exact State.Keeps.refl _
    | (extract_lets +onlyGivenNames x; clear_value (hx : x = _); first | refine State.Keeps.local (s0 := s0) hx ?_ fun k => ?_ | skip)
    | with_reducible apply State.Keeps.ite
    | with_reducible apply State.putItem_keeps
    | with_reducible apply State.meetCell_keeps
    | with_reducible apply State.meetErrs_keeps
    | with_reducible apply State.portCount_keeps
    | with_reducible apply State.Keeps.id
    | fail_if_no_progress (with_reducible apply State.Keeps.rest)
    | dsimp only
    | split

theorem execQueueItemWrite_keeps {s0 s : State} {dt : Nat} {port : Fin 160} {item : BitVec 36} {errs : ReadErrs} (kept : s0.Keeps s) :
    Out.Keeps s0 (execQueueItemWrite dt port item errs s) := by
  unfold execQueueItemWrite
  repeat' first
    | with_reducible intro _
    | with_reducible assumption
    | with_reducible exact State.Keeps.refl _
    | (extract_lets +onlyGivenNames x; clear_value (hx : x = _); first | refine State.Keeps.local (s0 := s0) hx ?_ fun k => ?_ | skip)
    | with_reducible apply State.Keeps.ite
    | with_reducible apply State.writeItem_keeps
    | with_reducible apply goPort_keeps
    | with_reducible apply Out.Keeps.next
    | with_reducible apply Out.Keeps.refused
    | with_reducible apply Out.Keeps.fault
    | with_reducible apply Out.Keeps.ite
    | fail_if_no_progress (with_reducible apply State.Keeps.rest)
    | dsimp only
    | split

theorem State.readQueue_keeps {s0 s : State} {p : Nat} (kept : s0.Keeps s) :
    s0.Keeps (State.readQueue s p) := by
  unfold State.readQueue
  repeat' first
    | with_reducible intro _
    | with_reducible assumption
    | with_reducible exact State.Keeps.refl _
    | (extract_lets +onlyGivenNames x; clear_value (hx : x = _); first | refine State.Keeps.local (s0 := s0) hx ?_ fun k => ?_ | skip)
    | with_reducible apply State.Keeps.ite
    | with_reducible apply State.popItem_keeps
    | with_reducible apply State.emit_keeps
    | fail_if_no_progress (with_reducible apply State.Keeps.rest)
    | dsimp only
    | refine State.Keeps.of_snd ‹_ = (_, _)› ?_
    | split

theorem execQueuePop_keeps {s0 s : State} {dt : Nat} {port : Fin 160} (kept : s0.Keeps s) :
    Out.Keeps s0 (execQueuePop dt port s) := by
  unfold execQueuePop
  repeat' first
    | with_reducible intro _
    | with_reducible assumption
    | with_reducible exact State.Keeps.refl _
    | (extract_lets +onlyGivenNames x; clear_value (hx : x = _); first | refine State.Keeps.local (s0 := s0) hx ?_ fun k => ?_ | skip)
    | with_reducible apply State.Keeps.ite
    | with_reducible apply State.readQueue_keeps
    | with_reducible apply goPort_keeps
    | with_reducible apply Out.Keeps.next
    | with_reducible apply Out.Keeps.refused
    | with_reducible apply Out.Keeps.fault
    | with_reducible apply Out.Keeps.ite
    | fail_if_no_progress (with_reducible apply State.Keeps.rest)
    | dsimp only
    | split

theorem State.endFrame_keeps {s0 s : State} {p : Nat} {id : Nat} {node : Nat} {tail : List Byte} {pcs : Bool} {errs : ReadErrs} (kept : s0.Keeps s) :
    s0.Keeps (State.endFrame s p id node tail pcs errs) := by
  unfold State.endFrame
  repeat' first
    | with_reducible intro _
    | with_reducible assumption
    | with_reducible exact State.Keeps.refl _
    | (extract_lets +onlyGivenNames x; clear_value (hx : x = _); first | refine State.Keeps.local (s0 := s0) hx ?_ fun k => ?_ | skip)
    | with_reducible apply State.Keeps.ite
    | with_reducible apply State.endEth_keeps
    | with_reducible apply State.meetCell_keeps
    | with_reducible apply State.storeBytes_keeps
    | with_reducible apply State.modIngress_keeps
    | with_reducible apply State.modFrame_keeps
    | with_reducible apply State.Keeps.id
    | fail_if_no_progress (with_reducible apply State.Keeps.rest)
    | dsimp only
    | split

theorem State.frameEnd_keeps {s0 s : State} {p : Nat} {tail : List Byte} {dom : Nat} {cls : Nat} {ago : Nat} {node : Nat} {pcs : Bool} {errs : ReadErrs} (kept : s0.Keeps s) :
    s0.Keeps (State.frameEnd s p tail dom cls ago node pcs errs) := by
  unfold State.frameEnd
  repeat' first
    | with_reducible intro _
    | with_reducible assumption
    | with_reducible exact State.Keeps.refl _
    | (extract_lets +onlyGivenNames x; clear_value (hx : x = _); first | refine State.Keeps.local (s0 := s0) hx ?_ fun k => ?_ | skip)
    | with_reducible apply State.Keeps.ite
    | with_reducible apply State.endFrame_keeps
    | with_reducible apply State.meetErrs_keeps
    | with_reducible apply State.startFrame_keeps
    | with_reducible apply State.countOverflow_keeps
    | with_reducible apply State.modIngress_keeps
    | with_reducible apply State.portCount_keeps
    | with_reducible apply State.Keeps.id
    | fail_if_no_progress (with_reducible apply State.Keeps.rest)
    | dsimp only
    | split

theorem execEthernetFrameEnd_keeps {s0 s : State} {dt : Nat} {port : Fin 44} {tail : List Byte} {domain : Fin 64} {cls : Fin 8} {ago : Nat} {node : Byte} {pcsError : Bool} {errs : ReadErrs} (kept : s0.Keeps s) :
    Out.Keeps s0 (execEthernetFrameEnd dt port tail domain cls ago node pcsError errs s) := by
  unfold execEthernetFrameEnd
  repeat' first
    | with_reducible intro _
    | with_reducible assumption
    | with_reducible exact State.Keeps.refl _
    | (extract_lets +onlyGivenNames x; clear_value (hx : x = _); first | refine State.Keeps.local (s0 := s0) hx ?_ fun k => ?_ | skip)
    | with_reducible apply State.Keeps.ite
    | with_reducible apply State.frameEnd_keeps
    | with_reducible apply goRun_keeps
    | with_reducible apply Out.Keeps.next
    | with_reducible apply Out.Keeps.refused
    | with_reducible apply Out.Keeps.fault
    | with_reducible apply Out.Keeps.ite
    | fail_if_no_progress (with_reducible apply State.Keeps.rest)
    | dsimp only
    | split

theorem execCutThroughRelease_keeps {s0 s : State} {dt : Nat} {port : Fin 160} {errs : ReadErrs} (kept : s0.Keeps s) :
    Out.Keeps s0 (execCutThroughRelease dt port errs s) := by
  unfold execCutThroughRelease
  repeat' first
    | with_reducible intro _
    | with_reducible assumption
    | with_reducible exact State.Keeps.refl _
    | (extract_lets +onlyGivenNames x; clear_value (hx : x = _); first | refine State.Keeps.local (s0 := s0) hx ?_ fun k => ?_ | skip)
    | with_reducible apply State.Keeps.ite
    | with_reducible apply goPort_keeps
    | with_reducible apply State.releaseEarly_keeps
    | with_reducible apply State.meetErrs_keeps
    | with_reducible apply Out.Keeps.next
    | with_reducible apply Out.Keeps.refused
    | with_reducible apply Out.Keeps.fault
    | with_reducible apply Out.Keeps.ite
    | fail_if_no_progress (with_reducible apply State.Keeps.rest)
    | dsimp only
    | split

theorem execQueueFlush_keeps {s0 s : State} {dt : Nat} {sess : Nat} {port : Nat} {delivery : Bool} (kept : s0.Keeps s) :
    Out.Keeps s0 (execQueueFlush dt sess port delivery s) := by
  unfold execQueueFlush
  repeat' first
    | with_reducible intro _
    | with_reducible assumption
    | with_reducible exact State.Keeps.refl _
    | (extract_lets +onlyGivenNames x; clear_value (hx : x = _); first | refine State.Keeps.local (s0 := s0) hx ?_ fun k => ?_ | skip)
    | with_reducible apply State.Keeps.ite
    | with_reducible apply State.putsAll_keeps
    | with_reducible apply goOn_keeps
    | with_reducible apply Out.Keeps.next
    | with_reducible apply Out.Keeps.refused
    | with_reducible apply Out.Keeps.fault
    | with_reducible apply Out.Keeps.ite
    | fail_if_no_progress (with_reducible apply State.Keeps.rest)
    | dsimp only
    | split

theorem execFlushDeferredEffect_keeps {s0 s : State} {dt : Nat} (kept : s0.Keeps s) :
    Out.Keeps s0 (execFlushDeferredEffect dt s) := by
  unfold execFlushDeferredEffect
  repeat' first
    | with_reducible intro _
    | with_reducible assumption
    | with_reducible exact State.Keeps.refl _
    | (extract_lets +onlyGivenNames x; clear_value (hx : x = _); first | refine State.Keeps.local (s0 := s0) hx ?_ fun k => ?_ | skip)
    | with_reducible apply State.Keeps.ite
    | with_reducible apply goOn_keeps
    | with_reducible apply State.flushDue_keeps
    | with_reducible apply Out.Keeps.next
    | with_reducible apply Out.Keeps.refused
    | with_reducible apply Out.Keeps.fault
    | with_reducible apply Out.Keeps.ite
    | fail_if_no_progress (with_reducible apply State.Keeps.rest)
    | dsimp only
    | split

theorem execAgeSweep_keeps {s0 s : State} {dt : Nat} {group : Fin 2} (kept : s0.Keeps s) :
    Out.Keeps s0 (execAgeSweep dt group s) := by
  unfold execAgeSweep
  repeat' first
    | with_reducible intro _
    | with_reducible assumption
    | with_reducible exact State.Keeps.refl _
    | (extract_lets +onlyGivenNames x; clear_value (hx : x = _); first | refine State.Keeps.local (s0 := s0) hx ?_ fun k => ?_ | skip)
    | with_reducible apply State.Keeps.ite
    | with_reducible apply goRun_keeps
    | with_reducible apply State.sweep_keeps
    | with_reducible apply Out.Keeps.next
    | with_reducible apply Out.Keeps.refused
    | with_reducible apply Out.Keeps.fault
    | with_reducible apply Out.Keeps.ite
    | fail_if_no_progress (with_reducible apply State.Keeps.rest)
    | dsimp only
    | split

theorem execWaitingCopyTaken_keeps {s0 s : State} {dt : Nat} {port : Fin 160} (kept : s0.Keeps s) :
    Out.Keeps s0 (execWaitingCopyTaken dt port s) := by
  unfold execWaitingCopyTaken
  repeat' first
    | with_reducible intro _
    | with_reducible assumption
    | with_reducible exact State.Keeps.refl _
    | (extract_lets +onlyGivenNames x; clear_value (hx : x = _); first | refine State.Keeps.local (s0 := s0) hx ?_ fun k => ?_ | skip)
    | with_reducible apply State.Keeps.ite
    | with_reducible apply goPort_keeps
    | with_reducible apply State.takeWaiting_keeps
    | with_reducible apply Out.Keeps.next
    | with_reducible apply Out.Keeps.refused
    | with_reducible apply Out.Keeps.fault
    | with_reducible apply Out.Keeps.ite
    | fail_if_no_progress (with_reducible apply State.Keeps.rest)
    | dsimp only
    | split

theorem execResetLeastFree_keeps {s0 s : State} {dt : Nat} {sess : Nat} (kept : s0.Keeps s) :
    Out.Keeps s0 (execResetLeastFree dt sess s) := by
  unfold execResetLeastFree
  repeat' first
    | with_reducible intro _
    | with_reducible assumption
    | with_reducible exact State.Keeps.refl _
    | (extract_lets +onlyGivenNames x; clear_value (hx : x = _); first | refine State.Keeps.local (s0 := s0) hx ?_ fun k => ?_ | skip)
    | with_reducible apply State.Keeps.ite
    | with_reducible apply goWrite_keeps
    | with_reducible apply Out.Keeps.next
    | with_reducible apply Out.Keeps.refused
    | with_reducible apply Out.Keeps.fault
    | with_reducible apply Out.Keeps.ite
    | fail_if_no_progress (with_reducible apply State.Keeps.rest)
    | dsimp only
    | split

theorem goEntry_keeps {s0 s : State} {dt : Nat} {sess : Nat} {op : Nat} {place : Nat} {entry : BitVec 142} {errs : ReadErrs} (kept : s0.Keeps s) :
    Out.Keeps s0 (goEntry dt sess op place entry errs s) := by
  unfold goEntry
  repeat' first
    | with_reducible intro _
    | with_reducible assumption
    | with_reducible exact State.Keeps.refl _
    | (extract_lets +onlyGivenNames x; clear_value (hx : x = _); first | refine State.Keeps.local (s0 := s0) hx ?_ fun k => ?_ | skip)
    | with_reducible apply State.Keeps.ite
    | with_reducible apply State.putsAll_keeps
    | with_reducible apply goOn_keeps
    | with_reducible apply State.meetErrs_keeps
    | with_reducible apply Out.Keeps.next
    | with_reducible apply Out.Keeps.refused
    | with_reducible apply Out.Keeps.fault
    | with_reducible apply Out.Keeps.ite
    | fail_if_no_progress (with_reducible apply State.Keeps.rest)
    | dsimp only
    | split

theorem execEntryReadByKey_keeps {s0 s : State} {dt : Nat} {sess : Nat} {entry : BitVec 142} {errs : ReadErrs} (kept : s0.Keeps s) :
    Out.Keeps s0 (execEntryReadByKey dt sess entry errs s) := by
  unfold execEntryReadByKey
  repeat' first
    | with_reducible intro _
    | with_reducible assumption
    | with_reducible exact State.Keeps.refl _
    | (extract_lets +onlyGivenNames x; clear_value (hx : x = _); first | refine State.Keeps.local (s0 := s0) hx ?_ fun k => ?_ | skip)
    | with_reducible apply State.Keeps.ite
    | with_reducible apply goEntry_keeps
    | with_reducible apply Out.Keeps.next
    | with_reducible apply Out.Keeps.refused
    | with_reducible apply Out.Keeps.fault
    | with_reducible apply Out.Keeps.ite
    | fail_if_no_progress (with_reducible apply State.Keeps.rest)
    | dsimp only
    | split

theorem execEntryInsert_keeps {s0 s : State} {dt : Nat} {sess : Nat} {entry : BitVec 142} {errs : ReadErrs} (kept : s0.Keeps s) :
    Out.Keeps s0 (execEntryInsert dt sess entry errs s) := by
  unfold execEntryInsert
  repeat' first
    | with_reducible intro _
    | with_reducible assumption
    | with_reducible exact State.Keeps.refl _
    | (extract_lets +onlyGivenNames x; clear_value (hx : x = _); first | refine State.Keeps.local (s0 := s0) hx ?_ fun k => ?_ | skip)
    | with_reducible apply State.Keeps.ite
    | with_reducible apply goEntry_keeps
    | with_reducible apply Out.Keeps.next
    | with_reducible apply Out.Keeps.refused
    | with_reducible apply Out.Keeps.fault
    | with_reducible apply Out.Keeps.ite
    | fail_if_no_progress (with_reducible apply State.Keeps.rest)
    | dsimp only
    | split

theorem execEntryDelete_keeps {s0 s : State} {dt : Nat} {sess : Nat} {entry : BitVec 142} {errs : ReadErrs} (kept : s0.Keeps s) :
    Out.Keeps s0 (execEntryDelete dt sess entry errs s) := by
  unfold execEntryDelete
  repeat' first
    | with_reducible intro _
    | with_reducible assumption
    | with_reducible exact State.Keeps.refl _
    | (extract_lets +onlyGivenNames x; clear_value (hx : x = _); first | refine State.Keeps.local (s0 := s0) hx ?_ fun k => ?_ | skip)
    | with_reducible apply State.Keeps.ite
    | with_reducible apply goEntry_keeps
    | with_reducible apply Out.Keeps.next
    | with_reducible apply Out.Keeps.refused
    | with_reducible apply Out.Keeps.fault
    | with_reducible apply Out.Keeps.ite
    | fail_if_no_progress (with_reducible apply State.Keeps.rest)
    | dsimp only
    | split

theorem execEntryReadBySlot_keeps {s0 s : State} {dt : Nat} {sess : Nat} {bank : Fin 8} {bucket : Fin 8192} {way : Fin 4} {errs : ReadErrs} (kept : s0.Keeps s) :
    Out.Keeps s0 (execEntryReadBySlot dt sess bank bucket way errs s) := by
  unfold execEntryReadBySlot
  repeat' first
    | with_reducible intro _
    | with_reducible assumption
    | with_reducible exact State.Keeps.refl _
    | (extract_lets +onlyGivenNames x; clear_value (hx : x = _); first | refine State.Keeps.local (s0 := s0) hx ?_ fun k => ?_ | skip)
    | with_reducible apply State.Keeps.ite
    | with_reducible apply State.putsAll_keeps
    | with_reducible apply goOn_keeps
    | with_reducible apply State.meetErrs_keeps
    | with_reducible apply Out.Keeps.next
    | with_reducible apply Out.Keeps.refused
    | with_reducible apply Out.Keeps.fault
    | with_reducible apply Out.Keeps.ite
    | fail_if_no_progress (with_reducible apply State.Keeps.rest)
    | dsimp only
    | split

theorem execShuntMove_keeps {s0 s : State} {dt : Nat} (kept : s0.Keeps s) :
    Out.Keeps s0 (execShuntMove dt s) := by
  unfold execShuntMove
  repeat' first
    | with_reducible intro _
    | with_reducible assumption
    | with_reducible exact State.Keeps.refl _
    | (extract_lets +onlyGivenNames x; clear_value (hx : x = _); first | refine State.Keeps.local (s0 := s0) hx ?_ fun k => ?_ | skip)
    | with_reducible apply State.Keeps.ite
    | with_reducible apply goRun_keeps
    | with_reducible apply State.shuntStep_keeps
    | with_reducible apply Out.Keeps.next
    | with_reducible apply Out.Keeps.refused
    | with_reducible apply Out.Keeps.fault
    | with_reducible apply Out.Keeps.ite
    | fail_if_no_progress (with_reducible apply State.Keeps.rest)
    | dsimp only
    | split

theorem execLearningRequest_keeps {s0 s : State} {dt : Nat} {group : Fin 2} {errs : ReadErrs} (kept : s0.Keeps s) :
    Out.Keeps s0 (execLearningRequest dt group errs s) := by
  unfold execLearningRequest
  repeat' first
    | with_reducible intro _
    | with_reducible assumption
    | with_reducible exact State.Keeps.refl _
    | (extract_lets +onlyGivenNames x; clear_value (hx : x = _); first | refine State.Keeps.local (s0 := s0) hx ?_ fun k => ?_ | skip)
    | with_reducible apply State.Keeps.ite
    | with_reducible apply goRun_keeps
    | with_reducible apply State.meetErrs_keeps
    | with_reducible apply State.takeLearn_keeps
    | with_reducible apply Out.Keeps.next
    | with_reducible apply Out.Keeps.refused
    | with_reducible apply Out.Keeps.fault
    | with_reducible apply Out.Keeps.ite
    | fail_if_no_progress (with_reducible apply State.Keeps.rest)
    | dsimp only
    | split

theorem execClearLog_keeps {s0 s : State} {dt : Nat} {sess : Nat} {port : Fin 44} (kept : s0.Keeps s) :
    Out.Keeps s0 (execClearLog dt sess port s) := by
  unfold execClearLog
  repeat' first
    | with_reducible intro _
    | with_reducible assumption
    | with_reducible exact State.Keeps.refl _
    | (extract_lets +onlyGivenNames x; clear_value (hx : x = _); first | refine State.Keeps.local (s0 := s0) hx ?_ fun k => ?_ | skip)
    | with_reducible apply State.Keeps.ite
    | with_reducible apply goWrite_keeps
    | with_reducible apply Out.Keeps.next
    | with_reducible apply Out.Keeps.refused
    | with_reducible apply Out.Keeps.fault
    | with_reducible apply Out.Keeps.ite
    | fail_if_no_progress (with_reducible apply State.Keeps.rest)
    | dsimp only
    | split

theorem execAgeingScanVisit_keeps {s0 s : State} {dt : Nat} {bank : Fin 8} {bucket : Fin 8192} {way : Fin 4} {typ : Fin 5} {errs : ReadErrs} (kept : s0.Keeps s) :
    Out.Keeps s0 (execAgeingScanVisit dt bank bucket way typ errs s) := by
  unfold execAgeingScanVisit
  repeat' first
    | with_reducible intro _
    | with_reducible assumption
    | with_reducible exact State.Keeps.refl _
    | (extract_lets +onlyGivenNames x; clear_value (hx : x = _); first | refine State.Keeps.local (s0 := s0) hx ?_ fun k => ?_ | skip)
    | with_reducible apply State.Keeps.ite
    | with_reducible apply goRun_keeps
    | with_reducible apply State.meetErrs_keeps
    | with_reducible apply State.scanVisit_keeps
    | with_reducible apply Out.Keeps.next
    | with_reducible apply Out.Keeps.refused
    | with_reducible apply Out.Keeps.fault
    | with_reducible apply Out.Keeps.ite
    | fail_if_no_progress (with_reducible apply State.Keeps.rest)
    | dsimp only
    | split

end Sys2Proof.Machine
end

