-- ==== Sys2Proof/Laws/KeepsCmdPorts.lean ====
section
/-! SUPPORT. What the definitions of Machine/CmdPorts keep (`State.Keeps`). -/

set_option linter.unusedTactic false
set_option linter.unreachableTactic false

namespace Sys2Proof.Machine

theorem execPortModeWrite_keeps {s0 s : State} {dt : Nat} {sess : Nat} {port : Fin 44} {value : BitVec 32} (kept : s0.Keeps s) :
    Out.Keeps s0 (execPortModeWrite dt sess port value s) := by
  unfold execPortModeWrite
  repeat' first
    | with_reducible intro _
    | with_reducible assumption
    | with_reducible exact State.Keeps.refl _
    | (extract_lets +onlyGivenNames x; clear_value (hx : x = _); first | refine State.Keeps.local (s0 := s0) hx ?_ fun k => ?_ | skip)
    | with_reducible apply State.Keeps.ite
    | with_reducible apply goWrite_keeps
    | with_reducible apply Out.Keeps.next
    | with_reducible apply Out.Keeps.refused
    | with_reducible apply Out.Keeps.fault
    | with_reducible apply Out.Keeps.ite
    | fail_if_no_progress (with_reducible apply State.Keeps.rest)
    | dsimp only
    | split

theorem State.linksUp_keeps {s0 s : State} {p : Nat} (kept : s0.Keeps s) :
    s0.Keeps (State.linksUp s p) := by
  unfold State.linksUp
  repeat' first
    | with_reducible intro _
    | with_reducible assumption
    | with_reducible exact State.Keeps.refl _
    | (extract_lets +onlyGivenNames x; clear_value (hx : x = _); first | refine State.Keeps.local (s0 := s0) hx ?_ fun k => ?_ | skip)
    | with_reducible apply State.Keeps.ite
    | with_reducible apply State.verifyStart_keeps
    | with_reducible apply State.raiseLink_keeps
    | fail_if_no_progress (with_reducible apply State.Keeps.rest)
    | dsimp only
    | split

theorem execLinkUp_keeps {s0 s : State} {dt : Nat} {port : Fin 44} (kept : s0.Keeps s) :
    Out.Keeps s0 (execLinkUp dt port s) := by
  unfold execLinkUp
  repeat' first
    | with_reducible intro _
    | with_reducible assumption
    | with_reducible exact State.Keeps.refl _
    | (extract_lets +onlyGivenNames x; clear_value (hx : x = _); first | refine State.Keeps.local (s0 := s0) hx ?_ fun k => ?_ | skip)
    | with_reducible apply State.Keeps.ite
    | with_reducible apply State.linksUp_keeps
    | with_reducible apply goRun_keeps
    | with_reducible apply Out.Keeps.next
    | with_reducible apply Out.Keeps.refused
    | with_reducible apply Out.Keeps.fault
    | with_reducible apply Out.Keeps.ite
    | fail_if_no_progress (with_reducible apply State.Keeps.rest)
    | dsimp only
    | split

theorem execLinkDown_keeps {s0 s : State} {dt : Nat} {port : Fin 44} (kept : s0.Keeps s) :
    Out.Keeps s0 (execLinkDown dt port s) := by
  unfold execLinkDown
  repeat' first
    | with_reducible intro _
    | with_reducible assumption
    | with_reducible exact State.Keeps.refl _
    | (extract_lets +onlyGivenNames x; clear_value (hx : x = _); first | refine State.Keeps.local (s0 := s0) hx ?_ fun k => ?_ | skip)
    | with_reducible apply State.Keeps.ite
    | with_reducible apply goRun_keeps
    | with_reducible apply State.dropLink_keeps
    | with_reducible apply Out.Keeps.next
    | with_reducible apply Out.Keeps.refused
    | with_reducible apply Out.Keeps.fault
    | with_reducible apply Out.Keeps.ite
    | fail_if_no_progress (with_reducible apply State.Keeps.rest)
    | dsimp only
    | split

theorem execThresholdWrite_keeps {s0 s : State} {dt : Nat} {sess : Nat} {port : Fin 44} {value : BitVec 32} (kept : s0.Keeps s) :
    Out.Keeps s0 (execThresholdWrite dt sess port value s) := by
  unfold execThresholdWrite
  repeat' first
    | with_reducible intro _
    | with_reducible assumption
    | with_reducible exact State.Keeps.refl _
    | (extract_lets +onlyGivenNames x; clear_value (hx : x = _); first | refine State.Keeps.local (s0 := s0) hx ?_ fun k => ?_ | skip)
    | with_reducible apply State.Keeps.ite
    | with_reducible apply goWrite_keeps
    | with_reducible apply Out.Keeps.next
    | with_reducible apply Out.Keeps.refused
    | with_reducible apply Out.Keeps.fault
    | with_reducible apply Out.Keeps.ite
    | fail_if_no_progress (with_reducible apply State.Keeps.rest)
    | dsimp only
    | split

theorem State.meetHead_keeps {s0 s : State} {p : Nat} {n : Nat} {errs : ReadErrs} (kept : s0.Keeps s) :
    s0.Keeps (State.meetHead s p n errs) := by
  unfold State.meetHead
  repeat' first
    | with_reducible intro _
    | with_reducible assumption
    | with_reducible exact State.Keeps.refl _
    | (extract_lets +onlyGivenNames x; clear_value (hx : x = _); first | refine State.Keeps.local (s0 := s0) hx ?_ fun k => ?_ | skip)
    | with_reducible apply State.Keeps.ite
    | with_reducible apply State.meetCell_keeps
    | fail_if_no_progress (with_reducible apply State.Keeps.rest)
    | dsimp only
    | split

theorem State.selectEth_keeps {s0 s : State} {p : Nat} {errs : ReadErrs} (kept : s0.Keeps s) :
    s0.Keeps (State.selectEth s p errs) := by
  unfold State.selectEth
  repeat' first
    | with_reducible intro _
    | with_reducible assumption
    | with_reducible exact State.Keeps.refl _
    | (extract_lets +onlyGivenNames x; clear_value (hx : x = _); first | refine State.Keeps.local (s0 := s0) hx ?_ fun k => ?_ | (have g := State.regs x.2; clear g; subst hx) | skip)
    | with_reducible apply State.Keeps.ite
    | with_reducible apply State.meetHead_keeps
    | with_reducible apply State.preempt_keeps
    | with_reducible apply State.resumeTx_keeps
    | with_reducible apply State.startTx_keeps
    | with_reducible apply State.selectQueue_keeps
    | with_reducible apply State.selectAmong_keeps
    | with_reducible apply State.takeKinds_keeps
    | with_reducible apply State.modPdyn_keeps
    | fail_if_no_progress (with_reducible apply State.Keeps.rest)
    | dsimp only
    | refine State.Keeps.of_snd ‹_ = (_, _)› ?_
    | refine State.Keeps.of_fst ‹_ = (_, _)› ?_
    | split

theorem State.selectDelivery_keeps {s0 s : State} {p : Nat} {errs : ReadErrs} (kept : s0.Keeps s) :
    s0.Keeps (State.selectDelivery s p errs) := by
  unfold State.selectDelivery
  repeat' first
    | with_reducible intro _
    | with_reducible assumption
    | with_reducible exact State.Keeps.refl _
    | (extract_lets +onlyGivenNames x; clear_value (hx : x = _); first | refine State.Keeps.local (s0 := s0) hx ?_ fun k => ?_ | skip)
    | with_reducible apply State.Keeps.ite
    | with_reducible apply State.meetHead_keeps
    | with_reducible apply State.deliver_keeps
    | with_reducible apply State.selectQueue_keeps
    | fail_if_no_progress (with_reducible apply State.Keeps.rest)
    | dsimp only
    | refine State.Keeps.of_snd ‹_ = (_, _)› ?_
    | split

theorem State.selectPort_keeps {s0 s : State} {p : Nat} {errs : ReadErrs} (kept : s0.Keeps s) :
    s0.Keeps (State.selectPort s p errs) := by
  unfold State.selectPort
  repeat' first
    | with_reducible intro _
    | with_reducible assumption
    | with_reducible exact State.Keeps.refl _
    | (extract_lets +onlyGivenNames x; clear_value (hx : x = _); first | refine State.Keeps.local (s0 := s0) hx ?_ fun k => ?_ | skip)
    | with_reducible apply State.Keeps.ite
    | with_reducible apply State.selectDelivery_keeps
    | with_reducible apply State.selectEth_keeps
    | with_reducible apply State.meetErrs_keeps
    | with_reducible apply State.gwSelect_keeps
    | with_reducible apply State.linEgress_keeps
    | with_reducible apply State.canOffer_keeps
    | fail_if_no_progress (with_reducible apply State.Keeps.rest)
    | dsimp only
    | split

theorem execEgressSelect_keeps {s0 s : State} {dt : Nat} {port : Fin 160} {errs : ReadErrs} (kept : s0.Keeps s) :
    Out.Keeps s0 (execEgressSelect dt port errs s) := by
  unfold execEgressSelect
  repeat' first
    | with_reducible intro _
    | with_reducible assumption
    | with_reducible exact State.Keeps.refl _
    | (extract_lets +onlyGivenNames x; clear_value (hx : x = _); first | refine State.Keeps.local (s0 := s0) hx ?_ fun k => ?_ | skip)
    | with_reducible apply State.Keeps.ite
    | with_reducible apply State.selectPort_keeps
    | with_reducible apply goPort_keeps
    | with_reducible apply Out.Keeps.next
    | with_reducible apply Out.Keeps.refused
    | with_reducible apply Out.Keeps.fault
    | with_reducible apply Out.Keeps.ite
    | fail_if_no_progress (with_reducible apply State.Keeps.rest)
    | dsimp only
    | split

theorem State.underrun_keeps {s0 s : State} {p : Nat} (kept : s0.Keeps s) :
    s0.Keeps (State.underrun s p) := by
  unfold State.underrun
  repeat' first
    | with_reducible intro _
    | with_reducible assumption
    | with_reducible exact State.Keeps.refl _
    | (extract_lets +onlyGivenNames x; clear_value (hx : x = _); first | refine State.Keeps.local (s0 := s0) hx ?_ fun k => ?_ | skip)
    | with_reducible apply State.Keeps.ite
    | with_reducible apply State.endStomped_keeps
    | with_reducible apply State.restartRun_keeps
    | with_reducible apply State.raiseThreshold_keeps
    | with_reducible apply State.portCount_keeps
    | with_reducible apply State.modFrame_keeps
    | fail_if_no_progress (with_reducible apply State.Keeps.rest)
    | dsimp only
    | split

theorem execTransmitUnderrun_keeps {s0 s : State} {dt : Nat} {port : Fin 44} (kept : s0.Keeps s) :
    Out.Keeps s0 (execTransmitUnderrun dt port s) := by
  unfold execTransmitUnderrun
  repeat' first
    | with_reducible intro _
    | with_reducible assumption
    | with_reducible exact State.Keeps.refl _
    | (extract_lets +onlyGivenNames x; clear_value (hx : x = _); first | refine State.Keeps.local (s0 := s0) hx ?_ fun k => ?_ | skip)
    | with_reducible apply State.Keeps.ite
    | with_reducible apply State.underrun_keeps
    | with_reducible apply goRun_keeps
    | with_reducible apply Out.Keeps.next
    | with_reducible apply Out.Keeps.refused
    | with_reducible apply Out.Keeps.fault
    | with_reducible apply Out.Keeps.ite
    | fail_if_no_progress (with_reducible apply State.Keeps.rest)
    | dsimp only
    | split

theorem execThresholdDecay_keeps {s0 s : State} {dt : Nat} {port : Fin 44} (kept : s0.Keeps s) :
    Out.Keeps s0 (execThresholdDecay dt port s) := by
  unfold execThresholdDecay
  repeat' first
    | with_reducible intro _
    | with_reducible assumption
    | with_reducible exact State.Keeps.refl _
    | (extract_lets +onlyGivenNames x; clear_value (hx : x = _); first | refine State.Keeps.local (s0 := s0) hx ?_ fun k => ?_ | skip)
    | with_reducible apply State.Keeps.ite
    | with_reducible apply goRun_keeps
    | with_reducible apply State.decayThreshold_keeps
    | with_reducible apply Out.Keeps.next
    | with_reducible apply Out.Keeps.refused
    | with_reducible apply Out.Keeps.fault
    | with_reducible apply Out.Keeps.ite
    | fail_if_no_progress (with_reducible apply State.Keeps.rest)
    | dsimp only
    | split

theorem execForcedSafEnd_keeps {s0 s : State} {dt : Nat} (kept : s0.Keeps s) :
    Out.Keeps s0 (execForcedSafEnd dt s) := by
  unfold execForcedSafEnd
  repeat' first
    | with_reducible intro _
    | with_reducible assumption
    | with_reducible exact State.Keeps.refl _
    | (extract_lets +onlyGivenNames x; clear_value (hx : x = _); first | refine State.Keeps.local (s0 := s0) hx ?_ fun k => ?_ | skip)
    | with_reducible apply State.Keeps.ite
    | with_reducible apply goRun_keeps
    | with_reducible apply Out.Keeps.next
    | with_reducible apply Out.Keeps.refused
    | with_reducible apply Out.Keeps.fault
    | with_reducible apply Out.Keeps.ite
    | fail_if_no_progress (with_reducible apply State.Keeps.rest)
    | dsimp only
    | split

theorem execPauseReceived_keeps {s0 s : State} {dt : Nat} {port : Fin 44} {quanta : BitVec 16} (kept : s0.Keeps s) :
    Out.Keeps s0 (execPauseReceived dt port quanta s) := by
  unfold execPauseReceived
  repeat' first
    | with_reducible intro _
    | with_reducible assumption
    | with_reducible exact State.Keeps.refl _
    | (extract_lets +onlyGivenNames x; clear_value (hx : x = _); first | refine State.Keeps.local (s0 := s0) hx ?_ fun k => ?_ | skip)
    | with_reducible apply State.Keeps.ite
    | with_reducible apply goRun_keeps
    | with_reducible apply State.pauseReceived_keeps
    | with_reducible apply Out.Keeps.next
    | with_reducible apply Out.Keeps.refused
    | with_reducible apply Out.Keeps.fault
    | with_reducible apply Out.Keeps.ite
    | fail_if_no_progress (with_reducible apply State.Keeps.rest)
    | dsimp only
    | split

theorem execPfcReceived_keeps {s0 s : State} {dt : Nat} {port : Fin 44} {classes : Byte} {quanta : List Nat} (kept : s0.Keeps s) :
    Out.Keeps s0 (execPfcReceived dt port classes quanta s) := by
  unfold execPfcReceived
  repeat' first
    | with_reducible intro _
    | with_reducible assumption
    | with_reducible exact State.Keeps.refl _
    | (extract_lets +onlyGivenNames x; clear_value (hx : x = _); first | refine State.Keeps.local (s0 := s0) hx ?_ fun k => ?_ | skip)
    | with_reducible apply State.Keeps.ite
    | with_reducible apply goRun_keeps
    | with_reducible apply State.pfcReceived_keeps
    | with_reducible apply Out.Keeps.next
    | with_reducible apply Out.Keeps.refused
    | with_reducible apply Out.Keeps.fault
    | with_reducible apply Out.Keeps.ite
    | fail_if_no_progress (with_reducible apply State.Keeps.rest)
    | dsimp only
    | split

theorem execPauseExpiry_keeps {s0 s : State} {dt : Nat} {port : Fin 44} {cls : Fin 9} (kept : s0.Keeps s) :
    Out.Keeps s0 (execPauseExpiry dt port cls s) := by
  unfold execPauseExpiry
  repeat' first
    | with_reducible intro _
    | with_reducible assumption
    | with_reducible exact State.Keeps.refl _
    | (extract_lets +onlyGivenNames x; clear_value (hx : x = _); first | refine State.Keeps.local (s0 := s0) hx ?_ fun k => ?_ | skip)
    | with_reducible apply State.Keeps.ite
    | with_reducible apply goRun_keeps
    | with_reducible apply State.setStop_keeps
    | with_reducible apply Out.Keeps.next
    | with_reducible apply Out.Keeps.refused
    | with_reducible apply Out.Keeps.fault
    | with_reducible apply Out.Keeps.ite
    | fail_if_no_progress (with_reducible apply State.Keeps.rest)
    | dsimp only
    | split

theorem execPauseWatchdogTrip_keeps {s0 s : State} {dt : Nat} {port : Fin 44} {cls : Fin 9} (kept : s0.Keeps s) :
    Out.Keeps s0 (execPauseWatchdogTrip dt port cls s) := by
  unfold execPauseWatchdogTrip
  repeat' first
    | with_reducible intro _
    | with_reducible assumption
    | with_reducible exact State.Keeps.refl _
    | (extract_lets +onlyGivenNames x; clear_value (hx : x = _); first | refine State.Keeps.local (s0 := s0) hx ?_ fun k => ?_ | skip)
    | with_reducible apply State.Keeps.ite
    | with_reducible apply goRun_keeps
    | with_reducible apply State.watchdogTrip_keeps
    | with_reducible apply Out.Keeps.next
    | with_reducible apply Out.Keeps.refused
    | with_reducible apply Out.Keeps.fault
    | with_reducible apply Out.Keeps.ite
    | fail_if_no_progress (with_reducible apply State.Keeps.rest)
    | dsimp only
    | split

theorem State.endHold_keeps {s0 s : State} {p : Nat} {c : Nat} (kept : s0.Keeps s) :
    s0.Keeps (State.endHold s p c) := by
  unfold State.endHold
  repeat' first
    | with_reducible intro _
    | with_reducible assumption
    | with_reducible exact State.Keeps.refl _
    | (extract_lets +onlyGivenNames x; clear_value (hx : x = _); first | refine State.Keeps.local (s0 := s0) hx ?_ fun k => ?_ | skip)
    | with_reducible apply State.Keeps.ite
    | with_reducible apply State.modPdyn_keeps
    | with_reducible apply State.wrB_keeps
    | fail_if_no_progress (with_reducible apply State.Keeps.rest)
    | dsimp only
    | split

theorem execHoldOffEnd_keeps {s0 s : State} {dt : Nat} {port : Fin 44} {cls : Fin 9} (kept : s0.Keeps s) :
    Out.Keeps s0 (execHoldOffEnd dt port cls s) := by
  unfold execHoldOffEnd
  repeat' first
    | with_reducible intro _
    | with_reducible assumption
    | with_reducible exact State.Keeps.refl _
    | (extract_lets +onlyGivenNames x; clear_value (hx : x = _); first | refine State.Keeps.local (s0 := s0) hx ?_ fun k => ?_ | skip)
    | with_reducible apply State.Keeps.ite
    | with_reducible apply State.endHold_keeps
    | with_reducible apply goRun_keeps
    | with_reducible apply Out.Keeps.next
    | with_reducible apply Out.Keeps.refused
    | with_reducible apply Out.Keeps.fault
    | with_reducible apply Out.Keeps.ite
    | fail_if_no_progress (with_reducible apply State.Keeps.rest)
    | dsimp only
    | split

theorem State.bufferFill_keeps {s0 s : State} {p : Nat} {fill : Nat} (kept : s0.Keeps s) :
    s0.Keeps (State.bufferFill s p fill) := by
  unfold State.bufferFill
  repeat' first
    | with_reducible intro _
    | with_reducible assumption
    | with_reducible exact State.Keeps.refl _
    | (extract_lets +onlyGivenNames x; clear_value (hx : x = _); first | refine State.Keeps.local (s0 := s0) hx ?_ fun k => ?_ | skip)
    | with_reducible apply State.Keeps.ite
    | with_reducible apply State.sendPause_keeps
    | with_reducible apply State.modPdyn_keeps
    | fail_if_no_progress (with_reducible apply State.Keeps.rest)
    | dsimp only
    | split

theorem execReceiveBufferThreshold_keeps {s0 s : State} {dt : Nat} {port : Fin 44} {fill : Nat} (kept : s0.Keeps s) :
    Out.Keeps s0 (execReceiveBufferThreshold dt port fill s) := by
  unfold execReceiveBufferThreshold
  repeat' first
    | with_reducible intro _
    | with_reducible assumption
    | with_reducible exact State.Keeps.refl _
    | (extract_lets +onlyGivenNames x; clear_value (hx : x = _); first | refine State.Keeps.local (s0 := s0) hx ?_ fun k => ?_ | skip)
    | with_reducible apply State.Keeps.ite
    | with_reducible apply State.bufferFill_keeps
    | with_reducible apply goRun_keeps
    | with_reducible apply Out.Keeps.next
    | with_reducible apply Out.Keeps.refused
    | with_reducible apply Out.Keeps.fault
    | with_reducible apply Out.Keeps.ite
    | fail_if_no_progress (with_reducible apply State.Keeps.rest)
    | dsimp only
    | split

theorem execPauseRepeat_keeps {s0 s : State} {dt : Nat} {port : Fin 44} (kept : s0.Keeps s) :
    Out.Keeps s0 (execPauseRepeat dt port s) := by
  unfold execPauseRepeat
  repeat' first
    | with_reducible intro _
    | with_reducible assumption
    | with_reducible exact State.Keeps.refl _
    | (extract_lets +onlyGivenNames x; clear_value (hx : x = _); first | refine State.Keeps.local (s0 := s0) hx ?_ fun k => ?_ | skip)
    | with_reducible apply State.Keeps.ite
    | with_reducible apply goRun_keeps
    | with_reducible apply State.sendPause_keeps
    | with_reducible apply Out.Keeps.next
    | with_reducible apply Out.Keeps.refused
    | with_reducible apply Out.Keeps.fault
    | with_reducible apply Out.Keeps.ite
    | fail_if_no_progress (with_reducible apply State.Keeps.rest)
    | dsimp only
    | split

theorem State.beaconSeen_keeps {s0 s : State} {p : Nat} (kept : s0.Keeps s) :
    s0.Keeps (State.beaconSeen s p) := by
  unfold State.beaconSeen
  repeat' first
    | with_reducible intro _
    | with_reducible assumption
    | with_reducible exact State.Keeps.refl _
    | (extract_lets +onlyGivenNames x; clear_value (hx : x = _); first | refine State.Keeps.local (s0 := s0) hx ?_ fun k => ?_ | skip)
    | with_reducible apply State.Keeps.ite
    | with_reducible apply State.modPdyn_keeps
    | with_reducible apply State.wr_keeps
    | fail_if_no_progress (with_reducible apply State.Keeps.rest)
    | dsimp only
    | split

theorem execBeaconSend_keeps {s0 s : State} {dt : Nat} {port : Fin 44} (kept : s0.Keeps s) :
    Out.Keeps s0 (execBeaconSend dt port s) := by
  unfold execBeaconSend
  repeat' first
    | with_reducible intro _
    | with_reducible assumption
    | with_reducible exact State.Keeps.refl _
    | (extract_lets +onlyGivenNames x; clear_value (hx : x = _); first | refine State.Keeps.local (s0 := s0) hx ?_ fun k => ?_ | skip)
    | with_reducible apply State.Keeps.ite
    | with_reducible apply State.beaconSeen_keeps
    | with_reducible apply goRun_keeps
    | with_reducible apply State.portCount_keeps
    | with_reducible apply State.emit_keeps
    | with_reducible apply Out.Keeps.next
    | with_reducible apply Out.Keeps.refused
    | with_reducible apply Out.Keeps.fault
    | with_reducible apply Out.Keeps.ite
    | fail_if_no_progress (with_reducible apply State.Keeps.rest)
    | dsimp only
    | split

theorem State.beaconConflict_keeps {s0 s : State} {p : Nat} (kept : s0.Keeps s) :
    s0.Keeps (State.beaconConflict s p) := by
  unfold State.beaconConflict
  repeat' first
    | with_reducible intro _
    | with_reducible assumption
    | with_reducible exact State.Keeps.refl _
    | (extract_lets +onlyGivenNames x; clear_value (hx : x = _); first | refine State.Keeps.local (s0 := s0) hx ?_ fun k => ?_ | skip)
    | with_reducible apply State.Keeps.ite
    | with_reducible apply State.portCount_keeps
    | with_reducible apply State.modPdyn_keeps
    | with_reducible apply State.event_keeps
    | fail_if_no_progress (with_reducible apply State.Keeps.rest)
    | dsimp only
    | split

theorem execBeaconReceived_keeps {s0 s : State} {dt : Nat} {port : Fin 44} (kept : s0.Keeps s) :
    Out.Keeps s0 (execBeaconReceived dt port s) := by
  unfold execBeaconReceived
  repeat' first
    | with_reducible intro _
    | with_reducible assumption
    | with_reducible exact State.Keeps.refl _
    | (extract_lets +onlyGivenNames x; clear_value (hx : x = _); first | refine State.Keeps.local (s0 := s0) hx ?_ fun k => ?_ | skip)
    | with_reducible apply State.Keeps.ite
    | with_reducible apply State.beaconConflict_keeps
    | with_reducible apply State.beaconSeen_keeps
    | with_reducible apply goRun_keeps
    | with_reducible apply State.portCount_keeps
    | with_reducible apply Out.Keeps.next
    | with_reducible apply Out.Keeps.refused
    | with_reducible apply Out.Keeps.fault
    | with_reducible apply Out.Keeps.ite
    | fail_if_no_progress (with_reducible apply State.Keeps.rest)
    | dsimp only
    | split

theorem State.beaconLost_keeps {s0 s : State} {p : Nat} (kept : s0.Keeps s) :
    s0.Keeps (State.beaconLost s p) := by
  unfold State.beaconLost
  repeat' first
    | with_reducible intro _
    | with_reducible assumption
    | with_reducible exact State.Keeps.refl _
    | (extract_lets +onlyGivenNames x; clear_value (hx : x = _); first | refine State.Keeps.local (s0 := s0) hx ?_ fun k => ?_ | skip)
    | with_reducible apply State.Keeps.ite
    | with_reducible apply State.portCount_keeps
    | with_reducible apply State.modPdyn_keeps
    | with_reducible apply State.wr_keeps
    | fail_if_no_progress (with_reducible apply State.Keeps.rest)
    | dsimp only
    | split

theorem execBeaconTimeout_keeps {s0 s : State} {dt : Nat} {port : Fin 44} (kept : s0.Keeps s) :
    Out.Keeps s0 (execBeaconTimeout dt port s) := by
  unfold execBeaconTimeout
  repeat' first
    | with_reducible intro _
    | with_reducible assumption
    | with_reducible exact State.Keeps.refl _
    | (extract_lets +onlyGivenNames x; clear_value (hx : x = _); first | refine State.Keeps.local (s0 := s0) hx ?_ fun k => ?_ | skip)
    | with_reducible apply State.Keeps.ite
    | with_reducible apply State.beaconLost_keeps
    | with_reducible apply goRun_keeps
    | with_reducible apply Out.Keeps.next
    | with_reducible apply Out.Keeps.refused
    | with_reducible apply Out.Keeps.fault
    | with_reducible apply Out.Keeps.ite
    | fail_if_no_progress (with_reducible apply State.Keeps.rest)
    | dsimp only
    | split

theorem State.collide_keeps {s0 s : State} {p : Nat} {bits : Nat} (kept : s0.Keeps s) :
    s0.Keeps (State.collide s p bits) := by
  unfold State.collide
  repeat' first
    | with_reducible intro _
    | with_reducible assumption
    | with_reducible exact State.Keeps.refl _
    | (extract_lets +onlyGivenNames x; clear_value (hx : x = _); first | refine State.Keeps.local (s0 := s0) hx ?_ fun k => ?_ | skip)
    | with_reducible apply State.Keeps.ite
    | with_reducible apply State.pushHead_keeps
    | with_reducible apply State.refuseCopy_keeps
    | with_reducible apply State.portCount_keeps
    | with_reducible apply State.modPdyn_keeps
    | fail_if_no_progress (with_reducible apply State.Keeps.rest)
    | dsimp only
    | split

theorem execCollision_keeps {s0 s : State} {dt : Nat} {port : Fin 44} {bitTimes : Nat} (kept : s0.Keeps s) :
    Out.Keeps s0 (execCollision dt port bitTimes s) := by
  unfold execCollision
  repeat' first
    | with_reducible intro _
    | with_reducible assumption
    | with_reducible exact State.Keeps.refl _
    | (extract_lets +onlyGivenNames x; clear_value (hx : x = _); first | refine State.Keeps.local (s0 := s0) hx ?_ fun k => ?_ | skip)
    | with_reducible apply State.Keeps.ite
    | with_reducible apply State.collide_keeps
    | with_reducible apply goRun_keeps
    | with_reducible apply Out.Keeps.next
    | with_reducible apply Out.Keeps.refused
    | with_reducible apply Out.Keeps.fault
    | with_reducible apply Out.Keeps.ite
    | fail_if_no_progress (with_reducible apply State.Keeps.rest)
    | dsimp only
    | split

theorem State.jabber_keeps {s0 s : State} {p : Nat} (kept : s0.Keeps s) :
    s0.Keeps (State.jabber s p) := by
  unfold State.jabber
  repeat' first
    | with_reducible intro _
    | with_reducible assumption
    | with_reducible exact State.Keeps.refl _
    | (extract_lets +onlyGivenNames x; clear_value (hx : x = _); first | refine State.Keeps.local (s0 := s0) hx ?_ fun k => ?_ | skip)
    | with_reducible apply State.Keeps.ite
    | with_reducible apply State.endEarly_keeps
    | with_reducible apply State.giveUp_keeps
    | with_reducible apply State.modIngress_keeps
    | with_reducible apply State.portCount_keeps
    | with_reducible apply State.Keeps.id
    | fail_if_no_progress (with_reducible apply State.Keeps.rest)
    | dsimp only
    | split

theorem execJabber_keeps {s0 s : State} {dt : Nat} {port : Fin 44} (kept : s0.Keeps s) :
    Out.Keeps s0 (execJabber dt port s) := by
  unfold execJabber
  repeat' first
    | with_reducible intro _
    | with_reducible assumption
    | with_reducible exact State.Keeps.refl _
    | (extract_lets +onlyGivenNames x; clear_value (hx : x = _); first | refine State.Keeps.local (s0 := s0) hx ?_ fun k => ?_ | skip)
    | with_reducible apply State.Keeps.ite
    | with_reducible apply State.jabber_keeps
    | with_reducible apply goRun_keeps
    | with_reducible apply Out.Keeps.next
    | with_reducible apply Out.Keeps.refused
    | with_reducible apply Out.Keeps.fault
    | with_reducible apply Out.Keeps.ite
    | fail_if_no_progress (with_reducible apply State.Keeps.rest)
    | dsimp only
    | split

theorem execNoise_keeps {s0 s : State} {dt : Nat} {port : Fin 44} (kept : s0.Keeps s) :
    Out.Keeps s0 (execNoise dt port s) := by
  unfold execNoise
  repeat' first
    | with_reducible intro _
    | with_reducible assumption
    | with_reducible exact State.Keeps.refl _
    | (extract_lets +onlyGivenNames x; clear_value (hx : x = _); first | refine State.Keeps.local (s0 := s0) hx ?_ fun k => ?_ | skip)
    | with_reducible apply State.Keeps.ite
    | with_reducible apply goRun_keeps
    | with_reducible apply State.portCount_keeps
    | with_reducible apply Out.Keeps.next
    | with_reducible apply Out.Keeps.refused
    | with_reducible apply Out.Keeps.fault
    | with_reducible apply Out.Keeps.ite
    | fail_if_no_progress (with_reducible apply State.Keeps.rest)
    | dsimp only
    | split

theorem execSnapshot_keeps {s0 s : State} {dt : Nat} {sess : Nat} (kept : s0.Keeps s) :
    Out.Keeps s0 (execSnapshot dt sess s) := by
  unfold execSnapshot
  repeat' first
    | with_reducible intro _
    | with_reducible assumption
    | with_reducible exact State.Keeps.refl _
    | (extract_lets +onlyGivenNames x; clear_value (hx : x = _); first | refine State.Keeps.local (s0 := s0) hx ?_ fun k => ?_ | skip)
    | with_reducible apply State.Keeps.ite
    | with_reducible apply goWrite_keeps
    | with_reducible apply Out.Keeps.next
    | with_reducible apply Out.Keeps.refused
    | with_reducible apply Out.Keeps.fault
    | with_reducible apply Out.Keeps.ite
    | fail_if_no_progress (with_reducible apply State.Keeps.rest)
    | dsimp only
    | split

end Sys2Proof.Machine
end

