-- ==== Sys2Proof/Laws/KeepsCmdChannels.lean ====
section
/-! SUPPORT. What the definitions of Machine/CmdChannels keep (`State.Keeps`). -/

set_option linter.unusedTactic false
set_option linter.unreachableTactic false

namespace Sys2Proof.Machine

theorem State.modeWritten_keeps {s0 s : State} {sess : Nat} {c : Nat} {v : Nat} {receiving : Bool} (kept : s0.Keeps s) :
    s0.Keeps (State.modeWritten s sess c v receiving) := by
  unfold State.modeWritten
  repeat' first
    | with_reducible intro _
    | with_reducible assumption
    | with_reducible exact State.Keeps.refl _
    | (extract_lets +onlyGivenNames x; clear_value (hx : x = _); first | refine State.Keeps.local (s0 := s0) hx ?_ fun k => ?_ | skip)
    | with_reducible apply State.Keeps.ite
    | with_reducible apply State.puts_keeps
    | with_reducible apply State.modCh_keeps
    | fail_if_no_progress (with_reducible apply State.Keeps.rest)
    | dsimp only
    | split

theorem execChannelModeWrite_keeps {s0 s : State} {dt : Nat} {sess : Nat} {chan : Fin 96} {value : BitVec 32} {receiving : Bool} (kept : s0.Keeps s) :
    Out.Keeps s0 (execChannelModeWrite dt sess chan value receiving s) := by
  unfold execChannelModeWrite
  repeat' first
    | with_reducible intro _
    | with_reducible assumption
    | with_reducible exact State.Keeps.refl _
    | (extract_lets +onlyGivenNames x; clear_value (hx : x = _); first | refine State.Keeps.local (s0 := s0) hx ?_ fun k => ?_ | skip)
    | with_reducible apply State.Keeps.ite
    | with_reducible apply State.modeWritten_keeps
    | with_reducible apply goOn_keeps
    | with_reducible apply Out.Keeps.next
    | with_reducible apply Out.Keeps.refused
    | with_reducible apply Out.Keeps.fault
    | with_reducible apply Out.Keeps.ite
    | fail_if_no_progress (with_reducible apply State.Keeps.rest)
    | dsimp only
    | split

theorem State.integrates_keeps {s0 s : State} {c : Nat} (kept : s0.Keeps s) :
    s0.Keeps (State.integrates s c) := by
  unfold State.integrates
  repeat' first
    | with_reducible intro _
    | with_reducible assumption
    | with_reducible exact State.Keeps.refl _
    | (extract_lets +onlyGivenNames x; clear_value (hx : x = _); first | refine State.Keeps.local (s0 := s0) hx ?_ fun k => ?_ | skip)
    | with_reducible apply State.Keeps.ite
    | with_reducible apply State.nextOnBus_keeps
    | with_reducible apply State.wrB_keeps
    | fail_if_no_progress (with_reducible apply State.Keeps.rest)
    | dsimp only
    | split

theorem execChannelIntegrated_keeps {s0 s : State} {dt : Nat} {chan : Fin 96} (kept : s0.Keeps s) :
    Out.Keeps s0 (execChannelIntegrated dt chan s) := by
  unfold execChannelIntegrated
  repeat' first
    | with_reducible intro _
    | with_reducible assumption
    | with_reducible exact State.Keeps.refl _
    | (extract_lets +onlyGivenNames x; clear_value (hx : x = _); first | refine State.Keeps.local (s0 := s0) hx ?_ fun k => ?_ | skip)
    | with_reducible apply State.Keeps.ite
    | with_reducible apply State.integrates_keeps
    | with_reducible apply goRun_keeps
    | with_reducible apply Out.Keeps.next
    | with_reducible apply Out.Keeps.refused
    | with_reducible apply Out.Keeps.fault
    | with_reducible apply Out.Keeps.ite
    | fail_if_no_progress (with_reducible apply State.Keeps.rest)
    | dsimp only
    | split

theorem State.goodFrame_keeps {s0 s : State} {c : Nat} {bs : List Byte} {dom : Nat} {cls : Nat} {ago : Nat} (kept : s0.Keeps s) :
    s0.Keeps (State.goodFrame s c bs dom cls ago) := by
  unfold State.goodFrame
  repeat' first
    | with_reducible intro _
    | with_reducible assumption
    | with_reducible exact State.Keeps.refl _
    | (extract_lets +onlyGivenNames x; clear_value (hx : x = _); first | refine State.Keeps.local (s0 := s0) hx ?_ fun k => ?_ | (have g := State.regs x.2; clear g; subst hx) | skip)
    | with_reducible apply State.Keeps.ite
    | with_reducible apply State.enterWhole_keeps
    | with_reducible apply State.countCanRx_keeps
    | with_reducible apply State.takeRx_keeps
    | fail_if_no_progress (with_reducible apply State.Keeps.rest)
    | dsimp only
    | refine State.Keeps.of_snd ‹_ = (_, _)› ?_
    | split

theorem State.canComplete_keeps {s0 s : State} {c : Nat} {bs : List Byte} {dom : Nat} {cls : Nat} {ago : Nat} (kept : s0.Keeps s) :
    s0.Keeps (State.canComplete s c bs dom cls ago) := by
  unfold State.canComplete
  repeat' first
    | with_reducible intro _
    | with_reducible assumption
    | with_reducible exact State.Keeps.refl _
    | (extract_lets +onlyGivenNames x; clear_value (hx : x = _); first | refine State.Keeps.local (s0 := s0) hx ?_ fun k => ?_ | skip)
    | with_reducible apply State.Keeps.ite
    | with_reducible apply State.goodFrame_keeps
    | with_reducible apply State.nextOnBus_keeps
    | with_reducible apply State.busError_keeps
    | with_reducible apply State.goodRx_keeps
    | with_reducible apply State.chCount_keeps
    | with_reducible apply State.modCh_keeps
    | fail_if_no_progress (with_reducible apply State.Keeps.rest)
    | dsimp only
    | split

theorem State.frameValid_keeps {s0 s : State} {c : Nat} {bs : List Byte} {dom : Nat} {cls : Nat} {ago : Nat} {errs : ReadErrs} (kept : s0.Keeps s) :
    s0.Keeps (State.frameValid s c bs dom cls ago errs) := by
  unfold State.frameValid
  repeat' first
    | with_reducible intro _
    | with_reducible assumption
    | with_reducible exact State.Keeps.refl _
    | (extract_lets +onlyGivenNames x; clear_value (hx : x = _); first | refine State.Keeps.local (s0 := s0) hx ?_ fun k => ?_ | skip)
    | with_reducible apply State.Keeps.ite
    | with_reducible apply State.canComplete_keeps
    | with_reducible apply State.goodFrame_keeps
    | with_reducible apply State.meetErrs_keeps
    | with_reducible apply State.modCh_keeps
    | fail_if_no_progress (with_reducible apply State.Keeps.rest)
    | dsimp only
    | split

theorem execCanFrameValid_keeps {s0 s : State} {dt : Nat} {chan : Fin 96} {bytes : List Byte} {domain : Fin 64} {cls : Fin 8} {ago : Nat} {errs : ReadErrs} (kept : s0.Keeps s) :
    Out.Keeps s0 (execCanFrameValid dt chan bytes domain cls ago errs s) := by
  unfold execCanFrameValid
  repeat' first
    | with_reducible intro _
    | with_reducible assumption
    | with_reducible exact State.Keeps.refl _
    | (extract_lets +onlyGivenNames x; clear_value (hx : x = _); first | refine State.Keeps.local (s0 := s0) hx ?_ fun k => ?_ | skip)
    | with_reducible apply State.Keeps.ite
    | with_reducible apply State.frameValid_keeps
    | with_reducible apply goRun_keeps
    | with_reducible apply Out.Keeps.next
    | with_reducible apply Out.Keeps.refused
    | with_reducible apply Out.Keeps.fault
    | with_reducible apply Out.Keeps.ite
    | fail_if_no_progress (with_reducible apply State.Keeps.rest)
    | dsimp only
    | split

theorem execBufferLock_keeps {s0 s : State} {dt : Nat} {sess : Nat} {chan : Fin 96} {value : BitVec 32} (kept : s0.Keeps s) :
    Out.Keeps s0 (execBufferLock dt sess chan value s) := by
  unfold execBufferLock
  repeat' first
    | with_reducible intro _
    | with_reducible assumption
    | with_reducible exact State.Keeps.refl _
    | (extract_lets +onlyGivenNames x; clear_value (hx : x = _); first | refine State.Keeps.local (s0 := s0) hx ?_ fun k => ?_ | skip)
    | with_reducible apply State.Keeps.ite
    | with_reducible apply goWrite_keeps
    | with_reducible apply Out.Keeps.next
    | with_reducible apply Out.Keeps.refused
    | with_reducible apply Out.Keeps.fault
    | with_reducible apply Out.Keeps.ite
    | fail_if_no_progress (with_reducible apply State.Keeps.rest)
    | dsimp only
    | split

theorem State.sentOnBus_keeps {s0 s : State} {c : Nat} {loop : Nat} (kept : s0.Keeps s) :
    s0.Keeps (State.sentOnBus s c loop) := by
  unfold State.sentOnBus
  repeat' first
    | with_reducible intro _
    | with_reducible assumption
    | with_reducible exact State.Keeps.refl _
    | (extract_lets +onlyGivenNames x; clear_value (hx : x = _); first | refine State.Keeps.local (s0 := s0) hx ?_ fun k => ?_ | (have g := State.regs x.2; clear g; subst hx) | skip)
    | with_reducible apply State.Keeps.ite
    | with_reducible apply State.offerSent_keeps
    | with_reducible apply State.nextOnBus_keeps
    | with_reducible apply State.busError_keeps
    | with_reducible apply State.draw_keeps
    | with_reducible apply State.wr_keeps
    | fail_if_no_progress (with_reducible apply State.Keeps.rest)
    | dsimp only
    | refine State.Keeps.of_snd ‹_ = (_, _)› ?_
    | split

theorem execCanFrameSent_keeps {s0 s : State} {dt : Nat} {chan : Fin 72} {loop : Nat} (kept : s0.Keeps s) :
    Out.Keeps s0 (execCanFrameSent dt chan loop s) := by
  unfold execCanFrameSent
  repeat' first
    | with_reducible intro _
    | with_reducible assumption
    | with_reducible exact State.Keeps.refl _
    | (extract_lets +onlyGivenNames x; clear_value (hx : x = _); first | refine State.Keeps.local (s0 := s0) hx ?_ fun k => ?_ | skip)
    | with_reducible apply State.Keeps.ite
    | with_reducible apply State.sentOnBus_keeps
    | with_reducible apply goRun_keeps
    | with_reducible apply Out.Keeps.next
    | with_reducible apply Out.Keeps.refused
    | with_reducible apply Out.Keeps.fault
    | with_reducible apply Out.Keeps.ite
    | fail_if_no_progress (with_reducible apply State.Keeps.rest)
    | dsimp only
    | split

theorem State.lostOnBus_keeps {s0 s : State} {c : Nat} (kept : s0.Keeps s) :
    s0.Keeps (State.lostOnBus s c) := by
  unfold State.lostOnBus
  repeat' first
    | with_reducible intro _
    | with_reducible assumption
    | with_reducible exact State.Keeps.refl _
    | (extract_lets +onlyGivenNames x; clear_value (hx : x = _); first | refine State.Keeps.local (s0 := s0) hx ?_ fun k => ?_ | skip)
    | with_reducible apply State.Keeps.ite
    | with_reducible apply State.applyMode_keeps
    | with_reducible apply State.withdraw_keeps
    | with_reducible apply State.chCount_keeps
    | with_reducible apply State.modCh_keeps
    | fail_if_no_progress (with_reducible apply State.Keeps.rest)
    | dsimp only
    | split

theorem execArbitrationLost_keeps {s0 s : State} {dt : Nat} {chan : Fin 72} (kept : s0.Keeps s) :
    Out.Keeps s0 (execArbitrationLost dt chan s) := by
  unfold execArbitrationLost
  repeat' first
    | with_reducible intro _
    | with_reducible assumption
    | with_reducible exact State.Keeps.refl _
    | (extract_lets +onlyGivenNames x; clear_value (hx : x = _); first | refine State.Keeps.local (s0 := s0) hx ?_ fun k => ?_ | skip)
    | with_reducible apply State.Keeps.ite
    | with_reducible apply State.lostOnBus_keeps
    | with_reducible apply goRun_keeps
    | with_reducible apply Out.Keeps.next
    | with_reducible apply Out.Keeps.refused
    | with_reducible apply Out.Keeps.fault
    | with_reducible apply Out.Keeps.ite
    | fail_if_no_progress (with_reducible apply State.Keeps.rest)
    | dsimp only
    | split

theorem State.errorOnBus_keeps {s0 s : State} {c : Nat} {kind : Nat} {sending : Bool} {exempt : Bool} {eights : Nat} (kept : s0.Keeps s) :
    s0.Keeps (State.errorOnBus s c kind sending exempt eights) := by
  unfold State.errorOnBus
  repeat' first
    | with_reducible intro _
    | with_reducible assumption
    | with_reducible exact State.Keeps.refl _
    | (extract_lets +onlyGivenNames x; clear_value (hx : x = _); first | refine State.Keeps.local (s0 := s0) hx ?_ fun k => ?_ | skip)
    | with_reducible apply State.Keeps.ite
    | with_reducible apply State.nextOnBus_keeps
    | with_reducible apply State.busError_keeps
    | fail_if_no_progress (with_reducible apply State.Keeps.rest)
    | dsimp only
    | split

theorem execCanBusError_keeps {s0 s : State} {dt : Nat} {chan : Fin 72} {kind : Fin 6} {sending : Bool} {exempt : Bool} {eights : Nat} (kept : s0.Keeps s) :
    Out.Keeps s0 (execCanBusError dt chan kind sending exempt eights s) := by
  unfold execCanBusError
  repeat' first
    | with_reducible intro _
    | with_reducible assumption
    | with_reducible exact State.Keeps.refl _
    | (extract_lets +onlyGivenNames x; clear_value (hx : x = _); first | refine State.Keeps.local (s0 := s0) hx ?_ fun k => ?_ | skip)
    | with_reducible apply State.Keeps.ite
    | with_reducible apply State.errorOnBus_keeps
    | with_reducible apply goRun_keeps
    | with_reducible apply Out.Keeps.next
    | with_reducible apply Out.Keeps.refused
    | with_reducible apply Out.Keeps.fault
    | with_reducible apply Out.Keeps.ite
    | fail_if_no_progress (with_reducible apply State.Keeps.rest)
    | dsimp only
    | split

theorem execTransmitRequest_keeps {s0 s : State} {dt : Nat} {sess : Nat} {chan : Fin 72} {buf : Fin 32} (kept : s0.Keeps s) :
    Out.Keeps s0 (execTransmitRequest dt sess chan buf s) := by
  unfold execTransmitRequest
  repeat' first
    | with_reducible intro _
    | with_reducible assumption
    | with_reducible exact State.Keeps.refl _
    | (extract_lets +onlyGivenNames x; clear_value (hx : x = _); first | refine State.Keeps.local (s0 := s0) hx ?_ fun k => ?_ | skip)
    | with_reducible apply State.Keeps.ite
    | with_reducible apply goWrite_keeps
    | with_reducible apply Out.Keeps.next
    | with_reducible apply Out.Keeps.refused
    | with_reducible apply Out.Keeps.fault
    | with_reducible apply Out.Keeps.ite
    | fail_if_no_progress (with_reducible apply State.Keeps.rest)
    | dsimp only
    | split

theorem execTransmitCancel_keeps {s0 s : State} {dt : Nat} {sess : Nat} {chan : Fin 72} {buf : Fin 32} (kept : s0.Keeps s) :
    Out.Keeps s0 (execTransmitCancel dt sess chan buf s) := by
  unfold execTransmitCancel
  repeat' first
    | with_reducible intro _
    | with_reducible assumption
    | with_reducible exact State.Keeps.refl _
    | (extract_lets +onlyGivenNames x; clear_value (hx : x = _); first | refine State.Keeps.local (s0 := s0) hx ?_ fun k => ?_ | skip)
    | with_reducible apply State.Keeps.ite
    | with_reducible apply goWrite_keeps
    | with_reducible apply Out.Keeps.next
    | with_reducible apply Out.Keeps.refused
    | with_reducible apply Out.Keeps.fault
    | with_reducible apply Out.Keeps.ite
    | fail_if_no_progress (with_reducible apply State.Keeps.rest)
    | dsimp only
    | split

theorem execBusOffRecover_keeps {s0 s : State} {dt : Nat} {sess : Nat} {chan : Fin 72} (kept : s0.Keeps s) :
    Out.Keeps s0 (execBusOffRecover dt sess chan s) := by
  unfold execBusOffRecover
  repeat' first
    | with_reducible intro _
    | with_reducible assumption
    | with_reducible exact State.Keeps.refl _
    | (extract_lets +onlyGivenNames x; clear_value (hx : x = _); first | refine State.Keeps.local (s0 := s0) hx ?_ fun k => ?_ | skip)
    | with_reducible apply State.Keeps.ite
    | with_reducible apply goWrite_keeps
    | with_reducible apply Out.Keeps.next
    | with_reducible apply Out.Keeps.refused
    | with_reducible apply Out.Keeps.fault
    | with_reducible apply Out.Keeps.ite
    | fail_if_no_progress (with_reducible apply State.Keeps.rest)
    | dsimp only
    | split

theorem State.recovered_keeps {s0 s : State} {c : Nat} (kept : s0.Keeps s) :
    s0.Keeps (State.recovered s c) := by
  unfold State.recovered
  repeat' first
    | with_reducible intro _
    | with_reducible assumption
    | with_reducible exact State.Keeps.refl _
    | (extract_lets +onlyGivenNames x; clear_value (hx : x = _); first | refine State.Keeps.local (s0 := s0) hx ?_ fun k => ?_ | skip)
    | with_reducible apply State.Keeps.ite
    | with_reducible apply State.nextOnBus_keeps
    | with_reducible apply State.event_keeps
    | with_reducible apply State.wrB_keeps
    | with_reducible apply State.wr_keeps
    | fail_if_no_progress (with_reducible apply State.Keeps.rest)
    | dsimp only
    | split

theorem execBusOffRecovered_keeps {s0 s : State} {dt : Nat} {chan : Fin 72} (kept : s0.Keeps s) :
    Out.Keeps s0 (execBusOffRecovered dt chan s) := by
  unfold execBusOffRecovered
  repeat' first
    | with_reducible intro _
    | with_reducible assumption
    | with_reducible exact State.Keeps.refl _
    | (extract_lets +onlyGivenNames x; clear_value (hx : x = _); first | refine State.Keeps.local (s0 := s0) hx ?_ fun k => ?_ | skip)
    | with_reducible apply State.Keeps.ite
    | with_reducible apply State.recovered_keeps
    | with_reducible apply goRun_keeps
    | with_reducible apply Out.Keeps.next
    | with_reducible apply Out.Keeps.refused
    | with_reducible apply Out.Keeps.fault
    | with_reducible apply Out.Keeps.ite
    | fail_if_no_progress (with_reducible apply State.Keeps.rest)
    | dsimp only
    | split

theorem State.offerReference_keeps {s0 s : State} {c : Nat} {count : Nat} (kept : s0.Keeps s) :
    s0.Keeps (State.offerReference s c count) := by
  unfold State.offerReference
  repeat' first
    | with_reducible intro _
    | with_reducible assumption
    | with_reducible exact State.Keeps.refl _
    | (extract_lets +onlyGivenNames x; clear_value (hx : x = _); first | refine State.Keeps.local (s0 := s0) hx ?_ fun k => ?_ | skip)
    | with_reducible apply State.Keeps.ite
    | with_reducible apply State.modCh_keeps
    | with_reducible apply State.wrF_keeps
    | fail_if_no_progress (with_reducible apply State.Keeps.rest)
    | dsimp only
    | split

theorem State.windowEnds_keeps {s0 s : State} {c : Nat} (kept : s0.Keeps s) :
    s0.Keeps (State.windowEnds s c) := by
  unfold State.windowEnds
  repeat' first
    | with_reducible intro _
    | with_reducible assumption
    | with_reducible exact State.Keeps.refl _
    | (extract_lets +onlyGivenNames x; clear_value (hx : x = _); first | refine State.Keeps.local (s0 := s0) hx ?_ fun k => ?_ | skip)
    | with_reducible apply State.Keeps.ite
    | with_reducible apply State.chCount_keeps
    | with_reducible apply State.modCh_keeps
    | fail_if_no_progress (with_reducible apply State.Keeps.rest)
    | dsimp only
    | split

theorem State.columnBegins_keeps {s0 s : State} {c : Nat} (kept : s0.Keeps s) :
    s0.Keeps (State.columnBegins s c) := by
  unfold State.columnBegins
  repeat' first
    | with_reducible intro _
    | with_reducible assumption
    | with_reducible exact State.Keeps.refl _
    | (extract_lets +onlyGivenNames x; clear_value (hx : x = _); first | refine State.Keeps.local (s0 := s0) hx ?_ fun k => ?_ | skip)
    | with_reducible apply State.Keeps.ite
    | with_reducible apply State.windowEnds_keeps
    | with_reducible apply State.offerReference_keeps
    | with_reducible apply State.nextOnBus_keeps
    | with_reducible apply State.chCount_keeps
    | with_reducible apply State.modCh_keeps
    | fail_if_no_progress (with_reducible apply State.Keeps.rest)
    | dsimp only
    | split

theorem execColumnStart_keeps {s0 s : State} {dt : Nat} {chan : Fin 72} (kept : s0.Keeps s) :
    Out.Keeps s0 (execColumnStart dt chan s) := by
  unfold execColumnStart
  repeat' first
    | with_reducible intro _
    | with_reducible assumption
    | with_reducible exact State.Keeps.refl _
    | (extract_lets +onlyGivenNames x; clear_value (hx : x = _); first | refine State.Keeps.local (s0 := s0) hx ?_ fun k => ?_ | skip)
    | with_reducible apply State.Keeps.ite
    | with_reducible apply State.columnBegins_keeps
    | with_reducible apply goRun_keeps
    | with_reducible apply Out.Keeps.next
    | with_reducible apply Out.Keeps.refused
    | with_reducible apply Out.Keeps.fault
    | with_reducible apply Out.Keeps.ite
    | fail_if_no_progress (with_reducible apply State.Keeps.rest)
    | dsimp only
    | split

theorem State.refHeard_keeps {s0 s : State} {c : Nat} {prio : Nat} {count : Nat} {ago : Nat} (kept : s0.Keeps s) :
    s0.Keeps (State.refHeard s c prio count ago) := by
  unfold State.refHeard
  repeat' first
    | with_reducible intro _
    | with_reducible assumption
    | with_reducible exact State.Keeps.refl _
    | (extract_lets +onlyGivenNames x; clear_value (hx : x = _); first | refine State.Keeps.local (s0 := s0) hx ?_ fun k => ?_ | skip)
    | with_reducible apply State.Keeps.ite
    | with_reducible apply State.beginCycle_keeps
    | with_reducible apply State.masterChange_keeps
    | with_reducible apply State.chCount_keeps
    | with_reducible apply State.modCh_keeps
    | with_reducible apply State.wrF_keeps
    | fail_if_no_progress (with_reducible apply State.Keeps.rest)
    | dsimp only
    | split

theorem execReferenceMessageReceived_keeps {s0 s : State} {dt : Nat} {chan : Fin 72} {prio : Fin 8} {cycle : Fin 64} {ago : Nat} (kept : s0.Keeps s) :
    Out.Keeps s0 (execReferenceMessageReceived dt chan prio cycle ago s) := by
  unfold execReferenceMessageReceived
  repeat' first
    | with_reducible intro _
    | with_reducible assumption
    | with_reducible exact State.Keeps.refl _
    | (extract_lets +onlyGivenNames x; clear_value (hx : x = _); first | refine State.Keeps.local (s0 := s0) hx ?_ fun k => ?_ | skip)
    | with_reducible apply State.Keeps.ite
    | with_reducible apply State.refHeard_keeps
    | with_reducible apply goRun_keeps
    | with_reducible apply Out.Keeps.next
    | with_reducible apply Out.Keeps.refused
    | with_reducible apply Out.Keeps.fault
    | with_reducible apply Out.Keeps.ite
    | fail_if_no_progress (with_reducible apply State.Keeps.rest)
    | dsimp only
    | split

theorem State.masterSilent_keeps {s0 s : State} {c : Nat} (kept : s0.Keeps s) :
    s0.Keeps (State.masterSilent s c) := by
  unfold State.masterSilent
  repeat' first
    | with_reducible intro _
    | with_reducible assumption
    | with_reducible exact State.Keeps.refl _
    | (extract_lets +onlyGivenNames x; clear_value (hx : x = _); first | refine State.Keeps.local (s0 := s0) hx ?_ fun k => ?_ | skip)
    | with_reducible apply State.Keeps.ite
    | with_reducible apply State.offerReference_keeps
    | fail_if_no_progress (with_reducible apply State.Keeps.rest)
    | dsimp only
    | split

theorem execMasterTimeout_keeps {s0 s : State} {dt : Nat} {chan : Fin 72} (kept : s0.Keeps s) :
    Out.Keeps s0 (execMasterTimeout dt chan s) := by
  unfold execMasterTimeout
  repeat' first
    | with_reducible intro _
    | with_reducible assumption
    | with_reducible exact State.Keeps.refl _
    | (extract_lets +onlyGivenNames x; clear_value (hx : x = _); first | refine State.Keeps.local (s0 := s0) hx ?_ fun k => ?_ | skip)
    | with_reducible apply State.Keeps.ite
    | with_reducible apply State.masterSilent_keeps
    | with_reducible apply goRun_keeps
    | with_reducible apply Out.Keeps.next
    | with_reducible apply Out.Keeps.refused
    | with_reducible apply Out.Keeps.fault
    | with_reducible apply Out.Keeps.ite
    | fail_if_no_progress (with_reducible apply State.Keeps.rest)
    | dsimp only
    | split

theorem State.noResponse_keeps {s0 s : State} {c : Nat} (kept : s0.Keeps s) :
    s0.Keeps (State.noResponse s c) := by
  unfold State.noResponse
  repeat' first
    | with_reducible intro _
    | with_reducible assumption
    | with_reducible exact State.Keeps.refl _
    | (extract_lets +onlyGivenNames x; clear_value (hx : x = _); first | refine State.Keeps.local (s0 := s0) hx ?_ fun k => ?_ | skip)
    | with_reducible apply State.Keeps.ite
    | with_reducible apply State.slotError_keeps
    | with_reducible apply State.chCount_keeps
    | with_reducible apply State.modCh_keeps
    | with_reducible apply State.Keeps.id
    | fail_if_no_progress (with_reducible apply State.Keeps.rest)
    | dsimp only
    | split

theorem State.slotBegins_keeps {s0 s : State} {c : Nat} (kept : s0.Keeps s) :
    s0.Keeps (State.slotBegins s c) := by
  unfold State.slotBegins
  repeat' first
    | with_reducible intro _
    | with_reducible assumption
    | with_reducible exact State.Keeps.refl _
    | (extract_lets +onlyGivenNames x; clear_value (hx : x = _); first | refine State.Keeps.local (s0 := s0) hx ?_ fun k => ?_ | skip)
    | with_reducible apply State.Keeps.ite
    | with_reducible apply State.noResponse_keeps
    | with_reducible apply State.linSlotStart_keeps
    | with_reducible apply State.modCh_keeps
    | fail_if_no_progress (with_reducible apply State.Keeps.rest)
    | dsimp only
    | split

theorem execLinSlotStart_keeps {s0 s : State} {dt : Nat} {lin : Fin 24} (kept : s0.Keeps s) :
    Out.Keeps s0 (execLinSlotStart dt lin s) := by
  unfold execLinSlotStart
  repeat' first
    | with_reducible intro _
    | with_reducible assumption
    | with_reducible exact State.Keeps.refl _
    | (extract_lets +onlyGivenNames x; clear_value (hx : x = _); first | refine State.Keeps.local (s0 := s0) hx ?_ fun k => ?_ | skip)
    | with_reducible apply State.Keeps.ite
    | with_reducible apply State.slotBegins_keeps
    | with_reducible apply goRun_keeps
    | with_reducible apply Out.Keeps.next
    | with_reducible apply Out.Keeps.refused
    | with_reducible apply Out.Keeps.fault
    | with_reducible apply Out.Keeps.ite
    | fail_if_no_progress (with_reducible apply State.Keeps.rest)
    | dsimp only
    | split

theorem execLinResponseTimeout_keeps {s0 s : State} {dt : Nat} {lin : Fin 24} (kept : s0.Keeps s) :
    Out.Keeps s0 (execLinResponseTimeout dt lin s) := by
  unfold execLinResponseTimeout
  repeat' first
    | with_reducible intro _
    | with_reducible assumption
    | with_reducible exact State.Keeps.refl _
    | (extract_lets +onlyGivenNames x; clear_value (hx : x = _); first | refine State.Keeps.local (s0 := s0) hx ?_ fun k => ?_ | skip)
    | with_reducible apply State.Keeps.ite
    | with_reducible apply State.noResponse_keeps
    | with_reducible apply goRun_keeps
    | with_reducible apply Out.Keeps.next
    | with_reducible apply Out.Keeps.refused
    | with_reducible apply Out.Keeps.fault
    | with_reducible apply Out.Keeps.ite
    | fail_if_no_progress (with_reducible apply State.Keeps.rest)
    | dsimp only
    | split

theorem execLinTableSwitch_keeps {s0 s : State} {dt : Nat} {sess : Nat} {lin : Fin 24} {value : BitVec 32} (kept : s0.Keeps s) :
    Out.Keeps s0 (execLinTableSwitch dt sess lin value s) := by
  unfold execLinTableSwitch
  repeat' first
    | with_reducible intro _
    | with_reducible assumption
    | with_reducible exact State.Keeps.refl _
    | (extract_lets +onlyGivenNames x; clear_value (hx : x = _); first | refine State.Keeps.local (s0 := s0) hx ?_ fun k => ?_ | skip)
    | with_reducible apply State.Keeps.ite
    | with_reducible apply goWrite_keeps
    | with_reducible apply Out.Keeps.next
    | with_reducible apply Out.Keeps.refused
    | with_reducible apply Out.Keeps.fault
    | with_reducible apply Out.Keeps.ite
    | fail_if_no_progress (with_reducible apply State.Keeps.rest)
    | dsimp only
    | split

theorem State.linHeard_keeps {s0 s : State} {c : Nat} {pid : Nat} {brk : Nat} {sync : Nat} (kept : s0.Keeps s) :
    s0.Keeps (State.linHeard s c pid brk sync) := by
  unfold State.linHeard
  repeat' first
    | with_reducible intro _
    | with_reducible assumption
    | with_reducible exact State.Keeps.refl _
    | (extract_lets +onlyGivenNames x; clear_value (hx : x = _); first | refine State.Keeps.local (s0 := s0) hx ?_ fun k => ?_ | skip)
    | with_reducible apply State.Keeps.ite
    | with_reducible apply State.slotError_keeps
    | with_reducible apply State.linPublish_keeps
    | with_reducible apply State.chCount_keeps
    | with_reducible apply State.modCh_keeps
    | with_reducible apply State.wrB_keeps
    | with_reducible apply State.Keeps.id
    | fail_if_no_progress (with_reducible apply State.Keeps.rest)
    | dsimp only
    | split

theorem execLinHeaderReceived_keeps {s0 s : State} {dt : Nat} {lin : Fin 24} {pid : Byte} {breakBits : Nat} {syncClocks : Nat} (kept : s0.Keeps s) :
    Out.Keeps s0 (execLinHeaderReceived dt lin pid breakBits syncClocks s) := by
  unfold execLinHeaderReceived
  repeat' first
    | with_reducible intro _
    | with_reducible assumption
    | with_reducible exact State.Keeps.refl _
    | (extract_lets +onlyGivenNames x; clear_value (hx : x = _); first | refine State.Keeps.local (s0 := s0) hx ?_ fun k => ?_ | skip)
    | with_reducible apply State.Keeps.ite
    | with_reducible apply State.linHeard_keeps
    | with_reducible apply goRun_keeps
    | with_reducible apply Out.Keeps.next
    | with_reducible apply Out.Keeps.refused
    | with_reducible apply Out.Keeps.fault
    | with_reducible apply Out.Keeps.ite
    | fail_if_no_progress (with_reducible apply State.Keeps.rest)
    | dsimp only
    | split

theorem State.linBad_keeps {s0 s : State} {c : Nat} {id : Nat} {res : Nat} {framing : Bool} (kept : s0.Keeps s) :
    s0.Keeps (State.linBad s c id res framing) := by
  unfold State.linBad
  repeat' first
    | with_reducible intro _
    | with_reducible assumption
    | with_reducible exact State.Keeps.refl _
    | (extract_lets +onlyGivenNames x; clear_value (hx : x = _); first | refine State.Keeps.local (s0 := s0) hx ?_ fun k => ?_ | skip)
    | with_reducible apply State.Keeps.ite
    | with_reducible apply State.linCollision_keeps
    | with_reducible apply State.slotError_keeps
    | with_reducible apply State.chCount_keeps
    | with_reducible apply State.modCh_keeps
    | with_reducible apply State.Keeps.id
    | fail_if_no_progress (with_reducible apply State.Keeps.rest)
    | dsimp only
    | split

theorem State.linResponse_keeps {s0 s : State} {c : Nat} {pid : Nat} {data : List Byte} {sum : Nat} {framing : Bool} {dom : Nat} {cls : Nat} {ago : Nat} (kept : s0.Keeps s) :
    s0.Keeps (State.linResponse s c pid data sum framing dom cls ago) := by
  unfold State.linResponse
  repeat' first
    | with_reducible intro _
    | with_reducible assumption
    | with_reducible exact State.Keeps.refl _
    | (extract_lets +onlyGivenNames x; clear_value (hx : x = _); first | refine State.Keeps.local (s0 := s0) hx ?_ fun k => ?_ | skip)
    | with_reducible apply State.Keeps.ite
    | with_reducible apply State.linBad_keeps
    | with_reducible apply State.goodFrame_keeps
    | with_reducible apply State.chCount_keeps
    | with_reducible apply State.modCh_keeps
    | with_reducible apply State.Keeps.id
    | fail_if_no_progress (with_reducible apply State.Keeps.rest)
    | dsimp only
    | split

theorem execLinFrameReceived_keeps {s0 s : State} {dt : Nat} {lin : Fin 24} {pid : Byte} {data : List Byte} {checksum : Byte} {framing : Bool} {domain : Fin 64} {cls : Fin 8} {ago : Nat} {errs : ReadErrs} (kept : s0.Keeps s) :
    Out.Keeps s0 (execLinFrameReceived dt lin pid data checksum framing domain cls ago errs s) := by
  unfold execLinFrameReceived
  repeat' first
    | with_reducible intro _
    | with_reducible assumption
    | with_reducible exact State.Keeps.refl _
    | (extract_lets +onlyGivenNames x; clear_value (hx : x = _); first | refine State.Keeps.local (s0 := s0) hx ?_ fun k => ?_ | skip)
    | with_reducible apply State.Keeps.ite
    | with_reducible apply State.linResponse_keeps
    | with_reducible apply goRun_keeps
    | with_reducible apply State.meetErrs_keeps
    | with_reducible apply Out.Keeps.next
    | with_reducible apply Out.Keeps.refused
    | with_reducible apply Out.Keeps.fault
    | with_reducible apply Out.Keeps.ite
    | fail_if_no_progress (with_reducible apply State.Keeps.rest)
    | dsimp only
    | split

theorem execLinInactivityTimeout_keeps {s0 s : State} {dt : Nat} {lin : Fin 24} (kept : s0.Keeps s) :
    Out.Keeps s0 (execLinInactivityTimeout dt lin s) := by
  unfold execLinInactivityTimeout
  repeat' first
    | with_reducible intro _
    | with_reducible assumption
    | with_reducible exact State.Keeps.refl _
    | (extract_lets +onlyGivenNames x; clear_value (hx : x = _); first | refine State.Keeps.local (s0 := s0) hx ?_ fun k => ?_ | skip)
    | with_reducible apply State.Keeps.ite
    | with_reducible apply goRun_keeps
    | with_reducible apply State.modCh_keeps
    | with_reducible apply Out.Keeps.next
    | with_reducible apply Out.Keeps.refused
    | with_reducible apply Out.Keeps.fault
    | with_reducible apply Out.Keeps.ite
    | fail_if_no_progress (with_reducible apply State.Keeps.rest)
    | dsimp only
    | split

end Sys2Proof.Machine
end

