-- ==== Sys2Proof/Laws/KeepsCmdGateway.lean ====
section
/-! SUPPORT. What the definitions of Machine/CmdGateway keep (`State.Keeps`). -/

set_option linter.unusedTactic false
set_option linter.unreachableTactic false

namespace Sys2Proof.Machine

theorem execGatewayJob_keeps {s0 s : State} {dt : Nat} {engine : Fin 4} (kept : s0.Keeps s) :
    Out.Keeps s0 (execGatewayJob dt engine s) := by
  unfold execGatewayJob
  repeat' first
    | with_reducible intro _
    | with_reducible assumption
    | with_reducible exact State.Keeps.refl _
    | (extract_lets +onlyGivenNames x; clear_value (hx : x = _); first | refine State.Keeps.local (s0 := s0) hx ?_ fun k => ?_ | skip)
    | with_reducible apply State.Keeps.ite
    | with_reducible apply goRun_keeps
    | with_reducible apply State.takeJob_keeps
    | with_reducible apply Out.Keeps.next
    | with_reducible apply Out.Keeps.refused
    | with_reducible apply Out.Keeps.fault
    | with_reducible apply Out.Keeps.ite
    | fail_if_no_progress (with_reducible apply State.Keeps.rest)
    | dsimp only
    | split

theorem execTimerWheelTick_keeps {s0 s : State} {dt : Nat} (kept : s0.Keeps s) :
    Out.Keeps s0 (execTimerWheelTick dt s) := by
  unfold execTimerWheelTick
  repeat' first
    | with_reducible intro _
    | with_reducible assumption
    | with_reducible exact State.Keeps.refl _
    | (extract_lets +onlyGivenNames x; clear_value (hx : x = _); first | refine State.Keeps.local (s0 := s0) hx ?_ fun k => ?_ | skip)
    | with_reducible apply State.Keeps.ite
    | with_reducible apply goRun_keeps
    | with_reducible apply State.withGw_keeps
    | with_reducible apply State.tick_keeps
    | with_reducible apply Out.Keeps.next
    | with_reducible apply Out.Keeps.refused
    | with_reducible apply Out.Keeps.fault
    | with_reducible apply Out.Keeps.ite
    | fail_if_no_progress (with_reducible apply State.Keeps.rest)
    | dsimp only
    | split

theorem execTransmissionTimer_keeps {s0 s : State} {dt : Nat} {rec_ : Fin 65536} (kept : s0.Keeps s) :
    Out.Keeps s0 (execTransmissionTimer dt rec_ s) := by
  unfold execTransmissionTimer
  repeat' first
    | with_reducible intro _
    | with_reducible assumption
    | with_reducible exact State.Keeps.refl _
    | (extract_lets +onlyGivenNames x; clear_value (hx : x = _); first | refine State.Keeps.local (s0 := s0) hx ?_ fun k => ?_ | skip)
    | with_reducible apply State.Keeps.ite
    | with_reducible apply goRun_keeps
    | with_reducible apply State.transmit_keeps
    | with_reducible apply Out.Keeps.next
    | with_reducible apply Out.Keeps.refused
    | with_reducible apply Out.Keeps.fault
    | with_reducible apply Out.Keeps.ite
    | fail_if_no_progress (with_reducible apply State.Keeps.rest)
    | dsimp only
    | split

theorem State.deadlineTick_keeps {s0 s : State} {n : Nat} (kept : s0.Keeps s) :
    s0.Keeps (State.deadlineTick s n) := by
  unfold State.deadlineTick
  repeat' first
    | with_reducible intro _
    | with_reducible assumption
    | with_reducible exact State.Keeps.refl _
    | (extract_lets +onlyGivenNames x; clear_value (hx : x = _); first | refine State.Keeps.local (s0 := s0) hx ?_ fun k => ?_ | skip)
    | with_reducible apply State.Keeps.ite
    | with_reducible apply State.deadlineOver_keeps
    | with_reducible apply State.tick_keeps
    | fail_if_no_progress (with_reducible apply State.Keeps.rest)
    | dsimp only
    | split

theorem execDeadlineTimeout_keeps {s0 s : State} {dt : Nat} {rec_ : Fin 65536} (kept : s0.Keeps s) :
    Out.Keeps s0 (execDeadlineTimeout dt rec_ s) := by
  unfold execDeadlineTimeout
  repeat' first
    | with_reducible intro _
    | with_reducible assumption
    | with_reducible exact State.Keeps.refl _
    | (extract_lets +onlyGivenNames x; clear_value (hx : x = _); first | refine State.Keeps.local (s0 := s0) hx ?_ fun k => ?_ | skip)
    | with_reducible apply State.Keeps.ite
    | with_reducible apply State.deadlineTick_keeps
    | with_reducible apply goRun_keeps
    | with_reducible apply Out.Keeps.next
    | with_reducible apply Out.Keeps.refused
    | with_reducible apply Out.Keeps.fault
    | with_reducible apply Out.Keeps.ite
    | fail_if_no_progress (with_reducible apply State.Keeps.rest)
    | dsimp only
    | split

theorem execTimerHandover_keeps {s0 s : State} {dt : Nat} {engine : Fin 4} (kept : s0.Keeps s) :
    Out.Keeps s0 (execTimerHandover dt engine s) := by
  unfold execTimerHandover
  repeat' first
    | with_reducible intro _
    | with_reducible assumption
    | with_reducible exact State.Keeps.refl _
    | (extract_lets +onlyGivenNames x; clear_value (hx : x = _); first | refine State.Keeps.local (s0 := s0) hx ?_ fun k => ?_ | skip)
    | with_reducible apply State.Keeps.ite
    | with_reducible apply goRun_keeps
    | with_reducible apply State.withGw_keeps
    | with_reducible apply Out.Keeps.next
    | with_reducible apply Out.Keeps.refused
    | with_reducible apply Out.Keeps.fault
    | with_reducible apply Out.Keeps.ite
    | fail_if_no_progress (with_reducible apply State.Keeps.rest)
    | dsimp only
    | split

theorem execGatewayEnable_keeps {s0 s : State} {dt : Nat} {sess : Nat} (kept : s0.Keeps s) :
    Out.Keeps s0 (execGatewayEnable dt sess s) := by
  unfold execGatewayEnable
  repeat' first
    | with_reducible intro _
    | with_reducible assumption
    | with_reducible exact State.Keeps.refl _
    | (extract_lets +onlyGivenNames x; clear_value (hx : x = _); first | refine State.Keeps.local (s0 := s0) hx ?_ fun k => ?_ | skip)
    | with_reducible apply State.Keeps.ite
    | with_reducible apply goWrite_keeps
    | with_reducible apply Out.Keeps.next
    | with_reducible apply Out.Keeps.refused
    | with_reducible apply Out.Keeps.fault
    | with_reducible apply Out.Keeps.ite
    | fail_if_no_progress (with_reducible apply State.Keeps.rest)
    | dsimp only
    | split

theorem execPduRecordWrite_keeps {s0 s : State} {dt : Nat} {sess : Nat} {rec_ : Fin 65536} {bytes : List Byte} (kept : s0.Keeps s) :
    Out.Keeps s0 (execPduRecordWrite dt sess rec_ bytes s) := by
  unfold execPduRecordWrite
  repeat' first
    | with_reducible intro _
    | with_reducible assumption
    | with_reducible exact State.Keeps.refl _
    | (extract_lets +onlyGivenNames x; clear_value (hx : x = _); first | refine State.Keeps.local (s0 := s0) hx ?_ fun k => ?_ | skip)
    | with_reducible apply State.Keeps.ite
    | with_reducible apply State.asks_keeps
    | with_reducible apply goOn_keeps
    | with_reducible apply Out.Keeps.next
    | with_reducible apply Out.Keeps.refused
    | with_reducible apply Out.Keeps.fault
    | with_reducible apply Out.Keeps.ite
    | fail_if_no_progress (with_reducible apply State.Keeps.rest)
    | dsimp only
    | split

theorem State.flushTimer_keeps {s0 s : State} {k : Nat} (kept : s0.Keeps s) :
    s0.Keeps (State.flushTimer s k) := by
  unfold State.flushTimer
  repeat' first
    | with_reducible intro _
    | with_reducible assumption
    | with_reducible exact State.Keeps.refl _
    | (extract_lets +onlyGivenNames x; clear_value (hx : x = _); first | refine State.Keeps.local (s0 := s0) hx ?_ fun k => ?_ | skip)
    | with_reducible apply State.Keeps.ite
    | with_reducible apply State.flushContainer_keeps
    | fail_if_no_progress (with_reducible apply State.Keeps.rest)
    | dsimp only
    | split

theorem execContainerFlushTimer_keeps {s0 s : State} {dt : Nat} {stream : Fin 256} (kept : s0.Keeps s) :
    Out.Keeps s0 (execContainerFlushTimer dt stream s) := by
  unfold execContainerFlushTimer
  repeat' first
    | with_reducible intro _
    | with_reducible assumption
    | with_reducible exact State.Keeps.refl _
    | (extract_lets +onlyGivenNames x; clear_value (hx : x = _); first | refine State.Keeps.local (s0 := s0) hx ?_ fun k => ?_ | skip)
    | with_reducible apply State.Keeps.ite
    | with_reducible apply State.flushTimer_keeps
    | with_reducible apply goRun_keeps
    | with_reducible apply Out.Keeps.next
    | with_reducible apply Out.Keeps.refused
    | with_reducible apply Out.Keeps.fault
    | with_reducible apply Out.Keeps.ite
    | fail_if_no_progress (with_reducible apply State.Keeps.rest)
    | dsimp only
    | split

theorem State.releaseEntry_keeps {s0 s : State} {carrier : Frame} {domain : Nat} {e : Nat × Nat × List Byte × Option Nat} (kept : s0.Keeps s) :
    s0.Keeps (State.releaseEntry s carrier domain e) := by
  unfold State.releaseEntry
  repeat' first
    | with_reducible intro _
    | with_reducible assumption
    | with_reducible exact State.Keeps.refl _
    | (extract_lets +onlyGivenNames x; clear_value (hx : x = _); first | refine State.Keeps.local (s0 := s0) hx ?_ fun k => ?_ | skip)
    | with_reducible apply State.Keeps.ite
    | with_reducible apply State.releaseFrame_keeps
    | with_reducible apply State.gwCount_keeps
    | with_reducible apply State.refuse_keeps
    | with_reducible apply State.Keeps.id
    | fail_if_no_progress (with_reducible apply State.Keeps.rest)
    | dsimp only
    | refine State.buildFrame_keeps ‹_ = some (_, _)› ?_
    | split

theorem State.releaseEntries_keeps {s0 s : State} {id : Nat} {carrier : Frame} {domain : Nat} {skipped : Nat} {l : List (Nat × Nat × List Byte × Option Nat)} (kept : s0.Keeps s) :
    s0.Keeps (State.releaseEntries s id carrier domain skipped l) := by
  unfold State.releaseEntries
  repeat' first
    | with_reducible intro _
    | with_reducible assumption
    | with_reducible exact State.Keeps.refl _
    | (extract_lets +onlyGivenNames x; clear_value (hx : x = _); first | refine State.Keeps.local (s0 := s0) hx ?_ fun k => ?_ | skip)
    | with_reducible apply State.Keeps.ite
    | with_reducible apply State.releaseEntry_keeps
    | with_reducible apply State.gwCount_keeps
    | with_reducible apply State.dropRef_keeps
    | with_reducible apply State.forEach_keeps
    | with_reducible apply State.Keeps.id
    | fail_if_no_progress (with_reducible apply State.Keeps.rest)
    | dsimp only
    | split

theorem State.openContainer_keeps {s0 s : State} (kept : s0.Keeps s) :
    s0.Keeps (State.openContainer s) := by
  unfold State.openContainer
  repeat' first
    | with_reducible intro _
    | with_reducible assumption
    | with_reducible exact State.Keeps.refl _
    | (extract_lets +onlyGivenNames x; clear_value (hx : x = _); first | refine State.Keeps.local (s0 := s0) hx ?_ fun k => ?_ | skip)
    | with_reducible apply State.Keeps.ite
    | with_reducible apply State.releaseEntries_keeps
    | with_reducible apply State.followSeq_keeps
    | with_reducible apply State.badContainer_keeps
    | with_reducible apply State.withGw_keeps
    | with_reducible apply State.refuseCopy_keeps
    | with_reducible apply State.Keeps.id
    | fail_if_no_progress (with_reducible apply State.Keeps.rest)
    | dsimp only
    | split

theorem execContainerReceived_keeps {s0 s : State} {dt : Nat} (kept : s0.Keeps s) :
    Out.Keeps s0 (execContainerReceived dt s) := by
  unfold execContainerReceived
  repeat' first
    | with_reducible intro _
    | with_reducible assumption
    | with_reducible exact State.Keeps.refl _
    | (extract_lets +onlyGivenNames x; clear_value (hx : x = _); first | refine State.Keeps.local (s0 := s0) hx ?_ fun k => ?_ | skip)
    | with_reducible apply State.Keeps.ite
    | with_reducible apply State.openContainer_keeps
    | with_reducible apply goRun_keeps
    | with_reducible apply Out.Keeps.next
    | with_reducible apply Out.Keeps.refused
    | with_reducible apply Out.Keeps.fault
    | with_reducible apply Out.Keeps.ite
    | fail_if_no_progress (with_reducible apply State.Keeps.rest)
    | dsimp only
    | split

end Sys2Proof.Machine
end

