-- ==== Sys2Proof/Laws/KeepsCmdSecurity.lean ====
section
/-! SUPPORT. What the definitions of Machine/CmdSecurity keep (`State.Keeps`). -/

set_option linter.unusedTactic false
set_option linter.unreachableTactic false

namespace Sys2Proof.Machine

theorem execShadowRuleWrite_keeps {s0 s : State} {dt : Nat} {sess : Nat} {window : Fin 3} {off : Nat} {bytes : List Byte} (kept : s0.Keeps s) :
    Out.Keeps s0 (execShadowRuleWrite dt sess window off bytes s) := by
  unfold execShadowRuleWrite
  repeat' first
    | with_reducible intro _
    | with_reducible assumption
    | with_reducible exact State.Keeps.refl _
    | (extract_lets +onlyGivenNames x; clear_value (hx : x = _); first | refine State.Keeps.local (s0 := s0) hx ?_ fun k => ?_ | skip)
    | with_reducible apply State.Keeps.ite
    | with_reducible apply State.asks_keeps
    | with_reducible apply goOn_keeps
    | with_reducible apply Out.Keeps.next
    | with_reducible apply Out.Keeps.refused
    | with_reducible apply Out.Keeps.fault
    | with_reducible apply Out.Keeps.ite
    | fail_if_no_progress (with_reducible apply State.Keeps.rest)
    | dsimp only
    | split

theorem execCopyToShadow_keeps {s0 s : State} {dt : Nat} {sess : Nat} (kept : s0.Keeps s) :
    Out.Keeps s0 (execCopyToShadow dt sess s) := by
  unfold execCopyToShadow
  repeat' first
    | with_reducible intro _
    | with_reducible assumption
    | with_reducible exact State.Keeps.refl _
    | (extract_lets +onlyGivenNames x; clear_value (hx : x = _); first | refine State.Keeps.local (s0 := s0) hx ?_ fun k => ?_ | skip)
    | with_reducible apply State.Keeps.ite
    | with_reducible apply goWrite_keeps
    | with_reducible apply Out.Keeps.next
    | with_reducible apply Out.Keeps.refused
    | with_reducible apply Out.Keeps.fault
    | with_reducible apply Out.Keeps.ite
    | fail_if_no_progress (with_reducible apply State.Keeps.rest)
    | dsimp only
    | split

theorem execCopyToShadowDone_keeps {s0 s : State} {dt : Nat} (kept : s0.Keeps s) :
    Out.Keeps s0 (execCopyToShadowDone dt s) := by
  unfold execCopyToShadowDone
  repeat' first
    | with_reducible intro _
    | with_reducible assumption
    | with_reducible exact State.Keeps.refl _
    | (extract_lets +onlyGivenNames x; clear_value (hx : x = _); first | refine State.Keeps.local (s0 := s0) hx ?_ fun k => ?_ | skip)
    | with_reducible apply State.Keeps.ite
    | with_reducible apply goRun_keeps
    | with_reducible apply State.fwCopyDone_keeps
    | with_reducible apply Out.Keeps.next
    | with_reducible apply Out.Keeps.refused
    | with_reducible apply Out.Keeps.fault
    | with_reducible apply Out.Keeps.ite
    | fail_if_no_progress (with_reducible apply State.Keeps.rest)
    | dsimp only
    | split

theorem execSwap_keeps {s0 s : State} {dt : Nat} {sess : Nat} (kept : s0.Keeps s) :
    Out.Keeps s0 (execSwap dt sess s) := by
  unfold execSwap
  repeat' first
    | with_reducible intro _
    | with_reducible assumption
    | with_reducible exact State.Keeps.refl _
    | (extract_lets +onlyGivenNames x; clear_value (hx : x = _); first | refine State.Keeps.local (s0 := s0) hx ?_ fun k => ?_ | skip)
    | with_reducible apply State.Keeps.ite
    | with_reducible apply goWrite_keeps
    | with_reducible apply Out.Keeps.next
    | with_reducible apply Out.Keeps.refused
    | with_reducible apply Out.Keeps.fault
    | with_reducible apply Out.Keeps.ite
    | fail_if_no_progress (with_reducible apply State.Keeps.rest)
    | dsimp only
    | split

theorem execRuleScrub_keeps {s0 s : State} {dt : Nat} {errs : ReadErrs} (kept : s0.Keeps s) :
    Out.Keeps s0 (execRuleScrub dt errs s) := by
  unfold execRuleScrub
  repeat' first
    | with_reducible intro _
    | with_reducible assumption
    | with_reducible exact State.Keeps.refl _
    | (extract_lets +onlyGivenNames x; clear_value (hx : x = _); first | refine State.Keeps.local (s0 := s0) hx ?_ fun k => ?_ | skip)
    | with_reducible apply State.Keeps.ite
    | with_reducible apply goRun_keeps
    | with_reducible apply State.meetErrs_keeps
    | with_reducible apply State.readRules_keeps
    | with_reducible apply Out.Keeps.next
    | with_reducible apply Out.Keeps.refused
    | with_reducible apply Out.Keeps.fault
    | with_reducible apply Out.Keeps.ite
    | fail_if_no_progress (with_reducible apply State.Keeps.rest)
    | dsimp only
    | split

theorem State.ageHeld_keeps {s0 s : State} {id : Nat} (kept : s0.Keeps s) :
    s0.Keeps (State.ageHeld s id) := by
  unfold State.ageHeld
  repeat' first
    | with_reducible intro _
    | with_reducible assumption
    | with_reducible exact State.Keeps.refl _
    | (extract_lets +onlyGivenNames x; clear_value (hx : x = _); first | refine State.Keeps.local (s0 := s0) hx ?_ fun k => ?_ | skip)
    | with_reducible apply State.Keeps.ite
    | with_reducible apply State.withFw_keeps
    | with_reducible apply State.dropRef_keeps
    | with_reducible apply State.refuse_keeps
    | with_reducible apply State.probeDrop_keeps
    | with_reducible apply State.Keeps.id
    | fail_if_no_progress (with_reducible apply State.Keeps.rest)
    | dsimp only
    | split

theorem State.verifyEnds_keeps {s0 s : State} {o : CryptoOp} {ctxError : Bool} (kept : s0.Keeps s) :
    s0.Keeps (State.verifyEnds s o ctxError) := by
  unfold State.verifyEnds
  repeat' first
    | with_reducible intro _
    | with_reducible assumption
    | with_reducible exact State.Keeps.refl _
    | (extract_lets +onlyGivenNames x; clear_value (hx : x = _); first | refine State.Keeps.local (s0 := s0) hx ?_ fun k => ?_ | skip)
    | with_reducible apply State.Keeps.ite
    | with_reducible apply State.ageHeld_keeps
    | with_reducible apply State.passHeld_keeps
    | with_reducible apply State.dropOp_keeps
    | with_reducible apply State.recPass_keeps
    | with_reducible apply State.recFail_keeps
    | with_reducible apply State.failEvent_keeps
    | with_reducible apply State.setFlag_keeps
    | with_reducible apply State.refuseHeld_keeps
    | with_reducible apply State.setWinLe_keeps
    | fail_if_no_progress (with_reducible apply State.Keeps.rest)
    | dsimp only
    | split

theorem State.onEngine_keeps {s0 s : State} {k : Nat} {e : Nat} {f : State → CryptoOp → State} (kept : s0.Keeps s) (hf : ∀ u a, s0.Keeps u → s0.Keeps (f u a)) :
    s0.Keeps (State.onEngine s k e f) := by
  unfold State.onEngine
  repeat' first
    | with_reducible intro _
    | with_reducible assumption
    | with_reducible exact State.Keeps.refl _
    | (extract_lets +onlyGivenNames x; clear_value (hx : x = _); first | refine State.Keeps.local (s0 := s0) hx ?_ fun k => ?_ | skip)
    | with_reducible apply State.Keeps.ite
    | with_reducible apply hf
    | fail_if_no_progress (with_reducible apply State.Keeps.rest)
    | dsimp only
    | split

theorem execAuthenticatorVerifyDone_keeps {s0 s : State} {dt : Nat} {cluster : Fin 5} {engine : Fin 16} {ctxError : Bool} (kept : s0.Keeps s) :
    Out.Keeps s0 (execAuthenticatorVerifyDone dt cluster engine ctxError s) := by
  unfold execAuthenticatorVerifyDone
  repeat' first
    | with_reducible intro _
    | with_reducible assumption
    | with_reducible exact State.Keeps.refl _
    | (extract_lets +onlyGivenNames x; clear_value (hx : x = _); first | refine State.Keeps.local (s0 := s0) hx ?_ fun k => ?_ | skip)
    | with_reducible apply State.Keeps.ite
    | with_reducible apply State.onEngine_keeps
    | with_reducible apply State.verifyEnds_keeps
    | with_reducible apply goRun_keeps
    | with_reducible apply Out.Keeps.next
    | with_reducible apply Out.Keeps.refused
    | with_reducible apply Out.Keeps.fault
    | with_reducible apply Out.Keeps.ite
    | fail_if_no_progress (with_reducible apply State.Keeps.rest)
    | dsimp only
    | split

theorem State.rxFails_keeps {s0 s : State} {o : CryptoOp} (kept : s0.Keeps s) :
    s0.Keeps (State.rxFails s o) := by
  unfold State.rxFails
  repeat' first
    | with_reducible intro _
    | with_reducible assumption
    | with_reducible exact State.Keeps.refl _
    | (extract_lets +onlyGivenNames x; clear_value (hx : x = _); first | refine State.Keeps.local (s0 := s0) hx ?_ fun k => ?_ | skip)
    | with_reducible apply State.Keeps.ite
    | with_reducible apply State.secCount_keeps
    | with_reducible apply State.recFail_keeps
    | with_reducible apply State.failEvent_keeps
    | with_reducible apply State.eraseFrame_keeps
    | fail_if_no_progress (with_reducible apply State.Keeps.rest)
    | dsimp only
    | split

theorem State.rxOpened_keeps {s0 s : State} {o : CryptoOp} {f : Frame} {bs : List Byte} (kept : s0.Keeps s) :
    s0.Keeps (State.rxOpened s o f bs) := by
  unfold State.rxOpened
  repeat' first
    | with_reducible intro _
    | with_reducible assumption
    | with_reducible exact State.Keeps.refl _
    | (extract_lets +onlyGivenNames x; clear_value (hx : x = _); first | refine State.Keeps.local (s0 := s0) hx ?_ fun k => ?_ | skip)
    | with_reducible apply State.Keeps.ite
    | with_reducible apply State.arrive_keeps
    | with_reducible apply State.countOverflow_keeps
    | with_reducible apply State.recPass_keeps
    | with_reducible apply State.eraseFrame_keeps
    | with_reducible apply State.modFrame_keeps
    | with_reducible apply State.Keeps.id
    | fail_if_no_progress (with_reducible apply State.Keeps.rest)
    | dsimp only
    | refine State.buildFrame_keeps ‹_ = some (_, _)› ?_
    | split

theorem State.macsecOpened_keeps {s0 s : State} {o : CryptoOp} {f : Frame} {ctxError : Bool} (kept : s0.Keeps s) :
    s0.Keeps (State.macsecOpened s o f ctxError) := by
  unfold State.macsecOpened
  repeat' first
    | with_reducible intro _
    | with_reducible assumption
    | with_reducible exact State.Keeps.refl _
    | (extract_lets +onlyGivenNames x; clear_value (hx : x = _); first | refine State.Keeps.local (s0 := s0) hx ?_ fun k => ?_ | skip)
    | with_reducible apply State.Keeps.ite
    | with_reducible apply State.ptpStamp_keeps
    | with_reducible apply State.rxOpened_keeps
    | with_reducible apply State.rxFails_keeps
    | with_reducible apply State.setWinLe_keeps
    | fail_if_no_progress (with_reducible apply State.Keeps.rest)
    | dsimp only
    | split

theorem State.cansecOpened_keeps {s0 s : State} {o : CryptoOp} {f : Frame} {ctxError : Bool} (kept : s0.Keeps s) :
    s0.Keeps (State.cansecOpened s o f ctxError) := by
  unfold State.cansecOpened
  repeat' first
    | with_reducible intro _
    | with_reducible assumption
    | with_reducible exact State.Keeps.refl _
    | (extract_lets +onlyGivenNames x; clear_value (hx : x = _); first | refine State.Keeps.local (s0 := s0) hx ?_ fun k => ?_ | (have g := State.regs x.2; clear g; subst hx) | skip)
    | with_reducible apply State.Keeps.ite
    | with_reducible apply State.rxOpened_keeps
    | with_reducible apply State.rxFails_keeps
    | with_reducible apply State.takeRx_keeps
    | with_reducible apply State.setWinLe_keeps
    | fail_if_no_progress (with_reducible apply State.Keeps.rest)
    | dsimp only
    | refine State.Keeps.of_snd ‹_ = (_, _)› ?_
    | split

theorem State.txReady_keeps {s0 s : State} {o : CryptoOp} {bs : List Byte} (kept : s0.Keeps s) :
    s0.Keeps (State.txReady s o bs) := by
  unfold State.txReady
  repeat' first
    | with_reducible intro _
    | with_reducible assumption
    | with_reducible exact State.Keeps.refl _
    | (extract_lets +onlyGivenNames x; clear_value (hx : x = _); first | refine State.Keeps.local (s0 := s0) hx ?_ fun k => ?_ | skip)
    | with_reducible apply State.Keeps.ite
    | with_reducible apply State.modItem_keeps
    | with_reducible apply State.recPass_keeps
    | with_reducible apply State.probeStep_keeps
    | fail_if_no_progress (with_reducible apply State.Keeps.rest)
    | dsimp only
    | split

theorem State.txEnds_keeps {s0 s : State} {o : CryptoOp} {f : Frame} (kept : s0.Keeps s) :
    s0.Keeps (State.txEnds s o f) := by
  unfold State.txEnds
  repeat' first
    | with_reducible intro _
    | with_reducible assumption
    | with_reducible exact State.Keeps.refl _
    | (extract_lets +onlyGivenNames x; clear_value (hx : x = _); first | refine State.Keeps.local (s0 := s0) hx ?_ fun k => ?_ | skip)
    | with_reducible apply State.Keeps.ite
    | with_reducible apply State.txReady_keeps
    | with_reducible apply State.discardItem_keeps
    | with_reducible apply State.secCount_keeps
    | with_reducible apply State.recFail_keeps
    | fail_if_no_progress (with_reducible apply State.Keeps.rest)
    | dsimp only
    | split

theorem State.opEnds_keeps {s0 s : State} {o : CryptoOp} {ctxError : Bool} (kept : s0.Keeps s) :
    s0.Keeps (State.opEnds s o ctxError) := by
  unfold State.opEnds
  repeat' first
    | with_reducible intro _
    | with_reducible assumption
    | with_reducible exact State.Keeps.refl _
    | (extract_lets +onlyGivenNames x; clear_value (hx : x = _); first | refine State.Keeps.local (s0 := s0) hx ?_ fun k => ?_ | skip)
    | with_reducible apply State.Keeps.ite
    | with_reducible apply State.txEnds_keeps
    | with_reducible apply State.cansecOpened_keeps
    | with_reducible apply State.macsecOpened_keeps
    | with_reducible apply State.verifyEnds_keeps
    | with_reducible apply State.abortContext_keeps
    | with_reducible apply State.dropOp_keeps
    | fail_if_no_progress (with_reducible apply State.Keeps.rest)
    | dsimp only
    | split

theorem execCryptoOperationEnd_keeps {s0 s : State} {dt : Nat} {cluster : Fin 5} {engine : Fin 16} {ctxError : Bool} (kept : s0.Keeps s) :
    Out.Keeps s0 (execCryptoOperationEnd dt cluster engine ctxError s) := by
  unfold execCryptoOperationEnd
  repeat' first
    | with_reducible intro _
    | with_reducible assumption
    | with_reducible exact State.Keeps.refl _
    | (extract_lets +onlyGivenNames x; clear_value (hx : x = _); first | refine State.Keeps.local (s0 := s0) hx ?_ fun k => ?_ | skip)
    | with_reducible apply State.Keeps.ite
    | with_reducible apply State.opEnds_keeps
    | with_reducible apply State.onEngine_keeps
    | with_reducible apply goRun_keeps
    | with_reducible apply Out.Keeps.next
    | with_reducible apply Out.Keeps.refused
    | with_reducible apply Out.Keeps.fault
    | with_reducible apply Out.Keeps.ite
    | fail_if_no_progress (with_reducible apply State.Keeps.rest)
    | dsimp only
    | split

theorem execSuspendedResume_keeps {s0 s : State} {dt : Nat} {cluster : Fin 5} {engine : Fin 16} (kept : s0.Keeps s) :
    Out.Keeps s0 (execSuspendedResume dt cluster engine s) := by
  unfold execSuspendedResume
  repeat' first
    | with_reducible intro _
    | with_reducible assumption
    | with_reducible exact State.Keeps.refl _
    | (extract_lets +onlyGivenNames x; clear_value (hx : x = _); first | refine State.Keeps.local (s0 := s0) hx ?_ fun k => ?_ | skip)
    | with_reducible apply State.Keeps.ite
    | with_reducible apply goRun_keeps
    | with_reducible apply State.resumeOp_keeps
    | with_reducible apply Out.Keeps.next
    | with_reducible apply Out.Keeps.refused
    | with_reducible apply Out.Keeps.fault
    | with_reducible apply Out.Keeps.ite
    | fail_if_no_progress (with_reducible apply State.Keeps.rest)
    | dsimp only
    | split

theorem State.derived_keeps {s0 s : State} {k : Nat} (kept : s0.Keeps s) :
    s0.Keeps (State.derived s k) := by
  unfold State.derived
  repeat' first
    | with_reducible intro _
    | with_reducible assumption
    | with_reducible exact State.Keeps.refl _
    | (extract_lets +onlyGivenNames x; clear_value (hx : x = _); first | refine State.Keeps.local (s0 := s0) hx ?_ fun k => ?_ | skip)
    | with_reducible apply State.Keeps.ite
    | with_reducible apply State.setFlag_keeps
    | with_reducible apply State.withCrypto_keeps
    | with_reducible apply State.bump_keeps
    | with_reducible apply State.Keeps.id
    | fail_if_no_progress (with_reducible apply State.Keeps.rest)
    | dsimp only
    | split

theorem execKeyDerivationDone_keeps {s0 s : State} {dt : Nat} {cluster : Fin 5} (kept : s0.Keeps s) :
    Out.Keeps s0 (execKeyDerivationDone dt cluster s) := by
  unfold execKeyDerivationDone
  repeat' first
    | with_reducible intro _
    | with_reducible assumption
    | with_reducible exact State.Keeps.refl _
    | (extract_lets +onlyGivenNames x; clear_value (hx : x = _); first | refine State.Keeps.local (s0 := s0) hx ?_ fun k => ?_ | skip)
    | with_reducible apply State.Keeps.ite
    | with_reducible apply State.derived_keeps
    | with_reducible apply goOn_keeps
    | with_reducible apply Out.Keeps.next
    | with_reducible apply Out.Keeps.refused
    | with_reducible apply Out.Keeps.fault
    | with_reducible apply Out.Keeps.ite
    | fail_if_no_progress (with_reducible apply State.Keeps.rest)
    | dsimp only
    | split

theorem State.freshnessCommit_keeps {s0 s : State} (kept : s0.Keeps s) :
    s0.Keeps (State.freshnessCommit s) := by
  unfold State.freshnessCommit
  repeat' first
    | with_reducible intro _
    | with_reducible assumption
    | with_reducible exact State.Keeps.refl _
    | (extract_lets +onlyGivenNames x; clear_value (hx : x = _); first | refine State.Keeps.local (s0 := s0) hx ?_ fun k => ?_ | skip)
    | with_reducible apply State.Keeps.ite
    | with_reducible apply State.brownOut_keeps
    | with_reducible apply State.commitFresh_keeps
    | with_reducible apply State.withKey_keeps
    | with_reducible apply State.forEach_keeps
    | fail_if_no_progress (with_reducible apply State.Keeps.rest)
    | dsimp only
    | split

theorem execFreshnessCommit_keeps {s0 s : State} {dt : Nat} (kept : s0.Keeps s) :
    Out.Keeps s0 (execFreshnessCommit dt s) := by
  unfold execFreshnessCommit
  repeat' first
    | with_reducible intro _
    | with_reducible assumption
    | with_reducible exact State.Keeps.refl _
    | (extract_lets +onlyGivenNames x; clear_value (hx : x = _); first | refine State.Keeps.local (s0 := s0) hx ?_ fun k => ?_ | skip)
    | with_reducible apply State.Keeps.ite
    | with_reducible apply State.freshnessCommit_keeps
    | with_reducible apply goOn_keeps
    | with_reducible apply Out.Keeps.next
    | with_reducible apply Out.Keeps.refused
    | with_reducible apply Out.Keeps.fault
    | with_reducible apply Out.Keeps.ite
    | fail_if_no_progress (with_reducible apply State.Keeps.rest)
    | dsimp only
    | split

end Sys2Proof.Machine
end

