-- ==== Sys2Proof/Laws/KeepsCmdHost.lean ====
section
/-! SUPPORT. What the definitions of Machine/CmdHost keep (`State.Keeps`). -/

set_option linter.unusedTactic false
set_option linter.unreachableTactic false

namespace Sys2Proof.Machine

theorem goBridge_keeps {s0 s : State} {dt : Nat} {f : State → State} (kept : s0.Keeps s) (hf : ∀ u, s0.Keeps u → s0.Keeps (f u)) :
    Out.Keeps s0 (goBridge dt f s) := by
  unfold goBridge
  repeat' first
    | with_reducible intro _
    | with_reducible assumption
    | with_reducible exact State.Keeps.refl _
    | (extract_lets +onlyGivenNames x; clear_value (hx : x = _); first | refine State.Keeps.local (s0 := s0) hx ?_ fun k => ?_ | skip)
    | with_reducible apply State.Keeps.ite
    | with_reducible apply hf
    | with_reducible apply goOn_keeps
    | with_reducible apply Out.Keeps.next
    | with_reducible apply Out.Keeps.refused
    | with_reducible apply Out.Keeps.fault
    | with_reducible apply Out.Keeps.ite
    | fail_if_no_progress (with_reducible apply State.Keeps.rest)
    | dsimp only
    | split

theorem goHost_keeps {s0 s : State} {dt : Nat} {f : State → State} (kept : s0.Keeps s) (hf : ∀ u, s0.Keeps u → s0.Keeps (f u)) :
    Out.Keeps s0 (goHost dt f s) := by
  unfold goHost
  repeat' first
    | with_reducible intro _
    | with_reducible assumption
    | with_reducible exact State.Keeps.refl _
    | (extract_lets +onlyGivenNames x; clear_value (hx : x = _); first | refine State.Keeps.local (s0 := s0) hx ?_ fun k => ?_ | skip)
    | with_reducible apply State.Keeps.ite
    | with_reducible apply hf
    | with_reducible apply goBridge_keeps
    | with_reducible apply Out.Keeps.next
    | with_reducible apply Out.Keeps.refused
    | with_reducible apply Out.Keeps.fault
    | with_reducible apply Out.Keeps.ite
    | fail_if_no_progress (with_reducible apply State.Keeps.rest)
    | dsimp only
    | split

theorem execPciePerst_keeps {s0 s : State} {dt : Nat} (kept : s0.Keeps s) :
    Out.Keeps s0 (execPciePerst dt s) := by
  unfold execPciePerst
  repeat' first
    | with_reducible intro _
    | with_reducible assumption
    | with_reducible exact State.Keeps.refl _
    | (extract_lets +onlyGivenNames x; clear_value (hx : x = _); first | refine State.Keeps.local (s0 := s0) hx ?_ fun k => ?_ | skip)
    | with_reducible apply State.Keeps.ite
    | with_reducible apply goBridge_keeps
    | with_reducible apply State.bridgeReset_keeps
    | with_reducible apply Out.Keeps.next
    | with_reducible apply Out.Keeps.refused
    | with_reducible apply Out.Keeps.fault
    | with_reducible apply Out.Keeps.ite
    | fail_if_no_progress (with_reducible apply State.Keeps.rest)
    | dsimp only
    | split

theorem execFunctionLevelReset_keeps {s0 s : State} {dt : Nat} (kept : s0.Keeps s) :
    Out.Keeps s0 (execFunctionLevelReset dt s) := by
  unfold execFunctionLevelReset
  repeat' first
    | with_reducible intro _
    | with_reducible assumption
    | with_reducible exact State.Keeps.refl _
    | (extract_lets +onlyGivenNames x; clear_value (hx : x = _); first | refine State.Keeps.local (s0 := s0) hx ?_ fun k => ?_ | skip)
    | with_reducible apply State.Keeps.ite
    | with_reducible apply goHost_keeps
    | with_reducible apply State.bridgeReset_keeps
    | with_reducible apply Out.Keeps.next
    | with_reducible apply Out.Keeps.refused
    | with_reducible apply Out.Keeps.fault
    | with_reducible apply Out.Keeps.ite
    | fail_if_no_progress (with_reducible apply State.Keeps.rest)
    | dsimp only
    | split

theorem State.linkChange_keeps {s0 s : State} {up : Bool} {speed : Fin 4} {width : Fin 3} (kept : s0.Keeps s) :
    s0.Keeps (State.linkChange s up speed width) := by
  unfold State.linkChange
  repeat' first
    | with_reducible intro _
    | with_reducible assumption
    | with_reducible exact State.Keeps.refl _
    | (extract_lets +onlyGivenNames x; clear_value (hx : x = _); first | refine State.Keeps.local (s0 := s0) hx ?_ fun k => ?_ | skip)
    | with_reducible apply State.Keeps.ite
    | with_reducible apply State.pcieLink_keeps
    | fail_if_no_progress (with_reducible apply State.Keeps.rest)
    | dsimp only
    | split

theorem execPcieLinkChange_keeps {s0 s : State} {dt : Nat} {up : Bool} {speed : Fin 4} {width : Fin 3} (kept : s0.Keeps s) :
    Out.Keeps s0 (execPcieLinkChange dt up speed width s) := by
  unfold execPcieLinkChange
  repeat' first
    | with_reducible intro _
    | with_reducible assumption
    | with_reducible exact State.Keeps.refl _
    | (extract_lets +onlyGivenNames x; clear_value (hx : x = _); first | refine State.Keeps.local (s0 := s0) hx ?_ fun k => ?_ | skip)
    | with_reducible apply State.Keeps.ite
    | with_reducible apply State.linkChange_keeps
    | with_reducible apply goBridge_keeps
    | with_reducible apply Out.Keeps.next
    | with_reducible apply Out.Keeps.refused
    | with_reducible apply Out.Keeps.fault
    | with_reducible apply Out.Keeps.ite
    | fail_if_no_progress (with_reducible apply State.Keeps.rest)
    | dsimp only
    | split

theorem execBar0Read_keeps {s0 s : State} {dt : Nat} {off : BitVec 28} {len : Nat} {tag : Fin 1024} {answered : Bool} (kept : s0.Keeps s) :
    Out.Keeps s0 (execBar0Read dt off len tag answered s) := by
  unfold execBar0Read
  repeat' first
    | with_reducible intro _
    | with_reducible assumption
    | with_reducible exact State.Keeps.refl _
    | (extract_lets +onlyGivenNames x; clear_value (hx : x = _); first | refine State.Keeps.local (s0 := s0) hx ?_ fun k => ?_ | skip)
    | with_reducible apply State.Keeps.ite
    | with_reducible apply goHost_keeps
    | with_reducible apply State.bar0Read_keeps
    | with_reducible apply Out.Keeps.next
    | with_reducible apply Out.Keeps.refused
    | with_reducible apply Out.Keeps.fault
    | with_reducible apply Out.Keeps.ite
    | fail_if_no_progress (with_reducible apply State.Keeps.rest)
    | dsimp only
    | split

theorem execBar0Write_keeps {s0 s : State} {dt : Nat} {off : BitVec 28} {data : List Byte} {poisoned : Bool} (kept : s0.Keeps s) :
    Out.Keeps s0 (execBar0Write dt off data poisoned s) := by
  unfold execBar0Write
  repeat' first
    | with_reducible intro _
    | with_reducible assumption
    | with_reducible exact State.Keeps.refl _
    | (extract_lets +onlyGivenNames x; clear_value (hx : x = _); first | refine State.Keeps.local (s0 := s0) hx ?_ fun k => ?_ | skip)
    | with_reducible apply State.Keeps.ite
    | with_reducible apply goHost_keeps
    | with_reducible apply State.bar0Write_keeps
    | with_reducible apply Out.Keeps.next
    | with_reducible apply Out.Keeps.refused
    | with_reducible apply Out.Keeps.fault
    | with_reducible apply Out.Keeps.ite
    | fail_if_no_progress (with_reducible apply State.Keeps.rest)
    | dsimp only
    | split

theorem execDelayedReadTimeout_keeps {s0 s : State} {dt : Nat} {tag : Fin 1024} {late : Bool} (kept : s0.Keeps s) :
    Out.Keeps s0 (execDelayedReadTimeout dt tag late s) := by
  unfold execDelayedReadTimeout
  repeat' first
    | with_reducible intro _
    | with_reducible assumption
    | with_reducible exact State.Keeps.refl _
    | (extract_lets +onlyGivenNames x; clear_value (hx : x = _); first | refine State.Keeps.local (s0 := s0) hx ?_ fun k => ?_ | skip)
    | with_reducible apply State.Keeps.ite
    | with_reducible apply goBridge_keeps
    | with_reducible apply State.readTimeout_keeps
    | with_reducible apply Out.Keeps.next
    | with_reducible apply Out.Keeps.refused
    | with_reducible apply Out.Keeps.fault
    | with_reducible apply Out.Keeps.ite
    | fail_if_no_progress (with_reducible apply State.Keeps.rest)
    | dsimp only
    | split

theorem execWindowAccess_keeps {s0 s : State} {dt : Nat} {w : Fin 16} {off : BitVec 24} {write : Bool} {len : Nat} {tag : Fin 1024} {data : List Byte} {poisoned : Bool} (kept : s0.Keeps s) :
    Out.Keeps s0 (execWindowAccess dt w off write len tag data poisoned s) := by
  unfold execWindowAccess
  repeat' first
    | with_reducible intro _
    | with_reducible assumption
    | with_reducible exact State.Keeps.refl _
    | (extract_lets +onlyGivenNames x; clear_value (hx : x = _); first | refine State.Keeps.local (s0 := s0) hx ?_ fun k => ?_ | skip)
    | with_reducible apply State.Keeps.ite
    | with_reducible apply goHost_keeps
    | with_reducible apply State.windowAccess_keeps
    | with_reducible apply State.write_keeps
    | with_reducible apply Out.Keeps.next
    | with_reducible apply Out.Keeps.refused
    | with_reducible apply Out.Keeps.fault
    | with_reducible apply Out.Keeps.ite
    | fail_if_no_progress (with_reducible apply State.Keeps.rest)
    | dsimp only
    | refine State.Keeps.of_snd ‹_ = (_, _)› ?_
    | split

theorem execTranslationWindowWrite_keeps {s0 s : State} {dt : Nat} {sess : Nat} {w : Fin 16} {bytes : List Byte} (kept : s0.Keeps s) :
    Out.Keeps s0 (execTranslationWindowWrite dt sess w bytes s) := by
  unfold execTranslationWindowWrite
  repeat' first
    | with_reducible intro _
    | with_reducible assumption
    | with_reducible exact State.Keeps.refl _
    | (extract_lets +onlyGivenNames x; clear_value (hx : x = _); first | refine State.Keeps.local (s0 := s0) hx ?_ fun k => ?_ | skip)
    | with_reducible apply State.Keeps.ite
    | with_reducible apply State.asks_keeps
    | with_reducible apply goOn_keeps
    | with_reducible apply Out.Keeps.next
    | with_reducible apply Out.Keeps.refused
    | with_reducible apply Out.Keeps.fault
    | with_reducible apply Out.Keeps.ite
    | fail_if_no_progress (with_reducible apply State.Keeps.rest)
    | dsimp only
    | split

theorem execPrefetchAgeExpiry_keeps {s0 s : State} {dt : Nat} {w : Fin 16} (kept : s0.Keeps s) :
    Out.Keeps s0 (execPrefetchAgeExpiry dt w s) := by
  unfold execPrefetchAgeExpiry
  repeat' first
    | with_reducible intro _
    | with_reducible assumption
    | with_reducible exact State.Keeps.refl _
    | (extract_lets +onlyGivenNames x; clear_value (hx : x = _); first | refine State.Keeps.local (s0 := s0) hx ?_ fun k => ?_ | skip)
    | with_reducible apply State.Keeps.ite
    | with_reducible apply goBridge_keeps
    | with_reducible apply State.agePrefetch_keeps
    | with_reducible apply Out.Keeps.next
    | with_reducible apply Out.Keeps.refused
    | with_reducible apply Out.Keeps.fault
    | with_reducible apply Out.Keeps.ite
    | fail_if_no_progress (with_reducible apply State.Keeps.rest)
    | dsimp only
    | split

theorem execQueueWindowRead_keeps {s0 s : State} {dt : Nat} {off : BitVec 12} {len : Nat} {tag : Fin 1024} (kept : s0.Keeps s) :
    Out.Keeps s0 (execQueueWindowRead dt off len tag s) := by
  unfold execQueueWindowRead
  repeat' first
    | with_reducible intro _
    | with_reducible assumption
    | with_reducible exact State.Keeps.refl _
    | (extract_lets +onlyGivenNames x; clear_value (hx : x = _); first | refine State.Keeps.local (s0 := s0) hx ?_ fun k => ?_ | skip)
    | with_reducible apply State.Keeps.ite
    | with_reducible apply goHost_keeps
    | with_reducible apply State.queueRead_keeps
    | with_reducible apply State.badRead_keeps
    | with_reducible apply Out.Keeps.next
    | with_reducible apply Out.Keeps.refused
    | with_reducible apply Out.Keeps.fault
    | with_reducible apply Out.Keeps.ite
    | fail_if_no_progress (with_reducible apply State.Keeps.rest)
    | dsimp only
    | split

theorem execDoorbellWrite_keeps {s0 s : State} {dt : Nat} {ring : Fin 16} {value : BitVec 32} (kept : s0.Keeps s) :
    Out.Keeps s0 (execDoorbellWrite dt ring value s) := by
  unfold execDoorbellWrite
  repeat' first
    | with_reducible intro _
    | with_reducible assumption
    | with_reducible exact State.Keeps.refl _
    | (extract_lets +onlyGivenNames x; clear_value (hx : x = _); first | refine State.Keeps.local (s0 := s0) hx ?_ fun k => ?_ | skip)
    | with_reducible apply State.Keeps.ite
    | with_reducible apply goHost_keeps
    | with_reducible apply State.withHost_keeps
    | with_reducible apply Out.Keeps.next
    | with_reducible apply Out.Keeps.refused
    | with_reducible apply Out.Keeps.fault
    | with_reducible apply Out.Keeps.ite
    | fail_if_no_progress (with_reducible apply State.Keeps.rest)
    | dsimp only
    | split

theorem execHostDescriptorFetched_keeps {s0 s : State} {dt : Nat} {ring : Fin 8} {len : BitVec 16} {kind : Byte} {domain : Fin 64} {data : List Byte} {dmaOk : Bool} (kept : s0.Keeps s) :
    Out.Keeps s0 (execHostDescriptorFetched dt ring len kind domain data dmaOk s) := by
  unfold execHostDescriptorFetched
  repeat' first
    | with_reducible intro _
    | with_reducible assumption
    | with_reducible exact State.Keeps.refl _
    | (extract_lets +onlyGivenNames x; clear_value (hx : x = _); first | refine State.Keeps.local (s0 := s0) hx ?_ fun k => ?_ | skip)
    | with_reducible apply State.Keeps.ite
    | with_reducible apply goRun_keeps
    | with_reducible apply State.hostFrame_keeps
    | with_reducible apply Out.Keeps.next
    | with_reducible apply Out.Keeps.refused
    | with_reducible apply Out.Keeps.fault
    | with_reducible apply Out.Keeps.ite
    | fail_if_no_progress (with_reducible apply State.Keeps.rest)
    | dsimp only
    | split

theorem execPartToHostFrame_keeps {s0 s : State} {dt : Nat} {ring : Fin 8} {addr : BitVec 64} (kept : s0.Keeps s) :
    Out.Keeps s0 (execPartToHostFrame dt ring addr s) := by
  unfold execPartToHostFrame
  repeat' first
    | with_reducible intro _
    | with_reducible assumption
    | with_reducible exact State.Keeps.refl _
    | (extract_lets +onlyGivenNames x; clear_value (hx : x = _); first | refine State.Keeps.local (s0 := s0) hx ?_ fun k => ?_ | skip)
    | with_reducible apply State.Keeps.ite
    | with_reducible apply goRun_keeps
    | with_reducible apply State.partToHost_keeps
    | with_reducible apply Out.Keeps.next
    | with_reducible apply Out.Keeps.refused
    | with_reducible apply Out.Keeps.fault
    | with_reducible apply Out.Keeps.ite
    | fail_if_no_progress (with_reducible apply State.Keeps.rest)
    | dsimp only
    | split

theorem execMsixCoalesceTimer_keeps {s0 s : State} {dt : Nat} {vec : Fin 24} (kept : s0.Keeps s) :
    Out.Keeps s0 (execMsixCoalesceTimer dt vec s) := by
  unfold execMsixCoalesceTimer
  repeat' first
    | with_reducible intro _
    | with_reducible assumption
    | with_reducible exact State.Keeps.refl _
    | (extract_lets +onlyGivenNames x; clear_value (hx : x = _); first | refine State.Keeps.local (s0 := s0) hx ?_ fun k => ?_ | skip)
    | with_reducible apply State.Keeps.ite
    | with_reducible apply goBridge_keeps
    | with_reducible apply State.releaseMessage_keeps
    | with_reducible apply Out.Keeps.next
    | with_reducible apply Out.Keeps.refused
    | with_reducible apply Out.Keeps.fault
    | with_reducible apply Out.Keeps.ite
    | fail_if_no_progress (with_reducible apply State.Keeps.rest)
    | dsimp only
    | split

end Sys2Proof.Machine
end

