-- ==== Sys2Proof/Laws/KeepsCmdConsist.lean ====
section
/-! SUPPORT. What the definitions of Machine/CmdConsist keep (`State.Keeps`). -/

set_option linter.unusedTactic false
set_option linter.unreachableTactic false

namespace Sys2Proof.Machine

theorem goConsist_keeps {s0 s : State} {dt : Nat} {f : State → State} (kept : s0.Keeps s) (hf : ∀ u, s0.Keeps u → s0.Keeps (f u)) :
    Out.Keeps s0 (goConsist dt f s) := by
  unfold goConsist
  repeat' first
    | with_reducible intro _
    | with_reducible assumption
    | with_reducible exact State.Keeps.refl _
    | (extract_lets +onlyGivenNames x; clear_value (hx : x = _); first | refine State.Keeps.local (s0 := s0) hx ?_ fun k => ?_ | skip)
    | with_reducible apply State.Keeps.ite
    | with_reducible apply hf
    | with_reducible apply goRun_keeps
    | with_reducible apply Out.Keeps.next
    | with_reducible apply Out.Keeps.refused
    | with_reducible apply Out.Keeps.fault
    | with_reducible apply Out.Keeps.ite
    | fail_if_no_progress (with_reducible apply State.Keeps.rest)
    | dsimp only
    | split

theorem State.drawFrame_keeps {s0 s : State} {p : Nat} {mode : Nat} {ago : Nat} {bs : List Byte} {run : State → Nat → DrawView → State} (kept : s0.Keeps s) (hrun : ∀ u a b, s0.Keeps u → s0.Keeps (run u a b)) :
    s0.Keeps (State.drawFrame s p mode ago bs run) := by
  unfold State.drawFrame
  repeat' first
    | with_reducible intro _
    | with_reducible assumption
    | with_reducible exact State.Keeps.refl _
    | (extract_lets +onlyGivenNames x; clear_value (hx : x = _); first | refine State.Keeps.local (s0 := s0) hx ?_ fun k => ?_ | (have g := State.regs x.2; clear g; subst hx) | skip)
    | with_reducible apply State.Keeps.ite
    | with_reducible apply hrun
    | with_reducible apply State.countOverflow_keeps
    | with_reducible apply State.withConsist_keeps
    | with_reducible apply State.newFrame_keeps
    | with_reducible apply State.appendBytes_keeps
    | with_reducible apply State.modFrame_keeps
    | with_reducible apply State.Keeps.id
    | fail_if_no_progress (with_reducible apply State.Keeps.rest)
    | dsimp only
    | refine State.Keeps.of_snd ‹_ = (_, _)› ?_
    | refine State.Keeps.of_fst ‹_ = (_, _)› ?_
    | split

theorem goDrawbar_keeps {s0 s : State} {dt : Nat} {port : Fin 12} {mode : Nat} {ago : Nat} {bytes : List Byte} {run : State → Nat → DrawView → State} (kept : s0.Keeps s) (hrun : ∀ u a b, s0.Keeps u → s0.Keeps (run u a b)) :
    Out.Keeps s0 (goDrawbar dt port mode ago bytes run s) := by
  unfold goDrawbar
  repeat' first
    | with_reducible intro _
    | with_reducible assumption
    | with_reducible exact State.Keeps.refl _
    | (extract_lets +onlyGivenNames x; clear_value (hx : x = _); first | refine State.Keeps.local (s0 := s0) hx ?_ fun k => ?_ | skip)
    | with_reducible apply State.Keeps.ite
    | with_reducible apply hrun
    | with_reducible apply State.drawFrame_keeps
    | with_reducible apply goConsist_keeps
    | with_reducible apply Out.Keeps.next
    | with_reducible apply Out.Keeps.refused
    | with_reducible apply Out.Keeps.fault
    | with_reducible apply Out.Keeps.ite
    | fail_if_no_progress (with_reducible apply State.Keeps.rest)
    | dsimp only
    | split

theorem execDrawbarLookupFrame_keeps {s0 s : State} {dt : Nat} {port : Fin 12} {bytes : List Byte} {ago : Nat} (kept : s0.Keeps s) :
    Out.Keeps s0 (execDrawbarLookupFrame dt port bytes ago s) := by
  unfold execDrawbarLookupFrame
  repeat' first
    | with_reducible intro _
    | with_reducible assumption
    | with_reducible exact State.Keeps.refl _
    | (extract_lets +onlyGivenNames x; clear_value (hx : x = _); first | refine State.Keeps.local (s0 := s0) hx ?_ fun k => ?_ | skip)
    | with_reducible apply State.Keeps.ite
    | with_reducible apply goDrawbar_keeps
    | with_reducible apply State.drawLookup_keeps
    | with_reducible apply State.Keeps.id
    | with_reducible apply Out.Keeps.next
    | with_reducible apply Out.Keeps.refused
    | with_reducible apply Out.Keeps.fault
    | with_reducible apply Out.Keeps.ite
    | fail_if_no_progress (with_reducible apply State.Keeps.rest)
    | dsimp only
    | split

theorem execDrawbarUnicastFrame_keeps {s0 s : State} {dt : Nat} {port : Fin 12} {bytes : List Byte} {ago : Nat} (kept : s0.Keeps s) :
    Out.Keeps s0 (execDrawbarUnicastFrame dt port bytes ago s) := by
  unfold execDrawbarUnicastFrame
  repeat' first
    | with_reducible intro _
    | with_reducible assumption
    | with_reducible exact State.Keeps.refl _
    | (extract_lets +onlyGivenNames x; clear_value (hx : x = _); first | refine State.Keeps.local (s0 := s0) hx ?_ fun k => ?_ | skip)
    | with_reducible apply State.Keeps.ite
    | with_reducible apply goDrawbar_keeps
    | with_reducible apply State.drawUnicast_keeps
    | with_reducible apply State.Keeps.id
    | with_reducible apply Out.Keeps.next
    | with_reducible apply Out.Keeps.refused
    | with_reducible apply Out.Keeps.fault
    | with_reducible apply Out.Keeps.ite
    | fail_if_no_progress (with_reducible apply State.Keeps.rest)
    | dsimp only
    | split

theorem execDrawbarFloodFrame_keeps {s0 s : State} {dt : Nat} {port : Fin 12} {bytes : List Byte} {ago : Nat} (kept : s0.Keeps s) :
    Out.Keeps s0 (execDrawbarFloodFrame dt port bytes ago s) := by
  unfold execDrawbarFloodFrame
  repeat' first
    | with_reducible intro _
    | with_reducible assumption
    | with_reducible exact State.Keeps.refl _
    | (extract_lets +onlyGivenNames x; clear_value (hx : x = _); first | refine State.Keeps.local (s0 := s0) hx ?_ fun k => ?_ | skip)
    | with_reducible apply State.Keeps.ite
    | with_reducible apply goDrawbar_keeps
    | with_reducible apply State.drawFlood_keeps
    | with_reducible apply State.Keeps.id
    | with_reducible apply Out.Keeps.next
    | with_reducible apply Out.Keeps.refused
    | with_reducible apply Out.Keeps.fault
    | with_reducible apply Out.Keeps.ite
    | fail_if_no_progress (with_reducible apply State.Keeps.rest)
    | dsimp only
    | split

theorem execRollCallReceived_keeps {s0 s : State} {dt : Nat} {port : Fin 12} {bytes : List Byte} {dist : Fin 8} (kept : s0.Keeps s) :
    Out.Keeps s0 (execRollCallReceived dt port bytes dist s) := by
  unfold execRollCallReceived
  repeat' first
    | with_reducible intro _
    | with_reducible assumption
    | with_reducible exact State.Keeps.refl _
    | (extract_lets +onlyGivenNames x; clear_value (hx : x = _); first | refine State.Keeps.local (s0 := s0) hx ?_ fun k => ?_ | skip)
    | with_reducible apply State.Keeps.ite
    | with_reducible apply goDrawbar_keeps
    | with_reducible apply State.drawMessage_keeps
    | with_reducible apply State.Keeps.id
    | with_reducible apply Out.Keeps.next
    | with_reducible apply Out.Keeps.refused
    | with_reducible apply Out.Keeps.fault
    | with_reducible apply Out.Keeps.ite
    | fail_if_no_progress (with_reducible apply State.Keeps.rest)
    | dsimp only
    | split

theorem execManagementRequest_keeps {s0 s : State} {dt : Nat} {port : Fin 12} {bytes : List Byte} (kept : s0.Keeps s) :
    Out.Keeps s0 (execManagementRequest dt port bytes s) := by
  unfold execManagementRequest
  repeat' first
    | with_reducible intro _
    | with_reducible assumption
    | with_reducible exact State.Keeps.refl _
    | (extract_lets +onlyGivenNames x; clear_value (hx : x = _); first | refine State.Keeps.local (s0 := s0) hx ?_ fun k => ?_ | skip)
    | with_reducible apply State.Keeps.ite
    | with_reducible apply goDrawbar_keeps
    | with_reducible apply State.drawMessage_keeps
    | with_reducible apply State.Keeps.id
    | with_reducible apply Out.Keeps.next
    | with_reducible apply Out.Keeps.refused
    | with_reducible apply Out.Keeps.fault
    | with_reducible apply Out.Keeps.ite
    | fail_if_no_progress (with_reducible apply State.Keeps.rest)
    | dsimp only
    | split

theorem execManagementAnswer_keeps {s0 s : State} {dt : Nat} {port : Fin 12} {bytes : List Byte} (kept : s0.Keeps s) :
    Out.Keeps s0 (execManagementAnswer dt port bytes s) := by
  unfold execManagementAnswer
  repeat' first
    | with_reducible intro _
    | with_reducible assumption
    | with_reducible exact State.Keeps.refl _
    | (extract_lets +onlyGivenNames x; clear_value (hx : x = _); first | refine State.Keeps.local (s0 := s0) hx ?_ fun k => ?_ | skip)
    | with_reducible apply State.Keeps.ite
    | with_reducible apply goDrawbar_keeps
    | with_reducible apply State.drawMessage_keeps
    | with_reducible apply State.Keeps.id
    | with_reducible apply Out.Keeps.next
    | with_reducible apply Out.Keeps.refused
    | with_reducible apply Out.Keeps.fault
    | with_reducible apply Out.Keeps.ite
    | fail_if_no_progress (with_reducible apply State.Keeps.rest)
    | dsimp only
    | split

theorem execRollCallTimer_keeps {s0 s : State} {dt : Nat} (kept : s0.Keeps s) :
    Out.Keeps s0 (execRollCallTimer dt s) := by
  unfold execRollCallTimer
  repeat' first
    | with_reducible intro _
    | with_reducible assumption
    | with_reducible exact State.Keeps.refl _
    | (extract_lets +onlyGivenNames x; clear_value (hx : x = _); first | refine State.Keeps.local (s0 := s0) hx ?_ fun k => ?_ | skip)
    | with_reducible apply State.Keeps.ite
    | with_reducible apply goConsist_keeps
    | with_reducible apply State.sendRollCall_keeps
    | with_reducible apply Out.Keeps.next
    | with_reducible apply Out.Keeps.refused
    | with_reducible apply Out.Keeps.fault
    | with_reducible apply Out.Keeps.ite
    | fail_if_no_progress (with_reducible apply State.Keeps.rest)
    | dsimp only
    | split

theorem State.heardOut_keeps {s0 s : State} {d : Nat} (kept : s0.Keeps s) :
    s0.Keeps (State.heardOut s d) := by
  unfold State.heardOut
  repeat' first
    | with_reducible intro _
    | with_reducible assumption
    | with_reducible exact State.Keeps.refl _
    | (extract_lets +onlyGivenNames x; clear_value (hx : x = _); first | refine State.Keeps.local (s0 := s0) hx ?_ fun k => ?_ | skip)
    | with_reducible apply State.Keeps.ite
    | with_reducible apply State.loseMember_keeps
    | with_reducible apply State.updateMaster_keeps
    | fail_if_no_progress (with_reducible apply State.Keeps.rest)
    | dsimp only
    | split

theorem execHeardTimeout_keeps {s0 s : State} {dt : Nat} {d : Fin 8} (kept : s0.Keeps s) :
    Out.Keeps s0 (execHeardTimeout dt d s) := by
  unfold execHeardTimeout
  repeat' first
    | with_reducible intro _
    | with_reducible assumption
    | with_reducible exact State.Keeps.refl _
    | (extract_lets +onlyGivenNames x; clear_value (hx : x = _); first | refine State.Keeps.local (s0 := s0) hx ?_ fun k => ?_ | skip)
    | with_reducible apply State.Keeps.ite
    | with_reducible apply State.heardOut_keeps
    | with_reducible apply goConsist_keeps
    | with_reducible apply Out.Keeps.next
    | with_reducible apply Out.Keeps.refused
    | with_reducible apply Out.Keeps.fault
    | with_reducible apply Out.Keeps.ite
    | fail_if_no_progress (with_reducible apply State.Keeps.rest)
    | dsimp only
    | split

theorem execPreemptHoldExpiry_keeps {s0 s : State} {dt : Nat} (kept : s0.Keeps s) :
    Out.Keeps s0 (execPreemptHoldExpiry dt s) := by
  unfold execPreemptHoldExpiry
  repeat' first
    | with_reducible intro _
    | with_reducible assumption
    | with_reducible exact State.Keeps.refl _
    | (extract_lets +onlyGivenNames x; clear_value (hx : x = _); first | refine State.Keeps.local (s0 := s0) hx ?_ fun k => ?_ | skip)
    | with_reducible apply State.Keeps.ite
    | with_reducible apply goConsist_keeps
    | with_reducible apply State.updateMaster_keeps
    | with_reducible apply Out.Keeps.next
    | with_reducible apply Out.Keeps.refused
    | with_reducible apply Out.Keeps.fault
    | with_reducible apply Out.Keeps.ite
    | fail_if_no_progress (with_reducible apply State.Keeps.rest)
    | dsimp only
    | split

theorem execWardenGraceExpiry_keeps {s0 s : State} {dt : Nat} (kept : s0.Keeps s) :
    Out.Keeps s0 (execWardenGraceExpiry dt s) := by
  unfold execWardenGraceExpiry
  repeat' first
    | with_reducible intro _
    | with_reducible assumption
    | with_reducible exact State.Keeps.refl _
    | (extract_lets +onlyGivenNames x; clear_value (hx : x = _); first | refine State.Keeps.local (s0 := s0) hx ?_ fun k => ?_ | skip)
    | with_reducible apply State.Keeps.ite
    | with_reducible apply goConsist_keeps
    | with_reducible apply State.updateMaster_keeps
    | with_reducible apply Out.Keeps.next
    | with_reducible apply Out.Keeps.refused
    | with_reducible apply Out.Keeps.fault
    | with_reducible apply Out.Keeps.ite
    | fail_if_no_progress (with_reducible apply State.Keeps.rest)
    | dsimp only
    | split

theorem execForwardTimeout_keeps {s0 s : State} {dt : Nat} {slot : Fin 32} (kept : s0.Keeps s) :
    Out.Keeps s0 (execForwardTimeout dt slot s) := by
  unfold execForwardTimeout
  repeat' first
    | with_reducible intro _
    | with_reducible assumption
    | with_reducible exact State.Keeps.refl _
    | (extract_lets +onlyGivenNames x; clear_value (hx : x = _); first | refine State.Keeps.local (s0 := s0) hx ?_ fun k => ?_ | skip)
    | with_reducible apply State.Keeps.ite
    | with_reducible apply goOn_keeps
    | with_reducible apply State.forwardTimeout_keeps
    | with_reducible apply Out.Keeps.next
    | with_reducible apply Out.Keeps.refused
    | with_reducible apply Out.Keeps.fault
    | with_reducible apply Out.Keeps.ite
    | fail_if_no_progress (with_reducible apply State.Keeps.rest)
    | dsimp only
    | split

theorem State.conflictEnds_keeps {s0 s : State} (kept : s0.Keeps s) :
    s0.Keeps (State.conflictEnds s) := by
  unfold State.conflictEnds
  repeat' first
    | with_reducible intro _
    | with_reducible assumption
    | with_reducible exact State.Keeps.refl _
    | (extract_lets +onlyGivenNames x; clear_value (hx : x = _); first | refine State.Keeps.local (s0 := s0) hx ?_ fun k => ?_ | skip)
    | with_reducible apply State.Keeps.ite
    | with_reducible apply State.withConsist_keeps
    | fail_if_no_progress (with_reducible apply State.Keeps.rest)
    | dsimp only
    | split

theorem execConflictClear_keeps {s0 s : State} {dt : Nat} (kept : s0.Keeps s) :
    Out.Keeps s0 (execConflictClear dt s) := by
  unfold execConflictClear
  repeat' first
    | with_reducible intro _
    | with_reducible assumption
    | with_reducible exact State.Keeps.refl _
    | (extract_lets +onlyGivenNames x; clear_value (hx : x = _); first | refine State.Keeps.local (s0 := s0) hx ?_ fun k => ?_ | skip)
    | with_reducible apply State.Keeps.ite
    | with_reducible apply State.conflictEnds_keeps
    | with_reducible apply goConsist_keeps
    | with_reducible apply Out.Keeps.next
    | with_reducible apply Out.Keeps.refused
    | with_reducible apply Out.Keeps.fault
    | with_reducible apply Out.Keeps.ite
    | fail_if_no_progress (with_reducible apply State.Keeps.rest)
    | dsimp only
    | split

theorem execSessionTargetWrite_keeps {s0 s : State} {dt : Nat} {sess : Nat} {value : BitVec 32} (kept : s0.Keeps s) :
    Out.Keeps s0 (execSessionTargetWrite dt sess value s) := by
  unfold execSessionTargetWrite
  repeat' first
    | with_reducible intro _
    | with_reducible assumption
    | with_reducible exact State.Keeps.refl _
    | (extract_lets +onlyGivenNames x; clear_value (hx : x = _); first | refine State.Keeps.local (s0 := s0) hx ?_ fun k => ?_ | skip)
    | with_reducible apply State.Keeps.ite
    | with_reducible apply goWrite_keeps
    | with_reducible apply Out.Keeps.next
    | with_reducible apply Out.Keeps.refused
    | with_reducible apply Out.Keeps.fault
    | with_reducible apply Out.Keeps.ite
    | fail_if_no_progress (with_reducible apply State.Keeps.rest)
    | dsimp only
    | split

end Sys2Proof.Machine
end

