-- ==== Sys2Proof/Laws/State.lean ====
section
/-! SUPPORT. What each named update of the state leaves in every field, and what a scalar or a window byte reads as after a write. -/

namespace Sys2Proof.Machine

variable (s : State)

/-! ### `State.wr` -/

@[simp] theorem State.wr_pending (idx sub v : Nat) : (s.wr idx sub v).pending = s.pending := rfl
@[simp] theorem State.wr_outputs (idx sub v : Nat) : (s.wr idx sub v).outputs = s.outputs := rfl
@[simp] theorem State.wr_now (idx sub v : Nat) : (s.wr idx sub v).now = s.now := rfl
@[simp] theorem State.wr_fresh (idx sub v : Nat) : (s.wr idx sub v).fresh = s.fresh := rfl
@[simp] theorem State.wr_regs (idx sub v : Nat) : (s.wr idx sub v).regs = mapPut (regDefault (regKey idx sub)) s.regs (regKey idx sub) (BitVec.ofNat 64 v) := rfl
@[simp] theorem State.wr_wins (idx sub v : Nat) : (s.wr idx sub v).wins = s.wins := rfl
@[simp] theorem State.wr_ringFull (idx sub v : Nat) : (s.wr idx sub v).ringFull = s.ringFull := rfl
@[simp] theorem State.wr_mode (idx sub v : Nat) : (s.wr idx sub v).mode = s.mode := rfl
@[simp] theorem State.wr_car (idx sub v : Nat) : (s.wr idx sub v).car = s.car := rfl
@[simp] theorem State.wr_probe (idx sub v : Nat) : (s.wr idx sub v).probe = s.probe := rfl
@[simp] theorem State.wr_buf (idx sub v : Nat) : (s.wr idx sub v).buf = s.buf := rfl
@[simp] theorem State.wr_route (idx sub v : Nat) : (s.wr idx sub v).route = s.route := rfl
@[simp] theorem State.wr_eth (idx sub v : Nat) : (s.wr idx sub v).eth = s.eth := rfl
@[simp] theorem State.wr_chan (idx sub v : Nat) : (s.wr idx sub v).chan = s.chan := rfl
@[simp] theorem State.wr_gw (idx sub v : Nat) : (s.wr idx sub v).gw = s.gw := rfl
@[simp] theorem State.wr_tm (idx sub v : Nat) : (s.wr idx sub v).tm = s.tm := rfl
@[simp] theorem State.wr_fw (idx sub v : Nat) : (s.wr idx sub v).fw = s.fw := rfl
@[simp] theorem State.wr_crypto (idx sub v : Nat) : (s.wr idx sub v).crypto = s.crypto := rfl
@[simp] theorem State.wr_key (idx sub v : Nat) : (s.wr idx sub v).key = s.key := rfl
@[simp] theorem State.wr_consist (idx sub v : Nat) : (s.wr idx sub v).consist = s.consist := rfl
@[simp] theorem State.wr_startup (idx sub v : Nat) : (s.wr idx sub v).startup = s.startup := rfl
@[simp] theorem State.wr_power (idx sub v : Nat) : (s.wr idx sub v).power = s.power := rfl
@[simp] theorem State.wr_wake (idx sub v : Nat) : (s.wr idx sub v).wake = s.wake := rfl
@[simp] theorem State.wr_ctl (idx sub v : Nat) : (s.wr idx sub v).ctl = s.ctl := rfl
@[simp] theorem State.wr_host (idx sub v : Nat) : (s.wr idx sub v).host = s.host := rfl
@[simp] theorem State.wr_sess (idx sub v : Nat) : (s.wr idx sub v).sess = s.sess := rfl
@[simp] theorem State.wr_time (idx sub v : Nat) : (s.wr idx sub v).time = s.time := rfl

/-! ### `State.setWinB` -/

@[simp] theorem State.setWinB_pending (idx sub off v : Nat) : (s.setWinB idx sub off v).pending = s.pending := rfl
@[simp] theorem State.setWinB_outputs (idx sub off v : Nat) : (s.setWinB idx sub off v).outputs = s.outputs := rfl
@[simp] theorem State.setWinB_now (idx sub off v : Nat) : (s.setWinB idx sub off v).now = s.now := rfl
@[simp] theorem State.setWinB_fresh (idx sub off v : Nat) : (s.setWinB idx sub off v).fresh = s.fresh := rfl
@[simp] theorem State.setWinB_regs (idx sub off v : Nat) : (s.setWinB idx sub off v).regs = s.regs := rfl
@[simp] theorem State.setWinB_wins (idx sub off v : Nat) : (s.setWinB idx sub off v).wins = mapPut (byteDefault (winKey idx sub off)) s.wins (winKey idx sub off) (BitVec.ofNat 8 v) := rfl
@[simp] theorem State.setWinB_ringFull (idx sub off v : Nat) : (s.setWinB idx sub off v).ringFull = s.ringFull := rfl
@[simp] theorem State.setWinB_mode (idx sub off v : Nat) : (s.setWinB idx sub off v).mode = s.mode := rfl
@[simp] theorem State.setWinB_car (idx sub off v : Nat) : (s.setWinB idx sub off v).car = s.car := rfl
@[simp] theorem State.setWinB_probe (idx sub off v : Nat) : (s.setWinB idx sub off v).probe = s.probe := rfl
@[simp] theorem State.setWinB_buf (idx sub off v : Nat) : (s.setWinB idx sub off v).buf = s.buf := rfl
@[simp] theorem State.setWinB_route (idx sub off v : Nat) : (s.setWinB idx sub off v).route = s.route := rfl
@[simp] theorem State.setWinB_eth (idx sub off v : Nat) : (s.setWinB idx sub off v).eth = s.eth := rfl
@[simp] theorem State.setWinB_chan (idx sub off v : Nat) : (s.setWinB idx sub off v).chan = s.chan := rfl
@[simp] theorem State.setWinB_gw (idx sub off v : Nat) : (s.setWinB idx sub off v).gw = s.gw := rfl
@[simp] theorem State.setWinB_tm (idx sub off v : Nat) : (s.setWinB idx sub off v).tm = s.tm := rfl
@[simp] theorem State.setWinB_fw (idx sub off v : Nat) : (s.setWinB idx sub off v).fw = s.fw := rfl
@[simp] theorem State.setWinB_crypto (idx sub off v : Nat) : (s.setWinB idx sub off v).crypto = s.crypto := rfl
@[simp] theorem State.setWinB_key (idx sub off v : Nat) : (s.setWinB idx sub off v).key = s.key := rfl
@[simp] theorem State.setWinB_consist (idx sub off v : Nat) : (s.setWinB idx sub off v).consist = s.consist := rfl
@[simp] theorem State.setWinB_startup (idx sub off v : Nat) : (s.setWinB idx sub off v).startup = s.startup := rfl
@[simp] theorem State.setWinB_power (idx sub off v : Nat) : (s.setWinB idx sub off v).power = s.power := rfl
@[simp] theorem State.setWinB_wake (idx sub off v : Nat) : (s.setWinB idx sub off v).wake = s.wake := rfl
@[simp] theorem State.setWinB_ctl (idx sub off v : Nat) : (s.setWinB idx sub off v).ctl = s.ctl := rfl
@[simp] theorem State.setWinB_host (idx sub off v : Nat) : (s.setWinB idx sub off v).host = s.host := rfl
@[simp] theorem State.setWinB_sess (idx sub off v : Nat) : (s.setWinB idx sub off v).sess = s.sess := rfl
@[simp] theorem State.setWinB_time (idx sub off v : Nat) : (s.setWinB idx sub off v).time = s.time := rfl

/-! ### `State.emit` -/

@[simp] theorem State.emit_pending (o : Output) : (s.emit o).pending = s.pending := rfl
@[simp] theorem State.emit_outputs (o : Output) : (s.emit o).outputs = o :: s.outputs := rfl
@[simp] theorem State.emit_now (o : Output) : (s.emit o).now = s.now := rfl
@[simp] theorem State.emit_fresh (o : Output) : (s.emit o).fresh = s.fresh := rfl
@[simp] theorem State.emit_regs (o : Output) : (s.emit o).regs = s.regs := rfl
@[simp] theorem State.emit_wins (o : Output) : (s.emit o).wins = s.wins := rfl
@[simp] theorem State.emit_ringFull (o : Output) : (s.emit o).ringFull = s.ringFull := rfl
@[simp] theorem State.emit_mode (o : Output) : (s.emit o).mode = s.mode := rfl
@[simp] theorem State.emit_car (o : Output) : (s.emit o).car = s.car := rfl
@[simp] theorem State.emit_probe (o : Output) : (s.emit o).probe = s.probe := rfl
@[simp] theorem State.emit_buf (o : Output) : (s.emit o).buf = s.buf := rfl
@[simp] theorem State.emit_route (o : Output) : (s.emit o).route = s.route := rfl
@[simp] theorem State.emit_eth (o : Output) : (s.emit o).eth = s.eth := rfl
@[simp] theorem State.emit_chan (o : Output) : (s.emit o).chan = s.chan := rfl
@[simp] theorem State.emit_gw (o : Output) : (s.emit o).gw = s.gw := rfl
@[simp] theorem State.emit_tm (o : Output) : (s.emit o).tm = s.tm := rfl
@[simp] theorem State.emit_fw (o : Output) : (s.emit o).fw = s.fw := rfl
@[simp] theorem State.emit_crypto (o : Output) : (s.emit o).crypto = s.crypto := rfl
@[simp] theorem State.emit_key (o : Output) : (s.emit o).key = s.key := rfl
@[simp] theorem State.emit_consist (o : Output) : (s.emit o).consist = s.consist := rfl
@[simp] theorem State.emit_startup (o : Output) : (s.emit o).startup = s.startup := rfl
@[simp] theorem State.emit_power (o : Output) : (s.emit o).power = s.power := rfl
@[simp] theorem State.emit_wake (o : Output) : (s.emit o).wake = s.wake := rfl
@[simp] theorem State.emit_ctl (o : Output) : (s.emit o).ctl = s.ctl := rfl
@[simp] theorem State.emit_host (o : Output) : (s.emit o).host = s.host := rfl
@[simp] theorem State.emit_sess (o : Output) : (s.emit o).sess = s.sess := rfl
@[simp] theorem State.emit_time (o : Output) : (s.emit o).time = s.time := rfl

/-! ### `State.draw` -/

@[simp] theorem State.draw_pending : s.draw.2.pending = s.pending := rfl
@[simp] theorem State.draw_outputs : s.draw.2.outputs = s.outputs := rfl
@[simp] theorem State.draw_now : s.draw.2.now = s.now := rfl
@[simp] theorem State.draw_fresh : s.draw.2.fresh = s.fresh + 1 := rfl
@[simp] theorem State.draw_regs : s.draw.2.regs = s.regs := rfl
@[simp] theorem State.draw_wins : s.draw.2.wins = s.wins := rfl
@[simp] theorem State.draw_ringFull : s.draw.2.ringFull = s.ringFull := rfl
@[simp] theorem State.draw_mode : s.draw.2.mode = s.mode := rfl
@[simp] theorem State.draw_car : s.draw.2.car = s.car := rfl
@[simp] theorem State.draw_probe : s.draw.2.probe = s.probe := rfl
@[simp] theorem State.draw_buf : s.draw.2.buf = s.buf := rfl
@[simp] theorem State.draw_route : s.draw.2.route = s.route := rfl
@[simp] theorem State.draw_eth : s.draw.2.eth = s.eth := rfl
@[simp] theorem State.draw_chan : s.draw.2.chan = s.chan := rfl
@[simp] theorem State.draw_gw : s.draw.2.gw = s.gw := rfl
@[simp] theorem State.draw_tm : s.draw.2.tm = s.tm := rfl
@[simp] theorem State.draw_fw : s.draw.2.fw = s.fw := rfl
@[simp] theorem State.draw_crypto : s.draw.2.crypto = s.crypto := rfl
@[simp] theorem State.draw_key : s.draw.2.key = s.key := rfl
@[simp] theorem State.draw_consist : s.draw.2.consist = s.consist := rfl
@[simp] theorem State.draw_startup : s.draw.2.startup = s.startup := rfl
@[simp] theorem State.draw_power : s.draw.2.power = s.power := rfl
@[simp] theorem State.draw_wake : s.draw.2.wake = s.wake := rfl
@[simp] theorem State.draw_ctl : s.draw.2.ctl = s.ctl := rfl
@[simp] theorem State.draw_host : s.draw.2.host = s.host := rfl
@[simp] theorem State.draw_sess : s.draw.2.sess = s.sess := rfl
@[simp] theorem State.draw_time : s.draw.2.time = s.time := rfl

/-! ### `State.withCar` -/

@[simp] theorem State.withCar_pending (f : CarState → CarState) : (s.withCar f).pending = s.pending := rfl
@[simp] theorem State.withCar_outputs (f : CarState → CarState) : (s.withCar f).outputs = s.outputs := rfl
@[simp] theorem State.withCar_now (f : CarState → CarState) : (s.withCar f).now = s.now := rfl
@[simp] theorem State.withCar_fresh (f : CarState → CarState) : (s.withCar f).fresh = s.fresh := rfl
@[simp] theorem State.withCar_regs (f : CarState → CarState) : (s.withCar f).regs = s.regs := rfl
@[simp] theorem State.withCar_wins (f : CarState → CarState) : (s.withCar f).wins = s.wins := rfl
@[simp] theorem State.withCar_ringFull (f : CarState → CarState) : (s.withCar f).ringFull = s.ringFull := rfl
@[simp] theorem State.withCar_mode (f : CarState → CarState) : (s.withCar f).mode = s.mode := rfl
@[simp] theorem State.withCar_car (f : CarState → CarState) : (s.withCar f).car = f s.car := rfl
@[simp] theorem State.withCar_probe (f : CarState → CarState) : (s.withCar f).probe = s.probe := rfl
@[simp] theorem State.withCar_buf (f : CarState → CarState) : (s.withCar f).buf = s.buf := rfl
@[simp] theorem State.withCar_route (f : CarState → CarState) : (s.withCar f).route = s.route := rfl
@[simp] theorem State.withCar_eth (f : CarState → CarState) : (s.withCar f).eth = s.eth := rfl
@[simp] theorem State.withCar_chan (f : CarState → CarState) : (s.withCar f).chan = s.chan := rfl
@[simp] theorem State.withCar_gw (f : CarState → CarState) : (s.withCar f).gw = s.gw := rfl
@[simp] theorem State.withCar_tm (f : CarState → CarState) : (s.withCar f).tm = s.tm := rfl
@[simp] theorem State.withCar_fw (f : CarState → CarState) : (s.withCar f).fw = s.fw := rfl
@[simp] theorem State.withCar_crypto (f : CarState → CarState) : (s.withCar f).crypto = s.crypto := rfl
@[simp] theorem State.withCar_key (f : CarState → CarState) : (s.withCar f).key = s.key := rfl
@[simp] theorem State.withCar_consist (f : CarState → CarState) : (s.withCar f).consist = s.consist := rfl
@[simp] theorem State.withCar_startup (f : CarState → CarState) : (s.withCar f).startup = s.startup := rfl
@[simp] theorem State.withCar_power (f : CarState → CarState) : (s.withCar f).power = s.power := rfl
@[simp] theorem State.withCar_wake (f : CarState → CarState) : (s.withCar f).wake = s.wake := rfl
@[simp] theorem State.withCar_ctl (f : CarState → CarState) : (s.withCar f).ctl = s.ctl := rfl
@[simp] theorem State.withCar_host (f : CarState → CarState) : (s.withCar f).host = s.host := rfl
@[simp] theorem State.withCar_sess (f : CarState → CarState) : (s.withCar f).sess = s.sess := rfl
@[simp] theorem State.withCar_time (f : CarState → CarState) : (s.withCar f).time = s.time := rfl

/-! ### `State.withBuf` -/

@[simp] theorem State.withBuf_pending (f : BufState → BufState) : (s.withBuf f).pending = s.pending := rfl
@[simp] theorem State.withBuf_outputs (f : BufState → BufState) : (s.withBuf f).outputs = s.outputs := rfl
@[simp] theorem State.withBuf_now (f : BufState → BufState) : (s.withBuf f).now = s.now := rfl
@[simp] theorem State.withBuf_fresh (f : BufState → BufState) : (s.withBuf f).fresh = s.fresh := rfl
@[simp] theorem State.withBuf_regs (f : BufState → BufState) : (s.withBuf f).regs = s.regs := rfl
@[simp] theorem State.withBuf_wins (f : BufState → BufState) : (s.withBuf f).wins = s.wins := rfl
@[simp] theorem State.withBuf_ringFull (f : BufState → BufState) : (s.withBuf f).ringFull = s.ringFull := rfl
@[simp] theorem State.withBuf_mode (f : BufState → BufState) : (s.withBuf f).mode = s.mode := rfl
@[simp] theorem State.withBuf_car (f : BufState → BufState) : (s.withBuf f).car = s.car := rfl
@[simp] theorem State.withBuf_probe (f : BufState → BufState) : (s.withBuf f).probe = s.probe := rfl
@[simp] theorem State.withBuf_buf (f : BufState → BufState) : (s.withBuf f).buf = f s.buf := rfl
@[simp] theorem State.withBuf_route (f : BufState → BufState) : (s.withBuf f).route = s.route := rfl
@[simp] theorem State.withBuf_eth (f : BufState → BufState) : (s.withBuf f).eth = s.eth := rfl
@[simp] theorem State.withBuf_chan (f : BufState → BufState) : (s.withBuf f).chan = s.chan := rfl
@[simp] theorem State.withBuf_gw (f : BufState → BufState) : (s.withBuf f).gw = s.gw := rfl
@[simp] theorem State.withBuf_tm (f : BufState → BufState) : (s.withBuf f).tm = s.tm := rfl
@[simp] theorem State.withBuf_fw (f : BufState → BufState) : (s.withBuf f).fw = s.fw := rfl
@[simp] theorem State.withBuf_crypto (f : BufState → BufState) : (s.withBuf f).crypto = s.crypto := rfl
@[simp] theorem State.withBuf_key (f : BufState → BufState) : (s.withBuf f).key = s.key := rfl
@[simp] theorem State.withBuf_consist (f : BufState → BufState) : (s.withBuf f).consist = s.consist := rfl
@[simp] theorem State.withBuf_startup (f : BufState → BufState) : (s.withBuf f).startup = s.startup := rfl
@[simp] theorem State.withBuf_power (f : BufState → BufState) : (s.withBuf f).power = s.power := rfl
@[simp] theorem State.withBuf_wake (f : BufState → BufState) : (s.withBuf f).wake = s.wake := rfl
@[simp] theorem State.withBuf_ctl (f : BufState → BufState) : (s.withBuf f).ctl = s.ctl := rfl
@[simp] theorem State.withBuf_host (f : BufState → BufState) : (s.withBuf f).host = s.host := rfl
@[simp] theorem State.withBuf_sess (f : BufState → BufState) : (s.withBuf f).sess = s.sess := rfl
@[simp] theorem State.withBuf_time (f : BufState → BufState) : (s.withBuf f).time = s.time := rfl

/-! ### `State.withRoute` -/

@[simp] theorem State.withRoute_pending (f : RouteState → RouteState) : (s.withRoute f).pending = s.pending := rfl
@[simp] theorem State.withRoute_outputs (f : RouteState → RouteState) : (s.withRoute f).outputs = s.outputs := rfl
@[simp] theorem State.withRoute_now (f : RouteState → RouteState) : (s.withRoute f).now = s.now := rfl
@[simp] theorem State.withRoute_fresh (f : RouteState → RouteState) : (s.withRoute f).fresh = s.fresh := rfl
@[simp] theorem State.withRoute_regs (f : RouteState → RouteState) : (s.withRoute f).regs = s.regs := rfl
@[simp] theorem State.withRoute_wins (f : RouteState → RouteState) : (s.withRoute f).wins = s.wins := rfl
@[simp] theorem State.withRoute_ringFull (f : RouteState → RouteState) : (s.withRoute f).ringFull = s.ringFull := rfl
@[simp] theorem State.withRoute_mode (f : RouteState → RouteState) : (s.withRoute f).mode = s.mode := rfl
@[simp] theorem State.withRoute_car (f : RouteState → RouteState) : (s.withRoute f).car = s.car := rfl
@[simp] theorem State.withRoute_probe (f : RouteState → RouteState) : (s.withRoute f).probe = s.probe := rfl
@[simp] theorem State.withRoute_buf (f : RouteState → RouteState) : (s.withRoute f).buf = s.buf := rfl
@[simp] theorem State.withRoute_route (f : RouteState → RouteState) : (s.withRoute f).route = f s.route := rfl
@[simp] theorem State.withRoute_eth (f : RouteState → RouteState) : (s.withRoute f).eth = s.eth := rfl
@[simp] theorem State.withRoute_chan (f : RouteState → RouteState) : (s.withRoute f).chan = s.chan := rfl
@[simp] theorem State.withRoute_gw (f : RouteState → RouteState) : (s.withRoute f).gw = s.gw := rfl
@[simp] theorem State.withRoute_tm (f : RouteState → RouteState) : (s.withRoute f).tm = s.tm := rfl
@[simp] theorem State.withRoute_fw (f : RouteState → RouteState) : (s.withRoute f).fw = s.fw := rfl
@[simp] theorem State.withRoute_crypto (f : RouteState → RouteState) : (s.withRoute f).crypto = s.crypto := rfl
@[simp] theorem State.withRoute_key (f : RouteState → RouteState) : (s.withRoute f).key = s.key := rfl
@[simp] theorem State.withRoute_consist (f : RouteState → RouteState) : (s.withRoute f).consist = s.consist := rfl
@[simp] theorem State.withRoute_startup (f : RouteState → RouteState) : (s.withRoute f).startup = s.startup := rfl
@[simp] theorem State.withRoute_power (f : RouteState → RouteState) : (s.withRoute f).power = s.power := rfl
@[simp] theorem State.withRoute_wake (f : RouteState → RouteState) : (s.withRoute f).wake = s.wake := rfl
@[simp] theorem State.withRoute_ctl (f : RouteState → RouteState) : (s.withRoute f).ctl = s.ctl := rfl
@[simp] theorem State.withRoute_host (f : RouteState → RouteState) : (s.withRoute f).host = s.host := rfl
@[simp] theorem State.withRoute_sess (f : RouteState → RouteState) : (s.withRoute f).sess = s.sess := rfl
@[simp] theorem State.withRoute_time (f : RouteState → RouteState) : (s.withRoute f).time = s.time := rfl

/-! ### `State.withGw` -/

@[simp] theorem State.withGw_pending (f : GwState → GwState) : (s.withGw f).pending = s.pending := rfl
@[simp] theorem State.withGw_outputs (f : GwState → GwState) : (s.withGw f).outputs = s.outputs := rfl
@[simp] theorem State.withGw_now (f : GwState → GwState) : (s.withGw f).now = s.now := rfl
@[simp] theorem State.withGw_fresh (f : GwState → GwState) : (s.withGw f).fresh = s.fresh := rfl
@[simp] theorem State.withGw_regs (f : GwState → GwState) : (s.withGw f).regs = s.regs := rfl
@[simp] theorem State.withGw_wins (f : GwState → GwState) : (s.withGw f).wins = s.wins := rfl
@[simp] theorem State.withGw_ringFull (f : GwState → GwState) : (s.withGw f).ringFull = s.ringFull := rfl
@[simp] theorem State.withGw_mode (f : GwState → GwState) : (s.withGw f).mode = s.mode := rfl
@[simp] theorem State.withGw_car (f : GwState → GwState) : (s.withGw f).car = s.car := rfl
@[simp] theorem State.withGw_probe (f : GwState → GwState) : (s.withGw f).probe = s.probe := rfl
@[simp] theorem State.withGw_buf (f : GwState → GwState) : (s.withGw f).buf = s.buf := rfl
@[simp] theorem State.withGw_route (f : GwState → GwState) : (s.withGw f).route = s.route := rfl
@[simp] theorem State.withGw_eth (f : GwState → GwState) : (s.withGw f).eth = s.eth := rfl
@[simp] theorem State.withGw_chan (f : GwState → GwState) : (s.withGw f).chan = s.chan := rfl
@[simp] theorem State.withGw_gw (f : GwState → GwState) : (s.withGw f).gw = f s.gw := rfl
@[simp] theorem State.withGw_tm (f : GwState → GwState) : (s.withGw f).tm = s.tm := rfl
@[simp] theorem State.withGw_fw (f : GwState → GwState) : (s.withGw f).fw = s.fw := rfl
@[simp] theorem State.withGw_crypto (f : GwState → GwState) : (s.withGw f).crypto = s.crypto := rfl
@[simp] theorem State.withGw_key (f : GwState → GwState) : (s.withGw f).key = s.key := rfl
@[simp] theorem State.withGw_consist (f : GwState → GwState) : (s.withGw f).consist = s.consist := rfl
@[simp] theorem State.withGw_startup (f : GwState → GwState) : (s.withGw f).startup = s.startup := rfl
@[simp] theorem State.withGw_power (f : GwState → GwState) : (s.withGw f).power = s.power := rfl
@[simp] theorem State.withGw_wake (f : GwState → GwState) : (s.withGw f).wake = s.wake := rfl
@[simp] theorem State.withGw_ctl (f : GwState → GwState) : (s.withGw f).ctl = s.ctl := rfl
@[simp] theorem State.withGw_host (f : GwState → GwState) : (s.withGw f).host = s.host := rfl
@[simp] theorem State.withGw_sess (f : GwState → GwState) : (s.withGw f).sess = s.sess := rfl
@[simp] theorem State.withGw_time (f : GwState → GwState) : (s.withGw f).time = s.time := rfl

/-! ### `State.withTm` -/

@[simp] theorem State.withTm_pending (f : TmState → TmState) : (s.withTm f).pending = s.pending := rfl
@[simp] theorem State.withTm_outputs (f : TmState → TmState) : (s.withTm f).outputs = s.outputs := rfl
@[simp] theorem State.withTm_now (f : TmState → TmState) : (s.withTm f).now = s.now := rfl
@[simp] theorem State.withTm_fresh (f : TmState → TmState) : (s.withTm f).fresh = s.fresh := rfl
@[simp] theorem State.withTm_regs (f : TmState → TmState) : (s.withTm f).regs = s.regs := rfl
@[simp] theorem State.withTm_wins (f : TmState → TmState) : (s.withTm f).wins = s.wins := rfl
@[simp] theorem State.withTm_ringFull (f : TmState → TmState) : (s.withTm f).ringFull = s.ringFull := rfl
@[simp] theorem State.withTm_mode (f : TmState → TmState) : (s.withTm f).mode = s.mode := rfl
@[simp] theorem State.withTm_car (f : TmState → TmState) : (s.withTm f).car = s.car := rfl
@[simp] theorem State.withTm_probe (f : TmState → TmState) : (s.withTm f).probe = s.probe := rfl
@[simp] theorem State.withTm_buf (f : TmState → TmState) : (s.withTm f).buf = s.buf := rfl
@[simp] theorem State.withTm_route (f : TmState → TmState) : (s.withTm f).route = s.route := rfl
@[simp] theorem State.withTm_eth (f : TmState → TmState) : (s.withTm f).eth = s.eth := rfl
@[simp] theorem State.withTm_chan (f : TmState → TmState) : (s.withTm f).chan = s.chan := rfl
@[simp] theorem State.withTm_gw (f : TmState → TmState) : (s.withTm f).gw = s.gw := rfl
@[simp] theorem State.withTm_tm (f : TmState → TmState) : (s.withTm f).tm = f s.tm := rfl
@[simp] theorem State.withTm_fw (f : TmState → TmState) : (s.withTm f).fw = s.fw := rfl
@[simp] theorem State.withTm_crypto (f : TmState → TmState) : (s.withTm f).crypto = s.crypto := rfl
@[simp] theorem State.withTm_key (f : TmState → TmState) : (s.withTm f).key = s.key := rfl
@[simp] theorem State.withTm_consist (f : TmState → TmState) : (s.withTm f).consist = s.consist := rfl
@[simp] theorem State.withTm_startup (f : TmState → TmState) : (s.withTm f).startup = s.startup := rfl
@[simp] theorem State.withTm_power (f : TmState → TmState) : (s.withTm f).power = s.power := rfl
@[simp] theorem State.withTm_wake (f : TmState → TmState) : (s.withTm f).wake = s.wake := rfl
@[simp] theorem State.withTm_ctl (f : TmState → TmState) : (s.withTm f).ctl = s.ctl := rfl
@[simp] theorem State.withTm_host (f : TmState → TmState) : (s.withTm f).host = s.host := rfl
@[simp] theorem State.withTm_sess (f : TmState → TmState) : (s.withTm f).sess = s.sess := rfl
@[simp] theorem State.withTm_time (f : TmState → TmState) : (s.withTm f).time = s.time := rfl

/-! ### `State.withFw` -/

@[simp] theorem State.withFw_pending (f : FwState → FwState) : (s.withFw f).pending = s.pending := rfl
@[simp] theorem State.withFw_outputs (f : FwState → FwState) : (s.withFw f).outputs = s.outputs := rfl
@[simp] theorem State.withFw_now (f : FwState → FwState) : (s.withFw f).now = s.now := rfl
@[simp] theorem State.withFw_fresh (f : FwState → FwState) : (s.withFw f).fresh = s.fresh := rfl
@[simp] theorem State.withFw_regs (f : FwState → FwState) : (s.withFw f).regs = s.regs := rfl
@[simp] theorem State.withFw_wins (f : FwState → FwState) : (s.withFw f).wins = s.wins := rfl
@[simp] theorem State.withFw_ringFull (f : FwState → FwState) : (s.withFw f).ringFull = s.ringFull := rfl
@[simp] theorem State.withFw_mode (f : FwState → FwState) : (s.withFw f).mode = s.mode := rfl
@[simp] theorem State.withFw_car (f : FwState → FwState) : (s.withFw f).car = s.car := rfl
@[simp] theorem State.withFw_probe (f : FwState → FwState) : (s.withFw f).probe = s.probe := rfl
@[simp] theorem State.withFw_buf (f : FwState → FwState) : (s.withFw f).buf = s.buf := rfl
@[simp] theorem State.withFw_route (f : FwState → FwState) : (s.withFw f).route = s.route := rfl
@[simp] theorem State.withFw_eth (f : FwState → FwState) : (s.withFw f).eth = s.eth := rfl
@[simp] theorem State.withFw_chan (f : FwState → FwState) : (s.withFw f).chan = s.chan := rfl
@[simp] theorem State.withFw_gw (f : FwState → FwState) : (s.withFw f).gw = s.gw := rfl
@[simp] theorem State.withFw_tm (f : FwState → FwState) : (s.withFw f).tm = s.tm := rfl
@[simp] theorem State.withFw_fw (f : FwState → FwState) : (s.withFw f).fw = f s.fw := rfl
@[simp] theorem State.withFw_crypto (f : FwState → FwState) : (s.withFw f).crypto = s.crypto := rfl
@[simp] theorem State.withFw_key (f : FwState → FwState) : (s.withFw f).key = s.key := rfl
@[simp] theorem State.withFw_consist (f : FwState → FwState) : (s.withFw f).consist = s.consist := rfl
@[simp] theorem State.withFw_startup (f : FwState → FwState) : (s.withFw f).startup = s.startup := rfl
@[simp] theorem State.withFw_power (f : FwState → FwState) : (s.withFw f).power = s.power := rfl
@[simp] theorem State.withFw_wake (f : FwState → FwState) : (s.withFw f).wake = s.wake := rfl
@[simp] theorem State.withFw_ctl (f : FwState → FwState) : (s.withFw f).ctl = s.ctl := rfl
@[simp] theorem State.withFw_host (f : FwState → FwState) : (s.withFw f).host = s.host := rfl
@[simp] theorem State.withFw_sess (f : FwState → FwState) : (s.withFw f).sess = s.sess := rfl
@[simp] theorem State.withFw_time (f : FwState → FwState) : (s.withFw f).time = s.time := rfl

/-! ### `State.withCrypto` -/

@[simp] theorem State.withCrypto_pending (f : CryptoState → CryptoState) : (s.withCrypto f).pending = s.pending := rfl
@[simp] theorem State.withCrypto_outputs (f : CryptoState → CryptoState) : (s.withCrypto f).outputs = s.outputs := rfl
@[simp] theorem State.withCrypto_now (f : CryptoState → CryptoState) : (s.withCrypto f).now = s.now := rfl
@[simp] theorem State.withCrypto_fresh (f : CryptoState → CryptoState) : (s.withCrypto f).fresh = s.fresh := rfl
@[simp] theorem State.withCrypto_regs (f : CryptoState → CryptoState) : (s.withCrypto f).regs = s.regs := rfl
@[simp] theorem State.withCrypto_wins (f : CryptoState → CryptoState) : (s.withCrypto f).wins = s.wins := rfl
@[simp] theorem State.withCrypto_ringFull (f : CryptoState → CryptoState) : (s.withCrypto f).ringFull = s.ringFull := rfl
@[simp] theorem State.withCrypto_mode (f : CryptoState → CryptoState) : (s.withCrypto f).mode = s.mode := rfl
@[simp] theorem State.withCrypto_car (f : CryptoState → CryptoState) : (s.withCrypto f).car = s.car := rfl
@[simp] theorem State.withCrypto_probe (f : CryptoState → CryptoState) : (s.withCrypto f).probe = s.probe := rfl
@[simp] theorem State.withCrypto_buf (f : CryptoState → CryptoState) : (s.withCrypto f).buf = s.buf := rfl
@[simp] theorem State.withCrypto_route (f : CryptoState → CryptoState) : (s.withCrypto f).route = s.route := rfl
@[simp] theorem State.withCrypto_eth (f : CryptoState → CryptoState) : (s.withCrypto f).eth = s.eth := rfl
@[simp] theorem State.withCrypto_chan (f : CryptoState → CryptoState) : (s.withCrypto f).chan = s.chan := rfl
@[simp] theorem State.withCrypto_gw (f : CryptoState → CryptoState) : (s.withCrypto f).gw = s.gw := rfl
@[simp] theorem State.withCrypto_tm (f : CryptoState → CryptoState) : (s.withCrypto f).tm = s.tm := rfl
@[simp] theorem State.withCrypto_fw (f : CryptoState → CryptoState) : (s.withCrypto f).fw = s.fw := rfl
@[simp] theorem State.withCrypto_crypto (f : CryptoState → CryptoState) : (s.withCrypto f).crypto = f s.crypto := rfl
@[simp] theorem State.withCrypto_key (f : CryptoState → CryptoState) : (s.withCrypto f).key = s.key := rfl
@[simp] theorem State.withCrypto_consist (f : CryptoState → CryptoState) : (s.withCrypto f).consist = s.consist := rfl
@[simp] theorem State.withCrypto_startup (f : CryptoState → CryptoState) : (s.withCrypto f).startup = s.startup := rfl
@[simp] theorem State.withCrypto_power (f : CryptoState → CryptoState) : (s.withCrypto f).power = s.power := rfl
@[simp] theorem State.withCrypto_wake (f : CryptoState → CryptoState) : (s.withCrypto f).wake = s.wake := rfl
@[simp] theorem State.withCrypto_ctl (f : CryptoState → CryptoState) : (s.withCrypto f).ctl = s.ctl := rfl
@[simp] theorem State.withCrypto_host (f : CryptoState → CryptoState) : (s.withCrypto f).host = s.host := rfl
@[simp] theorem State.withCrypto_sess (f : CryptoState → CryptoState) : (s.withCrypto f).sess = s.sess := rfl
@[simp] theorem State.withCrypto_time (f : CryptoState → CryptoState) : (s.withCrypto f).time = s.time := rfl

/-! ### `State.withKey` -/

@[simp] theorem State.withKey_pending (f : KeyState → KeyState) : (s.withKey f).pending = s.pending := rfl
@[simp] theorem State.withKey_outputs (f : KeyState → KeyState) : (s.withKey f).outputs = s.outputs := rfl
@[simp] theorem State.withKey_now (f : KeyState → KeyState) : (s.withKey f).now = s.now := rfl
@[simp] theorem State.withKey_fresh (f : KeyState → KeyState) : (s.withKey f).fresh = s.fresh := rfl
@[simp] theorem State.withKey_regs (f : KeyState → KeyState) : (s.withKey f).regs = s.regs := rfl
@[simp] theorem State.withKey_wins (f : KeyState → KeyState) : (s.withKey f).wins = s.wins := rfl
@[simp] theorem State.withKey_ringFull (f : KeyState → KeyState) : (s.withKey f).ringFull = s.ringFull := rfl
@[simp] theorem State.withKey_mode (f : KeyState → KeyState) : (s.withKey f).mode = s.mode := rfl
@[simp] theorem State.withKey_car (f : KeyState → KeyState) : (s.withKey f).car = s.car := rfl
@[simp] theorem State.withKey_probe (f : KeyState → KeyState) : (s.withKey f).probe = s.probe := rfl
@[simp] theorem State.withKey_buf (f : KeyState → KeyState) : (s.withKey f).buf = s.buf := rfl
@[simp] theorem State.withKey_route (f : KeyState → KeyState) : (s.withKey f).route = s.route := rfl
@[simp] theorem State.withKey_eth (f : KeyState → KeyState) : (s.withKey f).eth = s.eth := rfl
@[simp] theorem State.withKey_chan (f : KeyState → KeyState) : (s.withKey f).chan = s.chan := rfl
@[simp] theorem State.withKey_gw (f : KeyState → KeyState) : (s.withKey f).gw = s.gw := rfl
@[simp] theorem State.withKey_tm (f : KeyState → KeyState) : (s.withKey f).tm = s.tm := rfl
@[simp] theorem State.withKey_fw (f : KeyState → KeyState) : (s.withKey f).fw = s.fw := rfl
@[simp] theorem State.withKey_crypto (f : KeyState → KeyState) : (s.withKey f).crypto = s.crypto := rfl
@[simp] theorem State.withKey_key (f : KeyState → KeyState) : (s.withKey f).key = f s.key := rfl
@[simp] theorem State.withKey_consist (f : KeyState → KeyState) : (s.withKey f).consist = s.consist := rfl
@[simp] theorem State.withKey_startup (f : KeyState → KeyState) : (s.withKey f).startup = s.startup := rfl
@[simp] theorem State.withKey_power (f : KeyState → KeyState) : (s.withKey f).power = s.power := rfl
@[simp] theorem State.withKey_wake (f : KeyState → KeyState) : (s.withKey f).wake = s.wake := rfl
@[simp] theorem State.withKey_ctl (f : KeyState → KeyState) : (s.withKey f).ctl = s.ctl := rfl
@[simp] theorem State.withKey_host (f : KeyState → KeyState) : (s.withKey f).host = s.host := rfl
@[simp] theorem State.withKey_sess (f : KeyState → KeyState) : (s.withKey f).sess = s.sess := rfl
@[simp] theorem State.withKey_time (f : KeyState → KeyState) : (s.withKey f).time = s.time := rfl

/-! ### `State.withConsist` -/

@[simp] theorem State.withConsist_pending (f : ConsistState → ConsistState) : (s.withConsist f).pending = s.pending := rfl
@[simp] theorem State.withConsist_outputs (f : ConsistState → ConsistState) : (s.withConsist f).outputs = s.outputs := rfl
@[simp] theorem State.withConsist_now (f : ConsistState → ConsistState) : (s.withConsist f).now = s.now := rfl
@[simp] theorem State.withConsist_fresh (f : ConsistState → ConsistState) : (s.withConsist f).fresh = s.fresh := rfl
@[simp] theorem State.withConsist_regs (f : ConsistState → ConsistState) : (s.withConsist f).regs = s.regs := rfl
@[simp] theorem State.withConsist_wins (f : ConsistState → ConsistState) : (s.withConsist f).wins = s.wins := rfl
@[simp] theorem State.withConsist_ringFull (f : ConsistState → ConsistState) : (s.withConsist f).ringFull = s.ringFull := rfl
@[simp] theorem State.withConsist_mode (f : ConsistState → ConsistState) : (s.withConsist f).mode = s.mode := rfl
@[simp] theorem State.withConsist_car (f : ConsistState → ConsistState) : (s.withConsist f).car = s.car := rfl
@[simp] theorem State.withConsist_probe (f : ConsistState → ConsistState) : (s.withConsist f).probe = s.probe := rfl
@[simp] theorem State.withConsist_buf (f : ConsistState → ConsistState) : (s.withConsist f).buf = s.buf := rfl
@[simp] theorem State.withConsist_route (f : ConsistState → ConsistState) : (s.withConsist f).route = s.route := rfl
@[simp] theorem State.withConsist_eth (f : ConsistState → ConsistState) : (s.withConsist f).eth = s.eth := rfl
@[simp] theorem State.withConsist_chan (f : ConsistState → ConsistState) : (s.withConsist f).chan = s.chan := rfl
@[simp] theorem State.withConsist_gw (f : ConsistState → ConsistState) : (s.withConsist f).gw = s.gw := rfl
@[simp] theorem State.withConsist_tm (f : ConsistState → ConsistState) : (s.withConsist f).tm = s.tm := rfl
@[simp] theorem State.withConsist_fw (f : ConsistState → ConsistState) : (s.withConsist f).fw = s.fw := rfl
@[simp] theorem State.withConsist_crypto (f : ConsistState → ConsistState) : (s.withConsist f).crypto = s.crypto := rfl
@[simp] theorem State.withConsist_key (f : ConsistState → ConsistState) : (s.withConsist f).key = s.key := rfl
@[simp] theorem State.withConsist_consist (f : ConsistState → ConsistState) : (s.withConsist f).consist = f s.consist := rfl
@[simp] theorem State.withConsist_startup (f : ConsistState → ConsistState) : (s.withConsist f).startup = s.startup := rfl
@[simp] theorem State.withConsist_power (f : ConsistState → ConsistState) : (s.withConsist f).power = s.power := rfl
@[simp] theorem State.withConsist_wake (f : ConsistState → ConsistState) : (s.withConsist f).wake = s.wake := rfl
@[simp] theorem State.withConsist_ctl (f : ConsistState → ConsistState) : (s.withConsist f).ctl = s.ctl := rfl
@[simp] theorem State.withConsist_host (f : ConsistState → ConsistState) : (s.withConsist f).host = s.host := rfl
@[simp] theorem State.withConsist_sess (f : ConsistState → ConsistState) : (s.withConsist f).sess = s.sess := rfl
@[simp] theorem State.withConsist_time (f : ConsistState → ConsistState) : (s.withConsist f).time = s.time := rfl

/-! ### `State.withPower` -/

@[simp] theorem State.withPower_pending (f : PowerState → PowerState) : (s.withPower f).pending = s.pending := rfl
@[simp] theorem State.withPower_outputs (f : PowerState → PowerState) : (s.withPower f).outputs = s.outputs := rfl
@[simp] theorem State.withPower_now (f : PowerState → PowerState) : (s.withPower f).now = s.now := rfl
@[simp] theorem State.withPower_fresh (f : PowerState → PowerState) : (s.withPower f).fresh = s.fresh := rfl
@[simp] theorem State.withPower_regs (f : PowerState → PowerState) : (s.withPower f).regs = s.regs := rfl
@[simp] theorem State.withPower_wins (f : PowerState → PowerState) : (s.withPower f).wins = s.wins := rfl
@[simp] theorem State.withPower_ringFull (f : PowerState → PowerState) : (s.withPower f).ringFull = s.ringFull := rfl
@[simp] theorem State.withPower_mode (f : PowerState → PowerState) : (s.withPower f).mode = s.mode := rfl
@[simp] theorem State.withPower_car (f : PowerState → PowerState) : (s.withPower f).car = s.car := rfl
@[simp] theorem State.withPower_probe (f : PowerState → PowerState) : (s.withPower f).probe = s.probe := rfl
@[simp] theorem State.withPower_buf (f : PowerState → PowerState) : (s.withPower f).buf = s.buf := rfl
@[simp] theorem State.withPower_route (f : PowerState → PowerState) : (s.withPower f).route = s.route := rfl
@[simp] theorem State.withPower_eth (f : PowerState → PowerState) : (s.withPower f).eth = s.eth := rfl
@[simp] theorem State.withPower_chan (f : PowerState → PowerState) : (s.withPower f).chan = s.chan := rfl
@[simp] theorem State.withPower_gw (f : PowerState → PowerState) : (s.withPower f).gw = s.gw := rfl
@[simp] theorem State.withPower_tm (f : PowerState → PowerState) : (s.withPower f).tm = s.tm := rfl
@[simp] theorem State.withPower_fw (f : PowerState → PowerState) : (s.withPower f).fw = s.fw := rfl
@[simp] theorem State.withPower_crypto (f : PowerState → PowerState) : (s.withPower f).crypto = s.crypto := rfl
@[simp] theorem State.withPower_key (f : PowerState → PowerState) : (s.withPower f).key = s.key := rfl
@[simp] theorem State.withPower_consist (f : PowerState → PowerState) : (s.withPower f).consist = s.consist := rfl
@[simp] theorem State.withPower_startup (f : PowerState → PowerState) : (s.withPower f).startup = s.startup := rfl
@[simp] theorem State.withPower_power (f : PowerState → PowerState) : (s.withPower f).power = f s.power := rfl
@[simp] theorem State.withPower_wake (f : PowerState → PowerState) : (s.withPower f).wake = s.wake := rfl
@[simp] theorem State.withPower_ctl (f : PowerState → PowerState) : (s.withPower f).ctl = s.ctl := rfl
@[simp] theorem State.withPower_host (f : PowerState → PowerState) : (s.withPower f).host = s.host := rfl
@[simp] theorem State.withPower_sess (f : PowerState → PowerState) : (s.withPower f).sess = s.sess := rfl
@[simp] theorem State.withPower_time (f : PowerState → PowerState) : (s.withPower f).time = s.time := rfl

/-! ### `State.withCtl` -/

@[simp] theorem State.withCtl_pending (f : CtlState → CtlState) : (s.withCtl f).pending = s.pending := rfl
@[simp] theorem State.withCtl_outputs (f : CtlState → CtlState) : (s.withCtl f).outputs = s.outputs := rfl
@[simp] theorem State.withCtl_now (f : CtlState → CtlState) : (s.withCtl f).now = s.now := rfl
@[simp] theorem State.withCtl_fresh (f : CtlState → CtlState) : (s.withCtl f).fresh = s.fresh := rfl
@[simp] theorem State.withCtl_regs (f : CtlState → CtlState) : (s.withCtl f).regs = s.regs := rfl
@[simp] theorem State.withCtl_wins (f : CtlState → CtlState) : (s.withCtl f).wins = s.wins := rfl
@[simp] theorem State.withCtl_ringFull (f : CtlState → CtlState) : (s.withCtl f).ringFull = s.ringFull := rfl
@[simp] theorem State.withCtl_mode (f : CtlState → CtlState) : (s.withCtl f).mode = s.mode := rfl
@[simp] theorem State.withCtl_car (f : CtlState → CtlState) : (s.withCtl f).car = s.car := rfl
@[simp] theorem State.withCtl_probe (f : CtlState → CtlState) : (s.withCtl f).probe = s.probe := rfl
@[simp] theorem State.withCtl_buf (f : CtlState → CtlState) : (s.withCtl f).buf = s.buf := rfl
@[simp] theorem State.withCtl_route (f : CtlState → CtlState) : (s.withCtl f).route = s.route := rfl
@[simp] theorem State.withCtl_eth (f : CtlState → CtlState) : (s.withCtl f).eth = s.eth := rfl
@[simp] theorem State.withCtl_chan (f : CtlState → CtlState) : (s.withCtl f).chan = s.chan := rfl
@[simp] theorem State.withCtl_gw (f : CtlState → CtlState) : (s.withCtl f).gw = s.gw := rfl
@[simp] theorem State.withCtl_tm (f : CtlState → CtlState) : (s.withCtl f).tm = s.tm := rfl
@[simp] theorem State.withCtl_fw (f : CtlState → CtlState) : (s.withCtl f).fw = s.fw := rfl
@[simp] theorem State.withCtl_crypto (f : CtlState → CtlState) : (s.withCtl f).crypto = s.crypto := rfl
@[simp] theorem State.withCtl_key (f : CtlState → CtlState) : (s.withCtl f).key = s.key := rfl
@[simp] theorem State.withCtl_consist (f : CtlState → CtlState) : (s.withCtl f).consist = s.consist := rfl
@[simp] theorem State.withCtl_startup (f : CtlState → CtlState) : (s.withCtl f).startup = s.startup := rfl
@[simp] theorem State.withCtl_power (f : CtlState → CtlState) : (s.withCtl f).power = s.power := rfl
@[simp] theorem State.withCtl_wake (f : CtlState → CtlState) : (s.withCtl f).wake = s.wake := rfl
@[simp] theorem State.withCtl_ctl (f : CtlState → CtlState) : (s.withCtl f).ctl = f s.ctl := rfl
@[simp] theorem State.withCtl_host (f : CtlState → CtlState) : (s.withCtl f).host = s.host := rfl
@[simp] theorem State.withCtl_sess (f : CtlState → CtlState) : (s.withCtl f).sess = s.sess := rfl
@[simp] theorem State.withCtl_time (f : CtlState → CtlState) : (s.withCtl f).time = s.time := rfl

/-! ### `State.withHost` -/

@[simp] theorem State.withHost_pending (f : HostState → HostState) : (s.withHost f).pending = s.pending := rfl
@[simp] theorem State.withHost_outputs (f : HostState → HostState) : (s.withHost f).outputs = s.outputs := rfl
@[simp] theorem State.withHost_now (f : HostState → HostState) : (s.withHost f).now = s.now := rfl
@[simp] theorem State.withHost_fresh (f : HostState → HostState) : (s.withHost f).fresh = s.fresh := rfl
@[simp] theorem State.withHost_regs (f : HostState → HostState) : (s.withHost f).regs = s.regs := rfl
@[simp] theorem State.withHost_wins (f : HostState → HostState) : (s.withHost f).wins = s.wins := rfl
@[simp] theorem State.withHost_ringFull (f : HostState → HostState) : (s.withHost f).ringFull = s.ringFull := rfl
@[simp] theorem State.withHost_mode (f : HostState → HostState) : (s.withHost f).mode = s.mode := rfl
@[simp] theorem State.withHost_car (f : HostState → HostState) : (s.withHost f).car = s.car := rfl
@[simp] theorem State.withHost_probe (f : HostState → HostState) : (s.withHost f).probe = s.probe := rfl
@[simp] theorem State.withHost_buf (f : HostState → HostState) : (s.withHost f).buf = s.buf := rfl
@[simp] theorem State.withHost_route (f : HostState → HostState) : (s.withHost f).route = s.route := rfl
@[simp] theorem State.withHost_eth (f : HostState → HostState) : (s.withHost f).eth = s.eth := rfl
@[simp] theorem State.withHost_chan (f : HostState → HostState) : (s.withHost f).chan = s.chan := rfl
@[simp] theorem State.withHost_gw (f : HostState → HostState) : (s.withHost f).gw = s.gw := rfl
@[simp] theorem State.withHost_tm (f : HostState → HostState) : (s.withHost f).tm = s.tm := rfl
@[simp] theorem State.withHost_fw (f : HostState → HostState) : (s.withHost f).fw = s.fw := rfl
@[simp] theorem State.withHost_crypto (f : HostState → HostState) : (s.withHost f).crypto = s.crypto := rfl
@[simp] theorem State.withHost_key (f : HostState → HostState) : (s.withHost f).key = s.key := rfl
@[simp] theorem State.withHost_consist (f : HostState → HostState) : (s.withHost f).consist = s.consist := rfl
@[simp] theorem State.withHost_startup (f : HostState → HostState) : (s.withHost f).startup = s.startup := rfl
@[simp] theorem State.withHost_power (f : HostState → HostState) : (s.withHost f).power = s.power := rfl
@[simp] theorem State.withHost_wake (f : HostState → HostState) : (s.withHost f).wake = s.wake := rfl
@[simp] theorem State.withHost_ctl (f : HostState → HostState) : (s.withHost f).ctl = s.ctl := rfl
@[simp] theorem State.withHost_host (f : HostState → HostState) : (s.withHost f).host = f s.host := rfl
@[simp] theorem State.withHost_sess (f : HostState → HostState) : (s.withHost f).sess = s.sess := rfl
@[simp] theorem State.withHost_time (f : HostState → HostState) : (s.withHost f).time = s.time := rfl

/-! ### `State.withSess` -/

@[simp] theorem State.withSess_pending (f : SessState → SessState) : (s.withSess f).pending = s.pending := rfl
@[simp] theorem State.withSess_outputs (f : SessState → SessState) : (s.withSess f).outputs = s.outputs := rfl
@[simp] theorem State.withSess_now (f : SessState → SessState) : (s.withSess f).now = s.now := rfl
@[simp] theorem State.withSess_fresh (f : SessState → SessState) : (s.withSess f).fresh = s.fresh := rfl
@[simp] theorem State.withSess_regs (f : SessState → SessState) : (s.withSess f).regs = s.regs := rfl
@[simp] theorem State.withSess_wins (f : SessState → SessState) : (s.withSess f).wins = s.wins := rfl
@[simp] theorem State.withSess_ringFull (f : SessState → SessState) : (s.withSess f).ringFull = s.ringFull := rfl
@[simp] theorem State.withSess_mode (f : SessState → SessState) : (s.withSess f).mode = s.mode := rfl
@[simp] theorem State.withSess_car (f : SessState → SessState) : (s.withSess f).car = s.car := rfl
@[simp] theorem State.withSess_probe (f : SessState → SessState) : (s.withSess f).probe = s.probe := rfl
@[simp] theorem State.withSess_buf (f : SessState → SessState) : (s.withSess f).buf = s.buf := rfl
@[simp] theorem State.withSess_route (f : SessState → SessState) : (s.withSess f).route = s.route := rfl
@[simp] theorem State.withSess_eth (f : SessState → SessState) : (s.withSess f).eth = s.eth := rfl
@[simp] theorem State.withSess_chan (f : SessState → SessState) : (s.withSess f).chan = s.chan := rfl
@[simp] theorem State.withSess_gw (f : SessState → SessState) : (s.withSess f).gw = s.gw := rfl
@[simp] theorem State.withSess_tm (f : SessState → SessState) : (s.withSess f).tm = s.tm := rfl
@[simp] theorem State.withSess_fw (f : SessState → SessState) : (s.withSess f).fw = s.fw := rfl
@[simp] theorem State.withSess_crypto (f : SessState → SessState) : (s.withSess f).crypto = s.crypto := rfl
@[simp] theorem State.withSess_key (f : SessState → SessState) : (s.withSess f).key = s.key := rfl
@[simp] theorem State.withSess_consist (f : SessState → SessState) : (s.withSess f).consist = s.consist := rfl
@[simp] theorem State.withSess_startup (f : SessState → SessState) : (s.withSess f).startup = s.startup := rfl
@[simp] theorem State.withSess_power (f : SessState → SessState) : (s.withSess f).power = s.power := rfl
@[simp] theorem State.withSess_wake (f : SessState → SessState) : (s.withSess f).wake = s.wake := rfl
@[simp] theorem State.withSess_ctl (f : SessState → SessState) : (s.withSess f).ctl = s.ctl := rfl
@[simp] theorem State.withSess_host (f : SessState → SessState) : (s.withSess f).host = s.host := rfl
@[simp] theorem State.withSess_sess (f : SessState → SessState) : (s.withSess f).sess = f s.sess := rfl
@[simp] theorem State.withSess_time (f : SessState → SessState) : (s.withSess f).time = s.time := rfl

/-! ### `State.modCh` -/

@[simp] theorem State.modCh_pending (c : Nat) (f : ChanDyn → ChanDyn) : (s.modCh c f).pending = s.pending := rfl
@[simp] theorem State.modCh_outputs (c : Nat) (f : ChanDyn → ChanDyn) : (s.modCh c f).outputs = s.outputs := rfl
@[simp] theorem State.modCh_now (c : Nat) (f : ChanDyn → ChanDyn) : (s.modCh c f).now = s.now := rfl
@[simp] theorem State.modCh_fresh (c : Nat) (f : ChanDyn → ChanDyn) : (s.modCh c f).fresh = s.fresh := rfl
@[simp] theorem State.modCh_regs (c : Nat) (f : ChanDyn → ChanDyn) : (s.modCh c f).regs = s.regs := rfl
@[simp] theorem State.modCh_wins (c : Nat) (f : ChanDyn → ChanDyn) : (s.modCh c f).wins = s.wins := rfl
@[simp] theorem State.modCh_ringFull (c : Nat) (f : ChanDyn → ChanDyn) : (s.modCh c f).ringFull = s.ringFull := rfl
@[simp] theorem State.modCh_mode (c : Nat) (f : ChanDyn → ChanDyn) : (s.modCh c f).mode = s.mode := rfl
@[simp] theorem State.modCh_car (c : Nat) (f : ChanDyn → ChanDyn) : (s.modCh c f).car = s.car := rfl
@[simp] theorem State.modCh_probe (c : Nat) (f : ChanDyn → ChanDyn) : (s.modCh c f).probe = s.probe := rfl
@[simp] theorem State.modCh_buf (c : Nat) (f : ChanDyn → ChanDyn) : (s.modCh c f).buf = s.buf := rfl
@[simp] theorem State.modCh_route (c : Nat) (f : ChanDyn → ChanDyn) : (s.modCh c f).route = s.route := rfl
@[simp] theorem State.modCh_eth (c : Nat) (f : ChanDyn → ChanDyn) : (s.modCh c f).eth = s.eth := rfl
@[simp] theorem State.modCh_chan (c : Nat) (f : ChanDyn → ChanDyn) : (s.modCh c f).chan = mapPut .idle s.chan c (f (mapGetD s.chan c .idle)) := rfl
@[simp] theorem State.modCh_gw (c : Nat) (f : ChanDyn → ChanDyn) : (s.modCh c f).gw = s.gw := rfl
@[simp] theorem State.modCh_tm (c : Nat) (f : ChanDyn → ChanDyn) : (s.modCh c f).tm = s.tm := rfl
@[simp] theorem State.modCh_fw (c : Nat) (f : ChanDyn → ChanDyn) : (s.modCh c f).fw = s.fw := rfl
@[simp] theorem State.modCh_crypto (c : Nat) (f : ChanDyn → ChanDyn) : (s.modCh c f).crypto = s.crypto := rfl
@[simp] theorem State.modCh_key (c : Nat) (f : ChanDyn → ChanDyn) : (s.modCh c f).key = s.key := rfl
@[simp] theorem State.modCh_consist (c : Nat) (f : ChanDyn → ChanDyn) : (s.modCh c f).consist = s.consist := rfl
@[simp] theorem State.modCh_startup (c : Nat) (f : ChanDyn → ChanDyn) : (s.modCh c f).startup = s.startup := rfl
@[simp] theorem State.modCh_power (c : Nat) (f : ChanDyn → ChanDyn) : (s.modCh c f).power = s.power := rfl
@[simp] theorem State.modCh_wake (c : Nat) (f : ChanDyn → ChanDyn) : (s.modCh c f).wake = s.wake := rfl
@[simp] theorem State.modCh_ctl (c : Nat) (f : ChanDyn → ChanDyn) : (s.modCh c f).ctl = s.ctl := rfl
@[simp] theorem State.modCh_host (c : Nat) (f : ChanDyn → ChanDyn) : (s.modCh c f).host = s.host := rfl
@[simp] theorem State.modCh_sess (c : Nat) (f : ChanDyn → ChanDyn) : (s.modCh c f).sess = s.sess := rfl
@[simp] theorem State.modCh_time (c : Nat) (f : ChanDyn → ChanDyn) : (s.modCh c f).time = s.time := rfl

/-! ### `State.modPdyn` -/

@[simp] theorem State.modPdyn_pending (p : Nat) (f : PortDyn → PortDyn) : (s.modPdyn p f).pending = s.pending := rfl
@[simp] theorem State.modPdyn_outputs (p : Nat) (f : PortDyn → PortDyn) : (s.modPdyn p f).outputs = s.outputs := rfl
@[simp] theorem State.modPdyn_now (p : Nat) (f : PortDyn → PortDyn) : (s.modPdyn p f).now = s.now := rfl
@[simp] theorem State.modPdyn_fresh (p : Nat) (f : PortDyn → PortDyn) : (s.modPdyn p f).fresh = s.fresh := rfl
@[simp] theorem State.modPdyn_regs (p : Nat) (f : PortDyn → PortDyn) : (s.modPdyn p f).regs = s.regs := rfl
@[simp] theorem State.modPdyn_wins (p : Nat) (f : PortDyn → PortDyn) : (s.modPdyn p f).wins = s.wins := rfl
@[simp] theorem State.modPdyn_ringFull (p : Nat) (f : PortDyn → PortDyn) : (s.modPdyn p f).ringFull = s.ringFull := rfl
@[simp] theorem State.modPdyn_mode (p : Nat) (f : PortDyn → PortDyn) : (s.modPdyn p f).mode = s.mode := rfl
@[simp] theorem State.modPdyn_car (p : Nat) (f : PortDyn → PortDyn) : (s.modPdyn p f).car = s.car := rfl
@[simp] theorem State.modPdyn_probe (p : Nat) (f : PortDyn → PortDyn) : (s.modPdyn p f).probe = s.probe := rfl
@[simp] theorem State.modPdyn_buf (p : Nat) (f : PortDyn → PortDyn) : (s.modPdyn p f).buf = s.buf := rfl
@[simp] theorem State.modPdyn_route (p : Nat) (f : PortDyn → PortDyn) : (s.modPdyn p f).route = s.route := rfl
@[simp] theorem State.modPdyn_eth (p : Nat) (f : PortDyn → PortDyn) : (s.modPdyn p f).eth = { s.eth with ports := mapPut .idle s.eth.ports p (f (mapGetD s.eth.ports p .idle)) } := rfl
@[simp] theorem State.modPdyn_chan (p : Nat) (f : PortDyn → PortDyn) : (s.modPdyn p f).chan = s.chan := rfl
@[simp] theorem State.modPdyn_gw (p : Nat) (f : PortDyn → PortDyn) : (s.modPdyn p f).gw = s.gw := rfl
@[simp] theorem State.modPdyn_tm (p : Nat) (f : PortDyn → PortDyn) : (s.modPdyn p f).tm = s.tm := rfl
@[simp] theorem State.modPdyn_fw (p : Nat) (f : PortDyn → PortDyn) : (s.modPdyn p f).fw = s.fw := rfl
@[simp] theorem State.modPdyn_crypto (p : Nat) (f : PortDyn → PortDyn) : (s.modPdyn p f).crypto = s.crypto := rfl
@[simp] theorem State.modPdyn_key (p : Nat) (f : PortDyn → PortDyn) : (s.modPdyn p f).key = s.key := rfl
@[simp] theorem State.modPdyn_consist (p : Nat) (f : PortDyn → PortDyn) : (s.modPdyn p f).consist = s.consist := rfl
@[simp] theorem State.modPdyn_startup (p : Nat) (f : PortDyn → PortDyn) : (s.modPdyn p f).startup = s.startup := rfl
@[simp] theorem State.modPdyn_power (p : Nat) (f : PortDyn → PortDyn) : (s.modPdyn p f).power = s.power := rfl
@[simp] theorem State.modPdyn_wake (p : Nat) (f : PortDyn → PortDyn) : (s.modPdyn p f).wake = s.wake := rfl
@[simp] theorem State.modPdyn_ctl (p : Nat) (f : PortDyn → PortDyn) : (s.modPdyn p f).ctl = s.ctl := rfl
@[simp] theorem State.modPdyn_host (p : Nat) (f : PortDyn → PortDyn) : (s.modPdyn p f).host = s.host := rfl
@[simp] theorem State.modPdyn_sess (p : Nat) (f : PortDyn → PortDyn) : (s.modPdyn p f).sess = s.sess := rfl
@[simp] theorem State.modPdyn_time (p : Nat) (f : PortDyn → PortDyn) : (s.modPdyn p f).time = s.time := rfl

/-! ### `State.withWake` -/

@[simp] theorem State.withWake_pending (f : WakeState → WakeState) : (s.withWake f).pending = s.pending := rfl
@[simp] theorem State.withWake_outputs (f : WakeState → WakeState) : (s.withWake f).outputs = s.outputs := rfl
@[simp] theorem State.withWake_now (f : WakeState → WakeState) : (s.withWake f).now = s.now := rfl
@[simp] theorem State.withWake_fresh (f : WakeState → WakeState) : (s.withWake f).fresh = s.fresh := rfl
@[simp] theorem State.withWake_regs (f : WakeState → WakeState) : (s.withWake f).regs = s.regs := rfl
@[simp] theorem State.withWake_wins (f : WakeState → WakeState) : (s.withWake f).wins = s.wins := rfl
@[simp] theorem State.withWake_ringFull (f : WakeState → WakeState) : (s.withWake f).ringFull = s.ringFull := rfl
@[simp] theorem State.withWake_mode (f : WakeState → WakeState) : (s.withWake f).mode = s.mode := rfl
@[simp] theorem State.withWake_car (f : WakeState → WakeState) : (s.withWake f).car = s.car := rfl
@[simp] theorem State.withWake_probe (f : WakeState → WakeState) : (s.withWake f).probe = s.probe := rfl
@[simp] theorem State.withWake_buf (f : WakeState → WakeState) : (s.withWake f).buf = s.buf := rfl
@[simp] theorem State.withWake_route (f : WakeState → WakeState) : (s.withWake f).route = s.route := rfl
@[simp] theorem State.withWake_eth (f : WakeState → WakeState) : (s.withWake f).eth = s.eth := rfl
@[simp] theorem State.withWake_chan (f : WakeState → WakeState) : (s.withWake f).chan = s.chan := rfl
@[simp] theorem State.withWake_gw (f : WakeState → WakeState) : (s.withWake f).gw = s.gw := rfl
@[simp] theorem State.withWake_tm (f : WakeState → WakeState) : (s.withWake f).tm = s.tm := rfl
@[simp] theorem State.withWake_fw (f : WakeState → WakeState) : (s.withWake f).fw = s.fw := rfl
@[simp] theorem State.withWake_crypto (f : WakeState → WakeState) : (s.withWake f).crypto = s.crypto := rfl
@[simp] theorem State.withWake_key (f : WakeState → WakeState) : (s.withWake f).key = s.key := rfl
@[simp] theorem State.withWake_consist (f : WakeState → WakeState) : (s.withWake f).consist = s.consist := rfl
@[simp] theorem State.withWake_startup (f : WakeState → WakeState) : (s.withWake f).startup = s.startup := rfl
@[simp] theorem State.withWake_power (f : WakeState → WakeState) : (s.withWake f).power = s.power := rfl
@[simp] theorem State.withWake_wake (f : WakeState → WakeState) : (s.withWake f).wake = f s.wake := rfl
@[simp] theorem State.withWake_ctl (f : WakeState → WakeState) : (s.withWake f).ctl = s.ctl := rfl
@[simp] theorem State.withWake_host (f : WakeState → WakeState) : (s.withWake f).host = s.host := rfl
@[simp] theorem State.withWake_sess (f : WakeState → WakeState) : (s.withWake f).sess = s.sess := rfl
@[simp] theorem State.withWake_time (f : WakeState → WakeState) : (s.withWake f).time = s.time := rfl

/-! ### `State.withTime` -/

@[simp] theorem State.withTime_pending (f : TimeState → TimeState) : (s.withTime f).pending = s.pending := rfl
@[simp] theorem State.withTime_outputs (f : TimeState → TimeState) : (s.withTime f).outputs = s.outputs := rfl
@[simp] theorem State.withTime_now (f : TimeState → TimeState) : (s.withTime f).now = s.now := rfl
@[simp] theorem State.withTime_fresh (f : TimeState → TimeState) : (s.withTime f).fresh = s.fresh := rfl
@[simp] theorem State.withTime_regs (f : TimeState → TimeState) : (s.withTime f).regs = s.regs := rfl
@[simp] theorem State.withTime_wins (f : TimeState → TimeState) : (s.withTime f).wins = s.wins := rfl
@[simp] theorem State.withTime_ringFull (f : TimeState → TimeState) : (s.withTime f).ringFull = s.ringFull := rfl
@[simp] theorem State.withTime_mode (f : TimeState → TimeState) : (s.withTime f).mode = s.mode := rfl
@[simp] theorem State.withTime_car (f : TimeState → TimeState) : (s.withTime f).car = s.car := rfl
@[simp] theorem State.withTime_probe (f : TimeState → TimeState) : (s.withTime f).probe = s.probe := rfl
@[simp] theorem State.withTime_buf (f : TimeState → TimeState) : (s.withTime f).buf = s.buf := rfl
@[simp] theorem State.withTime_route (f : TimeState → TimeState) : (s.withTime f).route = s.route := rfl
@[simp] theorem State.withTime_eth (f : TimeState → TimeState) : (s.withTime f).eth = s.eth := rfl
@[simp] theorem State.withTime_chan (f : TimeState → TimeState) : (s.withTime f).chan = s.chan := rfl
@[simp] theorem State.withTime_gw (f : TimeState → TimeState) : (s.withTime f).gw = s.gw := rfl
@[simp] theorem State.withTime_tm (f : TimeState → TimeState) : (s.withTime f).tm = s.tm := rfl
@[simp] theorem State.withTime_fw (f : TimeState → TimeState) : (s.withTime f).fw = s.fw := rfl
@[simp] theorem State.withTime_crypto (f : TimeState → TimeState) : (s.withTime f).crypto = s.crypto := rfl
@[simp] theorem State.withTime_key (f : TimeState → TimeState) : (s.withTime f).key = s.key := rfl
@[simp] theorem State.withTime_consist (f : TimeState → TimeState) : (s.withTime f).consist = s.consist := rfl
@[simp] theorem State.withTime_startup (f : TimeState → TimeState) : (s.withTime f).startup = s.startup := rfl
@[simp] theorem State.withTime_power (f : TimeState → TimeState) : (s.withTime f).power = s.power := rfl
@[simp] theorem State.withTime_wake (f : TimeState → TimeState) : (s.withTime f).wake = s.wake := rfl
@[simp] theorem State.withTime_ctl (f : TimeState → TimeState) : (s.withTime f).ctl = s.ctl := rfl
@[simp] theorem State.withTime_host (f : TimeState → TimeState) : (s.withTime f).host = s.host := rfl
@[simp] theorem State.withTime_sess (f : TimeState → TimeState) : (s.withTime f).sess = s.sess := rfl
@[simp] theorem State.withTime_time (f : TimeState → TimeState) : (s.withTime f).time = f s.time := rfl

/-! ### Reading after writing -/

/-- A key below every key of a rising list is not in it. -/
theorem mapGet_below {α : Type} {m : List (Nat × α)} {k x : Nat} {v : α} (h : keysRise ((k, v) :: m) = true) (hx : x ≤ k) : mapGet m x = none := by
  cases m with
  | nil => rfl
  | cons b r =>
    obtain ⟨k', v'⟩ := b
    simp only [keysRise, Bool.and_eq_true, decide_eq_true_eq] at h
    simp only [mapGet]
    rw [if_neg (by omega), if_pos (by omega)]

/-- The rest of a rising list rises. -/
theorem keysRise_tail {α : Type} {m : List (Nat × α)} {e : Nat × α} (h : keysRise (e :: m) = true) : keysRise m = true := by
  cases m with
  | nil => rfl
  | cons b r => simp only [keysRise, Bool.and_eq_true] at h; exact h.2

/-- A key taken out of a rising list is not in it. -/
theorem mapGet_mapDel {α : Type} {m : List (Nat × α)} {x : Nat} (h : keysRise m = true) : mapGet (mapDel m x) x = none := by
  induction m with
  | nil => rfl
  | cons b r ih =>
    obtain ⟨k, v⟩ := b
    simp only [mapDel]
    split
    · rename_i e; exact mapGet_below h (by omega)
    · split
      · rename_i h1 h2; simp only [mapGet, if_neg h1, if_pos h2]
      · rename_i h1 h2; simp only [mapGet, if_neg h1, if_neg h2]; exact ih (keysRise_tail h)

/-- Reading another key than the one taken out. -/
theorem mapGet_mapDel_ne {α : Type} {m : List (Nat × α)} {x y : Nat} (h : keysRise m = true) (hy : y ≠ x) :
    mapGet (mapDel m x) y = mapGet m y := by
  induction m with
  | nil => rfl
  | cons b r ih =>
    obtain ⟨k, v⟩ := b
    simp only [mapDel]
    split
    · rename_i e
      simp only [mapGet]
      rw [if_neg (by omega)]
      split
      · exact mapGet_below h (by omega)
      · rfl
    · split
      · rfl
      · simp only [mapGet, ih (keysRise_tail h)]

/-- The key just put reads as the value put, listed or not. -/
theorem mapGetD_mapPut {α : Type} [DecidableEq α] {d : α} {m : List (Nat × α)} {x : Nat} {a : α} (h : keysRise m = true) :
    mapGetD (mapPut d m x a) x d = a := by
  unfold mapGetD mapPut
  split
  · rename_i e; rw [mapGet_mapDel h, e]; rfl
  · rw [mapGet_mapSet_self]; rfl

/-- Another key than the one put reads as before. -/
theorem mapGetD_mapPut_ne {α : Type} [DecidableEq α] {d e : α} {m : List (Nat × α)} {x y : Nat} {a : α} (h : keysRise m = true) (hy : y ≠ x) :
    mapGetD (mapPut d m x a) y e = mapGetD m y e := by
  unfold mapGetD mapPut
  split
  · rw [mapGet_mapDel_ne h hy]
  · rw [mapGet_mapSet_ne m a hy]

/-- Scalars in canonical form have rising keys. -/
theorem Regs.rise {m : List (Nat × BitVec 64)} (h : Regs.wf m = true) : keysRise m = true := by
  unfold Regs.wf at h; exact (Bool.and_eq_true _ _ ▸ h).1

/-- Window bytes in canonical form have rising keys. -/
theorem Memory.rise {m : List (Nat × Byte)} (h : Memory.wf m = true) : keysRise m = true := by
  unfold Memory.wf at h; exact (Bool.and_eq_true _ _ ▸ h).1

/-- A scalar reads as the value just written. -/
theorem State.rd_wr {s : State} (h : Regs.wf s.regs = true) (idx sub v : Nat) : (s.wr idx sub v).rd idx sub = v % 2 ^ 64 := by
  unfold State.rd State.wr
  dsimp only
  rw [mapGetD_mapPut (Regs.rise h)]
  simp

/-- A write leaves every other scalar alone. -/
theorem State.rd_wr_ne {s : State} (h : Regs.wf s.regs = true) {idx sub i a : Nat} (v : Nat) (hk : regKey i a ≠ regKey idx sub) :
    (s.wr idx sub v).rd i a = s.rd i a := by
  unfold State.rd State.wr
  dsimp only
  rw [mapGetD_mapPut_ne (Regs.rise h) hk]

/-- A window byte reads as the value just written. -/
theorem State.winB_setWinB {s : State} (h : Memory.wf s.wins = true) (idx sub off v : Nat) :
    (s.setWinB idx sub off v).winB idx sub off = v % 256 := by
  unfold State.winB State.setWinB
  dsimp only
  rw [mapGetD_mapPut (Memory.rise h)]
  simp

/-- A byte written leaves every other byte alone. -/
theorem State.winB_setWinB_ne {s : State} (h : Memory.wf s.wins = true) {idx sub off i a o : Nat} (v : Nat)
    (hk : winKey i a o ≠ winKey idx sub off) : (s.setWinB idx sub off v).winB i a o = s.winB i a o := by
  unfold State.winB State.setWinB
  dsimp only
  rw [mapGetD_mapPut_ne (Memory.rise h) hk]

/-- Bytes written leave every other field than the windows alone. -/
theorem State.setWin_rest : ∀ (bs : List Byte) (s : State) (idx sub off : Nat), s.setWin idx sub off bs = { s with wins := (s.setWin idx sub off bs).wins }
  | [], _, _, _, _ => rfl
  | b :: bs, s, idx, sub, off => by
    show (s.setWinB idx sub off b.toNat).setWin idx sub (off + 1) bs = _
    rw [State.setWin_rest bs]
    rfl

/-- An event writes its record, the ring's counters and the mark of a full ring, and nothing else. -/
theorem State.event_rest (s : State) (src code d0 d1 d2 : Nat) :
    ∃ r w f, s.event src code d0 d1 d2 = { s with regs := r, wins := w, ringFull := f } := by
  have hb : ∀ t : State, (∃ r w f, t = { s with regs := r, wins := w, ringFull := f }) → ∀ i a n,
      ∃ r w f, t.bump i a n = { s with regs := r, wins := w, ringFull := f } := by
    rintro _ ⟨r, w, f, rfl⟩ i a n; exact ⟨_, _, _, rfl⟩
  have hf : ∀ t : State, (∃ r w f, t = { s with regs := r, wins := w, ringFull := f }) →
      ∃ r w f, ({ t with ringFull := true } : State) = { s with regs := r, wins := w, ringFull := f } := by
    rintro _ ⟨r, w, f, rfl⟩; exact ⟨_, _, _, rfl⟩
  have hi : ∀ (c : Prop) [Decidable c] (t u : State), (∃ r w f, t = { s with regs := r, wins := w, ringFull := f }) →
      (∃ r w f, u = { s with regs := r, wins := w, ringFull := f }) →
      ∃ r w f, (if c then t else u) = { s with regs := r, wins := w, ringFull := f } := by
    intro c _ t u ht hu; split <;> assumption
  unfold State.event
  dsimp only
  refine hi _ _ _ (hf _ (hb _ (hi _ _ _ (hb _ ?_ _ _ _) ?_) _ _ _)) (hb _ (hi _ _ _ (hb _ ?_ _ _ _) ?_) _ _ _) <;>
    exact ⟨_, _, _, State.setWin_rest _ _ _ _ _⟩

/-- A counter raised changes the scalars alone. -/
theorem State.bump_rest (s : State) (idx sub n : Nat) : s.bump idx sub n = { s with regs := (s.bump idx sub n).regs } := rfl

/-- A port counter raised changes the scalars alone. -/
theorem State.portCount_rest (s : State) (p sub n : Nat) : s.portCount p sub n = { s with regs := (s.portCount p sub n).regs } := by
  unfold State.portCount
  split <;> rfl

end Sys2Proof.Machine
end

