-- ==== Sys2Proof/Laws/Writes.lean ====
section
/-! SUPPORT. How a command that writes dictionary objects meets its clause: what the state reads as after the writes, and one lemma per form
of clause. -/

namespace Sys2Proof.Machine

theorem goAny_done {dt s f} (h : (s.advance dt).mode ≠ .stopped) : goAny dt f s = (s.advance dt).done (f (s.advance dt)) := by
  unfold goAny State.done; simp [h]

theorem goOn_done {dt s f} (h : (s.advance dt).awake = true) : goOn dt f s = (s.advance dt).done (f (s.advance dt)) := by
  simp [State.awake] at h
  unfold goOn; rw [goAny_done]
  · simp [h]
  · rcases h with h | h <;> simp [h]

theorem goRun_done {dt s f} (h : (s.advance dt).inRun = true) : goRun dt f s = (s.advance dt).done (f (s.advance dt)) := by
  simp [State.inRun] at h
  unfold goRun; rw [goAny_done]
  · simp [h]
  · simp [h]

theorem leVal_leBytes (n v : Nat) : leVal (leBytes n v) = v % 256 ^ n := by
  induction n generalizing v with
  | zero => simp [leBytes, leVal, Nat.mod_one]
  | succ n ih =>
    simp only [leBytes, leVal, ih, BitVec.toNat_ofNat]
    rw [show 256 ^ (n + 1) = 256 * 256 ^ n from by rw [Nat.pow_succ, Nat.mul_comm], Nat.mod_mul]

theorem leBytes_length (n v : Nat) : (leBytes n v).length = n := by
  induction n generalizing v with
  | zero => rfl
  | succ n ih => simp [leBytes, ih]

theorem serves_spec {u : State} {sess idx} (h : u.serves sess idx = true) (who r) (hr : Req.index r = idx) :
    ∃ role, u.roleOf sess = some role ∧ u.awake = true ∧ u.groupOf sess = none ∧ (isLocal idx = true ∨ u.lockedFor sess idx = false) ∧
     u.serve sess who r = (let (a, d, t) := u.access sess role r; t.reply who a d) := by
  simp only [State.serves, Bool.and_eq_true] at h
  obtain ⟨⟨⟨⟨⟨⟨h1, h2⟩, h3⟩, h4⟩, h5⟩, h6⟩, h7⟩ := h
  obtain ⟨role, hrole⟩ := Option.isSome_iff_exists.mp h2
  refine ⟨role, hrole, h1, by simpa using h3, by simpa using h4, ?_⟩
  unfold State.serve
  rw [hrole]
  simp only [h5, h6, hr]
  simp only [Bool.not_true, Bool.or_self, Bool.false_eq_true, if_false]
  split
  · rename_i h8
    split at h8
    · cases h8
    · rename_i h9
      rw [h8] at h7
      simp at h7
      simp at h9
      exfalso; omega
  · rfl

theorem firstAbort_cons (a : Nat) (l : List Nat) : firstAbort (a :: l) = 0 ↔ a = 0 ∧ firstAbort l = 0 := by
  rw [firstAbort]; split <;> simp_all

theorem takes_puts {u : State} {sess idx sub v} (h : u.takes sess idx sub v = true) :
    ∃ row, objRow idx sub = some row ∧ u.awake = true ∧
    u.puts sess idx sub v = u.did sess idx fun t => State.setObj State.configStart t sess row idx sub v := by
  simp only [State.takes, Bool.and_eq_true, bne_iff_ne, ne_eq] at h
  obtain ⟨⟨⟨hs, h1⟩, h2⟩, h3⟩ := h
  obtain ⟨role, hrole, hw, hg, hl, hserve⟩ := serves_spec hs (.plain sess) (.write idx sub 0 (scalarBytes idx sub v)) rfl
  rw [hrole] at h3
  cases hrow : objRow idx sub with
  | none => rw [hrow] at h3; simp at h3
  | some row =>
    rw [hrow] at h3
    simp only [Bool.and_eq_true, Bool.not_eq_true', decide_eq_true_eq, beq_iff_eq] at h3
    obtain ⟨⟨⟨h4, h5⟩, h6⟩, h7⟩ := h3
    refine ⟨row, rfl, hw, ?_⟩
    have hb : scalarBytes idx sub v = leBytes row.size v := by simp [scalarBytes, hrow]
    have hlen : (leBytes row.size v).length = row.size := leBytes_length _ _
    have hval : leVal (leBytes row.size v) = v := by rw [leVal_leBytes, Nat.mod_eq_of_lt h5]
    unfold State.puts State.asks
    rw [hserve]
    have halone : scalarAlone row idx sub v = 0 := by
      unfold State.scalarAbort at h7
      split at h7
      · exact h7
      · exact ((firstAbort_cons _ _).mp h7).1
    have hlock : (!isLocal idx && u.lockedFor sess idx) = false := by
      rcases hl with h | h <;> simp [h]
    have key : u.writeChecked State.configStart sess role idx sub 0 (leBytes row.size v) =
        (0, State.setObj State.configStart (u.taken sess idx) sess row idx sub v) := by
      unfold State.writeChecked
      simp only [hlen, h6, hrow, hg, hval, h4, halone, hlock, h1]
      simp only [ne_eq, not_true_eq_false, if_false, Bool.false_eq_true]
      have : (if isLocal idx = true then u else u.takeLock sess idx) = u.taken sess idx := rfl
      rw [this]
      unfold State.applyWrite
      simp only [h4, hval, h7, Bool.false_eq_true, if_false]
      have h8 : (if idx = 0xA001 then ((u.taken sess idx).setTarget sess v).1 else 0) = 0 := by
        split
        · rename_i hidx
          subst hidx
          simpa [State.taken, isLocal] using h2
        · rfl
      rw [h8]
      simp [firstAbort]
    simp only [State.access, State.write, State.writeObj, hb, key]
    simp [State.reply, State.did, abRole]

theorem asWrite_holds {cmd sess idx sub v act ok} (hc : ∀ dt s, exec (cmd dt) s = goWrite dt sess idx sub v s)
    (ha : ∀ row, objRow idx sub = some row → ∀ t, ok t = true → State.setObj State.configStart t sess row idx sub v = act t) :
    (asWrite cmd sess idx sub v act ok).Holds := by
  intro dt s hcan h
  simp only [asWrite, Bool.and_eq_true] at h ⊢
  obtain ⟨row, hr, hw, hp⟩ := takes_puts h.1
  rw [hc]
  unfold goWrite
  rw [goOn_done hw, hp]
  unfold State.did
  beta_reduce
  rw [ha row hr _ h.2]

/-- Work that keeps the canonical form leaves a canonical state canonical. -/
theorem State.Keeps.canonical {s t : State} (k : s.Keeps t) (h : s.canonical) : t.canonical := ⟨k.scalars h.1, k.windows h.2⟩

theorem State.advance_canonical {s : State} (dt : Nat) (h : s.canonical) : (s.advance dt).canonical :=
  (State.advance_keeps (State.Keeps.refl s)).canonical h

/-- Taking a lock changes the sessions alone. -/
theorem State.taken_rest (u : State) (sess idx : Nat) : u.taken sess idx = { u with sess := (u.taken sess idx).sess } := by
  unfold State.taken State.takeLock State.withSess
  split <;> (try rfl)
  split <;> (try rfl)
  split <;> rfl

@[simp] theorem State.taken_rd (u : State) (sess idx i a : Nat) : (u.taken sess idx).rd i a = u.rd i a := by
  rw [State.taken_rest]; rfl

@[simp] theorem State.taken_mode (u : State) (sess idx : Nat) : (u.taken sess idx).mode = u.mode := by
  rw [State.taken_rest]

@[simp] theorem State.taken_outputs (u : State) (sess idx : Nat) : (u.taken sess idx).outputs = u.outputs := by
  rw [State.taken_rest]

theorem State.taken_canonical {u : State} (h : u.canonical) (sess idx : Nat) : (u.taken sess idx).canonical := by
  rw [State.taken_rest]; exact h

theorem State.wr_canonical {u : State} (h : u.canonical) (idx sub v : Nat) : (u.wr idx sub v).canonical :=
  (State.wr_keeps (State.Keeps.refl u)).canonical h

theorem State.stored_canonical {u : State} (h : u.canonical) (sess i a v : Nat) : (u.stored sess i a v).canonical :=
  State.wr_canonical (State.taken_canonical h sess i) i a v

theorem State.storedWindow_canonical {u : State} (h : u.canonical) (sess i a : Nat) (r : List Byte) : (u.storedWindow sess i a r).canonical :=
  (State.setWin_keeps (State.Keeps.refl _)).canonical (State.taken_canonical h sess i)

theorem State.storedAll_canonical {sess : Nat} : ∀ (l : List (Nat × Nat × Nat)) {u : State}, u.canonical → (u.storedAll sess l).canonical
  | [], _, h => h
  | w :: l, _, h => State.storedAll_canonical l (State.stored_canonical h sess w.1 w.2.1 w.2.2)

/-- A scalar stored reads as the value written. -/
theorem State.stored_rd {u : State} (h : u.canonical) (sess i a v : Nat) : (u.stored sess i a v).rd i a = v % 2 ^ 64 :=
  State.rd_wr (State.taken_canonical h sess i).1 i a v

/-- It leaves every other scalar alone. -/
theorem State.stored_rd_ne {u : State} (h : u.canonical) (sess : Nat) {i a j b : Nat} (v : Nat) (hk : regKey j b ≠ regKey i a) :
    (u.stored sess i a v).rd j b = u.rd j b := by
  show ((u.taken sess i).wr i a v).rd j b = _
  rw [State.rd_wr_ne (State.taken_canonical h sess i).1 v hk, State.taken_rd]

/-- A window written leaves every scalar alone. -/
@[simp] theorem State.storedWindow_rd (u : State) (sess i a : Nat) (r : List Byte) (j b : Nat) : (u.storedWindow sess i a r).rd j b = u.rd j b := by
  show ((u.taken sess i).setWin i a 0 r).rd j b = _
  rw [State.setWin_rest]
  exact State.taken_rd u sess i j b

theorem takesAll_asks {sess : Nat} : ∀ (l : List (Nat × Nat × Nat)) {idx sub v : Nat} {u : State},
    u.takesAll sess (l ++ [(idx, sub, v)]) = true →
    (∀ w ∈ l, ∀ row, objRow w.1 w.2.1 = some row → ∀ t, State.setObj State.configStart t sess row w.1 w.2.1 w.2.2 = t.wr w.1 w.2.1 w.2.2) →
    (u.awake = true ∧ u.putsAll sess (l ++ [(idx, sub, v)]) = (u.storedAll sess l).puts sess idx sub v ∧
      (u.storedAll sess l).takes sess idx sub v = true)
  | [], idx, sub, v, u, h, _ => by
    simp only [List.nil_append, State.takesAll, Bool.and_true] at h
    obtain ⟨row, hr, hw, hp⟩ := takes_puts h
    exact ⟨hw, by simp [State.putsAll, State.asksAll, State.storedAll, State.puts], by simpa [State.storedAll] using h⟩
  | w :: l, idx, sub, v, u, h, hl => by
    simp only [List.cons_append, State.takesAll, Bool.and_eq_true] at h
    obtain ⟨row, hr, hw, hp⟩ := takes_puts h.1
    have ih := takesAll_asks l h.2 (fun w hw => hl w (List.mem_cons_of_mem _ hw))
    refine ⟨hw, ?_, ih.2.2⟩
    rw [show (u.storedAll sess (w :: l)) = (u.stored sess w.1 w.2.1 w.2.2).storedAll sess l from rfl, ← ih.2.1]
    have hst : u.puts sess w.1 w.2.1 w.2.2 = u.stored sess w.1 w.2.1 w.2.2 := by
      rw [hp]; unfold State.stored State.did; dsimp only; rw [hl w List.mem_cons_self row hr]
    obtain ⟨x, xs, hx⟩ : ∃ x xs, l ++ [(idx, sub, v)] = x :: xs := by
      cases l <;> simp
    unfold State.putsAll
    rw [List.cons_append, hx]
    simp only [List.map_cons]
    conv_lhs => unfold State.asksAll
    have hst' : u.asks sess w.1 w.2.1 0 (scalarBytes w.1 w.2.1 w.2.2) = u.stored sess w.1 w.2.1 w.2.2 := hst
    simp only [hst']
    have ho : (u.stored sess w.1 w.2.1 w.2.2).outputs = .answer sess 0 [] :: ((u.taken sess w.1).wr w.1 w.2.1 w.2.2).outputs := rfl
    rw [ho]
    simp

theorem asStart_holds {cmd sess words idx sub act ok} (hc : ∀ dt s, exec (cmd dt) s = goOn dt (fun s => s.putsAll sess (words ++ [(idx, sub, 1)])) s)
    (hl : ∀ w ∈ words, ∀ row, objRow w.1 w.2.1 = some row → ∀ t, State.setObj State.configStart t sess row w.1 w.2.1 w.2.2 = t.wr w.1 w.2.1 w.2.2)
    (ha : ∀ row, objRow idx sub = some row → ∀ u : State, u.canonical → ok ((u.storedAll sess words).taken sess idx) = true →
      State.setObj State.configStart ((u.storedAll sess words).taken sess idx) sess row idx sub 1 = act ((u.storedAll sess words).taken sess idx)) :
    (asStart cmd sess words idx sub act ok).Holds := by
  intro dt s hcan h
  simp only [asStart, Bool.and_eq_true] at h ⊢
  obtain ⟨hw, hp, ht⟩ := takesAll_asks words h.1 hl
  obtain ⟨row, hr, -, hq⟩ := takes_puts ht
  rw [hc, goOn_done hw, hp, hq]
  unfold State.did
  beta_reduce
  rw [ha row hr _ (State.advance_canonical dt hcan) h.2]

theorem overlay_all {old r : List Byte} (h : r.length = old.length) : overlay old 0 r = r := by
  unfold overlay; simp [h]

theorem sliceZ_length (bs : List Byte) (off n : Nat) : (sliceZ bs off n).length = n := by
  simp [sliceZ, fill]

theorem viewBytes_length (s : State) (idx sub rsz off n : Nat) : (s.viewBytes idx sub rsz off n).length = n := by
  unfold State.viewBytes
  split
  · exact sliceZ_length _ _ _
  · simp [State.winBytes]

theorem touched_record {s : State} {idx sub k : Nat} {r : List Byte} {row : ObjRow} (h : r.length = row.rsz) (h0 : row.rsz ≠ 0) :
    touched s idx sub (row.rsz * k) r row = [(k, r)] := by
  unfold touched
  have hr : r ≠ [] := by rintro rfl; simp at h; exact h0 h.symm
  have hp : 0 < row.rsz := Nat.pos_of_ne_zero h0
  have e1 : row.rsz * k / row.rsz = k := Nat.mul_div_cancel_left k hp
  have e2 : (row.rsz * k + r.length - 1) / row.rsz = k := by
    rw [h, show row.rsz * k + row.rsz - 1 = row.rsz * k + (row.rsz - 1) from by omega, Nat.mul_add_div hp,
      Nat.div_eq_of_lt (by omega)]; rfl
  simp only [hr, if_false, e1, e2]
  rw [show k + 1 - k = 1 from by omega]
  simp only [List.range_succ, List.range_zero, List.nil_append, List.map_cons, List.map_nil, Nat.add_zero, Nat.sub_self, le_refl, if_true]
  rw [overlay_all]
  rw [viewBytes_length, h]

/-- A record write that passes its checks, as it is served. -/
theorem takesRecord_asks {u : State} {sess idx sub k : Nat} {r : List Byte} (h : u.takesRecord sess idx sub k r = true) :
    ∃ row, objRow idx sub = some row ∧ row.window = true ∧ r.length = row.rsz ∧ u.awake = true ∧
    u.asks sess idx sub (row.rsz * k) r = u.did sess idx fun t => t.putRecord idx sub row.rsz k r := by
  simp only [State.takesRecord, Bool.and_eq_true, bne_iff_ne, ne_eq] at h
  obtain ⟨⟨hs, h1⟩, h3⟩ := h
  cases hrow : objRow idx sub with
  | none => rw [hrow] at h3; cases hx : u.roleOf sess <;> rw [hx] at h3 <;> simp at h3
  | some row =>
    obtain ⟨role, hrole, hw, hg, hl, hserve⟩ := serves_spec hs (.plain sess) (.write idx sub (row.rsz * k) r) rfl
    rw [hrole, hrow] at h3
    simp only [Bool.and_eq_true, beq_iff_eq, bne_iff_ne, ne_eq] at h3
    obtain ⟨⟨⟨⟨h4, h5⟩, h6⟩, h7⟩, h8⟩ := h3
    refine ⟨row, rfl, h4, h6, hw, ?_⟩
    unfold State.asks
    rw [hserve]
    have hlock : (!isLocal idx && u.lockedFor sess idx) = false := by
      rcases hl with h | h <;> simp [h]
    have key : u.writeChecked State.configStart sess role idx sub (row.rsz * k) r =
        (0, (u.taken sess idx).putRecord idx sub row.rsz k r) := by
      unfold State.writeChecked
      simp only [h6, h7, hrow, hg, h4, hlock, h1]
      simp only [ne_eq, not_true_eq_false, if_false, if_true, Bool.false_eq_true]
      have : (if isLocal idx = true then u else u.takeLock sess idx) = u.taken sess idx := rfl
      rw [this]
      unfold State.applyWrite
      simp only [h4, if_true]
      rw [touched_record h6 h5]
      simp [State.setRecords, h8]
    simp only [State.access, State.write, State.writeObj, key]
    simp [State.reply, State.did, abRole]

theorem asRecord_holds {cmd : Nat → Instr} {sess idx sub k : Nat} {r : List Byte} {act : State → State}
    (hc : ∀ row, objRow idx sub = some row → r.length = row.rsz → ∀ dt s, exec (cmd dt) s = goOn dt (fun s => s.asks sess idx sub (row.rsz * k) r) s)
    (ha : ∀ row, objRow idx sub = some row → r.length = row.rsz → ∀ t : State, t.putRecord idx sub row.rsz k r = act t) :
    (asRecord cmd sess idx sub k r act).Holds := by
  intro dt s hcan h
  simp only [asRecord] at h ⊢
  obtain ⟨row, hr, -, hlen, hw, hp⟩ := takesRecord_asks h
  rw [hc row hr hlen, goOn_done hw, hp]
  unfold State.did
  beta_reduce
  rw [ha row hr hlen]

theorem asksAll_step {u t : State} {sess i a o : Nat} {b : List Byte} {l : List (Nat × Nat × Nat × List Byte)} (hl : l ≠ [])
    (h : u.asks sess i a o b = t) {t' : State} (ht : t = t'.emit (.answer sess 0 [])) (hu : t'.outputs = u.outputs) :
    u.asksAll sess ((i, a, o, b) :: l) = t.asksAll sess l := by
  obtain ⟨x, xs, rfl⟩ := List.exists_cons_of_ne_nil hl
  conv_lhs => unfold State.asksAll
  simp only [h]
  have : t.outputs = .answer sess 0 [] :: u.outputs := by rw [ht, ← hu]; rfl
  rw [this]
  simp

theorem storedAll_append (u : State) (sess : Nat) : ∀ (l m : List (Nat × Nat × Nat)),
    u.storedAll sess (l ++ m) = (u.storedAll sess l).storedAll sess m
  | [], m => rfl
  | w :: l, m => by
    show (u.stored sess w.1 w.2.1 w.2.2).storedAll sess (l ++ m) = _
    rw [storedAll_append _ sess l m]; rfl

theorem takesAll_then {sess : Nat} : ∀ (l : List (Nat × Nat × Nat)) {m : List (Nat × Nat × Nat × List Byte)} (_ : m ≠ []) {u : State},
    u.takesAll sess l = true →
    (∀ w ∈ l, ∀ row, objRow w.1 w.2.1 = some row → ∀ t, State.setObj State.configStart t sess row w.1 w.2.1 w.2.2 = t.wr w.1 w.2.1 w.2.2) →
    u.asksAll sess ((l.map fun x => (x.1, x.2.1, 0, scalarBytes x.1 x.2.1 x.2.2)) ++ m) = (u.storedAll sess l).asksAll sess m
  | [], m, hm, u, h, _ => rfl
  | w :: l, m, hm, u, h, hl => by
    simp only [State.takesAll, Bool.and_eq_true] at h
    obtain ⟨row, hr, hw, hp⟩ := takes_puts h.1
    have hst : u.puts sess w.1 w.2.1 w.2.2 = u.stored sess w.1 w.2.1 w.2.2 := by
      rw [hp]; unfold State.stored State.did; dsimp only; rw [hl w List.mem_cons_self row hr]
    rw [List.map_cons, List.cons_append,
      asksAll_step (t' := (u.taken sess w.1).wr w.1 w.2.1 w.2.2) (by simp [hm]) hst rfl (by simp)]
    exact takesAll_then l hm h.2 (fun w hw => hl w (List.mem_cons_of_mem _ hw))

theorem setWin_outputs : ∀ (bs : List Byte) (s : State) (idx sub off : Nat), (s.setWin idx sub off bs).outputs = s.outputs
  | [], _, _, _, _ => rfl
  | b :: bs, s, idx, sub, off => by
    unfold State.setWin
    rw [setWin_outputs bs]; rfl

theorem asBlob_holds {cmd : Nat → Instr} {sess : Nat} {words : List (Nat × Nat × Nat)} {bi bsub : Nat} {blob : List Byte} {idx sub : Nat}
    {act : State → State} {ok : State → Bool}
    (hc : ∀ dt s, exec (cmd dt) s = goOn dt (fun s => s.asksAll sess ((words.map fun x => (x.1, x.2.1, 0, scalarBytes x.1 x.2.1 x.2.2))
      ++ [(bi, bsub, 0, blob), (idx, sub, 0, scalarBytes idx sub 1)])) s)
    (hl : ∀ w ∈ words, ∀ row, objRow w.1 w.2.1 = some row → ∀ t, State.setObj State.configStart t sess row w.1 w.2.1 w.2.2 = t.wr w.1 w.2.1 w.2.2)
    (hb : ∀ row t, State.putRecord t bi bsub row 0 blob = t.setWin bi bsub 0 blob)
    (ha : ∀ row, objRow idx sub = some row → ∀ u : State, u.canonical → ok ((((u.storedAll sess words).storedWindow sess bi bsub blob)).taken sess idx) = true →
      State.setObj State.configStart ((((u.storedAll sess words).storedWindow sess bi bsub blob)).taken sess idx) sess row idx sub 1
        = act ((((u.storedAll sess words).storedWindow sess bi bsub blob)).taken sess idx)) :
    (asBlob cmd sess words bi bsub blob idx sub act ok).Holds := by
  intro dt s hcan h
  simp only [asBlob, Bool.and_eq_true] at h ⊢
  obtain ⟨⟨⟨h1, h2⟩, h3⟩, h4⟩ := h
  obtain ⟨row, hr, hwin, hlen, hw2, hp2⟩ := takesRecord_asks h2
  obtain ⟨row3, hr3, hw3, hp3⟩ := takes_puts h3
  rw [hc]
  have hw : (s.advance dt).awake = true := by
    cases words with
    | nil => simpa [State.storedAll] using hw2
    | cons w l =>
      simp only [State.takesAll, Bool.and_eq_true] at h1
      exact (takes_puts h1.1).choose_spec.2.1
  rw [goOn_done hw, takesAll_then words (by simp) h1 hl]
  rw [Nat.mul_zero] at hp2
  rw [asksAll_step (t := (((s.advance dt).storedAll sess words).storedWindow sess bi bsub blob))
    (t' := (((s.advance dt).storedAll sess words).taken sess bi).setWin bi bsub 0 blob) (by simp)
    (by rw [hp2]; unfold State.storedWindow State.did; dsimp only; rw [hb]) rfl
    (by rw [setWin_outputs]; exact State.taken_outputs _ _ _)]
  show (s.advance dt).done (State.puts _ sess idx sub 1) = _
  rw [hp3]
  unfold State.did
  beta_reduce
  rw [ha row3 hr3 _ (State.advance_canonical dt hcan) h4]

end Sys2Proof.Machine
end

