-- ==== Sys2Proof/Tests/Slice0.lean ====
section
/-! SUPPORT. Witnesses: states and operands that meet the premises of each statement of Certificates/Slice0/Obligations.lean together; and
tests of single operations against tables of the spec. -/

open Sys2Proof Sys2Proof.Machine

namespace Sys2Proof.Tests

set_option Elab.async false

/-! ### States -/

/-- A part behind its forwarding point, in RUN. -/
def ready : State :=
  { State.reset with startup := { StartState.reset with groups := 6, measured := true, forwarding := true } }

/-- The state is canonical and meets a clause's condition, no time passing. -/
def meets (k : Clause) (s : State) : Bool := Regs.wf s.regs && Memory.wf s.wins && k.pre (s.advance 0)

/-- A state at local time `t`. -/
def atTime (t : Nat) (s : State) : State := { s with now := t }

/-- A sequence of the carriage controller on a carriage. -/
def aSeq (n : Nat) (act : SeqAct) (phase : SeqPhase) : CarSeq := ⟨n, act, phase, 0, 100, 0, 0, true, false, 0, 0, 0, 0, 0⟩

/-- `ready` with a sequence that runs on carriage `n`, whose state reads `st`. -/
def withSeq (n st : Nat) (act : SeqAct) (phase : SeqPhase) : State :=
  (ready.wrF (0x2200 + n) 1 3 0 st).withCar fun c => { c with seqs := [aSeq n act phase] }

/-- No read of a command meets an error. -/
def noErrs : ReadErrs := ⟨none, [], []⟩

/-- `ready` with start-up complete and the link of port `p` up. -/
def linked (p : Nat) : State :=
  ((ready.wrB 0xF000 2 3 true).wr (0x3001 + 0x40 * p) 1 1).wr (0x3001 + 0x40 * p) 2 1

/-- A frame of 1,000 stored bytes from port `p`, with all its cells. -/
def aFrame (p : Nat) : Frame :=
  { blankFrame p 0 0 0 with bytes := fill 1000 0, limit := 1522, cells := [2, 2, 2, 2, 2, 2] }

/-- A state with a frame of `linked p` in reception at port `p`. -/
def receiving (p : Nat) : State :=
  (((linked p).withBuf fun b => { b with nextId := 2 }).setFrame 1 (aFrame p)).modIngress p fun q => { q with cur := some 1 }

/-- `linked p` with a frame of port `src` in transmission on it. -/
def sending (p src : Nat) : State :=
  ((linked p).setFrame 1 { aFrame src with early := true, refs := [p] }).modPdyn p fun d =>
    { d with tx := some ⟨1, 0, 0, 0, 1000, false, false, none, false, none, 0⟩ }

/-- `linked p` with a frame in its queue of class 0. -/
def queued (p : Nat) : State :=
  ((linked p).setFrame 1 { aFrame 3 with whole := true, released := true, refs := [p] }).modPtm p fun t =>
    { t with queues := [(0, [⟨1, 0, 0, none⟩])] }

/-- `linked p` for a T port in PLCA mode; a coordinator where `c` is set. -/
def segment (p : Nat) (c : Bool) : State := (linked p).wr (0x3004 + 0x40 * p) 1 (if c then 0x0820 else 0x0801)

/-- `ready` with channel `c` in service under a protocol, error-active. -/
def onBus (c proto : Nat) : State := (ready.wr (0x4000 + 0x20 * c) 2 (proto + 8)).wr (0x4004 + 0x20 * c) 1 0

/-- A stored CAN frame of 8 data bytes; with bit rate switching where `fast`. -/
def canForm (fast : Bool) : List Byte :=
  fill 4 0 ++ leBytes 1 (if fast then 0xA0 else 0) ++ fill 1 0 ++ beBytes 2 8 ++ fill 1 0 ++ leBytes 1 8 ++ fill 6 0 ++ fill 8 0

/-- `onBus c 2` with a frame offered. -/
def offering (c : Nat) (fast : Bool) : State :=
  (onBus c 2).modCh c fun d => { d with offer := some ⟨1, 0, canForm fast⟩ }

/-- `ready` with a generated derivation key at handle 0x0400, revoked where `r`. -/
def keyed (kind : Nat) (r : Bool) : State :=
  ready.withKey fun k => { k with pairs := [(0, ⟨⟨1, 2, kind, true, r, 0, 0, [], 5, 0⟩, none⟩)] }

/-- `ready` with a frame and a running operation of a kind on engine 2 of cluster 1. -/
def opState (kind rec_ : Nat) : State :=
  (ready.setFrame 1 (aFrame 3)).withCrypto fun c => { c with ops := [⟨1, 3, kind, rec_, 5, 1, 2, false, 1, 0⟩] }

/-- `ready` with the PCIe link up. -/
def up : State := ready.wr 0x20A0 1 (1 + 8 + 128)

/-- An SDO transfer of the cursor, of a kind. -/
def xfer (kind : Nat) : SdoXfer := ⟨kind, 0x1101, 1, [], some 4, 0, 0, 0, false, 0, [], 0, none⟩

/-- `ready` with the SDO server of channel `c` enabled. -/
def sdoUp (c : Nat) : State := ready.wrB 0x1100 (2 + c / 32) (c % 32) true

/-- A Dalmoly message of a session over IPv4 and UDP, with a trailer of zeros. -/
def dalFrameOf (typ sess seq : Nat) (body : List Byte) : List Byte :=
  fill 12 0 ++ beBytes 2 0x800 ++ beBytes 1 0x45 ++ fill 1 0 ++ beBytes 2 (56 + body.length) ++ fill 5 0
    ++ beBytes 1 17 ++ fill 10 0 ++ fill 2 0 ++ beBytes 2 0xA4B0 ++ beBytes 2 (36 + body.length)
    ++ fill 2 0 ++ dalmolyHeader typ sess seq body.length 0 ++ body ++ fill 16 0

/-- `ready` with session 1 open. -/
def dalOpen : State := ready.withSess fun x => { x with dal := [(1, ⟨1, 5, 0, [], 0⟩)] }

/-- `ready` with a key for the service role. -/
def roleKeyed : State := (ready.withKey fun k => { k with pairs := [(0, ⟨⟨1, 2, 0, true, false, 0, 0, [], 5, 0⟩, none⟩)] }).wr 0x1110 3 0x0400

/-- `linked` on drawbar port 2. -/
def drawUp : State := (linked 2).wrB (ethObj 2 1) 1 7 true

/-- A drawbar frame of a mode. -/
def drawBytes (mode : Nat) : List Byte := fill 12 0 ++ beBytes 2 0x88B6 ++ beBytes 1 1 ++ beBytes 1 mode ++ fill 44 0

/-! ### Witnesses of the completion statements: every clause has a state that meets its condition -/

theorem witness_DictionaryWritesTakeEffect :
    [meets (Row.dictionaryWrite 0x200 0x6A30 1 3) ready,
      meets (Row.scalarWrite 0x200 0x2010 1 200) ready,
      meets (Row.recordWrite 0x200 0x5030 0 5 (fill 20 0)) ready].all id = true := by
  decide +kernel

theorem witness_HeadroomProbeAndSecondsComplete :
    [meets (Row.headroomWindowEnd []) (atTime 1000000000 ready),
      meets (Row.resetMinima 0x200) ready,
      meets (Row.latencyProbeArm 0x200) ready,
      meets (Row.wholeSecondStart) ({ ready with time := { ready.time with dev := devSecond } })].all id = true := by
  decide +kernel

theorem witness_CouplingsAnswerRequests :
    [meets (Row.requestAccepted 0 11 7 .read) ready,
      meets (Row.requestAbsent 0 11 7 .read) (ready.wrF 0x220B 1 3 0 stFenced),
      meets (Row.couplingAcknowledge 0 11 7 0) (ready.withCar fun c => { c with reqs := [⟨0, 11, 7, 1, .read, false⟩] })].all id = true := by
  decide +kernel

theorem witness_CarriageCommandsBegin :
    [meets (Row.carriageReset 0x200 3) ready,
      meets (Row.carriagePowerDown 0x200 3) ready,
      meets (Row.carriagePowerUp 0x200 3) (ready.wrF 0x2203 1 3 0 stPoweredDown),
      meets (Row.carriageSelfTest 0x200 3) ready,
      meets (Row.swapEngineUnit 0x200 23 2) ready,
      meets (Row.swapBank 0x200 2 0) ready,
      meets (Row.retireRouteBank 0x200 12) ready,
      meets (Row.returnRouteBank 0x200 12) (ready.wrF 0x220C 1 3 0 stRetired)].all id = true := by
  decide +kernel

theorem witness_CarriageSequencesProceed :
    [meets (Row.drainComplete 3) (withSeq 3 stDraining .reset .draining),
      meets (Row.drainLimitExpiry 3) (atTime 100000 (withSeq 3 stDraining .reset .draining)),
      meets (Row.carriageActionEnd 3 true []) (withSeq 3 stResetting .reset .acting),
      meets (Row.queuedSequenceStart) (ready.withCar fun c => { c with waiting := [⟨3, 0, 6, true, 0⟩] }),
      meets (Row.cellBankCopyEnd 2) (withSeq 2 stPresent .bankSwap .copying),
      meets (Row.edgeSwapCopyEnd 33 0) (withSeq 33 stPresent .edgeSwap .copying),
      meets (Row.edgeSwapIntegrated 33 0) (withSeq 33 stPresent .edgeSwap .integrating),
      meets (Row.retirementShuntEnd 12) (withSeq 12 stPresent .retire .shunting)].all id = true := by
  decide +kernel

theorem witness_ErrorCountsAndSelfTestsComplete :
    [meets (Row.correctedError 23 2) ready,
      meets (Row.correctedErrorSwaps 23 2) (ready.wrF 0x2217 8 15 0 1),
      meets (Row.errorCountDecay) (atTime 60000000000 ready),
      meets (Row.selfTestSlot) (atTime 4000000000000 ready),
      meets (Row.unitTestPasses) (ready.withCar fun c => { c with test := some ⟨23, 15, 0, 0⟩ }),
      meets (Row.unitTestFails) (ready.withCar fun c => { c with test := some ⟨23, 15, 0, 0⟩ })].all id = true := by
  decide +kernel

theorem witness_QueuesAndSweepsComplete :
    [meets (Row.startItem 46 0 0 noErrs) ready,
      meets (Row.laterItem 3 0 0xFF noErrs) (receiving 3),
      meets (Row.queuePop 46) ready,
      meets (Row.ethernetFrameEnd 3 (fill 64 0) 0 0 0 0 false noErrs) (linked 3),
      meets (Row.cutThroughRelease 3 noErrs) ((receiving 3).wr 0x30C8 1 2),
      meets (Row.queueFlush 0x200 3 false) ready,
      meets (Row.flushDeferredEffect) (ready.withBuf fun b => { b with flush := some ⟨3, false⟩ }),
      meets (Row.ageSweep 0) ready,
      meets (Row.waitingCopyTaken 3) ready,
      meets (Row.resetLeastFree 0x200) ready].all id = true := by
  decide +kernel

theorem witness_RouteStoreCommandsComplete :
    [meets (Row.entryReadByKey 0x200 0 noErrs) ready,
      meets (Row.entryReadBySlot 0x200 1 5 2 noErrs) ready,
      meets (Row.shuntMove) (ready.withRoute fun r => { r with chain := some ⟨[(8, 12), (4, 8)], mkSlot 0 none, 4, [], 2, true⟩ }),
      meets (Row.lastMove) (ready.withRoute fun r => { r with chain := some ⟨[(4, 8)], mkSlot 0 none, 4, [], 1, true⟩ }),
      meets (Row.clearLog 0x200 3) ready,
      meets (Row.ageingScanVisit 0 0 1 0 noErrs) ((ready.wr 0x5002 1 300).setSlot 1 (mkSlot (2 ^ 141) none))].all id = true := by
  decide +kernel

theorem witness_PortModesAndLinksComplete :
    [meets (Row.portModeWrite 0x200 3 1) ready,
      meets (Row.portModeChange 0x200 3 2) (linked 3),
      meets (Row.linkUp 3) (ready.wr 0x30C1 1 1),
      meets (Row.linkDown 3) (linked 3),
      meets (Row.thresholdWrite 0x200 3 4) ready].all id = true := by
  decide +kernel

theorem witness_EgressSelectionAndUnderrunsComplete :
    [meets (Row.egressSelect 3 noErrs) (linked 3),
      meets (Row.startsFrame 3 noErrs) (queued 3),
      meets (Row.transmitUnderrun 3) ((sending 3 5).wr 0x3148 1 2),
      meets (Row.thresholdDecay 3) (ready.modPdyn 3 fun d => { d with cleanRun := 65536, adapted := 5 }),
      meets (Row.forcedSafEnd) ready].all id = true := by
  decide +kernel

theorem witness_FlowControlCompletes :
    [meets (Row.pauseReceived 3 100) ((linked 3).wr 0x30C3 1 1),
      meets (Row.pfcReceived 3 1 [100]) ((linked 3).wr 0x30C3 1 2),
      meets (Row.pauseExpiry 3 8) (ready.modPdyn 3 fun d => { d with pauseStop := some (0, 0) }),
      meets (Row.pauseWatchdogTrip 3 8) (atTime 2000000000 (ready.modPdyn 3 fun d => { d with pauseStop := some (0, 3000000000) })),
      meets (Row.holdOffEnd 3 8) (ready.modPdyn 3 fun d => { d with pauseHold := some 0 }),
      meets (Row.receiveBufferHigh 3 131072) (linked 3),
      meets (Row.receiveBufferLow 3 0) ((linked 3).modPdyn 3 fun d => { d with rxHigh := true }),
      meets (Row.pauseRepeat 3) (atTime 1000000000 (((linked 3).wr 0x30C3 1 4).modPdyn 3 fun d => { d with rxHigh := true }))].all id = true := by
  decide +kernel

theorem witness_SegmentEventsAndSnapshotsComplete :
    [meets (Row.beaconSend 30) (segment 30 true),
      meets (Row.beaconSeen 30) (segment 30 false),
      meets (Row.beaconConflict 30) (segment 30 true),
      meets (Row.beaconTimeout 30) (atTime 400000 (segment 30 false)),
      meets (Row.collision 30 10) ((sending 30 3).wr 0x3781 1 2),
      meets (Row.lastCollision 30 10) (((sending 30 3).wr 0x3781 1 2).modPdyn 30 fun d => { d with attempts := 15 }),
      meets (Row.jabber 30) (linked 30),
      meets (Row.noise 30) (linked 30),
      meets (Row.snapshot 0x200) ready].all id = true := by
  decide +kernel

theorem witness_ChannelModesAndReceptionComplete :
    [meets (Row.channelModeWrite 0x200 3 0x21) ready,
      meets (Row.channelModeWaits 0x200 3 0x21) (offering 3 false),
      meets (Row.channelIntegrated 3) ((ready.wr 0x4060 2 2)),
      meets (Row.canFrameValid 3 (canForm false) 0 0 0 noErrs) (onBus 3 2),
      meets (Row.bufferLock 0x200 3 5) ready,
      meets (Row.bufferUnlock 0x200 3 0x7F) ready].all id = true := by
  decide +kernel

theorem witness_CanTransmissionAndErrorsComplete :
    [meets (Row.canFrameSent 3 40) (offering 3 false),
      meets (Row.canFastSent 3 40) (offering 3 true),
      meets (Row.arbitrationLost 3) (offering 3 false),
      meets (Row.canBusError 3 0 false false 0) (onBus 3 2),
      meets (Row.transmitRequest 0x200 3 4) (ready.modCh 3 fun d => { d with written := 16 }),
      meets (Row.transmitCancel 0x200 3 4) ready,
      meets (Row.busOffRecover 0x200 3) (ready.wr 0x4064 1 0x20000),
      meets (Row.busOffRecovered 3) (atTime 1000000000 ((ready.wr 0x4064 1 0x20000).wr 0x4064 2 1))].all id = true := by
  decide +kernel

theorem witness_ScheduleMatrixCompletes :
    [meets (Row.columnStart 3) (atTime 1000000000 (((onBus 3 2).wr 0x4068 1 0x21).modCh 3 fun d => { d with running := true })),
      meets (Row.cycleEnds 3) (atTime 1000000000 (((onBus 3 2).wr 0x4068 1 0x11).modCh 3 fun d => { d with running := true })),
      meets (Row.referenceMessageReceived 3 2 5 0) (((onBus 3 2).wr 0x4068 1 0x21).wr 0x4069 1 1 |>.wr 0x4069 4 0x202),
      meets (Row.masterYields 3 2 5 0) (((onBus 3 2).wr 0x4068 1 0x21).wr 0x4069 1 0x22 |>.wr 0x4069 4 1),
      meets (Row.masterTimeout 3) (atTime 10000000000 (((onBus 3 2).wr 0x4068 1 0x21).wr 0x4069 1 2))].all id = true := by
  decide +kernel

theorem witness_LinChannelsComplete :
    [meets (Row.linSlotStart 1) (((onBus 73 4).wr 0x4931 2 16).modCh 73 fun d => { d with runs := true }),
      meets (Row.linScheduleStart 1) ((onBus 73 4).wr 0x4931 2 16),
      meets (Row.linResponseTimeout 1) ((onBus 73 4).modCh 73 fun d => { d with await_ := some (1, 0, 0) }),
      meets (Row.linTableSwitch 0x200 1 0x0A00) (ready.setWinB 0x4932 1 1 5),
      meets (Row.linHeaderReceived 1 (BitVec.ofNat 8 (linPid 1)) 13 (ready.linClocks 73)) (onBus 73 5),
      meets (Row.linFrameReceived 1 (BitVec.ofNat 8 (linPid 1)) (fill 2 7) 0 0 0 noErrs) ((((onBus 73 5).setWinB 0x4931 1 4 2).setWinB 0x4931 1 5 2).modCh 73 fun d => { d with await_ := some (1, 100, 0) }),
      meets (Row.linInactivityTimeout 1) (atTime 4000000000 (onBus 73 5))].all id = true := by
  decide +kernel

theorem witness_GatewayJobsAndTimersComplete :
    [meets (Row.gatewayJob 1) (ready.withGw fun g => { g with jobs := [(1, [(1, 1)])] }),
      meets (Row.timerWheelTick) (ready.wr 0x5600 1 1),
      meets (Row.cyclicTransmission 7) ((((ready.wr 0x5600 1 1).setWin 0x5610 0 (32 * 7 + 6) [1, 1]).setWinB 0x5610 0 (32 * 7 + 10) 10).withGw fun g => { g with nominal := [(7, 0)] }),
      meets (Row.changeTransmission 7) (((ready.wr 0x5600 1 1).setWin 0x5610 0 (32 * 7 + 6) [1, 2]).setGwBit 7 2 true),
      meets (Row.deadlineTimeout 7) ((ready.wr 0x5600 1 1).withGw fun g => { g with deadline := [(7, 0)] }),
      meets (Row.timerHandover 1) ready,
      meets (Row.gatewayEnable 0x200) ready,
      meets (Row.pduRecordWrite 0x200 7 (fill 32 0)) ready,
      meets (Row.containerFlushTimer 2) ((ready.wr 0x5600 1 1).withGw fun g => { g with opened := [(2, ⟨[], 0⟩)] }),
      meets (Row.containerReceived) (((ready.wr 0x5600 1 1).setFrame 1 (aFrame 3)).withGw fun g => { g with waiting := [1] })].all id = true := by
  decide +kernel

theorem witness_GatesVerifyAndObservationComplete :
    [meets (Row.gateChange 0x200 3) ready,
      meets (Row.gateListChange 3) (ready.modPtm 3 fun t => { t with gatePending := some 0 }),
      meets (Row.gateEntryStart 3) ready,
      meets (Row.verifyAgain 3) (atTime 10000000 ((linked 3).modPtm 3 fun t => { t with verifyTries := 1 })),
      meets (Row.verifyFails 3) (atTime 10000000 ((linked 3).modPtm 3 fun t => { t with verifyTries := 3 })),
      meets (Row.verifyResponse 3) ((linked 3).modPtm 3 fun t => { t with verifyTries := 1 }),
      meets (Row.frerResetTimer 4) ((ready.setWinB 0x6A20 0 32 2).setFrer 4 ⟨0, 0, 0, some 0, false⟩),
      meets (Row.observationSample 3) ready,
      meets (Row.observationReset 0x200 3) ready,
      meets (Row.traceRelease 0x200 1) (ready.wr 0x6A30 2 5),
      meets (Row.noticeTimer) (atTime 1000000 (ready.withTm fun t => { t with notice := [fill 8 0] }))].all id = true := by
  decide +kernel

theorem witness_FirewallAndCipherCommandsComplete :
    [meets (Row.shadowRuleWrite 0x200 1 3 (fill 8 0)) ready,
      meets (Row.copyToShadow 0x200) ready,
      meets (Row.copyToShadowDone) (ready.withFw fun f => { f with copying := true }),
      meets (Row.swap 0x200) ready,
      meets (Row.ruleScrub noErrs) ready,
      meets (Row.authenticatorVerifyDone 1 2 false) (opState 4 1024),
      meets (Row.protectionEnds 1 2) (opState 0 3),
      meets (Row.openingEnds 1 2 false) (opState 1 3),
      meets (Row.suspendedResume 1 2) ((opState 0 3).withCrypto fun c => { c with ops := c.ops.map fun o => { o with phase := 2 } }),
      meets (Row.keyDerivationDone 1) (((ready.setWin 0x8111 0 (64 * 3) [1, 0, 4, 0, 1, 0]).withCrypto fun c => { c with derive_ := [8192 + 3] })),
      meets (Row.freshnessCommit) (atTime 60000000000 ready)].all id = true := by
  decide +kernel

theorem witness_KeyActionsComplete :
    [meets (Row.keyDefine 0x300 0x0400 0 true 1 (fill 16 1)) ready,
      meets (Row.keyGenerate 0x300 0x0400 0 true) ready,
      meets (Row.keyImport 0x300 0x0400 (fill 160 0)) ready,
      meets (Row.keyRotate 0x300 0x0400) (keyed 0 false),
      meets (Row.keyRevoke 0x300 0x0400) (keyed 0 false),
      meets (Row.keyDelete 0x300 0x0400) (keyed 0 true),
      meets (Row.keyReseal 0x300) ready,
      meets (Row.closeMigration 0x300) (ready.wrB 0x8040 4 16 true),
      meets (Row.entropyFails) ready,
      meets (Row.entropyPasses) (ready.withKey fun k => { k with noEntropy := true }),
      meets (Row.sakGenerated 3 0x0400 true) (keyed 2 false),
      meets (Row.sakUnwrapped 3 0x0400 true (fill 40 0)) (keyed 2 false)].all id = true := by
  decide +kernel

theorem witness_SecurityStateCommandsComplete :
    [meets (Row.attestation 0x300 1 1 (fill 32 0)) ready,
      meets (Row.lifeCycleRequest 0x300 5) ready,
      meets (Row.sensorTrip 0 [] 0) ready,
      meets (Row.thaw 0x300) (ready.wr 0x8030 3 1),
      meets (Row.configExport 0x300) ready,
      meets (Row.configImport 0x300) ready,
      meets (Row.configCheckOnly 0x300) ready,
      meets (Row.configExportDone) (ready.withKey fun k => { k with exporting := some 0 }),
      meets (Row.brownOutWarning) ready,
      meets (Row.brownOutClear) (atTime 1000000 (ready.withKey fun k => { k with brownOut := true }))].all id = true := by
  decide +kernel

theorem witness_TimeCorrectionsComplete :
    [meets (Row.timeCapture 0x200) ready,
      meets (Row.timeApply 0x200 100 5) ready,
      meets (Row.slewEnd) (ready.wrF 0x7000 1 2 0 2),
      meets (Row.declareLoss 0x200) (ready.wrF 0x7000 1 2 0 1),
      meets (Row.holdoverTimeout) (atTime 100000000000 (ready.wrF 0x7000 1 2 0 1)),
      meets (Row.lossTimeout) (atTime 10000000000000 (ready.wrF 0x7000 1 2 0 3))].all id = true := by
  decide +kernel

theorem witness_PulsesCalendarAndLedgerComplete :
    [meets (Row.pulseOn 0x200 2 3) ((ready.wr (pulseObj 2) 5 1000000).wr (pulseObj 2) 6 1000),
      meets (Row.pulseOff 0x200 2 0) ready,
      meets (Row.pulseEdge 2) ((ready.wr (pulseObj 2) 1 1).setPulse 2 { (ready.pulse 2) with next := some 0 }),
      meets (Row.triggerEdge 2) (((ready.wr (trigObj 2) 1 1).wr (trigObj 2) 2 1000000).withTime fun t => { t with dev := 2 ^ 80 }),
      meets (Row.localTriggerEdge 2) ((((ready.wr (trigObj 2) 1 1).wr (trigObj 2) 2 1000000).wr (trigObj 2) 5 1).setTrig 2 { (ready.trig 2) with localNext := some 0 }),
      meets (Row.calendarWrite) (ready.wrF 0x7000 1 2 0 1),
      meets (Row.vbkpRise) ready,
      meets (Row.lifetimeCommit) (atTime 600000000000 ready),
      meets (Row.commitNow 0x200) ready,
      meets (Row.thermalCycle 850) ready].all id = true := by
  decide +kernel

theorem witness_OscillatorsAndReferencesComplete :
    [meets (Row.ioscGood 1600) ready,
      meets (Row.ioscBad 1000) ready,
      meets (Row.ioscRequalify) (atTime 1000000000 (ready.wrB 0x2001 1 5 true)),
      meets (Row.xtalGood 256) (ready.wrB 0x2001 1 3 true),
      meets (Row.referenceSelect 0x200 0) ready,
      meets (Row.clockEnableWrite 0x200 3 3) ready,
      meets (Row.lossOfClock 2) ready,
      meets (Row.pllsLocked 4) ((ready.wrF 0x2001 1 1 0 2).withPower fun p => { p with lost := some ⟨2, 0, 0⟩ }),
      meets (Row.pciePllLocked) (ready.withPower fun p => { p with pcieLost := true }),
      meets (Row.fallbackTimeout) (atTime 200000 ((ready.wrF 0x2001 1 1 0 1).withPower fun p => { p with lost := some ⟨2, 0, 0⟩ })),
      meets (Row.aoscFailure) ready].all id = true := by
  decide +kernel

theorem witness_PowerStatesAndRegulatorsComplete :
    [meets (Row.sleepCommand 0x200) ready,
      meets (Row.deepSleepCommand 0x200) ready,
      meets (Row.offCommand 0x200) ready,
      meets (Row.runCommand 0x200) ({ ready with mode := .sleep }),
      meets (Row.pholdReleaseTimeout) (atTime 100000000 { ready with mode := .off }),
      meets (Row.supplyGoodRise 2) ready,
      meets (Row.externalTimeout) (atTime 1000000000000 (ready.withPower fun p => { p with todo := [5] })),
      meets (Row.coreTimeout) (atTime 1000000000000 (ready.withPower fun p => { p with todo := [1] })),
      meets (Row.sequenceRetry) (ready.withPower fun p => { p with retryAt := some 0 }),
      meets (Row.supplyGoodLost 2 20000) ready,
      meets (Row.pmbusPoll []) ready,
      meets (Row.pmbusAlert 2 0) (ready.setWin 0x2006 1 (16 * 2) [7]),
      meets (Row.vfabFault) ready,
      meets (Row.vfabBack) (atTime 1000000 (ready.withPower fun p => { p with vfabAt := some 0 })),
      meets (Row.vfabAway) (atTime 10000000 (ready.withPower fun p => { p with vfabAt := some 0 }))].all id = true := by
  decide +kernel

theorem witness_WakesAreLatched :
    [meets (Row.canWakePattern 4 5000 5000 5000) (atTime 1000000 (({ ready with mode := .deepSleep }.setWinB 0x2071 0 (32 * 4) 1))),
      meets (Row.partialPattern 4 5000 5000) (atTime 1000000 (({ ready with mode := .deepSleep }.setWinB 0x2071 0 (32 * 4) 1))),
      meets (Row.wakePatternTimeout 4) (atTime 1000000000 (ready.withWake fun w => { w with partial_ := [(4, 0)] })),
      meets (Row.wakeFrame 4 (canForm false)) (({ ready with mode := .sleep }.setWinB 0x2071 0 (32 * 4) 2)),
      meets (Row.decoderError 4) (({ ready with mode := .sleep }.setWinB 0x2071 0 (32 * 4) 2)),
      meets (Row.linDominantWake 5 150000) (({ ready with mode := .sleep }.setWinB 0x2071 0 (32 * 77) 1)),
      meets (Row.t1sActivityWake 3 1000000) (({ ready with mode := .sleep }.setWinB 0x2072 0 (4 * 3) 1)),
      meets (Row.wakePinEdge 2 true 100000000) (ready.setWinB 0x2073 0 (16 * 2) 1)].all id = true := by
  decide +kernel

theorem witness_DomainsAndSleepComplete :
    [meets (Row.keepAliveReceived 6 66 (canForm false)) ((((ready.setWin 0x2080 0 (32 * 6) [1]).setWin 0x2080 0 (32 * 6 + 16) [0, 0, 0, 1])).setWinB 0x5030 0 (20 * 4038 + 8) 4),
      meets (Row.keepAliveTimeout 6) (atTime 100000000000 (ready.setWinB 0x2082 0 (8 * 6) 2)),
      meets (Row.prepareTimeout 6) (atTime 100000000000 (ready.setWinB 0x2082 0 (8 * 6) 3)),
      meets (Row.sendPeriod 6) (atTime 100000000000 (ready.setWinB 0x2082 0 (8 * 6) 1)),
      meets (Row.wakeHoldExpiry 6) (ready.setWinB 0x2082 0 (8 * 6) 1),
      meets (Row.localRequest 0x200 6) ready,
      meets (Row.localRequestClear 0x200 6) (ready.setWin 0x2080 0 (32 * 6) [3]),
      meets (Row.nmEnable 0x200 6) ready,
      meets (Row.sleepSequenceStart) ((ready.setWin 0x2080 0 (32 * 6) [1]).setWinB 0x2082 0 (8 * 6) 4),
      meets (Row.sleepQuiesceDone) (atTime 20000 (ready.withWake fun w => { w with seqAt := some 0 }))].all id = true := by
  decide +kernel

theorem witness_PairsAndFirmwareComplete :
    [meets (Row.lockstepMismatch 1 2) ready,
      meets (Row.sequencerMismatch 2) ready,
      meets (Row.fwErase 0x200) ready,
      meets (Row.fwCheck 0x200) ready,
      meets (Row.fwConfirm 0x200) (ready.withCtl fun c => { c with trial := some 0 }),
      meets (Row.fwRevert 0x200 true) (ready.withCtl fun c => { c with trial := some 0 }),
      meets (Row.fwEraseDone true) (ready.withCtl fun c => { c with action := some ⟨1, 0, 1, false, 0⟩ }),
      meets (Row.fwSlotRecordWrite 0x200 3 (fill 16 7)) (ready.withCtl fun c => { c with flash := [(1, ⟨true, [], []⟩)] }),
      meets (Row.pairPresent 0 1 20 true) (ready.withCar fun c => { c with seqs := [aSeq 43 .reset .acting] }),
      meets (Row.pairStartTimeout 0) (atTime 250000000 (ready.withCar fun c => { c with seqs := [aSeq 43 .reset .acting] }))].all id = true := by
  decide +kernel

theorem witness_StartUpStepsComplete :
    [meets (Row.bistGroupEnd []) ({ ready with startup := StartState.reset }.withPower fun p => { p with todo := [] }),
      meets (Row.bootMeasurementDone (true, 0, 0) (true, 0, 0)) ({ ready with startup := { StartState.reset with groups := 6 } }),
      meets (Row.forwardingPoint) ({ ready with startup := { StartState.reset with groups := 6, measured := true } }),
      meets (Row.startupComplete) (atTime 100000000 ready)].all id = true := by
  decide +kernel

theorem witness_HostBridgeCommandsComplete :
    [meets (Row.pciePerst) ready,
      meets (Row.functionLevelReset) up,
      meets (Row.linkGoesUp 2 1) ready,
      meets (Row.linkGoesDown 2 1) up,
      meets (Row.bar0Read 0x10300 4 7) up,
      meets (Row.bar0ReadHeld 0x10300 4 7) up,
      meets (Row.bar0Write 34013200 (leBytes 4 0x3E80A) (leBytes 4 0x3E80A)) up,
      meets (Row.delayedReadTimeout 7 false) (atTime 100000000 (up.withHost fun h => { h with reads := [⟨7, 0x10300, 4, 0⟩] })),
      meets (Row.windowQueueRead 3 0 4 7 [] false) (up.setWin 0x20A1 0 (16 * 3) [2]),
      meets (Row.windowTableRead 3 0 4 7 [] false) (up.setWin 0x20A1 0 (16 * 3) [1]),
      meets (Row.windowWrite 3 0 4 7 (fill 4 0)) ((up.setWin 0x20A1 0 (16 * 3) [1]).setWin 0x20A1 0 (16 * 3 + 2) [0x71, 0x20, 0]),
      meets (Row.translationWindowWrite 0x200 3 (fill 16 0)) ready,
      meets (Row.prefetchAgeExpiry 3) (atTime 10000 (up.withHost fun h => { h with prefetch := [(3, ⟨0, [], 0⟩)] })),
      meets (Row.queueWindowRead 0 4 7) up,
      meets (Row.doorbellWrite 3 5) up,
      meets (Row.hostDescriptorFetched 2 60 0 1 (fill 60 0)) ((up.setWin 0x20A2 0 (32 * 2 + 8) [16]).withHost fun h => { h with enabled := 4, bells := [(2, 1)] }),
      meets (Row.partToHostFrame 2 0x1000) ((((up.setWin 0x20A2 0 (32 * 10 + 8) [16]).setFrame 1 { aFrame 3 with whole := true, released := true, refs := [44] }).modPtm 44 fun t => { t with queues := [(2, [⟨1, 0, 0, none⟩])] }).withHost fun h => { h with enabled := 2 ^ 10, bells := [(10, 1)] }),
      meets (Row.msixCoalesceTimer 3) (ready.withHost fun h => { h with heldMsg := [(3, (0, 0))] })].all id = true := by
  decide +kernel

theorem witness_SdoServicesComplete :
    [meets (Row.sdoExpedited 5 0x1101 1 4 [0x23, 1, 0x11, 1, 0, 0, 0, 0]) (sdoUp 5),
      meets (Row.sdoSegmentedDownload 5 ([0x21, 0x70, 0x20, 1, 4, 0, 0, 0])) (sdoUp 5),
      meets (Row.sdoDownloadSegment 5 [0, 1, 2, 3, 4, 5, 6, 7]) ((sdoUp 5).setSdo 5 (xfer 0)),
      meets (Row.sdoInitiateUpload 5 ([0x40, 0x30, 0x10, 1, 0, 0, 0, 0])) (sdoUp 5),
      meets (Row.sdoUploadSegment 5 [0x60, 0, 0, 0, 0, 0, 0, 0]) ((sdoUp 5).setSdo 5 (xfer 1)),
      meets (Row.sdoBlockSegment 5 [1, 1, 2, 3, 4, 5, 6, 7]) ((sdoUp 5).setSdo 5 (xfer 2)),
      meets (Row.sdoBlockDownload 5 ([0xC2, 0x70, 0x20, 1, 4, 0, 0, 0])) (sdoUp 5),
      meets (Row.sdoBlockUpload 5 ([0xA0, 0x30, 0x10, 1, 20, 0, 0, 0])) (sdoUp 5),
      meets (Row.sdoAbortReceived 5 ([0x80, 0, 0, 0, 0, 0, 0, 0])) (sdoUp 5),
      meets (Row.sdoTimeout 5) (atTime 1000000000000 ((sdoUp 5).setSdo 5 (xfer 0)))].all id = true := by
  decide +kernel

theorem witness_SessionsGroupsAndLocksComplete :
    [meets (Row.dalmolyOpen 3 (dalFrameOf 1 0 1 (beBytes 1 1 ++ fill 19 0))) roleKeyed,
      meets (Row.dalmolyRead 3 (dalFrameOf 3 1 1 (beBytes 1 1 ++ fill 15 0))) dalOpen,
      meets (Row.dalmolyWrite 3 (dalFrameOf 3 1 1 (beBytes 1 2 ++ fill 15 0))) dalOpen,
      meets (Row.dalmolyClose 3 (dalFrameOf 5 1 1 [])) dalOpen,
      meets (Row.sessionIdleTimeout 0) (atTime 10000000000000 dalOpen),
      meets (Row.groupBegin 0x200) ready,
      meets (Row.groupCommit 0x200) (ready.withSess fun x => { x with groups := [(0x200, [])] }),
      meets (Row.groupAbandon 0x200) (ready.withSess fun x => { x with groups := [(0x200, [])] }),
      meets (Row.lockHoldExpiry 0x2070) (ready.withSess fun x => { x with locks := [(0x2070, ⟨0x200, some 0⟩)] }),
      meets (Row.quenchBlockEnd 0x200) (ready.withSess fun x => { x with blocked := [(0x200, 0)] })].all id = true := by
  decide +kernel

theorem witness_ConsistCommandsComplete :
    [meets (Row.drawbarLookupFrame 2 (drawBytes 0) 0) drawUp,
      meets (Row.drawbarUnicastFrame 2 (drawBytes 1) 0) drawUp,
      meets (Row.drawbarFloodFrame 2 (drawBytes 2) 0) drawUp,
      meets (Row.rollCallReceived 2 (drawBytes 3) 1) drawUp,
      meets (Row.managementRequest 2 (drawBytes 4)) drawUp,
      meets (Row.managementAnswer 2 (drawBytes 5)) drawUp,
      meets (Row.rollCallTimer) (ready.wrB 0xA000 1 4 true),
      meets (Row.heardTimeout 3) (atTime 30000000 (ready.withConsist fun c => { c with members := [(3, ⟨0, 0, 0, 0, 0, 0, 0, none, none⟩)] })),
      meets (Row.preemptHoldExpiry) ((ready.wrB 0xA000 1 4 true)),
      meets (Row.wardenGraceExpiry) ((ready.wrB 0xA000 1 4 true)),
      meets (Row.forwardTimeout 3) (atTime 1000000000 (ready.withConsist fun c => { c with slots := [(3, ⟨0x200, 1, 0, some 0, .plain 0x200⟩)] })),
      meets (Row.conflictClear) (atTime 1000000000 (ready.withConsist fun c => { c with conflict := true })),
      meets (Row.sessionTargetWrite 0x200 1) ready].all id = true := by
  decide +kernel

/-! ### Clauses whose condition rests on a value that the part fixes: the route hash, the images in flash -/

theorem forEach_id {α : Type} (s : State) (f : State → α → State) (l : List α) (h : ∀ a, f s a = s) : s.forEach l f = s := by
  unfold State.forEach
  induction l with
  | nil => rfl
  | cons a l ih => simp only [List.foldl_cons, h, ih]

/-- Where every bank serves, both candidate buckets lie in banks that serve. -/
theorem buckets_up (s : State) (key : Nat) (up : ∀ b < 8, s.bankUp b = true) :
    s.bankUp (bucketBank (s.buckets key).1) = true ∧ s.bankUp (bucketBank (s.buckets key).2) = true := by
  constructor <;> apply up <;> simp only [bucketBank, State.buckets] <;> omega

/-- A read of a store without a bad slot changes nothing. -/
theorem readBuckets_good (s : State) (key : Nat) (up : ∀ b < 8, s.bankUp b = true) (good : s.route.bad = []) : s.readBuckets key = s := by
  have one : ∀ k, s.forEach (waysOf k) State.readSlot = s := fun k =>
    forEach_id s _ _ fun a => by simp only [State.readSlot, good]; rfl
  simp only [State.readBuckets, (buckets_up s key up).1, (buckets_up s key up).2, if_true, one]

/-- An empty store holds no key. -/
theorem matches_empty (s : State) (key : Nat) (none_ : s.route.slots = []) : s.matches key = [] := by
  have h : ∀ k, s.slotValid k = false := fun k => by simp [State.slotValid, State.slotVal, none_, mapGet]; decide
  simp [State.matches, h]

/-- An insertion into an empty store is placed. -/
theorem insert_empty (s : State) (w : Nat) (up : ∀ b < 8, s.bankUp b = true) (good : s.route.bad = []) (none_ : s.route.slots = [])
    (stay : s.retiring = []) : (s.insert w none true).2 = 0 := by
  have h : ∀ k, s.slotValid k = false := fun k => by simp [State.slotValid, State.slotVal, none_, mapGet]; decide
  have u := buckets_up s (entryKey w) up
  have f : s.freeWay [] (s.buckets (entryKey w)).1 = some ((s.buckets (entryKey w)).1 * 4) := by
    simp [State.freeWay, u.1, waysOf, h]
  have p : s.place s.retiring (entryKey w) = .slot ((s.buckets (entryKey w)).1 * 4) := by
    rw [stay]; simp [State.place, f, u.1]
  simp only [State.insert, readBuckets_good s _ up good, matches_empty s _ none_, p]

/-- A learning request of group 1 for an address that the store does not hold. -/
def learning : State := ready.withRoute fun r => { r with learnQ := [⟨1, 3, 0, 0, 0⟩] }


theorem up_of (s : State) (h : ((List.range 8).all s.bankUp) = true) : ∀ b < 8, s.bankUp b = true := by
  intro b hb
  exact List.all_eq_true.mp h b (List.mem_range.mpr hb)

theorem witness_learnsNew : meets (Row.learnsNew 1 noErrs) learning = true := by
  have up := up_of (((learning.advance 0).meetErrs noErrs).withRoute fun t => { t with learnQ := t.learnQ.erase ⟨1, 3, 0, 0, 0⟩ }) (by decide +kernel)
  have find : ((learning.advance 0).meetErrs noErrs).route.learnQ.find? (fun r => r.group == (1 : Fin 2).val) = some ⟨1, 3, 0, 0, 0⟩ := by decide +kernel
  have ok : (Regs.wf learning.regs && Memory.wf learning.wins) = true := by decide +kernel
  have run : ((learning.advance 0).inRun && (learning.advance 0).route.chain.isNone) = true := by decide +kernel
  simp only [meets, Row.learnsNew, ok, run, find, Bool.true_and]
  rw [readBuckets_good _ _ up (by decide +kernel), matches_empty _ _ (by decide +kernel)]
  decide +kernel

/-- A valid entry: type 0, VLAN 0, to port 3. -/
def anEntry : BitVec 142 := 0

theorem witness_entryInsert : meets (Row.entryInsert 0x200 anEntry noErrs) ready = true := by
  have ok : (Regs.wf ready.regs && Memory.wf ready.wins) = true := by decide +kernel
  have takes : ((ready.advance 0).meetErrs noErrs).takesAll 0x200 ((Row.entryWords anEntry.toNat ++ [(0x5010, 6, 1)]) ++ [(0x5010, 7, 1)]) = true := by
    decide +kernel
  have valid : entryInvalid (((((ready.advance 0).meetErrs noErrs).storedAll 0x200 (Row.entryWords anEntry.toNat ++ [(0x5010, 6, 1)])).taken 0x200 0x5010).heldEntry) = false := by
    decide +kernel
  simp only [meets, Row.entryInsert, Row.entryRow, ok, takes, valid, Bool.true_and, Bool.not_false]
  rw [insert_empty _ _ (up_of _ (by decide +kernel)) (by decide +kernel) (by decide +kernel) (by decide +kernel)]
  decide

/-- A store with that entry in the first way of its first bucket. -/
def holding : State := ready.setSlot ((ready.buckets (entryKey anEntry.toNat)).1 * 4) (mkSlot (storedEntry anEntry.toNat) none)

/-- Scalars written and an index taken change nothing of the route store. -/
theorem taken_route (u : State) (sess idx : Nat) : (u.taken sess idx).route = u.route := by
  unfold State.taken State.takeLock
  repeat' split
  all_goals rfl

theorem storedAll_route (sess : Nat) : ∀ (l : List (Nat × Nat × Nat)) (u : State), (u.storedAll sess l).route = u.route
  | [], _ => rfl
  | x :: l, u => (storedAll_route sess l _).trans (taken_route u sess x.1)

/-- A delete finds the key in the first way of its first bucket. -/
theorem delete_held (s : State) (key : Nat) (r : RouteSlot) (up : ∀ b < 8, s.bankUp b = true) (good : s.route.bad = [])
    (held : s.route.slots = [((s.buckets key).1 * 4, r)]) (valid : entryValid r.val = true) (same : entryKey r.val = key) :
    (s.deleteEntry key).2 = 0 := by
  have u := (buckets_up s key up).1
  have val : ∀ t : State, t.route.slots = s.route.slots → t.slotVal ((s.buckets key).1 * 4) = r.val := fun t h => by
    simp [State.slotVal, h, held, mapGet]
  simp only [State.deleteEntry, readBuckets_good s key up good]
  split
  · rename_i none_
    have m := List.filter_eq_nil_iff.mp none_ ((s.buckets key).1 * 4) (by simp [waysOf, State.withRoute, State.buckets])
    revert m
    simp only [bucketBank] at u
    have e : slotBank ((s.buckets key).1 * 4) = (s.buckets key).1 / 8192 := by simp only [slotBank]; omega
    rw [e]
    simp [State.slotValid, State.withRoute]
    exact ⟨u, (congrArg entryValid (val _ rfl)).trans valid, (congrArg entryKey (val _ rfl)).trans same⟩
  · rfl

theorem holding_slots : holding.route.slots = [((ready.buckets (entryKey anEntry.toNat)).1 * 4, mkSlot (storedEntry anEntry.toNat) none)] := by
  have e : ready.route.slots = [] := by decide +kernel
  simp only [holding, State.setSlot, State.withRoute, e, mapSet]

theorem witness_entryDelete : meets (Row.entryDelete 0x200 anEntry noErrs) holding = true := by
  have ok : (Regs.wf holding.regs && Memory.wf holding.wins) = true := by decide +kernel
  have takes : ((holding.advance 0).meetErrs noErrs).takesAll 0x200 ((Row.entryWords anEntry.toNat ++ [(0x5010, 6, 2)]) ++ [(0x5010, 7, 1)]) = true := by
    decide +kernel
  have entry : ((((holding.advance 0).meetErrs noErrs).storedAll 0x200 (Row.entryWords anEntry.toNat ++ [(0x5010, 6, 2)])).taken 0x200 0x5010).heldEntry = 0 := by
    decide +kernel
  have route : ((((holding.advance 0).meetErrs noErrs).storedAll 0x200 (Row.entryWords anEntry.toNat ++ [(0x5010, 6, 2)])).taken 0x200 0x5010).route
      = { holding.route with bad := [] } := by
    rw [taken_route, storedAll_route]; rfl
  have seed : holding.route.seed = ready.route.seed := rfl
  have key : entryKey anEntry.toNat = entryKey 0 := by decide +kernel
  simp only [meets, Row.entryDelete, Row.entryRow, ok, takes, entry, Bool.true_and]
  rw [delete_held _ _ (mkSlot (storedEntry anEntry.toNat) none) (up_of _ (by decide +kernel)) (by rw [route])
    (by simp only [State.buckets, route, holding_slots, seed, key]) (by decide +kernel) (by decide +kernel)]
  decide

theorem taken_ctl (u : State) (sess idx : Nat) : (u.taken sess idx).ctl = u.ctl := by
  unfold State.taken State.takeLock
  repeat' split
  all_goals rfl

theorem storedAll_ctl (sess : Nat) : ∀ (l : List (Nat × Nat × Nat)) (u : State), (u.storedAll sess l).ctl = u.ctl
  | [], _ => rfl
  | x :: l, u => (storedAll_ctl sess l _).trans (taken_ctl u sess x.1)

theorem flashBytes_congr {s t : State} (c : s.ctl = t.ctl) (k off n : Nat) : s.flashBytes k off n = t.flashBytes k off n := by
  have f : ∀ j, s.flashSlot j = t.flashSlot j := fun j => by unfold State.flashSlot; rw [c]
  have y : ∀ i, s.flashByte k i = t.flashByte k i := fun i => by unfold State.flashByte; rw [f]
  unfold State.flashBytes
  simp only [y]

theorem fwStatus_congr {s t : State} (c : s.ctl = t.ctl) (k : Nat) : s.fwStatus k = t.fwStatus k := by
  have b := flashBytes_congr c k
  have h : s.fwHeader k = t.fwHeader k := b 0 224
  have y : s.fwBody k = t.fwBody k := by unfold State.fwBody; rw [h, b]
  unfold State.fwStatus
  rw [h, y, c]

theorem checkImage_congr {s t : State} (c : s.ctl = t.ctl) (p : s.pairSlot 45 = t.pairSlot 45) (k : Nat) : s.checkImage k = t.checkImage k := by
  have b := flashBytes_congr c
  unfold State.checkImage State.fwHeader
  rw [fwStatus_congr c, b, b, p]

theorem witness_fwActivate (good : ready.checkImage ready.inactiveSlot = 0) : meets (Row.fwActivate 0x200 false) ready = true := by
  have ok : (Regs.wf ready.regs && Memory.wf ready.wins) = true := by decide +kernel
  have takes : (ready.advance 0).takesAll 0x200 (Row.fwWords 3 false ++ [(0x1F00, 2, 1)]) = true := by decide +kernel
  have ctl : (((ready.advance 0).storedAll 0x200 (Row.fwWords 3 false)).taken 0x200 0x1F00).ctl = ready.ctl := by
    rw [taken_ctl, storedAll_ctl]; rfl
  have slot : (((ready.advance 0).storedAll 0x200 (Row.fwWords 3 false)).taken 0x200 0x1F00).pairSlot 45 = ready.pairSlot 45 := by decide +kernel
  have idle : ready.ctl.action.isNone = true := rfl
  have inactive : (((ready.advance 0).storedAll 0x200 (Row.fwWords 3 false)).taken 0x200 0x1F00).inactiveSlot = ready.inactiveSlot := by
    simp only [State.inactiveSlot, slot]
  simp only [meets, Row.fwActivate, asStart, ok, takes, ctl, idle, inactive, checkImage_congr ctl slot, good]
  rfl

/-! ### Witnesses of the statements of single rules -/

/-- A well-formed command and one that names a port index that does not exist (R7). -/
theorem witness_WellFormedCommandsComplete : (Instr.queuePop 0 46).wf = true ∧ (Instr.queuePop 0 47).wf = false ∧ (Instr.queuePop 0 48).wf = false
    ∧ (Instr.queuePop 0 64).wf = true ∧ exec (.queuePop 0 47) ready = .refused .illFormed := by
  refine ⟨?_, ?_, ?_, ?_, rfl⟩ <;> decide

theorem witness_StepsKeepTheState : ready.canonical ∧ step ready = .next ready := ⟨⟨by decide +kernel, by decide +kernel⟩, rfl⟩

theorem witness_StoppedPartTakesNoCommand : (Instr.rollCallTimer 0).wf = true
    ∧ (∀ dt, (({ ready with mode := .stopped } : State).advance dt).mode = .stopped) ∧ (∀ dt vaon, Instr.rollCallTimer 0 ≠ .powerOnReset dt vaon) :=
  ⟨by decide, fun _ => rfl, fun _ _ h => by cases h⟩

theorem witness_QuietUnitsChangeNothing : State.reset.quiet = true ∧ ready.quiet = true := by constructor <;> decide +kernel

theorem witness_ScalarsReadBack : ready.canonical ∧ (ready.wr 0x7010 2 7).rd 0x7010 2 = 7 := ⟨⟨by decide +kernel, by decide +kernel⟩, by decide +kernel⟩

theorem witness_WindowBytesReadBack : (ready.setWin 0x2071 0 3071 [5]).winB 0x2071 0 3071 = 5 := by decide +kernel

/-- Events of a carriage and of another source, in an empty ring and one that wraps. -/
theorem witness_EventsStandInTheRing : ready.canonical ∧ ({ ready.wr 0x1201 1 4095 with ringFull := true } : State).canonical
    ∧ ((ready.wr 0x1201 1 4095).event 46 0x43 1 2 3).ringFull = true ∧ ((ready.wr 0x1201 1 4095).event 0x80 0x43 1 2 3).rd 0x1201 1 = 4096 :=
  ⟨⟨by decide +kernel, by decide +kernel⟩, ⟨by decide +kernel, by decide +kernel⟩, by decide +kernel, by decide +kernel⟩

theorem witness_PlainWritesChangeOneScalar : ready.canonical ∧ (Row.dictionaryWrite 0x200 0x6A30 1 3).pre (ready.advance 0) = true ∧ (ready.advance 0).quiet = true :=
  ⟨⟨by decide +kernel, by decide +kernel⟩, by decide +kernel, by decide +kernel⟩

/-- Objects of each access code. -/
theorem witness_AccessCodesHold : ((objRow 0x1018 1).map ObjRow.acc, (objRow 0x2005 2).map ObjRow.acc, (objRow 0x7001 1).map fun r => (r.acc, r.window),
    (objRow 0x5010 7).map ObjRow.acc, (ready.wr 0x5010 7 1).view 0x5010 7 % 2) = (some .ro, some .wo, some (.rs, false), some .rs, 1) := by decide +kernel

theorem witness_WriteRightsHold : ((objRow 0x2005 1).map ObjRow.acc, (objRow 0x8030 1).map fun r => decide (r.acc ≠ .ro), rightIsS 0x8030 1) = (some .ro, some true, true) := by
  decide +kernel

/-- The topmost bit of 0x7001:01 and the first behind its mask are reserved. -/
theorem witness_ReservedBitsAreRefused : (objRow 0x7001 1).map (fun r => (r.window, r.mask.testBit 63, r.mask.testBit 1)) = some (false, false, false)
    ∧ ready.groupOf 0x200 = none ∧ (leVal (leBytes 8 (2 ^ 63))).testBit 63 = true := by decide +kernel

theorem witness_RefusedWritesChangeNothing : (objRow 0x7001 1).map ObjRow.window = some false
    ∧ (ready.writeChecked State.configStart 0x200 0 0x7001 1 0 (leBytes 4 2)).1 = 0x03000002 := by decide +kernel

/-- A session that meets another's lock, one that holds it, and one of a role without a lock in its way. -/
theorem witness_ObjectLocksHold : (objRow 0x7010 2).map (fun r => (r.window, scalarAlone r 0x7010 2 5)) = some (false, 0)
    ∧ writeAbort 0 0x7010 2 0 4 = 0 ∧ isLocal 0x7010 = false ∧ ready.groupOf 0x200 = none ∧ ready.lockedFor 0x200 0x7010 = false
    ∧ (ready.takeLock 0x105 0x7010).lockedFor 0x200 0x7010 = true ∧ (ready.takeLock 0x105 0x7010).lockedFor 0x105 0x7010 = false ∧ 0 < ready.holdNs := by
  decide +kernel

/-- The timing of a C channel and of its data phase, and of an L channel, in a protocol. -/
theorem witness_TimingWaitsForNoProtocol : [(5, 1), (71, 2), (95, 1)].all (fun x =>
    let idx := 0x4000 + 0x20 * x.1 + x.2
    let s := ready.wr (0x4000 + 0x20 * x.1) 2 9
    match objRow idx 1 with
    | some r => writeAbort 0 idx 1 0 r.size == 0 && scalarAlone r idx 1 (leVal (leBytes r.size r.dflt)) == 0 && (s.groupOf 0x200).isNone
      && !s.lockedFor 0x200 idx && s.proto x.1 != 0
    | none => false) = true := by decide +kernel

/-- Boundary operands of the two forms. -/
theorem witness_ForwardedRequestsReadBack : isWindow 0x1018 1 = false ∧ isWindow 0x5030 0 = true
    ∧ (match parseReq (Req.read 0xFFFF 255 (2 ^ 32 - 1) 1024).body with | .inl r => decide (r = .read 0xFFFF 255 (2 ^ 32 - 1) 1024) | .inr _ => false) = true
    ∧ (match parseReq (Req.write 0 0 0 []).body with | .inl r => decide (r = .write 0 0 0 []) | .inr _ => false) = true := by decide +kernel

/-- A request at a coupling, of the current epoch 1 or of an older one. -/
def asked (epoch : Nat) : State := ready.withCar fun c => { c with reqs := [⟨3, 20, 9, epoch, .read, false⟩] }

/-- An acknowledge held in a coupling for a requester of the current epoch 1 or of an older one. -/
def heldAck (epoch : Nat) : State := ready.withCar fun c => { c with acks := [⟨3, 20, 9, .read, epoch, 1, 0⟩] }

/-- Accepted requests and held acknowledges, each with the current epoch and with another; and neither. -/
theorem witness_AcknowledgesNeedTheCurrentEpoch : ([1, 255].all fun e =>
    ((asked e).advance 0).awake && ((asked e).advance 0).present 3
      && (((asked e).advance 0).car.reqs.find? fun q => q.requester == 3 && q.target == 20 && q.tag == 9 && !q.held).isSome
      && ((asked e).advance 0).car.acks == []
      && (((heldAck e).advance 0).car.acks.find? fun a => a.requester == 3 && a.responder == 20 && a.tag == 9).isSome) = true
    ∧ ((asked 1).advance 0).epoch 3 = 1 ∧ (ready.advance 0).car.acks = [] := by decide +kernel

/-- A carriage in each of the four states. -/
theorem witness_RestartsOfAbsentCarriagesDoNothing : [stPoweredDown, stRetired, stSpareIdle, stFailed].all (fun st =>
    let s := ready.wrF 0x2203 1 3 0 st
    s.carState 3 == st && s.testsCarriage 3 == false && (s.seqOf 3).isNone) = true := by decide +kernel

/-- Queues of two items, of one and of none, at port 46 and at H with its rings off. -/
theorem witness_QueueReadsPopTheHead : ready.inRun = true ∧ (ready.wrB 0x20A0 3 2 true).rdB 0x20A0 3 2 = true
    ∧ ((ready.setDelivery 46 ⟨[], [1, 2], none⟩).deliveryQ 46).stream = [1, 2] ∧ ((ready.setDelivery 46 ⟨[], [1], none⟩).deliveryQ 46).stream = [1]
    ∧ (ready.deliveryQ 44).stream = [] ∧ (ready.deliveryQ 44).frames = [] := by decide +kernel

theorem witness_CaptureLatchesDeviceTime : ready.canonical ∧ (ready.advance 0).takes 0x200 0x7001 1 1 = true ∧ (ready.advance 0).present 42 = true
    ∧ (ready.advance 0).quiet = true := ⟨⟨by decide +kernel, by decide +kernel⟩, by decide +kernel, by decide +kernel, by decide +kernel⟩

/-! ### Single commands and operations -/

/-- The fuses of STEEL, both blown, and of SLAG with one blown (R300, Table 11.13). -/
theorem test_lifeCycle : (lifeOf 0, lifeOf 0b11, lifeOf 0b1111, lifeOf 0b01001111, completeFuses 0b01001111) = (1, 2, 3, 5, 0b11001111) := by decide

/-- Product code and profile word (Table 0.1, Table 0.5). -/
theorem test_identity : (State.reset.readObj 0x200 0x1018 2 0 0, State.reset.readObj 0x200 0x1030 1 0 0) = ((0, leBytes 4 0x9612), (0, leBytes 4 0xE)) := by
  decide +kernel

/-- The epoch wraps from 255 to 1 (R38). -/
theorem test_epochWraps : ((ready.wrF 0x2203 1 15 8 255).becomePresent 3 1 1).epoch 3 = 1 := by decide +kernel

/-- The receive latency of an Ethernet port is subtracted from its stamps; a channel has none (R323). -/
theorem test_rxLatency : (let s := { ready with time := { ready.time with dev := 1000 * 2 ^ 48 } }.wr 0x7103 1 (7 * 65536 + 25)
    (s.rxTime 3 100, s.rxTime 64 100, s.txTime 3)) = (875, 900, 1007 * 65536) := by decide +kernel

/-- Host byte 0 reaches target byte 3 (R412). -/
theorem test_lanes : laneSwap 0 [1, 2, 3, 4] = [4, 3, 2, 1] := by decide

/-- An ro object refuses a write (Table 17.4). -/
theorem test_readOnly : (ready.writeChecked State.configStart 0x200 0 0x1018 1 0 (leBytes 4 0)).1 = 0x02000001 := by decide +kernel

/-- The check value of the CRC of Ethernet over "123456789" is 0xCBF43926. -/
theorem test_crc : crcRun 0xFFFFFFFF [0x31, 0x32, 0x33, 0x34, 0x35, 0x36, 0x37, 0x38, 0x39] ^^^ 0xFFFFFFFF = 0xCBF43926 := by decide +kernel

/-- Each command with a port operand is refused where the index names no port: 47 stands between H's and the channels' (R7, Table 0.3). -/
theorem test_wf_refuses : ([.queueItemWrite 0 47 0 noErrs, .queuePop 0 47, .cutThroughRelease 0 63 noErrs, .waitingCopyTaken 0 47, .egressSelect 0 47 noErrs,
    .observationSample 0 47, .observationReset 0 0x200 63, .keepAliveReceived 0 0 47 []] : List Instr).all (fun i => !i.wf) = true := by decide

/-- The ends of the two ranges of ports that exist are taken (R7, Table 0.3). -/
theorem test_wf_takes : ([.queuePop 0 0, .queuePop 0 46, .queuePop 0 64, .queuePop 0 159] : List Instr).all Instr.wf = true := by decide

end Sys2Proof.Tests
end

section
/-! The dictionary's keys, counters and windows after a write, and what an event leaves in the ring 0x1200 and its counters (R32, R34). -/

namespace Sys2Proof.Machine

/-! ### Keys -/

/-- The keys of two scalars are equal only where index and subindex are. -/
theorem regKey_inj {idx sub i a : Nat} (hs : sub < 256) (ha : a < 256) : regKey i a = regKey idx sub ↔ i = idx ∧ a = sub := by
  unfold regKey; omega

/-- The keys of two window bytes are equal only where index, subindex and offset are. -/
theorem winKey_inj {idx sub off i a o : Nat} (hs : sub < 256) (ha : a < 256) (hf : off < 2 ^ 24) (ho : o < 2 ^ 24) :
    winKey i a o = winKey idx sub off ↔ i = idx ∧ a = sub ∧ o = off := by
  unfold winKey; omega

/-- Within one window the key tells the offset, however large it is. -/
theorem winKey_off_inj {idx sub off o : Nat} : winKey idx sub o = winKey idx sub off ↔ o = off := by
  unfold winKey; omega

/-! ### Counters -/

theorem State.bump_canonical {s : State} (h : s.canonical) (idx sub n : Nat) : (s.bump idx sub n).canonical :=
  State.wr_canonical h idx sub _

/-- A counter raised reads as the sum, modulo 2^32. -/
theorem State.rd_bump {s : State} (h : s.canonical) (idx sub n : Nat) : (s.bump idx sub n).rd idx sub = (s.rd idx sub + n) % 2 ^ 32 := by
  unfold State.bump
  rw [State.rd_wr h.1]
  omega

/-- A counter raised leaves every other scalar alone. -/
theorem State.rd_bump_ne {s : State} (h : s.canonical) {idx sub i a : Nat} (n : Nat) (hk : regKey i a ≠ regKey idx sub) :
    (s.bump idx sub n).rd i a = s.rd i a :=
  State.rd_wr_ne h.1 _ hk

/-! ### Bytes of a window -/

theorem State.setWinB_canonical {s : State} (h : s.canonical) (idx sub off v : Nat) : (s.setWinB idx sub off v).canonical :=
  (State.setWinB_keeps (State.Keeps.refl s)).canonical h

theorem State.setWin_cons (s : State) (idx sub off : Nat) (b : Byte) (bs : List Byte) :
    s.setWin idx sub off (b :: bs) = (s.setWinB idx sub off b.toNat).setWin idx sub (off + 1) bs := rfl

/-- Bytes written leave a byte alone whose key is none of theirs. -/
theorem State.winB_setWin_ne {s : State} (h : s.canonical) {idx sub off i a o : Nat} {bs : List Byte}
    (hk : ∀ k < bs.length, winKey i a o ≠ winKey idx sub (off + k)) : (s.setWin idx sub off bs).winB i a o = s.winB i a o := by
  induction bs generalizing s off with
  | nil => rfl
  | cons b bs ih =>
    have later : ∀ k < bs.length, winKey i a o ≠ winKey idx sub (off + 1 + k) := fun k hlt => by
      rw [Nat.add_assoc, Nat.add_comm 1 k]
      exact hk (k + 1) (Nat.succ_lt_succ hlt)
    rw [State.setWin_cons, ih (State.setWinB_canonical h ..) later]
    exact State.winB_setWinB_ne h.2 _ (hk 0 (Nat.zero_lt_succ _))

/-- Bytes written leave every byte outside their range alone. -/
theorem State.winB_setWin_outside {s : State} (h : s.canonical) {idx sub off i a o : Nat} {bs : List Byte} (hs : sub < 256) (ha : a < 256)
    (hf : off + bs.length ≤ 2 ^ 24) (ho : o < 2 ^ 24) (hout : ¬ (i = idx ∧ a = sub ∧ off ≤ o ∧ o < off + bs.length)) :
    (s.setWin idx sub off bs).winB i a o = s.winB i a o := by
  refine State.winB_setWin_ne h fun k hlt e => ?_
  obtain ⟨hi, ha', ho'⟩ := (winKey_inj hs ha (by omega) ho).1 e
  exact hout ⟨hi, ha', by omega, by omega⟩

/-- Each byte written reads back. -/
theorem State.winB_setWin {s : State} (h : s.canonical) (idx sub off : Nat) {bs : List Byte} {k : Nat} (hk : k < bs.length) :
    (s.setWin idx sub off bs).winB idx sub (off + k) = bs[k].toNat := by
  induction bs generalizing s off k with
  | nil => exact absurd hk (Nat.not_lt_zero k)
  | cons b bs ih =>
    have hc := State.setWinB_canonical h idx sub off b.toNat
    rw [State.setWin_cons]
    cases k with
    | zero =>
      have first : (s.setWinB idx sub off b.toNat).winB idx sub off = b.toNat := by
        rw [State.winB_setWinB h.2, Nat.mod_eq_of_lt b.isLt]
      have later : ∀ j < bs.length, winKey idx sub off ≠ winKey idx sub (off + 1 + j) := fun j _ e => by
        rw [winKey_off_inj] at e
        omega
      exact (State.winB_setWin_ne hc later).trans first
    | succ k =>
      rw [show off + (k + 1) = off + 1 + k by omega, ih hc (off + 1) (Nat.lt_of_succ_lt_succ hk), List.getElem_cons_succ]

/-- A stretch of the bytes written reads back. -/
theorem State.winBytes_setWin {s : State} (h : s.canonical) (idx sub off : Nat) {bs : List Byte} {k n : Nat} (hk : k + n ≤ bs.length) :
    (s.setWin idx sub off bs).winBytes idx sub (off + k) n = (bs.drop k).take n := by
  have hlen : ((s.setWin idx sub off bs).winBytes idx sub (off + k) n).length = ((bs.drop k).take n).length := by
    simp only [State.winBytes, List.length_map, List.length_range, List.length_take, List.length_drop]; omega
  refine List.ext_getElem hlen fun j hj _ => ?_
  have hjn : j < n := by simpa [State.winBytes] using hj
  simp only [State.winBytes, List.getElem_map, List.getElem_range, List.getElem_take, List.getElem_drop]
  rw [Nat.add_assoc, State.winB_setWin h idx sub off (show k + j < bs.length by omega), BitVec.ofNat_toNat, BitVec.setWidth_eq]

/-- A little-endian field of the bytes written reads back. -/
theorem State.winLe_setWin {s : State} (h : s.canonical) (idx sub off : Nat) {bs : List Byte} {k n v : Nat} (hk : k + n ≤ bs.length)
    (hv : (bs.drop k).take n = leBytes n v) : (s.setWin idx sub off bs).winLe idx sub (off + k) n = v % 256 ^ n := by
  rw [State.winLe, State.winBytes_setWin h idx sub off hk, hv, leVal_leBytes]

/-! ### An event as its record and its count -/

/-- The record of an event (Table 1.8). -/
def State.eventRecord (s : State) (src code d0 d1 d2 : Nat) : List Byte :=
  leBytes 4 s.clockNow.2 ++ leBytes 4 (s.clockNow.1 % 2 ^ 32) ++ leBytes 1 src ++ leBytes 1 (if src < 0x80 then s.epoch src else 0)
    ++ leBytes 2 code ++ leBytes 1 d0 ++ leBytes 1 d1 ++ leBytes 2 d2

/-- An event's record in the slot of its number modulo 4,096 (R454). -/
def State.recordEvent (s : State) (src code d0 d1 d2 : Nat) : State :=
  s.setWin 0x1200 0 (s.rd 0x1201 1 % 4096 * 16) (s.eventRecord src code d0 d1 d2)

/-- The counts of an event: a record overwritten, where the ring has been filled, and a record written (R34). -/
def State.countEvent (s : State) : State := (if s.ringFull then s.bump 0x1201 2 1 else s).bump 0x1201 1 1

theorem State.eventRecord_length (s : State) (src code d0 d1 d2 : Nat) : (s.eventRecord src code d0 d1 d2).length = 16 := by
  simp only [State.eventRecord, List.length_append, leBytes_length]

/-- An event counts in the scalars, stands in the window, and marks the ring full with its last slot. -/
theorem State.event_eq (s : State) (src code d0 d1 d2 : Nat) :
    s.event src code d0 d1 d2 = { s.countEvent with
      wins := (s.recordEvent src code d0 d1 d2).wins, ringFull := s.ringFull || s.countEvent.rd 0x1201 1 % 4096 == 0 } := by
  have hrec : s.recordEvent src code d0 d1 d2 = { s with wins := (s.recordEvent src code d0 d1 d2).wins } := State.setWin_rest ..
  have hev : s.event src code d0 d1 d2 =
      let t := (s.recordEvent src code d0 d1 d2).countEvent
      if t.rd 0x1201 1 % 4096 = 0 then { t with ringFull := true } else t := rfl
  rw [hev, hrec]
  generalize (s.recordEvent src code d0 d1 d2).wins = w
  have hcount : ({ s with wins := w } : State).countEvent = { s.countEvent with wins := w } := by
    unfold State.countEvent; split <;> rfl
  have hfull : s.countEvent.ringFull = s.ringFull := by unfold State.countEvent; split <;> rfl
  have hrd : ({ s.countEvent with wins := w } : State).rd 0x1201 1 = s.countEvent.rd 0x1201 1 := rfl
  dsimp only
  rw [hcount, hrd]
  split
  case isTrue hz => simp [hz]
  case isFalse hz => simp [hz, hfull]

theorem State.event_rd (s : State) (src code d0 d1 d2 i a : Nat) : (s.event src code d0 d1 d2).rd i a = s.countEvent.rd i a := by
  rw [State.event_eq]; rfl

theorem State.event_winB (s : State) (src code d0 d1 d2 i a o : Nat) :
    (s.event src code d0 d1 d2).winB i a o = (s.recordEvent src code d0 d1 d2).winB i a o := by
  rw [State.event_eq]; rfl

theorem State.event_winLe (s : State) (src code d0 d1 d2 i a o n : Nat) :
    (s.event src code d0 d1 d2).winLe i a o n = (s.recordEvent src code d0 d1 d2).winLe i a o n := by
  rw [State.event_eq]; rfl

/-- The epoch of a carriage is a byte (R38). -/
theorem State.epoch_lt (s : State) (n : Nat) : s.epoch n < 256 := Nat.mod_lt _ (by decide)

/-! ### The counters of the ring -/

theorem State.countOverwrite_canonical {s : State} (h : s.canonical) : (if s.ringFull then s.bump 0x1201 2 1 else s).canonical := by
  split
  · exact State.bump_canonical h ..
  · exact h

/-- Sub 01 of 0x1201 counts the record (R34). -/
theorem State.countEvent_written {s : State} (h : s.canonical) : s.countEvent.rd 0x1201 1 = (s.rd 0x1201 1 + 1) % 2 ^ 32 := by
  unfold State.countEvent
  rw [State.rd_bump (State.countOverwrite_canonical h)]
  split
  · rw [State.rd_bump_ne h 1 (by decide)]
  · rfl

/-- Sub 02 of 0x1201 counts the record overwritten, once the ring has been filled (R34). -/
theorem State.countEvent_overwritten {s : State} (h : s.canonical) :
    s.countEvent.rd 0x1201 2 = if s.ringFull then (s.rd 0x1201 2 + 1) % 2 ^ 32 else s.rd 0x1201 2 := by
  unfold State.countEvent
  rw [State.rd_bump_ne (State.countOverwrite_canonical h) 1 (by decide)]
  split
  · rw [State.rd_bump h]
  · rfl

/-- Counting an event leaves every scalar but the two counters alone. -/
theorem State.countEvent_rd_ne {s : State} (h : s.canonical) {i a : Nat} (ha : a < 256) (hne : (i, a) ∉ [(0x1201, 1), (0x1201, 2)]) :
    s.countEvent.rd i a = s.rd i a := by
  have key : ∀ b < 256, (i, a) ≠ (0x1201, b) → regKey i a ≠ regKey 0x1201 b := fun b hb hn e =>
    hn (Prod.ext_iff.2 ((regKey_inj hb ha).1 e))
  have h1 := key 1 (by decide) fun e => hne (e ▸ List.mem_cons_self)
  have h2 := key 2 (by decide) fun e => hne (e ▸ List.mem_cons_of_mem _ List.mem_cons_self)
  unfold State.countEvent
  rw [State.rd_bump_ne (State.countOverwrite_canonical h) 1 h1]
  split
  · exact State.rd_bump_ne h 1 h2
  · rfl

/-! ### The record in the ring -/

/-- An event shows its record in its slot (Table 1.8). -/
theorem State.event_shows {s : State} (h : s.canonical) (src code d0 d1 d2 : Nat) :
    (s.event src code d0 d1 d2).showsEvent s (s.rd 0x1201 1 % 4096 * 16) src code d0 d1 d2 := by
  have word : ∀ k n v, k + n ≤ 16 → ((s.eventRecord src code d0 d1 d2).drop k).take n = leBytes n v →
      (s.event src code d0 d1 d2).winLe 0x1200 0 (s.rd 0x1201 1 % 4096 * 16 + k) n = v % 256 ^ n := fun k n v hk hv => by
    rw [State.event_winLe]
    exact State.winLe_setWin h _ _ _ (by rwa [State.eventRecord_length]) hv
  have byte : ∀ k v, k < 16 → (s.eventRecord src code d0 d1 d2)[k]? = some (BitVec.ofNat 8 v) →
      (s.event src code d0 d1 d2).winB 0x1200 0 (s.rd 0x1201 1 % 4096 * 16 + k) = v % 256 := fun k v hk hv => by
    have hlt : k < (s.eventRecord src code d0 d1 d2).length := by rwa [State.eventRecord_length]
    have hget : (s.eventRecord src code d0 d1 d2)[k] = BitVec.ofNat 8 v := Option.some.inj ((List.getElem?_eq_getElem hlt).symm.trans hv)
    rw [State.event_winB, State.recordEvent, State.winB_setWin h _ _ _ hlt, hget, BitVec.toNat_ofNat]
  have hepoch : (if src < 0x80 then s.epoch src else 0) < 256 := by
    split
    · exact s.epoch_lt src
    · decide
  refine ⟨word 0 4 _ (by decide) rfl, ?_, byte 8 src (by decide) rfl, ?_, word 10 2 code (by decide) rfl, byte 12 d0 (by decide) rfl,
    byte 13 d1 (by decide) rfl, word 14 2 d2 (by decide) rfl⟩
  · rw [word 4 4 _ (by decide) rfl]
    exact Nat.mod_mod _ _
  · rw [byte 9 _ (by decide) rfl, Nat.mod_eq_of_lt hepoch]

/-- An event leaves every window byte outside its slot alone. -/
theorem State.event_winB_outside {s : State} (h : s.canonical) (src code d0 d1 d2 : Nat) {i a o : Nat} (ha : a < 256) (ho : o < 2 ^ 24)
    (hout : ¬ (i = 0x1200 ∧ a = 0 ∧ s.rd 0x1201 1 % 4096 * 16 ≤ o ∧ o < s.rd 0x1201 1 % 4096 * 16 + 16)) :
    (s.event src code d0 d1 d2).winB i a o = s.winB i a o := by
  rw [State.event_winB]
  refine State.winB_setWin_outside h (by decide) ha ?_ ho ?_ <;> rw [State.eventRecord_length]
  · omega
  · exact hout

/-- The ring is full once the count of records reaches a multiple of its 4,096 slots (R34). -/
theorem State.event_ringFull {s : State} (h : s.canonical) (src code d0 d1 d2 : Nat) :
    (s.event src code d0 d1 d2).ringFull = (s.ringFull || (s.rd 0x1201 1 + 1) % 2 ^ 32 % 4096 == 0) := by
  rw [State.event_eq, State.countEvent_written h]

/-- An event changes scalars, windows and the mark of a full ring, and nothing else of the state. -/
theorem State.event_frame (s : State) (src code d0 d1 d2 : Nat) :
    { s.event src code d0 d1 d2 with regs := s.regs, wins := s.wins, ringFull := s.ringFull } = s := by
  obtain ⟨r, w, f, e⟩ := s.event_rest src code d0 d1 d2
  rw [e]

/-- Settles O9: the record by the bytes written to its slot, the counters by the two counters raised, and the frame by what lies outside
these. -/
theorem eventsStandInTheRing : Obligations.EventsStandInTheRing := by
  unfold Obligations.EventsStandInTheRing
  intro s src code d0 d1 d2 h _
  refine ⟨State.event_shows h .., ?_, ?_, State.event_ringFull h .., fun i a ha hne => ?_,
    fun i a o ha ho hout => State.event_winB_outside h _ _ _ _ _ ha ho hout, State.event_frame ..⟩
  · rw [State.event_rd, State.countEvent_written h]
  · rw [State.event_rd, State.countEvent_overwritten h]
  · rw [State.event_rd, State.countEvent_rd_ne h ha hne]

end Sys2Proof.Machine
end

section
/-! Fields of scalars after a write, what a power-on reset leaves of a scalar, and the epochs of carriages and the acknowledges of couplings
(R38, R39, R471). -/

namespace Sys2Proof.Machine

/-! ### Fields -/

/-- The bits of a field are those of the value from its lowest bit on. -/
theorem testBit_fld (v hi lo i : Nat) : (fld v hi lo).testBit i = (decide (i < hi + 1 - lo) && v.testBit (i + lo)) := by
  rw [fld, Nat.testBit_mod_two_pow, Nat.testBit_div_two_pow]

/-- A replaced field shows the bits of its new value within its bounds, and those of the old value outside them. -/
theorem testBit_setFld {hi lo : Nat} (hb : lo ≤ hi) (v x i : Nat) :
    (setFld v hi lo x).testBit i = if lo ≤ i ∧ i ≤ hi then x.testBit (i - lo) else v.testBit i := by
  have hlow : v % 2 ^ lo < 2 ^ lo := Nat.mod_lt _ (Nat.two_pow_pos lo)
  have hmid : x % 2 ^ (hi + 1 - lo) < 2 ^ (hi + 1 - lo) := Nat.mod_lt _ (Nat.two_pow_pos _)
  have hlt : 2 ^ lo * (x % 2 ^ (hi + 1 - lo)) + v % 2 ^ lo < 2 ^ (hi + 1) := by
    have hsucc := Nat.mul_le_mul_left (2 ^ lo) (Nat.succ_le_of_lt hmid)
    rw [Nat.mul_succ, ← Nat.pow_add, show lo + (hi + 1 - lo) = hi + 1 by omega] at hsucc
    omega
  have hset : setFld v hi lo x = 2 ^ (hi + 1) * (v / 2 ^ (hi + 1)) + (2 ^ lo * (x % 2 ^ (hi + 1 - lo)) + v % 2 ^ lo) := by
    unfold setFld; ring
  rw [hset, Nat.testBit_two_pow_mul_add _ hlt, Nat.testBit_two_pow_mul_add _ hlow]
  rcases lt_or_ge i lo with h1 | h1
  · simp [h1, Nat.testBit_mod_two_pow, show i < hi + 1 by omega, show ¬ lo ≤ i by omega]
  · rcases lt_or_ge hi i with h2 | h2
    · simp [show ¬ i < hi + 1 by omega, show ¬ i ≤ hi by omega, Nat.testBit_div_two_pow, Nat.sub_add_cancel (show hi + 1 ≤ i by omega)]
    · simp [show i < hi + 1 by omega, show ¬ i < lo by omega, h1, h2, Nat.testBit_mod_two_pow, show i - lo < hi + 1 - lo by omega]

/-- A field replaced holds the value written, cut to its width. -/
theorem fld_setFld {hi lo : Nat} (hb : lo ≤ hi) (v x : Nat) : fld (setFld v hi lo x) hi lo = x % 2 ^ (hi + 1 - lo) := by
  refine Nat.eq_of_testBit_eq fun i => ?_
  rw [testBit_fld, testBit_setFld hb, Nat.testBit_mod_two_pow, Nat.add_sub_cancel]
  by_cases hi' : i < hi + 1 - lo
  · rw [if_pos (by omega)]
  · simp [hi']

/-- A field replaced leaves a field that does not overlap it alone. -/
theorem fld_setFld_disjoint {hi lo ph pl : Nat} (hb : lo ≤ hi) (hd : ph < lo ∨ hi < pl) (v x : Nat) :
    fld (setFld v hi lo x) ph pl = fld v ph pl := by
  refine Nat.eq_of_testBit_eq fun i => ?_
  rw [testBit_fld, testBit_fld, testBit_setFld hb]
  by_cases hi' : i < ph + 1 - pl
  · rw [if_neg (by omega)]
  · simp [hi']

/-- A field below bit 64 reads the same of the value and of the word that holds it. -/
theorem fld_mod_word {hi : Nat} (h64 : hi < 64) (v lo : Nat) : fld (v % 2 ^ 64) hi lo = fld v hi lo := by
  refine Nat.eq_of_testBit_eq fun i => ?_
  rw [testBit_fld, testBit_fld, Nat.testBit_mod_two_pow]
  by_cases hi' : i < hi + 1 - lo
  · simp [hi', show i + lo < 64 by omega]
  · simp [hi']

theorem State.wrF_canonical {s : State} (h : s.canonical) (idx sub hi lo v : Nat) : (s.wrF idx sub hi lo v).canonical :=
  State.wr_canonical h idx sub _

/-- A field written reads as the value written, cut to its width. -/
theorem State.rdF_wrF {s : State} (h : s.canonical) {hi lo : Nat} (hb : lo ≤ hi) (h64 : hi < 64) (idx sub v : Nat) :
    (s.wrF idx sub hi lo v).rdF idx sub hi lo = v % 2 ^ (hi + 1 - lo) := by
  rw [State.rdF, State.wrF, State.rd_wr h.1, fld_mod_word h64, fld_setFld hb]

/-- A field written leaves a field of the same scalar alone that does not overlap it. -/
theorem State.rdF_wrF_disjoint {s : State} (h : s.canonical) {hi lo ph pl : Nat} (hb : lo ≤ hi) (hd : ph < lo ∨ hi < pl) (h64 : ph < 64)
    (idx sub v : Nat) : (s.wrF idx sub hi lo v).rdF idx sub ph pl = s.rdF idx sub ph pl := by
  rw [State.rdF, State.wrF, State.rd_wr h.1, fld_mod_word h64, fld_setFld_disjoint hb hd, State.rdF]

/-- A field written leaves every other scalar alone. -/
theorem State.rd_wrF_ne {s : State} (h : s.canonical) {idx sub i a : Nat} (hi lo v : Nat) (hk : regKey i a ≠ regKey idx sub) :
    (s.wrF idx sub hi lo v).rd i a = s.rd i a :=
  State.rd_wr_ne h.1 _ hk

/-! ### Scalars at a power-on reset -/

/-- A key that no entry has is not listed. -/
theorem mapGet_eq_none {α : Type} {m : List (Nat × α)} {x : Nat} (h : ∀ e ∈ m, e.1 ≠ x) : mapGet m x = none := by
  induction m with
  | nil => rfl
  | cons e r ih =>
    obtain ⟨hk, hr⟩ := List.forall_mem_cons.1 h
    rw [mapGet, if_neg hk, ih hr, ite_self]

/-- What a scalar reads as is a matter of the scalars alone. -/
theorem State.rd_congr {s t : State} (h : s.regs = t.regs) (i a : Nat) : s.rd i a = t.rd i a := by
  rw [State.rd, State.rd, h]

/-- A scalar whose entries have been taken out reads as its default (R426). -/
theorem State.rd_of_unlisted {s : State} {idx sub : Nat} (ha : sub < 256) (h : ∀ e ∈ s.regs, e.1 ≠ regKey idx sub) :
    s.rd idx sub = objDefault idx sub % 2 ^ 64 := by
  rw [State.rd, mapGetD, mapGet_eq_none h, Option.getD_none, regDefault, BitVec.toNat_ofNat, regKey,
    show (idx * 256 + sub) / 256 = idx by omega, show (idx * 256 + sub) % 256 = sub by omega]

/-- The scalars of non-volatile memory, which alone a power-on reset leaves (R143, R471). -/
def State.lastingRegs (s : State) : List (Nat × Word) := s.regs.filter fun x => keptAlways (x.1 / 256) (x.1 % 256)

theorem State.setWin_regs (s : State) (idx sub off : Nat) (bs : List Byte) : (s.setWin idx sub off bs).regs = s.regs := by
  rw [State.setWin_rest]

/-- Of the scalars a power-on reset leaves those of non-volatile memory and writes the reset cause. -/
theorem State.powerOn_regs (s : State) (vaon : Bool) :
    ∃ cause, (s.powerOn vaon).regs = (({ s with regs := s.lastingRegs } : State).wr 0x2005 3 cause).regs := by
  refine ⟨if !vaon then 0 else if s.power.cause = 0 then 1 else s.power.cause, ?_⟩
  simp only [State.powerOn, State.startFresh, State.withPower, State.setWin_regs, State.wr_regs, State.lastingRegs]

/-- Every scalar but those of non-volatile memory and the reset cause stands at its default after a power-on reset (R426, R471). -/
theorem State.powerOn_rd {s : State} (h : s.canonical) (vaon : Bool) {i a : Nat} (ha : a < 256) (hkept : keptAlways i a = false)
    (hne : (i, a) ≠ (0x2005, 3)) : (s.powerOn vaon).rd i a = objDefault i a % 2 ^ 64 := by
  obtain ⟨cause, hregs⟩ := s.powerOn_regs vaon
  have hwf : Regs.wf s.lastingRegs = true := canonical_filter regDefault _ h.1
  have hkey : regKey i a ≠ regKey 0x2005 3 := fun e => hne (Prod.ext_iff.2 ((regKey_inj (by decide) ha).1 e))
  rw [State.rd_congr hregs, State.rd_wr_ne hwf _ hkey]
  refine State.rd_of_unlisted ha fun e he hek => ?_
  have hlast : keptAlways (e.1 / 256) (e.1 % 256) = true := (List.mem_filter.1 he).2
  rw [hek, regKey, show (i * 256 + a) / 256 = i by omega, show (i * 256 + a) % 256 = a by omega, hkept] at hlast
  exact Bool.false_ne_true hlast

/-- The default of a carriage's state scalar is epoch 1, and the scalar stands in no non-volatile memory. -/
theorem carriageScalar_default {n : Nat} (hn : n < 47) :
    fld (objDefault (0x2200 + n) 1) 15 8 = 1 ∧ keptAlways (0x2200 + n) 1 = false := by
  have hall : ∀ k : Fin 47, fld (objDefault (0x2200 + k.val) 1) 15 8 = 1 ∧ keptAlways (0x2200 + k.val) 1 = false := by decide +kernel
  exact hall ⟨n, hn⟩

/-- At power-on reset every carriage has epoch 1 (R38). -/
theorem State.powerOn_epoch {s : State} (h : s.canonical) (vaon : Bool) {n : Nat} (hn : n < 47) : (s.powerOn vaon).epoch n = 1 := by
  obtain ⟨hdef, hkept⟩ := carriageScalar_default hn
  have hne : (0x2200 + n, 1) ≠ (0x2005, 3) := by simp
  rw [State.epoch, State.rdF, State.powerOn_rd h vaon (by decide) hkept hne, fld_mod_word (by decide), hdef]

/-! ### The next epoch (R38) -/

theorem nextEpoch_ne_zero (e : Nat) : nextEpoch e ≠ 0 := by
  unfold nextEpoch; split <;> omega

theorem nextEpoch_lt {e : Nat} (h : e < 256) : nextEpoch e < 256 := by
  unfold nextEpoch; split <;> omega

/-- A repair window is the Ethernet ports' alone. -/
theorem State.repairWindow_regs (s : State) (n : Nat) : (s.repairWindow n).regs = s.regs := by
  unfold State.repairWindow; split <;> rfl

/-- The scalar of a carriage that returns to PRESENT, after its two writes (R38, Table 2.3). -/
def State.epochWritten (s : State) (n : Nat) : State := (s.wrF (0x2200 + n) 1 15 8 (nextEpoch (s.epoch n))).setCar n stPresent

/-- A return to PRESENT changes the couplings, writes the carriage's scalar, clears its headroom and raises event 0x0031 (R48). -/
theorem State.becomePresent_eq (s : State) (n reason result : Nat) : ∃ f, s.becomePresent n reason result =
    (((((s.withCar f).epochWritten n).wr (0x2100 + n) 1 0).event n 0x31 reason result 0).repairWindow n) := by
  unfold State.becomePresent State.epochWritten
  exact ⟨_, rfl⟩

/-- The states of the carriages read after a return to PRESENT as the two writes leave them: the headroom cleared and the event raised touch
none of them. -/
theorem State.becomePresent_rd {s : State} (h : s.canonical) {n m : Nat} (hn : n < 47) (hm : m < 47) (reason result : Nat) :
    (s.becomePresent n reason result).rd (0x2200 + m) 1 = (s.epochWritten n).rd (0x2200 + m) 1 := by
  obtain ⟨f, heq⟩ := s.becomePresent_eq n reason result
  have hc : ((s.withCar f).epochWritten n).canonical := State.wrF_canonical (State.wrF_canonical (s := s.withCar f) h ..) ..
  have hhead : regKey (0x2200 + m) 1 ≠ regKey (0x2100 + n) 1 := by unfold regKey; omega
  have hring : (0x2200 + m, 1) ∉ [(0x1201, 1), (0x1201, 2)] := by simp; omega
  rw [heq, State.rd_congr (State.repairWindow_regs ..), State.event_rd, State.countEvent_rd_ne (State.wr_canonical hc ..) (by decide) hring,
    State.rd_wr_ne hc.1 _ hhead]
  rfl

/-- A carriage that returns to PRESENT has its next epoch. -/
theorem State.becomePresent_epoch {s : State} (h : s.canonical) {n : Nat} (hn : n < 47) (reason result : Nat) :
    (s.becomePresent n reason result).epoch n = nextEpoch (s.epoch n) := by
  calc (s.becomePresent n reason result).epoch n
      = (s.epochWritten n).epoch n := congrArg (fld · 15 8) (State.becomePresent_rd h hn hn reason result)
    _ = (s.wrF (0x2200 + n) 1 15 8 (nextEpoch (s.epoch n))).epoch n :=
        State.rdF_wrF_disjoint (State.wrF_canonical h ..) (by decide) (.inr (by decide)) (by decide) _ _ _
    _ = nextEpoch (s.epoch n) % 2 ^ (15 + 1 - 8) := State.rdF_wrF h (by decide) (by decide) _ _ _
    _ = nextEpoch (s.epoch n) := Nat.mod_eq_of_lt (nextEpoch_lt (s.epoch_lt n))

/-- A carriage that returns to PRESENT is PRESENT. -/
theorem State.becomePresent_present {s : State} (h : s.canonical) {n : Nat} (hn : n < 47) (reason result : Nat) :
    (s.becomePresent n reason result).present n = true := by
  have hstate : (s.becomePresent n reason result).carState n = stPresent :=
    calc (s.becomePresent n reason result).carState n
        = (s.epochWritten n).carState n := congrArg (fld · 3 0) (State.becomePresent_rd h hn hn reason result)
      _ = stPresent := State.rdF_wrF (State.wrF_canonical h ..) (by decide) (by decide) _ _ _
  rw [State.present, hstate]
  rfl

/-- A carriage that returns to PRESENT leaves the epochs of the others. -/
theorem State.becomePresent_epoch_ne {s : State} (h : s.canonical) {n m : Nat} (hn : n < 47) (hm : m < 47) (hne : m ≠ n)
    (reason result : Nat) : (s.becomePresent n reason result).epoch m = s.epoch m := by
  have hk : regKey (0x2200 + m) 1 ≠ regKey (0x2200 + n) 1 := by unfold regKey; omega
  refine congrArg (fld · 15 8) ?_
  calc (s.becomePresent n reason result).rd (0x2200 + m) 1
      = (s.epochWritten n).rd (0x2200 + m) 1 := State.becomePresent_rd h hn hm reason result
    _ = (s.wrF (0x2200 + n) 1 15 8 (nextEpoch (s.epoch n))).rd (0x2200 + m) 1 := State.rd_wrF_ne (State.wrF_canonical h ..) _ _ _ hk
    _ = s.rd (0x2200 + m) 1 := State.rd_wrF_ne h _ _ _ hk

/-- Settles O20: a power-on reset leaves the default, and a return to PRESENT writes the next epoch to its own carriage's scalar. -/
theorem epochsAdvance : Obligations.EpochsAdvance := by
  unfold Obligations.EpochsAdvance
  intro s n h hn
  refine ⟨fun vaon => State.powerOn_epoch h vaon hn, fun reason result => ?_⟩
  have hepoch := State.becomePresent_epoch h hn reason result
  exact ⟨hepoch, hepoch ▸ nextEpoch_ne_zero _, State.becomePresent_present h hn reason result,
    fun m hm hne => State.becomePresent_epoch_ne h hn hm hne reason result⟩

/-! ### Acknowledges (R39) -/

/-- A requester that serves takes its acknowledge from the coupling at once. -/
theorem State.sendAck_of_serving {s : State} {a : CAck} (h : s.present a.requester = true ∨ s.carState a.requester = stDraining) :
    s.sendAck a = s.deliverAck a := by
  rw [State.sendAck, if_pos]
  rcases h with h | h <;> simp [h]

/-- An acknowledge that the coupling holds goes out before any request is looked at. -/
theorem State.acknowledge_held {s : State} {r t tag status : Nat} {a : CAck}
    (h : (s.car.acks.find? fun a => a.requester == r && a.responder == t && a.tag == tag) = some a) :
    s.acknowledge r t tag status = (s.withCar fun c => { c with acks := c.acks.erase a }).sendAck a := by
  rw [State.acknowledge, h]

/-- Absence is the coupling's own answer: a responder that sends it does nothing (log entry 3, the model's reading). -/
theorem State.acknowledge_absent {s : State} {r t tag : Nat}
    (h : (s.car.acks.find? fun a => a.requester == r && a.responder == t && a.tag == tag) = none) : s.acknowledge r t tag 1 = s := by
  rw [State.acknowledge, h]
  rfl

/-- The coupling after the completion of an accepted request: a drain of the responder counts it (R46). -/
def State.requestDone (s : State) (q : CReq) (t : Nat) : State := s.withCar fun c => { c with
  reqs := c.reqs.erase q
  seqs := c.seqs.map fun x => if x.carriage = t ∧ x.phase = .draining then { x with completed := x.completed + 1 } else x }

/-- The acknowledge of an accepted request carries the requester's epoch of its request and the responder's present one. -/
theorem State.acknowledge_accepted {s : State} {r t tag status : Nat} {q : CReq}
    (hnone : (s.car.acks.find? fun a => a.requester == r && a.responder == t && a.tag == tag) = none) (hst : status ≠ 1)
    (h : (s.car.reqs.find? fun q => q.requester == r && q.target == t && q.tag == tag && !q.held) = some q) :
    s.acknowledge r t tag status = (s.requestDone q t).sendAck ⟨r, t, tag, q.op, q.epoch, s.epoch t, status⟩ := by
  rw [State.acknowledge, hnone]
  dsimp only
  rw [if_neg hst, h]
  rfl

theorem exec_couplingAcknowledge_eq (dt : Nat) (r t : Fin 47) (tag : Byte) (status : Fin 4) (s : State) :
    exec (.couplingAcknowledge dt r t tag status) s = goOn dt (fun s => s.acknowledge r.val t.val tag.toNat status.val) s := by
  rfl

/-- The command is the coupling's step once time has passed, where the part runs. -/
theorem exec_couplingAcknowledge {dt : Nat} {s : State} (h : (s.advance dt).awake = true) (r t : Fin 47) (tag : Byte) (status : Fin 4) :
    exec (.couplingAcknowledge dt r t tag status) s
      = (s.advance dt).done ((s.advance dt).acknowledge r.val t.val tag.toNat status.val) := by
  rw [exec_couplingAcknowledge_eq, goOn_done h]

/-- A held acknowledge leaves the coupling, delivered with the requester's current epoch and counted with any other. -/
theorem State.acknowledge_held_of_serving {u : State} {r t tag status : Nat} {a : CAck}
    (hserves : u.present r = true ∨ u.carState r = stDraining)
    (hheld : (u.car.acks.find? fun a => a.requester == r && a.responder == t && a.tag == tag) = some a) :
    u.acknowledge r t tag status =
      let v := u.withCar fun c => { c with acks := c.acks.erase a }
      if a.reqEpoch = u.epoch r then v.emit (.ack r t tag a.reqEpoch a.respEpoch a.status) else v.bump (0x2200 + r) 6 1 := by
  obtain ⟨⟨rfl, rfl⟩, rfl⟩ : (a.requester = r ∧ a.responder = t) ∧ a.tag = tag := by
    simpa using List.find?_some hheld
  rw [State.acknowledge_held hheld]
  exact State.sendAck_of_serving hserves

/-- The acknowledge of an accepted request is delivered with the requester's current epoch and counted with any other. -/
theorem State.acknowledge_accepted_of_serving {u : State} {r t tag status : Nat} {q : CReq}
    (hserves : u.present r = true ∨ u.carState r = stDraining)
    (hnone : (u.car.acks.find? fun a => a.requester == r && a.responder == t && a.tag == tag) = none) (hst : status ≠ 1)
    (hreq : (u.car.reqs.find? fun q => q.requester == r && q.target == t && q.tag == tag && !q.held) = some q) :
    u.acknowledge r t tag status =
      if q.epoch = u.epoch r then (u.requestDone q t).emit (.ack r t tag q.epoch (u.epoch t) status)
        else (u.requestDone q t).bump (0x2200 + r) 6 1 := by
  rw [State.acknowledge_accepted hnone hst hreq]
  exact State.sendAck_of_serving (s := u.requestDone q t) hserves

/-- Settles O19: each acknowledge of a requester that serves leaves the coupling through the comparison of epochs. -/
theorem acknowledgesNeedTheCurrentEpoch : Obligations.AcknowledgesNeedTheCurrentEpoch := by
  unfold Obligations.AcknowledgesNeedTheCurrentEpoch
  intro dt s r t tag status u hawake hserves
  have hexec := exec_couplingAcknowledge hawake r t tag status
  refine ⟨fun a hheld => ?held, fun hnone => ⟨fun hst => ?absent, fun hst q hreq => ?accepted⟩⟩
  case held => exact hexec.trans (congrArg u.done (State.acknowledge_held_of_serving hserves hheld))
  case absent => rw [hexec, hst, State.acknowledge_absent hnone]
  case accepted => exact hexec.trans (congrArg u.done (State.acknowledge_accepted_of_serving hserves hnone hst hreq))

end Sys2Proof.Machine
end

section
/-! What the units do by themselves after a command leaves the delivery queues as they are (R69, R70, R75), and the read of a head in a state
whose list of delivery queues names one port twice. -/

namespace Sys2Proof.Machine

/-! ### The part of the state that stands aside -/

/-- The power state, the delivery queues and the flush that waits, and two traces of drawbar frames: the neighbours heard and the sessions of
management requests. -/
structure Aside where
  mode : PowerMode
  delivery : List (Nat × DeliveryQ)
  flush : Option FlushWait
  neighbour : List (Nat × Nat)
  sessions : List FwdSession

def State.aside (s : State) : Aside := ⟨s.mode, s.buf.delivery, s.buf.flush, s.consist.neighbour, s.consist.sessions⟩

theorem State.mode_of_aside {s t : State} (h : t.aside = s.aside) : t.mode = s.mode := congrArg Aside.mode h

theorem State.delivery_of_aside {s t : State} (h : t.aside = s.aside) : t.buf.delivery = s.buf.delivery := congrArg Aside.delivery h

theorem State.flush_of_aside {s t : State} (h : t.aside = s.aside) : t.buf.flush = s.buf.flush := congrArg Aside.flush h

theorem State.neighbour_of_aside {s t : State} (h : t.aside = s.aside) : t.consist.neighbour = s.consist.neighbour :=
  congrArg Aside.neighbour h

theorem State.sessions_of_aside {s t : State} (h : t.aside = s.aside) : t.consist.sessions = s.consist.sessions :=
  congrArg Aside.sessions h

@[simp] theorem State.aside_ite (c : Prop) [Decidable c] (s t : State) : (if c then s else t).aside = if c then s.aside else t.aside :=
  apply_ite State.aside c s t

@[simp] theorem State.forEach_aside {α : Type} {f : State → α → State} (h : ∀ s a, (f s a).aside = s.aside) (s : State) (l : List α) :
    (s.forEach l f).aside = s.aside := by
  unfold State.forEach
  induction l generalizing s with
  | nil => rfl
  | cons a l ih => exact (ih _).trans (h s a)

/-! ### What moves frames, counts and tells leaves aside, in the order of the model's files -/

/-! #### Machine/Ops -/

@[simp] theorem State.wr_aside (s : State) (idx sub v : Nat) : (s.wr idx sub v).aside = s.aside := by rfl

@[simp] theorem State.wrF_aside (s : State) (idx sub hi lo v : Nat) : (s.wrF idx sub hi lo v).aside = s.aside := by rfl

@[simp] theorem State.bump_aside (s : State) (idx sub n : Nat) : (s.bump idx sub n).aside = s.aside := by rfl

@[simp] theorem State.bump64_aside (s : State) (idx sub n : Nat) : (s.bump64 idx sub n).aside = s.aside := by rfl

@[simp] theorem State.setWinB_aside (s : State) (idx sub off v : Nat) : (s.setWinB idx sub off v).aside = s.aside := by rfl

@[simp] theorem State.setWin_aside (s : State) (idx sub off : Nat) (bs : List Byte) : (s.setWin idx sub off bs).aside = s.aside := by
  rw [State.setWin_rest]; rfl

@[simp] theorem State.setWinLe_aside (s : State) (idx sub off n v : Nat) : (s.setWinLe idx sub off n v).aside = s.aside := by
  simp [State.setWinLe]

@[simp] theorem State.bumpWin_aside (s : State) (idx sub off n k : Nat) : (s.bumpWin idx sub off n k).aside = s.aside := by
  simp [State.bumpWin]

@[simp] theorem State.event_aside (s : State) (src code d0 d1 d2 : Nat) : (s.event src code d0 d1 d2).aside = s.aside := by
  obtain ⟨r, w, f, e⟩ := s.event_rest src code d0 d1 d2
  rw [e]; rfl

@[simp] theorem State.emit_aside (s : State) (o : Output) : (s.emit o).aside = s.aside := by rfl

@[simp] theorem State.draw_aside (s : State) : s.draw.2.aside = s.aside := by rfl

/-! #### Machine/Buffer -/

@[simp] theorem State.withTm_aside (s : State) (f : TmState → TmState) : (s.withTm f).aside = s.aside := by rfl

@[simp] theorem State.setFrame_aside (s : State) (id : Nat) (f : Frame) : (s.setFrame id f).aside = s.aside := by rfl

@[simp] theorem State.modFrame_aside (s : State) (id : Nat) (g : Frame → Frame) : (s.modFrame id g).aside = s.aside := by
  unfold State.modFrame
  split <;> simp

@[simp] theorem State.eraseFrame_aside (s : State) (id : Nat) : (s.eraseFrame id).aside = s.aside := by rfl

theorem State.allocCell_aside {s t : State} {early : Bool} {b : Nat} (e : s.allocCell early = some (b, t)) : t.aside = s.aside := by
  unfold State.allocCell at e
  split at e
  · split at e
    · cases e; rfl
    · cases e
  · cases e

@[simp] theorem State.noteLeast_aside (s : State) : s.noteLeast.aside = s.aside := by
  have hleast : ∀ n, (s.withBuf fun b => { b with leastFree := n }).aside = s.aside := fun _ => rfl
  simp [State.noteLeast, hleast]

@[simp] theorem State.growCells_aside (s : State) (id want k : Nat) : (s.growCells id want k).1.aside = s.aside := by
  induction k generalizing s with
  | zero => rfl
  | succ n ih =>
    unfold State.growCells
    split
    · rfl
    · split
      · rfl
      · split
        · rfl
        · next e => rw [ih, State.noteLeast_aside, State.setFrame_aside, State.allocCell_aside e]

@[simp] theorem State.appendBytes_aside (s : State) (id : Nat) (bs : List Byte) : (s.appendBytes id bs).1.aside = s.aside := by
  unfold State.appendBytes
  dsimp only
  (repeat' split) <;> simp

theorem State.buildFrame_aside {s t : State} {f : Frame} {bs : List Byte} {b : Nat} (e : s.buildFrame f bs = some (b, t)) :
    t.aside = s.aside := by
  unfold State.buildFrame at e
  dsimp only at e
  split at e
  · cases e
    rw [State.modFrame_aside, State.appendBytes_aside]; rfl
  · cases e

@[simp] theorem State.newFrame_aside (s : State) (f : Frame) : (s.newFrame f).2.aside = s.aside := by rfl

@[simp] theorem State.countRefusal_aside (s : State) (port cls reason : Nat) : (s.countRefusal port cls reason).aside = s.aside := by rfl

@[simp] theorem State.traceRefusal_aside (s : State) (f : Frame) (egress cls reason : Nat) :
    (s.traceRefusal f egress cls reason).aside = s.aside := by
  simp [State.traceRefusal]

@[simp] theorem State.noticeRefusal_aside (s : State) (f : Frame) (egress cls reason : Nat) :
    (s.noticeRefusal f egress cls reason).aside = s.aside := by
  simp [State.noticeRefusal]

@[simp] theorem State.probeStep_aside (s : State) (id sub : Nat) : (s.probeStep id sub).aside = s.aside := by
  simp [State.probeStep]

@[simp] theorem State.probeDrop_aside (s : State) (id : Nat) : (s.probeDrop id).aside = s.aside := by
  unfold State.probeDrop
  split <;> rfl

@[simp] theorem State.refuse_aside (s : State) (f : Frame) (port egress reason : Nat) : (s.refuse f port egress reason).aside = s.aside := by
  simp [State.refuse]

@[simp] theorem State.dropRef_aside (s : State) (id port : Nat) : (s.dropRef id port).aside = s.aside := by
  unfold State.dropRef
  split <;> simp

@[simp] theorem State.discardPoisoned_aside (s : State) (id : Nat) : (s.discardPoisoned id).aside = s.aside := by
  unfold State.discardPoisoned
  split <;> simp

/-! #### Machine/Route -/

@[simp] theorem State.withRoute_aside (s : State) (f : RouteState → RouteState) : (s.withRoute f).aside = s.aside := by rfl

@[simp] theorem State.setSlot_aside (s : State) (k : Nat) (r : RouteSlot) : (s.setSlot k r).aside = s.aside := by rfl

@[simp] theorem State.clearSlot_aside (s : State) (k : Nat) : (s.clearSlot k).aside = s.aside := by rfl

@[simp] theorem State.readSlot_aside (s : State) (k : Nat) : (s.readSlot k).aside = s.aside := by
  unfold State.readSlot
  split <;> simp

@[simp] theorem State.readBuckets_aside (s : State) (key : Nat) : (s.readBuckets key).aside = s.aside := by
  have one : ∀ (s : State) k, (if s.bankUp (bucketBank k) then s.forEach (waysOf k) State.readSlot
      else s.bump (0x2200 + 11 + bucketBank k) 5 1).aside = s.aside := fun s k => by
    simp
  exact (one _ _).trans (one _ _)

@[simp] theorem State.lookup_aside (s : State) (key : Nat) : (s.lookup key).2.aside = s.aside := by
  unfold State.lookup
  dsimp only
  (repeat' split) <;> simp

@[simp] theorem State.pressure_aside (s : State) (bank : Nat) : (s.pressure bank).aside = s.aside := by
  simp [State.pressure]

@[simp] theorem State.insertFailed_aside (s : State) (key status : Nat) : (s.insertFailed key status).aside = s.aside := by
  simp [State.insertFailed]

@[simp] theorem State.copyMoving_aside (s : State) (src dst : Nat) : (s.copyMoving src dst).aside = s.aside := by
  unfold State.copyMoving
  split <;> simp

@[simp] theorem State.insert_aside (s : State) (w : Nat) (owner : Option Nat) (cmd : Bool) : (s.insert w owner cmd).1.aside = s.aside := by
  unfold State.insert
  dsimp only
  (repeat' split) <;> simp

@[simp] theorem State.reinsert_aside (s : State) (k : Nat) : (s.reinsert k).aside = s.aside := by
  induction k generalizing s with
  | zero => rfl
  | succ n ih =>
    unfold State.reinsert
    split
    · rfl
    · simp [ih]

@[simp] theorem State.excess_aside (s : State) (port mac vid : Nat) : (s.excess port mac vid).aside = s.aside := by
  simp [State.excess]

@[simp] theorem State.learnAsk_aside (s : State) (port domain mac vid target : Nat) :
    (s.learnAsk port domain mac vid target).1.aside = s.aside := by
  unfold State.learnAsk
  dsimp only
  (repeat' split) <;> simp

/-! #### Machine/Firewall -/

@[simp] theorem State.withFw_aside (s : State) (f : FwState → FwState) : (s.withFw f).aside = s.aside := by rfl

@[simp] theorem State.readRules_aside (s : State) (h : Nat) : (s.readRules h).aside = s.aside := by
  simp [State.readRules]

@[simp] theorem State.fwCount_aside (s : State) (port k : Nat) : (s.fwCount port k).aside = s.aside := by
  simp [State.fwCount]

@[simp] theorem State.intrusion_aside (s : State) (f : Frame) (unknown : Bool) (rule : Nat) :
    (s.intrusion f unknown rule).aside = s.aside := by
  simp [State.intrusion]

@[simp] theorem State.refuseHeld_aside (s : State) (id : Nat) : (s.refuseHeld id).aside = s.aside := by
  unfold State.refuseHeld
  dsimp only
  (repeat' split) <;> simp

/-! #### Machine/Traffic -/

@[simp] theorem State.modPtm_aside (s : State) (p : Nat) (f : PortTm → PortTm) : (s.modPtm p f).aside = s.aside := by rfl

@[simp] theorem State.modPdyn_aside (s : State) (p : Nat) (f : PortDyn → PortDyn) : (s.modPdyn p f).aside = s.aside := by rfl

@[simp] theorem State.portCount_aside (s : State) (p sub n : Nat) : (s.portCount p sub n).aside = s.aside := by
  simp [State.portCount]

@[simp] theorem State.tagQueue_aside (s : State) (p n : Nat) : (s.tagQueue p n).aside = s.aside := by
  unfold State.tagQueue
  (repeat' split) <;> simp

@[simp] theorem State.restartTags_aside (s : State) (p : Nat) : (s.restartTags p).aside = s.aside := by
  simp [State.restartTags]

@[simp] theorem State.pushTail_aside (s : State) (p id : Nat) : (s.pushTail p id).aside = s.aside := by
  unfold State.pushTail
  split <;> simp

@[simp] theorem State.refuseCopy_aside (s : State) (p id reason : Nat) : (s.refuseCopy p id reason).aside = s.aside := by
  unfold State.refuseCopy
  split <;> simp

@[simp] theorem State.enterPlain_aside (s : State) (p id : Nat) (limit : Bool) : (s.enterPlain p id limit).aside = s.aside := by
  unfold State.enterPlain
  split <;> simp

@[simp] theorem State.sendBuilt_aside (s : State) (p cls kind : Nat) (bs : List Byte) : (s.sendBuilt p cls kind bs).aside = s.aside := by
  unfold State.sendBuilt
  dsimp only
  split
  · next e => rw [State.enterPlain_aside, State.buildFrame_aside e]
  · exact State.refuse_aside ..

@[simp] theorem State.busyAnswer_aside (s : State) (f : Frame) : (s.busyAnswer f).aside = s.aside := by
  simp [State.busyAnswer]

@[simp] theorem State.enterQueue_aside (s : State) (p id : Nat) (limit : Bool) : (s.enterQueue p id limit).aside = s.aside := by
  unfold State.enterQueue
  split <;> simp

@[simp] theorem State.enterUnicast_aside (s : State) (p id : Nat) : (s.enterUnicast p id).aside = s.aside := by
  unfold State.enterUnicast
  (repeat' split) <;> simp

@[simp] theorem State.takeCopy_aside (s : State) (p id : Nat) : (s.takeCopy p id).aside = s.aside := by
  simp [State.takeCopy]

@[simp] theorem State.takeWaiting_aside (s : State) (p : Nat) : (s.takeWaiting p).aside = s.aside := by
  refine State.forEach_aside (fun s id => ?_) _ _
  split <;> simp

@[simp] theorem State.removeItem_aside (s : State) (p n id : Nat) : (s.removeItem p n id).aside = s.aside := by
  simp [State.removeItem]

@[simp] theorem State.meter_aside (s : State) (m : Nat) (f : Frame) (incoming : Option Nat) : (s.meter m f incoming).2.aside = s.aside := by
  simp [State.meter]

@[simp] theorem State.editFrame_aside (s : State) (id : Nat) (g : List Byte → List Byte) : (s.editFrame id g).aside = s.aside := by
  simp [State.editFrame]

@[simp] theorem State.markYellow_aside (s : State) (m id col : Nat) : (s.markYellow m id col).aside = s.aside := by
  unfold State.markYellow
  split <;> simp

@[simp] theorem State.streamFilter_aside (s : State) (h id : Nat) (incoming : Option Nat) :
    (s.streamFilter h id incoming).2.aside = s.aside := by
  unfold State.streamFilter
  dsimp only
  (repeat' split) <;> simp

@[simp] theorem State.setFrer_aside (s : State) (h : Nat) (d : FrerDyn) : (s.setFrer h d).aside = s.aside := by rfl

@[simp] theorem State.frerStep_aside (s : State) (h id : Nat) : (s.frerStep h id).2.aside = s.aside := by
  unfold State.frerStep
  dsimp only
  (repeat' split) <;> simp

/-! #### Machine/Ether -/

@[simp] theorem State.withTime_aside (s : State) (f : TimeState → TimeState) : (s.withTime f).aside = s.aside := by rfl

@[simp] theorem State.ptpStamp_aside (s : State) (p : Nat) (sent : Bool) (bs : List Byte) (t : Nat) :
    (s.ptpStamp p sent bs t).aside = s.aside := by
  unfold State.ptpStamp
  dsimp only
  (repeat' split) <;> simp

@[simp] theorem State.countRx_aside (s : State) (p : Nat) (bs : List Byte) (n : Nat) (tagged : Bool) :
    (s.countRx p bs n tagged).aside = s.aside := by
  simp [State.countRx]

@[simp] theorem State.closeTx_aside (s : State) (id : Nat) : (s.closeTx id).aside = s.aside := by
  refine State.forEach_aside (fun s p => ?_) _ _
  dsimp only
  (repeat' split) <;> simp

@[simp] theorem State.cutRx_aside (s : State) (p : Nat) : (s.cutRx p).aside = s.aside := by
  unfold State.cutRx
  dsimp only
  split
  · rfl
  · next q _ =>
    have hcur : (s.withBuf fun b => { b with ingress := mapSet b.ingress p { q with cur := none, skip := false } }).aside = s.aside := rfl
    (repeat' split) <;> simp [hcur]

@[simp] theorem State.dropLink_aside (s : State) (p mode : Nat) : (s.dropLink p mode).aside = s.aside := by
  unfold State.dropLink
  dsimp only
  (repeat' split) <;> simp

@[simp] theorem State.takeMode_aside (s : State) (p : Nat) : (s.takeMode p).aside = s.aside := by
  unfold State.takeMode
  split <;> simp

@[simp] theorem State.modStops_aside (s : State) (p : Nat) (f : PortDyn → PortDyn) : (s.modStops p f).aside = s.aside := by
  simp [State.modStops]

@[simp] theorem State.setStop_aside (s : State) (p c q : Nat) : (s.setStop p c q).aside = s.aside := by
  simp [State.setStop]

/-! #### Machine/Crypto -/

@[simp] theorem State.withCrypto_aside (s : State) (f : CryptoState → CryptoState) : (s.withCrypto f).aside = s.aside := by rfl

@[simp] theorem State.setFlag_aside (s : State) (id b : Nat) (v : Bool) : (s.setFlag id b v).aside = s.aside := by rfl

@[simp] theorem State.failEvent_aside (s : State) (cluster kind port rec_ : Nat) : (s.failEvent cluster kind port rec_).aside = s.aside := by
  simp [State.failEvent]

@[simp] theorem State.recFail_aside (s : State) (id : Nat) : (s.recFail id).aside = s.aside := by
  simp [State.recFail]

@[simp] theorem State.secCount_aside (s : State) (p k : Nat) : (s.secCount p k).aside = s.aside := by
  simp [State.secCount]

@[simp] theorem State.tryStart_aside (s : State) (o : CryptoOp) : (s.tryStart o).aside = s.aside := by
  unfold State.tryStart
  dsimp only
  (repeat' split) <;> simp

@[simp] theorem State.startOps_aside (s : State) : s.startOps.aside = s.aside := by
  simp [State.startOps]

@[simp] theorem State.dispatchOp_aside (s : State) (o : CryptoOp) : (s.dispatchOp o).aside = s.aside := by
  simp [State.dispatchOp]

@[simp] theorem State.commitFresh_aside (s : State) (r v : Nat) : (s.commitFresh r v).aside = s.aside := by rfl

@[simp] theorem State.modItem_aside (s : State) (p id : Nat) (g : QItem → QItem) : (s.modItem p id g).aside = s.aside := by rfl

@[simp] theorem State.discardItem_aside (s : State) (p id : Nat) : (s.discardItem p id).aside = s.aside := by
  simp [State.discardItem]

@[simp] theorem State.assignPn_aside (s : State) (p r : Nat) : (s.assignPn p r).2.aside = s.aside := by
  unfold State.assignPn
  split <;> simp

@[simp] theorem State.handMacsec_aside (s : State) (p id : Nat) (f : Frame) : (s.handMacsec p id f).aside = s.aside := by
  unfold State.handMacsec
  split
  · simp
  · next r _ =>
    have hassign := State.assignPn_aside s p r
    split
    · next e => rw [e] at hassign; simp [hassign]
    · next e => rw [e] at hassign; simp [hassign]

@[simp] theorem State.handAuth_aside (s : State) (p id r : Nat) (f : Frame) : (s.handAuth p id r f).aside = s.aside := by
  simp [State.handAuth]

@[simp] theorem State.handCansec_aside (s : State) (p id : Nat) (f : Frame) : (s.handCansec p id f).aside = s.aside := by
  simp [State.handCansec]

@[simp] theorem State.handOver_aside (s : State) (p : Nat) : (s.handOver p).aside = s.aside := by
  refine State.forEach_aside (fun s x => ?_) _ _
  (repeat' split) <;> simp

@[simp] theorem State.handOvers_aside (s : State) : s.handOvers.aside = s.aside := by
  simp [State.handOvers]

/-! #### Machine/Can -/

@[simp] theorem State.modCh_aside (s : State) (c : Nat) (f : ChanDyn → ChanDyn) : (s.modCh c f).aside = s.aside := by rfl

@[simp] theorem State.chCount_aside (s : State) (c sub n : Nat) : (s.chCount c sub n).aside = s.aside := by rfl

@[simp] theorem State.fillBuffer_aside (s : State) (c k : Nat) (r : List Byte) (shadow : Bool) :
    (s.fillBuffer c k r shadow).aside = s.aside := by
  simp [State.fillBuffer]

@[simp] theorem State.releaseBuffer_aside (s : State) (c k : Nat) : (s.releaseBuffer c k).aside = s.aside := by
  unfold State.releaseBuffer
  split <;> simp

@[simp] theorem State.writeLock_aside (s : State) (c v : Nat) : (s.writeLock c v).aside = s.aside := by
  simp [State.writeLock]

/-! #### Machine/Host -/

@[simp] theorem State.withHost_aside (s : State) (f : HostState → HostState) : (s.withHost f).aside = s.aside := by rfl

@[simp] theorem State.sendVector_aside (s : State) (v : Nat) : (s.sendVector v).aside = s.aside := by
  simp [State.sendVector]

@[simp] theorem State.sideVector_aside (s : State) (v : Nat) : (s.sideVector v).aside = s.aside := by
  unfold State.sideVector
  (repeat' split) <;> simp

@[simp] theorem State.deferred_aside (s : State) (window epoch reason off seq code target : Nat) :
    (s.deferred window epoch reason off seq code target).aside = s.aside := by
  simp [State.deferred]

/-! #### Machine/Sess -/

@[simp] theorem State.withSess_aside (s : State) (f : SessState → SessState) : (s.withSess f).aside = s.aside := by rfl

@[simp] theorem State.modOwn_aside (s : State) (sess : Nat) (f : SessLocal → SessLocal) : (s.modOwn sess f).aside = s.aside := by rfl

@[simp] theorem State.freeLock_aside (s : State) (idx : Nat) : (s.freeLock idx).aside = s.aside := by rfl

@[simp] theorem State.dropGroup_aside (s : State) (sess : Nat) : (s.dropGroup sess).aside = s.aside := by
  unfold State.dropGroup
  split <;> simp

@[simp] theorem State.dropLocks_aside (s : State) (sess : Nat) : (s.dropLocks sess).aside = s.aside := by rfl

@[simp] theorem State.clearSession_aside (s : State) (sess : Nat) : (s.clearSession sess).aside = s.aside := by
  unfold State.clearSession
  dsimp only
  rw [State.withSess_aside]
  exact (show _ = (State.dropLocks _ sess).aside from rfl).trans (by simp)

/-! #### Machine/Wake -/

@[simp] theorem State.withWake_aside (s : State) (f : WakeState → WakeState) : (s.withWake f).aside = s.aside := by rfl

@[simp] theorem State.modDom_aside (s : State) (d : Nat) (f : DomainDyn → DomainDyn) : (s.modDom d f).aside = s.aside := by rfl

@[simp] theorem State.setDom_aside (s : State) (d new : Nat) : (s.setDom d new).aside = s.aside := by
  simp [State.setDom]

@[simp] theorem State.wakeLin_aside (s : State) (was : List Nat) (src : Option Nat) : (s.wakeLin was src).aside = s.aside := by
  simp [State.wakeLin]

@[simp] theorem State.sendTemplates_aside (s : State) (d : Nat) : (s.sendTemplates d).aside = s.aside := by
  simp [State.sendTemplates]

@[simp] theorem State.awaken_aside (s : State) (d : Nat) (hold : Bool) : (s.awaken d hold).aside = s.aside := by
  simp [State.awaken]

@[simp] theorem State.wakeLog_aside (s : State) (kind src word : Nat) : (s.wakeLog kind src word).aside = s.aside := by
  simp [State.wakeLog]

@[simp] theorem State.tellWakes_aside (s : State) : s.tellWakes.aside = s.aside := by
  simp [State.tellWakes]

@[simp] theorem State.abortSleep_aside (s : State) (step kind src : Nat) : (s.abortSleep step kind src).aside = s.aside := by
  simp [State.abortSleep]

@[simp] theorem State.clearLatch_aside (s : State) : s.clearLatch.aside = s.aside := by
  simp [State.clearLatch]

/-! #### Machine/Consist -/

@[simp] theorem State.sendMessage_aside (s : State) (mode dst : Nat) (hops : List (Nat × Nat)) (body : List Byte) :
    (s.sendMessage mode dst hops body).aside = s.aside := by
  unfold State.sendMessage
  dsimp only [State.draw]
  split
  · next e =>
    rw [State.forEach_aside (fun _ _ => by simp), State.buildFrame_aside e]
    rfl
  · simp; rfl

@[simp] theorem State.sendRollCall_aside (s : State) : s.sendRollCall.aside = s.aside := by
  simp [State.sendRollCall]

@[simp] theorem State.tellTopology_aside (s : State) (ring : Bool) (reach p : Nat) : (s.tellTopology ring reach p).aside = s.aside := by
  simp [State.tellTopology]

@[simp] theorem State.numberConflict_aside (s : State) (serial : Nat) : (s.numberConflict serial).aside = s.aside := by
  unfold State.numberConflict
  dsimp only
  rw [State.aside_ite, State.event_aside]
  exact ite_self _

@[simp] theorem State.passOn_aside (s : State) (p mode src dst hops : Nat) (body : List Byte) :
    (s.passOn p mode src dst hops body).aside = s.aside := by
  unfold State.passOn
  dsimp only
  (repeat' split) <;> simp

/-! #### Machine/Forward -/

@[simp] theorem State.refuseIngress_aside (s : State) (id reason : Nat) : (s.refuseIngress id reason).aside = s.aside := by
  unfold State.refuseIngress
  split <;> simp

@[simp] theorem State.discardFrame_aside (s : State) (id : Nat) : (s.discardFrame id).aside = s.aside := by
  unfold State.discardFrame
  split <;> simp

@[simp] theorem State.giveDests_aside (s : State) (id : Nat) (ports : List Nat) : (s.giveDests id ports).aside = s.aside := by
  unfold State.giveDests
  dsimp only
  (repeat' split) <;> simp

@[simp] theorem State.lookup2_aside (s : State) (id port target : Nat) : (s.lookup2 id port target).1.aside = s.aside := by
  unfold State.lookup2
  dsimp only
  (repeat' split) <;> simp

@[simp] theorem State.lookups_aside (s : State) (id : Nat) : (s.lookups id).1.aside = s.aside := by
  unfold State.lookups
  dsimp only
  (repeat' split) <;> simp

@[simp] theorem State.police_aside (s : State) (id action : Nat) (dec : Option Nat) (found : Found) :
    (s.police id action dec found).aside = s.aside := by
  unfold State.police
  dsimp only
  (repeat' split) <;> simp

@[simp] theorem State.overrideClass_aside (s : State) (id action : Nat) (found : Found) :
    (s.overrideClass id action found).aside = s.aside := by
  simp [State.overrideClass]

@[simp] theorem State.holdAuth_aside (s : State) (id action : Nat) (found : Found) : (s.holdAuth id action found).aside = s.aside := by
  unfold State.holdAuth
  dsimp only
  (repeat' split) <;> simp

@[simp] theorem State.applyRule_aside (s : State) (h n id : Nat) (found : Found) : (s.applyRule h n id found).aside = s.aside := by
  unfold State.applyRule
  split <;> simp

@[simp] theorem State.decide_aside (s : State) (id : Nat) (found : Found) : (s.decide id found).aside = s.aside := by
  unfold State.decide
  dsimp only
  (repeat' split) <;> simp

@[simp] theorem State.forward_aside (s : State) (id : Nat) : (s.forward id).aside = s.aside := by
  simp [State.forward]

@[simp] theorem State.probeCapture_aside (s : State) (id : Nat) : (s.probeCapture id).aside = s.aside := by
  unfold State.probeCapture
  dsimp only
  split
  · rfl
  · split
    · exact State.probeStep_aside _ id 0x10
    · rfl

@[simp] theorem State.releaseCheck_aside (s : State) (id : Nat) : (s.releaseCheck id).2.aside = s.aside := by
  unfold State.releaseCheck
  dsimp only
  (repeat' split) <;> simp

@[simp] theorem State.secureStep_aside (s : State) (id : Nat) : (s.secureStep id).2.aside = s.aside := by
  unfold State.secureStep
  dsimp only
  (repeat' split) <;> simp

@[simp] theorem State.releaseFrame_aside (s : State) (id : Nat) : (s.releaseFrame id).aside = s.aside := by
  simp [State.releaseFrame]

@[simp] theorem State.drawDiscard_aside (s : State) (id : Nat) : (s.drawDiscard id).aside = s.aside := by rfl

@[simp] theorem State.unwrap_aside (s : State) (id : Nat) (v : DrawView) : (s.unwrap id v).aside = s.aside := by
  simp [State.unwrap]

@[simp] theorem State.drawLookup_aside (s : State) (id : Nat) (v : DrawView) : (s.drawLookup id v).aside = s.aside := by
  simp [State.drawLookup]

@[simp] theorem State.drawForward_aside (s : State) (p id : Nat) (v : DrawView) (found : Found) :
    (s.drawForward p id v found).aside = s.aside := by
  unfold State.drawForward
  dsimp only
  (repeat' split) <;> simp

@[simp] theorem State.drawUnicast_aside (s : State) (p id : Nat) (v : DrawView) : (s.drawUnicast p id v).aside = s.aside := by
  simp [State.drawUnicast]

@[simp] theorem State.drawFlood_aside (s : State) (p id : Nat) (v : DrawView) : (s.drawFlood p id v).aside = s.aside := by
  simp [State.drawFlood]

/-! #### Machine/Serve -/

@[simp] theorem State.sdoSend_aside (s : State) (c : Nat) (data : List Byte) : (s.sdoSend c data).aside = s.aside := by
  simp [State.sdoSend]

@[simp] theorem State.setSdo_aside (s : State) (c : Nat) (x : SdoXfer) : (s.setSdo c x).aside = s.aside := by rfl

@[simp] theorem State.endSdo_aside (s : State) (c : Nat) : (s.endSdo c).aside = s.aside := by
  unfold State.endSdo
  dsimp only
  (repeat' split) <;> simp

@[simp] theorem State.sdoAbort_aside (s : State) (c idx sub code : Nat) : (s.sdoAbort c idx sub code).aside = s.aside := by
  simp [State.sdoAbort]

@[simp] theorem State.moveCursor_aside (s : State) (sess idx sub n : Nat) : (s.moveCursor sess idx sub n).aside = s.aside := by
  simp [State.moveCursor]

@[simp] theorem State.sdoUpload_aside (s : State) (c idx sub : Nat) (d : List Byte) : (s.sdoUpload c idx sub d).aside = s.aside := by
  simp [State.sdoUpload]

@[simp] theorem State.sdoBlockUpload_aside (s : State) (c idx sub blk : Nat) (crc : Bool) (d : List Byte) :
    (s.sdoBlockUpload c idx sub blk crc d).aside = s.aside := by
  simp [State.sdoBlockUpload]

@[simp] theorem State.sdoAnswer_aside (s : State) (c kind idx sub n toggle : Nat) (crc : Bool) (abort : Nat) (data : List Byte) :
    (s.sdoAnswer c kind idx sub n toggle crc abort data).aside = s.aside := by
  simp [State.sdoAnswer]

@[simp] theorem State.dalSend_aside (s : State) (port : Nat) (frame msg : List Byte) : (s.dalSend port frame msg).aside = s.aside := by
  simp [State.dalSend]

@[simp] theorem State.dalAnswer_aside (s : State) (n seq port : Nat) (frame : List Byte) (typ : Nat) (body : List Byte) :
    (s.dalAnswer n seq port frame typ body).aside = s.aside := by
  unfold State.dalAnswer
  split <;> simp

@[simp] theorem State.slotAnswer_aside (s : State) (tag off len abort : Nat) (data : List Byte) :
    (s.slotAnswer tag off len abort data).aside = s.aside := by
  simp [State.slotAnswer]

@[simp] theorem State.windowAnswer_aside (s : State) (tag w off len abort : Nat) (data : List Byte) :
    (s.windowAnswer tag w off len abort data).aside = s.aside := by
  simp [State.windowAnswer]

@[simp] theorem State.postedAnswer_aside (s : State) (window off seq abort : Nat) :
    (s.postedAnswer window off seq abort).aside = s.aside := by
  simp [State.postedAnswer]

@[simp] theorem State.reply_aside (s : State) (who : Asker) (abort : Nat) (data : List Byte) : (s.reply who abort data).aside = s.aside := by
  unfold State.reply
  split <;> simp

@[simp] theorem State.manageAnswer_aside (s : State) (src : Nat) (body : List Byte) : (s.manageAnswer src body).aside = s.aside := by
  unfold State.manageAnswer
  dsimp only
  split
  · rfl
  · exact State.reply_aside ..

/-! #### Machine/Ingress -/

@[simp] theorem State.modIngress_aside (s : State) (p : Nat) (f : IngressQ → IngressQ) : (s.modIngress p f).aside = s.aside := by rfl

@[simp] theorem State.giveUp_aside (s : State) (p id : Nat) : (s.giveUp p id).aside = s.aside := by rfl

@[simp] theorem State.countOverflow_aside (s : State) (p : Nat) (f : Frame) : (s.countOverflow p f).aside = s.aside := by
  simp [State.countOverflow]

@[simp] theorem State.startFrame_aside (s : State) (p dom cls ns : Nat) : (s.startFrame p dom cls ns).aside = s.aside := by
  unfold State.startFrame
  split <;> simp

@[simp] theorem State.endEarly_aside (s : State) (p id status : Nat) : (s.endEarly p id status).aside = s.aside := by
  simp [State.endEarly]

@[simp] theorem State.storeBytes_aside (s : State) (p id : Nat) (bs : List Byte) : (s.storeBytes p id bs).aside = s.aside := by
  unfold State.storeBytes
  split <;> simp

@[simp] theorem State.storeWord_aside (s : State) (p id w : Nat) : (s.storeWord p id w).aside = s.aside := by
  unfold State.storeWord
  split <;> simp

@[simp] theorem State.rollDistance_aside (s : State) (p : Nat) (v : DrawView) : (s.rollDistance p v).2.aside = s.aside := by
  unfold State.rollDistance
  dsimp only
  (repeat' split) <;> simp

@[simp] theorem State.pauseReceived_aside (s : State) (p quanta : Nat) : (s.pauseReceived p quanta).aside = s.aside := by
  simp [State.pauseReceived]

@[simp] theorem State.pfcReceived_aside (s : State) (p classes : Nat) (quanta : List Nat) :
    (s.pfcReceived p classes quanta).aside = s.aside := by
  unfold State.pfcReceived
  dsimp only
  split
  · exact State.portCount_aside ..
  · refine (State.forEach_aside (fun s c => ?_) _ _).trans (State.portCount_aside ..)
    split <;> simp

@[simp] theorem State.macControl_aside (s : State) (p : Nat) (bs : List Byte) : (s.macControl p bs).aside = s.aside := by
  simp [State.macControl]

@[simp] theorem State.cleanFrame_aside (s : State) (p : Nat) : (s.cleanFrame p).aside = s.aside := by
  simp [State.cleanFrame]

@[simp] theorem State.stampRx_aside (s : State) (p : Nat) (f : Frame) : (s.stampRx p f).aside = s.aside := by
  simp [State.stampRx]

/-! #### Machine/Start -/

@[simp] theorem State.sendNotice_aside (s : State) (es : List (List Byte)) : (s.sendNotice es).aside = s.aside := by
  unfold State.sendNotice
  dsimp only
  split
  · next e => rw [State.enterPlain_aside, State.buildFrame_aside e]; simp
  · simp

@[simp] theorem State.sendNotices_aside (s : State) : s.sendNotices.aside = s.aside := by
  simp [State.sendNotices]

@[simp] theorem State.tellRing_aside (s : State) (old : Nat) : (s.tellRing old).aside = s.aside := by
  simp [State.tellRing]

/-! ### Drawbar frames leave a trace (R456–R458, R463, R469)

A management request may write any object, so nothing is known of the state after it; but its session is then noted. A roll call may end the
sessions of an old term; but its sender is then noted as a neighbour, and no roll call forgets one. -/

/-- A neighbour has been heard, or a management request has been served. -/
def State.Marked (s : State) : Prop := s.consist.neighbour ≠ [] ∨ s.consist.sessions ≠ []

/-- `t` bears a mark, or stands aside as `s` does. -/
def State.Traced (s t : State) : Prop := t.Marked ∨ t.aside = s.aside

theorem State.Marked.of_aside {s t : State} (h : t.aside = s.aside) (hm : s.Marked) : t.Marked := by
  rwa [State.Marked, State.neighbour_of_aside h, State.sessions_of_aside h]

theorem State.Marked.ite {c : Prop} [Decidable c] {t u : State} (ht : t.Marked) (hu : u.Marked) : (if c then t else u).Marked := by
  split
  · exact ht
  · exact hu

theorem State.Traced.trans {s t u : State} (h : s.Traced t) (h' : t.Traced u) : s.Traced u := by
  rcases h' with hu | hu
  · exact .inl hu
  · exact h.imp (State.Marked.of_aside hu) hu.trans

theorem State.Traced.of_aside_left {s t u : State} (h : t.aside = s.aside) (h' : t.Traced u) : s.Traced u := .trans (.inr h) h'

theorem State.Traced.ite {c : Prop} [Decidable c] {s t u : State} (ht : s.Traced t) (hu : s.Traced u) : s.Traced (if c then t else u) := by
  split
  · exact ht
  · exact hu

theorem State.forEach_traced {α : Type} {f : State → α → State} (h : ∀ (s : State) a, s.Traced (f s a)) (s : State) (l : List α) :
    s.Traced (s.forEach l f) := by
  unfold State.forEach
  induction l generalizing s with
  | nil => exact .inr rfl
  | cons a l ih => exact (h s a).trans (ih _)

theorem State.endForwarded_neighbour (s : State) : s.endForwarded.consist.neighbour = s.consist.neighbour := by
  have hended : (s.forEach s.consist.sessions fun s f => (s.clearSession f.sess).event 45 0x121 2 2 f.sess).aside = s.aside :=
    State.forEach_aside (fun s f => by simp) s s.consist.sessions
  exact (State.neighbour_of_aside hended :)

theorem State.setTerm_neighbour (s : State) (t : Nat) : (s.setTerm t).consist.neighbour = s.consist.neighbour := by
  unfold State.setTerm
  dsimp only
  rw [State.neighbour_of_aside (State.wr_aside ..)]
  split
  · exact s.endForwarded_neighbour
  · rfl

theorem State.updateMaster_neighbour (s : State) : s.updateMaster.consist.neighbour = s.consist.neighbour := by
  unfold State.updateMaster
  dsimp only
  split
  · rfl
  · split
    · rfl
    · rw [State.neighbour_of_aside (State.sendRollCall_aside _), State.neighbour_of_aside (State.event_aside ..), State.setTerm_neighbour]
      rfl

theorem State.noteMember_neighbour (s : State) (d : Nat) (body : List Byte) (dist : List (Nat × Nat)) :
    (s.noteMember d body dist).consist.neighbour = s.consist.neighbour := by
  unfold State.noteMember
  dsimp only
  rw [State.updateMaster_neighbour, State.neighbour_of_aside (State.tellTopology_aside ..)]
  split
  · exact State.neighbour_of_aside (State.event_aside ..)
  · rfl

theorem State.rollCall_neighbour (s : State) (body : List Byte) (dist : List (Nat × Nat)) :
    (s.rollCall body dist).consist.neighbour = s.consist.neighbour := by
  unfold State.rollCall
  dsimp only
  split
  · split
    · rfl
    · exact State.neighbour_of_aside (State.numberConflict_aside ..)
  · split
    · rw [State.setTerm_neighbour, State.noteMember_neighbour]
    · exact State.noteMember_neighbour ..

/-- A management request that is carried out leaves its session behind. -/
theorem State.manageServe_traced (s : State) (src : Nat) (body : List Byte) : s.Traced (s.manageServe src body) := by
  have hsend : ∀ (t : State) (m : List Byte), (match t.pathTo src with
      | some (p, _) => t.sendMessage 5 src [(p, 0)] m
      | none => t).aside = t.aside := fun t m => by split <;> simp
  unfold State.manageServe
  dsimp only
  refine .ite (.inl (.of_aside (hsend _ _) (.inr ?_))) (.ite (.inr (hsend _ _)) (.inr (State.bump_aside ..)))
  exact List.append_ne_nil_of_right_ne_nil _ (List.cons_ne_nil _ _)

theorem State.manageRequest_traced (s : State) (p src : Nat) (body : List Byte) : s.Traced (s.manageRequest p src body) := by
  unfold State.manageRequest
  exact .ite (.inr (State.bump_aside ..)) (.ite (s.manageServe_traced src body) (.inr rfl))

/-- A message of a neighbour that has been noted leaves the mark, whatever it asks for. -/
theorem State.drawMessage_marked {s : State} (h : s.consist.neighbour ≠ []) (p id : Nat) (v : DrawView) (dist : List (Nat × Nat)) :
    (s.drawMessage p id v dist).Marked := by
  have hm : (s.eraseFrame id).Marked := .inl h
  have hroll : ∀ body dist, ((s.eraseFrame id).rollCall body dist).Marked := fun body dist =>
    .inl (by rwa [State.rollCall_neighbour])
  have hrequest : ((s.eraseFrame id).manageRequest p v.src v.part).Marked :=
    (State.manageRequest_traced ..).elim (fun h => h) fun e => .of_aside e hm
  unfold State.drawMessage
  refine .ite (.of_aside (State.bump_aside ..) hm) (.ite (.of_aside (State.passOn_aside ..) (hroll _ _)) (.ite ?_ ?_))
  · exact .ite hrequest (.of_aside (State.manageAnswer_aside ..) hm)
  · split
    · exact .ite (.of_aside (by simp) hm) hm
    · exact hm

theorem mapSet_ne_nil {α : Type} (m : List (Nat × α)) (x : Nat) (a : α) : mapSet m x a ≠ [] := by
  unfold mapSet
  repeat' split
  all_goals exact List.cons_ne_nil _ _

/-- A drawbar frame that is not discarded leaves its sender among the neighbours. -/
theorem State.drawArrive_traced (s : State) (p id : Nat) : s.Traced (s.drawArrive p id) := by
  unfold State.drawArrive
  split
  · exact .inr rfl
  · next f _ =>
    dsimp only
    generalize drawView (f.bytes.take (f.bytes.length - 4)) = v
    split
    · exact .inr (State.drawDiscard_aside ..)
    · have hset : (s.withConsist fun c => { c with neighbour := mapSet c.neighbour p v.sender }).consist.neighbour ≠ [] := mapSet_ne_nil _ _ _
      generalize (s.withConsist fun c => { c with neighbour := mapSet c.neighbour p v.sender }) = u at hset
      have hu : u.Marked := .inl hset
      refine .inl (.ite (.of_aside (State.drawLookup_aside ..) hu) (.ite (.of_aside (State.drawUnicast_aside ..) hu)
        (.ite (.of_aside (State.drawFlood_aside ..) hu) (.ite ?_ (State.drawMessage_marked hset ..)))))
      exact State.drawMessage_marked (by rwa [State.neighbour_of_aside (State.rollDistance_aside ..)]) ..

/-! ### Items taken from an ingress queue (R65–R68, R125) -/

theorem State.arrive_traced (s : State) (p id : Nat) : s.Traced (s.arrive p id) := by
  have hsecure := s.secureStep_aside id
  unfold State.arrive
  refine .ite ?_ (.inr (State.releaseFrame_aside ..))
  generalize s.secureStep id = step at hsecure ⊢
  exact .ite (.of_aside_left hsecure (State.drawArrive_traced ..)) (.inr hsecure)

theorem State.endGood_traced (s : State) (p id : Nat) (f : Frame) : s.Traced (s.endGood p id f) := by
  unfold State.endGood
  dsimp only
  split
  · exact .inr (by simp)
  · exact .of_aside_left (by simp) (State.arrive_traced ..)

theorem State.endEth_traced (s : State) (p id status : Nat) (pcs : Bool) : s.Traced (s.endEth p id status pcs) := by
  unfold State.endEth
  dsimp only
  split
  · exact .inr (State.modIngress_aside ..)
  · refine .ite (.inr (by simp)) (.ite (.inr (by simp)) (.ite (.inr (by simp)) ?_))
    exact .of_aside_left (State.modIngress_aside ..) (State.endGood_traced ..)

theorem State.takeEnd_traced (s : State) (p id len status : Nat) : s.Traced (s.takeEnd p id len status) := by
  unfold State.takeEnd
  dsimp only
  split
  · exact .inr (State.modIngress_aside ..)
  · refine .ite (.inr (by simp)) (.ite ?_ (.ite (.inr (by simp)) ?_))
    · exact .of_aside_left (State.modFrame_aside ..) (State.endEth_traced ..)
    · exact .of_aside_left (by simp) (State.arrive_traced ..)

theorem State.takeItem_traced (s : State) (p : Nat) (w : BitVec 36) : s.Traced (s.takeItem p w) := by
  unfold State.takeItem
  refine .ite (.inr rfl) (.ite (.inr (State.startFrame_aside ..)) ?_)
  split
  · exact .inr (by simp)
  · exact .ite (.inr (State.modFrame_aside ..)) (.ite (.inr (State.modFrame_aside ..))
      (.ite (State.takeEnd_traced ..) (.inr (State.storeWord_aside ..))))

theorem State.drainItems_traced (s : State) (p : Nat) : s.Traced (s.drainItems p) := by
  unfold State.drainItems
  exact .ite (.inr rfl) <| .of_aside_left (State.modIngress_aside ..) (State.forEach_traced (fun s w => s.takeItem_traced p w) _ _)

/-! ### Wakes by traffic (R376), flushes (R75, R76), and the units' own work -/

/-- In RUN a wake is told or waits; no carriage goes up or down. -/
theorem State.latchWake_aside {s : State} (h : s.mode = .run) (kind src word : Nat) (ds : List Nat) :
    (s.latchWake kind src word ds).aside = s.aside := by
  have hlog : (s.wakeLog kind src word).mode = .run := (State.mode_of_aside (s.wakeLog_aside kind src word)).trans h
  have hmode : ∀ (t : State) f, (t.withWake f).mode = t.mode := fun _ _ => rfl
  unfold State.latchWake
  simp only [hmode, hlog, h, reduceCtorEq, or_self, if_false, if_true]
  split
  · simp
  · split <;> simp

theorem State.forEach_aside_of_run {α : Type} {f : State → α → State} (h : ∀ s a, s.mode = .run → (f s a).aside = s.aside) {s : State}
    (hs : s.mode = .run) (l : List α) : (s.forEach l f).aside = s.aside := by
  unfold State.forEach
  induction l generalizing s with
  | nil => rfl
  | cons a l ih => exact (ih ((State.mode_of_aside (h s a hs)).trans hs)).trans (h s a hs)

@[simp] theorem State.trafficWakes_aside (s : State) : s.trafficWakes.aside = s.aside := by
  unfold State.trafficWakes
  split
  · rfl
  · next hrun =>
    refine State.forEach_aside_of_run (fun s p hs => ?_) (Decidable.not_not.1 hrun) _
    split
    · split
      · rfl
      · exact State.latchWake_aside hs ..
    · rfl

/-- A flush that still waits has not taken effect. -/
theorem State.flushDue_of_waiting {s : State} (h : s.flushDue.buf.flush ≠ none) : s.flushDue = s := by
  unfold State.flushDue at h ⊢
  split
  · next w hw =>
    rw [hw] at h
    dsimp only at h
    split
    · rfl
    · next hdue =>
      rw [if_neg hdue] at h
      exact absurd rfl h
  · rfl

/-- The units' own work leaves no mark and a flush waiting only where all stands aside as before. -/
theorem State.settle_aside {s : State} (hflush : s.settle.buf.flush ≠ none) (hmark : ¬ s.settle.Marked) : s.settle.aside = s.aside := by
  by_cases hmode : (s.mode != .run && s.mode != .sleep) = true
  · rw [State.settle, if_pos hmode]
  · let taken := s.forEach ((s.eth.ports.filter fun x => x.2.oldMode.isSome).map Prod.fst) State.takeMode
    let drained := taken.forEach ((taken.buf.ingress.filter fun x => !x.2.items.isEmpty).map Prod.fst) State.drainItems
    have hbefore : s.Traced drained :=
      .of_aside_left (State.forEach_aside (fun s p => s.takeMode_aside p) _ _) (State.forEach_traced (fun s p => s.drainItems_traced p) _ _)
    have hafter : s.settle.aside = drained.flushDue.aside := by
      rw [State.settle, if_neg hmode]
      dsimp only
      simp [drained, taken]
    have hwaits : drained.flushDue = drained := State.flushDue_of_waiting (State.flush_of_aside hafter ▸ hflush)
    rw [hwaits] at hafter
    rcases hbefore with hm | hsame
    · exact absurd (.of_aside hafter hm) hmark
    · exact hafter.trans hsame

/-! ### The queue after its last item (R69) -/

theorem State.deliveryQ_of_aside {s t : State} (h : t.aside = s.aside) (p : Nat) : t.deliveryQ p = s.deliveryQ p := by
  rw [State.deliveryQ, State.delivery_of_aside h]
  rfl

theorem State.deliveryQ_setDelivery {s : State} (h : keysRise s.buf.delivery = true) (p : Nat) (q : DeliveryQ) :
    (s.setDelivery p q).deliveryQ p = q := mapGetD_mapPut h

@[simp] theorem State.probeEnd_aside (s : State) (id : Nat) : (s.probeEnd id).aside = s.aside := by
  unfold State.probeEnd
  split
  · exact (show _ = (s.probeStep id 0x19).aside from rfl).trans (State.probeStep_aside ..)
  · rfl

/-- A list that names each port once keeps what R69 asks for: the queue is empty once its last item is read. -/
theorem State.popItem_last {s : State} (h : keysRise s.buf.delivery = true) {p : Nat} {w : BitVec 36}
    (hw : (s.deliveryQ p).stream = [w]) : (s.popItem p).1 = w ∧ ((s.popItem p).2.deliveryQ p).stream = [] := by
  have hempty : ((s.setDelivery p { s.deliveryQ p with stream := [], current := none }).deliveryQ p).stream = [] := by
    rw [State.deliveryQ_setDelivery h]
  rw [State.popItem, if_neg (by simp [hw])]
  dsimp only
  rw [hw]
  refine ⟨rfl, ?_⟩
  dsimp only
  split
  · next id _ => rwa [State.deliveryQ_of_aside ((State.dropRef_aside _ id p).trans (State.probeEnd_aside _ id))]
  · exact hempty

/-! ### A list of delivery queues that names a port twice -/

/-- Port 46 listed twice: one item in the entry that a read finds, and one in the entry behind it, whose frame a flush waits for. -/
def State.twiceListed : State :=
  { State.reset with buf := { BufState.reset with delivery := [(46, ⟨[], [1], none⟩), (46, ⟨[], [2], some 7⟩)], flush := some ⟨46, true⟩ } }

theorem State.twiceListed_advance : (State.twiceListed.advance 0).inRun = true ∧ ((State.twiceListed.advance 0).deliveryQ 46).stream = [1] := by
  decide +kernel

/-- The read of the last item of the first entry uncovers the second; no mark is left, and the flush still waits. -/
theorem State.twiceListed_queuePop : ∃ r, exec (.queuePop 0 46) State.twiceListed = .next r ∧ (r.deliveryQ 46).stream = [2]
    ∧ r.buf.flush = some ⟨46, true⟩ ∧ r.consist.neighbour = [] ∧ r.consist.sessions = [] :=
  ⟨_, rfl, by decide +kernel⟩

/-- Refutes O23: in a state whose list of delivery queues names port 46 twice, the read of the last item uncovers the second entry. What the
units do of themselves leaves that entry as it was before, so no state with an empty queue stands before it. -/
theorem not_queueReadsPopTheHead : ¬ Obligations.QueueReadsPopTheHead := by
  unfold Obligations.QueueReadsPopTheHead
  intro h
  obtain ⟨hrun, hstream⟩ := State.twiceListed_advance
  obtain ⟨r, hexec, hleft, hflush, hneighbour, hsessions⟩ := State.twiceListed_queuePop
  obtain ⟨-, hlast, -⟩ := h 0 State.twiceListed 46 hrun (.inl rfl)
  obtain ⟨t, hdone, hempty⟩ : ∃ t : State, exec (.queuePop 0 46) State.twiceListed = (State.twiceListed.advance 0).done (t.emit (.item 46 1))
      ∧ (t.deliveryQ 46).stream = [] := hlast 1 hstream
  generalize hu : t.emit (.item 46 1) = u at hdone
  have hr : r = u.settle.tellRing ((State.twiceListed.advance 0).rd 0x1201 1) := Host.Outcome.next.inj (hexec.symm.trans hdone)
  have htold : u.settle.aside = r.aside := by rw [hr, State.tellRing_aside]
  have hwaits : u.settle.buf.flush ≠ none := by
    rw [State.flush_of_aside htold, hflush]
    exact Option.some_ne_none _
  have hunmarked : ¬ u.settle.Marked := fun hm =>
    (State.Marked.of_aside htold.symm hm).elim (fun hn => hn hneighbour) fun hs => hs hsessions
  have hsame : r.aside = t.aside := by
    rw [← htold, State.settle_aside hwaits hunmarked, ← hu, State.emit_aside]
  rw [State.deliveryQ_of_aside hsame, hempty] at hleft
  exact List.cons_ne_nil _ _ hleft.symm

end Sys2Proof.Machine
end

section
/-! A write that the present state refuses gives back the lock it took and changes nothing (R429), and the timing objects of a channel are
refused so while its protocol is in force (R154). -/

namespace Sys2Proof.Machine

/-! ### Refusals by the present state -/

/-- The aborts before the first that is not 0 leave it to decide. -/
@[simp] theorem firstAbort_zero_cons (l : List Nat) : firstAbort (0 :: l) = firstAbort l := rfl

theorem firstAbort_cons_of_ne {a : Nat} (h : a ≠ 0) (l : List Nat) : firstAbort (a :: l) = a := if_neg h

/-- Taking a lock changes the locks alone: with the old ones put back, nothing has changed. -/
theorem State.takeLock_undo (s : State) (sess idx : Nat) :
    { s.takeLock sess idx with sess := { (s.takeLock sess idx).sess with locks := s.sess.locks } } = s := by
  unfold State.takeLock
  split
  · split <;> rfl
  · rfl

/-- The protocol in force does not depend on who holds a lock. -/
@[simp] theorem State.taken_proto (s : State) (sess idx c : Nat) : (s.taken sess idx).proto c = s.proto c := by
  simp only [State.proto, State.rdF, State.taken_rd]

/-- The state's rule on a scalar decides its application once the value alone is right. -/
theorem State.applyWrite_of_scalarState {cfg : State → State} {s : State} {sess idx sub off : Nat} {bs : List Byte} {row : ObjRow} {b : Bool}
    (hscalar : row.window = false) (hlocal : isLocal idx = false) (halone : scalarAlone row idx sub (leVal bs) = 0)
    (hstate : s.scalarState row sess idx sub (leVal bs) ≠ 0) :
    s.applyWrite cfg sess idx sub off bs row b = (s.scalarState row sess idx sub (leVal bs), s) := by
  have habort : s.scalarAbort sess idx sub (leVal bs) row b = s.scalarState row sess idx sub (leVal bs) := by
    rw [State.scalarAbort, if_neg (by simp [hlocal]), halone, firstAbort_zero_cons, firstAbort_cons_of_ne hstate]
  rw [State.applyWrite, if_neg (by simp [hscalar])]
  dsimp only
  rw [habort, firstAbort_cons_of_ne hstate]
  exact if_pos hstate

/-- A scalar write outside a group that passes the checks up to the lock and breaks a rule of the present state answers that rule's abort, and
the state is the one before it. -/
theorem State.writeChecked_of_scalarState {cfg : State → State} {s : State} {sess role idx sub off : Nat} {bs : List Byte} {row : ObjRow}
    (hrow : objRow idx sub = some row) (hright : writeAbort role idx sub off bs.length = 0) (hscalar : row.window = false)
    (hcontrol : idx ≠ 0x1130) (hlocal : isLocal idx = false) (hgroup : s.groupOf sess = none)
    (halone : scalarAlone row idx sub (leVal bs) = 0) (hlock : s.lockedFor sess idx = false)
    (hstate : (s.takeLock sess idx).scalarState row sess idx sub (leVal bs) ≠ 0) :
    s.writeChecked cfg sess role idx sub off bs = ((s.takeLock sess idx).scalarState row sess idx sub (leVal bs), s) := by
  have happly := State.applyWrite_of_scalarState (cfg := cfg) (off := off) (b := true) hscalar hlocal halone hstate
  simp [State.writeChecked, hright, hrow, hcontrol, hgroup, hscalar, halone, hlocal, hlock, happly, hstate, State.takeLock_undo]

/-! ### The timing objects of a channel (R147, R151, R153) -/

/-- The layouts of the timing objects: of the nominal and the data phase of a C channel, and of an L channel. -/
def timingLayouts : List Nat := [0x4001, 0x4002, 0x14001]

theorem mem_timingLayouts {lay : Nat} : lay ∈ timingLayouts ↔ lay = 0x4001 ∨ lay = 0x4002 ∨ lay = 0x14001 := by
  simp [timingLayouts]

/-- A timing object exists for C channels (0–71) in two layouts and for L channels (72–95) in one. -/
theorem layoutOf_timing {c o : Nat} (hc : c < 96) (ho : o = 1 ∨ (o = 2 ∧ c < 72)) :
    ∃ lay ∈ timingLayouts, layoutOf (0x4000 + 0x20 * c + o) = some (lay, c) := by
  have hfirst : ¬ (0x2100 ≤ 0x4000 + 0x20 * c + o ∧ 0x4000 + 0x20 * c + o ≤ 0x212E) := by omega
  have hsecond : ¬ (0x2200 ≤ 0x4000 + 0x20 * c + o ∧ 0x4000 + 0x20 * c + o ≤ 0x222E) := by omega
  have hports : ¬ (0x3000 ≤ 0x4000 + 0x20 * c + o ∧ 0x4000 + 0x20 * c + o ≤ 0x3AFF) := by omega
  have hchannels : 0x4000 ≤ 0x4000 + 0x20 * c + o ∧ 0x4000 + 0x20 * c + o ≤ 0x4BFF := by omega
  have hinst : (0x4000 + 0x20 * c + o - 0x4000) / 0x20 = c := by omega
  have hoff : (0x4000 + 0x20 * c + o - 0x4000) % 0x20 = o := by omega
  rw [layoutOf, if_neg hfirst, if_neg hsecond, if_neg hports, if_pos hchannels, hinst, hoff]
  rcases ho with rfl | ⟨rfl, hC⟩
  · by_cases hC : c < 72
    · exact ⟨0x4001, by decide, by simp [hC]⟩
    · exact ⟨0x14001, by decide, by simp [hC]⟩
  · exact ⟨0x4002, by decide, by simp [hC]⟩

/-- No row of a timing object starts an action or describes a table window. -/
theorem rowOf_timing {lay sub : Nat} {row : ObjRow} (hlay : lay ∈ timingLayouts) (hrow : rowOf lay sub = some row) :
    row.acc ≠ .rs ∧ row.window = false := by
  have htable : ∀ r ∈ objRows4, r.lay ∈ timingLayouts → r.acc ≠ .rs ∧ r.window = false := by decide +kernel
  have hrows : rowsFor lay = objRows4 := by
    rcases mem_timingLayouts.1 hlay with rfl | rfl | rfl <;> rfl
  rw [rowOf, hrows] at hrow
  have hfound : row.lay = lay := by
    have := List.find?_some hrow
    simp only [Bool.and_eq_true, beq_iff_eq] at this
    exact this.1
  exact htable row (List.mem_of_find?_eq_some hrow) (hfound ▸ hlay)

/-- The state's rule on a timing object is the state abort while the protocol in force is not 0 (R154). -/
theorem State.scalarState_timing {s : State} {row : ObjRow} {lay idx c : Nat} (hlay : lay ∈ timingLayouts)
    (hobj : layoutOf idx = some (lay, c)) (hrow : row.acc ≠ .rs) (hproto : s.proto c ≠ 0) (sess sub v : Nat) :
    s.scalarState row sess idx sub v = abState := by
  have hchannel : s.channelState lay c sub v = abState := by
    rw [State.channelState, if_pos (mem_timingLayouts.1 hlay)]
    simp [abIf, hproto]
  have hinst : layInst idx = (lay, c) := by rw [layInst, hobj]; rfl
  rcases mem_timingLayouts.1 hlay with rfl | rfl | rfl <;> simp [State.scalarState, hinst, hrow, hchannel]

/-- Settles O17: the lock that the write takes leaves the protocol in force, which the state's rule on a timing object asks for, and the
refusal gives the lock back. -/
theorem timingWaitsForNoProtocol : Obligations.TimingWaitsForNoProtocol := by
  unfold Obligations.TimingWaitsForNoProtocol
  intro s sess role c sub o bs row hc ho hrow hright halone hgroup hlock hproto
  obtain ⟨lay, hlay, hobj⟩ := layoutOf_timing hc ho
  generalize hidx : 0x4000 + 0x20 * c + o = idx at *
  obtain ⟨hacc, hscalar⟩ := rowOf_timing hlay (show rowOf lay sub = some row by rw [← hrow, objRow, hobj])
  have hcontrol : idx ≠ 0x1130 := by omega
  have hlocal : isLocal idx = false := by
    have : idx ≠ 0x1101 ∧ idx ≠ 0xA001 := by omega
    simp [isLocal, this, hcontrol]
  have hkept : (s.takeLock sess idx).proto c = s.proto c := by
    have h := State.taken_proto s sess idx c
    rwa [State.taken, if_neg (by simp [hlocal])] at h
  have hstate : (s.takeLock sess idx).scalarState row sess idx sub (leVal bs) = abState :=
    State.scalarState_timing hlay hobj hacc (hkept ▸ hproto) ..
  have hrefused := State.writeChecked_of_scalarState (cfg := State.configStart) hrow hright hscalar hcontrol hlocal hgroup halone hlock
    (by rw [hstate]; decide)
  rwa [hstate] at hrefused

end Sys2Proof.Machine
end

section
/-! The life-cycle state and the completion of interrupted blows, both told by the fuses of each pair (R300). -/

namespace Sys2Proof.Machine

/-! ### Fuse pairs -/

/-- Fuse pair `k`, bits [2k + 1:2k], has at least one fuse blown. -/
def pairBlown (f k : Nat) : Bool := f.testBit (2 * k) || f.testBit (2 * k + 1)

theorem pairBlown_eq_true_iff {f k : Nat} : pairBlown f k = true ↔ f.testBit (2 * k) = true ∨ f.testBit (2 * k + 1) = true := Bool.or_eq_true_iff

theorem pairBlown_eq_false_iff {f k : Nat} : pairBlown f k = false ↔ f.testBit (2 * k) = false ∧ f.testBit (2 * k + 1) = false := Bool.or_eq_false_iff

/-- The field of a pair reads 0 just while none of its two fuses is blown. -/
theorem fld_pair_eq_zero_iff {f k : Nat} : fld f (2 * k + 1) (2 * k) = 0 ↔ pairBlown f k = false := by
  have hbit (i : Nat) : (fld f (2 * k + 1) (2 * k)).testBit i = (decide (i < 2) && f.testBit (i + 2 * k)) := by
    rw [testBit_fld, show 2 * k + 1 + 1 - 2 * k = 2 by omega]
  rw [pairBlown_eq_false_iff]
  constructor
  · intro hzero
    have hclear (i : Nat) (hi : i < 2) : f.testBit (i + 2 * k) = false := by simpa [hzero, hi] using (hbit i).symm
    exact ⟨by simpa using hclear 0 (by decide), by simpa [Nat.add_comm] using hclear 1 (by decide)⟩
  · rintro ⟨hlow, hhigh⟩
    refine Nat.zero_of_testBit_eq_false fun i => ?_
    rw [hbit]
    match i with
    | 0 => simp [hlow]
    | 1 => simp [Nat.add_comm 1, hhigh]
    | i + 2 => simp

/-- The four pairs hold every fuse of a byte. -/
theorem eq_zero_iff_no_pairBlown {f : Nat} (hf : f < 256) : f = 0 ↔ ∀ j < 4, pairBlown f j = false := by
  constructor
  · rintro rfl j -
    simp [pairBlown]
  · intro hnone
    refine Nat.zero_of_testBit_eq_false fun i => ?_
    by_cases hi : i < 8
    · obtain ⟨hlow, hhigh⟩ := pairBlown_eq_false_iff.1 (hnone (i / 2) (by omega))
      obtain heven | hodd : i = 2 * (i / 2) ∨ i = 2 * (i / 2) + 1 := by omega
      · rwa [heven]
      · rwa [hodd]
    · have hwide : 2 ^ 8 ≤ 2 ^ i := Nat.pow_le_pow_right (by decide) (by omega)
      exact Nat.testBit_lt_two_pow (hf.trans_le hwide)

/-! ### The state that the pairs stand for -/

/-- The code of the highest of the first `n` pairs with a fuse blown: `k + 2` for pair `k`, and 1 (BRASS) where none has one. -/
def lifeUpTo (f : Nat) : Nat → Nat
  | 0 => 1
  | n + 1 => if pairBlown f n then n + 2 else lifeUpTo f n

theorem lifeOf_eq_lifeUpTo (f : Nat) : lifeOf f = lifeUpTo f 4 := by
  have hpair (k x y : Nat) : (if fld f (2 * k + 1) (2 * k) ≠ 0 then x else y) = if pairBlown f k then x else y := by
    simp [fld_pair_eq_zero_iff]
  calc lifeOf f = if pairBlown f 3 then 5 else if pairBlown f 2 then 4 else if pairBlown f 1 then 3 else if pairBlown f 0 then 2 else 1 := by
        rw [← hpair 0, ← hpair 1, ← hpair 2, ← hpair 3]; rfl
    _ = lifeUpTo f 4 := rfl

theorem lifeUpTo_eq_add_two_iff {f k n : Nat} :
    lifeUpTo f n = k + 2 ↔ k < n ∧ pairBlown f k = true ∧ ∀ j, k < j → j < n → pairBlown f j = false := by
  induction n with
  | zero => simp [lifeUpTo]
  | succ n ih =>
    rw [lifeUpTo]
    split
    case isTrue hblown =>
      constructor
      · intro hcode
        obtain rfl : n = k := by omega
        exact ⟨by omega, hblown, fun j _ _ => by omega⟩
      · rintro ⟨hk, -, habove⟩
        by_contra hne
        simp [habove n (by omega) (by omega)] at hblown
    case isFalse hwhole =>
      rw [Bool.not_eq_true] at hwhole
      rw [ih]
      constructor
      · rintro ⟨hk, hblown, habove⟩
        refine ⟨by omega, hblown, fun j hkj hj => ?_⟩
        obtain hlt | rfl := Nat.lt_succ_iff_lt_or_eq.1 hj
        · exact habove j hkj hlt
        · exact hwhole
      · rintro ⟨hk, hblown, habove⟩
        have hne : k ≠ n := by
          rintro rfl
          simp [hwhole] at hblown
        exact ⟨by omega, hblown, fun j hkj hj => habove j hkj (by omega)⟩

theorem lifeUpTo_eq_one_iff {f n : Nat} : lifeUpTo f n = 1 ↔ ∀ j < n, pairBlown f j = false := by
  induction n with
  | zero => simp [lifeUpTo]
  | succ n ih =>
    rw [lifeUpTo, Nat.forall_lt_succ_right, ← ih]
    split
    case isTrue hblown => simp [hblown]
    case isFalse hwhole => simp [hwhole]

/-! ### The blow at start-up -/

/-- One pair's part of `completeFuses`: a pair with a fuse blown has both blown. -/
def completePair (f k : Nat) : Nat := if fld f (2 * k + 1) (2 * k) = 0 then f else setFld f (2 * k + 1) (2 * k) 3

theorem completeFuses_eq_foldl (f : Nat) : completeFuses f = (List.range 4).foldl completePair f := rfl

/-- Both bits of the pair tell whether one was blown, and the other pairs keep theirs. -/
theorem testBit_completePair (f k i : Nat) : (completePair f k).testBit i = if i / 2 = k then pairBlown f k else f.testBit i := by
  rw [completePair]
  split
  case isTrue hwhole =>
    rw [fld_pair_eq_zero_iff] at hwhole
    obtain ⟨hlow, hhigh⟩ := pairBlown_eq_false_iff.1 hwhole
    split
    case isTrue hi =>
      obtain rfl | rfl : i = 2 * k ∨ i = 2 * k + 1 := by omega
      · rw [hlow, hwhole]
      · rw [hhigh, hwhole]
    case isFalse => rfl
  case isFalse hne =>
    have hblown : pairBlown f k = true := by simpa [fld_pair_eq_zero_iff] using hne
    rw [testBit_setFld (by omega), hblown]
    by_cases hi : i / 2 = k
    · rw [if_pos (by omega), if_pos hi]
      obtain hlow | hhigh : i - 2 * k = 0 ∨ i - 2 * k = 1 := by omega
      · rw [hlow]; rfl
      · rw [hhigh]; rfl
    · rw [if_neg (by omega), if_neg hi]

theorem testBit_foldl_completePair (f n : Nat) : ∀ i,
    ((List.range n).foldl completePair f).testBit i = if i / 2 < n then pairBlown f (i / 2) else f.testBit i := by
  induction n with
  | zero => simp
  | succ n ih =>
    intro i
    have hlater : pairBlown ((List.range n).foldl completePair f) n = pairBlown f n := by
      rw [pairBlown, ih, ih, if_neg (by omega), if_neg (by omega), pairBlown]
    rw [List.range_succ, List.foldl_append, List.foldl_cons, List.foldl_nil, testBit_completePair, hlater, ih]
    by_cases hi : i / 2 = n
    · rw [if_pos hi, if_pos (by omega), hi]
    · simp only [if_neg hi, show i / 2 < n + 1 ↔ i / 2 < n by omega]

theorem testBit_completeFuses (f : Nat) {i : Nat} (hi : i < 8) : (completeFuses f).testBit i = pairBlown f (i / 2) := by
  rw [completeFuses_eq_foldl, testBit_foldl_completePair, if_pos (by omega)]

/-- Settles O25: the life-cycle code is the highest blown pair's by recursion over the pairs, and the completion of the fuses tells every bit of
a pair by whether the pair had a fuse blown. -/
theorem lifeCycleIsTheHighestPairBlown : Obligations.LifeCycleIsTheHighestPairBlown := by
  unfold Obligations.LifeCycleIsTheHighestPairBlown
  intro fuses hfuses
  refine ⟨fun k hk => ?_, ?_, fun k hk => ⟨?_, ?_⟩⟩
  · simp only [lifeOf_eq_lifeUpTo, lifeUpTo_eq_add_two_iff, hk, true_and, pairBlown_eq_true_iff, pairBlown_eq_false_iff]
  · rw [lifeOf_eq_lifeUpTo, lifeUpTo_eq_one_iff, eq_zero_iff_no_pairBlown hfuses]
  · rw [testBit_completeFuses fuses (by omega), Nat.mul_div_cancel_left k (by decide), pairBlown]
  · rw [testBit_completeFuses fuses (by omega), show (2 * k + 1) / 2 = k by omega, pairBlown]

end Sys2Proof.Machine
end

section
/-! A state in which no unit has work of its own settles to itself, and a capture of device time latches subs 02–05 of 0x7001 and no other
scalar (R316, R317). -/

namespace Sys2Proof.Machine

/-! ### Units without work of their own (log entry 4) -/

@[simp] theorem State.forEach_nil {α : Type} (s : State) (f : State → α → State) : s.forEach [] f = s := rfl

theorem State.flushDue_of_none {s : State} (h : s.buf.flush = none) : s.flushDue = s := by
  rw [State.flushDue, h]

/-- No queue of a port holds a copy for a cipher. -/
theorem State.handOvers_of_no_queues {s : State} (h : ∀ x ∈ s.tm.ports, x.2.queues = []) : s.handOvers = s := by
  have hnone : (s.tm.ports.filter fun t => t.2.queues.any fun q => q.2.any fun i => i.prot == 1) = [] :=
    List.filter_eq_nil_iff.2 fun x hx => by simp [h x hx]
  rw [State.handOvers, hnone, List.map_nil, State.forEach_nil]

/-- Every cipher operation has been started. -/
theorem State.startOps_of_started {s : State} (h : ∀ o ∈ s.crypto.ops, o.phase ≠ 0) : s.startOps = s := by
  have hnone : (s.crypto.ops.filter fun o => o.phase == 0) = [] := List.filter_eq_nil_iff.2 fun o ho => by simp [h o ho]
  simp [State.startOps, hnone]

theorem State.sendNotices_of_none {s : State} (h : s.tm.noticeReady = []) : s.sendNotices = s := by
  have hsame : (s.withTm fun t => { t with noticeReady := [] }) = s := by rw [State.withTm, ← h]
  rw [State.sendNotices, h, State.forEach_nil, hsame]

/-- No egress queue holds a frame that wakes its domain. -/
theorem State.trafficWakes_of_no_queues {s : State} (h : ∀ x ∈ s.tm.ports, x.2.queues = []) : s.trafficWakes = s := by
  have hnone : (s.tm.ports.filter fun t => !t.2.queues.isEmpty) = [] := List.filter_eq_nil_iff.2 fun x hx => by simp [h x hx]
  simp [State.trafficWakes, hnone]

theorem State.clearLatch_of_unlatched {s : State} (h : s.wake.latch = false) : s.clearLatch = s := by
  simp [State.clearLatch, h]

theorem State.noteLeast_of_le {s : State} (h : s.buf.leastFree ≤ s.freeCells) : s.noteLeast = s :=
  if_neg (Nat.not_lt.2 h)

/-- Where no unit has work of its own, nothing follows by itself: each unit in turn leaves the state as it finds it. -/
theorem State.settle_of_quiet {s : State} (h : s.quiet = true) : s.settle = s := by
  simp only [State.quiet, Bool.and_eq_true, List.all_eq_true, Option.isNone_iff_eq_none, List.isEmpty_iff, bne_iff_ne,
    Bool.not_eq_true', decide_eq_true_eq] at h
  obtain ⟨⟨⟨⟨⟨⟨⟨⟨hmodes, hitems⟩, hflush⟩, hqueues⟩, hops⟩, hlost⟩, hnotices⟩, hlatch⟩, hcells⟩ := h
  have hmode : (s.eth.ports.filter fun x => x.2.oldMode.isSome) = [] := List.filter_eq_nil_iff.2 fun x hx => by simp [hmodes x hx]
  have hitem : (s.buf.ingress.filter fun x => !x.2.items.isEmpty) = [] := List.filter_eq_nil_iff.2 fun x hx => by simp [hitems x hx]
  simp [State.settle, hmode, hitem, State.flushDue_of_none hflush, State.handOvers_of_no_queues hqueues, State.startOps_of_started hops, hlost,
    State.sendNotices_of_none hnotices, State.trafficWakes_of_no_queues hqueues, State.clearLatch_of_unlatched hlatch,
    State.noteLeast_of_le hcells]

/-- The free cells are a matter of the buffer, the carriages' sequences and the carriages that are PRESENT. -/
theorem State.freeCells_congr {s t : State} (hbuf : t.buf = s.buf) (hcar : t.car = s.car) (hpresent : ∀ n, t.present n = s.present n) :
    t.freeCells = s.freeCells := by
  have hbanks : t.present = s.present := funext hpresent
  simp only [State.freeCells, State.banksPresent, State.copyingOut, State.seqOf, State.usedIn, hbuf, hcar, hbanks]

/-- Scalars, sessions and outputs give no unit work, while the carriages keep their states. -/
theorem State.quiet_of_rest {s t : State} (h : s.quiet = true) (hrest : ∃ r x o, t = { s with regs := r, sess := x, outputs := o })
    (hpresent : ∀ n, t.present n = s.present n) : t.quiet = true := by
  obtain ⟨r, x, o, rfl⟩ := hrest
  have hcells := State.freeCells_congr (s := s) (t := { s with regs := r, sess := x, outputs := o }) rfl rfl hpresent
  rw [State.quiet, hcells]
  exact h

theorem State.tellRing_of_same {s : State} {old : Nat} (h : s.rd 0x1201 1 = old) : s.tellRing old = s := if_pos h

/-- A command whose effect leaves no unit with work and no new record in the event ring answers its effect. -/
theorem State.done_of_quiet {u t : State} (hquiet : t.quiet = true) (hring : t.rd 0x1201 1 = u.rd 0x1201 1) : u.done t = .next t := by
  rw [State.done, State.settle_of_quiet hquiet, State.tellRing_of_same hring]

/-! ### The capture (R317) -/

theorem State.rd_lt (s : State) (idx sub : Nat) : s.rd idx sub < 2 ^ 64 := BitVec.isLt _

/-- With the time unit PRESENT a capture writes nanoseconds, seconds and fraction of device time, and the step count. -/
theorem State.capture_eq {s : State} (h : s.present 42 = true) :
    s.capture = (((s.wr 0x7001 2 (s.time.dev % devSecond / 2 ^ 48)).wr 0x7001 3 (s.time.dev / devSecond % 2 ^ 48 % 2 ^ 32)).wr 0x7001 4
      (s.time.dev / devSecond % 2 ^ 48 / 2 ^ 32 % 2 ^ 16 + s.time.dev % 2 ^ 48 / 2 ^ 32 * 2 ^ 16)).wr 0x7001 5 (s.rd 0x7000 8) := by
  simp only [State.capture, State.clockNow, h, if_true]

/-- Each of the four subs reads the value captured: none of the words cuts it. -/
theorem State.capture_latches {s : State} (h : s.canonical) (hup : s.present 42 = true) :
    s.capture.rd 0x7001 2 = s.time.dev % devSecond / 2 ^ 48 ∧ s.capture.rd 0x7001 3 = s.time.dev / devSecond % 2 ^ 48 % 2 ^ 32
      ∧ s.capture.rd 0x7001 4 = s.time.dev / devSecond % 2 ^ 48 / 2 ^ 32 + s.time.dev % 2 ^ 48 / 2 ^ 32 * 2 ^ 16
      ∧ s.capture.rd 0x7001 5 = s.rd 0x7000 8 := by
  have word := s.rd_lt 0x7000 8
  rw [State.capture_eq hup]
  generalize s.rd 0x7000 8 = steps at word ⊢
  generalize s.time.dev = dev
  have h2 := State.wr_canonical h 0x7001 2 (dev % devSecond / 2 ^ 48)
  have h3 := State.wr_canonical h2 0x7001 3 (dev / devSecond % 2 ^ 48 % 2 ^ 32)
  have h4 := State.wr_canonical h3 0x7001 4 (dev / devSecond % 2 ^ 48 / 2 ^ 32 % 2 ^ 16 + dev % 2 ^ 48 / 2 ^ 32 * 2 ^ 16)
  refine ⟨?_, ?_, ?_, ?_⟩
  · rw [State.rd_wr_ne h4.1 _ (by decide), State.rd_wr_ne h3.1 _ (by decide), State.rd_wr_ne h2.1 _ (by decide), State.rd_wr h.1]
    unfold devSecond
    omega
  · rw [State.rd_wr_ne h4.1 _ (by decide), State.rd_wr_ne h3.1 _ (by decide), State.rd_wr h2.1]
    omega
  · rw [State.rd_wr_ne h4.1 _ (by decide), State.rd_wr h3.1]
    omega
  · rw [State.rd_wr h4.1, Nat.mod_eq_of_lt word]

/-- A capture leaves every scalar but the four subs alone. -/
theorem State.capture_rd_ne {s : State} (h : s.canonical) {i a : Nat} (ha : a < 256)
    (hne : (i, a) ∉ [(0x7001, 2), (0x7001, 3), (0x7001, 4), (0x7001, 5)]) : s.capture.rd i a = s.rd i a := by
  have key : ∀ b < 256, (0x7001, b) ∈ [(0x7001, 2), (0x7001, 3), (0x7001, 4), (0x7001, 5)] → regKey i a ≠ regKey 0x7001 b := by
    intro b hb hm e
    obtain ⟨rfl, rfl⟩ := (regKey_inj hb ha).1 e
    exact hne hm
  have h2 := State.wr_canonical h 0x7001 2 s.clockNow.2
  have h3 := State.wr_canonical h2 0x7001 3 (s.clockNow.1 % 2 ^ 32)
  unfold State.capture
  dsimp only
  rw [State.rd_wr_ne (State.wr_canonical h3 ..).1 _ (key 5 (by decide) (by decide)), State.rd_wr_ne h3.1 _ (key 4 (by decide) (by decide)),
    State.rd_wr_ne h2.1 _ (key 3 (by decide) (by decide)), State.rd_wr_ne h.1 _ (key 2 (by decide) (by decide))]

/-- A capture changes the scalars alone. -/
theorem State.capture_rest (s : State) : ∃ r, s.capture = { s with regs := r } := by
  have step : ∀ t : State, (∃ r, t = { s with regs := r }) → ∀ idx sub v, ∃ r, t.wr idx sub v = { s with regs := r } := by
    rintro _ ⟨r, rfl⟩ idx sub v
    exact ⟨_, rfl⟩
  exact step _ (step _ (step _ (step s ⟨_, rfl⟩ ..) ..) ..) ..

/-- A 1 written to 0x7001:01 is a capture, whatever else its row says. -/
theorem State.setObj_capture (cfg : State → State) (s : State) (sess : Nat) (row : ObjRow) : s.setObj cfg sess row 0x7001 1 1 = s.capture := by
  simp [State.setObj, State.putScalar, State.putTime]

/-- The effect of an accepted capture: the scalars captured, the session's lock and the answer. -/
def State.captured (u : State) (sess : Nat) : State := u.did sess 0x7001 State.capture

theorem State.captured_rd (u : State) (sess i a : Nat) : (u.captured sess).rd i a = (u.taken sess 0x7001).capture.rd i a := rfl

@[simp] theorem State.taken_time (u : State) (sess idx : Nat) : (u.taken sess idx).time = u.time := by
  rw [State.taken_rest]

@[simp] theorem State.taken_present (u : State) (sess idx n : Nat) : (u.taken sess idx).present n = u.present n := by
  simp only [State.present, State.carState, State.rdF, State.taken_rd]

/-- Of the scalars the effect leaves all but the four subs alone. -/
theorem State.captured_rd_ne {u : State} (h : u.canonical) (sess : Nat) {i a : Nat} (ha : a < 256)
    (hne : (i, a) ∉ [(0x7001, 2), (0x7001, 3), (0x7001, 4), (0x7001, 5)]) : (u.captured sess).rd i a = u.rd i a := by
  rw [State.captured_rd, State.capture_rd_ne (State.taken_canonical h ..) ha hne, State.taken_rd]

theorem State.captured_rest (u : State) (sess : Nat) : ∃ r x o, u.captured sess = { u with regs := r, sess := x, outputs := o } := by
  obtain ⟨r, hr⟩ := (u.taken sess 0x7001).capture_rest
  rw [State.captured, State.did, hr, State.taken_rest]
  exact ⟨_, _, _, rfl⟩

/-- The carriages' states stand in none of the scalars captured. -/
theorem State.captured_present {u : State} (h : u.canonical) (sess n : Nat) : (u.captured sess).present n = u.present n := by
  have hne : (0x2200 + n, 1) ∉ [(0x7001, 2), (0x7001, 3), (0x7001, 4), (0x7001, 5)] := by simp
  simp only [State.present, State.carState, State.rdF, State.captured_rd_ne h sess (by decide : 1 < 256) hne]

theorem exec_timeCapture {dt sess : Nat} {s : State} (h : (s.advance dt).takes sess 0x7001 1 1 = true) :
    exec (.timeCapture dt sess) s = (s.advance dt).done ((s.advance dt).captured sess) := by
  obtain ⟨row, -, hawake, hputs⟩ := takes_puts h
  show goWrite dt sess 0x7001 1 1 s = _
  simp only [goWrite, goOn_done hawake, hputs, State.setObj_capture, State.captured]

/-- Settles O24: on a quiet state the capture's own effect is the next state (log entry 4), and of that effect the four subs hold what was
captured while all else but the session's lock and the answer stays. -/
theorem captureLatchesDeviceTime : Obligations.CaptureLatchesDeviceTime := by
  unfold Obligations.CaptureLatchesDeviceTime
  intro dt sess s hs u htakes hup hquiet
  have hu : u.canonical := State.advance_canonical dt hs
  have hstill : (u.captured sess).quiet = true :=
    State.quiet_of_rest hquiet (u.captured_rest sess) fun n => State.captured_present hu sess n
  have hring : (u.captured sess).rd 0x1201 1 = u.rd 0x1201 1 := State.captured_rd_ne hu sess (by decide) (by decide)
  obtain ⟨hns, hsec, hfrac, hsteps⟩ := State.capture_latches (State.taken_canonical hu sess 0x7001) ((u.taken_present ..).trans hup)
  rw [State.taken_time] at hns hsec hfrac
  rw [State.taken_rd] at hsteps
  refine ⟨u.captured sess, (exec_timeCapture htakes).trans (State.done_of_quiet hstill hring), hns, hsec, hfrac, hsteps,
    fun i a ha hne => State.captured_rd_ne hu sess ha hne, ?_⟩
  obtain ⟨r, x, o, hrest⟩ := u.captured_rest sess
  rw [hrest]
  exact ⟨fun _ _ _ _ _ _ => rfl, rfl, rfl, rfl, fun _ _ _ => rfl⟩

end Sys2Proof.Machine
end

section
/-! What one step keeps, command by command, and the power state that takes no command. -/

namespace Sys2Proof.Machine

/-! ### Every command keeps what a step keeps -/

/-- Every command keeps the queue, time, the free values, the log and the form of the dictionary: one meaning of a command per case. -/
theorem exec_keeps (c : Instr) (s : State) : Out.Keeps s (exec c s) := by
  have kept := State.Keeps.refl s
  cases c with
  | dictionaryWrite => exact execDictionaryWrite_keeps kept
  | headroomWindowEnd => exact execHeadroomWindowEnd_keeps kept
  | resetMinima => exact execResetMinima_keeps kept
  | latencyProbeArm => exact execLatencyProbeArm_keeps kept
  | wholeSecondStart => exact execWholeSecondStart_keeps kept
  | couplingRequest => exact execCouplingRequest_keeps kept
  | couplingAcknowledge => exact execCouplingAcknowledge_keeps kept
  | carriageReset => exact execCarriageReset_keeps kept
  | carriagePowerDown => exact execCarriagePowerDown_keeps kept
  | carriagePowerUp => exact execCarriagePowerUp_keeps kept
  | carriageSelfTest => exact execCarriageSelfTest_keeps kept
  | swapToSpare => exact execSwapToSpare_keeps kept
  | retireRouteBank => exact execRetireRouteBank_keeps kept
  | returnRouteBank => exact execReturnRouteBank_keeps kept
  | drainComplete => exact execDrainComplete_keeps kept
  | drainLimitExpiry => exact execDrainLimitExpiry_keeps kept
  | carriageActionEnd => exact execCarriageActionEnd_keeps kept
  | queuedSequenceStart => exact execQueuedSequenceStart_keeps kept
  | correctedError => exact execCorrectedError_keeps kept
  | errorCountDecay => exact execErrorCountDecay_keeps kept
  | cellBankCopyEnd => exact execCellBankCopyEnd_keeps kept
  | edgeSwapCopyEnd => exact execEdgeSwapCopyEnd_keeps kept
  | edgeSwapIntegrated => exact execEdgeSwapIntegrated_keeps kept
  | retirementShuntEnd => exact execRetirementShuntEnd_keeps kept
  | selfTestSlot => exact execSelfTestSlot_keeps kept
  | selfTestEnd => exact execSelfTestEnd_keeps kept
  | queueItemWrite => exact execQueueItemWrite_keeps kept
  | queuePop => exact execQueuePop_keeps kept
  | ethernetFrameEnd => exact execEthernetFrameEnd_keeps kept
  | cutThroughRelease => exact execCutThroughRelease_keeps kept
  | queueFlush => exact execQueueFlush_keeps kept
  | flushDeferredEffect => exact execFlushDeferredEffect_keeps kept
  | ageSweep => exact execAgeSweep_keeps kept
  | waitingCopyTaken => exact execWaitingCopyTaken_keeps kept
  | resetLeastFree => exact execResetLeastFree_keeps kept
  | entryReadByKey => exact execEntryReadByKey_keeps kept
  | entryInsert => exact execEntryInsert_keeps kept
  | entryDelete => exact execEntryDelete_keeps kept
  | entryReadBySlot => exact execEntryReadBySlot_keeps kept
  | shuntMove => exact execShuntMove_keeps kept
  | learningRequest => exact execLearningRequest_keeps kept
  | clearLog => exact execClearLog_keeps kept
  | ageingScanVisit => exact execAgeingScanVisit_keeps kept
  | portModeWrite => exact execPortModeWrite_keeps kept
  | linkUp => exact execLinkUp_keeps kept
  | linkDown => exact execLinkDown_keeps kept
  | thresholdWrite => exact execThresholdWrite_keeps kept
  | egressSelect => exact execEgressSelect_keeps kept
  | transmitUnderrun => exact execTransmitUnderrun_keeps kept
  | thresholdDecay => exact execThresholdDecay_keeps kept
  | forcedSafEnd => exact execForcedSafEnd_keeps kept
  | pauseReceived => exact execPauseReceived_keeps kept
  | pfcReceived => exact execPfcReceived_keeps kept
  | pauseExpiry => exact execPauseExpiry_keeps kept
  | pauseWatchdogTrip => exact execPauseWatchdogTrip_keeps kept
  | holdOffEnd => exact execHoldOffEnd_keeps kept
  | receiveBufferThreshold => exact execReceiveBufferThreshold_keeps kept
  | pauseRepeat => exact execPauseRepeat_keeps kept
  | beaconSend => exact execBeaconSend_keeps kept
  | beaconReceived => exact execBeaconReceived_keeps kept
  | beaconTimeout => exact execBeaconTimeout_keeps kept
  | collision => exact execCollision_keeps kept
  | jabber => exact execJabber_keeps kept
  | noise => exact execNoise_keeps kept
  | snapshot => exact execSnapshot_keeps kept
  | channelModeWrite => exact execChannelModeWrite_keeps kept
  | channelIntegrated => exact execChannelIntegrated_keeps kept
  | canFrameValid => exact execCanFrameValid_keeps kept
  | bufferLock => exact execBufferLock_keeps kept
  | canFrameSent => exact execCanFrameSent_keeps kept
  | arbitrationLost => exact execArbitrationLost_keeps kept
  | canBusError => exact execCanBusError_keeps kept
  | transmitRequest => exact execTransmitRequest_keeps kept
  | transmitCancel => exact execTransmitCancel_keeps kept
  | busOffRecover => exact execBusOffRecover_keeps kept
  | busOffRecovered => exact execBusOffRecovered_keeps kept
  | columnStart => exact execColumnStart_keeps kept
  | referenceMessageReceived => exact execReferenceMessageReceived_keeps kept
  | masterTimeout => exact execMasterTimeout_keeps kept
  | linSlotStart => exact execLinSlotStart_keeps kept
  | linResponseTimeout => exact execLinResponseTimeout_keeps kept
  | linTableSwitch => exact execLinTableSwitch_keeps kept
  | linHeaderReceived => exact execLinHeaderReceived_keeps kept
  | linFrameReceived => exact execLinFrameReceived_keeps kept
  | linInactivityTimeout => exact execLinInactivityTimeout_keeps kept
  | gatewayJob => exact execGatewayJob_keeps kept
  | timerWheelTick => exact execTimerWheelTick_keeps kept
  | transmissionTimer => exact execTransmissionTimer_keeps kept
  | deadlineTimeout => exact execDeadlineTimeout_keeps kept
  | timerHandover => exact execTimerHandover_keeps kept
  | gatewayEnable => exact execGatewayEnable_keeps kept
  | pduRecordWrite => exact execPduRecordWrite_keeps kept
  | containerFlushTimer => exact execContainerFlushTimer_keeps kept
  | containerReceived => exact execContainerReceived_keeps kept
  | gateChange => exact execGateChange_keeps kept
  | gateListChange => exact execGateListChange_keeps kept
  | gateEntryStart => exact execGateEntryStart_keeps kept
  | verifyTimer => exact execVerifyTimer_keeps kept
  | frerResetTimer => exact execFrerResetTimer_keeps kept
  | observationSample => exact execObservationSample_keeps kept
  | observationReset => exact execObservationReset_keeps kept
  | traceRelease => exact execTraceRelease_keeps kept
  | noticeTimer => exact execNoticeTimer_keeps kept
  | shadowRuleWrite => exact execShadowRuleWrite_keeps kept
  | copyToShadow => exact execCopyToShadow_keeps kept
  | copyToShadowDone => exact execCopyToShadowDone_keeps kept
  | swap => exact execSwap_keeps kept
  | ruleScrub => exact execRuleScrub_keeps kept
  | authenticatorVerifyDone => exact execAuthenticatorVerifyDone_keeps kept
  | cryptoOperationEnd => exact execCryptoOperationEnd_keeps kept
  | suspendedResume => exact execSuspendedResume_keeps kept
  | keyDerivationDone => exact execKeyDerivationDone_keeps kept
  | freshnessCommit => exact execFreshnessCommit_keeps kept
  | keyDefine => exact execKeyDefine_keeps kept
  | keyGenerate => exact execKeyGenerate_keeps kept
  | keyImport => exact execKeyImport_keeps kept
  | keyRotate => exact execKeyRotate_keeps kept
  | keyRevoke => exact execKeyRevoke_keeps kept
  | keyDelete => exact execKeyDelete_keeps kept
  | keyReseal => exact execKeyReseal_keeps kept
  | closeMigration => exact execCloseMigration_keeps kept
  | entropyHealthFail => exact execEntropyHealthFail_keeps kept
  | attestation => exact execAttestation_keeps kept
  | lifeCycleRequest => exact execLifeCycleRequest_keeps kept
  | sensorTrip => exact execSensorTrip_keeps kept
  | thaw => exact execThaw_keeps kept
  | configExport => exact execConfigExport_keeps kept
  | configImport => exact execConfigImport_keeps kept
  | configCheckOnly => exact execConfigCheckOnly_keeps kept
  | brownOutWarning => exact execBrownOutWarning_keeps kept
  | brownOutClear => exact execBrownOutClear_keeps kept
  | timeCapture => exact execTimeCapture_keeps kept
  | timeApply => exact execTimeApply_keeps kept
  | slewEnd => exact execSlewEnd_keeps kept
  | declareLoss => exact execDeclareLoss_keeps kept
  | holdoverTimeout => exact execHoldoverTimeout_keeps kept
  | lossTimeout => exact execLossTimeout_keeps kept
  | pulseEnable => exact execPulseEnable_keeps kept
  | pulseEdge => exact execPulseEdge_keeps kept
  | triggerEdge => exact execTriggerEdge_keeps kept
  | calendarWrite => exact execCalendarWrite_keeps kept
  | vbkpRise => exact execVbkpRise_keeps kept
  | lifetimeCommit => exact execLifetimeCommit_keeps kept
  | commitNow => exact execCommitNow_keeps kept
  | thermalCycle => exact execThermalCycle_keeps kept
  | ioscWindow => exact execIoscWindow_keeps kept
  | ioscRequalify => exact execIoscRequalify_keeps kept
  | xtalWindow => exact execXtalWindow_keeps kept
  | referenceSelect => exact execReferenceSelect_keeps kept
  | clockEnableWrite => exact execClockEnableWrite_keeps kept
  | lossOfClock => exact execLossOfClock_keeps kept
  | pllLocked => exact execPllLocked_keeps kept
  | fallbackTimeout => exact execFallbackTimeout_keeps kept
  | aoscFailure => exact execAoscFailure_keeps kept
  | sleepCommand => exact execSleepCommand_keeps kept
  | deepSleepCommand => exact execDeepSleepCommand_keeps kept
  | offCommand => exact execOffCommand_keeps kept
  | runCommand => exact execRunCommand_keeps kept
  | pholdReleaseTimeout => exact execPholdReleaseTimeout_keeps kept
  | supplyGoodRise => exact execSupplyGoodRise_keeps kept
  | sequencingTimeout => exact execSequencingTimeout_keeps kept
  | sequenceRetry => exact execSequenceRetry_keeps kept
  | supplyGoodLost => exact execSupplyGoodLost_keeps kept
  | pmbusPoll => exact execPmbusPoll_keeps kept
  | pmbusAlert => exact execPmbusAlert_keeps kept
  | vfabFault => exact execVfabFault_keeps kept
  | vfabRecoveryTimeout => exact execVfabRecoveryTimeout_keeps kept
  | canWakePattern => exact execCanWakePattern_keeps kept
  | wakePatternTimeout => exact execWakePatternTimeout_keeps kept
  | wakeFrame => exact execWakeFrame_keeps kept
  | linDominantWake => exact execLinDominantWake_keeps kept
  | t1sActivityWake => exact execT1sActivityWake_keeps kept
  | wakePinEdge => exact execWakePinEdge_keeps kept
  | keepAliveReceived => exact execKeepAliveReceived_keeps kept
  | keepAliveTimeout => exact execKeepAliveTimeout_keeps kept
  | prepareTimeout => exact execPrepareTimeout_keeps kept
  | sendPeriod => exact execSendPeriod_keeps kept
  | wakeHoldExpiry => exact execWakeHoldExpiry_keeps kept
  | localRequest => exact execLocalRequest_keeps kept
  | sleepSequenceStart => exact execSleepSequenceStart_keeps kept
  | sleepQuiesceDone => exact execSleepQuiesceDone_keeps kept
  | lockstepMismatch => exact execLockstepMismatch_keeps kept
  | sequencerMismatch => exact execSequencerMismatch_keeps kept
  | fwErase => exact execFwErase_keeps kept
  | fwCheck => exact execFwCheck_keeps kept
  | fwActivate => exact execFwActivate_keeps kept
  | pairPresent => exact execPairPresent_keeps kept
  | pairStartTimeout => exact execPairStartTimeout_keeps kept
  | fwConfirm => exact execFwConfirm_keeps kept
  | fwRevert => exact execFwRevert_keeps kept
  | fwSlotRecordWrite => exact execFwSlotRecordWrite_keeps kept
  | pciePerst => exact execPciePerst_keeps kept
  | functionLevelReset => exact execFunctionLevelReset_keeps kept
  | pcieLinkChange => exact execPcieLinkChange_keeps kept
  | bar0Read => exact execBar0Read_keeps kept
  | bar0Write => exact execBar0Write_keeps kept
  | delayedReadTimeout => exact execDelayedReadTimeout_keeps kept
  | windowAccess => exact execWindowAccess_keeps kept
  | translationWindowWrite => exact execTranslationWindowWrite_keeps kept
  | prefetchAgeExpiry => exact execPrefetchAgeExpiry_keeps kept
  | queueWindowRead => exact execQueueWindowRead_keeps kept
  | doorbellWrite => exact execDoorbellWrite_keeps kept
  | hostDescriptorFetched => exact execHostDescriptorFetched_keeps kept
  | partToHostFrame => exact execPartToHostFrame_keeps kept
  | msixCoalesceTimer => exact execMsixCoalesceTimer_keeps kept
  | sdoInitiateDownload => exact execSdoInitiateDownload_keeps kept
  | sdoDownloadSegment => exact execSdoDownloadSegment_keeps kept
  | sdoInitiateUpload => exact execSdoInitiateUpload_keeps kept
  | sdoUploadSegment => exact execSdoUploadSegment_keeps kept
  | sdoBlockDownload => exact execSdoBlockDownload_keeps kept
  | sdoBlockUpload => exact execSdoBlockUpload_keeps kept
  | sdoAbortReceived => exact execSdoAbortReceived_keeps kept
  | sdoTimeout => exact execSdoTimeout_keeps kept
  | dalmolyOpen => exact execDalmolyOpen_keeps kept
  | dalmolyRead => exact execDalmolyRead_keeps kept
  | dalmolyWrite => exact execDalmolyWrite_keeps kept
  | dalmolyClose => exact execDalmolyClose_keeps kept
  | sessionIdleTimeout => exact execSessionIdleTimeout_keeps kept
  | groupBegin => exact execGroupBegin_keeps kept
  | groupCommit => exact execGroupCommit_keeps kept
  | groupAbandon => exact execGroupAbandon_keeps kept
  | lockHoldExpiry => exact execLockHoldExpiry_keeps kept
  | quenchBlockEnd => exact execQuenchBlockEnd_keeps kept
  | drawbarLookupFrame => exact execDrawbarLookupFrame_keeps kept
  | drawbarUnicastFrame => exact execDrawbarUnicastFrame_keeps kept
  | drawbarFloodFrame => exact execDrawbarFloodFrame_keeps kept
  | rollCallReceived => exact execRollCallReceived_keeps kept
  | managementRequest => exact execManagementRequest_keeps kept
  | managementAnswer => exact execManagementAnswer_keeps kept
  | rollCallTimer => exact execRollCallTimer_keeps kept
  | heardTimeout => exact execHeardTimeout_keeps kept
  | preemptHoldExpiry => exact execPreemptHoldExpiry_keeps kept
  | wardenGraceExpiry => exact execWardenGraceExpiry_keeps kept
  | forwardTimeout => exact execForwardTimeout_keeps kept
  | conflictClear => exact execConflictClear_keeps kept
  | sessionTargetWrite => exact execSessionTargetWrite_keeps kept
  | powerOnReset => exact execPowerOnReset_keeps kept
  | bistGroupEnd => exact execBistGroupEnd_keeps kept
  | bootMeasurementDone => exact execBootMeasurementDone_keeps kept
  | forwardingPoint => exact execForwardingPoint_keeps kept
  | startupComplete => exact execStartupComplete_keeps kept
  | decoderError => exact execDecoderError_keeps kept
  | verifyResponse => exact execVerifyResponse_keeps kept
  | nmEnable => exact execNmEnable_keeps kept
  | localRequestClear => exact execLocalRequestClear_keeps kept
  | mkaSak => exact execMkaSak_keeps kept
  | fwEraseDone => exact execFwEraseDone_keeps kept
  | configExportDone => exact execConfigExportDone_keeps kept

/-- Settles O1: the queue's front decides the step. -/
theorem stepRunsFrontCommand : Obligations.StepRunsFrontCommand := by
  unfold Obligations.StepRunsFrontCommand
  intro c s
  rfl

/-- Settles O3: an empty queue idles, and a command keeps the state whose queue is without it. -/
theorem stepsKeepTheState : Obligations.StepsKeepTheState := by
  unfold Obligations.StepsKeepTheState
  intro s t h
  unfold step at h
  cases hp : s.pending with
  | nil =>
    simp only [hp, Host.Outcome.next.injEq] at h
    subst h
    exact ⟨id, le_refl _, le_refl _, List.suffix_refl _, hp⟩
  | cons c rest =>
    simp only [hp] at h
    have kept := exec_keeps c _ t h
    exact ⟨kept.canonical, kept.time, kept.draws, kept.log, kept.queue⟩

/-- Settles O4. -/
theorem resetIsWellKept : Obligations.ResetIsWellKept := by
  unfold Obligations.ResetIsWellKept
  exact ⟨⟨by decide +kernel, by decide +kernel⟩, rfl⟩

/-! ### Commands of a part that AOSC has stopped -/

/-- A command of a port that exists is run as a command of any power state is. -/
theorem goPort_eq_goAny {p : Nat} (hp : portOk p = true) (dt : Nat) (f : State → State) (s : State) :
    goPort dt p f s = goAny dt (fun u => if u.mode = .run then f u else u) s :=
  if_pos hp

/-- Every command but the power-on reset asks for the power state before its effect. -/
theorem exec_eq_goAny (c : Instr) (s : State) (hwf : c.wf = true) (hpor : ∀ dt vaon, c ≠ .powerOnReset dt vaon) :
    ∃ dt f, exec c s = goAny dt f s := by
  cases c with
  | queueItemWrite => exact ⟨_, _, goPort_eq_goAny hwf ..⟩
  | queuePop => exact ⟨_, _, goPort_eq_goAny hwf ..⟩
  | cutThroughRelease => exact ⟨_, _, goPort_eq_goAny hwf ..⟩
  | waitingCopyTaken => exact ⟨_, _, goPort_eq_goAny hwf ..⟩
  | egressSelect => exact ⟨_, _, goPort_eq_goAny hwf ..⟩
  | observationSample => exact ⟨_, _, goPort_eq_goAny hwf ..⟩
  | vbkpRise dt => exact ⟨dt, fun u => (u.withTime fun t => { t with vbkp := true }).wrB 0x7300 2 31 false, rfl⟩
  | canWakePattern dt c dom1 rec_ dom2 => exact ⟨dt, fun u => u.canPattern c.val dom1 rec_ dom2, rfl⟩
  | wakePatternTimeout dt c => exact ⟨dt, fun u => u.patternTimeout c.val, rfl⟩
  | wakeFrame dt c bytes => exact ⟨dt, fun u => u.wakeFrame c.val bytes, rfl⟩
  | linDominantWake dt l ns => exact ⟨dt, fun u => u.linDominant l.val ns, rfl⟩
  | t1sActivityWake dt k ns => exact ⟨dt, fun u => u.t1sActivity k.val ns, rfl⟩
  | wakePinEdge dt pin level ns => exact ⟨dt, fun u => u.pinEdge pin.val level ns, rfl⟩
  | keepAliveReceived => exact ⟨_, _, goPort_eq_goAny hwf ..⟩
  | powerOnReset dt vaon => exact absurd rfl (hpor dt vaon)
  | decoderError dt c err => exact ⟨dt, fun u => u.decoderError c.val err, rfl⟩
  | _ => exact ⟨_, _, rfl⟩

/-- A stopped part lets the time of a command pass and nothing else. -/
theorem goAny_of_stopped {dt : Nat} {s : State} (h : (s.advance dt).mode = .stopped) (f : State → State) : goAny dt f s = .next (s.advance dt) := by
  simp [goAny, h]

/-- Settles O5: the power state is asked for before every effect but that of the power-on reset. -/
theorem stoppedPartTakesNoCommand : Obligations.StoppedPartTakesNoCommand := by
  unfold Obligations.StoppedPartTakesNoCommand
  intro c s hwf hstop hpor
  obtain ⟨dt, f, e⟩ := exec_eq_goAny c s hwf hpor
  exact ⟨dt, e.trans (goAny_of_stopped (hstop dt) f)⟩

/-- Refutes O2: the reset of a port's observation record is a write of the object dictionary, which asks for no port that exists. At port index
47, which the part has not (R7), it answers a next state like any other write. -/
theorem not_wellFormedCommandsComplete : ¬ Obligations.WellFormedCommandsComplete := by
  unfold Obligations.WellFormedCommandsComplete
  intro h
  have refused : exec (.observationReset 0 0 47) State.reset = .refused .illFormed := (h (.observationReset 0 0 47) State.reset).2 rfl
  exact Host.Outcome.noConfusion rfl rfl rfl (heq_of_eq refused)

/-- Settles O6, as the state's own lemma on a quiet state does (log entry 4). -/
theorem quietUnitsChangeNothing : Obligations.QuietUnitsChangeNothing := by
  unfold Obligations.QuietUnitsChangeNothing
  exact fun s h => State.settle_of_quiet h

end Sys2Proof.Machine
end

section
/-! The dictionary's storage, its defaults at reset, and the writes that it refuses. -/

namespace Sys2Proof.Machine

/-! ### Storage -/

/-- Settles O7: distinct indices and subindices have distinct keys. -/
theorem scalarsReadBack : Obligations.ScalarsReadBack := by
  unfold Obligations.ScalarsReadBack
  intro s idx sub v hsub hc
  refine ⟨State.rd_wr hc.1 .., fun i a ha hne => ?_, fun _ _ _ _ _ _ => rfl, rfl⟩
  refine State.rd_wr_ne hc.1 v fun e => hne ?_
  obtain ⟨rfl, rfl⟩ := (regKey_inj hsub ha).1 e
  rfl

/-- Settles O8: the stretch written is the whole of the bytes, and what lies outside its range has another key. -/
theorem windowBytesReadBack : Obligations.WindowBytesReadBack := by
  unfold Obligations.WindowBytesReadBack
  intro s idx sub off bs hsub hlen hc
  refine ⟨?_, fun i a o ha ho hout => State.winB_setWin_outside hc hsub ha hlen ho hout, ?_⟩
  · simpa using State.winBytes_setWin hc idx sub off (k := 0) (n := bs.length) (Nat.zero_add _).le
  · rw [State.setWin_rest]

/-- A serial number is neither of the two never issued (R2). -/
theorem serial_issued : Config.serial ≠ 0 ∧ Config.serial ≠ 0xFFFFFFFF := by
  unfold Config.serial
  split
  case isTrue => decide
  case isFalse h =>
    obtain ⟨hzero, hones⟩ := not_or.1 h
    exact ⟨fun e => hzero (BitVec.eq_of_toNat_eq e), fun e => hones (BitVec.eq_of_toNat_eq e)⟩

/-- Settles O11: the objects' defaults, and the serial number as the configuration draws it. -/
theorem identityAndProfileAtReset : Obligations.IdentityAndProfileAtReset := by
  unfold Obligations.IdentityAndProfileAtReset
  intro sess
  exact ⟨rfl, rfl, rfl, rfl, rfl, serial_issued.1, serial_issued.2, rfl, rfl, rfl⟩

/-! ### Writes that are refused -/

/-- No field map gives a scalar more than 64 bits. -/
theorem objRow_mask_lt {idx sub : Nat} {row : ObjRow} (h : objRow idx sub = some row) : row.mask < 2 ^ 64 := by
  have rows : ∀ lay, ∀ r ∈ rowsFor lay, r.mask < 2 ^ 64 := by
    intro lay
    unfold rowsFor
    split <;> decide +kernel
  unfold objRow at h
  split at h
  · simp at h
  · exact rows _ row (List.mem_of_find?_eq_some h)

/-- A value with a bit outside the field map's bits is refused as reserved (R12). -/
theorem scalarAlone_of_reservedBit {row : ObjRow} {idx sub v i : Nat} (hmask : row.mask < 2 ^ 64) (hi : i < 64) (hv : v.testBit i = true)
    (hout : row.mask.testBit i = false) : scalarAlone row idx sub v = abReserved := by
  have hbit : (Nat.land v (2 ^ 64 - 1 - row.mask)).testBit i = true := by
    have hcompl : (2 ^ 64 - 1 - row.mask).testBit i = true := by
      rw [show 2 ^ 64 - 1 - row.mask = 2 ^ 64 - (row.mask + 1) by omega, Nat.testBit_two_pow_sub_succ hmask]
      simp [hi, hout]
    exact (Nat.testBit_and _ _ _).trans (by rw [hv, hcompl]; rfl)
  have hne : Nat.land v (2 ^ 64 - 1 - row.mask) ≠ 0 := fun e => by
    rw [e, Nat.zero_testBit] at hbit
    exact Bool.false_ne_true hbit
  unfold scalarAlone
  exact if_pos hne

/-- Settles O14: what the value alone is refused for comes before the lock and the state (log entry 45). -/
theorem reservedBitsAreRefused : Obligations.ReservedBitsAreRefused := by
  unfold Obligations.ReservedBitsAreRefused
  intro s sess role idx sub off bs row hrow hscalar hgroup ⟨i, hi, hv, hout⟩
  have halone := scalarAlone_of_reservedBit (idx := idx) (sub := sub) (objRow_mask_lt hrow) hi hv hout
  have hcode : abReserved ≠ 0 := by decide
  by_cases hright : writeAbort role idx sub off bs.length = 0
  · by_cases hcontrol : idx = 0x1130
    · subst hcontrol
      simp [State.writeChecked, hright, hrow, halone, hcode]
    · simp [State.writeChecked, hright, hrow, hcontrol, hgroup, hscalar, halone, hcode]
  · simp [State.writeChecked, hright]

/-- A scalar refused by a rule of the state leaves the state as it is. -/
theorem State.applyWrite_of_refused {cfg : State → State} {s t : State} {sess idx sub off a : Nat} {bs : List Byte} {row : ObjRow} {b : Bool}
    (hscalar : row.window = false) (h : s.applyWrite cfg sess idx sub off bs row b = (a, t)) (ha : a ≠ 0) : t = s := by
  simp only [State.applyWrite, hscalar, Bool.false_eq_true] at h
  rw [if_neg id] at h
  generalize firstAbort _ = code at h
  split at h
  · exact (Prod.ext_iff.1 h).2.symm
  · exact absurd (Prod.ext_iff.1 h).1.symm ha

/-- A scalar refused in an open group leaves the state as it is, but for the count of a lock's refusal (R432). -/
theorem State.stage_of_refused {s t : State} {sess idx sub off a : Nat} {bs : List Byte} {row : ObjRow} {l : List Staged}
    (h : s.stage sess idx sub off bs row l = (a, t)) (ha : a ≠ 0) : t = s ∨ (a = abLocked ∧ t = s.bump 0x1120 2 1) := by
  unfold State.stage at h
  extract_lets tt alone u at h
  split at h
  · exact .inl (Prod.ext_iff.1 h).2.symm
  split at h
  · exact .inr ⟨(Prod.ext_iff.1 h).1.symm, (Prod.ext_iff.1 h).2.symm⟩
  split at h
  · exact .inl (Prod.ext_iff.1 h).2.symm
  · exact absurd (Prod.ext_iff.1 h).1.symm ha

/-- Settles O15: every refusal comes before the state is touched, and the one that comes after the lock is taken gives the lock back. -/
theorem refusedWritesChangeNothing : Obligations.RefusedWritesChangeNothing := by
  unfold Obligations.RefusedWritesChangeNothing
  intro s t sess role idx sub off a bs row hrow hscalar hcontrol h ha
  by_cases hright : writeAbort role idx sub off bs.length = 0
  case neg =>
    simp only [State.writeChecked, hright, ne_eq, not_false_eq_true, if_true] at h
    exact .inl (Prod.ext_iff.1 h).2.symm
  cases hgroup : s.groupOf sess with
  | some l =>
    simp only [State.writeChecked, hright, hrow, hcontrol, hgroup, ne_eq, not_true_eq_false, if_false] at h
    exact State.stage_of_refused h ha
  | none =>
    simp only [State.writeChecked, hright, hrow, hcontrol, hgroup, hscalar, ne_eq, not_true_eq_false, if_false, Bool.false_eq_true] at h
    split at h
    · exact .inl (Prod.ext_iff.1 h).2.symm
    split at h
    · exact .inr ⟨(Prod.ext_iff.1 h).1.symm, (Prod.ext_iff.1 h).2.symm⟩
    generalize hu : (if isLocal idx = true then s else s.takeLock sess idx) = u at h
    have hundo : { u with sess := { u.sess with locks := s.sess.locks } } = s := by
      subst hu
      split
      · rfl
      · exact State.takeLock_undo s sess idx
    cases happly : u.applyWrite State.configStart sess idx sub off bs row true with
    | mk b v =>
      simp only [happly] at h
      split at h
      next hzero => exact absurd ((Prod.ext_iff.1 h).1.symm) ha
      next hrefused =>
        obtain rfl := State.applyWrite_of_refused hscalar happly hrefused
        exact .inl ((Prod.ext_iff.1 h).2.symm.trans hundo)

end Sys2Proof.Machine
end

section
/-! Restarts, the power-on reset, the engine of a job, and the FCS of a frame built in the part. -/

namespace Sys2Proof.Machine

/-! ### Restarts and the power-on reset -/

/-- A key that a filter of the keys keeps is looked up as before. -/
theorem mapGet_filter {α : Type} {q : Nat → Bool} {m : List (Nat × α)} {x : Nat} (h : keysRise m = true) (hx : q x = true) :
    mapGet (m.filter fun e => q e.1) x = mapGet m x := by
  induction m with
  | nil => rfl
  | cons e r ih =>
    obtain ⟨k, v⟩ := e
    have later := ih (keysRise_tail h)
    by_cases hq : q k = true
    · rw [List.filter_cons_of_pos (p := fun e : Nat × α => q e.1) hq, mapGet, mapGet, later]
    · have hne : k ≠ x := fun e => hq (e ▸ hx)
      rw [List.filter_cons_of_neg (p := fun e : Nat × α => q e.1) hq, later, mapGet, if_neg hne]
      split
      next hlt => exact mapGet_below h hlt.le
      next => rfl

/-- Settles O21: the restart ends at the question for the carriage's state. -/
theorem restartsOfAbsentCarriagesDoNothing : Obligations.RestartsOfAbsentCarriagesDoNothing := by
  unfold Obligations.RestartsOfAbsentCarriagesDoNothing
  intro s n reason limit htest hseq hst
  have habsent : s.carState n = stPoweredDown ∨ s.carState n = stSpareIdle ∨ s.carState n = stRetired ∨ s.carState n = stFailed := by tauto
  have hstay : s.restartCarriage n reason limit = s := by
    simp only [State.restartCarriage, htest, Bool.false_eq_true, if_false, if_pos habsent]
  simp only [State.restart, hstay, hseq]

/-- The scalars after a power-on reset: the lasting ones, and the reset cause (R347, R471). -/
theorem State.powerOn_lasting (s : State) (vaon : Bool) :
    (s.powerOn vaon).regs = (({ s with regs := s.lastingRegs } : State).wr 0x2005 3
      (if !vaon then 0 else if s.power.cause = 0 then 1 else s.power.cause)).regs := by
  simp only [State.powerOn, State.startFresh, State.withPower, State.setWin_regs, State.wr_regs, State.lastingRegs]

theorem State.lastingRegs_wf {s : State} (h : s.canonical) : Regs.wf s.lastingRegs = true := canonical_filter regDefault _ h.1

/-- A lasting scalar reads after a power-on reset as before. -/
theorem State.powerOn_rd_lasting {s : State} (h : s.canonical) (vaon : Bool) {i a : Nat} (ha : a < 256) (hkept : keptAlways i a = true) :
    (s.powerOn vaon).rd i a = s.rd i a := by
  have hkey : regKey i a ≠ regKey 0x2005 3 := fun e => by
    obtain ⟨rfl, rfl⟩ := (regKey_inj (by decide) ha).1 e
    exact absurd hkept (by decide)
  have hkeep : keptAlways (regKey i a / 256) (regKey i a % 256) = true := by
    rw [regKey, show (i * 256 + a) / 256 = i by omega, show (i * 256 + a) % 256 = a by omega, hkept]
  rw [State.rd_congr (s.powerOn_lasting vaon), State.rd_wr_ne (State.lastingRegs_wf h) _ hkey]
  exact congrArg (fun w => (w.getD (regDefault (regKey i a))).toNat)
    (mapGet_filter (q := fun k => keptAlways (k / 256) (k % 256)) (Regs.rise h.1) hkeep)

/-- Settles O22. -/
theorem powerOnResetCompletes : Obligations.PowerOnResetCompletes := by
  unfold Obligations.PowerOnResetCompletes
  intro dt vaon s hc
  have hcu : (s.advance dt).canonical := State.advance_canonical dt hc
  refine ⟨(s.advance dt).powerOn vaon, rfl, ?_⟩
  generalize s.advance dt = u at hcu ⊢
  have hcause : (u.powerOn vaon).rd 0x2005 3 = (if !vaon then 0 else if u.power.cause = 0 then 1 else u.power.cause) % 2 ^ 64 := by
    rw [State.rd_congr (u.powerOn_lasting vaon), State.rd_wr (State.lastingRegs_wf hcu)]
  refine ⟨?_, ?_, ?_, ?_, ?_, ?_, ?_, ?_, ?_, ?_, ?_, ?_, ?_, ?_, ?_, ?_, ?_, ?_, ?_, hcause, fun i a ha hk hne => State.powerOn_rd hcu vaon ha hk hne,
    fun i a ha hk => State.powerOn_rd_lasting hcu vaon ha hk⟩
  all_goals
    unfold State.powerOn
    dsimp only
    rw [State.setWin_rest]
    rfl

/-! ### The engine of a job (R180) -/

/-- Settles O26: the engines are asked in the order of the rule. -/
theorem jobsRunOnTheNextPresentEngine : Obligations.JobsRunOnTheNextPresentEngine := by
  unfold Obligations.JobsRunOnTheNextPresentEngine
  intro s n
  unfold State.engineOf
  refine ⟨fun k hk hp hbefore => ?_, ?_⟩
  · rw [List.find?_map, List.find?_range_eq_some.2 ⟨by simpa using hp, by simpa using hk, fun j hj => by simpa using hbefore j hj⟩]
    rfl
  · simp only [List.find?_eq_none, List.mem_map, List.mem_range, forall_exists_index, and_imp, forall_apply_eq_imp_iff₂, Bool.not_eq_true]
    constructor
    · intro h e he
      have := h ((e + 3 * (n % 4)) % 4) (by omega)
      rwa [show (n + (e + 3 * (n % 4)) % 4) % 4 = e by omega] at this
    · exact fun h k _ => h _ (Nat.mod_lt _ (by decide))

/-! ### The FCS of a frame built in the part (log entry 41) -/

/-- One bit of the CRC register of Ethernet. -/
def crcBit (c : Nat) : Nat := if c % 2 = 1 then (c / 2) ^^^ 0xEDB88320 else c / 2

/-- Eight bits of the CRC register of Ethernet. -/
def crcEight (c : Nat) : Nat := crcBit (crcBit (crcBit (crcBit (crcBit (crcBit (crcBit (crcBit c)))))))

theorem crcByte_eq (c b : Nat) : crcByte 0xEDB88320 c b = crcEight (c ^^^ b) := by
  have hfold : crcByte 0xEDB88320 c b = (List.range 8).foldl (fun c _ => crcBit c) (c ^^^ b) := rfl
  rw [hfold, show List.range 8 = [0, 1, 2, 3, 4, 5, 6, 7] from rfl]
  simp only [List.foldl_cons, List.foldl_nil, crcEight]

/-- A polynomial taken up twice is taken up not at all. -/
theorem xor_xor_xor_cancel (a b p : Nat) : (a ^^^ p) ^^^ (b ^^^ p) = a ^^^ b := by
  rw [Nat.xor_comm b p, Nat.xor_assoc, ← Nat.xor_assoc p p b, Nat.xor_self, Nat.zero_xor]

theorem crcBit_xor (a b : Nat) : crcBit (a ^^^ b) = crcBit a ^^^ crcBit b := by
  have hmod : (a ^^^ b) % 2 = (a % 2) ^^^ (b % 2) := Nat.xor_mod_two_pow (n := 1)
  have hdiv : (a ^^^ b) / 2 = (a / 2) ^^^ (b / 2) := Nat.xor_div_two_pow (n := 1)
  unfold crcBit
  rw [hmod, hdiv]
  rcases Nat.mod_two_eq_zero_or_one a with ha | ha <;> rcases Nat.mod_two_eq_zero_or_one b with hb | hb
  · simp [ha, hb]
  · simp [ha, hb, Nat.xor_assoc]
  · simp [ha, hb, Nat.xor_assoc, Nat.xor_comm (b / 2)]
  · simp [ha, hb, xor_xor_xor_cancel]

theorem crcBit_double (x : Nat) : crcBit (2 * x) = x := by simp [crcBit]

/-- The register is linear over exclusive or. -/
theorem crcEight_xor (a b : Nat) : crcEight (a ^^^ b) = crcEight a ^^^ crcEight b := by
  simp only [crcEight, crcBit_xor]

/-- Bits above the lowest eight are shifted down unchanged. -/
theorem crcEight_shift (x : Nat) : crcEight (256 * x) = x := by
  rw [show 256 * x = 2 * (2 * (2 * (2 * (2 * (2 * (2 * (2 * x))))))) by omega]
  simp only [crcEight, crcBit_double]

/-- A number from its lowest byte and the bytes above it. -/
theorem xor_of_div_mod (c : Nat) : c = 256 * (c / 256) ^^^ c % 256 := by
  refine Nat.eq_of_testBit_eq fun i => ?_
  rw [show (256 : Nat) = 2 ^ 8 from rfl, Nat.testBit_xor, Nat.testBit_two_pow_mul, Nat.testBit_div_two_pow, Nat.testBit_mod_two_pow]
  by_cases hi : i < 8
  · simp [hi, Nat.not_le.2 hi]
  · simp [hi, show 8 ≤ i by omega, show i - 8 + 8 = i by omega]

/-- A byte that complements the register's lowest byte leaves of the register its other bytes, shifted down, and what it held beside. -/
theorem crcByte_complement {c v : Nat} (h : c % 256 ^^^ v % 256 = 255) (e : Nat) :
    crcByte 0xEDB88320 (c ^^^ e) (v % 256) = c / 256 ^^^ (crcEight 255 ^^^ crcEight e) := by
  rw [crcByte_eq, Nat.xor_assoc, Nat.xor_comm e, ← Nat.xor_assoc, crcEight_xor, ← Nat.xor_assoc]
  nth_rw 1 [xor_of_div_mod c]
  rw [Nat.xor_assoc, h, crcEight_xor, crcEight_shift]

/-- Byte `k` of the complement of a register is the complement of its byte `k`. -/
theorem xor_byte_complement (c : Nat) {k : Nat} (hk : k < 4) : c / 256 ^ k % 256 ^^^ (c ^^^ 0xFFFFFFFF) / 256 ^ k % 256 = 255 := by
  have hpow : 256 ^ k = 2 ^ (8 * k) := by rw [pow_mul]; rfl
  have hones : 0xFFFFFFFF / 2 ^ (8 * k) % 2 ^ 8 = 255 := by
    interval_cases k <;> rfl
  rw [hpow, show (256 : Nat) = 2 ^ 8 from rfl, Nat.xor_div_two_pow, Nat.xor_mod_two_pow, hones, ← Nat.xor_assoc, Nat.xor_self, Nat.zero_xor]

/-- A register followed by its own complement, least significant byte first, holds the residue of a good frame. -/
theorem crcRun_complement {c : Nat} (h : c < 2 ^ 32) : crcRun c (leBytes 4 (c ^^^ 0xFFFFFFFF)) = crcGood := by
  have first := crcByte_complement (xor_byte_complement c (k := 0) (by decide)) 0
  have second := crcByte_complement (xor_byte_complement c (k := 1) (by decide))
  have third := crcByte_complement (xor_byte_complement c (k := 2) (by decide))
  have fourth := crcByte_complement (xor_byte_complement c (k := 3) (by decide))
  generalize c ^^^ 0xFFFFFFFF = v at *
  simp only [Nat.div_div_eq_div_mul, pow_zero, Nat.div_one, Nat.xor_zero, Nat.reducePow, Nat.reduceMul] at first second third fourth
  simp only [crcRun, leBytes, List.foldl_cons, List.foldl_nil, BitVec.toNat_ofNat, Nat.reducePow, Nat.div_div_eq_div_mul, Nat.reduceMul]
  rw [first, second, third, fourth, show c / 4294967296 = 0 by omega]
  decide

theorem crcBit_lt {c : Nat} (h : c < 2 ^ 32) : crcBit c < 2 ^ 32 := by
  unfold crcBit
  split
  · exact Nat.xor_lt_two_pow (by omega) (by decide)
  · omega

theorem crcRun_lt (bs : List Byte) {c : Nat} (h : c < 2 ^ 32) : crcRun c bs < 2 ^ 32 := by
  induction bs generalizing c with
  | nil => exact h
  | cons b bs ih =>
    have hb : c ^^^ b.toNat < 2 ^ 32 := Nat.xor_lt_two_pow h (lt_trans b.isLt (by decide))
    refine ih ?_
    change crcByte 0xEDB88320 c b.toNat < 2 ^ 32
    rw [crcByte_eq]
    exact crcBit_lt (crcBit_lt (crcBit_lt (crcBit_lt (crcBit_lt (crcBit_lt (crcBit_lt (crcBit_lt hb)))))))

/-- Settles O27: the FCS is the complement of the register after the frame (log entry 41). -/
theorem builtFramesPassTheFcsCheck : Obligations.BuiltFramesPassTheFcsCheck := by
  unfold Obligations.BuiltFramesPassTheFcsCheck
  intro bs
  have hrun : crcRun 0xFFFFFFFF (withFcs bs) = crcRun (crcRun 0xFFFFFFFF bs) (leBytes 4 (crcRun 0xFFFFFFFF bs ^^^ 0xFFFFFFFF)) :=
    List.foldl_append ..
  rw [hrun, crcRun_complement (crcRun_lt bs (by decide))]

end Sys2Proof.Machine
end

section
/-! The body of a forwarded request (R441, R468) as it is spelled and read. -/

namespace Sys2Proof.Machine

/-- The head of a request's body: operation, subindex, index, offset and length, most significant byte first, and two reserved bytes. -/
def reqHead (op idx sub off n : Nat) : List Byte :=
  beBytes 1 op ++ beBytes 1 sub ++ beBytes 2 idx ++ beBytes 4 off ++ beBytes 2 n ++ fill 2 0

theorem Req.body_read (idx sub off n : Nat) : (Req.read idx sub off n).body = reqHead 1 idx sub off n := rfl

theorem Req.body_write (idx sub off : Nat) (data : List Byte) : (Req.write idx sub off data).body = reqHead 2 idx sub off data.length ++ data := rfl

/-- The head's bytes in their order. -/
theorem reqHead_eq (op idx sub off n : Nat) : reqHead op idx sub off n =
    [BitVec.ofNat 8 op, BitVec.ofNat 8 sub, BitVec.ofNat 8 (idx / 256), BitVec.ofNat 8 idx, BitVec.ofNat 8 (off / 256 / 256 / 256),
     BitVec.ofNat 8 (off / 256 / 256), BitVec.ofNat 8 (off / 256), BitVec.ofNat 8 off, BitVec.ofNat 8 (n / 256), BitVec.ofNat 8 n, 0, 0] := rfl

section
variable {op idx sub off n : Nat} (rest : List Byte)

theorem byteAt_reqHead_op (h : op < 256) : byteAt (reqHead op idx sub off n ++ rest) 0 = op := by
  simp [reqHead_eq, byteAt, Nat.mod_eq_of_lt h]

theorem byteAt_reqHead_sub (h : sub < 256) : byteAt (reqHead op idx sub off n ++ rest) 1 = sub := by
  simp [reqHead_eq, byteAt, Nat.mod_eq_of_lt h]

theorem beAt_reqHead_idx (h : idx < 65536) : beAt (reqHead op idx sub off n ++ rest) 2 2 = idx := by
  simp [reqHead_eq, beAt, beVal, sliceZ, fill]
  omega

theorem beAt_reqHead_off (h : off < 2 ^ 32) : beAt (reqHead op idx sub off n ++ rest) 4 4 = off := by
  simp [reqHead_eq, beAt, beVal, sliceZ, fill]
  omega

theorem beAt_reqHead_len (h : n < 65536) : beAt (reqHead op idx sub off n ++ rest) 8 2 = n := by
  simp [reqHead_eq, beAt, beVal, sliceZ, fill]
  omega

theorem reqHead_length : (reqHead op idx sub off n).length = 12 := by
  rw [reqHead_eq]
  rfl

end

/-- No table window stands where the object is none. -/
theorem objRow_filter_window {idx sub : Nat} (h : isWindow idx sub = false) : (objRow idx sub).filter ObjRow.window = none := by
  unfold isWindow at h
  cases hrow : objRow idx sub with
  | none => rfl
  | some r =>
    rw [hrow] at h
    simp [h]

/-- A read's body is read as the read. -/
theorem parseReq_read {idx sub off len : Nat} (hi : idx < 65536) (hs : sub < 256) (ho : off < 2 ^ 32) (hl : len ≤ 1024)
    (hw : len = 0 → isWindow idx sub = false) : parseReq (Req.read idx sub off len).body = .inl (.read idx sub off len) := by
  have hwindow : (if len = 0 then (objRow idx sub).filter ObjRow.window else none) = none := by
    split
    next h => exact objRow_filter_window (hw h)
    next => rfl
  rw [Req.body_read, ← List.append_nil (reqHead 1 idx sub off len)]
  simp only [parseReq, byteAt_reqHead_op _ (show 1 < 256 by decide), byteAt_reqHead_sub _ hs, beAt_reqHead_idx _ hi, beAt_reqHead_off _ ho,
    beAt_reqHead_len _ (show len < 65536 by omega), hwindow, if_true, if_neg (show ¬ 1024 < len by omega)]

/-- A write's body is read as the write. -/
theorem parseReq_write {idx sub off : Nat} {data : List Byte} (hi : idx < 65536) (hs : sub < 256) (ho : off < 2 ^ 32) (hl : data.length ≤ 1024) :
    parseReq (Req.write idx sub off data).body = .inl (.write idx sub off data) := by
  have hlen : (reqHead 2 idx sub off data.length ++ data).length = 12 + data.length := by rw [List.length_append, reqHead_length]
  have hdata : ((reqHead 2 idx sub off data.length ++ data).drop 12).take data.length = data := by
    rw [List.drop_left' reqHead_length, List.take_length]
  rw [Req.body_write]
  simp only [parseReq, byteAt_reqHead_op _ (show 2 < 256 by decide), byteAt_reqHead_sub _ hs, beAt_reqHead_idx _ hi, beAt_reqHead_off _ ho,
    beAt_reqHead_len _ (show data.length < 65536 by omega), hlen, hdata, if_neg (show ¬ 1024 < data.length by omega), ne_eq, not_true_eq_false,
    if_false, if_true, show ¬ (2 = 1) by decide]

/-- Settles O18: every field of the head is read back, and the rest of a write's body is its data. -/
theorem forwardedRequestsReadBack : Obligations.ForwardedRequestsReadBack := by
  unfold Obligations.ForwardedRequestsReadBack
  exact ⟨fun _ _ _ _ hi hs ho hl hw => parseReq_read hi hs ho hl hw, fun _ _ _ _ hi hs ho hl => parseReq_write hi hs ho hl⟩

end Sys2Proof.Machine
end

section
/-! How a clause about a command is met: by the units that run it, and by what the write of an object does. -/

namespace Sys2Proof.Machine

/-! ### Clauses by the units that run the command -/

section
variable {cmd : Nat → Instr} {pre : State → Bool} {eff f : State → State}

/-- A command of any power state but the stopped one. -/
theorem Clause.holds_of_goAny (hcmd : ∀ dt s, exec (cmd dt) s = goAny dt f s)
    (heff : ∀ u, u.canonical → pre u = true → u.mode ≠ .stopped ∧ f u = eff u) : Clause.Holds ⟨cmd, pre, eff⟩ := by
  intro dt s hcan hpre
  obtain ⟨hmode, heq⟩ := heff _ (State.advance_canonical dt hcan) hpre
  rw [hcmd, goAny_done hmode, heq]

/-- A command of a unit that runs in RUN. -/
theorem Clause.holds_of_goRun (hcmd : ∀ dt s, exec (cmd dt) s = goRun dt f s)
    (heff : ∀ u, u.canonical → pre u = true → u.inRun = true ∧ f u = eff u) : Clause.Holds ⟨cmd, pre, eff⟩ := by
  intro dt s hcan hpre
  obtain ⟨hrun, heq⟩ := heff _ (State.advance_canonical dt hcan) hpre
  rw [hcmd, goRun_done hrun, heq]

/-- A command of a unit that runs in RUN and SLEEP. -/
theorem Clause.holds_of_goOn (hcmd : ∀ dt s, exec (cmd dt) s = goOn dt f s)
    (heff : ∀ u, u.canonical → pre u = true → u.awake = true ∧ f u = eff u) : Clause.Holds ⟨cmd, pre, eff⟩ := by
  intro dt s hcan hpre
  obtain ⟨hon, heq⟩ := heff _ (State.advance_canonical dt hcan) hpre
  rw [hcmd, goOn_done hon, heq]

/-- A command of a port that the part has. -/
theorem Clause.holds_of_goPort {p : Nat} (hcmd : ∀ dt s, exec (cmd dt) s = goPort dt p f s)
    (heff : ∀ u, u.canonical → pre u = true → portOk p = true ∧ u.inRun = true ∧ f u = eff u) : Clause.Holds ⟨cmd, pre, eff⟩ := by
  intro dt s hcan hpre
  obtain ⟨hport, hrun, heq⟩ := heff _ (State.advance_canonical dt hcan) hpre
  rw [hcmd, goPort, if_pos hport, goRun_done hrun, heq]

/-- A command of the clock and power managers. -/
theorem Clause.holds_of_goPower (hcmd : ∀ dt s, exec (cmd dt) s = goPower dt f s)
    (heff : ∀ u, u.canonical → pre u = true → u.powered = true ∧ f u = eff u) : Clause.Holds ⟨cmd, pre, eff⟩ := by
  refine Clause.holds_of_goAny hcmd fun u hcan hpre => ?_
  obtain ⟨hpow, heq⟩ := heff u hcan hpre
  have hmode : u.mode = .run ∨ u.mode = .sleep ∨ u.mode = .deepSleep := by
    simpa [State.powered, State.awake, or_assoc] using hpow
  refine ⟨fun e => by simp [e] at hmode, ?_⟩
  rw [if_pos hmode, heq]

/-- A command of the time unit. -/
theorem Clause.holds_of_goTime (hcmd : ∀ dt s, exec (cmd dt) s = goTime dt f s)
    (heff : ∀ u, u.canonical → pre u = true → u.awake = true ∧ u.present 42 = true ∧ f u = eff u) : Clause.Holds ⟨cmd, pre, eff⟩ := by
  refine Clause.holds_of_goOn hcmd fun u hcan hpre => ?_
  obtain ⟨hon, hpresent, heq⟩ := heff u hcan hpre
  exact ⟨hon, by rw [if_pos hpresent, heq]⟩

/-- A command of the host bridge. -/
theorem Clause.holds_of_goBridge (hcmd : ∀ dt s, exec (cmd dt) s = goBridge dt f s)
    (heff : ∀ u, u.canonical → pre u = true → u.awake = true ∧ u.present 41 = true ∧ f u = eff u) : Clause.Holds ⟨cmd, pre, eff⟩ := by
  refine Clause.holds_of_goOn hcmd fun u hcan hpre => ?_
  obtain ⟨hon, hpresent, heq⟩ := heff u hcan hpre
  exact ⟨hon, by rw [if_pos hpresent, heq]⟩

/-- A command that the host sends over a link that is up. -/
theorem Clause.holds_of_goHost (hcmd : ∀ dt s, exec (cmd dt) s = goHost dt f s)
    (heff : ∀ u, u.canonical → pre u = true → Row.hostUp u = true ∧ f u = eff u) : Clause.Holds ⟨cmd, pre, eff⟩ := by
  refine Clause.holds_of_goBridge hcmd fun u hcan hpre => ?_
  obtain ⟨hhost, heq⟩ := heff u hcan hpre
  simp only [Row.hostUp, Row.bridgeUp, Bool.and_eq_true] at hhost
  obtain ⟨⟨hon, hpresent⟩, hlink⟩ := hhost
  exact ⟨hon, hpresent, by rw [if_pos hlink, heq]⟩

/-- A command of the consist logic. -/
theorem Clause.holds_of_goConsist (hcmd : ∀ dt s, exec (cmd dt) s = goConsist dt f s)
    (heff : ∀ u, u.canonical → pre u = true → Row.consistUp u = true ∧ f u = eff u) : Clause.Holds ⟨cmd, pre, eff⟩ := by
  refine Clause.holds_of_goRun hcmd fun u hcan hpre => ?_
  obtain ⟨hup, heq⟩ := heff u hcan hpre
  simp only [Row.consistUp, Bool.and_eq_true] at hup
  obtain ⟨⟨hrun, hpresent⟩, hforward⟩ := hup
  exact ⟨hrun, by rw [if_pos (by rw [hpresent, hforward]; rfl), heq]⟩

end

/-! ### What the write of a scalar does -/

section
variable {s : State} {idx sub : Nat} (hacts : (idx, sub) ∉ Row.actingScalars) (hoffs : Row.actingOffsets idx sub = false)
include hacts

theorem State.putControl_plain (v : Nat) : s.putControl idx sub v = s.wr idx sub v := by
  simp only [Row.actingScalars, List.mem_cons, Prod.mk.injEq, not_or] at hacts
  simp only [State.putControl, hacts, if_false]

theorem State.putSecurity_plain (sess v : Nat) : s.putSecurity sess idx sub v = s.wr idx sub v := by
  simp only [Row.actingScalars, List.mem_cons, Prod.mk.injEq, not_or] at hacts
  simp only [State.putSecurity, hacts, if_false]

theorem State.putUpper_plain (v : Nat) : s.putUpper idx sub v = s.wr idx sub v := by
  simp only [Row.actingScalars, List.mem_cons, Prod.mk.injEq, not_or] at hacts
  simp only [State.putUpper, hacts, if_false]

include hoffs

theorem State.putTime_plain (v : Nat) : s.putTime idx sub v = s.wr idx sub v := by
  have hpulse : ¬ (0x7200 ≤ idx ∧ idx < 0x7218 ∧ sub = 1) := fun ⟨h1, h2, h3⟩ => by
    simp [Row.actingOffsets, h1, h2, h3] at hoffs
  simp only [Row.actingScalars, List.mem_cons, Prod.mk.injEq, not_or] at hacts
  simp only [State.putTime, hacts, if_false]
  rw [if_neg fun h => hpulse ⟨h.1, by omega, h.2.2⟩, if_neg fun h => hpulse ⟨by omega, h.2⟩]

omit hacts

theorem State.putPort_plain (hlow : 0x3000 ≤ idx) (hhigh : idx < 0x4000) (v : Nat) :
    s.putPort ((idx - 0x3000) % 0x40) ((idx - 0x3000) / 0x40) sub v = s.wr idx sub v := by
  have hoff : ((idx - 0x3000) % 0x40, sub) ∉ [(0, 7), (1, 1), (8, 1)] := fun h => by
    simp [Row.actingOffsets, hlow, hhigh] at hoffs
    simp at h
    omega
  simp only [List.mem_cons, Prod.mk.injEq, not_or] at hoff
  simp only [State.putPort, hoff, if_false, ethObj]
  rw [show 0x3000 + 0x40 * ((idx - 0x3000) / 0x40) + (idx - 0x3000) % 0x40 = idx by omega]

theorem State.putChannel_plain (hlow : 0x4000 ≤ idx) (hhigh : idx < 0x5000) (sess v : Nat) :
    s.putChannel sess ((idx - 0x4000) % 0x20) ((idx - 0x4000) / 0x20) sub v = s.wr idx sub v := by
  have hoff : ((idx - 0x4000) % 0x20, sub) ∉ [(0, 1), (4, 2), (5, 4), (6, 3), (6, 4), (8, 1)] := fun h => by
    simp [Row.actingOffsets, hlow, hhigh] at hoffs
    simp at h
    omega
  simp only [List.mem_cons, Prod.mk.injEq, not_or] at hoff
  simp only [State.putChannel, hoff, if_false, chObj, ← and_assoc, false_and]
  rw [show 0x4000 + 0x20 * ((idx - 0x4000) / 0x20) + (idx - 0x4000) % 0x20 = idx by omega]

theorem State.putTm_plain (hlow : 0x6000 ≤ idx) (hhigh : idx < 0x6A00) (v : Nat) :
    s.putTm (idx % 0x10) ((idx - 0x6000) / 0x10) sub v = s.wr idx sub v := by
  have hoff : (idx % 0x10, sub) ∉ [(4, 7), (6, 1), (7, 3)] := fun h => by
    simp [Row.actingOffsets, hlow, hhigh] at hoffs
    simp at h
    omega
  simp only [List.mem_cons, Prod.mk.injEq, not_or] at hoff
  simp only [State.putTm, hoff, if_false, tmObj]
  rw [show 0x6000 + 0x10 * ((idx - 0x6000) / 0x10) + idx % 0x10 = idx by omega]

end

/-- A scalar without an action of its own holds the value written (R10). -/
theorem State.setObj_plain {cfg : State → State} {s : State} {sess idx sub v : Nat} {row : ObjRow} (hrow : objRow idx sub = some row)
    (hplain : Row.plainScalar idx sub = true) : State.setObj cfg s sess row idx sub v = s.wr idx sub v := by
  simp only [Row.plainScalar, hrow, Option.any_some, Bool.and_eq_true, beq_iff_eq, bne_iff_ne, Bool.not_eq_true', ne_eq] at hplain
  obtain ⟨⟨⟨⟨hacc, hcursor⟩, htarget⟩, hacts⟩, hoffs⟩ := hplain
  have hacts : (idx, sub) ∉ Row.actingScalars := by simpa using hacts
  have hrs : ¬ (row.acc = .rs ∧ v = 0) := fun h => by simp [hacc] at h
  have hnone := hacts
  simp only [Row.actingScalars, List.mem_cons, Prod.mk.injEq, not_or] at hnone
  simp only [State.setObj, State.putScalar, hnone, hcursor, htarget, hrs, if_false]
  split
  · exact State.putControl_plain hacts v
  split
  · exact State.putPort_plain hoffs (by omega) (by omega) v
  split
  · exact State.putChannel_plain hoffs (by omega) (by omega) sess v
  split
  · rfl
  split
  · exact State.putTm_plain hoffs (by omega) (by omega) v
  split
  · rfl
  split
  · exact State.putTime_plain hacts hoffs v
  split
  · exact State.putSecurity_plain hacts sess v
  · exact State.putUpper_plain hacts v

/-- What a start needs of the words written before it: each is a scalar without an action of its own. -/
theorem setObj_words {words : List (Nat × Nat × Nat)} {cfg : State → State} {sess : Nat}
    (hplain : (words.map fun w => (w.1, w.2.1)).all (fun w => Row.plainScalar w.1 w.2) = true) :
    ∀ w ∈ words, ∀ row, objRow w.1 w.2.1 = some row → ∀ t, State.setObj cfg t sess row w.1 w.2.1 w.2.2 = t.wr w.1 w.2.1 w.2.2 := by
  intro w hw row hrow t
  exact State.setObj_plain hrow (List.all_eq_true.1 hplain _ (List.mem_map_of_mem hw))

/-! ### The scalars that start an action by a write of 1 (rs of Table 0.4) -/

/-- The layouts and subindexes of the field maps that are rs. -/
def startRows : List (Nat × Nat) :=
  [(0x1130, 1), (0x1130, 2), (0x1130, 3), (0x1F00, 2), (0x2010, 4), (0x2020, 2), (0x2060, 8), (0x2064, 2), (0x3000, 7), (0x4004, 2), (0x5010, 7),
   (0x5800, 2), (0x5800, 3), (0x6004, 7), (0x6007, 3), (0x7000, 7), (0x7001, 1), (0x7010, 3), (0x7401, 2), (0x8010, 4), (0x8020, 3), (0x8030, 4),
   (0x8050, 2), (0x9000, 6), (0xF010, 1)]

/-- An rs scalar stands in the list of them. -/
theorem mem_startRows {idx sub : Nat} {row : ObjRow} (hrow : objRow idx sub = some row) (hacc : row.acc = .rs) :
    ∃ lay n, layoutOf idx = some (lay, n) ∧ (lay, sub) ∈ startRows := by
  have rows : ∀ lay, ∀ r ∈ rowsFor lay, r.acc = .rs → r.lo = r.hi ∧ (r.lay, r.lo) ∈ startRows := by
    intro lay
    unfold rowsFor
    split <;> decide +kernel
  unfold objRow at hrow
  split at hrow
  · simp at hrow
  next lay n hlay =>
    obtain ⟨hone, hmem⟩ := rows lay row (List.mem_of_find?_eq_some hrow) hacc
    have hfound := List.find?_some hrow
    simp only [Bool.and_eq_true, beq_iff_eq, decide_eq_true_eq] at hfound
    obtain ⟨hl, hlo, hhi⟩ := hfound
    obtain rfl : row.lo = sub := by omega
    exact ⟨lay, n, hlay, hl ▸ hmem⟩

/-- A scalar that is not one of them takes a 0 as any other value. -/
theorem not_start_zero {idx sub lay n v : Nat} {row : ObjRow} (hrow : objRow idx sub = some row) (hlay : layoutOf idx = some (lay, n))
    (hnone : (lay, sub) ∉ startRows) : ¬ (row.acc = .rs ∧ v = 0) := by
  rintro ⟨hacc, -⟩
  obtain ⟨lay', n', hlay', hmem⟩ := mem_startRows hrow hacc
  rw [hlay, Option.some.injEq, Prod.mk.injEq] at hlay'
  exact hnone (hlay'.1 ▸ hmem)

/-- A write of 1 is none of 0. -/
theorem not_one_zero {p : Prop} : ¬ (p ∧ 1 = 0) := fun h => absurd h.2 (by decide)

/-! ### The dictionary's own clauses -/

theorem dictionaryWrite_holds (sess idx sub v : Nat) : (Row.dictionaryWrite sess idx sub v).Holds :=
  asWrite_holds (fun _ _ => rfl) fun _ hrow _ hplain => State.setObj_plain hrow hplain

theorem scalarWrite_holds (sess idx sub v : Nat) : (Row.scalarWrite sess idx sub v).Holds :=
  asWrite_holds (fun _ _ => rfl) fun _ hrow _ _ => by rw [hrow]

theorem recordWrite_holds (sess idx sub k : Nat) (r : List Byte) : (Row.recordWrite sess idx sub k r).Holds :=
  asRecord_holds (fun _ _ hlen _ _ => by rw [← hlen]; rfl) fun _ _ hlen _ => by rw [hlen]

/-- Settles O28. -/
theorem dictionaryWritesTakeEffect : Obligations.DictionaryWritesTakeEffect := by
  unfold Obligations.DictionaryWritesTakeEffect
  exact ⟨dictionaryWrite_holds, scalarWrite_holds, recordWrite_holds⟩

end Sys2Proof.Machine
end

section
/-! The commands of the CAN and LIN channels (Chapter 6) do what their clauses say. -/

namespace Sys2Proof.Machine

/-! ### The objects of a channel -/

@[simp] theorem State.wrF_now (s : State) (idx sub hi lo v : Nat) : (s.wrF idx sub hi lo v).now = s.now := rfl

theorem layoutOf_chObj {c off : Nat} (hc : c < 96) (hoff : off < 0x20) : layoutOf (chObj c off) =
    if c < 72 then (if off ∈ [0, 1, 2, 4, 5, 6, 8, 9, 0x10] then some (0x4000 + off, c) else none)
    else if off ∈ [0, 1, 5, 6, 0x10, 0x11, 0x12] then some (0x14000 + off, c) else none := by
  have hidx : chObj c off = 0x4000 + 0x20 * c + off := rfl
  have hblock : 0x4000 ≤ chObj c off ∧ chObj c off ≤ 0x4BFF := by omega
  simp only [layoutOf, if_neg (show ¬ (0x2100 ≤ chObj c off ∧ chObj c off ≤ 0x212E) by omega),
    if_neg (show ¬ (0x2200 ≤ chObj c off ∧ chObj c off ≤ 0x222E) by omega),
    if_neg (show ¬ (0x3000 ≤ chObj c off ∧ chObj c off ≤ 0x3AFF) by omega), if_pos hblock,
    show (chObj c off - 0x4000) / 0x20 = c by omega, show (chObj c off - 0x4000) % 0x20 = off by omega]

/-- A write to a channel's block is a write of its offset and subindex. -/
theorem State.setObj_channel {cfg : State → State} {t : State} {sess c off sub v : Nat} {row : ObjRow} (hc : c < 96) (hoff : off < 0x20)
    (hrs : ¬ (row.acc = .rs ∧ v = 0)) :
    State.setObj cfg t sess row (chObj c off) sub v = t.putChannel sess off c sub v := by
  have hidx : chObj c off = 0x4000 + 0x20 * c + off := rfl
  simp only [State.setObj, State.putScalar, hrs, if_false, if_neg (show ¬ (chObj c off = 0x8050 ∧ sub = 2) by omega),
    if_neg (show chObj c off ≠ 0x1101 by omega), if_neg (show chObj c off ≠ 0xA001 by omega),
    if_neg (show ¬ chObj c off < 0x3000 by omega), if_neg (show ¬ chObj c off < 0x4000 by omega),
    if_pos (show chObj c off < 0x5000 by omega), show (chObj c off - 0x4000) / 0x20 = c by omega,
    show (chObj c off - 0x4000) % 0x20 = off by omega]

/-- Of a channel's scalars only the recovery from bus-off is started by a 1. -/
theorem channel_start_zero {c off sub v : Nat} {row : ObjRow} (hc : c < 96) (hoff : off < 0x20) (hne : off ≠ 4)
    (hrow : objRow (chObj c off) sub = some row) : ¬ (row.acc = .rs ∧ v = 0) := by
  rintro ⟨hacc, -⟩
  obtain ⟨lay, n, hlay, hmem⟩ := mem_startRows hrow hacc
  have hlow : lay = 0x4000 + off ∨ lay = 0x14000 + off := by
    rw [layoutOf_chObj hc hoff] at hlay
    split at hlay <;> split at hlay <;> simp_all
  simp only [startRows, List.mem_cons, Prod.mk.injEq, List.not_mem_nil, or_false] at hmem
  omega

/-- What a write to a channel's block does, as its clause says it. -/
theorem channelWrite_holds {cmd : Nat → Instr} {sess c off sub v : Nat} {act : State → State} {ok : State → Bool} (hc : c < 96) (hoff : off < 0x20)
    (hstart : off ≠ 4 ∨ v ≠ 0) (hcmd : ∀ dt s, exec (cmd dt) s = goWrite dt sess (chObj c off) sub v s)
    (hact : ∀ t, ok t = true → t.putChannel sess off c sub v = act t) : (asWrite cmd sess (chObj c off) sub v act ok).Holds := by
  refine asWrite_holds hcmd fun row hrow t hok => ?_
  have hrs : ¬ (row.acc = .rs ∧ v = 0) := by
    rcases hstart with hne | hne
    · exact channel_start_zero hc hoff hne hrow
    · exact fun h => hne h.2
  rw [State.setObj_channel hc hoff hrs, hact t hok]

/-! ### Modes (R150) -/

theorem channelModeWrite_holds (sess : Nat) (chan : Fin 96) (value : BitVec 32) : (Row.channelModeWrite sess chan value).Holds := by
  refine channelWrite_holds chan.isLt (by decide) (.inl (by decide)) (fun _ _ => rfl) fun t hok => ?_
  simp only [Bool.and_eq_true, bne_iff_ne, ne_eq, Option.isNone_iff_eq_none, Bool.not_eq_true'] at hok
  obtain ⟨⟨hnew, hoffer⟩, hbusy⟩ := hok
  simp [State.putChannel, State.changeMode, hnew, hoffer, hbusy]

theorem channelModeWaits_holds (sess : Nat) (chan : Fin 96) (value : BitVec 32) : (Row.channelModeWaits sess chan value).Holds := by
  refine channelWrite_holds chan.isLt (by decide) (.inl (by decide)) (fun _ _ => rfl) fun t hok => ?_
  simp only [Bool.and_eq_true, bne_iff_ne, ne_eq, Option.isSome_iff_exists] at hok
  obtain ⟨hnew, o, hoffer⟩ := hok
  simp [State.putChannel, State.changeMode, hnew, hoffer]

theorem channelIntegrated_holds (chan : Fin 96) : (Row.channelIntegrated chan).Holds :=
  Clause.holds_of_goRun (fun dt s => (rfl : execChannelIntegrated dt chan s = _)) fun u _ h => by
    simp only [Bool.and_eq_true] at h
    exact ⟨h.1, by simp only [State.integrates, h.2, Bool.not_true, Bool.false_eq_true, if_false]⟩

/-! ### Reception (R156, R160, R161) -/

theorem canFrameValid_holds (chan : Fin 72) (bytes : List Byte) (domain : Fin 64) (cls : Fin 8) (ago : Nat) (errs : ReadErrs) :
    (Row.canFrameValid chan bytes domain cls ago errs).Holds :=
  Clause.holds_of_goRun (fun dt s => (rfl : execCanFrameValid dt (chan.castLE (Nat.le_of_ble_eq_true rfl)) bytes domain cls ago errs s = _)) fun u _ h => by
    simp only [Bool.and_eq_true, Bool.not_eq_true'] at h
    obtain ⟨⟨⟨⟨hrun, hhears⟩, hlen⟩, hown⟩, hlisten⟩ := h
    refine ⟨hrun, ?_⟩
    simp only [Fin.val_castLE, State.frameValid, State.canComplete, hhears, hlen, hown, hlisten, chan.isLt, Bool.not_true,
      Bool.false_eq_true, if_true, if_false]

theorem bufferLock_holds (sess : Nat) (chan : Fin 96) (value : BitVec 32) : (Row.bufferLock sess chan value).Holds := by
  refine channelWrite_holds chan.isLt (by decide) (.inl (by decide)) (fun _ _ => rfl) fun t hok => ?_
  simp [State.putChannel, State.putBufferLock, of_decide_eq_true hok]

theorem bufferUnlock_holds (sess : Nat) (chan : Fin 96) (value : BitVec 32) : (Row.bufferUnlock sess chan value).Holds := by
  refine channelWrite_holds chan.isLt (by decide) (.inl (by decide)) (fun _ _ => rfl) fun t hok => ?_
  simp [State.putChannel, State.putBufferLock, of_decide_eq_true hok]

/-- Settles O40. -/
theorem channelModesAndReceptionComplete : Obligations.ChannelModesAndReceptionComplete := by
  unfold Obligations.ChannelModesAndReceptionComplete
  exact ⟨channelModeWrite_holds, channelModeWaits_holds, channelIntegrated_holds, canFrameValid_holds, bufferLock_holds, bufferUnlock_holds⟩

/-! ### Transmission and errors (R153–R166) -/

theorem canFrameSent_holds (chan : Fin 72) (loop : Nat) : (Row.canFrameSent chan loop).Holds :=
  Clause.holds_of_goRun (fun dt s => (rfl : execCanFrameSent dt chan loop s = _)) fun u _ h => by
    simp only [Bool.and_eq_true] at h
    obtain ⟨⟨hrun, hsends⟩, hoffered⟩ := h
    cases ho : (u.ch chan.val).offer with
    | none => simp [ho] at hoffered
    | some o =>
      simp only [ho, Bool.not_eq_true'] at hoffered
      exact ⟨hrun, by simp [State.sentOnBus, hsends, ho, hoffered]⟩

theorem canFastSent_holds (chan : Fin 72) (loop : Nat) : (Row.canFastSent chan loop).Holds :=
  Clause.holds_of_goRun (fun dt s => (rfl : execCanFrameSent dt chan loop s = _)) fun u _ h => by
    simp only [Bool.and_eq_true, decide_eq_true_eq] at h
    obtain ⟨⟨⟨hrun, hsends⟩, hloop⟩, hoffered⟩ := h
    cases ho : (u.ch chan.val).offer with
    | none => simp [ho] at hoffered
    | some o =>
      simp only [ho] at hoffered
      have hmin : min loop 255 = loop := by omega
      exact ⟨hrun, by simp [State.sentOnBus, hsends, ho, hoffered, hmin, show ¬ 127 < loop by omega]⟩

theorem arbitrationLost_holds (chan : Fin 72) : (Row.arbitrationLost chan).Holds :=
  Clause.holds_of_goRun (fun dt s => (rfl : execArbitrationLost dt chan s = _)) fun u _ h => by
    simp only [Bool.and_eq_true] at h
    obtain ⟨⟨hrun, hsends⟩, hoffered⟩ := h
    cases ho : (u.ch chan.val).offer with
    | none => simp [ho] at hoffered
    | some o =>
      simp only [ho, Bool.and_eq_true, bne_iff_ne, ne_eq, Option.isNone_iff_eq_none] at hoffered
      exact ⟨hrun, by simp [State.lostOnBus, hsends, ho, hoffered]⟩

theorem canBusError_holds (chan : Fin 72) (kind : Fin 6) (sending exempt : Bool) (eights : Nat) :
    (Row.canBusError chan kind sending exempt eights).Holds :=
  Clause.holds_of_goRun (fun dt s => (rfl : execCanBusError dt chan kind sending exempt eights s = _)) fun u _ h => by
    simp only [Bool.and_eq_true, Bool.or_eq_true, Bool.not_eq_true'] at h
    obtain ⟨⟨hrun, hhears⟩, hoffered⟩ := h
    refine ⟨hrun, ?_⟩
    have hown : (sending && (u.ch chan.val).offer.isNone) = false := by
      rcases hoffered with hs | ho
      · rw [hs, Bool.false_and]
      · rw [Option.isNone_eq_false_iff.2 ho, Bool.and_false]
    simp only [State.errorOnBus, hhears, hown, Bool.not_true, Bool.or_self, Bool.false_eq_true, if_false]

theorem transmitRequest_holds (sess : Nat) (chan : Fin 72) (buf : Fin 32) : (Row.transmitRequest sess chan buf).Holds :=
  channelWrite_holds (by omega) (by decide) (.inl (by decide)) (fun _ _ => rfl) fun t _ => by simp [State.putChannel, State.requestBuffer]

theorem transmitCancel_holds (sess : Nat) (chan : Fin 72) (buf : Fin 32) : (Row.transmitCancel sess chan buf).Holds :=
  channelWrite_holds (by omega) (by decide) (.inl (by decide)) (fun _ _ => rfl) fun t _ => by simp [State.putChannel, State.cancelBuffer]

theorem busOffRecover_holds (sess : Nat) (chan : Fin 72) : (Row.busOffRecover sess chan).Holds :=
  channelWrite_holds (by omega) (by decide) (.inr (by decide)) (fun _ _ => rfl) fun t _ => by simp [State.putChannel, State.busOffRecover]

theorem busOffRecovered_holds (chan : Fin 72) : (Row.busOffRecovered chan).Holds :=
  Clause.holds_of_goRun (fun dt s => (rfl : execBusOffRecovered dt chan s = _)) fun u _ h => by
    simp only [Bool.and_eq_true, beq_iff_eq, decide_eq_true_eq, Bool.not_eq_true'] at h
    obtain ⟨⟨⟨⟨⟨hrun, hoff⟩, hrecover⟩, hdue⟩, hpresent⟩, hlives⟩ := h
    exact ⟨hrun, by simp [State.recovered, hoff, hrecover, Nat.not_lt.2 hdue, hpresent, hlives]⟩

/-- Settles O41. -/
theorem canTransmissionAndErrorsComplete : Obligations.CanTransmissionAndErrorsComplete := by
  unfold Obligations.CanTransmissionAndErrorsComplete
  exact ⟨canFrameSent_holds, canFastSent_holds, arbitrationLost_holds, canBusError_holds, transmitRequest_holds, transmitCancel_holds,
    busOffRecover_holds, busOffRecovered_holds⟩

/-! ### The schedule matrix (R167–R171) -/

theorem columnStart_holds (chan : Fin 72) : (Row.columnStart chan).Holds :=
  Clause.holds_of_goRun (fun dt s => (rfl : execColumnStart dt chan s = _)) fun u _ h => by
    simp only [Bool.and_eq_true, decide_eq_true_eq] at h
    obtain ⟨⟨⟨⟨hrun, hmatrix⟩, hcycle⟩, hdue⟩, hcol⟩ := h
    exact ⟨hrun, by simp [State.columnBegins, hmatrix, hcycle, Nat.not_lt.2 hdue, hcol]⟩

theorem cycleEnds_holds (chan : Fin 72) : (Row.cycleEnds chan).Holds :=
  Clause.holds_of_goRun (fun dt s => (rfl : execColumnStart dt chan s = _)) fun u _ h => by
    simp only [Bool.and_eq_true, decide_eq_true_eq] at h
    obtain ⟨⟨⟨⟨hrun, hmatrix⟩, hcycle⟩, hdue⟩, hcol⟩ := h
    exact ⟨hrun, by simp [State.columnBegins, hmatrix, hcycle, Nat.not_lt.2 hdue, Nat.not_lt.2 hcol]⟩

theorem referenceMessageReceived_holds (chan : Fin 72) (prio : Fin 8) (cycle : Fin 64) (ago : Nat) :
    (Row.referenceMessageReceived chan prio cycle ago).Holds :=
  Clause.holds_of_goRun (fun dt s => (rfl : execReferenceMessageReceived dt chan prio cycle ago s = _)) fun u _ h => by
    simp only [Bool.and_eq_true, bne_iff_ne, ne_eq, beq_iff_eq, Bool.not_eq_true'] at h
    obtain ⟨⟨⟨⟨⟨⟨hrun, hmatrix⟩, hmode⟩, hhears⟩, hself⟩, hknown⟩, hprio⟩ := h
    refine ⟨hrun, ?_⟩
    simp [State.refHeard, State.beginCycle, hmatrix, hmode, hhears, hself, hknown, hprio]

theorem masterYields_holds (chan : Fin 72) (prio : Fin 8) (cycle : Fin 64) (ago : Nat) : (Row.masterYields chan prio cycle ago).Holds :=
  Clause.holds_of_goRun (fun dt s => (rfl : execReferenceMessageReceived dt chan prio cycle ago s = _)) fun u _ h => by
    simp only [Bool.and_eq_true, bne_iff_ne, ne_eq, decide_eq_true_eq] at h
    obtain ⟨⟨⟨⟨⟨hrun, hmatrix⟩, hmode⟩, hhears⟩, hself⟩, hprio⟩ := h
    refine ⟨hrun, ?_⟩
    simp only [State.refHeard, State.masterChange, hmatrix, beq_false_of_ne hmode, hhears, hself, hprio, Bool.not_true, Bool.or_self,
      Bool.false_eq_true, if_true, if_false, Bool.toNat_false, State.wrF_now]

theorem masterTimeout_holds (chan : Fin 72) : (Row.masterTimeout chan).Holds :=
  Clause.holds_of_goRun (fun dt s => (rfl : execMasterTimeout dt chan s = _)) fun u _ h => by
    simp only [Bool.and_eq_true, beq_iff_eq, decide_eq_true_eq, Bool.not_eq_true', Option.isNone_iff_eq_none] at h
    obtain ⟨⟨⟨⟨⟨⟨hrun, hmatrix⟩, hmode⟩, hself⟩, hdue⟩, hoffer⟩, hsends⟩ := h
    exact ⟨hrun, by simp [State.masterSilent, State.offerReference, hmatrix, hmode, hself, Nat.not_lt.2 hdue, hoffer, hsends]⟩

/-- Settles O42. -/
theorem scheduleMatrixCompletes : Obligations.ScheduleMatrixCompletes := by
  unfold Obligations.ScheduleMatrixCompletes
  exact ⟨columnStart_holds, cycleEnds_holds, referenceMessageReceived_holds, masterYields_holds, masterTimeout_holds⟩

/-! ### LIN (R173–R176, R366) -/

theorem linSlotStart_holds (lin : Fin 24) : (Row.linSlotStart lin).Holds :=
  Clause.holds_of_goRun (fun dt s => (rfl : execLinSlotStart dt lin s = _)) fun u _ h => by
    simp only [Bool.and_eq_true, beq_iff_eq, decide_eq_true_eq, Bool.not_eq_true', Option.isNone_iff_eq_none] at h
    obtain ⟨⟨⟨⟨⟨⟨⟨hrun, hproto⟩, hlive⟩, hquiet⟩, hdue⟩, hawait⟩, hbit⟩, hruns⟩ := h
    exact ⟨hrun, by simp [State.slotBegins, State.noResponse, hproto, hlive, hquiet, Nat.not_lt.2 hdue, hawait, hbit, hruns]⟩

theorem linScheduleStart_holds (lin : Fin 24) : (Row.linScheduleStart lin).Holds :=
  Clause.holds_of_goRun (fun dt s => (rfl : execLinSlotStart dt lin s = _)) fun u _ h => by
    simp only [Bool.and_eq_true, beq_iff_eq, decide_eq_true_eq, Bool.not_eq_true', Option.isNone_iff_eq_none] at h
    obtain ⟨⟨⟨⟨⟨⟨⟨hrun, hproto⟩, hlive⟩, hquiet⟩, hdue⟩, hawait⟩, hbit⟩, hruns⟩ := h
    exact ⟨hrun, by simp [State.slotBegins, State.noResponse, hproto, hlive, hquiet, Nat.not_lt.2 hdue, hawait, hbit, hruns]⟩

theorem linResponseTimeout_holds (lin : Fin 24) : (Row.linResponseTimeout lin).Holds :=
  Clause.holds_of_goRun (fun dt s => (rfl : execLinResponseTimeout dt lin s = _)) fun u _ h => by
    simp only [Bool.and_eq_true] at h
    obtain ⟨hrun, hawaited⟩ := h
    cases ha : (u.ch (72 + lin.val)).await_ with
    | none => simp [ha] at hawaited
    | some x =>
      obtain ⟨id, due, res⟩ := x
      simp only [ha, Bool.and_eq_true, decide_eq_true_eq, beq_iff_eq] at hawaited
      exact ⟨hrun, by simp [State.noResponse, ha, hawaited]⟩

theorem linTableSwitch_holds (sess : Nat) (lin : Fin 24) (value : BitVec 32) : (Row.linTableSwitch sess lin value).Holds :=
  channelWrite_holds (by omega) (by decide) (.inl (by decide)) (fun _ _ => rfl) fun t _ => by simp [State.putChannel]

theorem linHeaderReceived_holds (lin : Fin 24) (pid : Byte) (breakBits sync : Nat) : (Row.linHeaderReceived lin pid breakBits sync).Holds :=
  Clause.holds_of_goRun (fun dt s => (rfl : execLinHeaderReceived dt lin pid breakBits sync s = _)) fun u _ h => by
    simp only [Bool.and_eq_true, beq_iff_eq, decide_eq_true_eq, Bool.not_eq_true'] at h
    obtain ⟨⟨⟨⟨⟨⟨⟨hrun, hproto⟩, hlive⟩, hquiet⟩, hbreak⟩, hslow⟩, hfast⟩, hpid⟩ := h
    refine ⟨hrun, ?_⟩
    simp [State.linHeard, hproto, hlive, hquiet, Nat.not_lt.2 hbreak, Nat.not_lt.2 hslow, Nat.not_lt.2 hfast, hpid]

/-- The checksum of a LIN frame is a byte. -/
theorem linSum_lt (classic : Bool) (pid : Nat) (data : List Byte) : linSum classic pid data < 256 := by
  exact lt_of_le_of_lt (Nat.sub_le ..) (by decide)

/-- A subscribed response in time and with its own checksum, but for the go-to-sleep command, is a good frame. -/
theorem State.linResponse_good {t : State} {c pid due res : Nat} {classic : Bool} {data : List Byte} {dom cls ago : Nat}
    (hframe : t.linFrame c (pid % 64) = (2, classic, data.length))
    (hawait : ((t.modCh c fun d => { d with lastBus := t.now }).ch c).await_ = some (pid % 64, due, res)) (hintime : t.now ≤ due)
    (hawake : ¬ (pid % 64 = 0x3C ∧ data = sleepData)) :
    t.linResponse c pid data (linSum classic pid data) false dom cls ago =
      ((t.modCh c fun d => { d with lastBus := t.now }).modCh c fun d => { d with await_ := none }).goodFrame c
        (linBytes pid (linSum classic pid data) classic data) dom cls ago := by
  simp [State.linResponse, hframe, hawait, Nat.not_lt.2 hintime, hawake]

theorem linFrameReceived_holds (lin : Fin 24) (pid : Byte) (data : List Byte) (domain : Fin 64) (cls : Fin 8) (ago : Nat) (errs : ReadErrs) :
    (Row.linFrameReceived lin pid data domain cls ago errs).Holds :=
  Clause.holds_of_goRun (fun dt s => (rfl : execLinFrameReceived dt lin pid data
    (BitVec.ofNat 8 (linSum (pid.toNat % 64 == 0x3C || pid.toNat % 64 == 0x3D) pid.toNat data)) false domain cls ago errs s = _)) fun u _ h => by
    simp only [Bool.and_eq_true, Bool.not_eq_true', beq_iff_eq] at h
    obtain ⟨⟨⟨⟨⟨⟨⟨hrun, hhears⟩, hquiet⟩, hdir⟩, hclassic⟩, hlen⟩, hsleep⟩, hawaited⟩ := h
    have hframe : (u.meetErrs errs).linFrame (72 + lin.val) (pid.toNat % 64) = (2, pid.toNat % 64 == 0x3C || pid.toNat % 64 == 0x3D, data.length) := by
      rw [← hdir, ← hclassic, ← hlen]
    have hawake : ¬ (pid.toNat % 64 = 0x3C ∧ data = sleepData) := by simpa [imp_iff_not_or] using hsleep
    have hsum := Nat.mod_eq_of_lt (linSum_lt (pid.toNat % 64 == 0x3C || pid.toNat % 64 == 0x3D) pid.toNat data)
    refine ⟨hrun, ?_⟩
    simp only [hhears, hquiet, Bool.not_false, Bool.and_self, if_true, BitVec.toNat_ofNat, Nat.reducePow, hsum]
    split at hawaited
    next x hawait =>
      obtain ⟨i, due, res⟩ := x
      simp only [Bool.and_eq_true, beq_iff_eq, decide_eq_true_eq] at hawaited
      obtain ⟨rfl, hintime⟩ := hawaited
      exact State.linResponse_good hframe hawait hintime hawake
    next => exact absurd hawaited Bool.false_ne_true

theorem linInactivityTimeout_holds (lin : Fin 24) : (Row.linInactivityTimeout lin).Holds :=
  Clause.holds_of_goRun (fun dt s => (rfl : execLinInactivityTimeout dt lin s = _)) fun u _ h => by
    simp only [Bool.and_eq_true, beq_iff_eq, decide_eq_true_eq] at h
    obtain ⟨⟨hrun, hproto⟩, hdue⟩ := h
    exact ⟨hrun, if_pos ⟨hproto, hdue⟩⟩

/-- Settles O43. -/
theorem linChannelsComplete : Obligations.LinChannelsComplete := by
  unfold Obligations.LinChannelsComplete
  exact ⟨linSlotStart_holds, linScheduleStart_holds, linResponseTimeout_holds, linTableSwitch_holds, linHeaderReceived_holds, linFrameReceived_holds,
    linInactivityTimeout_holds⟩

end Sys2Proof.Machine
end

section
/-! The commands of the Ethernet ports and of the egress selection (Chapters 5 and 8) do what their clauses say. -/

namespace Sys2Proof.Machine

/-! ### The objects of a port -/

@[simp] theorem State.portCount_now (s : State) (p sub n : Nat) : (s.portCount p sub n).now = s.now := by
  rw [State.portCount_rest]

/-- A write to a port's block is a write of its offset and subindex. -/
theorem State.setObj_port {cfg : State → State} {t : State} {sess p off sub v : Nat} {row : ObjRow} (hp : p < 44) (hoff : off < 0x40)
    (hrs : ¬ (row.acc = .rs ∧ v = 0)) :
    State.setObj cfg t sess row (ethObj p off) sub v = t.putPort off p sub v := by
  have hidx : ethObj p off = 0x3000 + 0x40 * p + off := rfl
  simp only [State.setObj, State.putScalar, hrs, if_false, if_neg (show ¬ (ethObj p off = 0x8050 ∧ sub = 2) by omega),
    if_neg (show ethObj p off ≠ 0x1101 by omega), if_neg (show ethObj p off ≠ 0xA001 by omega),
    if_neg (show ¬ ethObj p off < 0x3000 by omega), if_pos (show ethObj p off < 0x4000 by omega),
    show (ethObj p off - 0x3000) / 0x40 = p by omega, show (ethObj p off - 0x3000) % 0x40 = off by omega]

theorem layoutOf_ethObj {p off : Nat} (hp : p < 44) (hoff : off ∈ [0, 1, 2, 3, 8, 0x10]) : layoutOf (ethObj p off) = some (0x3000 + off, p) := by
  have hlt : off < 0x40 := by
    simp only [List.mem_cons, List.not_mem_nil, or_false] at hoff
    omega
  have hidx : ethObj p off = 0x3000 + 0x40 * p + off := rfl
  simp only [layoutOf, if_neg (show ¬ (0x2100 ≤ ethObj p off ∧ ethObj p off ≤ 0x212E) by omega),
    if_neg (show ¬ (0x2200 ≤ ethObj p off ∧ ethObj p off ≤ 0x222E) by omega),
    if_pos (show 0x3000 ≤ ethObj p off ∧ ethObj p off ≤ 0x3AFF by omega),
    show (ethObj p off - 0x3000) / 0x40 = p by omega, show (ethObj p off - 0x3000) % 0x40 = off by omega, if_pos hoff]

/-- What a write to a port's block does, as its clause says it. -/
theorem portWrite_holds {cmd : Nat → Instr} {sess p off sub v : Nat} {act : State → State} {ok : State → Bool} (hp : p < 44)
    (hoff : off ∈ [0, 1, 2, 3, 8, 0x10]) (hstart : (0x3000 + off, sub) ∉ startRows ∨ v ≠ 0)
    (hcmd : ∀ dt s, exec (cmd dt) s = goWrite dt sess (ethObj p off) sub v s)
    (hact : ∀ t, ok t = true → t.putPort off p sub v = act t) : (asWrite cmd sess (ethObj p off) sub v act ok).Holds := by
  have hlt : off < 0x40 := by
    simp only [List.mem_cons, List.not_mem_nil, or_false] at hoff
    omega
  refine asWrite_holds hcmd fun row hrow t hok => ?_
  have hrs : ¬ (row.acc = .rs ∧ v = 0) := by
    rcases hstart with hnone | hne
    · exact not_start_zero hrow (layoutOf_ethObj hp hoff) hnone
    · exact fun h => hne h.2
  rw [State.setObj_port hp hlt hrs, hact t hok]

/-! ### Modes and links (R121–R132) -/

theorem portModeWrite_holds (sess : Nat) (port : Fin 44) (value : BitVec 32) : (Row.portModeWrite sess port value).Holds :=
  portWrite_holds port.isLt (by decide) (.inl (by decide)) (fun _ _ => rfl) fun t hok => by
    simp only [Bool.not_eq_true'] at hok
    simp [State.putPort, State.writePortMode, hok]

theorem portModeChange_holds (sess : Nat) (port : Fin 44) (value : BitVec 32) : (Row.portModeChange sess port value).Holds :=
  portWrite_holds port.isLt (by decide) (.inl (by decide)) (fun _ _ => rfl) fun t hok => by
    simp only [Bool.and_eq_true, bne_iff_ne, ne_eq] at hok
    simp [State.putPort, State.writePortMode, hok]

theorem linkUp_holds (port : Fin 44) : (Row.linkUp port).Holds :=
  Clause.holds_of_goRun (fun dt s => (rfl : execLinkUp dt port s = _)) fun u _ h => by
    simp only [Bool.and_eq_true, Bool.not_eq_true'] at h
    obtain ⟨⟨hrun, hdown⟩, hmay⟩ := h
    exact ⟨hrun, by simp [State.linksUp, State.raiseLink, hdown, hmay]⟩

theorem linkDown_holds (port : Fin 44) : (Row.linkDown port).Holds :=
  Clause.holds_of_goRun (fun dt s => (rfl : execLinkDown dt port s = _)) fun u _ h => by
    simp only [Bool.and_eq_true] at h
    exact ⟨h.1, if_pos h.2⟩

theorem thresholdWrite_holds (sess : Nat) (port : Fin 44) (value : BitVec 32) : (Row.thresholdWrite sess port value).Holds :=
  portWrite_holds port.isLt (by decide) (.inl (by decide)) (fun _ _ => rfl) fun t _ => by simp [State.putPort, State.writeThreshold]

/-- Settles O36. -/
theorem portModesAndLinksComplete : Obligations.PortModesAndLinksComplete := by
  unfold Obligations.PortModesAndLinksComplete
  exact ⟨portModeWrite_holds, portModeChange_holds, linkUp_holds, linkDown_holds, thresholdWrite_holds⟩

/-! ### Egress selection and underruns (R131–R133, R210–R222) -/

/-- A port whose egress group serves selects, with the errors of its reads noted, by its kind. -/
theorem State.selectPort_of_serving {u : State} {p : Nat} (hopen : u.committed = false) (hforward : u.startup.forwarding = true)
    (hgroup : u.present (egressGroup p) = true) (errs : ReadErrs) :
    u.selectPort p errs =
      let t := u.meetErrs errs
      if isEth p then (if t.linkUp p && t.present (portCarriage p) && (t.pdyn p).oldMode.isNone then t.selectEth p errs else t)
      else if isC p then t.canOffer (p - 64)
      else if isL p then t.linEgress (p - 64) (((t.ptm p).queues.map fun q => q.2.length).sum)
      else if p = 44 then (if t.present 41 && t.rdB 0x20A0 3 2 then t.selectDelivery p errs else t)
      else if p = 45 then t.gwSelect
      else t.selectDelivery p errs := by
  simp only [State.selectPort, hopen, hforward, hgroup, Bool.not_true, Bool.or_self, Bool.false_eq_true, if_false]

theorem egressSelect_holds (port : Fin 160) (errs : ReadErrs) : (Row.egressSelect port errs).Holds :=
  Clause.holds_of_goPort (fun dt s => (rfl : execEgressSelect dt port errs s = _)) fun u _ h => by
    simp only [Bool.and_eq_true, Bool.or_eq_true, Bool.not_eq_true', bne_iff_ne, ne_eq] at h
    obtain ⟨⟨⟨⟨⟨⟨hrun, hport⟩, hopen⟩, hforward⟩, hgroup⟩, heth⟩, hhost⟩ := h
    refine ⟨hport, hrun, ?_⟩
    simp only [State.selectPort_of_serving hopen hforward hgroup]
    generalize u.meetErrs errs = t at *
    generalize port.val = p at *
    simp only [isEth, decide_eq_false_iff_not] at heth
    have hrange : p ≤ 46 ∨ (64 ≤ p ∧ p ≤ 159) := by simpa [portOk] using hport
    rcases hrange with hlow | ⟨hlow, hhigh⟩
    · obtain hmac | rfl | rfl | rfl : p ≤ 43 ∨ p = 44 ∨ p = 45 ∨ p = 46 := by omega
      · have hready := heth.resolve_left (not_not_intro hmac)
        simp [isEth, hmac, hready]
      · simp [isEth, isC, isL, hhost.resolve_left (by simp)]
      · simp [isEth, isC, isL]
      · simp [isEth, isC, isL]
    · have hmac : ¬ p ≤ 43 := by omega
      by_cases hcan : p ≤ 135
      · simp [isEth, isC, hmac, hlow, hcan, show p ≠ 44 ∧ p ≠ 45 ∧ p ≠ 46 by omega, show p < 136 by omega]
      · simp [isEth, isC, isL, hmac, hlow, hcan, hhigh, show p ≠ 44 ∧ p ≠ 45 ∧ p ≠ 46 by omega, show ¬ p < 136 by omega, show 136 ≤ p by omega]

theorem startsFrame_holds (port : Fin 44) (errs : ReadErrs) : (Row.startsFrame port errs).Holds :=
  Clause.holds_of_goPort (fun dt s => (rfl : execEgressSelect dt (port.castLE (Nat.le_of_ble_eq_true rfl)) errs s = _)) fun u _ h => by
    simp only [Bool.and_eq_true, Bool.not_eq_true'] at h
    obtain ⟨⟨⟨⟨⟨⟨⟨⟨⟨⟨hrun, hopen⟩, hforward⟩, hgroup⟩, hlink⟩, hcarriage⟩, hmode⟩, hretry⟩, hidle⟩, hwhole⟩, hfound⟩ := h
    have hmac : port.val ≤ 43 := by omega
    refine ⟨by simp [portOk, show port.val ≤ 46 by omega], hrun, ?_⟩
    simp only [Fin.val_castLE, State.selectPort_of_serving hopen hforward hgroup]
    simp only [isEth, hmac, decide_true, hlink, hcarriage, hmode, Bool.and_self, if_true]
    simp only [Option.isNone_iff_eq_none, Option.isSome_iff_exists] at hretry hidle hwhole hfound
    obtain ⟨n, hn⟩ := hfound
    cases hsel : ((u.meetErrs errs).takeKinds port.val).selectQueue port.val with
    | mk q t =>
      simp only [hsel] at hn
      subst hn
      simp only [State.selectEth, hretry, hidle, hwhole, hsel]

theorem transmitUnderrun_holds (port : Fin 44) : (Row.transmitUnderrun port).Holds :=
  Clause.holds_of_goRun (fun dt s => (rfl : execTransmitUnderrun dt port s = _)) fun u _ h => by
    simp only [Bool.and_eq_true] at h
    obtain ⟨hrun, hsent⟩ := h
    cases htx : (u.pdyn port.val).tx with
    | none => simp [htx] at hsent
    | some t =>
      simp only [htx] at hsent
      cases hframe : u.frame? t.frame with
      | none => simp [hframe] at hsent
      | some f =>
        simp only [hframe, Bool.and_eq_true, Bool.not_eq_true', bne_iff_ne, ne_eq] at hsent
        obtain ⟨⟨⟨⟨hfirst, hearly⟩, hpart⟩, heth⟩, hset⟩ := hsent
        refine ⟨hrun, ?_⟩
        simp [State.underrun, htx, hframe, hfirst, hearly, hpart, heth, hset]

theorem thresholdDecay_holds (port : Fin 44) : (Row.thresholdDecay port).Holds :=
  Clause.holds_of_goRun (fun dt s => (rfl : execThresholdDecay dt port s = _)) fun u _ h => by
    simp only [Bool.and_eq_true, decide_eq_true_eq, bne_iff_ne, ne_eq] at h
    obtain ⟨⟨hrun, hclean⟩, hset⟩ := h
    exact ⟨hrun, if_pos ⟨hclean, hset⟩⟩

theorem forcedSafEnd_holds : Row.forcedSafEnd.Holds :=
  Clause.holds_of_goRun (fun dt s => (rfl : execForcedSafEnd dt s = _)) fun u _ h => by
    simp only [Bool.and_eq_true, decide_eq_true_eq] at h
    exact ⟨h.1, if_pos h.2⟩

/-- Settles O37. -/
theorem egressSelectionAndUnderrunsComplete : Obligations.EgressSelectionAndUnderrunsComplete := by
  unfold Obligations.EgressSelectionAndUnderrunsComplete
  exact ⟨egressSelect_holds, startsFrame_holds, transmitUnderrun_holds, thresholdDecay_holds, forcedSafEnd_holds⟩

/-! ### Flow control (R134–R136) -/

theorem pauseReceived_holds (port : Fin 44) (quanta : BitVec 16) : (Row.pauseReceived port quanta).Holds :=
  Clause.holds_of_goRun (fun dt s => (rfl : execPauseReceived dt port quanta s = _)) fun u _ h => by
    simp only [Bool.and_eq_true, decide_eq_true_eq, Option.isNone_iff_eq_none] at h
    obtain ⟨⟨⟨⟨hrun, hhears⟩, hport⟩, htakes⟩, hfree⟩ := h
    exact ⟨hrun, by simp [State.pauseReceived, hhears, hport, htakes, hfree]⟩

theorem pfcReceived_holds (port : Fin 44) (classes : Byte) (quanta : List Nat) : (Row.pfcReceived port classes quanta).Holds :=
  Clause.holds_of_goRun (fun dt s => (rfl : execPfcReceived dt port classes quanta s = _)) fun u _ h => by
    simp only [Bool.and_eq_true, decide_eq_true_eq] at h
    obtain ⟨⟨⟨hrun, hhears⟩, hport⟩, htakes⟩ := h
    refine ⟨hrun, ?_⟩
    simp only [State.pfcReceived, hhears, htakes, decide_eq_false (Nat.not_lt.2 hport), Bool.not_true, Bool.or_self, Bool.false_eq_true, if_true,
      if_false] <;> rfl

theorem pauseExpiry_holds (port : Fin 44) (cls : Fin 9) : (Row.pauseExpiry port cls).Holds :=
  Clause.holds_of_goRun (fun dt s => (rfl : execPauseExpiry dt port cls s = _)) fun u _ h => by
    simp only [Bool.and_eq_true] at h
    obtain ⟨hrun, hstop⟩ := h
    cases hs : u.stopOf port.val cls.val with
    | none => simp [hs] at hstop
    | some x =>
      simp only [hs, decide_eq_true_eq] at hstop
      exact ⟨hrun, by simp [hstop]⟩

theorem pauseWatchdogTrip_holds (port : Fin 44) (cls : Fin 9) : (Row.pauseWatchdogTrip port cls).Holds :=
  Clause.holds_of_goRun (fun dt s => (rfl : execPauseWatchdogTrip dt port cls s = _)) fun u _ h => by
    simp only [Bool.and_eq_true] at h
    obtain ⟨hrun, hstop⟩ := h
    cases hs : u.stopOf port.val cls.val with
    | none => simp [hs] at hstop
    | some x =>
      simp only [hs, Bool.and_eq_true, decide_eq_true_eq] at hstop
      exact ⟨hrun, by simp [hstop, State.watchdogTrip]⟩

theorem holdOffEnd_holds (port : Fin 44) (cls : Fin 9) : (Row.holdOffEnd port cls).Holds :=
  Clause.holds_of_goRun (fun dt s => (rfl : execHoldOffEnd dt port cls s = _)) fun u _ h => by
    simp only [Bool.and_eq_true] at h
    obtain ⟨hrun, hhold⟩ := h
    cases hs : u.holdOf port.val cls.val with
    | none => simp [hs] at hhold
    | some t =>
      simp only [hs, decide_eq_true_eq] at hhold
      exact ⟨hrun, by simp [hhold, State.endHold]⟩

theorem receiveBufferHigh_holds (port : Fin 44) (fill : Nat) : (Row.receiveBufferHigh port fill).Holds :=
  Clause.holds_of_goRun (fun dt s => (rfl : execReceiveBufferThreshold dt port fill s = _)) fun u _ h => by
    simp only [Bool.and_eq_true, decide_eq_true_eq, Bool.not_eq_true'] at h
    obtain ⟨⟨⟨⟨hrun, hport⟩, hlink⟩, hlow⟩, hfill⟩ := h
    exact ⟨hrun, by simp [State.bufferFill, State.sendPause, Nat.not_lt.2 hport, hlink, hlow, hfill]⟩

theorem receiveBufferLow_holds (port : Fin 44) (fill : Nat) : (Row.receiveBufferLow port fill).Holds :=
  Clause.holds_of_goRun (fun dt s => (rfl : execReceiveBufferThreshold dt port fill s = _)) fun u _ h => by
    simp only [Bool.and_eq_true, decide_eq_true_eq] at h
    obtain ⟨⟨⟨⟨hrun, hport⟩, hlink⟩, hhigh⟩, hfill⟩ := h
    exact ⟨hrun, by simp [State.bufferFill, State.sendPause, Nat.not_lt.2 hport, hlink, hhigh, hfill]⟩

theorem pauseRepeat_holds (port : Fin 44) : (Row.pauseRepeat port).Holds :=
  Clause.holds_of_goRun (fun dt s => (rfl : execPauseRepeat dt port s = _)) fun u _ h => by
    simp only [Bool.and_eq_true, decide_eq_true_eq] at h
    obtain ⟨⟨⟨⟨⟨hrun, hport⟩, hlink⟩, hhigh⟩, hsend⟩, hdue⟩ := h
    exact ⟨hrun, by simp [State.sendPause, hport, hlink, hhigh, hsend, hdue]⟩

/-- Settles O38. -/
theorem flowControlCompletes : Obligations.FlowControlCompletes := by
  unfold Obligations.FlowControlCompletes
  exact ⟨pauseReceived_holds, pfcReceived_holds, pauseExpiry_holds, pauseWatchdogTrip_holds, holdOffEnd_holds, receiveBufferHigh_holds,
    receiveBufferLow_holds, pauseRepeat_holds⟩

/-! ### T1S segments and snapshots (R137–R145) -/

theorem beaconSend_holds (port : Fin 44) : (Row.beaconSend port).Holds :=
  Clause.holds_of_goRun (fun dt s => (rfl : execBeaconSend dt port s = _)) fun u _ h => by
    simp only [Bool.and_eq_true] at h
    obtain ⟨⟨hrun, hplca⟩, hcoord⟩ := h
    exact ⟨hrun, by simp [State.beaconSeen, hplca, hcoord]⟩

theorem beaconSeen_holds (port : Fin 44) : (Row.beaconSeen port).Holds :=
  Clause.holds_of_goRun (fun dt s => (rfl : execBeaconReceived dt port s = _)) fun u _ h => by
    simp only [Bool.and_eq_true, Bool.not_eq_true'] at h
    obtain ⟨⟨⟨hrun, hplca⟩, hpresent⟩, hfollows⟩ := h
    exact ⟨hrun, by simp [State.beaconSeen, hplca, hpresent, hfollows]⟩

theorem beaconConflict_holds (port : Fin 44) : (Row.beaconConflict port).Holds :=
  Clause.holds_of_goRun (fun dt s => (rfl : execBeaconReceived dt port s = _)) fun u _ h => by
    simp only [Bool.and_eq_true] at h
    obtain ⟨⟨⟨hrun, hplca⟩, hpresent⟩, hcoord⟩ := h
    exact ⟨hrun, by simp [State.beaconConflict, hplca, hpresent, hcoord]⟩

theorem beaconTimeout_holds (port : Fin 44) : (Row.beaconTimeout port).Holds :=
  Clause.holds_of_goRun (fun dt s => (rfl : execBeaconTimeout dt port s = _)) fun u _ h => by
    simp only [Bool.and_eq_true, decide_eq_true_eq, Bool.not_eq_true'] at h
    obtain ⟨⟨⟨⟨hrun, hplca⟩, hsilent⟩, hdue⟩, hfollows⟩ := h
    exact ⟨hrun, by simp [State.beaconLost, hplca, hsilent, Nat.not_lt.2 hdue, hfollows]⟩

theorem collision_holds (port : Fin 44) (bits : Nat) : (Row.collision port bits).Holds :=
  Clause.holds_of_goRun (fun dt s => (rfl : execCollision dt port bits s = _)) fun u _ h => by
    simp only [Bool.and_eq_true, decide_eq_true_eq, Option.isSome_iff_exists] at h
    obtain ⟨⟨⟨hrun, hcsma⟩, x, htx⟩, htries⟩ := h
    exact ⟨hrun, by simp [State.collide, htx, hcsma, Nat.not_le.2 htries]⟩

theorem lastCollision_holds (port : Fin 44) (bits : Nat) : (Row.lastCollision port bits).Holds :=
  Clause.holds_of_goRun (fun dt s => (rfl : execCollision dt port bits s = _)) fun u _ h => by
    simp only [Bool.and_eq_true, decide_eq_true_eq, Option.isSome_iff_exists] at h
    obtain ⟨⟨⟨hrun, hcsma⟩, x, htx⟩, htries⟩ := h
    exact ⟨hrun, by simp [State.collide, htx, hcsma, htries]⟩

theorem jabber_holds (port : Fin 44) : (Row.jabber port).Holds :=
  Clause.holds_of_goRun (fun dt s => (rfl : execJabber dt port s = _)) fun u _ h => by
    simp only [Bool.and_eq_true, decide_eq_true_eq] at h
    obtain ⟨⟨hrun, hport⟩, hhears⟩ := h
    exact ⟨hrun, if_pos ⟨hport, hhears⟩⟩

theorem noise_holds (port : Fin 44) : (Row.noise port).Holds :=
  Clause.holds_of_goRun (fun dt s => (rfl : execNoise dt port s = _)) fun u _ h => by
    simp only [Bool.and_eq_true, decide_eq_true_eq] at h
    obtain ⟨⟨hrun, hport⟩, hhears⟩ := h
    exact ⟨hrun, if_pos ⟨hport, hhears⟩⟩

theorem snapshot_holds (sess : Nat) : (Row.snapshot sess).Holds :=
  asWrite_holds (fun _ _ => rfl) fun _ _ t _ => by
    simp [State.setObj, State.putScalar, State.putUpper, State.snapshot]

/-- Settles O39. -/
theorem segmentEventsAndSnapshotsComplete : Obligations.SegmentEventsAndSnapshotsComplete := by
  unfold Obligations.SegmentEventsAndSnapshotsComplete
  exact ⟨beaconSend_holds, beaconSeen_holds, beaconConflict_holds, beaconTimeout_holds, collision_holds, lastCollision_holds, jabber_holds,
    noise_holds, snapshot_holds⟩

end Sys2Proof.Machine
end

section
/-! Chapters 1 and 2: headroom, seconds, couplings and the carriage controller. -/

namespace Sys2Proof.Machine

/-! ### The write of a scalar, by the part of the object map -/

section
variable {s : State} {cfg : State → State} {sess : Nat} {row : ObjRow} {idx sub v : Nat}

theorem State.setObj_control (hidx : idx < 0x3000) (hcursor : idx ≠ 0x1101) (hrs : ¬ (row.acc = .rs ∧ v = 0)) :
    s.setObj cfg sess row idx sub v = s.putControl idx sub v := by
  rw [State.setObj, if_neg (by omega), if_neg hcursor, if_neg (by omega), State.putScalar, if_neg hrs, if_pos hidx]

theorem State.setObj_time (hlow : 0x7000 ≤ idx) (hhigh : idx < 0x8000) (hrs : ¬ (row.acc = .rs ∧ v = 0)) :
    s.setObj cfg sess row idx sub v = s.putTime idx sub v := by
  rw [State.setObj, if_neg (by omega), if_neg (by omega), if_neg (by omega), State.putScalar, if_neg hrs]
  iterate 11 rw [if_neg (by omega)]
  rw [if_pos hhigh]

theorem State.setObj_security (hlow : 0x8000 ≤ idx) (hhigh : idx < 0x9000) (hconfig : idx ≠ 0x8050) (hrs : ¬ (row.acc = .rs ∧ v = 0)) :
    s.setObj cfg sess row idx sub v = s.putSecurity sess idx sub v := by
  rw [State.setObj, if_neg (by omega), if_neg (by omega), if_neg (by omega), State.putScalar, if_neg hrs]
  iterate 12 rw [if_neg (by omega)]
  rw [if_pos hhigh]

theorem State.setObj_upper (hlow : 0x9000 ≤ idx) (htarget : idx ≠ 0xA001) (hrs : ¬ (row.acc = .rs ∧ v = 0)) :
    s.setObj cfg sess row idx sub v = s.putUpper idx sub v := by
  rw [State.setObj, if_neg (by omega), if_neg (by omega), if_neg htarget, State.putScalar, if_neg hrs]
  iterate 13 rw [if_neg (by omega)]

end

/-! ### Headroom, the probe and seconds (O29) -/

theorem headroomWindowEnd_holds (meas : List (Nat × Nat × Nat)) : (Row.headroomWindowEnd meas).Holds :=
  Clause.holds_of_goRun (fun dt s => (rfl : execHeadroomWindowEnd dt meas s = _)) fun u _ h => by
    simp only [Bool.and_eq_true, decide_eq_true_eq] at h
    obtain ⟨hrun, hend⟩ := h
    exact ⟨hrun, if_neg (Nat.not_lt.2 hend)⟩

theorem resetMinima_holds (sess : Nat) : (Row.resetMinima sess).Holds :=
  asWrite_holds (fun _ _ => rfl) fun _ _ t _ => by
    simp [State.setObj, State.putScalar, State.putControl, State.resetMinima]

theorem latencyProbeArm_holds (sess : Nat) : (Row.latencyProbeArm sess).Holds :=
  asWrite_holds (fun _ _ => rfl) fun _ _ t _ => by
    simp [State.setObj, State.putScalar, State.putUpper, State.armProbe]

theorem wholeSecondStart_holds : Row.wholeSecondStart.Holds :=
  Clause.holds_of_goOn (fun dt s => (rfl : execWholeSecondStart dt s = _)) fun u _ h => by
    simp only [Bool.and_eq_true, bne_iff_ne, ne_eq] at h
    obtain ⟨hon, hnew⟩ := h
    exact ⟨hon, if_neg hnew⟩

/-- Settles O29. -/
theorem headroomProbeAndSecondsComplete : Obligations.HeadroomProbeAndSecondsComplete := by
  unfold Obligations.HeadroomProbeAndSecondsComplete
  exact ⟨headroomWindowEnd_holds, resetMinima_holds, latencyProbeArm_holds, wholeSecondStart_holds⟩

/-! ### Couplings (O30) -/

theorem requestAccepted_holds (r t : Fin 47) (tag : Byte) (op : CouplingOp) : (Row.requestAccepted r t tag op).Holds :=
  Clause.holds_of_goOn (fun dt s => (rfl : execCouplingRequest dt r t tag op s = _)) fun u _ h => by
    simp only [Bool.and_eq_true] at h
    obtain ⟨hon, hpresent⟩ := h
    have hstate : u.carState t.val = stPresent := beq_iff_eq.1 hpresent
    exact ⟨hon, by simp [State.request, hstate, stPresent, stDraining]⟩

theorem requestAbsent_holds (r t : Fin 47) (tag : Byte) (op : CouplingOp) : (Row.requestAbsent r t tag op).Holds :=
  Clause.holds_of_goOn (fun dt s => (rfl : execCouplingRequest dt r t tag op s = _)) fun u _ h => by
    simp only [Bool.and_eq_true, beq_iff_eq] at h
    obtain ⟨hon, hstate⟩ := h
    exact ⟨hon, by simp [State.request, hstate, stPresent, stDraining, stFenced, stSpareIdle]⟩

/-- A request done while no sequence runs leaves the coupling alone changed. -/
theorem State.requestDone_of_idle {u : State} (h : u.car.seqs = []) (q : CReq) (t : Nat) :
    u.requestDone q t = u.withCar fun c => { c with reqs := c.reqs.erase q } := by
  simp [State.requestDone, State.withCar, h]

theorem couplingAcknowledge_holds (r t : Fin 47) (tag : Byte) (status : Fin 4) : (Row.couplingAcknowledge r t tag status).Holds :=
  Clause.holds_of_goOn (fun dt s => (rfl : execCouplingAcknowledge dt r t tag status s = _)) fun u _ h => by
    simp only [Bool.and_eq_true, Bool.not_eq_true', bne_iff_ne, ne_eq, beq_iff_eq] at h
    obtain ⟨⟨⟨⟨⟨hon, hserves⟩, hst⟩, hidle⟩, hacks⟩, hreq⟩ := h
    have hnone : (u.car.acks.find? fun a => a.requester == r.val && a.responder == t.val && a.tag == tag.toNat) = none :=
      List.find?_eq_none.2 fun a ha => List.any_eq_false.1 hacks a ha
    refine ⟨hon, ?_⟩
    cases hq : u.car.reqs.find? fun q => q.requester == r.val && q.target == t.val && q.tag == tag.toNat && !q.held with
    | none => simp [hq] at hreq
    | some q =>
      have hepoch : q.epoch = u.epoch r.val := by simpa [hq] using hreq
      rw [State.acknowledge_accepted_of_serving (.inl hserves) hnone hst hq, if_pos hepoch, hepoch, State.requestDone_of_idle hidle]

/-- Settles O30. -/
theorem couplingsAnswerRequests : Obligations.CouplingsAnswerRequests := by
  unfold Obligations.CouplingsAnswerRequests
  exact ⟨requestAccepted_holds, requestAbsent_holds, couplingAcknowledge_holds⟩

/-! ### Carriage commands (O31) -/

/-- A field of a scalar that was just stored, read behind a lock taken. -/
theorem State.stored_rdF {u : State} (h : u.canonical) {sess i a v : Nat} (hv : v < 2 ^ 64) (j hi lo : Nat) :
    ((u.stored sess i a v).taken sess j).rdF i a hi lo = fld v hi lo := by
  rw [State.rdF, State.taken_rd, State.stored_rd h, Nat.mod_eq_of_lt hv]

/-- The fields of the command word (Table 2.7). -/
theorem carriageWord_fields {n act unit : Nat} (hn : n < 256) (hact : act < 16) (hunit : unit < 16) :
    let v := n + 256 * act + 65536 * unit
    v < 2 ^ 64 ∧ fld v 7 0 = n ∧ fld v 11 8 = act ∧ fld v 19 16 = unit := by
  simp only [fld]
  refine ⟨?_, ?_, ?_, ?_⟩ <;> omega

/-- A carriage command that the carriage takes (R51–R54): the controller's work for carriage, action and unit. -/
theorem carriageStart_holds {cmd : Nat → Instr} {sess n act unit : Nat} {ok : State → Bool} {eff : State → State}
    (hcmd : ∀ dt s, exec (cmd dt) s = goCarriage dt sess n act unit s) (hn : n < 256) (hact : act < 16) (hunit : unit < 16)
    (heff : ∀ t : State, t.canonical → t.rdF 0x2020 1 7 0 = n → t.rdF 0x2020 1 11 8 = act → t.rdF 0x2020 1 19 16 = unit → ok t = true →
      t.carriageCommand = eff t) :
    (asStart cmd sess (Row.carriageWord n act unit) 0x2020 2 eff ok).Holds :=
  asStart_holds hcmd (setObj_words (by simp only [Row.carriageWord, List.map_cons, List.map_nil]; decide)) fun row _ u hcan hok => by
    obtain ⟨hv, hn, hact, hunit⟩ := carriageWord_fields hn hact hunit
    have hfield := State.stored_rdF hcan (sess := sess) (i := 0x2020) (a := 1) hv 0x2020
    rw [← heff ((u.storedAll sess (Row.carriageWord n act unit)).taken sess 0x2020)
      (State.taken_canonical (State.storedAll_canonical _ hcan) sess 0x2020) ((hfield 7 0).trans hn) ((hfield 11 8).trans hact)
      ((hfield 19 16).trans hunit) hok, State.setObj_control (by decide) (by decide) not_one_zero]
    rfl

/-- A command that fits goes by its action to what it begins; action 5 keeps its own order. -/
theorem State.carriageCommand_taken {t : State} {n act unit : Nat} (hn : t.rdF 0x2020 1 7 0 = n) (hact : t.rdF 0x2020 1 11 8 = act)
    (hunit : t.rdF 0x2020 1 19 16 = unit) (hok : t.commandAnswer n act unit = 0) (hretire : act ≠ 5) :
    t.carriageCommand =
      if act = 0 then Row.drains n .reset 0 t
      else if act = 1 then Row.drains n .powerDown 2 t
      else if act = 2 then (Row.begun n t).startSeq n .powerUp .acting 2 0 0 0 true false
      else if act = 3 then
        if (Row.begun n t).present n then Row.drains n .test 3 t else (Row.begun n t).startSeq n .test .acting 3 0 0 0 true false
      else if act = 6 then (Row.begun n t).startSeq n .bringBack .acting 5 0 0 0 true false
      else if n ≤ 10 then
        match (Row.begun n t).spareBank with
        | some k =>
          let t := if (Row.begun n t).testsCarriage k then (Row.begun n t).abandonTest else Row.begun n t
          (t.lastReason n 4).startSeq n .bankSwap .copying 4 0 0 k true (Decidable.decide (4 ≤ t.placesUsed))
        | none => Row.begun n t
      else if n ≤ 27 then ((Row.begun n t).swapEngine n unit 4).endCommand n 0
      else
        match (Row.begun n t).claimSpare n with
        | (some k, t) => t.swapController n unit 4 k true
        | (none, t) => t := by
  simp only [State.carriageCommand, hn, hact, hunit, hok]
  rw [if_neg (by decide), if_neg hretire]
  simp only [Row.drains, Row.begun, State.present, beq_iff_eq]
  rfl

/-- A command that begins leaves the carriage's state as it was. -/
theorem begun_present {t : State} (h : t.canonical) (n m : Nat) : (Row.begun n t).present m = t.present m := by
  have hkey : regKey (0x2200 + m) 1 ≠ regKey 0x2020 3 := by
    simp only [regKey]
    omega
  have hrd : (Row.begun n t).rd (0x2200 + m) 1 = t.rd (0x2200 + m) 1 := State.rd_wr_ne h.1 1 hkey
  simp [State.present, State.carState, State.rdF, hrd]

section
variable (sess : Nat) (n : Fin 47)

theorem carriageReset_holds : (Row.carriageReset sess n).Holds :=
  carriageStart_holds (fun dt s => (rfl : execCarriageReset dt sess n s = _)) (by omega) (by decide) (by decide)
    fun t _ hn hact hunit hok => (State.carriageCommand_taken hn hact hunit (beq_iff_eq.1 hok) (by decide)).trans (by simp)

theorem carriagePowerDown_holds : (Row.carriagePowerDown sess n).Holds :=
  carriageStart_holds (fun dt s => (rfl : execCarriagePowerDown dt sess n s = _)) (by omega) (by decide) (by decide)
    fun t _ hn hact hunit hok => (State.carriageCommand_taken hn hact hunit (beq_iff_eq.1 hok) (by decide)).trans (by simp)

theorem carriagePowerUp_holds : (Row.carriagePowerUp sess n).Holds :=
  carriageStart_holds (fun dt s => (rfl : execCarriagePowerUp dt sess n s = _)) (by omega) (by decide) (by decide)
    fun t _ hn hact hunit hok => (State.carriageCommand_taken hn hact hunit (beq_iff_eq.1 hok) (by decide)).trans (by simp)

theorem carriageSelfTest_holds : (Row.carriageSelfTest sess n).Holds :=
  carriageStart_holds (fun dt s => (rfl : execCarriageSelfTest dt sess n s = _)) (by omega) (by decide) (by decide)
    fun t hcan hn hact hunit hok => by
      rw [State.carriageCommand_taken hn hact hunit (beq_iff_eq.1 hok) (by decide), begun_present hcan]
      rfl

theorem returnRouteBank_holds : (Row.returnRouteBank sess n).Holds :=
  carriageStart_holds (fun dt s => (rfl : execReturnRouteBank dt sess n s = _)) (by omega) (by decide) (by decide)
    fun t _ hn hact hunit hok => (State.carriageCommand_taken hn hact hunit (beq_iff_eq.1 hok) (by decide)).trans (by simp)

theorem retireRouteBank_holds : (Row.retireRouteBank sess n).Holds :=
  carriageStart_holds (fun dt s => (rfl : execRetireRouteBank dt sess n s = _)) (by omega) (by decide) (by decide)
    fun t _ hn hact hunit hok => by
      have hok : t.commandAnswer n.val 5 0 = 0 := beq_iff_eq.1 (Bool.and_eq_true_iff.1 hok).1
      simp only [State.carriageCommand, hn, hact, hunit, hok]
      rfl

theorem swapEngineUnit_holds (unit : Fin 16) : (Row.swapEngineUnit sess n unit).Holds :=
  carriageStart_holds (fun dt s => (rfl : execSwapToSpare dt sess n unit s = _)) (by omega) (by decide) (by omega)
    fun t _ hn hact hunit hok => by
      simp only [Bool.and_eq_true, decide_eq_true_eq, beq_iff_eq] at hok
      obtain ⟨⟨hlow, hhigh⟩, hok⟩ := hok
      rw [State.carriageCommand_taken hn hact hunit hok (by decide)]
      simp [hhigh, Nat.not_le.2 (show 10 < n.val by omega)]

theorem swapBank_holds (unit : Fin 16) : (Row.swapBank sess n unit).Holds :=
  carriageStart_holds (fun dt s => (rfl : execSwapToSpare dt sess n unit s = _)) (by omega) (by decide) (by omega)
    fun t _ hn hact hunit hok => by
      simp only [Bool.and_eq_true, decide_eq_true_eq, beq_iff_eq] at hok
      obtain ⟨hbank, hok⟩ := hok
      rw [State.carriageCommand_taken hn hact hunit hok (by decide)]
      cases hspare : (Row.begun n.val t).spareBank <;> simp [hbank, hspare]

end

/-- Settles O31. -/
theorem carriageCommandsBegin : Obligations.CarriageCommandsBegin := by
  unfold Obligations.CarriageCommandsBegin
  exact ⟨carriageReset_holds, carriagePowerDown_holds, carriagePowerUp_holds, carriageSelfTest_holds, swapEngineUnit_holds, swapBank_holds,
    retireRouteBank_holds, returnRouteBank_holds⟩

/-! ### Sequences (O32) -/

/-- An event that ends a phase of a carriage's sequence. -/
theorem ofPhase_holds {cmd : Nat → Instr} {n : Nat} {ph : SeqPhase} {ok : State → CarSeq → Bool} {f g : State → CarSeq → State}
    (hcmd : ∀ dt s, exec (cmd dt) s = goOn dt (fun s => s.inPhase n ph g) s)
    (heff : ∀ u q, ok u q = true → g u q = f u q) : (Row.ofPhase cmd n ph ok f).Holds :=
  Clause.holds_of_goOn hcmd fun u _ h => by
    simp only [Bool.and_eq_true] at h
    obtain ⟨hon, hseq⟩ := h
    refine ⟨hon, ?_⟩
    cases hq : u.seqOf n with
    | none => simp [hq] at hseq
    | some q =>
      simp only [hq, Bool.and_eq_true, beq_iff_eq] at hseq
      obtain ⟨hphase, hok⟩ := hseq
      simp [State.inPhase, hq, hphase, heff u q hok]

theorem drainComplete_holds (n : Fin 47) : (Row.drainComplete n).Holds :=
  ofPhase_holds (fun dt s => (rfl : execDrainComplete dt n s = _)) fun _ _ h => if_neg (by simpa using h)

theorem drainLimitExpiry_holds (n : Fin 47) : (Row.drainLimitExpiry n).Holds :=
  ofPhase_holds (fun dt s => (rfl : execDrainLimitExpiry dt n s = _)) fun _ _ h => if_pos (of_decide_eq_true h)

theorem carriageActionEnd_holds (n : Fin 47) (pass : Bool) (failed : List Nat) : (Row.carriageActionEnd n pass failed).Holds :=
  ofPhase_holds (fun dt s => (rfl : execCarriageActionEnd dt n pass failed s = _)) fun _ _ _ => rfl

theorem queuedSequenceStart_holds : Row.queuedSequenceStart.Holds :=
  Clause.holds_of_goOn (fun dt s => (rfl : execQueuedSequenceStart dt s = _)) fun _ _ h => ⟨(Bool.and_eq_true_iff.1 h).1, rfl⟩

theorem cellBankCopyEnd_holds (n : Fin 47) : (Row.cellBankCopyEnd n).Holds :=
  ofPhase_holds (fun dt s => (rfl : execCellBankCopyEnd dt n s = _)) fun _ _ h => if_pos (beq_iff_eq.1 h)

theorem edgeSwapCopyEnd_holds (n : Fin 47) (unit : Fin 16) : (Row.edgeSwapCopyEnd n unit).Holds :=
  ofPhase_holds (fun dt s => (rfl : execEdgeSwapCopyEnd dt n unit s = _)) fun _ _ h => if_pos (by simpa using h)

theorem edgeSwapIntegrated_holds (n : Fin 47) (unit : Fin 16) : (Row.edgeSwapIntegrated n unit).Holds :=
  ofPhase_holds (fun dt s => (rfl : execEdgeSwapIntegrated dt n unit s = _)) fun _ _ h => if_pos (beq_iff_eq.1 h)

theorem retirementShuntEnd_holds (n : Fin 47) : (Row.retirementShuntEnd n).Holds :=
  ofPhase_holds (fun dt s => (rfl : execRetirementShuntEnd dt n s = _)) fun _ _ _ => rfl

/-- Settles O32. -/
theorem carriageSequencesProceed : Obligations.CarriageSequencesProceed := by
  unfold Obligations.CarriageSequencesProceed
  exact ⟨drainComplete_holds, drainLimitExpiry_holds, carriageActionEnd_holds, queuedSequenceStart_holds, cellBankCopyEnd_holds,
    edgeSwapCopyEnd_holds, edgeSwapIntegrated_holds, retirementShuntEnd_holds⟩

/-! ### Error counts and self-tests (O33) -/

/-- A corrected error of a unit that serves in a carriage with spares (R57): the counts, and the swap at the threshold. -/
theorem State.corrected_of_serving {s : State} {n u : Nat} (hcar : swapCarriage n = true)
    (hserves : (s.bump (0x2200 + n) 7 1).unitServes n u = true) :
    s.corrected n u =
      let th := (s.bump (0x2200 + n) 7 1).rdF (0x2200 + n) 8 15 0
      let k := mapGetD (s.bump (0x2200 + n) 7 1).car.unitErr (unitKey n u) 0 + 1
      if th ≠ 0 ∧ th ≤ k ∧ !(Row.noted s n u).swapUnderway n u then (Row.noted s n u).swapUnit n u 7 else Row.noted s n u := by
  have hgroup : (2 ≤ n ∧ n ≤ 10) ∨ (23 ≤ n ∧ n ≤ 27) ∨ (32 ≤ n ∧ n ≤ 37) := by
    simpa [swapCarriage, or_assoc] using hcar
  simp only [State.corrected, hserves, hgroup]
  rfl

theorem correctedError_holds (n : Fin 47) (unit : Fin 18) : (Row.correctedError n unit).Holds :=
  Clause.holds_of_goOn (fun dt s => (rfl : execCorrectedError dt n unit s = _)) fun u _ h => by
    simp only [Bool.and_eq_true, Bool.or_eq_true, beq_iff_eq, decide_eq_true_eq] at h
    obtain ⟨⟨⟨hon, hcar⟩, hserves⟩, hbelow⟩ := h
    rw [State.corrected_of_serving hcar hserves]
    exact ⟨hon, if_neg fun ⟨hset, hreach, _⟩ => by omega⟩

theorem correctedErrorSwaps_holds (n : Fin 47) (unit : Fin 18) : (Row.correctedErrorSwaps n unit).Holds :=
  Clause.holds_of_goOn (fun dt s => (rfl : execCorrectedError dt n unit s = _)) fun u _ h => by
    simp only [Bool.and_eq_true, bne_iff_ne, decide_eq_true_eq] at h
    obtain ⟨⟨⟨⟨⟨hon, hcar⟩, hserves⟩, hset⟩, hreach⟩, hfree⟩ := h
    rw [State.corrected_of_serving hcar hserves]
    exact ⟨hon, if_pos ⟨hset, hreach, hfree⟩⟩

theorem errorCountDecay_holds : Row.errorCountDecay.Holds :=
  Clause.holds_of_goOn (fun dt s => (rfl : execErrorCountDecay dt s = _)) fun u _ h => by
    simp only [Bool.and_eq_true, decide_eq_true_eq] at h
    obtain ⟨hon, hdue⟩ := h
    exact ⟨hon, if_neg (Nat.not_lt.2 hdue)⟩

theorem selfTestSlot_holds : Row.selfTestSlot.Holds :=
  Clause.holds_of_goOn (fun dt s => (rfl : execSelfTestSlot dt s = _)) fun u _ h => by
    simp only [Bool.and_eq_true, decide_eq_true_eq, bne_iff_ne, ne_eq, Option.isNone_iff_eq_none] at h
    obtain ⟨⟨⟨⟨hon, henabled⟩, hnone⟩, hplaces⟩, hdue⟩ := h
    refine ⟨hon, ?_⟩
    unfold State.testSlot
    rw [if_neg (by simp [henabled, hnone, hplaces]), if_neg (Nat.not_lt.2 hdue)]
    cases u.eligiblePlaces.find? fun i => u.car.testPos ≤ i <;> simp

theorem unitTestPasses_holds : Row.unitTestPasses.Holds :=
  Clause.holds_of_goOn (fun dt s => (rfl : execSelfTestEnd dt true s = _)) fun u _ h => by
    simp only [Bool.and_eq_true] at h
    obtain ⟨hon, hunit⟩ := h
    refine ⟨hon, ?_⟩
    cases ht : u.car.test with
    | none => simp [ht] at hunit
    | some x =>
      have hunit : x.unit ≠ 255 := by simpa [ht] using hunit
      simp [State.testDone, ht, hunit]

theorem unitTestFails_holds : Row.unitTestFails.Holds :=
  Clause.holds_of_goOn (fun dt s => (rfl : execSelfTestEnd dt false s = _)) fun u _ h => by
    simp only [Bool.and_eq_true] at h
    obtain ⟨hon, hunit⟩ := h
    refine ⟨hon, ?_⟩
    cases ht : u.car.test with
    | none => simp [ht] at hunit
    | some x =>
      have hunit : x.unit ≠ 255 := by simpa [ht] using hunit
      simp [State.testDone, ht, hunit]

/-- Settles O33. -/
theorem errorCountsAndSelfTestsComplete : Obligations.ErrorCountsAndSelfTestsComplete := by
  unfold Obligations.ErrorCountsAndSelfTestsComplete
  exact ⟨correctedError_holds, correctedErrorSwaps_holds, errorCountDecay_holds, selfTestSlot_holds, unitTestPasses_holds,
    unitTestFails_holds⟩

end Sys2Proof.Machine
end

section
/-! Chapters 3 and 4: queues, frames, flushes, the sweep, and the route store. -/

namespace Sys2Proof.Machine

/-! ### What the errors of a read leave alone -/

section
variable (s : State) (e : ReadErrs)

@[simp] theorem State.meetErrs_present (n : Nat) : (s.meetErrs e).present n = s.present n := rfl

@[simp] theorem State.meetErrs_ingressQ (p : Nat) : (s.meetErrs e).ingressQ p = s.ingressQ p := rfl

@[simp] theorem State.meetErrs_awake : (s.meetErrs e).awake = s.awake := rfl

variable (id : Nat)

@[simp] theorem State.modFrame_rd (g : Frame → Frame) (i a : Nat) : (s.modFrame id g).rd i a = s.rd i a := by
  unfold State.modFrame
  split <;> rfl

@[simp] theorem State.modFrame_ingressQ (g : Frame → Frame) (p : Nat) : (s.modFrame id g).ingressQ p = s.ingressQ p := by
  unfold State.modFrame
  split <;> rfl

@[simp] theorem State.meetCell_ingressQ (p : Nat) : (s.meetCell id e).ingressQ p = s.ingressQ p := by
  unfold State.meetCell State.markPoison
  split
  · exact State.modFrame_ingressQ ..
  · rfl

end

theorem State.meetErrs_canonical {s : State} (h : s.canonical) (e : ReadErrs) : (s.meetErrs e).canonical := h

/-- A poisoned cell changes the state of no carriage. -/
theorem State.meetCell_present {s : State} (h : s.canonical) (id : Nat) (e : ReadErrs) (n : Nat) :
    (s.meetCell id e).present n = s.present n := by
  have hkey : regKey (0x2200 + n) 1 ≠ regKey 0x2060 7 := by
    simp only [regKey]
    omega
  unfold State.meetCell State.markPoison
  split
  · simp only [State.present, State.carState, State.rdF, State.modFrame_rd]
    rw [State.bump, State.rd_wr_ne h.1 _ hkey]
  · rfl

/-! ### Items -/

/-- The fields of an item (Table 3.1). -/
theorem itemWord_fields {typ x : Nat} (ht : typ < 8) : (itemWord typ x).toNat = typ * 2 ^ 32 + x % 2 ^ 32 := by
  have := Nat.mod_lt x (show 0 < 2 ^ 32 by decide)
  rw [itemWord, BitVec.toNat_ofNat, Nat.mod_eq_of_lt (by omega)]

/-- A write to a port that hears, behind the forwarding point and with its ingress group in service. -/
theorem State.writeItem_heard {s : State} {p : Nat} {w : BitVec 36} {e : ReadErrs} (hcan : s.canonical) (hhears : s.hears p = true)
    (hfwd : s.startup.forwarding = true) (hgroup : s.present (ingressGroup p) = true) :
    s.writeItem p w e =
      match (s.ingressQ p).cur with
      | some id => ((s.meetErrs e).meetCell id e).takeItem p w
      | none => (s.meetErrs e).takeItem p w := by
  have hgroup' : (s.meetErrs e).present (ingressGroup p) = true := hgroup
  have hcell (id : Nat) : ((s.meetErrs e).meetCell id e).present (ingressGroup p) = true := by
    rw [State.meetCell_present (s := s.meetErrs e) hcan]
    exact hgroup
  cases hq : (s.ingressQ p).cur <;> simp [State.writeItem, hhears, hfwd, hq, State.putItem, hgroup', hcell]

theorem startItem_holds (port : Fin 160) (domain : Fin 64) (cls : Fin 8) (errs : ReadErrs) : (Row.startItem port domain cls errs).Holds :=
  Clause.holds_of_goPort (fun dt s => (rfl : execQueueItemWrite dt port _ errs s = _)) fun u hcan h => by
    simp only [Bool.and_eq_true, Option.isNone_iff_eq_none] at h
    obtain ⟨⟨⟨⟨⟨hrun, hport⟩, hhears⟩, hfwd⟩, hgroup⟩, hidle⟩ := h
    refine ⟨hport, hrun, ?_⟩
    have hd := domain.isLt
    have hc := cls.isLt
    have hword : (itemWord 1 (domain.val * 4096 + cls.val * 512)).toNat = 2 ^ 32 + (domain.val * 4096 + cls.val * 512) := by
      rw [itemWord_fields (by decide)]
      omega
    have hdomain : fld (domain.val * 4096 + cls.val * 512) 17 12 = domain.val := by
      simp only [fld]
      omega
    have hcls : fld (domain.val * 4096 + cls.val * 512) 11 9 = cls.val := by
      simp only [fld]
      omega
    rw [State.writeItem_heard hcan hhears hfwd hgroup, hidle]
    simp only [State.takeItem, hword]
    rw [if_neg (by omega), if_pos (by omega), show (2 ^ 32 + (domain.val * 4096 + cls.val * 512)) % 2 ^ 32 = domain.val * 4096 + cls.val * 512 by omega,
      hdomain, hcls]
    cases heth : isEth port.val <;> simp [State.startFrame, hidle, heth]

/-- An item of another kind goes to the frame that is being written. -/
theorem State.takeItem_later {s : State} {p id typ x : Nat} (hcur : (s.ingressQ p).cur = some id) (ht : typ < 5) (hstart : typ ≠ 1)
    (hx : x < 2 ^ 32) :
    s.takeItem p (itemWord typ x) =
      if typ = 2 then s.modFrame id fun f =>
        { f with stamp := x, age := if 44 ≤ p ∧ p ≤ 46 then f.age else s.nsNow - (compact s.nsNow + 2 ^ 32 - x) % 2 ^ 32 }
      else if typ = 4 then s.modFrame id fun f => { f with metaWord := some x }
      else if typ = 3 then s.takeEnd p id (x / 2 ^ 18) (fld x 15 8 % 4)
      else s.storeWord p id x := by
  have hword : (itemWord typ x).toNat = typ * 2 ^ 32 + x := by
    rw [itemWord_fields (by omega), Nat.mod_eq_of_lt hx]
  simp only [State.takeItem, hword, hcur]
  rw [if_neg (by omega), show (typ * 2 ^ 32 + x) / 2 ^ 32 % 8 = typ by omega, show (typ * 2 ^ 32 + x) % 2 ^ 32 = x by omega, if_neg hstart]

theorem laterItem_holds (port : Fin 160) (typ : Fin 4) (x : BitVec 32) (errs : ReadErrs) : (Row.laterItem port typ x errs).Holds :=
  Clause.holds_of_goPort (fun dt s => (rfl : execQueueItemWrite dt port _ errs s = _)) fun u hcan h => by
    simp only [Bool.and_eq_true, Option.isSome_iff_exists] at h
    obtain ⟨⟨⟨⟨⟨hrun, hport⟩, hhears⟩, hfwd⟩, hgroup⟩, id, hcur⟩ := h
    refine ⟨hport, hrun, ?_⟩
    have hcur' : (((u.meetErrs errs).meetCell id errs).ingressQ port.val).cur = some id := by simpa using hcur
    have hlater (n : Nat) (hn : n < 5) (hstart : n ≠ 1) := State.takeItem_later hcur' hn hstart x.isLt
    rw [State.writeItem_heard hcan hhears hfwd hgroup, hcur]
    match typ with
    | 0 => exact hlater 0 (by decide) (by decide)
    | 1 => exact hlater 2 (by decide) (by decide)
    | 2 => exact hlater 3 (by decide) (by decide)
    | 3 => exact hlater 4 (by decide) (by decide)

theorem queuePop_holds (port : Fin 160) : (Row.queuePop port).Holds :=
  Clause.holds_of_goPort (fun dt s => (rfl : execQueuePop dt port s = _)) fun u _ h => by
    simp only [Bool.and_eq_true, Bool.or_eq_true, beq_iff_eq] at h
    obtain ⟨hrun, hdirect⟩ := h
    have hport : portOk port.val = true := by
      have : port.val ≤ 46 := by omega
      simp [portOk, this]
    exact ⟨hport, hrun, if_pos hdirect⟩

/-! ### Whole frames and early release -/

theorem ethernetFrameEnd_holds (port : Fin 44) (tail : List Byte) (domain : Fin 64) (cls : Fin 8) (ago : Nat) (node : Byte) (pcs : Bool)
    (errs : ReadErrs) : (Row.ethernetFrameEnd port tail domain cls ago node pcs errs).Holds :=
  Clause.holds_of_goRun (fun dt s => (rfl : execEthernetFrameEnd dt port tail domain cls ago node pcs errs s = _)) fun u _ h => by
    simp only [Bool.and_eq_true, Bool.not_eq_true', Option.isNone_iff_eq_none] at h
    obtain ⟨⟨⟨⟨⟨⟨⟨hrun, hhears⟩, hfwd⟩, hidle⟩, hskip⟩, hgroup⟩, -⟩, -⟩ := h
    exact ⟨hrun, by simp [State.frameEnd, hhears, hfwd, hidle, hskip, hgroup] <;> rfl⟩

theorem cutThroughRelease_holds (port : Fin 160) (errs : ReadErrs) : (Row.cutThroughRelease port errs).Holds :=
  Clause.holds_of_goPort (fun dt s => (rfl : execCutThroughRelease dt port errs s = _)) fun u _ h => by
    simp only [Bool.and_eq_true] at h
    obtain ⟨⟨⟨⟨⟨hrun, hport⟩, hhears⟩, hfwd⟩, hgroup⟩, hready⟩ := h
    refine ⟨hport, hrun, ?_⟩
    rw [hhears, hfwd, hgroup]
    cases hcur : (u.ingressQ port.val).cur with
    | none => simp [hcur] at hready
    | some id =>
      cases hframe : (u.meetErrs errs).frame? id with
      | none => simp [hcur, hframe] at hready
      | some f =>
        simp only [State.meetErrs_ingressQ, hcur, hframe, Bool.and_eq_true, Bool.not_eq_true', bne_iff_ne, ne_eq, Option.isNone_iff_eq_none,
          decide_eq_true_eq] at hready
        obtain ⟨⟨⟨⟨⟨hreleased, hheld⟩, hset⟩, hflush⟩, hcells⟩, hreserve⟩ := hready
        simp [State.releaseEarly, hcur, hframe, hreleased, hheld, hset, hflush, Nat.not_lt.2 hcells, Nat.not_lt.2 hreserve]

/-! ### Flushes, sweep, waiting copies -/

theorem queueFlush_holds (sess port : Nat) (delivery : Bool) : (Row.queueFlush sess port delivery).Holds :=
  asStart_holds (fun dt s => (rfl : execQueueFlush dt sess port delivery s = _)) (setObj_words (by simp only [List.map_cons, List.map_nil]; decide))
    fun row _ u _ hok => by
      simp only [Bool.not_eq_true'] at hok
      rw [State.setObj_control (by decide) (by decide) not_one_zero]
      simp [State.putControl, State.flushStart, hok]

theorem flushDeferredEffect_holds : Row.flushDeferredEffect.Holds :=
  Clause.holds_of_goOn (fun dt s => (rfl : execFlushDeferredEffect dt s = _)) fun u _ h => by
    simp only [Bool.and_eq_true] at h
    obtain ⟨hon, hdue⟩ := h
    refine ⟨hon, ?_⟩
    cases hf : u.buf.flush with
    | none => simp [hf] at hdue
    | some w =>
      simp only [hf, Bool.not_eq_true'] at hdue
      simp [State.flushDue, hf, hdue]

theorem ageSweep_holds (group : Fin 2) : (Row.ageSweep group).Holds :=
  Clause.holds_of_goRun (fun dt s => (rfl : execAgeSweep dt group s = _)) fun u _ h => by
    simp only [Bool.and_eq_true] at h
    exact ⟨h.1, if_pos h.2⟩

theorem waitingCopyTaken_holds (port : Fin 160) : (Row.waitingCopyTaken port).Holds :=
  Clause.holds_of_goPort (fun dt s => (rfl : execWaitingCopyTaken dt port s = _)) fun u _ h => by
    simp only [Bool.and_eq_true] at h
    obtain ⟨⟨hrun, hport⟩, hgroup⟩ := h
    exact ⟨hport, hrun, if_pos hgroup⟩

theorem resetLeastFree_holds (sess : Nat) : (Row.resetLeastFree sess).Holds :=
  asWrite_holds (fun _ _ => rfl) fun _ _ t _ => by
    rw [State.setObj_control (by decide) (by decide) not_one_zero]
    rfl

/-- Settles O34. -/
theorem queuesAndSweepsComplete : Obligations.QueuesAndSweepsComplete := by
  unfold Obligations.QueuesAndSweepsComplete
  exact ⟨startItem_holds, laterItem_holds, queuePop_holds, ethernetFrameEnd_holds, cutThroughRelease_holds, queueFlush_holds,
    flushDeferredEffect_holds, ageSweep_holds, waitingCopyTaken_holds, resetLeastFree_holds⟩

/-! ### The route store (O35) -/

/-- The start of an action of the route store after the errors of its reads. -/
theorem startAfterErrs {dt sess idx sub : Nat} {words : List (Nat × Nat × Nat)} {errs : ReadErrs} {s : State}
    (hl : (words.map fun w => (w.1, w.2.1)).all (fun w => Row.plainScalar w.1 w.2) = true)
    (htakes : ((s.advance dt).meetErrs errs).takesAll sess (words ++ [(idx, sub, 1)]) = true) :
    ∃ row, goOn dt (fun s => (s.meetErrs errs).putsAll sess (words ++ [(idx, sub, 1)])) s = (s.advance dt).done
      ((((s.advance dt).meetErrs errs).storedAll sess words).did sess idx fun t => t.setObj State.configStart sess row idx sub 1) := by
  obtain ⟨hon, hputs, hlast⟩ := takesAll_asks words htakes (setObj_words hl)
  obtain ⟨row, -, -, hdid⟩ := takes_puts hlast
  exact ⟨row, by rw [goOn_done hon, hputs, hdid]⟩

/-- The last word stored before a start is read back, field by field, behind the lock that the start takes. -/
theorem State.storedAll_rdF {u : State} (h : u.canonical) {sess i a v : Nat} (hv : v < 2 ^ 64) (words : List (Nat × Nat × Nat)) (j hi lo : Nat) :
    ((u.storedAll sess (words ++ [(i, a, v)])).taken sess j).rdF i a hi lo = fld v hi lo := by
  rw [storedAll_append]
  exact State.stored_rdF (State.storedAll_canonical words h) hv j hi lo

/-- The start of an entry command goes to the route store. -/
theorem State.setObj_entryCommand {cfg : State → State} {s : State} {sess : Nat} {row : ObjRow} :
    s.setObj cfg sess row 0x5010 7 1 = s.entryCommand := by
  rw [State.setObj, if_neg (by decide), if_neg (by decide), if_neg (by decide), State.putScalar, if_neg not_one_zero]
  rfl

/-- An entry command of an operation, by what the store does for it. -/
theorem entryRow_holds {cmd : Nat → Instr} {sess op : Nat} {entry : BitVec 142} {errs : ReadErrs} {act : State → State} {ok : State → Bool}
    (hcmd : ∀ dt s, exec (cmd dt) s = goEntry dt sess op 0 entry errs s) (hop : op < 8)
    (heff : ∀ t : State, t.rdF 0x5010 6 2 0 = op → ok t = true → t.entryCommand = act t) :
    (Row.entryRow cmd sess op entry errs act ok).Holds := by
  intro dt s hcan h
  simp only [Row.entryRow, Bool.and_eq_true] at h ⊢
  obtain ⟨htakes, hok⟩ := h
  obtain ⟨row, hstart⟩ := startAfterErrs (by simp only [Row.entryWords, List.map_append, List.map_cons, List.map_nil]; decide) htakes
  have hfield : fld op 2 0 = op := by
    simp only [fld]
    omega
  have hread := State.storedAll_rdF (State.meetErrs_canonical (State.advance_canonical dt hcan) errs) (sess := sess) (i := 0x5010)
    (a := 6) (v := op) (by omega) (Row.entryWords entry.toNat) 0x5010 2 0
  refine (hcmd dt s).trans (hstart.trans ?_)
  rw [State.did, State.did, State.setObj_entryCommand, heff _ (hread.trans hfield) hok]

theorem entryReadByKey_holds (sess : Nat) (entry : BitVec 142) (errs : ReadErrs) : (Row.entryReadByKey sess entry errs).Holds :=
  entryRow_holds (fun dt s => (rfl : execEntryReadByKey dt sess entry errs s = _)) (by decide) fun t hop _ => by
    rw [State.entryCommand, hop]
    rfl

theorem entryInsert_holds (sess : Nat) (entry : BitVec 142) (errs : ReadErrs) : (Row.entryInsert sess entry errs).Holds :=
  entryRow_holds (fun dt s => (rfl : execEntryInsert dt sess entry errs s = _)) (by decide) fun t hop hok => by
    simp only [Bool.and_eq_true, Bool.not_eq_true'] at hok
    simp [State.entryCommand, hop, hok.1]

theorem entryDelete_holds (sess : Nat) (entry : BitVec 142) (errs : ReadErrs) : (Row.entryDelete sess entry errs).Holds :=
  entryRow_holds (fun dt s => (rfl : execEntryDelete dt sess entry errs s = _)) (by decide) fun t hop hok => by
    simp only [Bool.and_eq_true, decide_eq_true_eq, beq_iff_eq] at hok
    simp [State.entryCommand, hop, Nat.not_le.2 hok.1, hok.2]

/-- The fields of the word that names a slot (Table 4.2). -/
theorem slotWord_fields (bank : Fin 8) (bucket : Fin 8192) (way : Fin 4) :
    let v := 3 + 8 * bank.val + 64 * bucket.val + 524288 * way.val
    v < 2 ^ 64 ∧ fld v 2 0 = 3 ∧ fld v 5 3 = bank.val ∧ fld v 18 6 = bucket.val ∧ fld v 20 19 = way.val := by
  have := bank.isLt
  have := bucket.isLt
  have := way.isLt
  simp only [fld]
  refine ⟨?_, ?_, ?_, ?_, ?_⟩ <;> omega

theorem entryReadBySlot_holds (sess : Nat) (bank : Fin 8) (bucket : Fin 8192) (way : Fin 4) (errs : ReadErrs) :
    (Row.entryReadBySlot sess bank bucket way errs).Holds := by
  intro dt s hcan h
  simp only [Row.entryReadBySlot, Bool.and_eq_true] at h ⊢
  obtain ⟨htakes, hup⟩ := h
  obtain ⟨row, hstart⟩ := startAfterErrs (by simp only [List.map_cons, List.map_nil]; decide) htakes
  obtain ⟨hv, hop, hbank, hbucket, hway⟩ := slotWord_fields bank bucket way
  have hread := State.storedAll_rdF (State.meetErrs_canonical (State.advance_canonical dt hcan) errs) (sess := sess) (i := 0x5010)
    (a := 6) hv [] 0x5010
  refine Eq.trans (show _ = goOn _ _ _ from (rfl : execEntryReadBySlot dt sess bank bucket way errs s = _)) (hstart.trans ?_)
  rw [State.did, State.did, State.setObj_entryCommand, State.entryCommand]
  simp only [List.nil_append] at hread
  simp [hread, hop, hbank, hbucket, hway, hup]

/-! ### Moves, learning and ageing -/

theorem shuntMove_holds : Row.shuntMove.Holds :=
  Clause.holds_of_goRun (fun dt s => (rfl : execShuntMove dt s = _)) fun u _ h => by
    simp only [Bool.and_eq_true] at h
    obtain ⟨hrun, hmoves⟩ := h
    refine ⟨hrun, ?_⟩
    cases hc : u.route.chain with
    | none => simp [hc] at hmoves
    | some c =>
      match hm : c.moves with
      | [] => simp [hc, hm] at hmoves
      | [_] => simp [hc, hm] at hmoves
      | _ :: _ :: _ => simp [State.shuntStep, hc, hm]

theorem lastMove_holds : Row.lastMove.Holds :=
  Clause.holds_of_goRun (fun dt s => (rfl : execShuntMove dt s = _)) fun u _ h => by
    simp only [Bool.and_eq_true] at h
    obtain ⟨hrun, hmoves⟩ := h
    refine ⟨hrun, ?_⟩
    cases hc : u.route.chain with
    | none => simp [hc] at hmoves
    | some c =>
      obtain ⟨m, hm⟩ : ∃ m, c.moves = [m] := List.length_eq_one_iff.1 (by simpa [hc] using hmoves)
      simp [State.shuntStep, hc, hm]

theorem learnsNew_holds (group : Fin 2) (errs : ReadErrs) : (Row.learnsNew group errs).Holds :=
  Clause.holds_of_goRun (fun dt s => (rfl : execLearningRequest dt group errs s = _)) fun u _ h => by
    simp only [Bool.and_eq_true, Option.isNone_iff_eq_none] at h
    obtain ⟨⟨hrun, hidle⟩, hreq⟩ := h
    refine ⟨hrun, ?_⟩
    cases hr : (u.meetErrs errs).route.learnQ.find? fun r => r.group == group.val with
    | none => simp [hr] at hreq
    | some r =>
      simp only [hr, Bool.and_eq_true, decide_eq_true_eq, beq_iff_eq] at hreq
      obtain ⟨hroom, hnew⟩ := hreq
      simp [State.takeLearn, hidle, hr, hnew, Nat.not_le.2 hroom]

theorem clearLog_holds (sess : Nat) (port : Fin 44) : (Row.clearLog sess port).Holds :=
  portWrite_holds port.isLt (by decide) (.inr (by decide)) (fun _ _ => rfl) fun t _ => rfl

theorem ageingScanVisit_holds (bank : Fin 8) (bucket : Fin 8192) (way : Fin 4) (typ : Fin 5) (errs : ReadErrs) :
    (Row.ageingScanVisit bank bucket way typ errs).Holds :=
  Clause.holds_of_goRun (fun dt s => (rfl : execAgeingScanVisit dt bank bucket way typ errs s = _)) fun u _ h => by
    simp only [Bool.and_eq_true, bne_iff_ne, ne_eq] at h
    obtain ⟨⟨⟨hrun, hage⟩, hup⟩, hslot⟩ := h
    refine ⟨hrun, ?_⟩
    cases hk : mapGet ((u.meetErrs errs).readSlot (bank.val * 32768 + bucket.val * 4 + way.val)).route.slots
        (bank.val * 32768 + bucket.val * 4 + way.val) with
    | none => simp [hk] at hslot
    | some r =>
      simp only [hk, Bool.and_eq_true, Bool.not_eq_true', beq_iff_eq, bne_iff_ne, ne_eq] at hslot
      obtain ⟨⟨⟨⟨hvalid, hstatic⟩, hmoving⟩, htype⟩, hsource⟩ := hslot
      simp [State.scanVisit, hage, hup, hk, hvalid, hstatic, hmoving, htype, hsource]

/-- Settles O35. -/
theorem routeStoreCommandsComplete : Obligations.RouteStoreCommandsComplete := by
  unfold Obligations.RouteStoreCommandsComplete
  exact ⟨entryReadByKey_holds, entryInsert_holds, entryDelete_holds, entryReadBySlot_holds, shuntMove_holds, lastMove_holds, learnsNew_holds,
    clearLog_holds, ageingScanVisit_holds⟩

end Sys2Proof.Machine
end

section
/-! Chapters 7 and 8: the signal gateway, gates, preemption, recovery, observation, trace and notices. -/

namespace Sys2Proof.Machine

/-- The write of one record of a table window whose records have a known size. -/
theorem recordWrite_holds_of_size {cmd : Nat → Instr} {sess idx sub size k : Nat} {r : List Byte} {act : State → State}
    (hsize : (objRow idx sub).map ObjRow.rsz = some size)
    (hcmd : ∀ dt s, exec (cmd dt) s = goOn dt (fun s => s.asks sess idx sub (size * k) r) s)
    (hact : ∀ t : State, t.putRecord idx sub size k r = act t) : (asRecord cmd sess idx sub k r act).Holds := by
  have hrow {row : ObjRow} (h : objRow idx sub = some row) : row.rsz = size := by simpa [h] using hsize
  exact asRecord_holds (fun row h _ dt s => hrow h ▸ hcmd dt s) fun row h _ t => hrow h ▸ hact t

/-! ### The signal gateway (O44) -/

theorem gatewayJob_holds (engine : Fin 4) : (Row.gatewayJob engine).Holds :=
  Clause.holds_of_goRun (fun dt s => (rfl : execGatewayJob dt engine s = _)) fun u _ h => by
    simp only [Bool.and_eq_true, bne_iff_ne, ne_eq] at h
    obtain ⟨⟨hrun, hjobs⟩, hworks⟩ := h
    refine ⟨hrun, ?_⟩
    cases hj : mapGetD u.gw.jobs engine.val [] with
    | nil => exact absurd hj hjobs
    | cons job rest => simp [State.takeJob, hj, hworks]

theorem timerWheelTick_holds : Row.timerWheelTick.Holds :=
  Clause.holds_of_goRun (fun dt s => (rfl : execTimerWheelTick dt s = _)) fun u _ h => by
    simp only [Bool.and_eq_true] at h
    exact ⟨h.1, if_pos h.2⟩

theorem cyclicTransmission_holds (rec_ : Fin 65536) : (Row.cyclicTransmission rec_).Holds :=
  Clause.holds_of_goRun (fun dt s => (rfl : execTransmissionTimer dt rec_ s = _)) fun u _ h => by
    simp only [Bool.and_eq_true, bne_iff_ne, ne_eq, beq_iff_eq] at h
    obtain ⟨⟨⟨⟨⟨⟨hrun, hon⟩, hengine⟩, hformat⟩, hmode⟩, hperiod⟩, hdue⟩ := h
    refine ⟨hrun, ?_⟩
    rw [hon, hengine]
    cases hk : mapGet u.gw.nominal rec_.val with
    | none => simp [hk] at hdue
    | some k =>
      simp only [hk, decide_eq_true_eq] at hdue
      simp [State.transmit, hformat, hmode, hk, hperiod, Nat.not_lt.2 hdue]

theorem changeTransmission_holds (rec_ : Fin 65536) : (Row.changeTransmission rec_).Holds :=
  Clause.holds_of_goRun (fun dt s => (rfl : execTransmissionTimer dt rec_ s = _)) fun u _ h => by
    simp only [Bool.and_eq_true, Bool.or_eq_true, bne_iff_ne, ne_eq, beq_iff_eq] at h
    obtain ⟨⟨⟨⟨⟨⟨hrun, hon⟩, hengine⟩, hformat⟩, hmode⟩, hchanged⟩, hdelay⟩ := h
    refine ⟨hrun, ?_⟩
    rw [hon, hengine, if_pos (by decide)]
    unfold State.transmit
    simp only [if_neg hformat, if_neg (show u.pdu rec_.val 7 1 % 8 ≠ 1 by omega), if_pos hmode, hchanged, hdelay, Bool.and_self, Bool.true_or,
      if_true]

theorem deadlineTimeout_holds (rec_ : Fin 65536) : (Row.deadlineTimeout rec_).Holds :=
  Clause.holds_of_goRun (fun dt s => (rfl : execDeadlineTimeout dt rec_ s = _)) fun u _ h => by
    simp only [Bool.and_eq_true] at h
    obtain ⟨⟨⟨hrun, hon⟩, hengine⟩, hdue⟩ := h
    refine ⟨hrun, ?_⟩
    cases ht : mapGet u.gw.deadline rec_.val with
    | none => simp [ht] at hdue
    | some t =>
      simp only [ht] at hdue
      simp only [State.deadlineTick, ht, hon, hengine, hdue, Bool.and_self, if_true]
      rfl

theorem timerHandover_holds (engine : Fin 4) : (Row.timerHandover engine).Holds :=
  Clause.holds_of_goRun (fun dt s => (rfl : execTimerHandover dt engine s = _)) fun _ _ h => ⟨(Bool.and_eq_true_iff.1 h).1, rfl⟩

theorem gatewayEnable_holds (sess : Nat) : (Row.gatewayEnable sess).Holds :=
  asWrite_holds (fun _ _ => rfl) fun _ _ t hok => by
    simp only [Bool.not_eq_true'] at hok
    simp [State.setObj, State.putScalar, State.putGateway, hok, tb]

theorem pduRecordWrite_holds (sess : Nat) (rec_ : Fin 65536) (r : List Byte) : (Row.pduRecordWrite sess rec_ r).Holds :=
  recordWrite_holds_of_size (by decide +kernel) (fun dt s => (rfl : execPduRecordWrite dt sess rec_ r s = _)) fun t => by
    simp [State.putRecord]

theorem containerFlushTimer_holds (stream : Fin 256) : (Row.containerFlushTimer stream).Holds :=
  Clause.holds_of_goRun (fun dt s => (rfl : execContainerFlushTimer dt stream s = _)) fun u _ h => by
    simp only [Bool.and_eq_true] at h
    obtain ⟨⟨hrun, hon⟩, hdue⟩ := h
    refine ⟨hrun, ?_⟩
    cases ho : mapGet u.gw.opened stream.val with
    | none => simp [ho] at hdue
    | some o =>
      simp only [ho] at hdue
      simp only [State.flushTimer, ho, hon, hdue, Bool.and_self, if_true, State.flushContainer]

theorem containerReceived_holds : Row.containerReceived.Holds :=
  Clause.holds_of_goRun (fun dt s => (rfl : execContainerReceived dt s = _)) fun u _ h => by
    simp only [Bool.and_eq_true, Option.isSome_iff_ne_none] at h
    obtain ⟨⟨hrun, hengine⟩, hopen⟩ := h
    refine ⟨hrun, ?_⟩
    cases hw : u.gw.waiting with
    | nil => simp [hw] at hopen
    | cons id rest =>
      simp only [hw, Bool.and_eq_true] at hopen
      obtain ⟨hframe, hon⟩ := hopen
      cases hf : (u.withGw fun g => { g with waiting := rest }).frame? id with
      | none => simp [hf] at hframe
      | some f => simp [State.openContainer, hw, hengine, hf, hon] <;> rfl

/-- Settles O44. -/
theorem gatewayJobsAndTimersComplete : Obligations.GatewayJobsAndTimersComplete := by
  unfold Obligations.GatewayJobsAndTimersComplete
  exact ⟨gatewayJob_holds, timerWheelTick_holds, cyclicTransmission_holds, changeTransmission_holds, deadlineTimeout_holds,
    timerHandover_holds, gatewayEnable_holds, pduRecordWrite_holds, containerFlushTimer_holds, containerReceived_holds⟩

/-! ### Gates and preemption (O45) -/

/-- A write to the block of an egress port is a write of its offset and subindex. -/
theorem State.setObj_tm {cfg : State → State} {t : State} {sess p off sub v : Nat} {row : ObjRow} (hp : p < 160) (hoff : off < 0x10)
    (hrs : ¬ (row.acc = .rs ∧ v = 0)) : t.setObj cfg sess row (tmObj p off) sub v = t.putTm off p sub v := by
  have hidx : tmObj p off = 0x6000 + 0x10 * p + off := rfl
  rw [State.setObj, if_neg (by omega), if_neg (by omega), if_neg (by omega), State.putScalar, if_neg hrs]
  iterate 8 rw [if_neg (by omega)]
  rw [if_pos (by omega), show tmObj p off % 0x10 = off by omega, show (tmObj p off - 0x6000) / 0x10 = p by omega]

theorem gateChange_holds (sess : Nat) (port : Fin 28) : (Row.gateChange sess port).Holds :=
  asWrite_holds (fun _ _ => rfl) fun _ _ t _ => State.setObj_tm (by omega) (by decide) not_one_zero

theorem gateListChange_holds (port : Fin 28) : (Row.gateListChange port).Holds :=
  Clause.holds_of_goRun (fun dt s => (rfl : execGateListChange dt port s = _)) fun u _ h => by
    simp only [Bool.and_eq_true] at h
    obtain ⟨⟨hrun, hgroup⟩, hdue⟩ := h
    refine ⟨hrun, ?_⟩
    cases ht : (u.ptm port.val).gatePending with
    | none => simp [ht] at hdue
    | some t =>
      simp only [ht, decide_eq_true_eq] at hdue
      exact if_pos ⟨hdue, hgroup⟩

theorem gateEntryStart_holds (port : Fin 28) : (Row.gateEntryStart port).Holds :=
  Clause.holds_of_goRun (fun dt s => (rfl : execGateEntryStart dt port s = _)) fun _ _ h => ⟨h, rfl⟩

/-- The verify timer of a port that waits for its response, once the verify time has passed. -/
theorem State.verifyTimer_due {u : State} {p : Nat} (hlink : u.linkUp p = true) (hdue : (u.ptm p).verifyAt + 10000000 ≤ u.now)
    (htries : (u.ptm p).verifyTries ≠ 0) :
    u.verifyTimer p =
      if (u.ptm p).verifyTries < 3 then u.modPtm p fun x => { x with verifyTries := x.verifyTries + 1, verifyAt := u.now }
      else ((u.wr (tmObj p 6) 2 2).modPtm p fun x => { x with verifyTries := 0 }).event (egressGroup p) 0x94 p 0 0 :=
  if_neg (by simp [hlink, htries, Nat.not_lt.2 hdue])

theorem verifyAgain_holds (port : Fin 28) : (Row.verifyAgain port).Holds :=
  Clause.holds_of_goRun (fun dt s => (rfl : execVerifyTimer dt port s = _)) fun u _ h => by
    simp only [Bool.and_eq_true, decide_eq_true_eq, bne_iff_ne] at h
    obtain ⟨⟨⟨⟨hrun, hlink⟩, hdue⟩, htries⟩, hfew⟩ := h
    rw [State.verifyTimer_due hlink hdue htries]
    exact ⟨hrun, if_pos hfew⟩

theorem verifyFails_holds (port : Fin 28) : (Row.verifyFails port).Holds :=
  Clause.holds_of_goRun (fun dt s => (rfl : execVerifyTimer dt port s = _)) fun u _ h => by
    simp only [Bool.and_eq_true, decide_eq_true_eq] at h
    obtain ⟨⟨⟨hrun, hlink⟩, hdue⟩, htries⟩ := h
    rw [State.verifyTimer_due hlink hdue (by omega)]
    exact ⟨hrun, if_neg (by omega)⟩

theorem verifyResponse_holds (port : Fin 28) : (Row.verifyResponse port).Holds :=
  Clause.holds_of_goRun (fun dt s => (rfl : execVerifyResponse dt port s = _)) fun u _ h => by
    simp only [Bool.and_eq_true, bne_iff_ne] at h
    obtain ⟨⟨⟨hrun, htries⟩, hlink⟩, hpresent⟩ := h
    exact ⟨hrun, if_pos ⟨htries, hlink, hpresent⟩⟩

/-! ### Recovery, observation, trace, notices -/

theorem frerResetTimer_holds (handle : Fin 1024) : (Row.frerResetTimer handle).Holds :=
  Clause.holds_of_goRun (fun dt s => (rfl : execFrerResetTimer dt handle s = _)) fun u _ h => by
    simp only [Bool.and_eq_true, beq_iff_eq] at h
    obtain ⟨⟨hrun, hmode⟩, hdue⟩ := h
    refine ⟨hrun, ?_⟩
    cases hd : u.frer handle.val with
    | none => simp [hd] at hdue
    | some d =>
      cases ht : d.lastPass with
      | none => simp [hd, ht] at hdue
      | some t =>
        simp only [hd, ht, Bool.and_eq_true, Bool.not_eq_true', decide_eq_true_eq] at hdue
        obtain ⟨hrestart, hdue⟩ := hdue
        simp [State.recoveryReset, hd, ht, hmode, hrestart, Nat.not_lt.2 hdue]

theorem observationSample_holds (port : Fin 160) : (Row.observationSample port).Holds :=
  Clause.holds_of_goPort (fun dt s => (rfl : execObservationSample dt port s = _)) fun u _ h => by
    simp only [Bool.and_eq_true] at h
    obtain ⟨⟨hrun, hport⟩, hgroup⟩ := h
    exact ⟨hport, hrun, if_pos hgroup⟩

theorem observationReset_holds (sess : Nat) (port : Fin 160) : (Row.observationReset sess port).Holds :=
  asWrite_holds (fun _ _ => rfl) fun _ _ t _ => State.setObj_tm port.isLt (by decide) not_one_zero

theorem traceRelease_holds (sess : Nat) (n : BitVec 32) : (Row.traceRelease sess n).Holds :=
  asWrite_holds (fun _ _ => rfl) fun _ hrow t _ => by
    simp [State.setObj, State.putScalar, not_start_zero hrow rfl (by decide), State.releaseTrace]

theorem noticeTimer_holds : Row.noticeTimer.Holds :=
  Clause.holds_of_goRun (fun dt s => (rfl : execNoticeTimer dt s = _)) fun u _ h => by
    simp only [Bool.and_eq_true, bne_iff_ne, decide_eq_true_eq] at h
    obtain ⟨⟨hrun, hopen⟩, hdue⟩ := h
    exact ⟨hrun, if_pos ⟨hopen, hdue⟩⟩

/-- Settles O45. -/
theorem gatesVerifyAndObservationComplete : Obligations.GatesVerifyAndObservationComplete := by
  unfold Obligations.GatesVerifyAndObservationComplete
  exact ⟨gateChange_holds, gateListChange_holds, gateEntryStart_holds, verifyAgain_holds, verifyFails_holds, verifyResponse_holds,
    frerResetTimer_holds, observationSample_holds, observationReset_holds, traceRelease_holds, noticeTimer_holds⟩

end Sys2Proof.Machine
end

section
/-! Chapter 16: the host bridge. -/

namespace Sys2Proof.Machine

/-! ### The host's session -/

@[simp] theorem State.roleOf_host (s : State) : s.roleOf hostSess = some 0 := by
  simp [State.roleOf]

/-- A request of the host's session that the warden serves here is answered at once. -/
theorem State.serve_host {s : State} {who : Asker} {r : Req} (hmeasured : s.startup.measured = true) (hwarden : s.present 45 = true)
    (hlocal : s.forwardSlot hostSess = none) :
    s.serve hostSess who r = (s.access hostSess 0 r).2.2.reply who (s.access hostSess 0 r).1 (s.access hostSess 0 r).2.1 := by
  simp [State.serve, hmeasured, hwarden, hlocal]

/-! ### Resets and the link (R403, R423) -/

theorem pciePerst_holds : Row.pciePerst.Holds :=
  Clause.holds_of_goBridge (fun dt s => (rfl : execPciePerst dt s = _)) fun u _ h => by
    simp only [Row.bridgeUp, Bool.and_eq_true] at h
    obtain ⟨hon, hpresent⟩ := h
    exact ⟨hon, hpresent, by simp [State.bridgeReset]⟩

theorem functionLevelReset_holds : Row.functionLevelReset.Holds :=
  Clause.holds_of_goHost (fun dt s => (rfl : execFunctionLevelReset dt s = _)) fun u _ h => ⟨h, by simp [State.bridgeReset]⟩

theorem linkGoesUp_holds (speed : Fin 4) (width : Fin 3) : (Row.linkGoesUp speed width).Holds :=
  Clause.holds_of_goBridge (fun dt s => (rfl : execPcieLinkChange dt true speed width s = _)) fun u _ h => by
    simp only [Row.bridgeUp, Bool.and_eq_true, Bool.not_eq_true', bne_iff_ne, ne_eq] at h
    obtain ⟨⟨⟨hon, hpresent⟩, hclock⟩, hnew⟩ := h
    exact ⟨hon, hpresent, by simp [State.linkChange, State.pcieLink, hclock, hnew]⟩

theorem linkGoesDown_holds (speed : Fin 4) (width : Fin 3) : (Row.linkGoesDown speed width).Holds :=
  Clause.holds_of_goBridge (fun dt s => (rfl : execPcieLinkChange dt false speed width s = _)) fun u _ h => by
    simp only [Row.hostUp, Row.bridgeUp, Bool.and_eq_true, Bool.not_eq_true'] at h
    obtain ⟨⟨⟨hon, hpresent⟩, hlink⟩, hclock⟩ := h
    have hup : u.rd 0x20A0 1 ≠ 0 := fun hzero => by simp [State.rdB, hzero, tb] at hlink
    exact ⟨hon, hpresent, by simp [State.linkChange, State.pcieLink, hclock, hlink, hup]⟩

/-! ### BAR0 (R405–R409) -/

/-- A read of a slot that finds room among the held ones. -/
theorem State.bar0Read_taken {u : State} {off len tag : Nat} {answered : Bool} (hlen : len ≠ 0) (hslot : off % 16 + len ≤ 16)
    (hwarden : u.present 45 = true) (hmeasured : u.startup.measured = true) (hfree : u.blocked hostSess = false)
    (hroom : u.host.reads.length < 64) :
    u.bar0Read off len tag answered =
      let t := u.withHost fun h => { h with reads := h.reads ++ [⟨tag, off, len, u.now⟩] }
      if !answered then t
      else
        match (objRow (slotObject off).1 (slotObject off).2).filter ObjRow.window with
        | some row => t.slotAnswer tag off len 0 (leBytes 4 row.recs ++ leBytes 4 row.rsz)
        | none => t.serve hostSess (.slot tag off len) (.read (slotObject off).1 (slotObject off).2 0 0) := by
  rw [State.bar0Read, if_neg (by omega), hwarden, hmeasured, hfree, if_neg (by decide), if_neg (by decide), if_neg (Nat.not_le.2 hroom)] <;> rfl

theorem bar0Read_holds (off : BitVec 28) (len : Nat) (tag : Fin 1024) : (Row.bar0Read off len tag).Holds :=
  Clause.holds_of_goHost (fun dt s => (rfl : execBar0Read dt off len tag true s = _)) fun u _ h => by
    simp only [Bool.and_eq_true, bne_iff_ne, ne_eq, decide_eq_true_eq, Bool.not_eq_true', Option.isNone_iff_eq_none] at h
    obtain ⟨⟨⟨⟨⟨⟨⟨⟨⟨⟨hup, hlen⟩, hslot⟩, hwarden⟩, hmeasured⟩, hfree⟩, hroom⟩, hscalar⟩, hlocal⟩, hmeasured'⟩, hwarden'⟩ := h
    refine ⟨hup, ?_⟩
    rw [State.bar0Read_taken hlen hslot hwarden hmeasured hfree hroom, hscalar]
    exact State.serve_host hmeasured' hwarden' hlocal

theorem bar0ReadHeld_holds (off : BitVec 28) (len : Nat) (tag : Fin 1024) : (Row.bar0ReadHeld off len tag).Holds :=
  Clause.holds_of_goHost (fun dt s => (rfl : execBar0Read dt off len tag false s = _)) fun u _ h => by
    simp only [Bool.and_eq_true, bne_iff_ne, ne_eq, decide_eq_true_eq, Bool.not_eq_true'] at h
    obtain ⟨⟨⟨⟨⟨⟨hup, hlen⟩, hslot⟩, hwarden⟩, hmeasured⟩, hfree⟩, hroom⟩ := h
    exact ⟨hup, State.bar0Read_taken hlen hslot hwarden hmeasured hfree hroom⟩

theorem bar0Write_holds (off : BitVec 28) (data bs : List Byte) : (Row.bar0Write off data bs).Holds :=
  Clause.holds_of_goHost (fun dt s => (rfl : execBar0Write dt off data false s = _)) fun u _ h => by
    simp only [Bool.and_eq_true, Bool.not_eq_true', Option.isNone_iff_eq_none] at h
    obtain ⟨⟨⟨⟨⟨hup, hwarden⟩, hmeasured⟩, hfree⟩, hlocal⟩, hrow⟩ := h
    refine ⟨hup, ?_⟩
    cases hr : objRow (slotObject off.toNat).1 (slotObject off.toNat).2 with
    | none => simp [hr] at hrow
    | some row =>
      simp only [hr, Bool.and_eq_true, Bool.not_eq_true', beq_iff_eq] at hrow
      obtain ⟨⟨hscalar, hlanes⟩, hok⟩ := hrow
      have hserve : u.bar0Write off.toNat data false =
          u.acceptPosted.2.serve hostSess (.posted 0 off.toNat u.acceptPosted.1) (.write (slotObject off.toNat).1 (slotObject off.toNat).2 0 bs) := by
        simp [State.bar0Write, hr, hscalar, hwarden, hmeasured, hfree, hlanes]
      rw [hserve, State.serve_host hmeasured hwarden hlocal]
      simp [State.access, State.reply, State.postedAnswer, hok]

theorem delayedReadTimeout_holds (tag : Fin 1024) (late : Bool) : (Row.delayedReadTimeout tag late).Holds :=
  Clause.holds_of_goBridge (fun dt s => (rfl : execDelayedReadTimeout dt tag late s = _)) fun u _ h => by
    simp only [Row.bridgeUp, Bool.and_eq_true] at h
    exact ⟨h.1.1, h.1.2, rfl⟩

/-! ### Translation windows (R410–R416) -/

theorem windowQueueRead_holds (w : Fin 16) (off : BitVec 24) (len : Nat) (tag : Fin 1024) (data : List Byte) (poisoned : Bool) :
    (Row.windowQueueRead w off len tag data poisoned).Holds :=
  Clause.holds_of_goHost (fun dt s => (rfl : execWindowAccess dt w off false len tag data poisoned s = _)) fun u _ h => by
    simp only [Bool.and_eq_true, beq_iff_eq] at h
    obtain ⟨hup, hkind⟩ := h
    exact ⟨hup, by simp [State.windowAccess, hkind]⟩

theorem windowTableRead_holds (w : Fin 16) (off : BitVec 24) (len : Nat) (tag : Fin 1024) (data : List Byte) (poisoned : Bool) :
    (Row.windowTableRead w off len tag data poisoned).Holds :=
  Clause.holds_of_goHost (fun dt s => (rfl : execWindowAccess dt w off false len tag data poisoned s = _)) fun u _ h => by
    simp only [Bool.and_eq_true, beq_iff_eq, Bool.not_eq_true'] at h
    obtain ⟨⟨⟨⟨hup, hkind⟩, hwarden⟩, hmeasured⟩, hfree⟩ := h
    exact ⟨hup, by simp [State.windowAccess, hkind, hwarden, hmeasured, hfree]⟩

theorem windowWrite_holds (w : Fin 16) (off : BitVec 24) (len : Nat) (tag : Fin 1024) (data : List Byte) : (Row.windowWrite w off len tag data).Holds :=
  Clause.holds_of_goHost (fun dt s => (rfl : execWindowAccess dt w off true len tag data false s = _)) fun u _ h => by
    simp only [Bool.and_eq_true, beq_iff_eq, decide_eq_true_eq, Bool.not_eq_true'] at h
    obtain ⟨⟨⟨⟨⟨⟨⟨hup, hkind⟩, hfits⟩, hwarden⟩, hmeasured⟩, -⟩, -⟩, hfree⟩ := h
    exact ⟨hup, by simp [State.windowAccess, hkind, hwarden, hmeasured, hfree, Nat.not_lt.2 hfits]⟩

theorem translationWindowWrite_holds (sess : Nat) (w : Fin 16) (r : List Byte) : (Row.translationWindowWrite sess w r).Holds :=
  recordWrite_holds_of_size (by decide +kernel) (fun dt s => (rfl : execTranslationWindowWrite dt sess w r s = _)) fun t => by
    simp [State.putRecord]

theorem prefetchAgeExpiry_holds (w : Fin 16) : (Row.prefetchAgeExpiry w).Holds :=
  Clause.holds_of_goBridge (fun dt s => (rfl : execPrefetchAgeExpiry dt w s = _)) fun u _ h => by
    simp only [Row.bridgeUp, Bool.and_eq_true] at h
    obtain ⟨⟨hon, hpresent⟩, hage⟩ := h
    refine ⟨hon, hpresent, ?_⟩
    cases hb : mapGet u.host.prefetch w.val with
    | none => simp [hb] at hage
    | some b =>
      simp only [hb, decide_eq_true_eq] at hage
      simp [State.agePrefetch, hb, hage]

theorem queueWindowRead_holds (off : BitVec 12) (len : Nat) (tag : Fin 1024) : (Row.queueWindowRead off len tag).Holds :=
  Clause.holds_of_goHost (fun dt s => (rfl : execQueueWindowRead dt off len tag s = _)) fun u _ h => by
    simp only [Bool.and_eq_true, decide_eq_true_eq] at h
    obtain ⟨hup, hfits⟩ := h
    exact ⟨hup, if_neg (Nat.not_lt.2 hfits)⟩

/-! ### Rings and messages (R417–R422) -/

theorem doorbellWrite_holds (ring : Fin 16) (value : BitVec 32) : (Row.doorbellWrite ring value).Holds :=
  Clause.holds_of_goHost (fun dt s => (rfl : execDoorbellWrite dt ring value s = _)) fun _ _ h => ⟨h, rfl⟩

theorem hostDescriptorFetched_holds (ring : Fin 8) (len : BitVec 16) (kind : Byte) (domain : Fin 64) (data : List Byte) :
    (Row.hostDescriptorFetched ring len kind domain data).Holds :=
  Clause.holds_of_goRun (fun dt s => (rfl : execHostDescriptorFetched dt ring len kind domain data true s = _)) fun u _ h => by
    simp only [Bool.and_eq_true, decide_eq_true_eq] at h
    obtain ⟨⟨⟨⟨hrun, hrings⟩, hposted⟩, hkind⟩, hstored⟩ := h
    exact ⟨hrun, by simp [State.hostFrame, hrings, hposted, Nat.not_lt.2 hkind, hstored]⟩

theorem partToHostFrame_holds (ring : Fin 8) (addr : BitVec 64) : (Row.partToHostFrame ring addr).Holds :=
  Clause.holds_of_goRun (fun dt s => (rfl : execPartToHostFrame dt ring addr s = _)) fun u _ h => by
    simp only [Bool.and_eq_true, Bool.not_eq_true', Option.isNone_iff_eq_none] at h
    obtain ⟨⟨⟨⟨⟨hrun, hrings⟩, hmode⟩, hposted⟩, hawake⟩, hframe⟩ := h
    refine ⟨hrun, ?_⟩
    match hsel : (u.takeKinds 44).selectQueue 44 with
    | (none, _) => simp [hsel] at hframe
    | (some n, t) =>
      match hq : (t.ptm 44).q n with
      | [] => simp [hsel, hq] at hframe
      | i :: _ =>
        simp only [hsel, hq, Bool.and_eq_true, beq_iff_eq, Bool.not_eq_true'] at hframe
        obtain ⟨hclass, hstays, hheld⟩ := hframe
        cases hf : (t.startCheck 44 n i.frame).2.frame? i.frame with
        | none => simp [hf] at hheld
        | some f => simp [State.partToHost, hrings, hmode, hposted, hawake, hsel, hq, hclass, hstays, hf]

theorem msixCoalesceTimer_holds (vec : Fin 24) : (Row.msixCoalesceTimer vec).Holds :=
  Clause.holds_of_goBridge (fun dt s => (rfl : execMsixCoalesceTimer dt vec s = _)) fun u _ h => by
    simp only [Row.bridgeUp, Bool.and_eq_true] at h
    obtain ⟨⟨hon, hpresent⟩, hdue⟩ := h
    refine ⟨hon, hpresent, ?_⟩
    cases hm : mapGet u.host.heldMsg vec.val with
    | none => simp [hm] at hdue
    | some x =>
      simp only [hm, decide_eq_true_eq] at hdue
      simp [State.releaseMessage, hm, hdue]

/-- Settles O57. -/
theorem hostBridgeCommandsComplete : Obligations.HostBridgeCommandsComplete := by
  unfold Obligations.HostBridgeCommandsComplete
  exact ⟨pciePerst_holds, functionLevelReset_holds, linkGoesUp_holds, linkGoesDown_holds, bar0Read_holds, bar0ReadHeld_holds, bar0Write_holds,
    delayedReadTimeout_holds, windowQueueRead_holds, windowTableRead_holds, windowWrite_holds, translationWindowWrite_holds,
    prefetchAgeExpiry_holds, queueWindowRead_holds, doorbellWrite_holds, hostDescriptorFetched_holds, partToHostFrame_holds,
    msixCoalesceTimer_holds⟩

end Sys2Proof.Machine
end

section
/-! Chapter 17: SDO services, Dalmoly sessions, groups and locks. -/

namespace Sys2Proof.Machine

/-- A request of a session with a role that the warden serves here is answered at once. -/
theorem State.serve_here {s : State} {sess role : Nat} {who : Asker} {r : Req} (hrole : s.roleOf sess = some role)
    (hmeasured : s.startup.measured = true) (hwarden : s.present 45 = true) (hlocal : s.forwardSlot sess = none) :
    s.serve sess who r = (s.access sess role r).2.2.reply who (s.access sess role r).1 (s.access sess role r).2.1 := by
  simp [State.serve, hrole, hmeasured, hwarden, hlocal]

/-! ### SDO (O58) -/

/-- A frame of an SDO service that the server takes runs the service on what is left of the queue. -/
theorem sdoFrame_holds {cmd : Nat → Instr} {c : Fin 72} {service : Nat} {data : List Byte} {ok : State → Bool} {run eff : State → State}
    (hcmd : ∀ dt s, exec (cmd dt) s = goSdo dt c service data run s) (hknown : service ≠ 7)
    (heff : ∀ t : State, t.startup.measured = true → t.present 45 = true → ok t = true → run t = eff t) :
    (Row.sdoFrame cmd c service data ok eff).Holds :=
  Clause.holds_of_goRun hcmd fun u _ h => by
    simp only [Bool.and_eq_true, Bool.not_eq_true', beq_iff_eq] at h
    obtain ⟨⟨⟨⟨⟨⟨⟨hrun, hlen⟩, henabled⟩, hwarden⟩, hmeasured⟩, hfree⟩, hservice⟩, hok⟩ := h
    refine ⟨hrun, ?_⟩
    rw [State.sdoRow, if_neg (by simp [hlen, henabled]), ← heff _ hmeasured hwarden hok]
    simp [hwarden, hmeasured, hfree, hservice, hknown]

section
variable (c : Fin 72) (data : List Byte)

theorem sdoExpedited_holds (idx sub n : Nat) : (Row.sdoExpedited c idx sub n data).Holds :=
  sdoFrame_holds (fun dt s => (rfl : execSdoInitiateDownload dt c data s = _)) (by decide) fun t _ _ hok => by
    simp only [Bool.and_eq_true, beq_iff_eq, Option.isNone_iff_eq_none] at hok
    obtain ⟨⟨⟨⟨⟨⟨⟨⟨⟨hexpedited, hsize⟩, rfl⟩, rfl⟩, rfl⟩, hrole⟩, hmeasured⟩, hwarden⟩, hlocal⟩, hdone⟩ := hok
    simp only [State.sdoInitDownload, hexpedited, hsize, if_true]
    rw [State.serve_here hrole hmeasured hwarden hlocal]
    simp only [State.access, State.reply, State.sdoAnswer, hdone]
    rfl

theorem sdoSegmentedDownload_holds : (Row.sdoSegmentedDownload c data).Holds :=
  sdoFrame_holds (fun dt s => (rfl : execSdoInitiateDownload dt c data s = _)) (by decide) fun t _ _ hok => by
    simp only [Bool.and_eq_true, Bool.not_eq_true'] at hok
    simp only [State.sdoInitDownload, hok.1]
    rfl

theorem sdoDownloadSegment_holds : (Row.sdoDownloadSegment c data).Holds :=
  sdoFrame_holds (fun dt s => (rfl : execSdoDownloadSegment dt c data s = _)) (by decide) fun t _ _ hok => by
    simp only [Bool.and_eq_true, Bool.not_eq_true'] at hok
    obtain ⟨hmore, hkind⟩ := hok
    cases hx : t.sdo c.val with
    | none => simp [hx] at hkind
    | some x =>
      simp only [hx, Bool.and_eq_true, beq_iff_eq] at hkind
      simp [State.sdoDownloadSegment, hx, hmore, hkind]

theorem sdoInitiateUpload_holds : (Row.sdoInitiateUpload c data).Holds :=
  sdoFrame_holds (fun dt s => (rfl : execSdoInitiateUpload dt c data s = _)) (by decide) fun t _ _ hok => by
    simp only [Bool.and_eq_true, beq_iff_eq, Option.isNone_iff_eq_none] at hok
    obtain ⟨⟨⟨⟨hrole, hmeasured⟩, hwarden⟩, hlocal⟩, hread⟩ := hok
    rw [State.sdoInitUpload]
    refine (State.serve_here hrole hmeasured hwarden hlocal).trans ?_
    simp only [State.access, State.reply, State.sdoAnswer, hread]
    rfl

theorem sdoUploadSegment_holds : (Row.sdoUploadSegment c data).Holds :=
  sdoFrame_holds (fun dt s => (rfl : execSdoUploadSegment dt c data s = _)) (by decide) fun t _ _ hok => by
    cases hx : t.sdo c.val with
    | none => simp [hx] at hok
    | some x =>
      simp only [hx, Bool.and_eq_true, beq_iff_eq] at hok
      simp [State.sdoUploadSegment, hx, hok]

theorem sdoBlockSegment_holds : (Row.sdoBlockSegment c data).Holds :=
  sdoFrame_holds (fun dt s => (rfl : execSdoBlockDownload dt c data s = _)) (by decide) fun t _ _ hok => by
    cases hx : t.sdo c.val with
    | none => simp [hx] at hok
    | some x =>
      simp only [hx, Bool.and_eq_true, beq_iff_eq] at hok
      simp [State.sdoBlockDownload, hx, hok]

theorem sdoBlockDownload_holds : (Row.sdoBlockDownload c data).Holds :=
  sdoFrame_holds (fun dt s => (rfl : execSdoBlockDownload dt c data s = _)) (by decide) fun t _ _ hok => by
    simp only [Bool.and_eq_true, Bool.not_eq_true', Option.isNone_iff_eq_none] at hok
    simp [State.sdoBlockDownload, hok]

theorem sdoBlockUpload_holds : (Row.sdoBlockUpload c data).Holds :=
  sdoFrame_holds (fun dt s => (rfl : execSdoBlockUpload dt c data s = _)) (by decide) fun t _ _ hok => by
    simp only [Bool.and_eq_true, beq_iff_eq, bne_iff_ne, ne_eq, decide_eq_true_eq, Option.isNone_iff_eq_none] at hok
    obtain ⟨⟨⟨⟨⟨⟨⟨hinit, hsome⟩, hmax⟩, hrole⟩, hmeasured⟩, hwarden⟩, hlocal⟩, hread⟩ := hok
    rw [State.sdoBlockUploadStep, if_pos hinit]
    refine (if_neg (by omega)).trans ((State.serve_here hrole hmeasured hwarden hlocal).trans ?_)
    simp only [State.access, State.reply, State.sdoAnswer, hread]
    rfl

theorem sdoAbortReceived_holds : (Row.sdoAbortReceived c data).Holds :=
  sdoFrame_holds (fun dt s => (rfl : execSdoAbortReceived dt c data s = _)) (by decide) fun _ _ _ _ => rfl

theorem sdoTimeout_holds : (Row.sdoTimeout c).Holds :=
  Clause.holds_of_goOn (fun dt s => (rfl : execSdoTimeout dt c s = _)) fun u _ h => by
    simp only [Bool.and_eq_true] at h
    obtain ⟨hon, hdue⟩ := h
    refine ⟨hon, ?_⟩
    cases hx : u.sdo c.val with
    | none => simp [hx] at hdue
    | some x =>
      simp only [hx, decide_eq_true_eq] at hdue
      simp [State.sdoTimeout, hx, hdue, State.sdoAbort]

end

/-- Settles O58. -/
theorem sdoServicesComplete : Obligations.SdoServicesComplete := by
  unfold Obligations.SdoServicesComplete
  exact ⟨fun c idx sub n data => sdoExpedited_holds c data idx sub n, sdoSegmentedDownload_holds, sdoDownloadSegment_holds,
    sdoInitiateUpload_holds, sdoUploadSegment_holds, sdoBlockSegment_holds, sdoBlockDownload_holds, sdoBlockUpload_holds,
    sdoAbortReceived_holds, sdoTimeout_holds⟩

/-! ### Dalmoly (O59) -/

/-- A Dalmoly frame that reaches the warden is handled by its message. -/
theorem dalFrame_holds {cmd : Nat → Instr} {port : Fin 44} {frame : List Byte} {ok : State → DalMsg → Bool} {run eff : State → DalMsg → State}
    (hcmd : ∀ dt s, exec (cmd dt) s = goRun dt (fun s => s.dalRow port.val frame run) s)
    (heff : ∀ t m, ok t m = true → run t m = eff t m) : (Row.dalFrame cmd port frame ok eff).Holds :=
  Clause.holds_of_goRun hcmd fun u _ h => by
    simp only [Bool.and_eq_true] at h
    obtain ⟨⟨⟨⟨hrun, hdal⟩, hwarden⟩, hmeasured⟩, hmsg⟩ := h
    refine ⟨hrun, ?_⟩
    cases hm : dalMessage frame with
    | none => simp [hm] at hmsg
    | some m =>
      simp only [hm] at hmsg
      simp [State.dalRow, hdal, hwarden, hmeasured, hm, heff _ m hmsg]

/-- A message of an open session that no forwarded request holds back is taken in its order. -/
theorem State.dalChecked_of_open {t : State} {m : DalMsg} (h : Row.sessionOpen t m = true) (port : Nat) (frame : List Byte) (run : State → State) :
    t.dalChecked port frame m run = Row.inOrder port frame t m run := by
  simp only [Row.sessionOpen, Bool.and_eq_true, Bool.not_eq_true'] at h
  obtain ⟨hopen, hfree⟩ := h
  cases hd : mapGet t.sess.dal m.sess with
  | none => simp [hd] at hopen
  | some d => simp [State.dalChecked, Row.inOrder, hd, hfree]

/-- A request of an operation that the command names. -/
theorem State.dalRequest_of_open {t : State} {m : DalMsg} {ops : Nat → Bool} (htype : m.typ = 3) (hop : ops (byteAt m.body 0) = true)
    (h : Row.sessionOpen t m = true) (port : Nat) (frame : List Byte) :
    t.dalRequest port frame m ops = Row.inOrder port frame t m (Row.dalRun port frame m) := by
  rw [State.dalRequest, if_neg (by simp [htype, hop])]
  exact State.dalChecked_of_open h port frame (Row.dalRun port frame m)

section
variable (port : Fin 44) (frame : List Byte)

theorem dalmolyOpen_holds : (Row.dalmolyOpen port frame).Holds :=
  dalFrame_holds (fun dt s => (rfl : execDalmolyOpen dt port frame s = _)) fun t m hok => by
    simp only [Bool.and_eq_true, beq_iff_eq, decide_eq_true_eq] at hok
    obtain ⟨⟨⟨⟨⟨htype, hsess⟩, hlen⟩, hkey⟩, hroom⟩, hfree⟩ := hok
    obtain ⟨⟨key, bits⟩, hkey⟩ := Option.isSome_iff_exists.1 hkey
    obtain ⟨n, hfree⟩ := Option.isSome_iff_exists.1 hfree
    simp [State.dalOpen, htype, hsess, hlen, hkey, hfree, Nat.not_le.2 hroom]

theorem dalmolyRead_holds : (Row.dalmolyRead port frame).Holds :=
  dalFrame_holds (fun dt s => (rfl : execDalmolyRead dt port frame s = _)) fun t m hok => by
    simp only [Bool.and_eq_true, beq_iff_eq] at hok
    obtain ⟨⟨htype, hop⟩, hopen⟩ := hok
    exact State.dalRequest_of_open htype (by simp [hop]) hopen port.val frame

theorem dalmolyWrite_holds : (Row.dalmolyWrite port frame).Holds :=
  dalFrame_holds (fun dt s => (rfl : execDalmolyWrite dt port frame s = _)) fun t m hok => by
    simp only [Bool.and_eq_true, beq_iff_eq] at hok
    obtain ⟨⟨htype, hop⟩, hopen⟩ := hok
    exact State.dalRequest_of_open htype (by simp [hop]) hopen port.val frame

theorem dalmolyClose_holds : (Row.dalmolyClose port frame).Holds :=
  dalFrame_holds (fun dt s => (rfl : execDalmolyClose dt port frame s = _)) fun t m hok => by
    simp only [Bool.and_eq_true, beq_iff_eq] at hok
    obtain ⟨htype, hopen⟩ := hok
    rw [State.dalClose, if_neg (by simp [htype]), State.dalChecked_of_open hopen]

end

theorem sessionIdleTimeout_holds (n : Fin 16) : (Row.sessionIdleTimeout n).Holds :=
  Clause.holds_of_goOn (fun dt s => (rfl : execSessionIdleTimeout dt n s = _)) fun u _ h => by
    simp only [Bool.and_eq_true, Bool.not_eq_true'] at h
    obtain ⟨⟨hon, hfree⟩, hidle⟩ := h
    refine ⟨hon, ?_⟩
    cases hd : mapGet u.sess.dal (n.val + 1) with
    | none => simp [hd] at hidle
    | some d =>
      simp only [hd, decide_eq_true_eq] at hidle
      rw [State.dalIdle, hd]
      refine (if_pos ⟨hidle, by rw [hfree]; decide⟩).trans ?_
      rw [State.endDalmoly, hd]

/-! ### Groups -/

/-- Every role may write the subindexes of 0x1130, in four bytes (R428, R432). -/
theorem writeAbort_group (role : Nat) {sub : Nat} (h : 1 ≤ sub ∧ sub ≤ 3) : writeAbort role 0x1130 sub 0 4 = 0 := by
  obtain rfl | rfl | rfl : sub = 1 ∨ sub = 2 ∨ sub = 3 := by omega
  all_goals rfl

theorem scalarAlone_group {sub : Nat} (h : 1 ≤ sub ∧ sub ≤ 3) : ∃ row, objRow 0x1130 sub = some row ∧ scalarAlone row 0x1130 sub 1 = 0 := by
  obtain rfl | rfl | rfl : sub = 1 ∨ sub = 2 ∨ sub = 3 := by omega
  all_goals exact ⟨_, rfl, rfl⟩

/-- A write of 1 to a subindex of 0x1130 is a command to the session's group. -/
theorem State.writeChecked_group {cfg : State → State} {s : State} {sess role sub : Nat} (h : 1 ≤ sub ∧ sub ≤ 3) :
    s.writeChecked cfg sess role 0x1130 sub 0 (leBytes 4 1) = s.groupWrite cfg sess role sub 1 := by
  obtain ⟨row, hrow, hvalue⟩ := scalarAlone_group h
  have hlen : (leBytes 4 1).length = 4 := leBytes_length 4 1
  have hval : leVal (leBytes 4 1) = 1 := leVal_leBytes 4 1
  simp [State.writeChecked, hlen, writeAbort_group role h, hrow, hval, hvalue]

/-- A commit fails for its group, never for the session's role. -/
theorem State.commit_ne_abRole (cfg : State → State) (s : State) (sess role : Nat) : (s.commit cfg sess role).1 ≠ abRole := by
  unfold State.commit
  repeat' split
  all_goals simp [abRole]

theorem State.groupWrite_ne_abRole (cfg : State → State) (s : State) (sess role sub : Nat) : (s.groupWrite cfg sess role sub 1).1 ≠ abRole := by
  unfold State.groupWrite
  rw [if_neg (by decide)]
  split
  · split <;> simp [abRole]
  · split
    · exact State.commit_ne_abRole cfg s sess role
    · simp [abRole]

/-- A group command of a session with a role, by what it does to the group. -/
theorem groupRow_holds {cmd : Nat → Instr} {sess sub : Nat} {opened : Bool} {ok : State → Bool} {act : State → Nat × State}
    (hcmd : ∀ dt s, exec (cmd dt) s = goOn dt (fun s => s.groupCommand sess sub none) s) (hsub : 1 ≤ sub ∧ sub ≤ 3)
    (hact : ∀ u : State, (u.groupOf sess).isSome = opened →
      u.groupWrite State.configStart sess ((u.roleOf sess).getD 0) sub 1 = act u) :
    (Row.groupRow cmd sess sub opened ok act).Holds :=
  Clause.holds_of_goOn hcmd fun u _ h => by
    simp only [Bool.and_eq_true, beq_iff_eq, Option.isNone_iff_eq_none] at h
    obtain ⟨⟨⟨⟨⟨⟨⟨hon, hrole⟩, hmeasured⟩, hwarden⟩, hlocal⟩, hgroup⟩, -⟩, -⟩ := h
    obtain ⟨role, hrole⟩ := Option.isSome_iff_exists.1 hrole
    have hact := hact u hgroup
    rw [hrole, Option.getD_some] at hact
    have hnot := State.groupWrite_ne_abRole State.configStart u sess role sub
    rw [hact] at hnot
    refine ⟨hon, ?_⟩
    rw [State.groupCommand, State.serve_here hrole hmeasured hwarden hlocal]
    simp [State.access, State.write, State.writeObj, State.writeChecked_group hsub, hact, hnot, State.reply]

theorem groupBegin_holds (sess : Nat) : (Row.groupBegin sess).Holds :=
  groupRow_holds (fun dt s => (rfl : execGroupBegin dt sess none s = _)) (by decide) fun u hgroup => by
    simp [State.groupWrite, hgroup]

theorem groupCommit_holds (sess : Nat) : (Row.groupCommit sess).Holds :=
  groupRow_holds (fun dt s => (rfl : execGroupCommit dt sess none s = _)) (by decide) fun u _ => by
    simp [State.groupWrite]

theorem groupAbandon_holds (sess : Nat) : (Row.groupAbandon sess).Holds :=
  groupRow_holds (fun dt s => (rfl : execGroupAbandon dt sess none s = _)) (by decide) fun u _ => by
    simp [State.groupWrite]

/-! ### Locks and blocks -/

theorem lockHoldExpiry_holds (idx : BitVec 16) : (Row.lockHoldExpiry idx).Holds :=
  Clause.holds_of_goOn (fun dt s => (rfl : execLockHoldExpiry dt idx s = _)) fun u _ h => by
    simp only [Bool.and_eq_true] at h
    obtain ⟨hon, hdue⟩ := h
    refine ⟨hon, ?_⟩
    cases ht : (mapGet u.sess.locks idx.toNat).bind fun l => l.until_ with
    | none => simp [ht] at hdue
    | some t =>
      simp only [ht, decide_eq_true_eq] at hdue
      simp [State.lockEnds, ht, hdue, State.freeLock]

theorem quenchBlockEnd_holds (sess : Nat) : (Row.quenchBlockEnd sess).Holds :=
  Clause.holds_of_goOn (fun dt s => (rfl : execQuenchBlockEnd dt sess s = _)) fun u _ h => by
    simp only [Bool.and_eq_true] at h
    obtain ⟨hon, hdue⟩ := h
    refine ⟨hon, ?_⟩
    cases ht : mapGet u.sess.blocked sess with
    | none => simp [ht] at hdue
    | some t =>
      simp only [ht, decide_eq_true_eq] at hdue
      simp [State.blockEnds, ht, hdue]

/-- Settles O59. -/
theorem sessionsGroupsAndLocksComplete : Obligations.SessionsGroupsAndLocksComplete := by
  unfold Obligations.SessionsGroupsAndLocksComplete
  exact ⟨dalmolyOpen_holds, dalmolyRead_holds, dalmolyWrite_holds, dalmolyClose_holds, sessionIdleTimeout_holds, groupBegin_holds,
    groupCommit_holds, groupAbandon_holds, lockHoldExpiry_holds, quenchBlockEnd_holds⟩

end Sys2Proof.Machine
end

section
/-! Chapter 19: drawbar frames by their mode, the timers of the consist logic, the session target. -/

namespace Sys2Proof.Machine

/-! ### Drawbar frames (R458–R469) -/

/-- A good drawbar frame of its mode, held by the buffer, is handled with its sender as the neighbour. -/
theorem drawbarFrame_holds {cmd : Nat → Instr} {port : Fin 12} {mode ago : Nat} {bytes : List Byte} {run : State → Nat → DrawView → State}
    (hcmd : ∀ dt s, exec (cmd dt) s = goDrawbar dt port mode ago bytes run s) : (Row.drawbarFrame cmd port mode ago bytes run).Holds :=
  Clause.holds_of_goConsist hcmd fun u _ h => by
    simp only [Bool.and_eq_true, Bool.not_eq_true', beq_iff_eq] at h
    obtain ⟨⟨⟨⟨⟨⟨hup, hhears⟩, hdrawbar⟩, hgroup⟩, hgood⟩, hmode⟩, hheld⟩ := h
    exact ⟨hup, by simp [State.drawFrame, hhears, hdrawbar, hgroup, hgood, hmode, hheld]⟩

section
variable (port : Fin 12) (bytes : List Byte)

theorem drawbarLookupFrame_holds (ago : Nat) : (Row.drawbarLookupFrame port bytes ago).Holds :=
  drawbarFrame_holds fun dt s => (rfl : execDrawbarLookupFrame dt port bytes ago s = _)

theorem drawbarUnicastFrame_holds (ago : Nat) : (Row.drawbarUnicastFrame port bytes ago).Holds :=
  drawbarFrame_holds fun dt s => (rfl : execDrawbarUnicastFrame dt port bytes ago s = _)

theorem drawbarFloodFrame_holds (ago : Nat) : (Row.drawbarFloodFrame port bytes ago).Holds :=
  drawbarFrame_holds fun dt s => (rfl : execDrawbarFloodFrame dt port bytes ago s = _)

theorem rollCallReceived_holds (dist : Fin 8) : (Row.rollCallReceived port bytes dist).Holds :=
  drawbarFrame_holds fun dt s => (rfl : execRollCallReceived dt port bytes dist s = _)

theorem managementRequest_holds : (Row.managementRequest port bytes).Holds :=
  drawbarFrame_holds fun dt s => (rfl : execManagementRequest dt port bytes s = _)

theorem managementAnswer_holds : (Row.managementAnswer port bytes).Holds :=
  drawbarFrame_holds fun dt s => (rfl : execManagementAnswer dt port bytes s = _)

end

/-! ### Timers (R462–R468) -/

theorem rollCallTimer_holds : Row.rollCallTimer.Holds :=
  Clause.holds_of_goConsist (fun dt s => (rfl : execRollCallTimer dt s = _)) fun u _ h => by
    simp only [Bool.and_eq_true] at h
    exact ⟨h.1, by simp [State.sendRollCall, h.2]⟩

theorem heardTimeout_holds (d : Fin 8) : (Row.heardTimeout d).Holds :=
  Clause.holds_of_goConsist (fun dt s => (rfl : execHeardTimeout dt d s = _)) fun u _ h => by
    simp only [Bool.and_eq_true] at h
    obtain ⟨hup, hdue⟩ := h
    refine ⟨hup, ?_⟩
    cases hm : mapGet u.consist.members d.val with
    | none => simp [hm] at hdue
    | some m =>
      simp only [hm, decide_eq_true_eq] at hdue
      simp [State.heardOut, hm, hdue]

/-- Where another member is to be master, the choice takes effect with a new term. -/
theorem State.updateMaster_changed {u : State} (hon : u.consistOn = true) (hnew : u.chooseMaster ≠ u.consist.master) :
    u.updateMaster =
      let t := (u.withConsist fun c => { c with master := u.chooseMaster }).setTerm (u.consist.members.foldl (fun a m => max a m.2.term) u.term + 1)
      (t.event 21 0x130 (deviceOr u.chooseMaster) (deviceOr u.consist.master) t.term).sendRollCall := by
  simp [State.updateMaster, hon, hnew]

theorem preemptHoldExpiry_holds : Row.preemptHoldExpiry.Holds :=
  Clause.holds_of_goConsist (fun dt s => (rfl : execPreemptHoldExpiry dt s = _)) fun u _ h => by
    simp only [Bool.and_eq_true, bne_iff_ne] at h
    exact ⟨h.1.1, State.updateMaster_changed h.1.2 h.2⟩

theorem wardenGraceExpiry_holds : Row.wardenGraceExpiry.Holds :=
  Clause.holds_of_goConsist (fun dt s => (rfl : execWardenGraceExpiry dt s = _)) fun u _ h => by
    simp only [Bool.and_eq_true, bne_iff_ne] at h
    exact ⟨h.1.1, State.updateMaster_changed h.1.2 h.2⟩

theorem forwardTimeout_holds (slot : Fin 32) : (Row.forwardTimeout slot).Holds :=
  Clause.holds_of_goOn (fun dt s => (rfl : execForwardTimeout dt slot s = _)) fun u _ h => by
    simp only [Bool.and_eq_true] at h
    obtain ⟨hon, hdue⟩ := h
    refine ⟨hon, ?_⟩
    cases hf : mapGet u.consist.slots slot.val with
    | none => simp [hf] at hdue
    | some f =>
      cases ht : f.sentAt with
      | none => simp [hf, ht] at hdue
      | some t =>
        simp only [hf, ht, decide_eq_true_eq] at hdue
        simp [State.forwardTimeout, hf, ht, hdue]

theorem conflictClear_holds : Row.conflictClear.Holds :=
  Clause.holds_of_goConsist (fun dt s => (rfl : execConflictClear dt s = _)) fun u _ h => by
    simp only [Bool.and_eq_true, decide_eq_true_eq] at h
    exact ⟨h.1.1, if_pos ⟨h.1.2, h.2⟩⟩

/-! ### The session target (R466) -/

theorem sessionTargetWrite_holds (sess : Nat) (value : BitVec 32) : (Row.sessionTargetWrite sess value).Holds :=
  asWrite_holds (fun _ _ => rfl) fun _ _ t _ => by simp [State.setObj]

/-- Settles O60. -/
theorem consistCommandsComplete : Obligations.ConsistCommandsComplete := by
  unfold Obligations.ConsistCommandsComplete
  exact ⟨drawbarLookupFrame_holds, drawbarUnicastFrame_holds, drawbarFloodFrame_holds, rollCallReceived_holds, managementRequest_holds,
    managementAnswer_holds, rollCallTimer_holds, heardTimeout_holds, preemptHoldExpiry_holds, wardenGraceExpiry_holds, forwardTimeout_holds,
    conflictClear_holds, sessionTargetWrite_holds⟩

end Sys2Proof.Machine
end

section
/-! Chapters 9 and 10: the firewall's halves, cipher operations, working keys and freshness. -/

namespace Sys2Proof.Machine

/-! ### The firewall (R251–R254) -/

theorem shadowRuleWrite_holds (sess : Nat) (window : Fin 3) (k : Nat) (r : List Byte) : (Row.shadowRuleWrite sess window k r).Holds := by
  match window with
  | 0 => exact recordWrite_holds_of_size (by decide +kernel) (fun dt s => (rfl : execShadowRuleWrite dt sess 0 _ r s = _)) fun t => by simp [State.putRecord]
  | 1 => exact recordWrite_holds_of_size (by decide +kernel) (fun dt s => (rfl : execShadowRuleWrite dt sess 1 _ r s = _)) fun t => by simp [State.putRecord]
  | 2 => exact recordWrite_holds_of_size (by decide +kernel) (fun dt s => (rfl : execShadowRuleWrite dt sess 2 _ r s = _)) fun t => by simp [State.putRecord]

theorem copyToShadow_holds (sess : Nat) : (Row.copyToShadow sess).Holds :=
  asWrite_holds (fun _ _ => rfl) fun _ _ t _ => by
    simp [State.setObj, State.putScalar, State.fwCopyStart]

theorem copyToShadowDone_holds : Row.copyToShadowDone.Holds :=
  Clause.holds_of_goRun (fun dt s => (rfl : execCopyToShadowDone dt s = _)) fun u _ h => by
    simp only [Bool.and_eq_true] at h
    exact ⟨h.1, if_pos h.2⟩

theorem swap_holds (sess : Nat) : (Row.swap sess).Holds :=
  asWrite_holds (fun _ _ => rfl) fun _ _ t _ => by
    simp [State.setObj, State.putScalar, State.fwSwap]

theorem ruleScrub_holds (errs : ReadErrs) : (Row.ruleScrub errs).Holds :=
  Clause.holds_of_goRun (fun dt s => (rfl : execRuleScrub dt errs s = _)) fun u _ h => by
    simp only [Bool.and_eq_true] at h
    exact ⟨h.1, if_pos h.2⟩

/-! ### Cipher operations (R258–R273) -/

/-- The end of a running operation of an engine, by what it does. -/
theorem opEnd_holds {cmd : Nat → Instr} {k e : Nat} {ok : State → CryptoOp → Bool} {f g : State → CryptoOp → State}
    (hcmd : ∀ dt s, exec (cmd dt) s = goRun dt (fun s => s.onEngine k e g) s)
    (heff : ∀ u o, ok u o = true → g u o = f u o) : (Row.opEnd cmd k e ok f).Holds :=
  Clause.holds_of_goRun hcmd fun u _ h => by
    simp only [Bool.and_eq_true] at h
    obtain ⟨⟨hrun, hworks⟩, hop⟩ := h
    refine ⟨hrun, ?_⟩
    cases ho : u.opOn k e with
    | none => simp [ho] at hop
    | some o =>
      simp only [ho] at hop
      simp [State.onEngine, hworks, ho, heff u o hop]

theorem authenticatorVerifyDone_holds (cluster : Fin 5) (engine : Fin 16) (ctxError : Bool) :
    (Row.authenticatorVerifyDone cluster engine ctxError).Holds :=
  opEnd_holds (fun dt s => (rfl : execAuthenticatorVerifyDone dt cluster engine ctxError s = _)) fun u o hok => by
    simp only [Bool.and_eq_true, beq_iff_eq, Option.isSome_iff_exists] at hok
    obtain ⟨hkind, f, hf⟩ := hok
    rw [if_pos hkind]
    simp only [State.verifyEnds, hf]

/-- The end of an operation that is no check, whose frame stands in the buffer. -/
theorem State.opEnds_cipher {u : State} {o : CryptoOp} {f : Frame} (hf : u.frame? o.frame = some f) (hkind : o.kind ≠ 4) (ctxError : Bool) :
    u.opEnds o ctxError =
      if o.kind = 1 then (u.dropOp o).macsecOpened o f ctxError
      else if o.kind = 3 then (u.dropOp o).cansecOpened o f ctxError
      else if ctxError then u.abortContext o
      else (u.dropOp o).txEnds o f := by
  simp only [State.opEnds, hf, if_neg hkind]

theorem protectionEnds_holds (cluster : Fin 5) (engine : Fin 16) : (Row.protectionEnds cluster engine).Holds :=
  opEnd_holds (fun dt s => (rfl : execCryptoOperationEnd dt cluster engine false s = _)) fun u o hok => by
    simp only [Bool.and_eq_true, Bool.or_eq_true, beq_iff_eq, Option.isSome_iff_exists] at hok
    obtain ⟨hkind, f, hf⟩ := hok
    rw [State.opEnds_cipher hf (by omega), if_neg (by omega), if_neg (by omega), if_neg (by decide), hf]

theorem openingEnds_holds (cluster : Fin 5) (engine : Fin 16) (ctxError : Bool) : (Row.openingEnds cluster engine ctxError).Holds :=
  opEnd_holds (fun dt s => (rfl : execCryptoOperationEnd dt cluster engine ctxError s = _)) fun u o hok => by
    simp only [Bool.and_eq_true, Bool.or_eq_true, beq_iff_eq, Option.isSome_iff_exists] at hok
    obtain ⟨hkind, f, hf⟩ := hok
    rw [State.opEnds_cipher hf (by omega), hf]
    rcases hkind with hkind | hkind <;> simp [hkind]

theorem suspendedResume_holds (cluster : Fin 5) (engine : Fin 16) : (Row.suspendedResume cluster engine).Holds :=
  Clause.holds_of_goRun (fun dt s => (rfl : execSuspendedResume dt cluster engine s = _)) fun u _ h => by
    simp only [Bool.and_eq_true, Bool.not_eq_true'] at h
    obtain ⟨⟨⟨⟨hrun, hworks⟩, hidle⟩, hcalm⟩, -⟩ := h
    refine ⟨hrun, ?_⟩
    rw [if_pos hworks, State.resumeOp, hidle, hcalm]
    rfl

/-! ### Working keys (R260–R262) and freshness (R274) -/

theorem keyDerivationDone_holds (cluster : Fin 5) : (Row.keyDerivationDone cluster).Holds :=
  Clause.holds_of_goOn (fun dt s => (rfl : execKeyDerivationDone dt cluster s = _)) fun u _ h => by
    simp only [Bool.and_eq_true] at h
    obtain ⟨⟨⟨hon, hcluster⟩, hstore⟩, hparent⟩ := h
    refine ⟨hon, ?_⟩
    cases hx : u.crypto.derive_.find? fun x => x / 8192 == cluster.val with
    | none => simp [hx] at hparent
    | some x =>
      simp only [hx, Bool.and_eq_true, Bool.not_eq_true'] at hparent
      obtain ⟨⟨hrevoked, henabled⟩, hkey⟩ := hparent
      simp only [State.derived, hcluster, hstore, hx, hrevoked, henabled]
      rfl

theorem freshnessCommit_holds : Row.freshnessCommit.Holds :=
  Clause.holds_of_goOn (fun dt s => (rfl : execFreshnessCommit dt s = _)) fun u _ h => by
    simp only [Bool.and_eq_true, decide_eq_true_eq, Bool.not_eq_true'] at h
    obtain ⟨⟨⟨hon, hdue⟩, hstore⟩, hpower⟩ := h
    exact ⟨hon, if_neg (by simp [Nat.not_lt.2 hdue, hstore, hpower])⟩

/-- Settles O46. -/
theorem firewallAndCipherCommandsComplete : Obligations.FirewallAndCipherCommandsComplete := by
  unfold Obligations.FirewallAndCipherCommandsComplete
  exact ⟨shadowRuleWrite_holds, copyToShadow_holds, copyToShadowDone_holds, swap_holds, ruleScrub_holds, authenticatorVerifyDone_holds,
    protectionEnds_holds, openingEnds_holds, suspendedResume_holds, keyDerivationDone_holds, freshnessCommit_holds⟩

end Sys2Proof.Machine
end

section
/-! Chapter 11: key actions, attestation, life cycle, sensors, configuration images, brown-out. -/

namespace Sys2Proof.Machine

/-! ### Key actions (O47) -/

/-- A scalar of four bytes is written as four bytes. -/
theorem scalarBytes_four {idx sub : Nat} (h : (objRow idx sub).map ObjRow.size = some 4) (v : Nat) : scalarBytes idx sub v = leBytes 4 v := by
  cases hrow : objRow idx sub with
  | none => simp [hrow] at h
  | some row =>
    have hsize : row.size = 4 := by simpa [hrow] using h
    rw [scalarBytes, hrow, ← hsize]

/-- The fields of the key command word (Table 11.4). -/
theorem keyWord_fields {h act kind : Nat} (wide : Bool) (hh : h < 65536) (hact : act < 16) (hkind : kind < 4) :
    let v := keyWord h act kind wide
    v < 2 ^ 64 ∧ fld v 15 0 = h ∧ fld v 19 16 = act ∧ fld v 21 20 = kind ∧ tb v 22 = wide := by
  have hwide := Bool.toNat_le wide
  simp only [keyWord, fld, tb]
  refine ⟨by omega, by omega, by omega, by omega, ?_⟩
  cases wide <;> simp <;> omega

/-- The start of a key command, by the fields of its word. -/
theorem State.keyCommand_of_word {t : State} {h act kind : Nat} {wide : Bool} (hword : t.rd 0x8010 1 = keyWord h act kind wide)
    (hh : h < 65536) (hact : act < 16) (hkind : kind < 4) (sess : Nat) :
    t.keyCommand sess = Row.keyDone sess h act (t.keyAct h act kind (t.rdF 0x8010 2 15 0) wide (t.winBytes 0x8010 3 0 16)) := by
  obtain ⟨-, hh, hact, hkind, hwide⟩ := keyWord_fields wide hh hact hkind
  simp only [State.keyCommand, hword, hh, hact, hkind, hwide]
  rfl

/-- An action that the key store takes. -/
theorem State.keyAct_served {t : State} {act : Nat} (hserve : Row.keysServe act t = true) (h kind parent : Nat) (wide : Bool) (label : List Byte) :
    t.keyAct h act kind parent wide label =
      if act = 1 then t.keyDefine h parent kind wide label
      else if act = 2 then t.keyGenerate h kind wide
      else if act = 3 then t.keyImport h
      else if act = 4 then t.keyRotate h
      else if act = 5 then t.keyRevoke h
      else if act = 6 then t.keyDelete h
      else if act = 7 then t.keyReseal h (t.measureSlot t.inactiveSlot)
      else if act = 8 then t.keyClose h
      else (keyRefused 3 0, t) := by
  simp only [Row.keysServe, Bool.and_eq_true, Bool.or_eq_true, Bool.not_eq_true', beq_iff_eq] at hserve
  obtain ⟨⟨hpower, hstore⟩, hopen⟩ := hserve
  refine if_neg ?_
  rintro (h | h | ⟨hmigrating, h5, h8⟩)
  · simp [hpower] at h
  · simp [hstore] at h
  · simp [hmigrating, h5, h8] at hopen

/-- A word stored reads as it was written, behind a lock taken. -/
theorem State.stored_rd_taken {u : State} (hcan : u.canonical) {sess i a v : Nat} (hv : v < 2 ^ 64) (j : Nat) :
    ((u.stored sess i a v).taken sess j).rd i a = v := by
  rw [State.taken_rd, State.stored_rd hcan, Nat.mod_eq_of_lt hv]

/-- The bytes that a key command writes are those of its scalars. -/
theorem keyBytes (h act kind : Nat) (wide : Bool) :
    leBytes 4 (keyWord h act kind wide) = scalarBytes 0x8010 1 (keyWord h act kind wide) ∧ leBytes 4 1 = scalarBytes 0x8010 4 1 :=
  ⟨(scalarBytes_four (by decide +kernel) _).symm, (scalarBytes_four (by decide +kernel) _).symm⟩

/-- A key command of one word, by what the key store does for its action. -/
theorem keyRow_holds {cmd : Nat → Instr} {sess h act kind : Nat} {wide : Bool} {run : State → KeyAnswer × State}
    (hcmd : ∀ dt s, exec (cmd dt) s = goKey dt sess h act kind wide [] s) (hh : h < 65536) (hact : act < 16) (hkind : kind < 4)
    (hrun : ∀ (t : State) parent label, Row.keysServe act t = true → t.keyAct h act kind parent wide label = run t) :
    (Row.keyRow cmd sess h act kind wide run).Holds := by
  have hbytes := keyBytes h act kind wide
  refine asStart_holds (words := [(0x8010, 1, keyWord h act kind wide)]) (fun dt s => ?_)
    (setObj_words (by simp only [List.map_cons, List.map_nil]; decide)) fun row _ u hcan hok => ?_
  · rw [hcmd, goKey, hbytes.1, hbytes.2]
    rfl
  · have hserve := (Bool.and_eq_true_iff.1 hok).1
    have hword := State.stored_rd_taken hcan (sess := sess) (i := 0x8010) (a := 1) (keyWord_fields wide hh hact hkind).1 0x8010
    rw [State.setObj_security (by decide) (by decide) (by decide) not_one_zero, State.putSecurity, if_neg (by decide), if_pos (by decide)]
    refine (State.keyCommand_of_word hword hh hact hkind sess).trans ?_
    rw [← hrun _ _ _ hserve]
    rfl

theorem keyGenerate_holds (sess : Nat) (h : BitVec 16) (kind : Fin 3) (wide : Bool) : (Row.keyGenerate sess h kind wide).Holds :=
  keyRow_holds (fun dt s => (rfl : execKeyGenerate dt sess h kind wide s = _)) h.isLt (by decide) (by omega) fun t parent label hserve =>
    (State.keyAct_served hserve _ _ parent _ label).trans (by simp)

theorem keyRotate_holds (sess : Nat) (h : BitVec 16) : (Row.keyRotate sess h).Holds :=
  keyRow_holds (fun dt s => (rfl : execKeyRotate dt sess h s = _)) h.isLt (by decide) (by decide) fun t parent label hserve =>
    (State.keyAct_served hserve _ _ parent _ label).trans (by simp)

theorem keyRevoke_holds (sess : Nat) (h : BitVec 16) : (Row.keyRevoke sess h).Holds :=
  keyRow_holds (fun dt s => (rfl : execKeyRevoke dt sess h s = _)) h.isLt (by decide) (by decide) fun t parent label hserve =>
    (State.keyAct_served hserve _ _ parent _ label).trans (by simp)

theorem keyDelete_holds (sess : Nat) (h : BitVec 16) : (Row.keyDelete sess h).Holds :=
  keyRow_holds (fun dt s => (rfl : execKeyDelete dt sess h s = _)) h.isLt (by decide) (by decide) fun t parent label hserve =>
    (State.keyAct_served hserve _ _ parent _ label).trans (by simp)

theorem keyReseal_holds (sess : Nat) : (Row.keyReseal sess).Holds :=
  keyRow_holds (fun dt s => (rfl : execKeyReseal dt sess s = _)) (by decide) (by decide) (by decide) fun t parent label hserve =>
    (State.keyAct_served hserve _ _ parent _ label).trans (by simp)

theorem closeMigration_holds (sess : Nat) : (Row.closeMigration sess).Holds :=
  keyRow_holds (fun dt s => (rfl : execCloseMigration dt sess s = _)) (by decide) (by decide) (by decide) fun t parent label hserve =>
    (State.keyAct_served hserve _ _ parent _ label).trans (by simp)

/-- A blob written to a window of the key store stands in it as it is. -/
theorem State.putRecord_keyBlob {idx sub : Nat} (h : (idx, sub) ∈ [(0x8010, 3), (0x8012, 0), (0x8020, 2)]) (row : Nat) (t : State) (blob : List Byte) :
    t.putRecord idx sub row 0 blob = t.setWin idx sub 0 blob := by
  simp only [List.mem_cons, Prod.mk.injEq, List.not_mem_nil, or_false] at h
  obtain ⟨rfl, rfl⟩ | ⟨rfl, rfl⟩ | ⟨rfl, rfl⟩ := h <;> simp [State.putRecord]

theorem keyDefine_holds (sess : Nat) (h : BitVec 16) (kind : Fin 3) (wide : Bool) (parent : BitVec 16) (label : List Byte) :
    (Row.keyDefine sess h kind wide parent label).Holds := by
  have hbytes := keyBytes h.toNat 1 kind.val wide
  have hparentBytes : leBytes 4 parent.toNat = scalarBytes 0x8010 2 parent.toNat := (scalarBytes_four (by decide +kernel) _).symm
  refine asBlob_holds (fun dt s => ?_) (setObj_words (by simp only [List.map_cons, List.map_nil]; decide))
    (fun row t => State.putRecord_keyBlob (by decide) row t label) fun row _ u hcan hok => ?_
  · refine (show _ = execKeyDefine dt sess h kind wide parent label s from rfl).trans ?_
    rw [execKeyDefine, goKey, hbytes.1, hbytes.2, hparentBytes]
    rfl
  · have hserve := (Bool.and_eq_true_iff.1 hok).1
    have hwordlt := (keyWord_fields (h := h.toNat) (act := 1) (kind := kind.val) wide h.isLt (by decide) (by omega)).1
    have hcan' := State.stored_canonical hcan sess 0x8010 1 (keyWord h.toNat 1 kind.val wide)
    have hword : ((((u.storedAll sess [(0x8010, 1, keyWord h.toNat 1 kind.val wide), (0x8010, 2, parent.toNat)]).storedWindow sess 0x8010 3
        label)).taken sess 0x8010).rd 0x8010 1 = keyWord h.toNat 1 kind.val wide := by
      rw [State.taken_rd, State.storedWindow_rd]
      refine (State.stored_rd_ne hcan' sess parent.toNat (by decide)).trans ?_
      rw [State.stored_rd hcan, Nat.mod_eq_of_lt hwordlt]
    have hparent : ((((u.storedAll sess [(0x8010, 1, keyWord h.toNat 1 kind.val wide), (0x8010, 2, parent.toNat)]).storedWindow sess 0x8010 3
        label)).taken sess 0x8010).rdF 0x8010 2 15 0 = parent.toNat := by
      rw [State.rdF, State.taken_rd, State.storedWindow_rd]
      refine (congrArg (fld · 15 0) (State.stored_rd hcan' sess 0x8010 2 parent.toNat)).trans ?_
      have := parent.isLt
      simp only [fld]
      omega
    rw [State.setObj_security (by decide) (by decide) (by decide) not_one_zero, State.putSecurity, if_neg (by decide), if_pos (by decide)]
    refine (State.keyCommand_of_word hword h.isLt (by decide) (by omega) sess).trans ?_
    rw [hparent, State.keyAct_served hserve]
    rfl

theorem keyImport_holds (sess : Nat) (h : BitVec 16) (blob : List Byte) : (Row.keyImport sess h blob).Holds := by
  have hbytes := keyBytes h.toNat 3 0 true
  refine asBlob_holds (fun dt s => ?_) (setObj_words (by simp only [List.map_cons, List.map_nil]; decide))
    (fun row t => State.putRecord_keyBlob (by decide) row t blob) fun row _ u hcan hserve => ?_
  · refine (show _ = execKeyImport dt sess h blob s from rfl).trans ?_
    rw [execKeyImport, goKey, hbytes.1, hbytes.2]
    rfl
  · have hwordlt := (keyWord_fields (h := h.toNat) (act := 3) (kind := 0) true h.isLt (by decide) (by decide)).1
    have hword : ((((u.storedAll sess [(0x8010, 1, keyWord h.toNat 3 0 true)]).storedWindow sess 0x8012 0 blob)).taken sess 0x8010).rd 0x8010 1
        = keyWord h.toNat 3 0 true := by
      rw [State.taken_rd, State.storedWindow_rd]
      refine (State.stored_rd hcan sess 0x8010 1 _).trans ?_
      rw [Nat.mod_eq_of_lt hwordlt]
    rw [State.setObj_security (by decide) (by decide) (by decide) not_one_zero, State.putSecurity, if_neg (by decide), if_pos (by decide)]
    refine (State.keyCommand_of_word hword h.isLt (by decide) (by decide) sess).trans ?_
    rw [State.keyAct_served hserve]
    rfl

/-! ### Entropy and session keys (R287, R288) -/

theorem entropyFails_holds : Row.entropyFails.Holds :=
  Clause.holds_of_goOn (fun dt s => (rfl : execEntropyHealthFail dt false s = _)) fun u _ h => by
    simp only [Bool.and_eq_true, Bool.not_eq_true'] at h
    obtain ⟨⟨hon, hstore⟩, hgood⟩ := h
    exact ⟨hon, by simp [State.entropyHealth, hstore, hgood]⟩

theorem entropyPasses_holds : Row.entropyPasses.Holds :=
  Clause.holds_of_goOn (fun dt s => (rfl : execEntropyHealthFail dt true s = _)) fun u _ h => by
    simp only [Bool.and_eq_true] at h
    obtain ⟨⟨hon, hstore⟩, hbad⟩ := h
    exact ⟨hon, by simp [State.entropyHealth, hstore, hbad]⟩

theorem sakGenerated_holds (handle : Fin 512) (cak : BitVec 16) (wide : Bool) : (Row.sakGenerated handle cak wide).Holds :=
  Clause.holds_of_goOn (fun dt s => (rfl : execMkaSak dt handle cak wide none s = _)) fun u _ h => by
    simp only [Bool.and_eq_true, Bool.not_eq_true', beq_iff_eq, Option.isSome_iff_exists] at h
    obtain ⟨⟨⟨⟨⟨hon, hpair⟩, hstore⟩, hcak⟩, key, hkey⟩, hentropy⟩ := h
    exact ⟨hon, by simp [State.mkaSak, hpair, hstore, hcak, hkey, hentropy]⟩

theorem sakUnwrapped_holds (handle : Fin 512) (cak : BitVec 16) (wide : Bool) (w : List Byte) : (Row.sakUnwrapped handle cak wide w).Holds :=
  Clause.holds_of_goOn (fun dt s => (rfl : execMkaSak dt handle cak wide (some w) s = _)) fun u _ h => by
    simp only [Bool.and_eq_true, beq_iff_eq, Option.isSome_iff_exists] at h
    obtain ⟨⟨⟨⟨hon, hpair⟩, hstore⟩, hcak⟩, key, hkey⟩ := h
    refine ⟨hon, ?_⟩
    simp only [State.mkaSak, hpair, hstore, hcak, hkey]
    cases hw : Config.keyUnwrap (Config.mkaKek cak.toNat key.2 key.1) w <;> simp

/-- Settles O47. -/
theorem keyActionsComplete : Obligations.KeyActionsComplete := by
  unfold Obligations.KeyActionsComplete
  exact ⟨keyDefine_holds, keyGenerate_holds, keyImport_holds, keyRotate_holds, keyRevoke_holds, keyDelete_holds, keyReseal_holds,
    closeMigration_holds, entropyFails_holds, entropyPasses_holds, sakGenerated_holds, sakUnwrapped_holds⟩

end Sys2Proof.Machine
end

section
/-! Chapter 11: attestation, life cycle, sensors, configuration images and brown-out. -/

namespace Sys2Proof.Machine

/-- The fields of an attestation's word (Table 11.9). -/
theorem attestWord_fields (h : BitVec 16) (kind : Fin 16) :
    let v := h.toNat + 65536 * kind.val
    v < 2 ^ 64 ∧ fld v 15 0 = h.toNat ∧ fld v 19 16 = kind.val := by
  have := h.isLt
  have := kind.isLt
  simp only [fld]
  refine ⟨?_, ?_, ?_⟩ <;> omega

/-- A statement is made for a known handle while no brown-out warning stands. -/
theorem State.attest_of_known {t : State} {kind h : Nat} (hkind : t.rdF 0x8020 1 19 16 = kind) (hhandle : t.rdF 0x8020 1 15 0 = h)
    (hpower : t.key.brownOut = false) (hknown : ((kind ≠ 1 ∨ h = 1) ∨ (configured? h).isSome = true) ∨ isSessHandle h = true) :
    t.attest = (t.setWin 0x8021 0 0 (t.statement kind h (t.rdB 0x2030 1 1 || t.rdB 0x2030 2 1))).wr 0x8020 4 0 := by
  have hnot : ¬ (kind = 1 ∧ !(h == 1 || (configured? h).isSome || isSessHandle h)) := by
    rintro ⟨hone, hunknown⟩
    simp only [Bool.not_eq_true', Bool.or_eq_false_iff, beq_eq_false_iff_ne] at hunknown
    obtain ⟨⟨hne, hnone⟩, hsess⟩ := hunknown
    rcases hknown with (((hkind | hdik) | hconf) | hhand)
    · exact hkind hone
    · exact hne hdik
    · simp [hnone] at hconf
    · simp [hsess] at hhand
  rw [State.attest, hkind, hhandle, if_neg (by simp [hpower]), if_neg hnot]

theorem attestation_holds (sess : Nat) (h : BitVec 16) (kind : Fin 16) (nonce : List Byte) : (Row.attestation sess h kind nonce).Holds := by
  obtain ⟨hv, hhandle, hkind⟩ := attestWord_fields h kind
  have hword : leBytes 4 (h.toNat + 65536 * kind.val) = scalarBytes 0x8020 1 (h.toNat + 65536 * kind.val) :=
    (scalarBytes_four (by decide +kernel) _).symm
  have hstart : leBytes 4 1 = scalarBytes 0x8020 3 1 := (scalarBytes_four (by decide +kernel) _).symm
  refine asBlob_holds (fun dt s => ?_) (setObj_words (by simp only [List.map_cons, List.map_nil]; decide))
    (fun row t => State.putRecord_keyBlob (by decide) row t nonce) fun row _ u hcan hok => ?_
  · refine (show _ = execAttestation dt sess h kind nonce s from rfl).trans ?_
    rw [execAttestation, hword, hstart]
    rfl
  · have hread : ((((u.storedAll sess [(0x8020, 1, h.toNat + 65536 * kind.val)]).storedWindow sess 0x8020 2 nonce)).taken sess 0x8020).rd 0x8020 1
        = h.toNat + 65536 * kind.val := by
      rw [State.taken_rd, State.storedWindow_rd]
      refine (State.stored_rd hcan sess 0x8020 1 _).trans ?_
      rw [Nat.mod_eq_of_lt hv]
    simp only [Bool.and_eq_true, Bool.or_eq_true, Bool.not_eq_true', bne_iff_ne, ne_eq, beq_iff_eq] at hok
    obtain ⟨hpower, hknown⟩ := hok
    rw [State.setObj_security (by decide) (by decide) (by decide) not_one_zero, State.putSecurity, if_neg (by decide), if_neg (by decide), if_pos (by decide)]
    exact State.attest_of_known ((congrArg (fld · 19 16) hread).trans hkind) ((congrArg (fld · 15 0) hread).trans hhandle) hpower hknown

theorem lifeCycleRequest_holds (sess : Nat) (target : Fin 8) : (Row.lifeCycleRequest sess target).Holds :=
  asWrite_holds (fun _ _ => rfl) fun row hrow t hok => by
    simp only [Bool.and_eq_true, Bool.not_eq_true'] at hok
    obtain ⟨⟨hpower, hstore⟩, hallowed⟩ := hok
    have hrs := not_start_zero (v := target.val) hrow rfl (by decide)
    rw [State.setObj_security (by decide) (by decide) (by decide) hrs]
    simp [State.putSecurity, State.lifeRequest, hpower, hstore, hallowed]

theorem sensorTrip_holds (sensor : Fin 9) (cars : List (Fin 47)) (sess : Nat) : (Row.sensorTrip sensor cars sess).Holds :=
  Clause.holds_of_goOn (fun dt s => (rfl : execSensorTrip dt sensor cars sess s = _)) fun u _ h => by
    simp only [Bool.and_eq_true, Bool.not_eq_true', Bool.and_eq_false_iff, decide_eq_false_iff_not, beq_eq_false_iff_ne, ne_eq] at h
    obtain ⟨⟨hon, hglitch⟩, hdebug⟩ := h
    refine ⟨hon, ?_⟩
    have hglitch : ¬ (sensor.val ≤ 1 ∧ u.key.brownOut = true) := by
      rintro ⟨hlow, hpower⟩
      simp [hlow, hpower] at hglitch
    have hdebug : ¬ (sensor.val = 8 ∧ debugOpen u.life = true) := by
      rintro ⟨height, hopen⟩
      simp [height, hopen] at hdebug
    unfold State.sensorTrip
    rw [if_neg hglitch, if_neg hdebug]
    rfl

theorem thaw_holds (sess : Nat) : (Row.thaw sess).Holds :=
  asWrite_holds (fun _ _ => rfl) fun _ _ t _ => by
    rw [State.setObj_security (by decide) (by decide) (by decide) not_one_zero]
    rfl

/-! ### Configuration images (R312, R313) -/

/-- A configuration action runs where no brown-out warning stands. -/
theorem configStart_holds {cmd : Nat → Instr} {sess act : Nat} {eff : State → State} (hact : act < 8)
    (hcmd : ∀ dt s, exec (cmd dt) s = goOn dt (fun s => s.putsAll sess [(0x8050, 1, act), (0x8050, 2, 1)]) s)
    (heff : ∀ t : State, t.rdF 0x8050 1 2 0 = act → t.key.brownOut = false → t.configStart = eff t) :
    (asStart cmd sess [(0x8050, 1, act)] 0x8050 2 eff fun t => !t.key.brownOut).Holds :=
  asStart_holds hcmd (setObj_words (by simp only [List.map_cons, List.map_nil]; decide)) fun row _ u hcan hpower => by
    have hfield : fld act 2 0 = act := by
      simp only [fld]
      omega
    have hread := (State.stored_rdF hcan (sess := sess) (i := 0x8050) (a := 1) (v := act) (by omega) 0x8050 2 0).trans hfield
    rw [← heff ((u.storedAll sess [(0x8050, 1, act)]).taken sess 0x8050) hread (by simpa using hpower), State.setObj, if_pos (by decide),
      if_pos rfl]

theorem configExport_holds (sess : Nat) : (Row.configExport sess).Holds :=
  configStart_holds (by decide) (fun dt s => (rfl : execConfigExport dt sess s = _)) fun t hact hpower => by
    simp [State.configStart, hact, hpower]

theorem configImport_holds (sess : Nat) : (Row.configImport sess).Holds :=
  configStart_holds (by decide) (fun dt s => (rfl : execConfigImport dt sess s = _)) fun t hact hpower => by
    simp [State.configStart, hact, hpower]

theorem configCheckOnly_holds (sess : Nat) : (Row.configCheckOnly sess).Holds :=
  configStart_holds (by decide) (fun dt s => (rfl : execConfigCheckOnly dt sess s = _)) fun t hact hpower => by
    simp [State.configStart, hact, hpower]

theorem configExportDone_holds : Row.configExportDone.Holds :=
  Clause.holds_of_goOn (fun dt s => (rfl : execConfigExportDone dt s = _)) fun _ _ h => ⟨(Bool.and_eq_true_iff.1 h).1, rfl⟩

/-! ### Brown-out (R294, R356) -/

theorem brownOutWarning_holds : Row.brownOutWarning.Holds :=
  Clause.holds_of_goAny (fun dt s => (rfl : execBrownOutWarning dt s = _)) fun u _ h => by
    simp only [State.alive, Bool.and_eq_true, bne_iff_ne, Bool.not_eq_true'] at h
    exact ⟨h.1, by simp [State.brownOut, h.2]⟩

theorem brownOutClear_holds : Row.brownOutClear.Holds :=
  Clause.holds_of_goAny (fun dt s => (rfl : execBrownOutClear dt s = _)) fun u _ h => by
    simp only [State.alive, Bool.and_eq_true, bne_iff_ne, decide_eq_true_eq] at h
    obtain ⟨⟨⟨hmode, hwarned⟩, hfabric⟩, hclear⟩ := h
    exact ⟨hmode, if_pos ⟨hwarned, hfabric, hclear⟩⟩

/-- Settles O48. -/
theorem securityStateCommandsComplete : Obligations.SecurityStateCommandsComplete := by
  unfold Obligations.SecurityStateCommandsComplete
  exact ⟨attestation_holds, lifeCycleRequest_holds, sensorTrip_holds, thaw_holds, configExport_holds, configImport_holds, configCheckOnly_holds,
    configExportDone_holds, brownOutWarning_holds, brownOutClear_holds⟩

end Sys2Proof.Machine
end

section
/-! Chapter 12: corrections, time-state timers, pulses, triggers, the calendar and the lifetime ledger. -/

namespace Sys2Proof.Machine

/-! ### Corrections (O49) -/

theorem timeCapture_holds (sess : Nat) : (Row.timeCapture sess).Holds :=
  asWrite_holds (fun _ _ => rfl) fun _ _ t hpresent => by
    have hpresent : t.present 42 = true := hpresent
    rw [State.setObj_capture, State.capture, hpresent]
    rfl

/-- The signed reading of a word is the integer that the bit vector stands for. -/
theorem signed_toNat {w : Nat} (hw : 0 < w) (x : BitVec w) : signed w x.toNat = x.toInt := by
  have hlt := x.isLt
  have hpow : 2 ^ w = 2 * 2 ^ (w - 1) := by
    rw [← Nat.pow_succ']
    congr 1
    omega
  rw [signed, BitVec.toInt_eq_toNat_cond, Nat.mod_eq_of_lt hlt]
  split <;> split <;> omega

/-- An apply takes the offset and the rate that stand in its scalars. -/
theorem State.applyCorrection_of {t : State} {offset : BitVec 64} {rate : BitVec 32} (hoffset : t.rd 0x7010 1 = offset.toNat)
    (hrate : t.rd 0x7010 2 = rate.toNat) : t.applyCorrection = t.applyTime offset.toInt rate.toInt := by
  rw [State.applyCorrection, hoffset, hrate, signed_toNat (by decide), signed_toNat (by decide)]

theorem timeApply_holds (sess : Nat) (offset : BitVec 64) (rate : BitVec 32) : (Row.timeApply sess offset rate).Holds :=
  asStart_holds (fun dt s => (rfl : execTimeApply dt sess offset rate s = _)) (setObj_words (by simp only [List.map_cons, List.map_nil]; decide))
    fun row _ u hcan _ => by
      have hcan' := State.stored_canonical hcan sess 0x7010 1 offset.toNat
      have hrate := State.stored_rd_taken hcan' (sess := sess) (i := 0x7010) (a := 2) (v := rate.toNat) (by omega) 0x7010
      have hoffset : (((u.stored sess 0x7010 1 offset.toNat).stored sess 0x7010 2 rate.toNat).taken sess 0x7010).rd 0x7010 1 = offset.toNat := by
        rw [State.taken_rd, State.stored_rd_ne hcan' sess rate.toNat (by decide), State.stored_rd hcan, Nat.mod_eq_of_lt offset.isLt]
      rw [State.setObj_time (by decide) (by decide) not_one_zero]
      exact State.applyCorrection_of hoffset hrate

/-- The time unit serves where the part runs and carriage 42 is PRESENT. -/
theorem timeUp_iff {u : State} : Row.timeUp u = true ↔ u.awake = true ∧ u.present 42 = true := by
  rw [Row.timeUp, Bool.and_eq_true]

theorem slewEnd_holds : Row.slewEnd.Holds :=
  Clause.holds_of_goTime (fun dt s => (rfl : execSlewEnd dt s = _)) fun u _ h => by
    simp only [timeUp_iff, Bool.and_eq_true, beq_iff_eq] at h
    obtain ⟨⟨⟨hon, hpresent⟩, hstate⟩, hdone⟩ := h
    exact ⟨hon, hpresent, if_pos ⟨hstate, hdone⟩⟩

theorem declareLoss_holds (sess : Nat) : (Row.declareLoss sess).Holds :=
  asWrite_holds (fun _ _ => rfl) fun _ _ t hok => by
    rw [State.setObj_time (by decide) (by decide) not_one_zero]
    exact if_neg (by simpa using hok)

theorem holdoverTimeout_holds : Row.holdoverTimeout.Holds :=
  Clause.holds_of_goTime (fun dt s => (rfl : execHoldoverTimeout dt s = _)) fun u _ h => by
    simp only [timeUp_iff, Bool.and_eq_true, Bool.or_eq_true, beq_iff_eq, decide_eq_true_eq] at h
    obtain ⟨⟨⟨hon, hpresent⟩, hstate⟩, hdue⟩ := h
    exact ⟨hon, hpresent, by simp [hstate, hdue, State.enterHoldover]⟩

theorem lossTimeout_holds : Row.lossTimeout.Holds :=
  Clause.holds_of_goTime (fun dt s => (rfl : execLossTimeout dt s = _)) fun u _ h => by
    simp only [timeUp_iff, Bool.and_eq_true, beq_iff_eq, decide_eq_true_eq] at h
    obtain ⟨⟨⟨hon, hpresent⟩, hstate⟩, hdue⟩ := h
    refine ⟨hon, hpresent, (if_pos ⟨hstate, hdue⟩).trans ?_⟩
    rw [State.declareLoss, hstate, if_neg (by decide)]
    exact if_neg (by decide)

/-- Settles O49. -/
theorem timeCorrectionsComplete : Obligations.TimeCorrectionsComplete := by
  unfold Obligations.TimeCorrectionsComplete
  exact ⟨timeCapture_holds, timeApply_holds, slewEnd_holds, declareLoss_holds, holdoverTimeout_holds, lossTimeout_holds⟩

/-! ### Pulses and triggers (O50) -/

theorem layoutOf_pulseObj : ∀ n : Fin 16, layoutOf (pulseObj n.val) = some (0x7200, n.val) := by decide

/-- A write of a pulse's enable word goes to the pulse. -/
theorem State.setObj_pulse {cfg : State → State} {t : State} {sess v : Nat} {row : ObjRow} (n : Fin 16) (hrow : objRow (pulseObj n.val) 1 = some row) :
    t.setObj cfg sess row (pulseObj n.val) 1 v = t.putPulse n.val v := by
  have hidx : pulseObj n.val = 0x7200 + n.val := rfl
  have hn := n.isLt
  rw [State.setObj_time (by omega) (by omega) (not_start_zero hrow (layoutOf_pulseObj n) (by decide)), State.putTime, if_neg (by omega), if_neg (by omega),
    if_neg (by omega), if_pos (by omega), show pulseObj n.val - 0x7200 = n.val by omega]

theorem pulseOn_holds (sess : Nat) (n : Fin 16) (value : BitVec 32) : (Row.pulseOn sess n value).Holds :=
  asWrite_holds (fun _ _ => rfl) fun _ hrow t hon => by
    rw [State.setObj_pulse n hrow]
    exact if_pos hon

theorem pulseOff_holds (sess : Nat) (n : Fin 16) (value : BitVec 32) : (Row.pulseOff sess n value).Holds :=
  asWrite_holds (fun _ _ => rfl) fun _ hrow t hoff => by
    rw [State.setObj_pulse n hrow]
    exact if_neg (by simpa using hoff)

theorem pulseEdge_holds (n : Fin 16) : (Row.pulseEdge n).Holds :=
  Clause.holds_of_goTime (fun dt s => (rfl : execPulseEdge dt n s = _)) fun u _ h => by
    simp only [timeUp_iff, Bool.and_eq_true] at h
    obtain ⟨⟨⟨hon, hpresent⟩, henabled⟩, hdue⟩ := h
    refine ⟨hon, hpresent, ?_⟩
    cases hnext : (u.pulse n.val).next with
    | none => simp [hnext] at hdue
    | some t =>
      simp only [hnext, decide_eq_true_eq] at hdue
      simp only [State.pulseEdge, hnext, if_pos (And.intro henabled hdue), State.pulseFire]

theorem triggerEdge_holds (n : Fin 8) : (Row.triggerEdge n).Holds :=
  Clause.holds_of_goTime (fun dt s => (rfl : execTriggerEdge dt n s = _)) fun u _ h => by
    simp only [timeUp_iff, Bool.and_eq_true, Bool.not_eq_true', bne_iff_ne, ne_eq, decide_eq_true_eq] at h
    obtain ⟨⟨⟨⟨⟨hon, hpresent⟩, henabled⟩, hperiod⟩, hlocal⟩, hdue⟩ := h
    refine ⟨hon, hpresent, ?_⟩
    rw [State.trigEdge, henabled, hlocal, if_neg (by simp [hperiod]), if_neg (by decide)]
    exact if_pos hdue

theorem localTriggerEdge_holds (n : Fin 8) : (Row.localTriggerEdge n).Holds :=
  Clause.holds_of_goTime (fun dt s => (rfl : execTriggerEdge dt n s = _)) fun u _ h => by
    simp only [timeUp_iff, Bool.and_eq_true, Bool.not_eq_true', bne_iff_ne, ne_eq] at h
    obtain ⟨⟨⟨⟨⟨⟨hon, hpresent⟩, henabled⟩, hperiod⟩, hlocal⟩, hfree⟩, hdue⟩ := h
    refine ⟨hon, hpresent, ?_⟩
    cases hnext : (u.trig n.val).localNext with
    | none => simp [hnext] at hdue
    | some t =>
      simp only [hnext, decide_eq_true_eq] at hdue
      simp [State.trigEdge, henabled, hperiod, hlocal, hnext, Nat.not_lt.2 hdue, hfree]

/-! ### Calendar and lifetime -/

theorem calendarWrite_holds : Row.calendarWrite.Holds :=
  Clause.holds_of_goTime (fun dt s => (rfl : execCalendarWrite dt s = _)) fun u _ h => by
    simp only [timeUp_iff, Bool.and_eq_true, Bool.or_eq_true, beq_iff_eq, bne_iff_ne] at h
    obtain ⟨⟨⟨hon, hpresent⟩, hlocked⟩, hdue⟩ := h
    exact ⟨hon, hpresent, if_pos ⟨hlocked, hdue⟩⟩

theorem vbkpRise_holds : Row.vbkpRise.Holds :=
  Clause.holds_of_goAny (fun dt s => (rfl : execVbkpRise dt s = _)) fun _ _ h => ⟨bne_iff_ne.1 h, rfl⟩

theorem lifetimeCommit_holds : Row.lifetimeCommit.Holds :=
  Clause.holds_of_goOn (fun dt s => (rfl : execLifetimeCommit dt s = _)) fun u _ h => by
    simp only [Bool.and_eq_true, decide_eq_true_eq] at h
    obtain ⟨⟨⟨hon, hdue⟩, hstore⟩, hpower⟩ := h
    exact ⟨hon, if_pos ⟨hdue, hstore, hpower⟩⟩

theorem commitNow_holds (sess : Nat) : (Row.commitNow sess).Holds :=
  asWrite_holds (fun _ _ => rfl) fun _ _ t _ => by
    rw [State.setObj_time (by decide) (by decide) not_one_zero]
    rfl

theorem thermalCycle_holds (temp : Int) : (Row.thermalCycle temp).Holds :=
  Clause.holds_of_goOn (fun dt s => (rfl : execThermalCycle dt temp s = _)) fun _ _ h => ⟨h, rfl⟩

/-- Settles O50. -/
theorem pulsesCalendarAndLedgerComplete : Obligations.PulsesCalendarAndLedgerComplete := by
  unfold Obligations.PulsesCalendarAndLedgerComplete
  exact ⟨pulseOn_holds, pulseOff_holds, pulseEdge_holds, triggerEdge_holds, localTriggerEdge_holds, calendarWrite_holds, vbkpRise_holds,
    lifetimeCommit_holds, commitNow_holds, thermalCycle_holds⟩

end Sys2Proof.Machine
end

section
/-! Chapter 13: oscillators, references, clock gating, power states, regulators and PMBus. -/

namespace Sys2Proof.Machine

/-! ### Oscillators and references (O51) -/

theorem ioscGood_holds (count : Fin 2048) : (Row.ioscGood count).Holds :=
  Clause.holds_of_goPower (fun dt s => (rfl : execIoscWindow dt count s = _)) fun u _ h => by
    simp only [Bool.and_eq_true, Bool.not_eq_true', decide_eq_true_eq] at h
    obtain ⟨⟨⟨hpow, hruns⟩, hlow⟩, hhigh⟩ := h
    refine ⟨hpow, ?_⟩
    unfold State.ioscWindow
    rw [if_neg (by simp [hruns])]
    dsimp only
    rw [if_pos ⟨hlow, hhigh⟩]
    split
    · rfl
    · split
      next hlost => rw [hlost, Option.isSome_some, if_pos rfl]
      next hlost => rw [hlost, Option.isSome_none, if_neg (by decide)]

theorem ioscBad_holds (count : Fin 2048) : (Row.ioscBad count).Holds :=
  Clause.holds_of_goPower (fun dt s => (rfl : execIoscWindow dt count s = _)) fun u _ h => by
    simp only [Bool.and_eq_true, Bool.or_eq_true, Bool.not_eq_true', decide_eq_true_eq] at h
    obtain ⟨⟨hpow, hruns⟩, hrange⟩ := h
    refine ⟨hpow, ?_⟩
    unfold State.ioscWindow
    rw [if_neg (by simp [hruns])]
    exact if_neg (by omega)

theorem ioscRequalify_holds : Row.ioscRequalify.Holds :=
  Clause.holds_of_goPower (fun dt s => (rfl : execIoscRequalify dt s = _)) fun u _ h => by
    simp only [Bool.and_eq_true, decide_eq_true_eq] at h
    obtain ⟨⟨hpow, hfailed⟩, hdue⟩ := h
    exact ⟨hpow, if_pos ⟨hfailed, hdue⟩⟩

theorem xtalGood_holds (count : Fin 512) : (Row.xtalGood count).Holds :=
  Clause.holds_of_goPower (fun dt s => (rfl : execXtalWindow dt count s = _)) fun u _ h => by
    simp only [Bool.and_eq_true, decide_eq_true_eq] at h
    obtain ⟨⟨⟨⟨hpow, hiosc⟩, hclock⟩, hlow⟩, hhigh⟩ := h
    refine ⟨hpow, ?_⟩
    unfold State.xtalWindow
    rw [if_neg (by simp [hiosc, hclock])]
    exact if_pos ⟨hlow, hhigh⟩

theorem referenceSelect_holds (sess : Nat) (value : BitVec 32) : (Row.referenceSelect sess value).Holds :=
  asWrite_holds (fun _ _ => rfl) fun _ hrow t _ => by
    rw [State.setObj_control (by decide) (by decide) (not_start_zero hrow rfl (by decide))]
    rfl

theorem clockEnableWrite_holds (sess : Nat) (clock : Fin 10) (value : Byte) : (Row.clockEnableWrite sess clock value).Holds :=
  recordWrite_holds_of_size (size := 1) (by decide +kernel)
    (fun dt s => by
      rw [Nat.one_mul]
      exact (rfl : execClockEnableWrite dt sess clock value s = _))
    fun t => by simp [State.putRecord]

theorem lossOfClock_holds (clock : Fin 10) : (Row.lossOfClock clock).Holds :=
  Clause.holds_of_goPower (fun dt s => (rfl : execLossOfClock dt clock s = _)) fun u _ h => by
    simp only [Bool.and_eq_true, Bool.or_eq_true, beq_iff_eq, Bool.not_eq_true'] at h
    obtain ⟨hpow, htrips⟩ := h
    refine ⟨hpow, ?_⟩
    unfold State.monitorTrip
    rw [if_pos (by simpa [or_assoc] using htrips), State.clockLoss]
    split
    · rfl
    · split
      · rfl
      · split
        · rfl
        · exact if_pos (by omega)

theorem pllsLocked_holds (clock : Fin 10) : (Row.pllsLocked clock).Holds :=
  Clause.holds_of_goPower (fun dt s => (rfl : execPllLocked dt clock s = _)) fun u _ h => by
    simp only [Bool.and_eq_true, bne_iff_ne, ne_eq, beq_iff_eq, Option.isSome_iff_exists] at h
    obtain ⟨⟨⟨hpow, hmain⟩, l, hlost⟩, hiosc⟩ := h
    exact ⟨hpow, by simp [State.pllLocked, hmain, hlost, hiosc]⟩

theorem pciePllLocked_holds : Row.pciePllLocked.Holds :=
  Clause.holds_of_goPower (fun dt s => (rfl : execPllLocked dt 9 s = _)) fun u _ h => by
    simp only [Bool.and_eq_true] at h
    exact ⟨h.1, if_pos h.2⟩

theorem fallbackTimeout_holds : Row.fallbackTimeout.Holds :=
  Clause.holds_of_goPower (fun dt s => (rfl : execFallbackTimeout dt s = _)) fun u _ h => by
    simp only [Bool.and_eq_true, beq_iff_eq] at h
    obtain ⟨⟨hpow, hxtal⟩, hdue⟩ := h
    refine ⟨hpow, ?_⟩
    cases hlost : u.power.lost with
    | none => simp [hlost] at hdue
    | some l =>
      simp only [hlost, Bool.and_eq_true, beq_iff_eq, decide_eq_true_eq] at hdue
      rw [State.fallbackEnds, hlost]
      exact if_pos ⟨hdue.1, hxtal, hdue.2⟩

theorem aoscFailure_holds : Row.aoscFailure.Holds :=
  Clause.holds_of_goPower (fun dt s => (rfl : execAoscFailure dt s = _)) fun u _ h => by
    simp only [Bool.and_eq_true, Bool.not_eq_true'] at h
    exact ⟨h.1, if_neg (by simp [h.2])⟩

/-- Settles O51. -/
theorem oscillatorsAndReferencesComplete : Obligations.OscillatorsAndReferencesComplete := by
  unfold Obligations.OscillatorsAndReferencesComplete
  exact ⟨ioscGood_holds, ioscBad_holds, ioscRequalify_holds, xtalGood_holds, referenceSelect_holds, clockEnableWrite_holds, lossOfClock_holds,
    pllsLocked_holds, pciePllLocked_holds, fallbackTimeout_holds, aoscFailure_holds⟩

/-! ### Power states (O52) -/

/-- A power command, by its number. -/
theorem powerCommand_holds {cmd : Nat → Instr} {sess v : Nat} {act : State → State} {ok : State → Bool}
    (hcmd : ∀ dt s, exec (cmd dt) s = goWrite dt sess 0x2005 2 v s) (hact : ∀ t : State, t.powerCommand v = act t) :
    (asWrite cmd sess 0x2005 2 v act ok).Holds :=
  asWrite_holds hcmd fun _ hrow t _ => by
    rw [State.setObj_control (by decide) (by decide) (not_start_zero hrow rfl (by decide)), ← hact]
    rfl

theorem sleepCommand_holds (sess : Nat) : (Row.sleepCommand sess).Holds := powerCommand_holds (fun _ _ => rfl) fun _ => rfl

theorem deepSleepCommand_holds (sess : Nat) : (Row.deepSleepCommand sess).Holds := powerCommand_holds (fun _ _ => rfl) fun _ => rfl

theorem offCommand_holds (sess : Nat) : (Row.offCommand sess).Holds := powerCommand_holds (fun _ _ => rfl) fun _ => rfl

theorem runCommand_holds (sess : Nat) : (Row.runCommand sess).Holds := powerCommand_holds (fun _ _ => rfl) fun _ => rfl

theorem pholdReleaseTimeout_holds : Row.pholdReleaseTimeout.Holds :=
  Clause.holds_of_goAny (fun dt s => (rfl : execPholdReleaseTimeout dt s = _)) fun u _ h => by
    simp only [Bool.and_eq_true, beq_iff_eq, decide_eq_true_eq] at h
    obtain ⟨hoff, hdue⟩ := h
    exact ⟨by simp [hoff], if_pos ⟨hoff, hdue⟩⟩

/-! ### Regulators -/

theorem supplyGoodRise_holds (pg : Fin 8) : (Row.supplyGoodRise pg).Holds :=
  Clause.holds_of_goPower (fun dt s => (rfl : execSupplyGoodRise dt pg s = _)) fun u _ h => by
    simp only [Bool.and_eq_true, Bool.not_eq_true'] at h
    obtain ⟨⟨hpow, hruns⟩, halive⟩ := h
    exact ⟨hpow, congrArg State.leaveDeepSleep (if_neg (by simp [hruns, halive]))⟩

theorem externalTimeout_holds : Row.externalTimeout.Holds :=
  Clause.holds_of_goPower (fun dt s => (rfl : execSequencingTimeout dt s = _)) fun u _ h => by
    simp only [Bool.and_eq_true, Bool.not_eq_true'] at h
    obtain ⟨⟨⟨hpow, hruns⟩, halive⟩, hdue⟩ := h
    refine ⟨hpow, ?_⟩
    cases htodo : u.power.todo with
    | nil => simp [htodo] at hdue
    | cons k rest =>
      simp only [htodo, Bool.and_eq_true, decide_eq_true_eq] at hdue
      simp [State.sequencingTimeout, htodo, hruns, halive, hdue.1, Nat.not_lt.2 hdue.2]

theorem coreTimeout_holds : Row.coreTimeout.Holds :=
  Clause.holds_of_goPower (fun dt s => (rfl : execSequencingTimeout dt s = _)) fun u _ h => by
    simp only [Bool.and_eq_true, Bool.not_eq_true'] at h
    obtain ⟨⟨⟨hpow, hruns⟩, halive⟩, hdue⟩ := h
    refine ⟨hpow, ?_⟩
    cases htodo : u.power.todo with
    | nil => simp [htodo] at hdue
    | cons k rest =>
      simp only [htodo, Bool.and_eq_true, decide_eq_true_eq] at hdue
      simp [State.sequencingTimeout, htodo, hruns, halive, Nat.not_le.2 hdue.1, Nat.not_lt.2 hdue.2]

theorem sequenceRetry_holds : Row.sequenceRetry.Holds :=
  Clause.holds_of_goPower (fun dt s => (rfl : execSequenceRetry dt s = _)) fun u _ h => by
    simp only [Bool.and_eq_true, Bool.not_eq_true'] at h
    obtain ⟨⟨hpow, hruns⟩, hdue⟩ := h
    refine ⟨hpow, ?_⟩
    cases hretry : u.power.retryAt with
    | none => simp [hretry] at hdue
    | some t =>
      simp only [hretry, decide_eq_true_eq] at hdue
      simp [State.sequenceRetry, hretry, hdue, hruns]

theorem supplyGoodLost_holds (pg : Fin 8) (ns : Nat) : (Row.supplyGoodLost pg ns).Holds :=
  Clause.holds_of_goPower (fun dt s => (rfl : execSupplyGoodLost dt pg ns s = _)) fun u _ h => by
    simp only [Bool.and_eq_true, Bool.not_eq_true', decide_eq_true_eq] at h
    obtain ⟨⟨hpow, hlong⟩, hruns⟩ := h
    exact ⟨hpow, if_neg (by simp [hruns, hlong])⟩

theorem pmbusPoll_holds (l : List PmbusRead) : (Row.pmbusPoll l).Holds :=
  Clause.holds_of_goPower (fun dt s => (rfl : execPmbusPoll dt l s = _)) fun u _ h => by
    simp only [Bool.and_eq_true, Bool.not_eq_true'] at h
    exact ⟨h.1, if_neg (by simp [h.2])⟩

theorem pmbusAlert_holds (rail : Fin 8) (status : BitVec 16) : (Row.pmbusAlert rail status).Holds :=
  Clause.holds_of_goPower (fun dt s => (rfl : execPmbusAlert dt rail status s = _)) fun u _ h => by
    simp only [Bool.and_eq_true, Bool.not_eq_true'] at h
    obtain ⟨⟨hpow, hruns⟩, hpmbus⟩ := h
    have hrail : ¬ 8 ≤ rail.val := by omega
    exact ⟨hpow, if_neg (by simp [hruns, hpmbus, hrail])⟩

/-! ### The VFAB rail -/

theorem vfabFault_holds : Row.vfabFault.Holds :=
  Clause.holds_of_goOn (fun dt s => (rfl : execVfabFault dt s = _)) fun u _ h => by
    simp only [Bool.and_eq_true, Bool.not_eq_true', Option.isNone_iff_eq_none] at h
    obtain ⟨⟨hon, hruns⟩, hthere⟩ := h
    refine ⟨hon, ?_⟩
    rw [if_neg (by simp [hruns])]
    exact if_neg (by simp [hthere])

theorem vfabBack_holds : Row.vfabBack.Holds :=
  Clause.holds_of_goOn (fun dt s => (rfl : execVfabRecoveryTimeout dt true s = _)) fun u _ h => by
    simp only [Bool.and_eq_true] at h
    obtain ⟨hon, hdue⟩ := h
    refine ⟨hon, ?_⟩
    cases hv : u.power.vfabAt with
    | none => simp [hv] at hdue
    | some t =>
      simp only [hv, decide_eq_true_eq] at hdue
      simp [State.vfabRecovery, hv, Nat.not_lt.2 hdue]

theorem vfabAway_holds : Row.vfabAway.Holds :=
  Clause.holds_of_goOn (fun dt s => (rfl : execVfabRecoveryTimeout dt false s = _)) fun u _ h => by
    simp only [Bool.and_eq_true] at h
    obtain ⟨hon, hdue⟩ := h
    refine ⟨hon, ?_⟩
    cases hv : u.power.vfabAt with
    | none => simp [hv] at hdue
    | some t =>
      simp only [hv, decide_eq_true_eq] at hdue
      simp [State.vfabRecovery, hv, hdue, State.standstill]

/-- Settles O52. -/
theorem powerStatesAndRegulatorsComplete : Obligations.PowerStatesAndRegulatorsComplete := by
  unfold Obligations.PowerStatesAndRegulatorsComplete
  exact ⟨sleepCommand_holds, deepSleepCommand_holds, offCommand_holds, runCommand_holds, pholdReleaseTimeout_holds, supplyGoodRise_holds,
    externalTimeout_holds, coreTimeout_holds, sequenceRetry_holds, supplyGoodLost_holds, pmbusPoll_holds, pmbusAlert_holds, vfabFault_holds,
    vfabBack_holds, vfabAway_holds⟩

end Sys2Proof.Machine
end

section
/-! Wakes, domains and the sleep sequence, control pairs and firmware, start-up (Chapters 14, 15 and 20). -/

namespace Sys2Proof.Machine

/-! ### Wakes (O53) -/

/-- A pulse clear of its filter is taken and draws nothing. -/
theorem State.pulseTaken_of_clear {s : State} {ns filter : Nat} (h : 11 * filter < 10 * ns) : s.pulseTaken ns filter = (true, s) := by
  rw [State.pulseTaken, if_neg (by omega), if_pos h]

theorem canWakePattern_holds (c : Fin 72) (dom1 rec_ dom2 : Nat) : (Row.canWakePattern c dom1 rec_ dom2).Holds :=
  Clause.holds_of_goAny (fun dt s => (rfl : execCanWakePattern dt c dom1 rec_ dom2 s = _)) fun u _ h => by
    simp only [Bool.and_eq_true, bne_iff_ne, ne_eq, decide_eq_true_eq, State.alive] at h
    obtain ⟨⟨⟨⟨⟨⟨⟨hmode, hpattern⟩, hdom1⟩, hdom2⟩, hclear1⟩, hclear2⟩, hclear3⟩, htime⟩ := h
    refine ⟨hmode, ?_⟩
    simp only [State.canPattern, hpattern, hdom1, hdom2, State.pulseTaken_of_clear hclear1, State.pulseTaken_of_clear hclear2,
      State.pulseTaken_of_clear hclear3, Bool.not_true, Bool.false_eq_true, if_false, ne_eq, not_false_eq_true, decide_true, if_true, Bool.and_self,
      true_and]
    exact if_pos htime

theorem partialPattern_holds (c : Fin 72) (dom1 rec_ : Nat) : (Row.partialPattern c dom1 rec_).Holds :=
  Clause.holds_of_goAny (fun dt s => (rfl : execCanWakePattern dt c dom1 rec_ 0 s = _)) fun u _ h => by
    simp only [Bool.and_eq_true, bne_iff_ne, ne_eq, decide_eq_true_eq, State.alive] at h
    obtain ⟨⟨⟨⟨hmode, hpattern⟩, hdom1⟩, hclear1⟩, hclear2⟩ := h
    refine ⟨hmode, ?_⟩
    simp only [State.canPattern, hpattern, hdom1, State.pulseTaken_of_clear hclear1, State.pulseTaken_of_clear hclear2, Bool.not_true,
      Bool.false_eq_true, if_false, ne_eq, not_false_eq_true, decide_true, if_true, Bool.and_self]
    rfl

theorem wakePatternTimeout_holds (c : Fin 72) : (Row.wakePatternTimeout c).Holds :=
  Clause.holds_of_goAny (fun dt s => (rfl : execWakePatternTimeout dt c s = _)) fun u _ h => by
    simp only [Bool.and_eq_true, bne_iff_ne, ne_eq, State.alive] at h
    obtain ⟨hmode, hdue⟩ := h
    refine ⟨hmode, ?_⟩
    cases hpart : mapGet u.wake.partial_ c.val with
    | none => simp [hpart] at hdue
    | some t =>
      simp only [hpart, decide_eq_true_eq] at hdue
      simp [State.patternTimeout, hpart, hdue]

theorem wakeFrame_holds (c : Fin 72) (bs : List Byte) : (Row.wakeFrame c bs).Holds :=
  Clause.holds_of_goAny (fun dt s => (rfl : execWakeFrame dt c bs s = _)) fun u _ h => by
    simp only [Bool.and_eq_true, bne_iff_ne, ne_eq, beq_iff_eq, State.alive] at h
    obtain ⟨⟨⟨hmode, hdecodes⟩, hwake⟩, hxtal⟩ := h
    exact ⟨hmode, if_neg (by simp [hdecodes, hwake, hxtal])⟩

theorem decoderError_holds (c : Fin 72) : (Row.decoderError c).Holds :=
  Clause.holds_of_goAny (fun dt s => (rfl : execDecoderError dt c true s = _)) fun u _ h => by
    simp only [Bool.and_eq_true, bne_iff_ne, ne_eq, beq_iff_eq, State.alive] at h
    obtain ⟨⟨⟨hmode, hdecodes⟩, hwake⟩, hxtal⟩ := h
    exact ⟨hmode, if_neg (by simp [hdecodes, hwake, hxtal])⟩

theorem linDominantWake_holds (l : Fin 24) (ns : Nat) : (Row.linDominantWake l ns).Holds :=
  Clause.holds_of_goAny (fun dt s => (rfl : execLinDominantWake dt l ns s = _)) fun u _ h => by
    simp only [Bool.and_eq_true, bne_iff_ne, ne_eq, beq_iff_eq, decide_eq_true_eq, State.alive] at h
    obtain ⟨⟨⟨⟨⟨hmode, hlong⟩, hdecodes⟩, hwake⟩, hdecodes'⟩, hwake'⟩ := h
    refine ⟨hmode, ?_⟩
    simp only [State.linDominant, hlong, and_true]
    refine if_pos ?_
    split
    · exact ⟨hdecodes', hwake'⟩
    · exact ⟨hdecodes, hwake⟩

theorem t1sActivityWake_holds (k : Fin 16) (ns : Nat) : (Row.t1sActivityWake k ns).Holds :=
  Clause.holds_of_goAny (fun dt s => (rfl : execT1sActivityWake dt k ns s = _)) fun u _ h => by
    rw [Bool.and_eq_true, Bool.and_eq_true, Bool.and_eq_true, Bool.and_eq_true] at h
    obtain ⟨⟨⟨⟨hmode, hasleep⟩, hon⟩, -⟩, hclear⟩ := h
    refine ⟨by simpa [State.alive] using hmode, ?_⟩
    rw [State.t1sActivity, if_neg (by simpa [Bool.or_eq_true, hasleep] using hon), State.pulseTaken_of_clear (by simpa using hclear)]
    rfl

theorem wakePinEdge_holds (pin : Fin 8) (level : Bool) (ns : Nat) : (Row.wakePinEdge pin level ns).Holds :=
  Clause.holds_of_goAny (fun dt s => (rfl : execWakePinEdge dt pin level ns s = _)) fun u _ h => by
    rw [Bool.and_eq_true, Bool.and_eq_true, Bool.and_eq_true] at h
    obtain ⟨⟨⟨hmode, hedge⟩, -⟩, hclear⟩ := h
    refine ⟨by simpa [State.alive] using hmode, ?_⟩
    rw [State.pinEdge, State.pulseTaken_of_clear (by simpa using hclear)]
    exact if_neg (by simpa using hedge)

/-- Settles O53. -/
theorem wakesAreLatched : Obligations.WakesAreLatched := by
  unfold Obligations.WakesAreLatched
  exact ⟨canWakePattern_holds, partialPattern_holds, wakePatternTimeout_holds, wakeFrame_holds, decoderError_holds, linDominantWake_holds,
    t1sActivityWake_holds, wakePinEdge_holds⟩

/-! ### Domains and the sleep sequence (O54) -/

theorem State.mode_run_of_inRun {u : State} (h : u.inRun = true) : u.mode = .run := by
  simpa [State.inRun] using h

theorem keepAliveReceived_holds (d : Fin 64) (port : Fin 160) (bytes : List Byte) : (Row.keepAliveReceived d port bytes).Holds :=
  Clause.holds_of_goPort (fun dt s => (rfl : execKeepAliveReceived dt d port bytes s = _)) fun u _ h => by
    simp only [Bool.and_eq_true] at h
    obtain ⟨⟨⟨hrun, hport⟩, halive⟩, hstation⟩ := h
    exact ⟨hport, hrun, if_neg (by simp [halive, hstation])⟩

theorem keepAliveTimeout_holds (d : Fin 64) : (Row.keepAliveTimeout d).Holds :=
  Clause.holds_of_goRun (fun dt s => (rfl : execKeepAliveTimeout dt d s = _)) fun u _ h => by
    simp only [Bool.and_eq_true, beq_iff_eq, decide_eq_true_eq] at h
    obtain ⟨⟨⟨hrun, hnm⟩, hready⟩, hdue⟩ := h
    exact ⟨hrun, if_pos ⟨hnm, hready, hdue⟩⟩

theorem prepareTimeout_holds (d : Fin 64) : (Row.prepareTimeout d).Holds :=
  Clause.holds_of_goRun (fun dt s => (rfl : execPrepareTimeout dt d s = _)) fun u _ h => by
    simp only [Bool.and_eq_true, beq_iff_eq, decide_eq_true_eq] at h
    obtain ⟨⟨⟨hrun, hnm⟩, hprepare⟩, hdue⟩ := h
    exact ⟨hrun, if_pos ⟨hnm, hprepare, hdue⟩⟩

theorem sendPeriod_holds (d : Fin 64) : (Row.sendPeriod d).Holds :=
  Clause.holds_of_goRun (fun dt s => (rfl : execSendPeriod dt d s = _)) fun u _ h => by
    simp only [Bool.and_eq_true, beq_iff_eq, decide_eq_true_eq] at h
    obtain ⟨⟨⟨hrun, hnm⟩, hawake⟩, hdue⟩ := h
    exact ⟨hrun, if_pos ⟨hnm, hawake, hdue⟩⟩

theorem wakeHoldExpiry_holds (d : Fin 64) : (Row.wakeHoldExpiry d).Holds :=
  Clause.holds_of_goRun (fun dt s => (rfl : execWakeHoldExpiry dt d s = _)) fun u _ h => by
    simp only [Bool.and_eq_true, beq_iff_eq, decide_eq_true_eq] at h
    obtain ⟨⟨⟨⟨hrun, hnm⟩, hawake⟩, hlocal⟩, hdue⟩ := h
    exact ⟨hrun, if_pos ⟨hnm, hawake, hlocal, hdue⟩⟩

/-- A write of a request that is served, and that the checks accept, answers abort code 0. -/
theorem State.asks_of_accepted {u : State} {sess idx sub off : Nat} {bs : List Byte} (hserves : u.serves sess idx = true)
    (hok : (u.write sess ((u.roleOf sess).getD 0) idx sub off bs).1 = 0) :
    u.awake = true ∧ u.asks sess idx sub off bs = (u.write sess ((u.roleOf sess).getD 0) idx sub off bs).2.emit (.answer sess 0 []) := by
  obtain ⟨role, hrole, hon, -, -, hserve⟩ := serves_spec hserves (.plain sess) (.write idx sub off bs) rfl
  simp only [hrole, Option.getD_some] at hok ⊢
  refine ⟨hon, ?_⟩
  rw [State.asks, hserve]
  simp only [State.access, State.reply, hok]

theorem domainBit_holds {cmd : Nat → Instr} {sess : Nat} {d : Fin 64} {b : Nat} {v : Bool}
    (hcmd : ∀ dt s, exec (cmd dt) s = goOn dt (fun s => s.putDomainBit sess d.val b v) s) : (Row.domainBit cmd sess d b v).Holds :=
  Clause.holds_of_goOn hcmd fun u _ h => by
    simp only [Bool.and_eq_true, beq_iff_eq] at h
    obtain ⟨hserves, hok⟩ := h
    exact State.asks_of_accepted hserves hok

theorem sleepSequenceStart_holds : Row.sleepSequenceStart.Holds :=
  Clause.holds_of_goRun (fun dt s => (rfl : execSleepSequenceStart dt s = _)) fun u _ h => by
    simp only [Bool.and_eq_true] at h
    obtain ⟨⟨hrun, hawake⟩, hagree⟩ := h
    exact ⟨hrun, if_pos ⟨State.mode_run_of_inRun hrun, hawake, hagree⟩⟩

theorem sleepQuiesceDone_holds : Row.sleepQuiesceDone.Holds :=
  Clause.holds_of_goOn (fun dt s => (rfl : execSleepQuiesceDone dt s = _)) fun u _ h => by
    simp only [Bool.and_eq_true] at h
    obtain ⟨hon, hcommitted⟩ := h
    exact ⟨hon, if_neg (by simp [hcommitted])⟩

/-- Settles O54. -/
theorem domainsAndSleepComplete : Obligations.DomainsAndSleepComplete := by
  unfold Obligations.DomainsAndSleepComplete
  exact ⟨keepAliveReceived_holds, keepAliveTimeout_holds, prepareTimeout_holds, sendPeriod_holds, wakeHoldExpiry_holds,
    fun sess d => domainBit_holds fun dt s => (rfl : execLocalRequest dt sess d s = _),
    fun sess d => domainBit_holds fun dt s => (rfl : execLocalRequestClear dt sess d s = _),
    fun sess d => domainBit_holds fun dt s => (rfl : execNmEnable dt sess d s = _),
    sleepSequenceStart_holds, sleepQuiesceDone_holds⟩

/-! ### Control pairs (O55) -/

theorem lockstepMismatch_holds (pair : Fin 3) (channel : Fin 5) : (Row.lockstepMismatch pair channel).Holds :=
  Clause.holds_of_goOn (fun dt s => (rfl : execLockstepMismatch dt pair channel s = _)) fun u _ h => by
    simp only [Bool.and_eq_true, Bool.not_eq_true', decide_eq_true_eq] at h
    obtain ⟨⟨⟨hon, hpresent⟩, hwhole⟩, hfew⟩ := h
    have hstate : u.carState (pairCarriage pair) = stPresent := by simpa [State.present, stPresent] using hpresent
    refine ⟨hon, ?_⟩
    rw [State.mismatch, if_neg (by simp [hstate, hwhole])]
    simp only [Nat.reduceEqDiff]
    exact if_neg (by omega)

theorem sequencerMismatch_holds (channel : Fin 5) : (Row.sequencerMismatch channel).Holds :=
  Clause.holds_of_goPower (fun dt s => (rfl : execSequencerMismatch dt channel s = _)) fun u _ h => by
    simp only [Bool.and_eq_true, Bool.not_eq_true'] at h
    obtain ⟨hpow, hruns⟩ := h
    refine ⟨hpow, ?_⟩
    simp only [State.sequencerMismatch, hruns, Bool.false_eq_true, if_false, Nat.reduceEqDiff]

theorem State.event_ctl (s : State) (src code d0 d1 d2 : Nat) : (s.event src code d0 d1 d2).ctl = s.ctl := by
  obtain ⟨_, _, _, h⟩ := State.event_rest s src code d0 d1 d2
  rw [h]

theorem State.wrF_ctl (s : State) (i a hi lo v : Nat) : (s.wrF i a hi lo v).ctl = s.ctl := rfl

theorem pairPresent_holds (pair : Fin 3) (bit us : Nat) (joinPass : Bool) : (Row.pairPresent pair bit us joinPass).Holds :=
  Clause.holds_of_goOn (fun dt s => (rfl : execPairPresent dt pair true bit us joinPass s = _)) fun u _ h => by
    rw [Bool.and_eq_true, Bool.and_eq_true, Bool.and_eq_true] at h
    obtain ⟨⟨⟨hon, hmeasured⟩, hidle⟩, hacting⟩ := h
    refine ⟨hon, ?_⟩
    have hkept (t : State) (ht : t.ctl = u.ctl) : (t.ctl.action.map fun a => decide (a.act = 3 ∨ a.act = 5 ∨ a.act = 6)) ≠ some true := by
      rw [ht, Option.isNone_iff_eq_none.1 hidle]
      simp
    cases hseq : u.seqOf (pairCarriage pair) with
    | none => simp [hseq] at hacting
    | some q =>
      simp only [hseq, beq_iff_eq] at hacting
      simp only [State.pairPresent, hseq, hacting, hmeasured, Bool.not_true, ne_eq, not_true_eq_false, Bool.false_eq_true, or_self,
        if_false, and_false, if_true, Bool.toNat_false]
      rw [if_neg fun h => hkept _ ?_ h.2]
      rw [State.wrF_ctl, State.wrF_ctl]
      split
      · rfl
      · rw [State.event_ctl, State.wrF_ctl]

theorem pairStartTimeout_holds (pair : Fin 3) : (Row.pairStartTimeout pair).Holds :=
  Clause.holds_of_goOn (fun dt s => (rfl : execPairStartTimeout dt pair s = _)) fun u _ h => by
    simp only [Bool.and_eq_true, Option.isNone_iff_eq_none] at h
    obtain ⟨⟨hon, hidle⟩, hlate⟩ := h
    refine ⟨hon, ?_⟩
    cases hseq : u.seqOf (pairCarriage pair) with
    | none => simp [hseq] at hlate
    | some q =>
      simp only [hseq, Bool.and_eq_true, beq_iff_eq, decide_eq_true_eq] at hlate
      obtain ⟨hacting, hlate⟩ := hlate
      simp [State.pairLate, hseq, hacting, Nat.not_lt.2 hlate, hidle]

/-! ### Firmware (O55) -/

/-- The action in the word of a firmware command (Table 15.3). -/
theorem fwWord_action {act : Nat} (hact : act < 8) (cover : Bool) : act + 256 * cover.toNat < 2 ^ 64 ∧ fld (act + 256 * cover.toNat) 2 0 = act := by
  have hcover := cover.toNat_le
  simp only [fld]
  constructor <;> omega

/-- A firmware action while no other runs: what the controller does for its action, on the state that holds the word. -/
theorem fwStart_holds {cmd : Nat → Instr} {sess act : Nat} {cover : Bool} {eff : State → State} {ok : State → Bool} (hact : act < 8)
    (hcmd : ∀ dt s, exec (cmd dt) s = goFirmware dt sess act cover s)
    (heff : ∀ t : State, t.rdF 0x1F00 1 2 0 = act → ok t = true → t.fwCommand = eff t) :
    (asStart cmd sess (Row.fwWords act cover) 0x1F00 2 eff ok).Holds :=
  asStart_holds hcmd (setObj_words (by simp only [Row.fwWords, List.map_cons, List.map_nil]; decide)) fun row _ u hcan hok => by
    obtain ⟨hv, haction⟩ := fwWord_action hact cover
    rw [State.setObj_control (by decide) (by decide) not_one_zero, State.putControl, if_pos (by decide)]
    exact heff _ ((State.stored_rdF hcan hv _ 2 0).trans haction) hok

/-- A firmware command goes by its action where none runs. -/
theorem State.fwCommand_idle {t : State} {act : Nat} (hact : t.rdF 0x1F00 1 2 0 = act) (hidle : t.ctl.action = none) :
    t.fwCommand =
      if act = 1 then
        ((t.wr 0x1F00 2 1).fwReport 1 (t.rdF 0x1F00 3 15 8)).withCtl fun c => { c with action := some ⟨1, 0, t.inactiveSlot, false, t.now⟩ }
      else if act = 2 then t.fwReport (t.checkImage t.inactiveSlot) (t.rdF 0x1F00 3 15 8)
      else if act = 3 then t.fwActivate
      else if act = 4 then (if t.inTrial then t.fwConfirm else t.fwReport 7 (t.rdF 0x1F00 3 15 8))
      else if t.inTrial then
        let v := (t.wr 0x1F00 2 1).stepPair ⟨5, 43, t.ctl.confirmed, t.rdB 0x1F00 1 8, t.now⟩ [43, 44, 45]
        match v.ctl.action with
        | some c => if c.step = 46 then v.fwFinish c else v
        | none => v
      else t.fwReport 7 (t.rdF 0x1F00 3 15 8) := by
  simp only [State.fwCommand, hact, hidle] <;> rfl

theorem fwErase_holds (sess : Nat) : (Row.fwErase sess).Holds :=
  fwStart_holds (by decide) (fun dt s => (rfl : execFwErase dt sess s = _)) fun t hact hidle => by
    rw [State.fwCommand_idle hact (Option.isNone_iff_eq_none.1 hidle), if_pos rfl]

theorem fwCheck_holds (sess : Nat) : (Row.fwCheck sess).Holds :=
  fwStart_holds (by decide) (fun dt s => (rfl : execFwCheck dt sess s = _)) fun t hact hidle => by
    rw [State.fwCommand_idle hact (Option.isNone_iff_eq_none.1 hidle), if_neg (by decide), if_pos rfl]

theorem fwActivate_holds (sess : Nat) (cover : Bool) : (Row.fwActivate sess cover).Holds :=
  fwStart_holds (by decide) (fun dt s => (rfl : execFwActivate dt sess cover s = _)) fun t hact hok => by
    simp only [Bool.and_eq_true, beq_iff_eq] at hok
    obtain ⟨hidle, hgood⟩ := hok
    rw [State.fwCommand_idle hact (Option.isNone_iff_eq_none.1 hidle), if_neg (by decide), if_neg (by decide), if_pos rfl]
    exact if_neg (by simp [hgood])

theorem fwConfirm_holds (sess : Nat) : (Row.fwConfirm sess).Holds :=
  fwStart_holds (by decide) (fun dt s => (rfl : execFwConfirm dt sess s = _)) fun t hact hok => by
    simp only [Bool.and_eq_true] at hok
    obtain ⟨hidle, htrial⟩ := hok
    rw [State.fwCommand_idle hact (Option.isNone_iff_eq_none.1 hidle)]
    exact if_pos htrial

theorem fwRevert_holds (sess : Nat) (cover : Bool) : (Row.fwRevert sess cover).Holds :=
  fwStart_holds (by decide) (fun dt s => (rfl : execFwRevert dt sess cover s = _)) fun t hact hok => by
    simp only [Bool.and_eq_true] at hok
    obtain ⟨hidle, htrial⟩ := hok
    rw [State.fwCommand_idle hact (Option.isNone_iff_eq_none.1 hidle)]
    exact if_pos htrial

theorem fwSlotRecordWrite_holds (sess : Nat) (rec_ : Fin 524288) (r : List Byte) : (Row.fwSlotRecordWrite sess rec_ r).Holds :=
  recordWrite_holds_of_size (by decide +kernel) (fun dt s => (rfl : execFwSlotRecordWrite dt sess rec_ r s = _)) fun t => by simp [State.putRecord]

theorem fwEraseDone_holds (ok : Bool) : (Row.fwEraseDone ok).Holds :=
  Clause.holds_of_goOn (fun dt s => (rfl : execFwEraseDone dt ok s = _)) fun u _ h => by
    rw [Bool.and_eq_true] at h
    obtain ⟨hon, herase⟩ := h
    refine ⟨hon, ?_⟩
    cases haction : u.ctl.action with
    | none => simp [haction] at herase
    | some a =>
      simp only [haction, beq_iff_eq] at herase
      cases ok
      · simp [State.eraseDone, haction, herase]
      · simp only [State.eraseDone, haction, herase]
        rfl

/-- Settles O55. -/
theorem pairsAndFirmwareComplete : Obligations.PairsAndFirmwareComplete := by
  unfold Obligations.PairsAndFirmwareComplete
  exact ⟨lockstepMismatch_holds, sequencerMismatch_holds, fwErase_holds, fwCheck_holds, fwActivate_holds, fwConfirm_holds, fwRevert_holds,
    fwEraseDone_holds, fwSlotRecordWrite_holds, pairPresent_holds, pairStartTimeout_holds⟩

/-! ### Start-up (O56) -/

theorem bistGroupEnd_holds (res : List (Nat × Nat × Nat × Nat × Nat)) : (Row.bistGroupEnd res).Holds :=
  Clause.holds_of_goRun (fun dt s => (rfl : execBistGroupEnd dt res s = _)) fun u _ h => by
    simp only [Bool.and_eq_true, decide_eq_true_eq, beq_iff_eq] at h
    obtain ⟨⟨hrun, hgroups⟩, htodo⟩ := h
    have hgroup : ¬ 6 < u.startup.groups + 1 := by omega
    exact ⟨hrun, if_neg (by simp [hgroup, State.mode_run_of_inRun hrun, htodo])⟩

theorem bootMeasurementDone_holds (station signal : Bool × Nat × Nat) : (Row.bootMeasurementDone station signal).Holds :=
  Clause.holds_of_goRun (fun dt s => (rfl : execBootMeasurementDone dt station signal s = _)) fun u _ h => by
    simp only [Bool.and_eq_true, Bool.not_eq_true', bne_iff_ne, ne_eq] at h
    obtain ⟨⟨⟨⟨⟨hrun, hfirst⟩, hgroups⟩, hlife⟩, hwarden⟩, hpulse⟩ := h
    exact ⟨hrun, if_neg (by simp [hfirst, State.mode_run_of_inRun hrun, hgroups, hlife, hwarden, hpulse])⟩

theorem forwardingPoint_holds : Row.forwardingPoint.Holds :=
  Clause.holds_of_goRun (fun dt s => (rfl : execForwardingPoint dt s = _)) fun u _ h => by
    simp only [Bool.and_eq_true, Bool.not_eq_true', decide_eq_true_eq] at h
    obtain ⟨⟨⟨⟨hrun, hfirst⟩, hmeasured⟩, hgroups⟩, hwarden⟩ := h
    refine ⟨hrun, if_neg ?_⟩
    simp [hfirst, hmeasured, Nat.not_lt.2 hgroups, State.mode_run_of_inRun hrun, hwarden]

theorem startupComplete_holds : Row.startupComplete.Holds :=
  Clause.holds_of_goRun (fun dt s => (rfl : execStartupComplete dt s = _)) fun u _ h => by
    simp only [Bool.and_eq_true, Bool.not_eq_true', decide_eq_true_eq] at h
    obtain ⟨⟨⟨hrun, hforward⟩, hopen⟩, hdue⟩ := h
    exact ⟨hrun, if_pos (by simp [hforward, State.mode_run_of_inRun hrun, hopen, hdue])⟩

/-- Settles O56. -/
theorem startUpStepsComplete : Obligations.StartUpStepsComplete := by
  unfold Obligations.StartUpStepsComplete
  exact ⟨bistGroupEnd_holds, bootMeasurementDone_holds, forwardingPoint_holds, startupComplete_holds⟩

end Sys2Proof.Machine
end
